-- ==== Sys2Proof/Word.lean ====
section
/-! DEFINITION. The word types of the Colrun 4 (R2): bytes, scalar words, 256-byte rows, latches and tile bodies.
Bit 0 is the least significant bit and multi-byte quantities are little-endian (R2), so a row is one bit vector
whose byte k is bits [8k+7:8k]. -/

namespace Sys2Proof

abbrev Byte := BitVec 8
/-- A 64-bit scalar word (G registers, record words). -/
abbrev Word := BitVec 64
/-- One 32-bit lane. -/
abbrev Lane := BitVec 32
/-- One 256-byte row: lane i is bytes 4i to 4i+3 (R52, R58). -/
abbrev Row := BitVec 2048
/-- One 1,024-byte Crema slot row: 256 FP32 columns (R66). -/
abbrev SlotRow := BitVec 8192
/-- The 32 KiB of a B latch: 128 rows (R71). -/
abbrev LatchBits := BitVec 262144
/-- The 1 KiB body of a tile register (R54). -/
abbrev TileBits := BitVec 8192
/-- One 8 KiB metadata entry (R72). -/
abbrev MetaBits := BitVec 65536
/-- A 64-byte record (R196). -/
abbrev RecordBits := BitVec 512

end Sys2Proof
end

