-- ==== Sys2Proof/Config.lean ====
section
/-! DEFINITION. What the manual leaves open, as constants without a body: no proof can see a value of them, so a
statement holds whatever they are (log entries 1, 2, 6, 7, 8, 9). -/

namespace Sys2Proof

/-- The free choice the scheduling step takes where the manual gives no order (R48, R124, R125): entry 1. -/
opaque Config.pick : Nat → Nat

/-- How many reference cycles an enabled step may be passed over (R48 promises an end and names no bound): entry 1. -/
opaque Config.patience : Nat

/-- A value the manual does not give, by kind and by the running counter of free values: entry 2. -/
opaque Config.freeWord : Nat → Nat → BitVec 64

/-- The correctly rounded transcendental where the model's bracket does not decide it (R118): entry 6.
Arguments: the function (0 FEXP2, 1 FLOG2, 2 FTANH), the operand, the rounding mode. -/
opaque Config.freeTranscendental : Nat → BitVec 32 → BitVec 2 → BitVec 32

/-- Cryptographic values (digests, certificates, signatures, measurements; R189, R190): entry 7. -/
opaque Config.crypto : Nat → Nat → BitVec 384

/-- A byte of the kernel binary a Farica translation produces (R323 leaves the translator its choice): entry 8. -/
opaque Config.faricaByte : Nat → Nat → BitVec 8

/-- Perotte's enterprise number (R187 does not state it): entry 7. -/
opaque Config.enterpriseNumber : BitVec 32

/-- The hash that binds a peer to a sub-port (R183 does not state it): entry 7. -/
opaque Config.subPortHash : Nat → Nat

/-- Which of two stored values a sparse pass takes when both name one position (R72 does not state it): entry 9. -/
opaque Config.equalPositions : Bool

end Sys2Proof
end

