-- ==== Sys2Proof/Machine/Flags.lean ====
section
/-! DEFINITION. Number formats, rounding and flags (R99–R110, R113, R117–R119): every floating-point result is an
exact value rounded once, and every flag computation is here. -/

namespace Sys2Proof.Machine

/-! ## Sticky flags (R119) -/

abbrev FlagBits := BitVec 6
def flIV : FlagBits := 1
def flDZ : FlagBits := 2
def flOF : FlagBits := 4
def flUF : FlagBits := 8
def flNX : FlagBits := 16
def flSAT : FlagBits := 32

/-- A flag when the condition holds. -/
def flIf (b : Bool) (f : FlagBits) : FlagBits := if b then f else 0

/-! ## Modes (R53) -/

/-- Rounding modes of R105. -/
inductive Rm where
  | rne | rz | ru | rd
  deriving DecidableEq, Repr

def rmOf (m : BitVec 2) : Rm :=
  match m.toNat with
  | 0 => .rne | 1 => .rz | 2 => .ru | _ => .rd

/-- A mode: RM, SATN, FTZ (R53). -/
structure FMode where
  rm  : Rm
  sat : Bool
  ftz : Bool
  deriving DecidableEq, Repr

/-- The fields of a 4-bit mode value (R53). -/
def modeOf (m : BitVec 4) : FMode := ⟨rmOf (m.extractLsb' 0 2), m.getLsbD 2, m.getLsbD 3⟩

/-! ## Formats (R99, R100) -/

/-- Exponent bits, mantissa bits, bias, and whether all-ones exponents are infinities and NaNs (not so in E4M3). -/
structure Fmt where
  eb   : Nat
  mb   : Nat
  bias : Nat
  ieee : Bool
  deriving DecidableEq, Repr

def e4m3 : Fmt := ⟨4, 3, 7, false⟩
def e5m2 : Fmt := ⟨5, 2, 15, true⟩
def bf16 : Fmt := ⟨8, 7, 127, true⟩
def fp32 : Fmt := ⟨8, 23, 127, true⟩

/-- The width of a format. -/
def Fmt.bits (f : Fmt) : Nat := 1 + f.eb + f.mb

/-- Exponent of the smallest normal. -/
def Fmt.emin (f : Fmt) : Int := 1 - (f.bias : Int)

/-- A value: a NaN (signalling or not), an infinity, or ±m · 2^e (R99). -/
inductive Fp where
  | nan (sig : Bool)
  | inf (neg : Bool)
  | num (neg : Bool) (m : Nat) (e : Int)
  deriving DecidableEq, Repr

/-- The value of an encoding (R99, R100). -/
def decodeFp (f : Fmt) (w : Nat) : Fp :=
  let m := w % 2 ^ f.mb
  let ex := w / 2 ^ f.mb % 2 ^ f.eb
  let neg := w / 2 ^ (f.mb + f.eb) % 2 = 1
  let top := 2 ^ f.eb - 1
  if ex = top && (f.ieee || m = 2 ^ f.mb - 1) then
    (if f.ieee && m = 0 then .inf neg else .nan (f.ieee && f.mb != 2 && m / 2 ^ (f.mb - 1) = 0))
  else if ex = 0 then .num neg m (f.emin - f.mb)
  else .num neg (2 ^ f.mb + m) ((ex : Int) - f.bias - f.mb)

/-- The canonical NaN (R100). -/
def canonNaN (f : Fmt) : Nat :=
  if f.ieee then (2 ^ f.eb - 1) * 2 ^ f.mb + 2 ^ (f.mb - 1) else 2 ^ (f.eb + f.mb) - 1

def signBit (f : Fmt) (neg : Bool) : Nat := if neg then 2 ^ (f.eb + f.mb) else 0

def infBits (f : Fmt) (neg : Bool) : Nat := signBit f neg + (2 ^ f.eb - 1) * 2 ^ f.mb

/-- The largest finite encoding (R100). -/
def maxFinite (f : Fmt) : Nat := if f.ieee then (2 ^ f.eb - 1) * 2 ^ f.mb - 1 else 2 ^ (f.eb + f.mb) - 2

/-- The encoding of ±m · 2^e, m below 2^(mb+1), in the format's range. -/
def encodeNum (f : Fmt) (neg : Bool) (m : Nat) (e : Int) : Nat :=
  if m < 2 ^ f.mb then signBit f neg + m
  else signBit f neg + (e + f.mb + f.bias).toNat * 2 ^ f.mb + (m - 2 ^ f.mb)

/-! ## RoundTo (R105, R107, R104) -/

/-- m · 2^−k rounded to an integer in a mode, and whether it was inexact. -/
def roundShift (rm : Rm) (neg : Bool) (m k : Nat) : Nat × Bool :=
  let q := m / 2 ^ k
  let r := m % 2 ^ k
  if r = 0 then (q, false)
  else
    let up := match rm with
      | .rne => 2 ^ k < 2 * r || (2 ^ k = 2 * r && q % 2 = 1)
      | .rz => false
      | .ru => !neg
      | .rd => neg
    (if up then q + 1 else q, true)

/-- The result of an overflow (R105). -/
def overflow (f : Fmt) (rm : Rm) (sat neg : Bool) : Nat × FlagBits :=
  let towards := match rm with
    | .rne => true
    | .rz => false
    | .ru => !neg
    | .rd => neg
  if sat then (signBit f neg + maxFinite f, flSAT ||| flNX)
  else if towards then (if f.ieee then infBits f neg else canonNaN f, flOF ||| flNX)
  else (signBit f neg + maxFinite f, flOF ||| flNX)

/-- ±m · 2^e rounded to a format: first with an unbounded exponent, then within the format's limits (R105); tininess
is judged after that rounding (R107), and FTZ replaces a tiny result by zero (R104). -/
def roundTo (f : Fmt) (rm : Rm) (sat ftz neg : Bool) (m : Nat) (e : Int) : Nat × FlagBits :=
  if m = 0 then (signBit f neg, 0)
  else
    let len := m.log2 + 1
    let k := len - (f.mb + 1)
    let (q, ix) := roundShift rm neg m k
    let e' := e + k
    if (q.log2 : Int) + e' < f.emin then
      if ftz then (signBit f neg, flUF ||| flNX)
      else
        let k' := (f.emin - f.mb - e).toNat
        let m' := m * 2 ^ (e - (f.emin - f.mb)).toNat
        let (q', ix') := roundShift rm neg m' k'
        (signBit f neg + q', flIf ix' (flUF ||| flNX))
    else
      let q1 := q * 2 ^ (f.mb - q.log2)
      let ex := (q.log2 : Int) + e' + f.bias
      let w := ex.toNat * 2 ^ f.mb + (if q.log2 ≤ f.mb then q1 - 2 ^ f.mb else 0)
      if maxFinite f < w then overflow f rm sat neg else (signBit f neg + w, flIf ix flNX)

/-- A value rounded to a format, NaNs and infinities included: without infinities an infinite value is a NaN with IV,
or saturates (R106). -/
def roundFp (f : Fmt) (md : FMode) (x : Fp) : Nat × FlagBits :=
  match x with
  | .nan sig => (canonNaN f, flIf sig flIV)
  | .inf neg =>
    if f.ieee then (infBits f neg, 0)
    else if md.sat then (signBit f neg + maxFinite f, flSAT ||| flNX) else (canonNaN f, flIV)
  | .num neg m e => roundTo f md.rm md.sat md.ftz neg m e

/-- An input under FTZ: a subnormal of its own format is zero of the same sign (R104). -/
def readFp (f : Fmt) (ftz : Bool) (w : Nat) : Fp :=
  match decodeFp f w with
  | .num neg m e => if ftz && m < 2 ^ f.mb then .num neg 0 e else .num neg m e
  | x => x

/-! ## Exact operations (R102, R103): the value and the flags of an invalid operation -/

/-- The flags of NaN operands: IV for a signalling one (R102). -/
def Fp.sigFl : Fp → FlagBits
  | .nan true => flIV
  | _ => 0

def Fp.isNaN : Fp → Bool
  | .nan _ => true
  | _ => false

def Fp.isZero : Fp → Bool
  | .num _ 0 _ => true
  | _ => false

def Fp.neg : Fp → Fp
  | .inf s => .inf !s
  | .num s m e => .num (!s) m e
  | x => x

/-- The exact sum as sign and magnitude, with the sign of a zero by R103. -/
def addNum (rm : Rm) (na : Bool) (ma : Nat) (ea : Int) (nb : Bool) (mb : Nat) (eb : Int) : Fp :=
  let e := min ea eb
  let a := ma * 2 ^ (ea - e).toNat
  let b := mb * 2 ^ (eb - e).toNat
  if na = nb then .num na (a + b) e
  else if a = b then .num (rm = .rd) 0 e
  else if b < a then .num na (a - b) e else .num nb (b - a) e

/-- a + b. A quiet NaN operand gives a quiet NaN. -/
def fpAdd (rm : Rm) (a b : Fp) : Fp × FlagBits :=
  match a, b with
  | .nan _, _ | _, .nan _ => (.nan false, a.sigFl ||| b.sigFl)
  | .inf s, .inf t => if s = t then (.inf s, 0) else (.nan false, flIV)
  | .inf s, _ => (.inf s, 0)
  | _, .inf t => (.inf t, 0)
  | .num na ma ea, .num nb mb eb => (addNum rm na ma ea nb mb eb, 0)

/-- a × b. -/
def fpMul (a b : Fp) : Fp × FlagBits :=
  match a, b with
  | .nan _, _ | _, .nan _ => (.nan false, a.sigFl ||| b.sigFl)
  | .inf s, .inf t => (.inf (s != t), 0)
  | .inf s, .num t m _ => if m = 0 then (.nan false, flIV) else (.inf (s != t), 0)
  | .num s m _, .inf t => if m = 0 then (.nan false, flIV) else (.inf (s != t), 0)
  | .num s ma ea, .num t mb eb => (.num (s != t) (ma * mb) (ea + eb), 0)

/-- a × b + c, exact (R102, R118). -/
def fpFma (rm : Rm) (a b c : Fp) : Fp × FlagBits :=
  match fpMul a b with
  | (.nan _, fl) => (.nan false, fl ||| c.sigFl)
  | (p, _) => fpAdd rm p c

/-- The bits a quotient or root keeps before its sticky bit. -/
def guardBits : Nat := 40

/-- a / b to more bits than any format keeps, with a sticky last bit (R118). An infinity by zero sets no DZ (log entry 117). -/
def fpDiv (a b : Fp) : Fp × FlagBits :=
  match a, b with
  | .nan _, _ | _, .nan _ => (.nan false, a.sigFl ||| b.sigFl)
  | .inf s, .num t _ _ => (.inf (s != t), 0)
  | .inf _, .inf _ => (.nan false, flIV)
  | .num s _ _, .inf t => (.num (s != t) 0 0, 0)
  | .num s ma ea, .num t mb eb =>
    if mb = 0 then (if ma = 0 then (.nan false, flIV) else (.inf (s != t), flDZ))
    else
      let k := guardBits + mb.log2
      let q := ma * 2 ^ k / mb
      let r := ma * 2 ^ k % mb
      (.num (s != t) (2 * q + (if r = 0 then 0 else 1)) (ea - eb - k - 1), 0)

/-- The integer square root, bit by bit from bit i down. -/
def isqrtAux (n : Nat) : Nat → Nat → Nat
  | 0, r => if (r + 1) * (r + 1) ≤ n then r + 1 else r
  | i + 1, r => isqrtAux n i (if (r + 2 ^ (i + 1)) * (r + 2 ^ (i + 1)) ≤ n then r + 2 ^ (i + 1) else r)

def isqrt (n : Nat) : Nat := isqrtAux n (n.log2 / 2 + 1) 0

/-- The square root with a sticky last bit (R118). -/
def fpSqrt (a : Fp) : Fp × FlagBits :=
  match a with
  | .nan sig => (.nan false, flIf sig flIV)
  | .inf true => (.nan false, flIV)
  | .inf false => (.inf false, 0)
  | .num s m e =>
    if m = 0 then (.num s 0 e, 0)
    else if s then (.nan false, flIV)
    else
      let odd := e % 2 != 0
      let m' := (if odd then 2 * m else m) * 2 ^ (2 * guardBits)
      let e' := (if odd then e - 1 else e) / 2 - guardBits
      let r := isqrt m'
      (.num false (2 * r + (if r * r = m' then 0 else 1)) (e' - 1), 0)

/-- 1 / a (R118). -/
def fpRcp (a : Fp) : Fp × FlagBits := fpDiv (.num false 1 0) a

/-- 1 / √a with a sticky last bit (R118). -/
def fpRsq (a : Fp) : Fp × FlagBits :=
  match a with
  | .nan sig => (.nan false, flIf sig flIV)
  | .inf true => (.nan false, flIV)
  | .inf false => (.num false 0 0, 0)
  | .num s m e =>
    if m = 0 then (.inf s, flDZ)
    else if s then (.nan false, flIV)
    else
      let odd := e % 2 != 0
      let m' := if odd then 2 * m else m
      let e' := (if odd then e - 1 else e) / 2
      let k := guardBits + m'.log2
      let n := 2 ^ (2 * k)
      let r := isqrt (n / m')
      (.num false (2 * r + (if r * r * m' = n then 0 else 1)) (-(k : Int) - e' - 1), 0)

/-! ## The transcendentals (R118): a bracket of the exact value, both ends rounded -/

/-- Fraction bits of the brackets. -/
def trBits : Nat := 256

/-- ⌊log₂ e · 2^256⌋. -/
def log2e : Nat := 167052672916848388242985626561247531987276682633131050150846402744536260568207

/-- ⌊2^(2^−i) · 2^256⌋ for i = 1, 2, …, each the root of the one before. -/
def rootsOfTwo : Nat → Nat → List Nat
  | 0, _ => []
  | n + 1, c => let r := isqrt (c * 2 ^ trBits)
    r :: rootsOfTwo n r

def exp2Roots : List Nat := rootsOfTwo 160 (2 ^ (trBits + 1))

/-- A bracket of 2^f, f = n · 2^−256 below 1: the product of the roots of the bits of f; each of the 160 steps loses
at most two units of the last place, which the upper end adds. -/
def exp2Frac (n : Nat) : Nat × Nat :=
  let rec go (i : Nat) (roots : List Nat) (acc : Nat) : Nat :=
    match roots with
    | [] => acc
    | r :: rs => go (i + 1) rs (if n.testBit (trBits - 1 - i) then acc * r / 2 ^ trBits else acc)
  let lo := go 0 exp2Roots (2 ^ trBits)
  (lo, lo + 4096 + (if n % 2 ^ 96 = 0 then 0 else 2 ^ 98))

/-- The rounding of a value that lies strictly between two dyadics: the common rounding of both ends, or none. -/
def roundBracket (md : FMode) (neg : Bool) (lo hi : Nat) (e : Int) : Option (Nat × FlagBits) :=
  let a := roundTo fp32 md.rm false md.ftz neg (2 * lo + 1) (e - 1)
  let b := roundTo fp32 md.rm false md.ftz neg (2 * hi - 1) (e - 1)
  if a = b then some a else none

def freeTr (fn : Nat) (md : FMode) (x : Nat) : Nat × FlagBits :=
  let rm : BitVec 2 := match md.rm with
    | .rne => 0 | .rz => 1 | .ru => 2 | .rd => 3
  ((Config.freeTranscendental fn (BitVec.ofNat 32 x) rm).toNat, flNX)

/-- m · 2^e as a fixed-point number of 256 fraction bits, truncated. -/
def toFixed (m : Nat) (e : Int) : Nat := m * 2 ^ (e + trBits).toNat / 2 ^ (-(e + trBits)).toNat

/-- FEXP2 (R118). -/
def fExp2 (md : FMode) (x : Nat) : Nat × FlagBits :=
  match readFp fp32 md.ftz x with
  | .nan sig => (canonNaN fp32, flIf sig flIV)
  | .inf false => (infBits fp32 false, 0)
  | .inf true => (0, 0)
  | .num s m e =>
    let n := toFixed m e
    if 2 ^ (trBits + 9) ≤ n then roundTo fp32 md.rm false md.ftz false 3 (if s then -1000 else 1000)
    else
      -- x = i + f with f = n' · 2^−256 in [0, 1)
      let (i, n') : Int × Nat :=
        if !s then (n / 2 ^ trBits, n % 2 ^ trBits)
        else if n % 2 ^ trBits = 0 then (-(n / 2 ^ trBits : Nat), 0)
        else (-(n / 2 ^ trBits : Nat) - 1, 2 ^ trBits - n % 2 ^ trBits)
      if n' = 0 then roundTo fp32 md.rm false md.ftz false 1 i
      else
        let (lo, hi) := exp2Frac n'
        (roundBracket md false lo hi (i - trBits)).getD (freeTr 0 md x)

/-- Digits of log₂ of y · 2^−256 in [1, 2) by repeated squaring, rounding each square down or up. -/
def log2Digits (up : Bool) : Nat → Nat → Nat → Nat
  | 0, _, acc => acc
  | k + 1, y, acc =>
    let sq := if up then (y * y + 2 ^ trBits - 1) / 2 ^ trBits else y * y / 2 ^ trBits
    if 2 ^ (trBits + 1) ≤ sq then log2Digits up k (if up then (sq + 1) / 2 else sq / 2) (2 * acc + 1)
    else log2Digits up k sq (2 * acc)

/-- FLOG2 (R118). -/
def fLog2 (md : FMode) (x : Nat) : Nat × FlagBits :=
  match readFp fp32 md.ftz x with
  | .nan sig => (canonNaN fp32, flIf sig flIV)
  | .inf false => (infBits fp32 false, 0)
  | .inf true => (canonNaN fp32, flIV)
  | .num s m e =>
    if m = 0 then (infBits fp32 true, flDZ)
    else if s then (canonNaN fp32, flIV)
    else
      let l := m.log2
      let i : Int := e + l
      if m = 2 ^ l then roundTo fp32 md.rm false md.ftz (i < 0) i.natAbs 0
      else
        let y := m * 2 ^ (trBits - l)
        let d := 120
        let lo := log2Digits false d y 0
        let hi := log2Digits true d y 0 + 1
        -- log₂ x = i + [lo, hi] · 2^−120
        let a : Int := i * 2 ^ d + lo
        let b : Int := i * 2 ^ d + hi
        if 0 ≤ a then (roundBracket md false a.toNat b.toNat (-(d : Int))).getD (freeTr 1 md x)
        else (roundBracket md true (-b).toNat (-a).toNat (-(d : Int))).getD (freeTr 1 md x)

/-- FTANH (R118): close to 0 the value lies just below |x|, far from 0 just below 1, and between it is
(2^(2x log₂ e) − 1) / (2^(2x log₂ e) + 1). -/
def fTanh (md : FMode) (x : Nat) : Nat × FlagBits :=
  match readFp fp32 md.ftz x with
  | .nan sig => (canonNaN fp32, flIf sig flIV)
  | .inf s => (signBit fp32 s + 0x3F800000, 0)
  | .num s m e =>
    if m = 0 then (signBit fp32 s, 0)
    else
      let n := toFixed m e
      if n < 2 ^ (trBits - 12) then roundTo fp32 md.rm false md.ftz s (m * 2 ^ 60 - 1) (e - 60)
      else if 2 ^ (trBits + 5) ≤ n then roundTo fp32 md.rm false md.ftz s (2 ^ 80 - 1) (-80)
      else
        let t := 2 * n * log2e / 2 ^ trBits
        let (lo, hi0) := exp2Frac (t % 2 ^ trBits)
        -- 2x log₂ e exceeds t · 2^−256 by less than 2^−240
        let hi := hi0 + 2 ^ 20
        let k := t / 2 ^ trBits
        let one := 2 ^ trBits
        let el := lo * 2 ^ k
        let eh := hi * 2 ^ k
        let a := (el - one) * 2 ^ trBits / (el + one)
        let b := (eh - one) * 2 ^ trBits / (eh + one) + 1
        (roundBracket md s a b (-(trBits : Int))).getD (freeTr 2 md x)

/-! ## FP32 lane operations (R245–R247) -/

/-- An exact result and its flags, rounded to FP32 with s = 0. -/
def finish32 (md : FMode) (x : Fp × FlagBits) : Lane × FlagBits :=
  let (w, fl) := roundFp fp32 { md with sat := false } x.1
  (BitVec.ofNat 32 w, x.2 ||| fl)

def rd32 (md : FMode) (a : Lane) : Fp := readFp fp32 md.ftz a.toNat

def fAdd (md : FMode) (a b : Lane) : Lane × FlagBits := finish32 md (fpAdd md.rm (rd32 md a) (rd32 md b))
def fSub (md : FMode) (a b : Lane) : Lane × FlagBits := finish32 md (fpAdd md.rm (rd32 md a) (rd32 md b).neg)
def fMul (md : FMode) (a b : Lane) : Lane × FlagBits := finish32 md (fpMul (rd32 md a) (rd32 md b))
def fDiv (md : FMode) (a b : Lane) : Lane × FlagBits := finish32 md (fpDiv (rd32 md a) (rd32 md b))
def fSqrt (md : FMode) (a : Lane) : Lane × FlagBits := finish32 md (fpSqrt (rd32 md a))
def fRcp (md : FMode) (a : Lane) : Lane × FlagBits := finish32 md (fpRcp (rd32 md a))
def fRsq (md : FMode) (a : Lane) : Lane × FlagBits := finish32 md (fpRsq (rd32 md a))
/-- a × b + c, a × b − c, c − a × b. -/
def fFma (md : FMode) (a b c : Lane) : Lane × FlagBits :=
  finish32 md (fpFma md.rm (rd32 md a) (rd32 md b) (rd32 md c))
def fFms (md : FMode) (a b c : Lane) : Lane × FlagBits :=
  finish32 md (fpFma md.rm (rd32 md a) (rd32 md b) (rd32 md c).neg)
def fNma (md : FMode) (a b c : Lane) : Lane × FlagBits :=
  finish32 md (fpFma md.rm (rd32 md a).neg (rd32 md b) (rd32 md c))

def laneOf (x : Nat × FlagBits) : Lane × FlagBits := (BitVec.ofNat 32 x.1, x.2)

/-- Is a lane an FP32 NaN? -/
def isNaN32 (a : Lane) : Bool := 0x7F800000 < a.toNat % 2 ^ 31
def isSNaN32 (a : Lane) : Bool := isNaN32 a && !a.getLsbD 22
def nan32 : Lane := 0x7FC00000

/-- Order of FP32 numbers as an integer, −0 just below +0 (R103). -/
def ordKey (a : Lane) : Int := if a.msb then -(a.toNat % 2 ^ 31 : Nat) - 1 else a.toNat

/-- A lane as an ordering operation reads it: flushed under FTZ (R104). -/
def flush32 (md : FMode) (a : Lane) : Lane :=
  if md.ftz && a.toNat % 2 ^ 31 < 2 ^ 23 then a &&& 0x80000000 else a

/-- FMIN and FMAX (R103): exact. -/
def fMinMax (isMax : Bool) (md : FMode) (a0 b0 : Lane) : Lane × FlagBits :=
  let a := flush32 md a0
  let b := flush32 md b0
  let fl := flIf (isSNaN32 a || isSNaN32 b) flIV
  if isNaN32 a then (if isNaN32 b then nan32 else b, fl)
  else if isNaN32 b then (a, fl)
  else if isMax then (if ordKey a < ordKey b then b else a, fl)
  else (if ordKey b < ordKey a then b else a, fl)

/-- FABS, FNEG, FCPS act on the sign alone (R102, R245). -/
def fAbs (a : Lane) : Lane × FlagBits := (if isNaN32 a then nan32 else a &&& 0x7FFFFFFF, 0)
def fNeg (a : Lane) : Lane × FlagBits := (if isNaN32 a then nan32 else a ^^^ 0x80000000, 0)
def fCps (a b : Lane) : Lane × FlagBits :=
  (if isNaN32 a || isNaN32 b then nan32 else (a &&& 0x7FFFFFFF) ||| (b &&& 0x80000000), 0)

/-- The ordered comparisons of R103. -/
inductive FCmp where
  | eq | lt | le | un
  deriving DecidableEq, Repr

/-- A lane's value for comparison: zeros equal. -/
def cmpKey (a : Lane) : Int := if a.msb then -(a.toNat % 2 ^ 31 : Nat) else a.toNat

def fCmp (c : FCmp) (md : FMode) (a0 b0 : Lane) : Bool × FlagBits :=
  let a := flush32 md a0
  let b := flush32 md b0
  let nan := isNaN32 a || isNaN32 b
  let snan := isSNaN32 a || isSNaN32 b
  match c with
  | .eq => (!nan && cmpKey a = cmpKey b, flIf snan flIV)
  | .lt => (!nan && cmpKey a < cmpKey b, flIf nan flIV)
  | .le => (!nan && cmpKey a ≤ cmpKey b, flIf nan flIV)
  | .un => (nan, flIf snan flIV)

/-- FCLS: the one-hot class (R247). -/
def fCls (a : Lane) : Lane :=
  let mag := a.toNat % 2 ^ 31
  let neg := a.msb
  let bit :=
    if 0x7F800000 < mag then (if a.getLsbD 22 then 9 else 8)
    else if mag = 0x7F800000 then (if neg then 0 else 7)
    else if mag = 0 then (if neg then 3 else 4)
    else if mag < 2 ^ 23 then (if neg then 2 else 5)
    else (if neg then 1 else 6)
  BitVec.ofNat 32 (2 ^ bit)

/-- A number rounded to an integral value: sign, magnitude, inexact. -/
def integral (rm : Rm) (neg : Bool) (m : Nat) (e : Int) : Nat × Bool :=
  if 0 ≤ e then (m * 2 ^ e.toNat, false) else roundShift rm neg m (-e).toNat

/-- FFLOOR and FRINT (R246): ±0 and ±∞ unchanged, a NaN canonical; the sign of a zero result is the operand's. -/
def fIntegral (rm : Rm) (nx : Bool) (md : FMode) (a : Lane) : Lane × FlagBits :=
  match rd32 md a with
  | .nan sig => (nan32, flIf sig flIV)
  | .inf _ => (a, 0)
  | .num neg m e =>
    let (q, ix) := integral rm neg m e
    (BitVec.ofNat 32 (roundTo fp32 .rz false false neg q 0).1, flIf (ix && nx) flNX)

def fFloor (md : FMode) (a : Lane) : Lane × FlagBits := fIntegral .rd false md a
def fRint (md : FMode) (a : Lane) : Lane × FlagBits := fIntegral md.rm true md a

/-- FFRAC (R246): RoundTo(a − ⌊a⌋); an integral a gives +0, an infinity the canonical NaN with IV. -/
def fFrac (md : FMode) (a : Lane) : Lane × FlagBits :=
  match rd32 md a with
  | .nan sig => (nan32, flIf sig flIV)
  | .inf _ => (nan32, flIV)
  | .num neg m e =>
    if 0 ≤ e then (0, 0)
    else
      let k := (-e).toNat
      let r := m % 2 ^ k
      let f := if neg && r != 0 then 2 ^ k - r else r
      laneOf (roundTo fp32 md.rm false md.ftz false f e)

/-- FSCAL (R246): a × 2^b, b an I32; beyond ±1,000 the exponent no longer matters. -/
def fScal (md : FMode) (a b : Lane) : Lane × FlagBits :=
  match rd32 md a with
  | .nan sig => (nan32, flIf sig flIV)
  | .inf s => (BitVec.ofNat 32 (infBits fp32 s), 0)
  | .num neg m e => laneOf (roundTo fp32 md.rm false md.ftz neg m (e + max (-1000) (min 1000 b.toInt)))

/-! ## Conversions (R108–R110, R246, R251) -/

/-- A float of one format rounded into another (R108). -/
def convert (src dst : Fmt) (md : FMode) (w : Nat) : Nat × FlagBits := roundFp dst md (readFp src md.ftz w)

/-- A float widened exactly to FP32 (R108); FTZ still flushes a subnormal input of its own format (R104). -/
def widen (src : Fmt) (ftz : Bool) (w : Nat) : Lane × FlagBits :=
  laneOf (roundFp fp32 ⟨.rne, false, false⟩ (readFp src ftz w))

/-- FP32 to a signed or unsigned 32-bit integer (R109). -/
def toInt32 (signed : Bool) (md : FMode) (a : Lane) : Lane × FlagBits :=
  let bad : Lane := if signed then 0x80000000 else 0
  let hi : Int := if signed then 2 ^ 31 - 1 else 2 ^ 32 - 1
  let lo : Int := if signed then -2 ^ 31 else 0
  let clampTo (v : Int) : Lane × FlagBits :=
    if md.sat then (BitVec.ofInt 32 v, flSAT ||| flNX) else (bad, flIV)
  match rd32 md a with
  | .nan _ => if md.sat then (0, flIV) else (bad, flIV)
  | .inf neg => clampTo (if neg then lo else hi)
  | .num neg m e =>
    if 64 ≤ e then (if m = 0 then (0, 0) else clampTo (if neg then lo else hi))
    else
      let (q, ix) := integral md.rm neg m e
      let v : Int := if neg then -(q : Int) else q
      if hi < v then clampTo hi else if v < lo then clampTo lo else (BitVec.ofInt 32 v, flIf ix flNX)

/-- A 32-bit integer to FP32 (R109). -/
def ofInt32 (signed : Bool) (md : FMode) (a : Lane) : Lane × FlagBits :=
  let v : Int := if signed then a.toInt else a.toNat
  laneOf (roundTo fp32 md.rm false md.ftz (v < 0) v.natAbs 0)

/-- CVTI8 (R110, R119). -/
def toInt8 (uns : Bool) (md : FMode) (a : Lane) : Nat × FlagBits :=
  let v := a.toInt
  let lo : Int := if uns then 0 else -128
  let hi : Int := if uns then 255 else 127
  if md.sat then
    (if v < lo then ((lo % 256).toNat, flSAT ||| flNX) else if hi < v then ((hi % 256).toNat, flSAT ||| flNX)
      else ((v % 256).toNat, 0))
  else (a.toNat % 256, 0)

/-- FCVTR: rounded to a smaller format and widened back (R246). -/
def fCvtr (f : Fmt) (md : FMode) (a : Lane) : Lane × FlagBits :=
  let (w, fl) := convert fp32 f md a.toNat
  ((widen f false w).1, fl)

/-- QSC: |a| / Q rounded to FP32, with its special inputs (R254). -/
def fQsc (q : Nat) (md : FMode) (a : Lane) : Lane × FlagBits :=
  match rd32 md a with
  | .nan sig => (nan32, flIf sig flIV)
  | .inf _ => (nan32, flIV)
  | .num _ m e => if m = 0 then (0x3F800000, 0) else finish32 md (fpDiv (.num false m e) (.num false q 0))

/-! ## BF16 pairs (R248, R118) -/

def rdBf (md : FMode) (w : Nat) : Fp := readFp bf16 md.ftz w

/-- An FP32 result rounded once, then rounded to BF16 with s = 0. -/
def finishBf (md : FMode) (x : Fp × FlagBits) : Nat × FlagBits :=
  let md0 := { md with sat := false }
  let (w, fl) := roundFp fp32 md0 x.1
  let (h, fl') := roundFp bf16 md0 (decodeFp fp32 w)
  (h, x.2 ||| fl ||| fl')

def hAdd (md : FMode) (a b : Nat) : Nat × FlagBits := finishBf md (fpAdd md.rm (rdBf md a) (rdBf md b))
def hMul (md : FMode) (a b : Nat) : Nat × FlagBits := finishBf md (fpMul (rdBf md a) (rdBf md b))
def hFma (md : FMode) (a b c : Nat) : Nat × FlagBits :=
  finishBf md (fpFma md.rm (rdBf md a) (rdBf md b) (rdBf md c))

/-- HMAX and HMIN: R103 on BF16, which orders as its FP32 value does. -/
def hMinMax (isMax : Bool) (md : FMode) (a b : Nat) : Nat × FlagBits :=
  let (w, fl) := fMinMax isMax md (BitVec.ofNat 32 (a * 65536)) (BitVec.ofNat 32 (b * 65536))
  (w.toNat / 65536, fl)

/-! ## Integer lanes (R249, R250) -/

/-- Bytes added with a clamp (R250). -/
def byteAdd (signed : Bool) (a b : Nat) : Nat × FlagBits :=
  if signed then
    let v := (BitVec.ofNat 8 a).toInt + (BitVec.ofNat 8 b).toInt
    if v < -128 then (128, flSAT) else if 127 < v then (127, flSAT) else ((v % 256).toNat, 0)
  else if 255 < a + b then (255, flSAT) else (a + b, 0)

end Sys2Proof.Machine
end

