-- ==== Sys2Proof/Syntax.lean ====
section
/-! DEFINITION. The instructions of the Colrun 4 as data: one constructor of `Instr` for every row of
spec/opcode_table.json. Rows 0–299 are records and bundle slots (R196–R205, R330) and carry the decoded fields of
their encoding; rows 300–422 are the device's own steps and the requests of the outside world
(95_what_each_step_holds.md) and carry what the step is about. -/

namespace Sys2Proof

/-- A logical cell, 64·die + 8·row + column (R9). -/
abbrev CellId := Fin 128
/-- A gang, named by the logical number of its origin cell (R19). -/
abbrev GangId := Fin 128

/-- The four engines in the ENG encoding (R196), which is also the issue order of R6. -/
inductive Eng where
  | cc | ve | me | se
  deriving DecidableEq, Repr

/-- The access paths of the ordering machine in bit order (R61, R123, R132). -/
inductive Path where
  | cq | mp | sp | yp | np
  deriving DecidableEq, Repr

/-- A PRED or SPRED field (R196, R197, R202): no predicate, or P[n], inverted or not. -/
inductive Pred where
  | always
  | p (inv : Bool) (n : Fin 16)
  deriving DecidableEq, Repr

/-- The four signed strides of a descriptor (R199). -/
structure Strides where
  s0 : BitVec 16
  s1 : BitVec 16
  s2 : BitVec 16
  s3 : BitVec 16
  deriving DecidableEq, Repr

def Strides.zero : Strides := ⟨0, 0, 0, 0⟩

/-- The operand descriptors of R199 to R201, one constructor for each KIND. -/
inductive Opnd where
  /-- KIND 0 -/
  | absent
  /-- KIND 1: V register, write mask KM, third source XEN/XNUM -/
  | v (n : Fin 32) (km : Fin 8) (xen : Bool) (xnum : Fin 32) (st : Strides)
  /-- KIND 2: LQ head -/
  | lq (n : Fin 4) (pop : Bool)
  /-- KIND 3: SQ tail -/
  | sq (n : Fin 2)
  /-- KIND 4: immediate -/
  | imm (w : BitVec 32)
  /-- KIND 5: tile row -/
  | zrow (n : Fin 4) (i : BitVec 4) (st : Strides)
  /-- KIND 6: tile column -/
  | zcol (n : Fin 4) (i : BitVec 4) (st : Strides)
  /-- KIND 7: mask register -/
  | k (n : Fin 8) (st : Strides)
  /-- KIND 8: park index -/
  | park (p : BitVec 6) (st : Strides)
  /-- KIND 9: scratchpad row, with GREG register or without -/
  | sp (g : Option (Fin 32)) (row : BitVec 15) (st : Strides)
  /-- KIND 10: half-row -/
  | hr (g : Option (Fin 32)) (h : BitVec 16) (st : Strides)
  /-- KIND 11: ring or arrival-word location; the use decides which BASE bits are defined (R61, R287) -/
  | ring (base : BitVec 32)
  /-- KIND 12: tensor with coordinate registers -/
  | tensor (tid : BitVec 12) (sdim : BitVec 8) (c0 c1 c2 c3 : Fin 32) (st : Strides)
  /-- KIND 13: Crema key -/
  | ck (g : Option (Fin 32)) (tile : BitVec 16) (label : BitVec 12) (st : Strides)
  /-- KIND 14: MQ head or tail -/
  | mq (n : Fin 2) (pop : Bool)
  deriving DecidableEq, Repr

/-- A decoded record other than the control records: header fields, nest and three operands (R196–R199). -/
structure Rec where
  stamp : BitVec 24
  pred  : Pred
  mod   : BitVec 5
  nest  : BitVec 64
  o0    : Opnd
  o1    : Opnd
  o2    : Opnd
  deriving DecidableEq, Repr

/-- A BNDL: stamp, predicate and the seven slot words (R202). -/
structure Bundle where
  stamp : BitVec 24
  pred  : Pred
  s0    : BitVec 64
  s1    : BitVec 64
  s2    : BitVec 64
  s3    : BitVec 64
  s4    : BitVec 64
  s5    : BitVec 64
  s6    : BitVec 64
  deriving DecidableEq, Repr

/-- The fields of one slot (R202) below its OP8. -/
structure Slot where
  imm   : Bool
  dst   : Fin 32
  sa    : Fin 32
  sb    : Fin 32
  spred : Pred
  sz    : BitVec 2
  imm32 : BitVec 32
  deriving DecidableEq, Repr

/-- SEGE (R204). `succ` holds W4–W7: successor k is bits [32k+31:32k]. -/
structure SegeRec where
  stamp : BitVec 24
  len   : BitVec 25
  sig   : BitVec 32
  segid : BitVec 16
  nsucc : BitVec 4
  dsel  : BitVec 3
  dflt  : BitVec 3
  succ  : BitVec 256
  deriving DecidableEq, Repr

/-- FORK (R204): offsets and enables of VE, ME and SE. -/
structure ForkRec where
  stamp : BitVec 24
  voff  : BitVec 32
  moff  : BitVec 32
  soff  : BitVec 32
  fen   : BitVec 3
  deriving DecidableEq, Repr

/-- RDV (R204): JEN bits 0 VE, 1 ME, 2 SE. -/
structure RdvRec where
  stamp : BitVec 24
  jen   : BitVec 3
  deriving DecidableEq, Repr

/-- BRK (R218). -/
structure BrkRec where
  stamp : BitVec 24
  idx   : Fin 8
  deng  : Eng
  deriving DecidableEq, Repr

/-- PHAS (R178). -/
structure PhasRec where
  stamp : BitVec 24
  fmin  : BitVec 16
  fmax  : BitVec 16
  deriving DecidableEq, Repr

/-- What the hardware raises a freeze request ahead of need for (R44). -/
inductive Ahead where
  | text (off : Nat)
  | seSpace
  | crds (uid : Nat)
  deriving DecidableEq, Repr

/-- A disposition of a stopped fault (R345, R352). -/
inductive Choice where
  | hardware | resume | preempt | kill | debugger
  deriving DecidableEq, Repr

/-- Why a save is requested (R152, R161, R398). -/
inductive SaveCause where
  | victim | quantum | host | firmware | emergency
  deriving DecidableEq, Repr

/-- What the management protocol reads back: the layout word and the dropped banks (R98), SELFDEV (R96), a PORTCFG (R182), the time
input's lock, offset and sub-port (R185), what a kernel's header asks for of rows and slots (R208), the deprecated records of a gang (R331), and
a die's temperature (R181). -/
inductive MgmtRead where
  | layout
  | droppedBanks
  | selfdev
  | portcfg (p : Fin 2)
  | clock
  | kernel (asid : BitVec 10) (tid : BitVec 12) (off : Nat)
  | depcnt (g : GangId)
  | tj (die : Fin 2)
  deriving DecidableEq, Repr

/-- A management access to a register with no row of its own (R96, R98, R149, R182, R185, R191, R208, R331, R351, R390): a write, or
the reading of one. -/
inductive MgmtWrite where
  | read (what : MgmtRead)
  | forwardingTimeout (ms : Nat)
  | selfdev (d : BitVec 12)
  | peer (dev : BitVec 12) (valid : Bool) (ip : BitVec 128) (port : BitVec 16)
  | queueAsids (q : Fin 64) (asid : BitVec 10) (member : Bool)
  | saveTarget (registered : Bool)
  | remoteHost (registered : Bool)
  | advk (asid : BitVec 10) (k : Nat)
  | tensorTable (asid : BitVec 10) (addr : Nat)
  | subscribe (sess : Nat) (asid : Option (BitVec 10)) (minSev : Nat)
  | clientAsids (client : Nat) (asid : BitVec 10) (member : Bool)
  | freqTarget (mhz : Nat)
  deriving DecidableEq, Repr

/-- A field of a context image that the debug server may name (R164, R192, R368). -/
inductive ImageField where
  | g (n : Fin 32)
  | p (n : Fin 16)
  | bPiece (n : Fin 4) (k : Fin 32)
  | d (n : Fin 4)
  | v (n : Fin 32) (lane : Fin 64)
  | k (n : Fin 8)
  | tshape (n : Fin 4)
  | vmode | cmode | vflags | mflags | cflags | slipw | spillbase | spilllen | sestat
  | spByte (addr : Nat)
  | cremaByte (addr : Nat)
  | pc (e : Eng)
  | tick | sig
  | flight (idx : Nat)
  /-- any byte of the member's image, by its offset -/
  | imageByte (off : Nat)
  deriving DecidableEq, Repr

/-- A crossing that calibration found failed: the cell behind it by die, row and physical column, and the kind of link
(R172, R387, R396). -/
structure FailedCrossing where
  die  : Fin 2
  row  : Fin 8
  pcol : Fin 9
  link : Fin 4
  deriving DecidableEq, Repr

/-- An object with its two signatures (R189), one RSA-3072 and one SLH-DSA: the root slot each names, the slot whose hash the key it
carries has (none where it has that of no slot), whether it verifies under that key, and the object's security version. -/
structure SignedObject where
  rsaSlot : Fin 4
  slhSlot : Fin 4
  rsaKey  : Option (Fin 4)
  slhKey  : Option (Fin 4)
  rsaGood : Bool
  slhGood : Bool
  version : Nat
  deriving DecidableEq, Repr

/-- What boot reads (R188, R189): another failure of a stage (0 for none), the manufacturing record with its bypasses in the form of the
signature (R10) and its revocation bits (RSA slots, then SLH-DSA slots), the crossings that calibration finds failed, the firmware
image, and an HBM stack that fails its test. -/
structure BootInput where
  failStage : Nat
  signature : BitVec 64
  failed    : List FailedCrossing
  record    : SignedObject
  revoked   : BitVec 8
  image     : SignedObject
  lost      : Option (Fin 12)
  deriving DecidableEq, Repr

/-- Where a slip beyond one tick is detected (R397). -/
inductive SlipPlace where
  | hop (c : CellId)
  | bridge
  deriving DecidableEq, Repr

/-- A holder of a page copy: a die of a device (R92). -/
structure Holder where
  die : Fin 2
  dev : BitVec 12
  deriving DecidableEq, Repr

/-- A bank of the HBM (R84, R85). -/
structure BankId where
  stack : Fin 12
  chan  : Fin 32
  pc    : Fin 2
  bank  : Fin 64
  deriving DecidableEq, Repr

/-- The atomic operations in the OPC order of R311. -/
inductive AtOp where
  | add | inc | badd | cas | swp | min | max | and | or | xor | snap
  deriving DecidableEq, Repr

/-- What an inbound fabric frame asks for (R96, R309–R311): bytes to write or elements to add, with their poison; an update of an
arrival word in device memory (R148); a read; an atomic; a message's rows; the invalidation of a copy held of the sender's
frame (R92). -/
inductive FrameBody where
  | write (addr : Nat) (bytes : List Byte) (tag : Bool) (chan : Option (BitVec 10))
  | add (addr fmt : Nat) (rm : BitVec 2) (bytes : List Byte) (tag : Bool)
  | count (addr n : Nat)
  | read (addr : Nat) (len : Nat)
  | atomic (addr : Nat) (op : AtOp) (w32 sgn : Bool) (v x : BitVec 64)
  | message (chan : BitVec 10) (rows : List (Row × Bool))
  | invalidate (frame : Nat)
  deriving DecidableEq, Repr

/-- One fabric frame from a peer device (R96). -/
structure Frame where
  fid  : Nat
  dev  : BitVec 12
  body : FrameBody
  deriving DecidableEq, Repr

/-- Every instruction, device step and outside request of spec/opcode_table.json: the records (rows 0–8 and
104–299), the device's steps and requests (rows 300–422), the slot operations (rows 9–103). -/
inductive Instr where
  /-- BNDL (R202): A CC bundle record issues at its stamp; its up to seven slot operations read their sources at issue and act in parallel under the bundle limits. -/
  | bndl (b : Bundle)
  /-- QLDS (R217): A CC queue-stream record issues; each expansion pushes one stepped scratchpad row into an LQ as a QLD does. -/
  | qlds (r : Rec)
  /-- QSTS (R217): A CC queue-stream record issues; each expansion takes the SQ head and writes it to one stepped scratchpad row as a QST does. -/
  | qsts (r : Rec)
  /-- SEGE (R34): The segment-end record at LEN − 1 checks the segment, chooses a successor by DSEL or default, or ends the tile task when it has no successors. -/
  | sege (r : SegeRec)
  /-- FORK (R30): Starts the named VE, ME and SE sequencers at their text offsets on every cell of the gang at the FORK tick. -/
  | fork (r : ForkRec)
  /-- RDV (R31): Stops the named VE, ME and SE sequencers after their records due at the RDV tick, raising a freeze request if the SE queue has not drained. -/
  | rdv (r : RdvRec)
  /-- BRK (R218): A breakpoint record raises a debug-stop request and issues its displaced record from the breakpoint table at its stamp. -/
  | brk (r : BrkRec)
  /-- NOPR (R219): Occupies one CC issue slot and enters the signature with no other effect. -/
  | nopr (stamp : BitVec 24)
  /-- PHAS (R178): Begins a new phase with the declared frequency band, visible in PHBAND from the next tick and taken into the power manager's permitted set. -/
  | phas (r : PhasRec)
  /-- VNOP (R244): Occupies a VE issue slot per expansion with no effect. -/
  | vnop (r : Rec)
  /-- FADD (R245): Per-lane FP32 addition rounded under RM. -/
  | fadd (r : Rec)
  /-- FSUB (R245): Per-lane FP32 subtraction. -/
  | fsub (r : Rec)
  /-- FMUL (R245): Per-lane FP32 multiplication. -/
  | fmul (r : Rec)
  /-- FFMA (R245): Per-lane fused a × b + c rounded once. -/
  | ffma (r : Rec)
  /-- FFMS (R245): Per-lane fused a × b − c rounded once. -/
  | ffms (r : Rec)
  /-- FNMA (R245): Per-lane fused c − a × b rounded once. -/
  | fnma (r : Rec)
  /-- FMIN (R245): Per-lane FP32 minimum under R103. -/
  | fmin (r : Rec)
  /-- FMAX (R245): Per-lane FP32 maximum under R103. -/
  | fmax (r : Rec)
  /-- FABS (R245): Clears the sign of each lane. -/
  | fabs (r : Rec)
  /-- FNEG (R245): Inverts the sign of each lane. -/
  | fneg (r : Rec)
  /-- FCPS (R245): Takes the magnitude of a with the sign of b. -/
  | fcps (r : Rec)
  /-- FDIV (R245): Per-lane FP32 division. -/
  | fdiv (r : Rec)
  /-- FSQRT (R245): Per-lane FP32 square root. -/
  | fsqrt (r : Rec)
  /-- FRCP (R245): Per-lane reciprocal. -/
  | frcp (r : Rec)
  /-- FRSQ (R245): Per-lane reciprocal square root. -/
  | frsq (r : Rec)
  /-- FEXP2 (R245): Per-lane 2^a. -/
  | fexp2 (r : Rec)
  /-- FLOG2 (R245): Per-lane base-2 logarithm. -/
  | flog2 (r : Rec)
  /-- FTANH (R245): Per-lane hyperbolic tangent. -/
  | ftanh (r : Rec)
  /-- FFLOOR (R246): Per-lane floor to an integral value. -/
  | ffloor (r : Rec)
  /-- FRINT (R246): Per-lane rounding to an integral value under RM. -/
  | frint (r : Rec)
  /-- FCMPEQ (R247): Per-lane FP32 equality compare into a K or V destination. -/
  | fcmpeq (r : Rec)
  /-- FCMPLT (R247): Per-lane FP32 less-than compare. -/
  | fcmplt (r : Rec)
  /-- FCMPLE (R247): Per-lane FP32 less-or-equal compare. -/
  | fcmple (r : Rec)
  /-- FCMPUN (R247): Per-lane unordered compare. -/
  | fcmpun (r : Rec)
  /-- FCLS (R247): Writes the one-hot class of each lane. -/
  | fcls (r : Rec)
  /-- FSCAL (R246): Per-lane a × 2^b with b an I32. -/
  | fscal (r : Rec)
  /-- FFRAC (R246): Per-lane fractional part a − floor(a). -/
  | ffrac (r : Rec)
  /-- FCVTR (R246): Rounds each lane to BF16, E4M3 or E5M2 and widens back to FP32. -/
  | fcvtr (r : Rec)
  /-- HADD (R248): BF16 pair addition per element. -/
  | hadd (r : Rec)
  /-- HMUL (R248): BF16 pair multiplication. -/
  | hmul (r : Rec)
  /-- HFMA (R248): BF16 pair fused multiply-add. -/
  | hfma (r : Rec)
  /-- HMAX (R248): BF16 pair maximum. -/
  | hmax (r : Rec)
  /-- HMIN (R248): BF16 pair minimum. -/
  | hmin (r : Rec)
  /-- IADD (R249): Per-lane 32-bit wrapping addition. -/
  | iadd (r : Rec)
  /-- ISUB (R249): Per-lane 32-bit wrapping subtraction. -/
  | isub (r : Rec)
  /-- IMUL (R249): Per-lane low 32 bits of the product. -/
  | imul (r : Rec)
  /-- IMULHS (R249): Per-lane high 32 bits of the signed product. -/
  | imulhs (r : Rec)
  /-- IMULHN (R249): Per-lane high 32 bits of the unsigned product. -/
  | imulhn (r : Rec)
  /-- IMINS (R249): Per-lane signed minimum. -/
  | imins (r : Rec)
  /-- IMAXS (R249): Per-lane signed maximum. -/
  | imaxs (r : Rec)
  /-- IMINN (R249): Per-lane unsigned minimum. -/
  | iminn (r : Rec)
  /-- IMAXN (R249): Per-lane unsigned maximum. -/
  | imaxn (r : Rec)
  /-- IAND (R249): Per-lane bitwise AND. -/
  | iand (r : Rec)
  /-- IOR (R249): Per-lane bitwise OR. -/
  | ior (r : Rec)
  /-- IXOR (R249): Per-lane bitwise exclusive OR. -/
  | ixor (r : Rec)
  /-- IANDN (R249): Per-lane a AND NOT b. -/
  | iandn (r : Rec)
  /-- ISHL (R249): Per-lane shift left by b mod 32. -/
  | ishl (r : Rec)
  /-- ISHRL (R249): Per-lane logical shift right. -/
  | ishrl (r : Rec)
  /-- ISHRA (R249): Per-lane arithmetic shift right. -/
  | ishra (r : Rec)
  /-- IABS (R249): Per-lane signed absolute value. -/
  | iabs (r : Rec)
  /-- ICMPEQ (R249): Per-lane integer equality compare. -/
  | icmpeq (r : Rec)
  /-- ICMPLTS (R249): Per-lane signed less-than compare. -/
  | icmplts (r : Rec)
  /-- ICMPLTN (R249): Per-lane unsigned less-than compare. -/
  | icmpltn (r : Rec)
  /-- ICLZ (R249): Per-lane leading-zero count. -/
  | iclz (r : Rec)
  /-- IPOPC (R249): Per-lane set-bit count. -/
  | ipopc (r : Rec)
  /-- IMAD (R249): Per-lane a × b + c, low 32 bits. -/
  | imad (r : Rec)
  /-- ISXT (R250): Sign-extends a byte or half field of each lane. -/
  | isxt (r : Rec)
  /-- IZXT (R250): Zero-extends a byte or half field of each lane. -/
  | izxt (r : Rec)
  /-- BITREV (R250): Reverses the bits of each lane. -/
  | bitrev (r : Rec)
  /-- BADDS (R250): Adds bytes as I8 with clamping. -/
  | badds (r : Rec)
  /-- BADDN (R250): Adds bytes as N8 with clamping. -/
  | baddn (r : Rec)
  /-- CVTFI (R251): Converts FP32 lanes to I32. -/
  | cvtfi (r : Rec)
  /-- CVTFN (R251): Converts FP32 lanes to N32. -/
  | cvtfn (r : Rec)
  /-- CVTIF (R251): Converts I32 lanes to FP32. -/
  | cvtif (r : Rec)
  /-- CVTNF (R251): Converts N32 lanes to FP32. -/
  | cvtnf (r : Rec)
  /-- CVTFH (R251): Narrows FP32 lanes to BF16 in one half of the lane. -/
  | cvtfh (r : Rec)
  /-- CVTHF (R251): Widens the BF16 in one half of each lane to FP32. -/
  | cvthf (r : Rec)
  /-- CVTF8 (R251): Narrows FP32 lanes to E4M3 or E5M2 in one byte. -/
  | cvtf8 (r : Rec)
  /-- CVT8F (R251): Widens one 8-bit float byte of each lane to FP32. -/
  | cvt8f (r : Rec)
  /-- CVTI8 (R251): Narrows I32 lanes to I8 or N8 in one byte. -/
  | cvti8 (r : Rec)
  /-- CVT8I (R251): Widens one byte of each lane as I8 or N8. -/
  | cvt8i (r : Rec)
  /-- QMAX (R253): Writes the largest magnitude over the included lanes to every active lane. -/
  | qmax (r : Rec)
  /-- QSC (R254): Computes per lane the block scale |a|/Q for a target format. -/
  | qsc (r : Rec)
  /-- MOVV (R255): Moves a vector register or queue head unchanged. -/
  | movv (r : Rec)
  /-- VMOVI (R255): Writes an immediate, or an immediate plus lane index, to every lane. -/
  | vmovi (r : Rec)
  /-- VSEL (R255): Selects a or b per lane by a mask. -/
  | vsel (r : Rec)
  /-- PERM (R256): Permutes lanes from a 128-lane table by index. -/
  | perm (r : Rec)
  /-- ROTM (R257): Joins two rows and rotates the concatenation by k bytes. -/
  | rotm (r : Rec)
  /-- BCLN (R258): Broadcasts lane L to every lane. -/
  | bcln (r : Rec)
  /-- COMP (R258): Compacts the included lanes into the low lanes. -/
  | comp (r : Rec)
  /-- EXPD (R258): Expands low lanes into the included lanes. -/
  | expd (r : Rec)
  /-- LUT16 (R258): Looks up a 16-entry table indexed by a nibble of each lane. -/
  | lut16 (r : Rec)
  /-- KAND (R259): Bitwise AND of two masks. -/
  | kand (r : Rec)
  /-- KOR (R259): Bitwise OR of two masks. -/
  | kor (r : Rec)
  /-- KXOR (R259): Bitwise exclusive OR of two masks. -/
  | kxor (r : Rec)
  /-- KNOT (R259): Bitwise NOT of a mask. -/
  | knot (r : Rec)
  /-- KPOPC (R259): Writes the set-bit count of a mask to every active lane. -/
  | kpopc (r : Rec)
  /-- KFIRST (R259): Keeps only the lowest set bit of a mask. -/
  | kfirst (r : Rec)
  /-- KMOV (R259): Moves between masks, vectors and immediates. -/
  | kmov (r : Rec)
  /-- KMOV_HI (R259): Writes an immediate into the high 32 bits of a mask, keeping the low half. -/
  | kmovHi (r : Rec)
  /-- RSUM (R260): Sums the included lanes in a fixed tree and writes the result to every active lane. -/
  | rsum (r : Rec)
  /-- RMAX (R260): Writes the maximum of the included lanes. -/
  | rmax (r : Rec)
  /-- RMIN (R260): Writes the minimum of the included lanes. -/
  | rmin (r : Rec)
  /-- RARGMX (R260): Writes the lane number of the largest included value. -/
  | rargmx (r : Rec)
  /-- SCANA (R261): Writes the running sum over the included lanes. -/
  | scana (r : Rec)
  /-- SCANM (R261): Writes the running maximum over the included lanes. -/
  | scanm (r : Rec)
  /-- HISTB (R262): Counts included lanes per bin 0–63, optionally added to c. -/
  | histb (r : Rec)
  /-- TOPKV (R263): Selects the k largest included values and their lane numbers. -/
  | topkv (r : Rec)
  /-- TCFG (R265): Configures a tile's shape, sets CFG and DIRTY and clears its body. -/
  | tcfg (r : Rec)
  /-- TWRR (R265): Writes one tile row from a vector. -/
  | twrr (r : Rec)
  /-- TRDR (R265): Reads one tile row into a vector. -/
  | trdr (r : Rec)
  /-- TWRC (R265): Writes one tile column from a vector. -/
  | twrc (r : Rec)
  /-- TRDC (R265): Reads one tile column into a vector. -/
  | trdc (r : Rec)
  /-- TZERO (R265): Zeroes every tile element and sets DIRTY. -/
  | tzero (r : Rec)
  /-- TREL (R265): Clears a tile's CFG. -/
  | trel (r : Rec)
  /-- TRDS (R265): Reads a tile's TSHAPE into every active lane. -/
  | trds (r : Rec)
  /-- VMODE (R266): Sets the VE rounding, saturation and flush mode for later records. -/
  | vmode (r : Rec)
  /-- VFLG (R267): Reads VFLAGS into every active lane. -/
  | vflg (r : Rec)
  /-- VFLG_C (R267): Reads VFLAGS optionally and clears the masked flag bits at issue. -/
  | vflgC (r : Rec)
  /-- VSPL (R268): Parks a V register in the parking slot under a park index. -/
  | vspl (r : Rec)
  /-- VFIL (R268): Reads a parked register back into a V register. -/
  | vfil (r : Rec)
  /-- VCLRF (R330): Deprecated legacy record that clears every VFLAGS bit at issue. -/
  | vclrf (r : Rec)
  /-- MNOP (R270): Occupies an ME issue slot per expansion with no effect. -/
  | mnop (r : Rec)
  /-- LDB (R271): Loads 128 scratchpad rows and B scales into a latch, landing at +128. -/
  | ldb (r : Rec)
  /-- LDBH (R271): Loads a BF16 B tile into a latch. -/
  | ldbh (r : Rec)
  /-- LDBS (R271): Loads a 2:4 sparse B tile and four scales into a latch. -/
  | ldbs (r : Rec)
  /-- LDBT (R271): Loads a transposed B tile from half-rows into a latch. -/
  | ldbt (r : Rec)
  /-- LDBW (R330): Deprecated generation 2 latch load with one scale for all columns. -/
  | ldbw (r : Rec)
  /-- MMA (R273): Dense 8-bit pass of up to 128 A half-rows against a latch, accumulating into a key's slot. -/
  | mma (r : Rec)
  /-- MMAH (R273): Dense BF16 pass of K 64 accumulating into a key's slot. -/
  | mmah (r : Rec)
  /-- MMAG (R273): Gathered 8-bit pass through index rows. -/
  | mmag (r : Rec)
  /-- MMAGH (R273): Gathered BF16 pass through index rows. -/
  | mmagh (r : Rec)
  /-- MMAS (R273): 2:4 sparse 8-bit pass popping one metadata entry. -/
  | mmas (r : Rec)
  /-- MMASG (R273): Gathered 2:4 sparse 8-bit pass popping one metadata entry. -/
  | mmasg (r : Rec)
  /-- BIND (R276): Combines a tile's labelled slots with scalar coefficients into MQ or scratchpad rows. -/
  | bind (r : Rec)
  /-- BINDA (R276): Combines a tile's labelled slots with per-row coefficients. -/
  | binda (r : Rec)
  /-- BINDM (R276): Combines labelled slots into a destination slot, scalar or per-row. -/
  | bindm (r : Rec)
  /-- CRD (R277): Reads a key's slot into MQ or scratchpad rows, optionally narrowed. -/
  | crd (r : Rec)
  /-- CRDT (R277): Reads a key's slot transposed into MQ or scratchpad rows. -/
  | crdt (r : Rec)
  /-- CZERO (R278): Allocates a key if absent and zeroes its slot. -/
  | czero (r : Rec)
  /-- CREL (R278): Releases one key's slot or spill entry. -/
  | crel (r : Rec)
  /-- CRELL (R278): Releases every key carrying a label. -/
  | crell (r : Rec)
  /-- CSPL (R279): Spills a key's slot to a spill entry under freeze. -/
  | cspl (r : Rec)
  /-- CFIL (R279): Refills a spilled key into a slot under freeze. -/
  | cfil (r : Rec)
  /-- CFIL_F32 (R279): Fills a key's slot from FP32 scratchpad rows under freeze. -/
  | cfilF32 (r : Rec)
  /-- CFIL_BF16 (R279): Fills a key's slot from BF16 scratchpad rows widened exactly, under freeze. -/
  | cfilBf16 (r : Rec)
  /-- CSTAT (R280): Lands one row describing the slot map, spill and window state. -/
  | cstat (r : Rec)
  /-- CLBL (R278): Sets or clears a key's spillable mark. -/
  | clbl (r : Rec)
  /-- CLBL_R (R278): Relabels a key's slot or spill entry to a new key. -/
  | clblR (r : Rec)
  /-- CCPY (R281): Copies one key's slot into another key. -/
  | ccpy (r : Rec)
  /-- CSCAL (R281): Scales a key's slot into a destination key. -/
  | cscal (r : Rec)
  /-- CADD (R281): Adds two keys' slots into a destination key. -/
  | cadd (r : Rec)
  /-- CMAXR (R282): Reduces 64 slot rows by maximum into one row. -/
  | cmaxr (r : Rec)
  /-- CSUMR (R282): Reduces 64 slot rows by tree sum into one row. -/
  | csumr (r : Rec)
  /-- CMODE (R283): Sets the ME mode for later records. -/
  | cmode (r : Rec)
  /-- TSTART (R284): Opens an accumulator window on a key, zeroing its slot and registering latch source rows. -/
  | tstart (r : Rec)
  /-- TCOMMIT (R284): Closes the accumulator window and releases its registered ranges. -/
  | tcommit (r : Rec)
  /-- MFLG (R283): Reads the ME flags into one row. -/
  | mflg (r : Rec)
  /-- MFLG_C (R283): Reads optionally and clears masked ME flags at issue. -/
  | mflgC (r : Rec)
  /-- SNOP (R291): Takes an SE queue entry and completes at once. -/
  | snop (r : Rec)
  /-- CPIN (R292): Copies tensor rows into this cell's scratchpad. -/
  | cpin (r : Rec)
  /-- CPINS (R330): Deprecated generation 2 CPIN that is also a queue barrier. -/
  | cpins (r : Rec)
  /-- CPOUT (R292): Copies scratchpad rows to a tensor. -/
  | cpout (r : Rec)
  /-- CPRR (R292): Writes local rows into another cell's scratchpad. -/
  | cprr (r : Rec)
  /-- CPRR_PULL (R292): Reads another cell's rows into local scratchpad. -/
  | cprrPull (r : Rec)
  /-- CPADD (R294): Adds source rows into destination rows or blocks atomically per block. -/
  | cpadd (r : Rec)
  /-- CPBC (R292): Broadcasts a source row into a rectangle of cells. -/
  | cpbc (r : Rec)
  /-- CPT (R295): Transposing copy between tensor and scratchpad. -/
  | cpt (r : Rec)
  /-- CPCV (R296): Converting copy between scratchpad and tensor formats. -/
  | cpcv (r : Rec)
  /-- CPQ (R296): Quantises FP32 rows into an 8-bit tensor with block scales. -/
  | cpq (r : Rec)
  /-- CPMASK (R297): Copies only the lanes a mask selects. -/
  | cpmask (r : Rec)
  /-- FILL (R292): Fills rows with a 32-bit pattern. -/
  | fill (r : Rec)
  /-- GATH (R298): Gathers rows selected by an index list. -/
  | gath (r : Rec)
  /-- SCAT (R298): Scatters rows to places selected by an index list. -/
  | scat (r : Rec)
  /-- SCATA (R298): Scatters rows with addition to the selected rows. -/
  | scata (r : Rec)
  /-- GRPF (R300): Forms grouped index sets or copied half-rows from an offset row. -/
  | grpf (r : Rec)
  /-- GRPO (R301): Writes grouped results back in matrix order. -/
  | grpo (r : Rec)
  /-- TOPK (R302): Selects the k largest values within logical rows. -/
  | topk (r : Rec)
  /-- CRDS (R304): Copies one key's slot to scratchpad or a tensor, holding the key until read. -/
  | crds (r : Rec)
  /-- META (R305): Fills the metadata queue with 8 KiB entries, waiting for room. -/
  | metaq (r : Rec)
  /-- SORTK (R303): Stably sorts up to 8,192 key-value pairs. -/
  | sortk (r : Rec)
  /-- CNTR (R306): Adds to routing counters from an index list. -/
  | cntr (r : Rec)
  /-- CSNAP (R307): Reads and clears a range of routing counters into rows. -/
  | csnap (r : Rec)
  /-- NSEND (R309): Sends rows as one message to a peer channel's ring. -/
  | nsend (r : Rec)
  /-- NRECV (R308): Binds or unbinds a receive channel to the context and cell. -/
  | nrecv (r : Rec)
  /-- NPUT (R310): Writes rows to a peer tensor, optionally counted at a channel's arrival word. -/
  | nput (r : Rec)
  /-- NGET (R310): Reads rows from a peer tensor. -/
  | nget (r : Rec)
  /-- NATOM (R311): Performs one atomic on a peer sync variable and writes a result row. -/
  | natom (r : Rec)
  /-- NFLUSH (R312): Completes once every earlier peer-reaching command has completed. -/
  | nflush (r : Rec)
  /-- AWRM (R313): Arms an arrival word with a target. -/
  | awrm (r : Rec)
  /-- ASET (R313): Resets an arrival word's count, sets its generation and disarms it. -/
  | aset (r : Rec)
  /-- SFENCE (R313): Acts as FENCE SP, SP at its scope. -/
  | sfence (r : Rec)
  /-- WAITC (R313): Queue barrier until earlier commands complete, then writes and clears SESTAT. -/
  | waitc (r : Rec)
  /-- TDLD (R314): Loads a tensor descriptor into every layout unit as a queue barrier. -/
  | tdld (r : Rec)
  /-- TDINV (R314): Drops a descriptor and its cached leaves from every layout unit. -/
  | tdinv (r : Rec)
  /-- PGDUP (R314): Read-duplicates a frame onto a die or device. -/
  | pgdup (r : Rec)
  /-- PGMIG (R314): Migrates a frame to a new home. -/
  | pgmig (r : Rec)
  /-- PFCH (R314): Loads translations for the elements an operand covers without moving data. -/
  | pfch (r : Rec)
  /-- LATQ (R315): Writes a page's effective class, deadline and state bits to a row. -/
  | latq (r : Rec)
  /-- SEVT (R316): Submits a graph object to the scheduler and writes the outcome row. -/
  | sevt (r : Rec)
  /-- SEVT_H (R316): Sends the host an event carrying a code. -/
  | sevtH (r : Rec)
  /-- CPCHK (R317): Computes the CRC-32C of source bytes and compares it with an expected value. -/
  | cpchk (r : Rec)
  /-- RADVX (R313): Advances a ring tail in this cell after every earlier command completes. -/
  | radvx (r : Rec)
  /-- RADVX_X (R313): Advances a ring tail in another cell after every earlier command completes. -/
  | radvxX (r : Rec)
  /-- SWAIT (R313): Queue barrier until a ring or arrival word condition holds, never freezing the gang. -/
  | swait (r : Rec)
  /-- PAGE_DEMOTION (R382): Firmware writes LCLS 0 into every leaf of a page whose promise broke. -/
  | pageDemotion (asid : BitVec 10) (tid : BitVec 12) (tile : Nat) (why : BitVec 3)
  /-- SE_RELEASE (R27): An SE record is released at its stamp into the command queue as one entry, capturing coordinate registers. -/
  | seRelease (c : CellId)
  /-- SE_COMMAND_START (R27): A queued SE command begins once the range checker and queue barriers no longer hold it. -/
  | seCommandStart (c : CellId) (uid : Nat)
  /-- CHUNK_PERFORMED (R286): One 4 KiB chunk of an SE command has its writes performed, and its bytes are added to any completion arrival word. -/
  | chunkPerformed (c : CellId) (uid : Nat)
  /-- SE_COMMAND_COMPLETION (R291): An SE command completes, writing its result row, advancing its completion ring and freeing its range-checker hold. -/
  | seCommandCompletion (c : CellId) (uid : Nat)
  /-- RESULT_LANDING (R5): A result in flight lands at its due tick, setting any flags it raises. -/
  | resultLanding (c : CellId)
  /-- DECISION_DELIVERY (R37): The gang-reduced DECIDE value lands in the D registers Ddec ticks after issue. -/
  | decisionDelivery (g : GangId)
  /-- DIVERGENCE_CHECK (R40): Ddec ticks after a SEGE each cell compares member 0's token with its own pair and reports divergence. -/
  | divergenceCheck (g : GangId)
  /-- DIVISOR_SWITCH (R177): Two ticks after a SETDIV the engine's divisor and phase base change. -/
  | divisorSwitch (c : CellId)
  /-- TEXT_PRELOAD (R47): When a sequencer reaches a SEGE the cell begins fetching every successor's text into the text cache. -/
  | textPreload (c : CellId) (off : Nat)
  /-- TEXT_CACHE_INVALIDATE (R239): The ICINV invalidation takes effect in the gang's text caches Dstall ticks after issue. -/
  | textCacheInvalidate (c : CellId)
  /-- FREEZE_REQUEST_AHEAD (R44): The hardware raises a freeze request Dstall ahead for text preload, SE queue space or a CRDS hold. -/
  | freezeRequestAhead (c : CellId) (what : Ahead) (due : Nat)
  /-- FREEZE_BEGIN (R43): At a request's due tick the gang stops before executing that tick. -/
  | freezeBegin (g : GangId)
  /-- THAW (R43): When no cell holds an unmet condition due at or before the stopped tick, the gang resumes. -/
  | thaw (g : GangId)
  /-- RECORD_DELIVERY (R351): A written error record is delivered to the house cores and to subscribed sessions. -/
  | recordDelivery (seq : Nat)
  /-- FAULT_DISPOSITION (R355): Firmware or the host chooses resume, pre-empt, kill or debugger for a stopped fault, and the gang acts on it. -/
  | faultDisposition (g : GangId) (d : Choice)
  /-- FORWARDING_TIMEOUT (R191): A forwarded assisted request unanswered within the timeout is completed by firmware and the host notified. -/
  | forwardingTimeout (g : GangId)
  /-- DRAIN (R124): The write at the head of a store buffer enters the fabric of its scope and is performed on its path. -/
  | drain (c : CellId)
  /-- PERFORM_A_WRITE (R124): A write in a fabric reaches the store and takes its place in coherence order. -/
  | performAWrite (uid : Nat)
  /-- PERFORM_A_READ (R124): The read at the head of a load buffer takes the newest visible write or the store's value. -/
  | performARead (c : CellId) (p : Path) (uid : Nat)
  /-- PERFORM_A_READ_MODIFY_WRITE (R124): At the location's home a read-modify-write reads, computes and writes in one step. -/
  | performARmw (c : CellId) (uid : Nat)
  /-- RELEASE (R124): A fence, marker, ring, stage, arrival or phaser condition stops holding an access back. -/
  | release (uid : Nat)
  /-- ATOMIC_PERFORM (R234): An atomic is performed at its home sync engine in arrival order and its return sent to the cell. -/
  | atomicPerform (c : CellId) (uid : Nat)
  /-- YQ_RETURN_ARRIVAL (R57): An atomic or claim return arrives in the cell's YQ in issue order. -/
  | yqReturnArrival (c : CellId)
  /-- MOVED_REISSUE (R93): An atomic returning MOVED after handover is re-translated and reissued to the new home. -/
  | movedReissue (c : CellId) (uid : Nat)
  /-- PHASER_PERFORM (R231): A phaser operation is performed at its home engine, completing the phase when all registered parties have arrived. -/
  | phaserPerform (c : CellId) (uid : Nat)
  /-- YARROW_ROUND (R236): Once every member's part has arrived, Yarrow claims each lane's total and hands out ranges in member order. -/
  | yarrowRound (g : GangId) (tick : Nat)
  /-- LINE_WRITEBACK (R94): A sync SRAM line is written back to its frame on eviction. -/
  | lineWriteback (die : Fin 2) (line : Nat)
  /-- PARITY_DELTA_APPLY (R91): The parity port applies a queued delta, protecting the write. -/
  | parityDeltaApply (parityChunk : Nat)
  /-- TRANSLATION_WALK (R381): A layout unit walks a missed tile table and resolves the translation, ending the freeze or wait. -/
  | translationWalk (asid : BitVec 10) (tid : BitVec 12) (tile : Nat)
  /-- CREMA_SPILL (R68): Under freeze the oldest spillable slot is written to a spill entry and its slot allocated anew. -/
  | cremaSpill (c : CellId)
  /-- CREMA_FILL (R68): Under freeze a spilled key is refilled into a slot before its reference proceeds. -/
  | cremaFill (c : CellId)
  /-- PARKED_REGISTER_MOVE (R70): Under freeze parked registers move to the new free-list tail or the park block when their slot is allocated. -/
  | parkedRegisterMove (c : CellId)
  /-- WINDOW_REPLAY (R363): After an uncorrectable ME error in an open window the slot is rebuilt from its retained passes under freeze. -/
  | windowReplay (c : CellId)
  /-- CRDS_HOLD_MET (R304): A CRDS that has read every row of its key meets the hold freeze of a later ME write. -/
  | crdsHoldMet (c : CellId) (uid : Nat)
  /-- TILE_TASK_COMPLETE (R32): After the ending SEGE every in-flight result lands and the tile task completes. -/
  | tileTaskComplete (g : GangId)
  /-- NODE_COMPLETION (R148): When a node's last instance completes its protected release, arrival update, event and successor decrements run in order. -/
  | nodeCompletion (graph node : Nat)
  /-- GRAPH_SUBMIT (R146): A graph is copied, in-degrees set and checked, and zero in-degree nodes made ready, or the submission refused. -/
  | graphSubmit (asid : BitVec 10) (tid : BitVec 12) (off : Nat)
  /-- DISPATCHER_RUN (R151): The dispatcher picks candidate queues, defers, places, pre-empts or holds cells for the head node. -/
  | dispatcherRun
  /-- QUANTUM_EXPIRY (R152): A task that has held its cells for QUANT µs is saved or runs on into a new quantum. -/
  | quantumExpiry (g : GangId)
  /-- TILE_TASK_START (R157): After the ramp delay and variant selection a tile task starts with the initialisation table applied and R17 state. -/
  | tileTaskStart (g : GangId)
  /-- BALLAST_DECAY (R158): Ballast added at a load collapse falls linearly to zero over 20 µs. -/
  | ballastDecay
  /-- SAVE_REQUEST (R161): The scheduler raises the gang's pre-emption freeze request for a victim, quantum, host or firmware. -/
  | saveRequest (g : GangId) (why : SaveCause)
  /-- PREEMPTION_STOP (R162): At the stop tick passes complete, flight capture fills, SE commands stop at chunk ends and buffers drain. -/
  | preemptionStop (g : GangId)
  /-- IMAGE_WRITEOUT (R163): The gang's image is written to its region as full-stripe writes, members first and header stripes last. -/
  | imageWriteout (g : GangId)
  /-- COMMIT_RECORD (R163): After a protected fence the commit record is written and, once protected, the cells are free. -/
  | commitRecord (g : GangId)
  /-- INBOUND_TO_IMAGE (R168): Writes arriving for a stopped cell are held and then performed into its image. -/
  | inboundToImage (img : Nat)
  /-- RESUME (R169): Firmware checks an image, selects a variant, places and restores the gang and thaws it at S, or refuses. -/
  | resume (img : Nat)
  /-- KILL_CONTEXT (R346): A context is frozen, its SE work discarded, no image written, and its cells freed without completion actions. -/
  | killContext (g : GangId)
  /-- EXPORT_IMAGE (R390): System software exports a saved image to another PC-4810. -/
  | exportImage (img : Nat)
  /-- RETURN_TASK (R152): System software returns a host-held saved task to its queue's ready list. -/
  | returnTask (img : Nat)
  /-- KILL_TASK (R390): System software kills a held or refused saved task, discarding its image. -/
  | killTask (img : Nat)
  /-- PIN_REGION (R392): System software pins an image region so it may be resumed any number of times. -/
  | pinRegion (img : Nat)
  /-- QCFG_WRITE (R149): Writes a queue's tickets, quantum, class and enable with clamping. -/
  | qcfgWrite (q : Fin 64) (v : BitVec 64)
  /-- PWRCFG_WRITE (R155): Writes the budget and ramp rate with clamping. -/
  | pwrcfgWrite (v : BitVec 64)
  /-- FUNCMODE_WRITE (R191): Writes the hardware or assisted mode of each recovery function. -/
  | funcmodeWrite (v : BitVec 64)
  /-- PORTCFG_WRITE (R182): Writes a port's split, PTP and management settings, retraining links on a split change. -/
  | portcfgWrite (p : Fin 2) (v : BitVec 64)
  /-- MONITOR_CONFIG_WRITE (R194): Configures a monitor unit's source, bins and filters. -/
  | monitorConfigWrite (m : Fin 64) (v : BitVec 64)
  /-- MONITOR_SAMPLE (R195): A monitored event updates a unit's MIN, MAX, COUNT, SUM and bin. -/
  | monitorSample (src : BitVec 4) (c : CellId) (asid : BitVec 10) (v : Nat)
  /-- MONITOR_READ (R195): Returns a monitor unit's fields as one snapshot. -/
  | monitorRead (m : Fin 64)
  /-- MONITOR_READ_AND_CLEAR (R195): Returns a snapshot and clears the unit in one step. -/
  | monitorReadAndClear (m : Fin 64)
  /-- MGMT_REGISTER_WRITE (R191): A management write to a register with no row of its own, such as the forwarding timeout, peer table or queue ASID set. -/
  | mgmtRegisterWrite (w : MgmtWrite)
  /-- FARICA_TRANSLATE (R323): A Farica module is translated into a generation 4 kernel binary or refused. -/
  | faricaTranslate (asid : BitVec 10) (tid : BitVec 12) (off : Nat)
  /-- DEBUG_STOP (R192): Sniser stops a gang with a debug stop. -/
  | debugStop (sess : Nat) (g : GangId)
  /-- STATE_READ (R192): Sniser reads the state of a stopped gang. -/
  | stateRead (sess : Nat) (g : GangId) (m : Nat) (f : ImageField)
  /-- STATE_WRITE (R368): Sniser writes state of a stopped gang, taking effect at release. -/
  | stateWrite (sess : Nat) (g : GangId) (m : Nat) (f : ImageField) (v : Nat)
  /-- SET_BREAKPOINT (R218): Sniser patches a BRK into the text and broadcasts ICINV. -/
  | setBreakpoint (sess : Nat) (g : GangId) (off : Nat) (idx : Fin 8)
  /-- CLEAR_BREAKPOINT (R367): Sniser restores the displaced record and broadcasts ICINV. -/
  | clearBreakpoint (sess : Nat) (g : GangId) (idx : Fin 8)
  /-- DEBUG_RESUME (R192): Sniser releases a debug-stopped gang. -/
  | debugResume (sess : Nat) (g : GangId)
  /-- DEBUG_STEP (R368): Sniser runs a stopped gang for n ticks and stops it again. -/
  | debugStep (sess : Nat) (g : GangId) (n : Nat)
  /-- SESSION_END (R193): Ending a session releases every gang it owns. -/
  | sessionEnd (sess : Nat)
  /-- GET_VERSION (R190): SPDM request returning supported versions. -/
  | getVersion
  /-- GET_CAPABILITIES (R190): SPDM request returning capabilities. -/
  | getCapabilities
  /-- NEGOTIATE_ALGORITHMS (R190): SPDM algorithm negotiation requiring both RSA-3072 and SLH-DSA. -/
  | negotiateAlgorithms (rsa slhdsa : Bool)
  /-- GET_DIGESTS (R190): SPDM request for certificate chain digests. -/
  | getDigests
  /-- GET_CERTIFICATE (R190): SPDM request for a certificate chain. -/
  | getCertificate (slot : Nat)
  /-- CHALLENGE (R190): SPDM challenge signed with the identity keys. -/
  | challenge (nonce : BitVec 256)
  /-- GET_MEASUREMENTS (R190): SPDM request for the six SHA-384 measurements. -/
  | getMeasurements (idx : Nat)
  /-- KEY_EXCHANGE (R190): SPDM key exchange opening a secured session with mutual authentication. -/
  | keyExchange (client : Nat) (mutualAuth : Bool)
  /-- FINISH (R190): SPDM FINISH completing the secured session handshake. -/
  | finish (sess : Nat) (valid : Bool)
  /-- END_SESSION (R190): SPDM request ending a secured session. -/
  | endSession (sess : Nat)
  /-- TELEM (R187): MCTP command returning temperatures, rail currents, power and boot stage. -/
  | telem
  /-- SETLIM (R187): MCTP command setting the board limit BLIM. -/
  | setlim (mw : Nat)
  /-- RESET (R187): MCTP command causing a cold reset. -/
  | reset
  /-- STATUS (R187): MCTP command returning boot stage, lock, memory mode and thermal response. -/
  | status
  /-- MCTP_UNKNOWN_COMMAND (R187): An unassigned MCTP command code is answered with an error completion. -/
  | mctpUnknownCommand (code : BitVec 8)
  /-- GET_VENDOR_DEFINED_MESSAGE_SUPPORT (R187): MCTP request answered with Perotte's enterprise number. -/
  | getVendorDefinedMessageSupport
  /-- POWER_ON (R188): Power application starts boot from the die 0 ROM through its stages. -/
  | powerOn (b : BootInput)
  /-- DROOP_STRETCH (R174): A droop detector stretches the next clock cycle downstream and echoes once through the root. -/
  | droopStretch (c : CellId)
  /-- FORCED_SLOW_DOWN (R394): A die's 65th stretch in a window makes both clock roots divide by 2, or by 4 on a further breach. -/
  | forcedSlowDown (die : Fin 2)
  /-- SLOW_DOWN_RETURN (R395): After 500 µs without more than 16 stretches per window the roots return one level. -/
  | slowDownReturn
  /-- FREQUENCY_STEP (R179): The power manager moves f one 25 MHz step towards its target within the permitted set. -/
  | frequencyStep
  /-- SLIP_DETECTED (R397): An elastic buffer's slip beyond one tick kills affected contexts, or halts the device on the bridge. -/
  | slipDetected (at_ : SlipPlace)
  /-- THERMAL_RESPONSE_95 (R181): At Tj 95 °C the frequency target drops to FMIN, ending below 92 °C. -/
  | thermalResponse95 (die : Fin 2) (tj : Nat)
  /-- THERMAL_CLAMP (R181): At Tj 100 °C the roots divide by 4 and the emergency save begins. -/
  | thermalClamp (die : Fin 2) (tj : Nat)
  /-- BOARD_TRIP (R399): At 110 °C the board removes power and no state survives. -/
  | boardTrip
  /-- LINK_DOWN (R400): A sub-port link drop rebinds its peers and ends its management sessions. -/
  | linkDown (sub : Fin 8)
  /-- LINK_UP (R400): A sub-port link comes back and is recorded. -/
  | linkUp (sub : Fin 8)
  /-- ANNOUNCE_TIMEOUT (R184): Three announce intervals without announce messages move the time input to another sub-port. -/
  | announceTimeout
  /-- PTP_MEASUREMENT (R185): A PTP offset measurement disciplines TIME, declaring or losing lock and stepping TIME forward when needed. -/
  | ptpMeasurement (offset : Int)
  /-- FRAME_RECEIVE (R96): An inbound fabric frame is performed exactly once and counted at any named arrival word. -/
  | frameReceive (f : Frame)
  /-- FRAME_ACK (R96): A peer acknowledgement arrives, completing the source command once all frames are acknowledged. -/
  | frameAck (fid : Nat) (data : List Byte)
  /-- RETRANSMIT_TIMEOUT (R385): An unacknowledged frame is retransmitted with doubled wait, and after the seventh wait the peer is down. -/
  | retransmitTimeout (fid : Nat)
  /-- PEER_RESET_REPORT (R385): A peer reporting a fabric session reset makes it down. -/
  | peerResetReport (dev : BitVec 12)
  /-- COLLAPSE (R92): A write to a duplicated page is held and invalidations sent to every holder. -/
  | collapse (frame : Nat)
  /-- INVALIDATION_ACK (R92): A holder's acknowledgement arrives; with the last one the home clears DUP and releases held writes. -/
  | invalidationAck (frame : Nat) (holder : Holder)
  /-- INVALIDATION_RESEND (R383): A holder silent for 10 ms is sent the invalidation again, up to three times. -/
  | invalidationResend (frame : Nat) (holder : Holder)
  /-- LEASE_RENEWAL (R383): A peer holder renews its lease every 2 ms. -/
  | leaseRenewal (frame : Nat) (holder : Holder)
  /-- LEASE_LAPSE (R383): A lapsed lease makes the holder rewrite its leaves to the home, or the home remove it and complete the collapse. -/
  | leaseLapse (frame : Nat) (holder : Holder)
  /-- PAGE_MIGRATION (R93): MIG is set in every leaf and the migration engine copies the frame. -/
  | pageMigration (frame : Nat) (die : Fin 2) (dev : BitVec 12)
  /-- HANDOVER (R93): After the copy the sync lines are written, leaves rewritten, MIG cleared and held writes released at the new home. -/
  | handover (frame : Nat) (newFrame : Nat)
  /-- MIGRATION_ABANDON (R384): A new home lost before handover abandons the migration and releases held writes at the old home. -/
  | migrationAbandon (frame : Nat)
  /-- RESTRIPE_FRAME_COPY (R88): The migration engine locks the frame at the watermark, copies its chunks and advances the watermark. -/
  | restripeFrameCopy
  /-- BANK_DROP (R375): A failing bank is dropped and its chunks moved to the reserve lines. -/
  | bankDrop (b : BankId) (trig : BitVec 2)
  /-- STACK_LOSS (R377): A lost stack holds its accesses and the device enters degraded mode, or halts on a second loss. -/
  | stackLoss (stack : Fin 12) (trig : BitVec 2)
  /-- RESTRIPE_11_STACKS (R380): The change to the 11-stack layout starts once no frame above the bound is allocated. -/
  | restripe11Stacks
  /-- CHUNK_RECONSTRUCTION (R372): An uncorrectable chunk read is rebuilt from its stripe or its blocks poisoned. -/
  | chunkReconstruction (chunk : Nat) (bad : List Nat)
  /-- SCRUB (R371): The base die scrubs each line of its stack at least once in 24 hours. -/
  | scrub (stack : Fin 12) (line : Nat) (corrected : Nat)
  /-- LATENCY_DEADLINE (R382): A PROM command incomplete at its deadline tick raises a latency-promise-broken fault. -/
  | latencyDeadline (c : CellId) (uid : Nat)
  /-- DEMOTION_RESTORE (R382): Firmware restores a demoted page's class when the cause of the demotion ends. -/
  | demotionRestore (asid : BitVec 10) (tid : BitVec 12) (tile : Nat)
  /-- THERMAL_RESPONSE_95_END (R181): When Tj falls below 92 °C the 95 °C response ends and the frequency target is no longer held at FMIN. -/
  | thermalResponse95End (die : Fin 2)
  /-- READ_DUPLICATION (R92): Firmware on its own read-duplicates a frame onto the other die or a peer, setting DUP and WE = 0 in every holder's leaves. -/
  | readDuplication (frame : Nat) (h : Holder)
  /-- FABRIC_SESSION_REOPEN (R383): When a fabric session with a home reopens, the device invalidates every duplicated leaf it holds of that home before reading any of them again. -/
  | fabricSessionReopen (dev : BitVec 12)
  /-- NOP (R202): An empty CC slot that does nothing. -/
  | nop (sl : Slot)
  /-- ADD (R220): Writes A + B modulo 2^w to Gd. -/
  | add (sl : Slot)
  /-- SUB (R220): Writes A − B modulo 2^w to Gd. -/
  | sub (sl : Slot)
  /-- MUL (R220): Writes the low w bits of A × B to Gd with latency 3. -/
  | mul (sl : Slot)
  /-- MULHS (R220): Writes the high w bits of the signed product to Gd. -/
  | mulhs (sl : Slot)
  /-- MULHN (R220): Writes the high w bits of the unsigned product to Gd. -/
  | mulhn (sl : Slot)
  /-- MADD (R220): Writes G[DST] + A × B modulo 2^w to Gd. -/
  | madd (sl : Slot)
  /-- DIVS (R221): Signed division truncating towards zero, with the fixed zero-divisor outcome and IDZ. -/
  | divs (sl : Slot)
  /-- DIVN (R221): Unsigned division, with the fixed zero-divisor outcome and IDZ. -/
  | divn (sl : Slot)
  /-- REMS (R221): Signed remainder taking the sign of A, with the fixed zero-divisor outcome. -/
  | rems (sl : Slot)
  /-- REMN (R221): Unsigned remainder, with the fixed zero-divisor outcome. -/
  | remn (sl : Slot)
  /-- AND (R220): Writes the bitwise AND of A and B. -/
  | and (sl : Slot)
  /-- OR (R220): Writes the bitwise OR of A and B. -/
  | or (sl : Slot)
  /-- XOR (R220): Writes the bitwise exclusive OR of A and B. -/
  | xor (sl : Slot)
  /-- ANDN (R220): Writes A AND NOT B. -/
  | andn (sl : Slot)
  /-- SHL (R220): Shifts A left by B mod w. -/
  | shl (sl : Slot)
  /-- SHRL (R220): Shifts A right logically by B mod w. -/
  | shrl (sl : Slot)
  /-- SHRA (R220): Shifts A right arithmetically by B mod w. -/
  | shra (sl : Slot)
  /-- ROTL (R220): Rotates A left within w bits by B mod w. -/
  | rotl (sl : Slot)
  /-- CLZ (R220): Counts the leading zeros of A. -/
  | clz (sl : Slot)
  /-- CTZ (R220): Counts the trailing zeros of A. -/
  | ctz (sl : Slot)
  /-- POPC (R220): Counts the set bits of A. -/
  | popc (sl : Slot)
  /-- MINS (R220): Writes the signed minimum of A and B. -/
  | mins (sl : Slot)
  /-- MAXS (R220): Writes the signed maximum of A and B. -/
  | maxs (sl : Slot)
  /-- MINN (R220): Writes the unsigned minimum of A and B. -/
  | minn (sl : Slot)
  /-- MAXN (R220): Writes the unsigned maximum of A and B. -/
  | maxn (sl : Slot)
  /-- ABSS (R220): Writes the signed absolute value of A. -/
  | abss (sl : Slot)
  /-- SEXT (R222): Sign-extends the low w bits of A to 64 bits. -/
  | sext (sl : Slot)
  /-- BFEX (R222): Extracts a bit field of A, zero- or sign-extended. -/
  | bfex (sl : Slot)
  /-- BFIN (R222): Inserts the low bits of A into a bit field of G[DST]. -/
  | bfin (sl : Slot)
  /-- CRC32 (R222): Applies the raw CRC-32C update of A with the bytes of B. -/
  | crc32 (sl : Slot)
  /-- MOVI (R223): Writes IMM32 sign-extended to Gd. -/
  | movi (sl : Slot)
  /-- MOVH (R223): Writes IMM32 into the high half and A[31:0] into the low half of Gd. -/
  | movh (sl : Slot)
  /-- MOV (R223): Copies a G, P or D register into Gd. -/
  | mov (sl : Slot)
  /-- SEL (R223): Writes A or B to Gd as predicate P[n] selects. -/
  | sel (sl : Slot)
  /-- CMPEQ (R224): Writes A = B to a predicate. -/
  | cmpeq (sl : Slot)
  /-- CMPNE (R224): Writes A ≠ B to a predicate. -/
  | cmpne (sl : Slot)
  /-- CMPLTS (R224): Writes signed A < B to a predicate. -/
  | cmplts (sl : Slot)
  /-- CMPLES (R224): Writes signed A ≤ B to a predicate. -/
  | cmples (sl : Slot)
  /-- CMPLTN (R224): Writes unsigned A < B to a predicate. -/
  | cmpltn (sl : Slot)
  /-- CMPLEN (R224): Writes unsigned A ≤ B to a predicate. -/
  | cmplen (sl : Slot)
  /-- TSTB (R224): Writes bit B mod w of A to a predicate. -/
  | tstb (sl : Slot)
  /-- PAND (R224): Writes the AND of two predicates. -/
  | pand (sl : Slot)
  /-- POR (R224): Writes the OR of two predicates. -/
  | por (sl : Slot)
  /-- PXOR (R224): Writes the exclusive OR of two predicates. -/
  | pxor (sl : Slot)
  /-- PNOT (R224): Writes the negation of a predicate. -/
  | pnot (sl : Slot)
  /-- PMOV (R224): Copies a predicate or a constant 0 or 1 into a predicate. -/
  | pmov (sl : Slot)
  /-- LDROW (R225): Reads a scratchpad row on CQ into a B row buffer, landing at +4. -/
  | ldrow (sl : Slot)
  /-- STROW (R225): Writes a B row buffer to a scratchpad row on CQ, performed at +2. -/
  | strow (sl : Slot)
  /-- EXTL (R225): Copies one 64-bit piece of a B buffer into a G register. -/
  | extl (sl : Slot)
  /-- INSL (R225): Writes a G register into one 64-bit piece of a B buffer. -/
  | insl (sl : Slot)
  /-- QLD (R225): Pushes a scratchpad row into an LQ, visible to the VE at +6. -/
  | qld (sl : Slot)
  /-- QST (R225): Takes the SQ head at issue and writes it to a scratchpad row at +3. -/
  | qst (sl : Slot)
  /-- DECIDE (R226): Contributes a 3-bit value to a gang reduction delivered to a D register Ddec ticks later. -/
  | decide (sl : Slot)
  /-- CHECK (R227): Raises a poison fault if the named G or B register is tagged, or if PSNT is set and CFLAGS.PSN is set. -/
  | check (sl : Slot)
  /-- TRAP (R227): Raises a user TRAP fault carrying a code when its predicate is true. -/
  | trap (sl : Slot)
  /-- RWAITF (R228): Tests that a ring holds at least m filled elements and raises a freeze request otherwise. -/
  | rwaitf (sl : Slot)
  /-- RWAITE (R228): Tests that a ring has at least m free elements and raises a freeze request otherwise. -/
  | rwaite (sl : Slot)
  /-- RADVT (R228): Advances a ring's tail by m with the CLAIMED rule, ordered after its covered writes. -/
  | radvt (sl : Slot)
  /-- RADVH (R228): Advances a ring's head by m, ordered after the cell's earlier POPP reads. -/
  | radvh (sl : Slot)
  /-- RCLM (R228): Claims m ring elements and returns the old CLAIMED through YQ. -/
  | rclm (sl : Slot)
  /-- RSTAT (R228): Returns a ring's filled and free counts through YQ. -/
  | rstat (sl : Slot)
  /-- SACQ (R229): Waits until a stage element has the wanted FULL state and owner, raising a freeze request otherwise. -/
  | sacq (sl : Slot)
  /-- SREL (R229): Toggles a stage element's FULL and hands it to the next owner, ordered after the cell's earlier accesses. -/
  | srel (sl : Slot)
  /-- AARM (R230): Writes an arrival word's TARGET and arms it, running the match test at once. -/
  | aarm (sl : Slot)
  /-- AWAIT (R230): Raises a freeze request unless the arrival word has reached generation g. -/
  | await (sl : Slot)
  /-- PHREG (R232): Registers the cell on a phaser with lead 0 and returns PHASE through YQ. -/
  | phreg (sl : Slot)
  /-- PHDRG (R232): Removes the cell from a phaser, possibly completing the phase. -/
  | phdrg (sl : Slot)
  /-- PHARV (R232): Sets the cell's lead to 1 on a phaser after its earlier writes, possibly completing the phase. -/
  | pharv (sl : Slot)
  /-- PHWAIT (R232): Raises a freeze request unless the phaser's PHASE has passed the given value. -/
  | phwait (sl : Slot)
  /-- PHAW (R232): Arrives at a phaser and waits for completion of the phase it arrived in. -/
  | phaw (sl : Slot)
  /-- ATADD (R234): Atomically adds v to a sync variable or routing counter and returns the old value. -/
  | atadd (sl : Slot)
  /-- ATINC (R234): Atomically increments with wrap to 0 at bound v and returns the old value. -/
  | atinc (sl : Slot)
  /-- ATBADD (R234): Atomically adds v only if the result stays within the bound, returning old value and status. -/
  | atbadd (sl : Slot)
  /-- ATCAS (R234): Atomic compare-and-swap against an expected value. -/
  | atcas (sl : Slot)
  /-- ATSWP (R234): Atomically swaps in v and returns the old value. -/
  | atswp (sl : Slot)
  /-- ATMIN (R234): Atomically takes the minimum of the variable and v. -/
  | atmin (sl : Slot)
  /-- ATMAX (R234): Atomically takes the maximum of the variable and v. -/
  | atmax (sl : Slot)
  /-- ATAND (R234): Atomically ANDs v into the variable. -/
  | atand (sl : Slot)
  /-- ATOR (R234): Atomically ORs v into the variable. -/
  | ator (sl : Slot)
  /-- ATXOR (R234): Atomically exclusive-ORs v into the variable. -/
  | atxor (sl : Slot)
  /-- ATSNAP (R234): Atomically reads and clears the variable. -/
  | atsnap (sl : Slot)
  /-- YPOP (R235): Takes the YQ head, landing its data and status (and any YCLM row) at +1, freezing if no entry has arrived. -/
  | ypop (sl : Slot)
  /-- YCLM (R236): Contributes the cell's counts to one Yarrow claim round over up to 64 rings. -/
  | yclm (sl : Slot)
  /-- FENCE (R133): Orders the covered accesses on its earlier paths before later accesses on its later paths at its scope, optionally waiting for protection. -/
  | fence (sl : Slot)
  /-- MARK (R128): Places a marker in both CQ buffers so earlier CQ accesses perform before later ones. -/
  | mark (sl : Slot)
  /-- RDTIME (R237): Samples TIME in nanoseconds into Gd, landing at +3. -/
  | rdtime (sl : Slot)
  /-- WAITT (R186): Raises a freeze request due Dstall later whose condition is TIME reaching the target. -/
  | waitt (sl : Slot)
  /-- SETDIV (R177): Sets an engine's divisor and phase base, switching two ticks after issue. -/
  | setdiv (sl : Slot)
  /-- RDTICK (R237): Reads the schedule counter into Gd, landing at +1. -/
  | rdtick (sl : Slot)
  /-- SYSR (R238): Reads a system register by index into Gd, landing at +2. -/
  | sysr (sl : Slot)
  /-- SYSW (R238): Writes a system register by index at +1, subject to its fate. -/
  | sysw (sl : Slot)
  /-- ICINV (R239): Privileged invalidation of the text caches of the gang and of every other cell. -/
  | icinv (sl : Slot)
  /-- TDRD (R240): Reads one tensor descriptor word and returns it through YQ. -/
  | tdrd (sl : Slot)
  /-- TDWR (R240): Writes one tensor descriptor word on YP. -/
  | tdwr (sl : Slot)
  deriving DecidableEq, Repr

end Sys2Proof
end

