-- ==== Sys2Proof/Decode.lean ====
section
/-! DEFINITION. The decoder and the encoder (R196–R206, R324–R330). Records are read as lists of fields of stated
widths, lowest bit first; a record that the manual calls illegal is rejected with the name of the check, the word
and the lowest bit of the offending field (R356). The legacy generations are widened first (R324–R328). -/

namespace Sys2Proof

/-! ## Fields -/

/-- The fields of the given widths, lowest first. -/
def unpack : List Nat → Nat → List Nat
  | [], _ => []
  | w :: ws, n => n % 2 ^ w :: unpack ws (n / 2 ^ w)

/-- The number whose fields, lowest first, have the given widths and values. -/
def pack : List (Nat × Nat) → Nat
  | [] => 0
  | (w, v) :: fs => v % 2 ^ w + 2 ^ w * pack fs

theorem unpack_pack (fs : List (Nat × Nat)) (h : ∀ f ∈ fs, f.2 < 2 ^ f.1) :
    unpack (fs.map (·.1)) (pack fs) = fs.map (·.2) := by
  induction fs with
  | nil => rfl
  | cons f fs ih =>
    obtain ⟨w, v⟩ := f
    have hv : v < 2 ^ w := h (w, v) (by simp)
    have hp : 0 < 2 ^ w := Nat.two_pow_pos w
    have h1 : (v + 2 ^ w * pack fs) % 2 ^ w = v := by
      rw [Nat.add_mul_mod_self_left, Nat.mod_eq_of_lt hv]
    have h2 : (v + 2 ^ w * pack fs) / 2 ^ w = pack fs := by
      rw [Nat.add_mul_div_left _ _ hp, Nat.div_eq_of_lt hv, Nat.zero_add]
    simp only [List.map_cons, pack, unpack, Nat.mod_eq_of_lt hv, h1, h2]
    rw [ih (fun f hf => h f (by simp [hf]))]

theorem pack_lt (fs : List (Nat × Nat)) : pack fs < 2 ^ (fs.map (·.1)).sum := by
  induction fs with
  | nil => simp [pack]
  | cons f fs ih =>
    obtain ⟨w, v⟩ := f
    simp only [pack, List.map_cons, List.sum_cons, Nat.pow_add]
    have h1 : v % 2 ^ w < 2 ^ w := Nat.mod_lt _ (Nat.two_pow_pos w)
    have h2 : pack fs + 1 ≤ 2 ^ (fs.map (·.1)).sum := ih
    calc v % 2 ^ w + 2 ^ w * pack fs < 2 ^ w + 2 ^ w * pack fs := by omega
      _ = 2 ^ w * (pack fs + 1) := by rw [Nat.mul_add, Nat.mul_one, Nat.add_comm]
      _ ≤ 2 ^ w * 2 ^ (fs.map (·.1)).sum := Nat.mul_le_mul_left _ h2

/-- Why a record or a slot is illegal (R196–R204, R241, R269, R285). -/
inductive Why where
  /-- an OP or OP8 that the decoder's generation leaves unassigned (R205) -/
  | opcode
  /-- reserved bits of W0 (R196) -/
  | header
  /-- a predicate number without EN, or a predicate on a record that takes none (R196, R202, R204) -/
  | predicate
  /-- a MOD value the entry does not define (R196) -/
  | modifier
  /-- a loop nest where none is allowed (R198) -/
  | nest
  /-- a descriptor field outside its kind's range (R199–R201) -/
  | operand
  /-- an operand kind the entry does not list, or a missing or extra operand (R199, R241) -/
  | kind
  /-- a value of an immediate, a KIND 11 BASE or a stride that the entry excludes -/
  | value
  /-- a field of SEGE, FORK, RDV, BRK, NOPR or PHAS out of its range (R178, R204, R218, R219) -/
  | control
  /-- a slot field the entry does not name or does not accept (R202, R215) -/
  | slotField
  /-- more than two row or queue operations, or two synchronisation operations, in a bundle (R203) -/
  | bundleLimit
  /-- two SETDIVs of one engine in a bundle (R177) -/
  | setdivTwice
  /-- a reserved bit of a legacy form (R325, R327, R328) -/
  | legacy
  deriving DecidableEq, Repr

/-- A rejection: its name, whether it is the slot class 0x05 or the record class 0x04, and R356's WORD, BIT, OPC. -/
structure Reject where
  why  : Why
  slot : Option Nat
  word : Nat
  bit  : Nat
  opc  : Nat
  deriving DecidableEq, Repr

/-- The first of the named checks that fails. -/
def firstBad (l : List (Bool × Nat)) : Option Nat := (l.find? (·.1)).map (·.2)

/-- Is some bit of w at or above lo set? -/
def highSet (w : BitVec 32) (lo : Nat) : Bool := w.toNat / 2 ^ lo != 0

/-! ## Predicates and operand descriptors -/

/-- PRED and SPRED: number, INV and EN (R196, R202). -/
def decodePred (n inv en : Nat) : Option Pred :=
  if en = 1 then some (.p (inv = 1) (Fin.ofNat 16 n)) else if n = 0 && inv = 0 then some .always else none

def encodePred : Pred → Nat × Nat × Nat
  | .always => (0, 0, 0)
  | .p inv n => (n.val, inv.toNat, 1)

/-- The widths of a descriptor: KIND, NUM, KS, BASE, S0–S3 (R199). -/
def descWidths : List Nat := [4, 5, 23, 32, 16, 16, 16, 16]

/-- KS of KIND 1: KM, XEN, XNUM and nine unused bits (R200). -/
def ksV : List Nat := [3, 1, 5, 14]
/-- KS of KIND 12: TID, SDIM, reserved (R201). -/
def ksTensor : List Nat := [12, 8, 3]
/-- BASE of KIND 12: C0–C3, reserved (R201). -/
def baseTensor : List Nat := [5, 5, 5, 5, 12]
/-- BASE of KIND 13: output tile, label, unused (R200). -/
def baseKey : List Nat := [16, 12, 4]

/-- The operand when no check fails, else the lowest bit of the first offending field. -/
def checked (l : List (Bool × Nat)) (o : Opnd) : Except Nat Opnd :=
  match firstBad l with
  | some b => .error b
  | none => .ok o

def stridesOf (s0 s1 s2 s3 : Nat) : Strides :=
  ⟨BitVec.ofNat 16 s0, BitVec.ofNat 16 s1, BitVec.ofNat 16 s2, BitVec.ofNat 16 s3⟩

/-- The optional GREG register of KIND 9, 10 and 13. -/
def gregOf (g num : Nat) : Option (Fin 32) := if g = 1 then some (Fin.ofNat 32 num) else none

/-- One operand descriptor (R199–R201); an error is the bit of the descriptor at which the offending field starts. -/
def decodeOpnd (d : Nat) : Except Nat Opnd :=
  match unpack descWidths d with
  | [kind, num, ks, base, s0, s1, s2, s3] =>
    let st := stridesOf s0 s1 s2 s3
    let stz := s0 + s1 + s2 + s3 != 0
    match kind with
    | 0 => checked [(num != 0, 4), (ks != 0, 9), (base != 0, 32), (stz, 64)] .absent
    | 1 => match unpack ksV ks with
      | [km, xen, xnum, z] => checked [(z != 0, 18), (base != 0, 32)]
          (.v (Fin.ofNat 32 num) (Fin.ofNat 8 km) (xen = 1) (Fin.ofNat 32 xnum) st)
      | _ => .error 0
    | 2 => checked [(4 ≤ num, 4), (2 ≤ ks, 10), (base != 0, 32), (stz, 64)] (.lq (Fin.ofNat 4 num) (ks % 2 = 1))
    | 3 => checked [(2 ≤ num, 4), (ks != 0, 9), (base != 0, 32), (stz, 64)] (.sq (Fin.ofNat 2 num))
    | 4 => checked [(num != 0, 4), (ks != 0, 9), (stz, 64)] (.imm (BitVec.ofNat 32 base))
    | 5 => checked [(4 ≤ num, 4), (ks != 0, 9), (16 ≤ base, 36)] (.zrow (Fin.ofNat 4 num) (BitVec.ofNat 4 base) st)
    | 6 => checked [(4 ≤ num, 4), (ks != 0, 9), (16 ≤ base, 36)] (.zcol (Fin.ofNat 4 num) (BitVec.ofNat 4 base) st)
    | 7 => checked [(8 ≤ num, 4), (ks != 0, 9), (base != 0, 32)] (.k (Fin.ofNat 8 num) st)
    | 8 => checked [(num != 0, 4), (ks != 0, 9), (64 ≤ base, 38)] (.park (BitVec.ofNat 6 base) st)
    | 9 => checked [(2 ≤ ks, 10), (ks % 2 = 0 && num != 0, 4), (2 ^ 15 ≤ base, 47)]
        (.sp (gregOf (ks % 2) num) (BitVec.ofNat 15 base) st)
    | 10 => checked [(2 ≤ ks, 10), (ks % 2 = 0 && num != 0, 4), (2 ^ 16 ≤ base, 48)]
        (.hr (gregOf (ks % 2) num) (BitVec.ofNat 16 base) st)
    | 11 => checked [(num != 0, 4), (ks != 0, 9), (stz, 64)] (.ring (BitVec.ofNat 32 base))
    | 12 => match unpack ksTensor ks, unpack baseTensor base with
      | [tid, sdim, z], [c0, c1, c2, c3, z'] => checked [(num != 0, 4), (z != 0, 29), (z' != 0, 52)]
          (.tensor (BitVec.ofNat 12 tid) (BitVec.ofNat 8 sdim) (Fin.ofNat 32 c0) (Fin.ofNat 32 c1)
            (Fin.ofNat 32 c2) (Fin.ofNat 32 c3) st)
      | _, _ => .error 0
    | 13 => match unpack baseKey base with
      | [tile, label, z] => checked [(2 ≤ ks, 10), (ks % 2 = 0 && num != 0, 4), (z != 0, 60)]
          (.ck (gregOf (ks % 2) num) (BitVec.ofNat 16 tile) (BitVec.ofNat 12 label) st)
      | _ => .error 0
    | 14 => checked [(2 ≤ num, 4), (2 ≤ ks, 10), (base != 0, 32), (stz, 64)] (.mq (Fin.ofNat 2 num) (ks % 2 = 1))
    | _ => .error 0
  | _ => .error 0

def gregBits : Option (Fin 32) → Nat × Nat
  | none => (0, 0)
  | some g => (1, g.val)

def Strides.nats (st : Strides) : List Nat := [st.s0.toNat, st.s1.toNat, st.s2.toNat, st.s3.toNat]

def packDesc (kind num ks base : Nat) (st : Strides) : Nat :=
  pack (descWidths.zip ([kind, num, ks, base] ++ st.nats))

/-- The descriptor of an operand (R199–R201). -/
def encodeOpnd : Opnd → Nat
  | .absent => packDesc 0 0 0 0 .zero
  | .v n km xen xnum st => packDesc 1 n.val (pack (ksV.zip [km.val, xen.toNat, xnum.val, 0])) 0 st
  | .lq n pop => packDesc 2 n.val pop.toNat 0 .zero
  | .sq n => packDesc 3 n.val 0 0 .zero
  | .imm w => packDesc 4 0 0 w.toNat .zero
  | .zrow n i st => packDesc 5 n.val 0 i.toNat st
  | .zcol n i st => packDesc 6 n.val 0 i.toNat st
  | .k n st => packDesc 7 n.val 0 0 st
  | .park p st => packDesc 8 0 0 p.toNat st
  | .sp g row st => packDesc 9 (gregBits g).2 (gregBits g).1 row.toNat st
  | .hr g h st => packDesc 10 (gregBits g).2 (gregBits g).1 h.toNat st
  | .ring base => packDesc 11 0 0 base.toNat .zero
  | .tensor tid sdim c0 c1 c2 c3 st => packDesc 12 0 (pack (ksTensor.zip [tid.toNat, sdim.toNat, 0]))
      (pack (baseTensor.zip [c0.val, c1.val, c2.val, c3.val, 0])) st
  | .ck g tile label st => packDesc 13 (gregBits g).2 (gregBits g).1
      (pack (baseKey.zip [tile.toNat, label.toNat, 0])) st
  | .mq n pop => packDesc 14 n.val pop.toNat 0 .zero

/-- The KIND of an operand (R200). -/
def Opnd.kind : Opnd → Nat
  | .absent => 0 | .v .. => 1 | .lq .. => 2 | .sq .. => 3 | .imm .. => 4 | .zrow .. => 5 | .zcol .. => 6
  | .k .. => 7 | .park .. => 8 | .sp .. => 9 | .hr .. => 10 | .ring .. => 11 | .tensor .. => 12 | .ck .. => 13
  | .mq .. => 14

/-- The strides of an operand, zero for the kinds that take none. -/
def Opnd.strides : Opnd → Strides
  | .v _ _ _ _ st | .zrow _ _ st | .zcol _ _ st | .k _ st | .park _ st | .sp _ _ st | .hr _ _ st
  | .tensor _ _ _ _ _ _ st | .ck _ _ _ st => st
  | _ => .zero

/-! ## The opcode map (R205) -/

noncomputable def slotTable0 : List (Slot → Instr) :=
    [.nop, .add, .sub, .mul, .mulhs, .mulhn, .madd, .divs, .divn, .rems, .remn, .and, .or, .xor, .andn,
    .shl, .shrl, .shra, .rotl, .clz, .ctz, .popc, .mins, .maxs, .minn, .maxn, .abss, .sext, .bfex, .bfin,
    .crc32, .movi]
noncomputable def slotTable1 : List (Slot → Instr) :=
    [.movh, .mov, .sel, .cmpeq, .cmpne, .cmplts, .cmples, .cmpltn, .cmplen, .tstb, .pand, .por, .pxor,
    .pnot, .pmov, .ldrow, .strow, .extl, .insl, .qld, .qst, .decide, .check, .trap, .rwaitf, .rwaite,
    .radvt, .radvh, .rclm, .rstat, .sacq, .srel]
noncomputable def slotTable2 : List (Slot → Instr) :=
    [.aarm, .await, .phreg, .phdrg, .pharv, .phwait, .phaw, .atadd, .atinc, .atbadd, .atcas, .atswp, .atmin,
    .atmax, .atand, .ator, .atxor, .atsnap, .ypop, .yclm, .fence, .mark, .rdtime, .waitt, .setdiv, .rdtick,
    .sysr, .sysw, .icinv, .tdrd, .tdwr]
/-- The CC slot operations by OP8 (R205). -/
noncomputable def slotTable : List (Slot → Instr) := slotTable0 ++ slotTable1 ++ slotTable2

def veTable0 : List (Rec → Instr) :=
    [.vnop, .fadd, .fsub, .fmul, .ffma, .ffms, .fnma, .fmin, .fmax, .fabs, .fneg, .fcps, .fdiv, .fsqrt,
    .frcp, .frsq, .fexp2, .flog2, .ftanh, .ffloor, .frint, .fcmpeq, .fcmplt, .fcmple, .fcmpun, .fcls,
    .fscal, .ffrac, .fcvtr, .hadd, .hmul, .hfma]
def veTable1 : List (Rec → Instr) :=
    [.hmax, .hmin, .iadd, .isub, .imul, .imulhs, .imulhn, .imins, .imaxs, .iminn, .imaxn, .iand, .ior,
    .ixor, .iandn, .ishl, .ishrl, .ishra, .iabs, .icmpeq, .icmplts, .icmpltn, .iclz, .ipopc, .imad, .isxt,
    .izxt, .bitrev, .badds, .baddn, .cvtfi, .cvtfn]
def veTable2 : List (Rec → Instr) :=
    [.cvtif, .cvtnf, .cvtfh, .cvthf, .cvtf8, .cvt8f, .cvti8, .cvt8i, .qmax, .qsc, .movv, .vmovi, .vsel,
    .perm, .rotm, .bcln, .comp, .expd, .lut16, .kand, .kor, .kxor, .knot, .kpopc, .kfirst, .kmov, .rsum,
    .rmax, .rmin, .rargmx, .scana, .scanm]
def veTable3 : List (Rec → Instr) :=
    [.histb, .topkv, .tcfg, .twrr, .trdr, .twrc, .trdc, .tzero, .trel, .trds, .vmode, .vflg, .vspl, .vfil]
/-- The VE records by OP (R205). -/
def veTable : List (Rec → Instr) := veTable0 ++ veTable1 ++ veTable2 ++ veTable3

def meTable0 : List (Rec → Instr) :=
    [.mnop, .ldb, .ldbh, .ldbs, .ldbt, .mma, .mmah, .mmag, .mmagh, .mmas, .mmasg, .bind, .binda, .bindm,
    .crd, .crdt, .czero, .crel, .crell, .cspl, .cfil, .cstat, .clbl, .ccpy, .cscal, .cadd, .cmaxr, .csumr,
    .cmode, .tstart, .tcommit, .mflg]
/-- The ME records by OP (R205). -/
def meTable : List (Rec → Instr) := meTable0

def seTable0 : List (Rec → Instr) :=
    [.snop, .cpin, .cpout, .cprr, .cpadd, .cpbc, .cpt, .cpcv, .cpq, .cpmask, .fill, .gath, .scat, .scata,
    .grpf, .grpo, .topk, .crds, .metaq, .sortk, .cntr, .csnap, .nsend, .nrecv, .nput, .nget, .natom,
    .nflush, .awrm, .aset, .sfence, .waitc]
def seTable1 : List (Rec → Instr) :=
    [.tdld, .tdinv, .pgdup, .pgmig, .pfch, .latq, .sevt, .cpchk, .radvx, .swait]
/-- The SE records by OP (R205). -/
def seTable : List (Rec → Instr) := seTable0 ++ seTable1

/-- The OP8 and the fields of a slot operation. -/
def slotOf : Instr → Option (Nat × Slot)
  | .nop sl => some (0, sl)
  | .add sl => some (1, sl)
  | .sub sl => some (2, sl)
  | .mul sl => some (3, sl)
  | .mulhs sl => some (4, sl)
  | .mulhn sl => some (5, sl)
  | .madd sl => some (6, sl)
  | .divs sl => some (7, sl)
  | .divn sl => some (8, sl)
  | .rems sl => some (9, sl)
  | .remn sl => some (10, sl)
  | .and sl => some (11, sl)
  | .or sl => some (12, sl)
  | .xor sl => some (13, sl)
  | .andn sl => some (14, sl)
  | .shl sl => some (15, sl)
  | .shrl sl => some (16, sl)
  | .shra sl => some (17, sl)
  | .rotl sl => some (18, sl)
  | .clz sl => some (19, sl)
  | .ctz sl => some (20, sl)
  | .popc sl => some (21, sl)
  | .mins sl => some (22, sl)
  | .maxs sl => some (23, sl)
  | .minn sl => some (24, sl)
  | .maxn sl => some (25, sl)
  | .abss sl => some (26, sl)
  | .sext sl => some (27, sl)
  | .bfex sl => some (28, sl)
  | .bfin sl => some (29, sl)
  | .crc32 sl => some (30, sl)
  | .movi sl => some (31, sl)
  | .movh sl => some (32, sl)
  | .mov sl => some (33, sl)
  | .sel sl => some (34, sl)
  | .cmpeq sl => some (35, sl)
  | .cmpne sl => some (36, sl)
  | .cmplts sl => some (37, sl)
  | .cmples sl => some (38, sl)
  | .cmpltn sl => some (39, sl)
  | .cmplen sl => some (40, sl)
  | .tstb sl => some (41, sl)
  | .pand sl => some (42, sl)
  | .por sl => some (43, sl)
  | .pxor sl => some (44, sl)
  | .pnot sl => some (45, sl)
  | .pmov sl => some (46, sl)
  | .ldrow sl => some (47, sl)
  | .strow sl => some (48, sl)
  | .extl sl => some (49, sl)
  | .insl sl => some (50, sl)
  | .qld sl => some (51, sl)
  | .qst sl => some (52, sl)
  | .decide sl => some (53, sl)
  | .check sl => some (54, sl)
  | .trap sl => some (55, sl)
  | .rwaitf sl => some (56, sl)
  | .rwaite sl => some (57, sl)
  | .radvt sl => some (58, sl)
  | .radvh sl => some (59, sl)
  | .rclm sl => some (60, sl)
  | .rstat sl => some (61, sl)
  | .sacq sl => some (62, sl)
  | .srel sl => some (63, sl)
  | .aarm sl => some (64, sl)
  | .await sl => some (65, sl)
  | .phreg sl => some (66, sl)
  | .phdrg sl => some (67, sl)
  | .pharv sl => some (68, sl)
  | .phwait sl => some (69, sl)
  | .phaw sl => some (70, sl)
  | .atadd sl => some (71, sl)
  | .atinc sl => some (72, sl)
  | .atbadd sl => some (73, sl)
  | .atcas sl => some (74, sl)
  | .atswp sl => some (75, sl)
  | .atmin sl => some (76, sl)
  | .atmax sl => some (77, sl)
  | .atand sl => some (78, sl)
  | .ator sl => some (79, sl)
  | .atxor sl => some (80, sl)
  | .atsnap sl => some (81, sl)
  | .ypop sl => some (82, sl)
  | .yclm sl => some (83, sl)
  | .fence sl => some (84, sl)
  | .mark sl => some (85, sl)
  | .rdtime sl => some (86, sl)
  | .waitt sl => some (87, sl)
  | .setdiv sl => some (88, sl)
  | .rdtick sl => some (89, sl)
  | .sysr sl => some (90, sl)
  | .sysw sl => some (91, sl)
  | .icinv sl => some (92, sl)
  | .tdrd sl => some (93, sl)
  | .tdwr sl => some (94, sl)
  | _ => none

/-- The engine, OP and fields of a record other than the control records; the modified forms share the OP of
their base form, and the deprecated values are those of R330. -/
def recOf : Instr → Option (Eng × Nat × Rec)
  | .qlds r => some (.cc, 1, r)
  | .qsts r => some (.cc, 2, r)
  | .vnop r => some (.ve, 0, r)
  | .fadd r => some (.ve, 1, r)
  | .fsub r => some (.ve, 2, r)
  | .fmul r => some (.ve, 3, r)
  | .ffma r => some (.ve, 4, r)
  | .ffms r => some (.ve, 5, r)
  | .fnma r => some (.ve, 6, r)
  | .fmin r => some (.ve, 7, r)
  | .fmax r => some (.ve, 8, r)
  | .fabs r => some (.ve, 9, r)
  | .fneg r => some (.ve, 10, r)
  | .fcps r => some (.ve, 11, r)
  | .fdiv r => some (.ve, 12, r)
  | .fsqrt r => some (.ve, 13, r)
  | .frcp r => some (.ve, 14, r)
  | .frsq r => some (.ve, 15, r)
  | .fexp2 r => some (.ve, 16, r)
  | .flog2 r => some (.ve, 17, r)
  | .ftanh r => some (.ve, 18, r)
  | .ffloor r => some (.ve, 19, r)
  | .frint r => some (.ve, 20, r)
  | .fcmpeq r => some (.ve, 21, r)
  | .fcmplt r => some (.ve, 22, r)
  | .fcmple r => some (.ve, 23, r)
  | .fcmpun r => some (.ve, 24, r)
  | .fcls r => some (.ve, 25, r)
  | .fscal r => some (.ve, 26, r)
  | .ffrac r => some (.ve, 27, r)
  | .fcvtr r => some (.ve, 28, r)
  | .hadd r => some (.ve, 29, r)
  | .hmul r => some (.ve, 30, r)
  | .hfma r => some (.ve, 31, r)
  | .hmax r => some (.ve, 32, r)
  | .hmin r => some (.ve, 33, r)
  | .iadd r => some (.ve, 34, r)
  | .isub r => some (.ve, 35, r)
  | .imul r => some (.ve, 36, r)
  | .imulhs r => some (.ve, 37, r)
  | .imulhn r => some (.ve, 38, r)
  | .imins r => some (.ve, 39, r)
  | .imaxs r => some (.ve, 40, r)
  | .iminn r => some (.ve, 41, r)
  | .imaxn r => some (.ve, 42, r)
  | .iand r => some (.ve, 43, r)
  | .ior r => some (.ve, 44, r)
  | .ixor r => some (.ve, 45, r)
  | .iandn r => some (.ve, 46, r)
  | .ishl r => some (.ve, 47, r)
  | .ishrl r => some (.ve, 48, r)
  | .ishra r => some (.ve, 49, r)
  | .iabs r => some (.ve, 50, r)
  | .icmpeq r => some (.ve, 51, r)
  | .icmplts r => some (.ve, 52, r)
  | .icmpltn r => some (.ve, 53, r)
  | .iclz r => some (.ve, 54, r)
  | .ipopc r => some (.ve, 55, r)
  | .imad r => some (.ve, 56, r)
  | .isxt r => some (.ve, 57, r)
  | .izxt r => some (.ve, 58, r)
  | .bitrev r => some (.ve, 59, r)
  | .badds r => some (.ve, 60, r)
  | .baddn r => some (.ve, 61, r)
  | .cvtfi r => some (.ve, 62, r)
  | .cvtfn r => some (.ve, 63, r)
  | .cvtif r => some (.ve, 64, r)
  | .cvtnf r => some (.ve, 65, r)
  | .cvtfh r => some (.ve, 66, r)
  | .cvthf r => some (.ve, 67, r)
  | .cvtf8 r => some (.ve, 68, r)
  | .cvt8f r => some (.ve, 69, r)
  | .cvti8 r => some (.ve, 70, r)
  | .cvt8i r => some (.ve, 71, r)
  | .qmax r => some (.ve, 72, r)
  | .qsc r => some (.ve, 73, r)
  | .movv r => some (.ve, 74, r)
  | .vmovi r => some (.ve, 75, r)
  | .vsel r => some (.ve, 76, r)
  | .perm r => some (.ve, 77, r)
  | .rotm r => some (.ve, 78, r)
  | .bcln r => some (.ve, 79, r)
  | .comp r => some (.ve, 80, r)
  | .expd r => some (.ve, 81, r)
  | .lut16 r => some (.ve, 82, r)
  | .kand r => some (.ve, 83, r)
  | .kor r => some (.ve, 84, r)
  | .kxor r => some (.ve, 85, r)
  | .knot r => some (.ve, 86, r)
  | .kpopc r => some (.ve, 87, r)
  | .kfirst r => some (.ve, 88, r)
  | .kmov r => some (.ve, 89, r)
  | .rsum r => some (.ve, 90, r)
  | .rmax r => some (.ve, 91, r)
  | .rmin r => some (.ve, 92, r)
  | .rargmx r => some (.ve, 93, r)
  | .scana r => some (.ve, 94, r)
  | .scanm r => some (.ve, 95, r)
  | .histb r => some (.ve, 96, r)
  | .topkv r => some (.ve, 97, r)
  | .tcfg r => some (.ve, 98, r)
  | .twrr r => some (.ve, 99, r)
  | .trdr r => some (.ve, 100, r)
  | .twrc r => some (.ve, 101, r)
  | .trdc r => some (.ve, 102, r)
  | .tzero r => some (.ve, 103, r)
  | .trel r => some (.ve, 104, r)
  | .trds r => some (.ve, 105, r)
  | .vmode r => some (.ve, 106, r)
  | .vflg r => some (.ve, 107, r)
  | .vspl r => some (.ve, 108, r)
  | .vfil r => some (.ve, 109, r)
  | .kmovHi r => some (.ve, 89, r)
  | .vflgC r => some (.ve, 107, r)
  | .mnop r => some (.me, 0, r)
  | .ldb r => some (.me, 1, r)
  | .ldbh r => some (.me, 2, r)
  | .ldbs r => some (.me, 3, r)
  | .ldbt r => some (.me, 4, r)
  | .mma r => some (.me, 5, r)
  | .mmah r => some (.me, 6, r)
  | .mmag r => some (.me, 7, r)
  | .mmagh r => some (.me, 8, r)
  | .mmas r => some (.me, 9, r)
  | .mmasg r => some (.me, 10, r)
  | .bind r => some (.me, 11, r)
  | .binda r => some (.me, 12, r)
  | .bindm r => some (.me, 13, r)
  | .crd r => some (.me, 14, r)
  | .crdt r => some (.me, 15, r)
  | .czero r => some (.me, 16, r)
  | .crel r => some (.me, 17, r)
  | .crell r => some (.me, 18, r)
  | .cspl r => some (.me, 19, r)
  | .cfil r => some (.me, 20, r)
  | .cstat r => some (.me, 21, r)
  | .clbl r => some (.me, 22, r)
  | .ccpy r => some (.me, 23, r)
  | .cscal r => some (.me, 24, r)
  | .cadd r => some (.me, 25, r)
  | .cmaxr r => some (.me, 26, r)
  | .csumr r => some (.me, 27, r)
  | .cmode r => some (.me, 28, r)
  | .tstart r => some (.me, 29, r)
  | .tcommit r => some (.me, 30, r)
  | .mflg r => some (.me, 31, r)
  | .cfilF32 r => some (.me, 20, r)
  | .cfilBf16 r => some (.me, 20, r)
  | .clblR r => some (.me, 22, r)
  | .mflgC r => some (.me, 31, r)
  | .snop r => some (.se, 0, r)
  | .cpin r => some (.se, 1, r)
  | .cpout r => some (.se, 2, r)
  | .cprr r => some (.se, 3, r)
  | .cpadd r => some (.se, 4, r)
  | .cpbc r => some (.se, 5, r)
  | .cpt r => some (.se, 6, r)
  | .cpcv r => some (.se, 7, r)
  | .cpq r => some (.se, 8, r)
  | .cpmask r => some (.se, 9, r)
  | .fill r => some (.se, 10, r)
  | .gath r => some (.se, 11, r)
  | .scat r => some (.se, 12, r)
  | .scata r => some (.se, 13, r)
  | .grpf r => some (.se, 14, r)
  | .grpo r => some (.se, 15, r)
  | .topk r => some (.se, 16, r)
  | .crds r => some (.se, 17, r)
  | .metaq r => some (.se, 18, r)
  | .sortk r => some (.se, 19, r)
  | .cntr r => some (.se, 20, r)
  | .csnap r => some (.se, 21, r)
  | .nsend r => some (.se, 22, r)
  | .nrecv r => some (.se, 23, r)
  | .nput r => some (.se, 24, r)
  | .nget r => some (.se, 25, r)
  | .natom r => some (.se, 26, r)
  | .nflush r => some (.se, 27, r)
  | .awrm r => some (.se, 28, r)
  | .aset r => some (.se, 29, r)
  | .sfence r => some (.se, 30, r)
  | .waitc r => some (.se, 31, r)
  | .tdld r => some (.se, 32, r)
  | .tdinv r => some (.se, 33, r)
  | .pgdup r => some (.se, 34, r)
  | .pgmig r => some (.se, 35, r)
  | .pfch r => some (.se, 36, r)
  | .latq r => some (.se, 37, r)
  | .sevt r => some (.se, 38, r)
  | .cpchk r => some (.se, 39, r)
  | .radvx r => some (.se, 40, r)
  | .swait r => some (.se, 41, r)
  | .cprrPull r => some (.se, 3, r)
  | .radvxX r => some (.se, 40, r)
  | .sevtH r => some (.se, 38, r)
  | .vclrf r => some (.ve, 0x06E, r)
  | .ldbw r => some (.me, 0x020, r)
  | .cpins r => some (.se, 0x02A, r)
  | _ => none

/-! ## The entry checks: which operands, MOD values and immediates an entry takes -/

/-- What an entry takes: the kinds of the three operands, the third source (0 none, 1 optional, 2 required), the
largest MOD value, whether MOD[4] is the promise qualifier (R288), and any further check. -/
structure Entry where
  k0    : List Nat
  k1    : List Nat
  k2    : List Nat
  third : Nat := 0
  mods  : Nat := 0
  prom  : Bool := false
  more  : Rec → Option (Why × Nat × Nat) := fun _ => none

/-- vdst and vsrc of R241. -/
def vdst : List Nat := [1, 3]
def vsrc : List Nat := [1, 2, 4, 14]
/-- A K or V destination (R247). -/
def kvdst : List Nat := [7, 1, 3]

def Rec.immBad (o : Opnd) (word lo : Nat) : Option (Why × Nat × Nat) :=
  match o with
  | .imm w => if highSet w lo then some (.value, word, 32 + lo) else none
  | _ => none

/-- An immediate of at most the given value. -/
def immAbove (o : Opnd) (word hi : Nat) : Option (Why × Nat × Nat) :=
  match o with
  | .imm w => if hi < w.toNat then some (.value, word, 32) else none
  | _ => none

/-- A completion operand (R287): AW 0 reserves [30:17], AW 1 reserves [30:19]. -/
def ringBad (o : Opnd) (word : Nat) : Option (Why × Nat × Nat) :=
  match o with
  | .ring b =>
    let lo := if b.msb then 19 else 17
    if b.toNat % 2 ^ 31 / 2 ^ lo != 0 then some (.value, word, 32 + lo) else none
  | _ => none

/-- A KIND 11 operand whose AW must have the given value. -/
def awMust (aw : Bool) (o : Opnd) (word : Nat) : Option (Why × Nat × Nat) :=
  match o with
  | .ring b => if b.msb != aw then some (.value, word, 63) else ringBad o word
  | _ => none

/-- A BIND operand 1 has label 0 (R276). -/
def labelZero (o : Opnd) (word : Nat) : Option (Why × Nat × Nat) :=
  match o with
  | .ck _ _ l _ => if l != 0 then some (.value, word, 48) else none
  | _ => none

/-- An MQ destination has POP 0 (R269). -/
def mqDst (r : Rec) : Option (Why × Nat × Nat) :=
  match r.o0 with
  | .mq _ true => some (.value, 2, 9)
  | _ => none

/-- A whole-tile operand has BASE 0 (R264). -/
def wholeTile (o : Opnd) (word : Nat) : Option (Why × Nat × Nat) :=
  match o with
  | .zrow _ i _ => if i != 0 then some (.value, word, 32) else none
  | _ => none

/-- A form that reads its own destination cannot have an SQ destination (R243). -/
def mrgNoSq (bit : Nat) (r : Rec) : Option (Why × Nat × Nat) :=
  match r.o0 with
  | .sq _ => if r.mod.getLsbD bit then some (.modifier, 0, 11) else none
  | _ => none

/-- Strides zero in every operand, and a nest of 1 when asked (R298, R300, R301, R303, R306, R311). -/
def noSteps (nestOne : Bool) (r : Rec) : Option (Why × Nat × Nat) :=
  if nestOne && r.nest != 0 then some (.nest, 1, 0)
  else if r.o0.strides != .zero then some (.value, 3, 0)
  else if r.o1.strides != .zero then some (.value, 5, 0)
  else if r.o2.strides != .zero then some (.value, 7, 0)
  else none

/-- Of operands 0 and 1 one is a scratchpad row and the other a tensor (R295–R297). -/
def oneTensor (r : Rec) : Option (Why × Nat × Nat) :=
  if r.o0.kind = r.o1.kind then some (.kind, 4, 0) else none

def modZero (r : Rec) (lo n : Nat) : Option (Why × Nat × Nat) :=
  if r.mod.toNat / 2 ^ lo % 2 ^ n != 0 then some (.modifier, 0, 11 + lo) else none

/-- The iterations of a nest word (R25, R198). -/
def nestTotal (nest : BitVec 64) : Nat :=
  (nest.toNat % 65536 + 1) * (nest.toNat / 65536 % 65536 + 1) * (nest.toNat / 2 ^ 32 % 65536 + 1)
    * (nest.toNat / 2 ^ 48 + 1)

/-- The rectangle of CPBC stays on its die (R292). -/
def cpbcRect (w : BitVec 32) : Bool :=
  let org := w.toNat % 128
  let lw := w.toNat / 128 % 8
  let lh := w.toNat / 1024 % 8
  lw ≤ 3 && lh ≤ 3 && org % 8 + 2 ^ lw ≤ 8 && org / 8 % 8 + 2 ^ lh ≤ 8

/-- The first failing check of a list. -/
def firstOf : List (Option (Why × Nat × Nat)) → Option (Why × Nat × Nat)
  | [] => none
  | some x :: _ => some x
  | none :: l => firstOf l

def entNone : Entry := ⟨[0], [0], [0], 0, 0, false, fun _ => none⟩
def entBin : Entry := ⟨vdst, vsrc, vsrc, 0, 0, false, fun _ => none⟩
def entTri : Entry := ⟨vdst, vsrc, vsrc, 2, 0, false, fun _ => none⟩
def entUn : Entry := ⟨vdst, vsrc, [0], 0, 0, false, fun _ => none⟩
def entUnMod (m : Nat) : Entry := ⟨vdst, vsrc, [0], 0, m, false, fun _ => none⟩
def entCmp : Entry := ⟨kvdst, vsrc, vsrc, 0, 7, false, fun _ => none⟩
def entKK : Entry := ⟨[7], [7], [7], 0, 0, false, fun _ => none⟩
def entK : Entry := ⟨[7], [7], [0], 0, 0, false, fun _ => none⟩
/-- 8-bit passes, BF16 passes (R272). -/
def entPass8 (a : Nat) : Entry := ⟨[13], [a], [9, 0], 0, 7, false, fun _ => none⟩
def entPassH (a : Nat) : Entry := ⟨[13], [a], [0], 0, 1, false, fun _ => none⟩
def entLoad (a : Nat) : Entry := ⟨[0], [a], [9, 0], 0, 1, false, fun _ => none⟩
def entBind : Entry := ⟨[14, 9], [13], [9], 0, 3, false, fun r => firstOf [mqDst r, labelZero r.o1 4]⟩
/-- CRD and CRDT: unused bits of P are zero (R277). -/
def entCrd : Entry := ⟨[14, 9], [13], [0], 0, 15, false, fun r => firstOf [mqDst r,
  match r.mod.toNat % 4 with
  | 0 => none
  | 1 => modZero r 3 1
  | _ => modZero r 2 2]⟩
def entKey : Entry := ⟨[13], [0], [0], 0, 0, false, fun _ => none⟩
def entCopyIn : Entry := ⟨[9], [12], [0, 11], 0, 0, true, fun r => ringBad r.o2 6⟩
def entCopyOut : Entry := ⟨[12], [9], [0, 11], 0, 0, true, fun r => ringBad r.o2 6⟩

/-- The entry of a record (R244–R317, R217, R330). -/
def entryOf : Instr → Option Entry
  | .qlds _ => some ⟨[0], [9], [0], 0, 3, false, fun _ => none⟩
  | .qsts _ => some ⟨[9], [0], [0], 0, 1, false, fun _ => none⟩
  | .vnop _ | .vclrf _ | .mnop _ | .snop _ | .tcommit _ => some entNone
  | .fadd _ | .fsub _ | .fmul _ | .fmin _ | .fmax _ | .fcps _ | .fdiv _ | .fscal _ | .hadd _ | .hmul _ | .hmax _
  | .hmin _ | .iadd _ | .isub _ | .imul _ | .imulhs _ | .imulhn _ | .imins _ | .imaxs _ | .iminn _ | .imaxn _
  | .iand _ | .ior _ | .ixor _ | .iandn _ | .ishl _ | .ishrl _ | .ishra _ | .badds _ | .baddn _ => some entBin
  | .ffma _ | .ffms _ | .fnma _ | .hfma _ | .imad _ | .perm _ => some entTri
  | .fabs _ | .fneg _ | .fsqrt _ | .frcp _ | .frsq _ | .fexp2 _ | .flog2 _ | .ftanh _ | .ffloor _ | .frint _
  | .ffrac _ | .fcls _ | .iabs _ | .iclz _ | .ipopc _ | .bitrev _ | .cvtfi _ | .cvtfn _ | .cvtif _ | .cvtnf _ =>
    some entUn
  | .fcvtr _ | .qsc _ => some (entUnMod 2)
  | .fcmpeq _ | .fcmplt _ | .fcmple _ | .fcmpun _ | .icmpeq _ | .icmplts _ | .icmpltn _ => some entCmp
  | .isxt _ | .izxt _ => some ⟨vdst, vsrc, [0], 0, 7, false,
      fun r => if r.mod.getLsbD 0 && r.mod.getLsbD 2 then some (.modifier, 0, 11) else none⟩
  | .cvtfh _ => some ⟨vdst, vsrc, [0], 0, 3, false, mrgNoSq 1⟩
  | .cvthf _ => some (entUnMod 1)
  | .cvtf8 _ | .cvti8 _ => some ⟨vdst, vsrc, [0], 0, 15, false, mrgNoSq 3⟩
  | .cvt8f _ | .cvt8i _ | .qmax _ | .comp _ | .expd _ => some (entUnMod 7)
  | .movv _ => some ⟨vdst, [1, 2, 14], [0], 0, 0, false, fun _ => none⟩
  | .vmovi _ => some ⟨vdst, [4], [0], 0, 1, false, fun _ => none⟩
  | .vsel _ | .lut16 _ => some ⟨vdst, vsrc, vsrc, 0, 7, false, fun _ => none⟩
  | .rotm _ => some ⟨vdst, vsrc, vsrc, 1, 31, false, fun r =>
      match r.o0 with
      | .v _ _ true _ _ => modZero r 0 5
      | _ => none⟩
  | .bcln _ => some ⟨vdst, vsrc, [4], 0, 0, false, fun r => Rec.immBad r.o2 6 6⟩
  | .kand _ | .kor _ | .kxor _ => some entKK
  | .knot _ | .kfirst _ => some entK
  | .kpopc _ => some ⟨vdst, [7], [0], 0, 0, false, fun _ => none⟩
  | .kmov _ => some ⟨kvdst, [7, 1, 4], [0], 0, 0, false, fun r =>
      if r.o0.kind != 7 && r.o1.kind != 7 then some (.kind, 4, 0) else none⟩
  | .kmovHi _ => some ⟨[7], [4], [0], 0, 1, false, fun _ => none⟩
  | .rsum _ | .rmax _ | .rmin _ | .rargmx _ | .scana _ | .scanm _ => some (entUnMod 15)
  | .histb _ => some ⟨vdst, vsrc, [0], 1, 7, false, fun _ => none⟩
  | .topkv _ => some ⟨vdst, vsrc, [0, 7], 0, 15, false, fun _ => none⟩
  | .tcfg _ => some ⟨[5], [4], [0], 0, 0, false, fun r => firstOf [wholeTile r.o0 2, Rec.immBad r.o1 4 9]⟩
  | .twrr _ => some ⟨[5], vsrc, [0], 0, 0, false, fun _ => none⟩
  | .trdr _ => some ⟨vdst, [5], [0], 0, 0, false, fun _ => none⟩
  | .twrc _ => some ⟨[6], vsrc, [0], 0, 0, false, fun _ => none⟩
  | .trdc _ => some ⟨vdst, [6], [0], 0, 0, false, fun _ => none⟩
  | .tzero _ | .trel _ => some ⟨[5], [0], [0], 0, 0, false, fun r => wholeTile r.o0 2⟩
  | .trds _ => some ⟨vdst, [5], [0], 0, 0, false, fun r => wholeTile r.o1 4⟩
  | .vmode _ | .cmode _ => some ⟨[0], [4], [0], 0, 0, false, fun r => Rec.immBad r.o1 4 4⟩
  | .vflg _ => some ⟨vdst, [0], [0], 0, 0, false, fun _ => none⟩
  | .vflgC _ => some ⟨[0, 1, 3], [4], [0], 0, 1, false, fun r => Rec.immBad r.o1 4 6⟩
  | .vspl _ => some ⟨[8], [1], [0], 0, 0, false, fun _ => none⟩
  | .vfil _ => some ⟨vdst, [8], [0], 0, 0, false, fun _ => none⟩
  | .ldb _ | .ldbs _ | .ldbw _ => some (entLoad 9)
  | .ldbt _ => some (entLoad 10)
  | .ldbh _ => some ⟨[0], [9], [0], 0, 1, false, fun _ => none⟩
  | .mma _ | .mmas _ => some (entPass8 10)
  | .mmag _ | .mmasg _ => some (entPass8 9)
  | .mmah _ => some (entPassH 10)
  | .mmagh _ => some (entPassH 9)
  | .bind _ | .binda _ => some entBind
  | .bindm _ => some ⟨[13], [13], [9], 0, 1, false, fun r => labelZero r.o1 4⟩
  | .crd _ | .crdt _ => some entCrd
  | .czero _ | .crel _ | .cspl _ | .cfil _ | .tstart _ => some entKey
  | .crell _ => some ⟨[0], [4], [0], 0, 0, false, fun r => Rec.immBad r.o1 4 12⟩
  | .cfilF32 _ => some ⟨[13], [9], [0], 0, 0, false, fun _ => none⟩
  | .cfilBf16 _ => some ⟨[13], [9], [0], 0, 1, false, fun _ => none⟩
  | .cstat _ => some ⟨[14, 9], [0], [0], 0, 0, false, mqDst⟩
  | .clbl _ => some ⟨[13], [4], [0], 0, 0, false, fun r => Rec.immBad r.o1 4 1⟩
  | .clblR _ => some ⟨[13], [13], [0], 0, 1, false, fun _ => none⟩
  | .ccpy _ => some ⟨[13], [13], [0], 0, 0, false, fun _ => none⟩
  | .cscal _ => some ⟨[13], [13], [4, 9], 0, 0, false, fun _ => none⟩
  | .cadd _ => some ⟨[13], [13], [13], 0, 0, false, fun _ => none⟩
  | .cmaxr _ | .csumr _ => some ⟨[14, 9], [13], [0], 0, 1, false, mqDst⟩
  | .mflg _ => some ⟨[14, 9], [0], [0], 0, 0, false, mqDst⟩
  | .mflgC _ => some ⟨[0, 14, 9], [4], [0], 0, 1, false, fun r => firstOf [mqDst r, Rec.immBad r.o1 4 6]⟩
  | .cpin _ | .cpins _ | .nget _ => some entCopyIn
  | .cpout _ => some entCopyOut
  | .cprr _ => some ⟨[9], [9], [4], 0, 0, false, fun r => Rec.immBad r.o2 6 7⟩
  | .cprrPull _ => some ⟨[9], [9], [4], 0, 1, false, fun r => Rec.immBad r.o2 6 7⟩
  | .cpadd _ => some ⟨[9, 12], [9, 12], [0, 11], 0, 3, true, fun r => firstOf [
      if r.o0.kind = 12 && r.o1.kind = 12 then some (.kind, 4, 0) else none, ringBad r.o2 6]⟩
  | .cpbc _ => some ⟨[9], [9, 12], [4], 0, 0, true, fun r => firstOf [Rec.immBad r.o2 6 13,
      match r.o2 with
      | .imm w => if cpbcRect w then none else some (.value, 6, 32)
      | _ => none]⟩
  | .cpt _ => some ⟨[9, 12], [9, 12], [0], 0, 0, true, oneTensor⟩
  | .cpcv _ => some ⟨[9, 12], [9, 12], [4], 0, 0, true, fun r => firstOf [oneTensor r, Rec.immBad r.o2 6 8,
      match r.o2 with
      | .imm w => if w.toNat % 16 = 0 || 4 < w.toNat % 16 then some (.value, 6, 32) else none
      | _ => none]⟩
  | .cpq _ => some ⟨[12], [9], [4], 0, 0, true, fun r => firstOf [Rec.immBad r.o2 6 8,
      match r.o2 with
      | .imm w => if w.toNat % 16 != 0 then some (.value, 6, 32) else none
      | _ => none]⟩
  | .cpmask _ => some ⟨[9, 12], [9, 12], [9], 0, 0, true, oneTensor⟩
  | .fill _ => some ⟨[9, 12], [4], [0, 11], 0, 0, true, fun r => ringBad r.o2 6⟩
  | .gath _ => some ⟨[9], [9, 12], [9], 0, 3, true, noSteps false⟩
  | .scat _ => some ⟨[9, 12], [9], [9], 0, 3, true, noSteps false⟩
  | .scata _ => some ⟨[9, 12], [9], [9], 0, 15, true, noSteps false⟩
  | .grpf _ => some ⟨[9], [10], [9], 0, 1, false, noSteps true⟩
  | .grpo _ => some ⟨[9, 12], [9], [9], 0, 0, true, noSteps true⟩
  | .topk _ => some ⟨[9], [9, 12], [4], 0, 15, true, fun r =>
      match r.o2 with
      | .imm w => if w.toNat = 0 || 256 < w.toNat then some (.value, 6, 32) else none
      | _ => none⟩
  | .crds _ => some ⟨[9, 12], [13], [0, 11], 0, 15, true, fun r => firstOf [ringBad r.o2 6,
      if r.mod.getLsbD 0 then none else modZero r 1 3,
      if (if r.mod.getLsbD 0 then 256 else 512) < nestTotal r.nest then some (.nest, 1, 0) else none]⟩
  | .metaq _ => some ⟨[0], [9, 12], [0], 0, 0, true, fun _ => none⟩
  | .sortk _ => some ⟨[9], [9], [4], 0, 1, false, fun r => firstOf [noSteps true r,
      match r.o2 with
      | .imm w => if w.toNat = 0 || 8192 < w.toNat then some (.value, 6, 32) else none
      | _ => none]⟩
  | .cntr _ => some ⟨[0], [9], [4], 0, 1, false, fun r => firstOf [noSteps false r,
      match r.o2 with
      | .imm w => if w.toNat = 0 || 16777215 < w.toNat then some (.value, 6, 32) else none
      | _ => none]⟩
  | .csnap _ => some ⟨[9], [0], [4], 0, 1, false, fun r => firstOf [Rec.immBad r.o2 6 16,
      match r.o2 with
      | .imm w => if 256 < w.toNat % 256 + w.toNat / 256 % 256 + 1 then some (.value, 6, 32) else none
      | _ => none]⟩
  | .nsend _ => some ⟨[4], [9], [0, 11], 0, 0, false, fun r => firstOf [Rec.immBad r.o0 2 22, ringBad r.o2 6,
      if 127 < nestTotal r.nest then some (.nest, 1, 0) else none]⟩
  | .nrecv _ => some ⟨[0, 11], [0, 11], [4], 0, 0, false, fun r => firstOf [awMust false r.o0 2, awMust true r.o1 4,
      Rec.immBad r.o2 6 10]⟩
  | .nput _ => some ⟨[12], [9], [0, 4, 11], 0, 0, true, fun r => firstOf [ringBad r.o2 6, Rec.immBad r.o2 6 10]⟩
  | .natom _ => some ⟨[9], [12], [9], 0, 0, true, noSteps true⟩
  | .nflush _ => some ⟨[0], [0], [0, 11], 0, 0, false, fun r => ringBad r.o2 6⟩
  | .awrm _ => some ⟨[11], [4], [0], 0, 0, false, fun r => awMust true r.o0 2⟩
  | .aset _ => some ⟨[11], [4], [0], 0, 0, false, fun r => firstOf [awMust true r.o0 2, Rec.immBad r.o1 4 16]⟩
  | .sfence _ => some ⟨[0], [4], [0], 0, 0, false, fun r => firstOf [Rec.immBad r.o1 4 4,
      match r.o1 with
      | .imm w => if 4 < w.toNat % 8 then some (.value, 4, 32)
          else if w.getLsbD 3 && w.toNat % 8 < 3 then some (.value, 4, 35) else none
      | _ => none]⟩
  | .waitc _ => some ⟨[0, 9], [0], [0], 0, 0, false, fun _ => none⟩
  | .tdld _ | .tdinv _ => some ⟨[0], [4], [0], 0, 0, false, fun r => Rec.immBad r.o1 4 12⟩
  | .pgdup _ | .pgmig _ => some ⟨[0, 9], [12], [4], 0, 0, true, fun r => firstOf [Rec.immBad r.o2 6 14,
      match r.o2 with
      | .imm w => if 1 < w.toNat % 4 then some (.value, 6, 32) else none
      | _ => none]⟩
  | .pfch _ => some ⟨[0], [12], [0], 0, 0, true, fun _ => none⟩
  | .latq _ => some ⟨[9], [12], [0], 0, 0, false, fun _ => none⟩
  | .sevt _ => some ⟨[9], [12], [0], 0, 0, false, fun _ => none⟩
  | .sevtH _ => some ⟨[9], [0], [4], 0, 1, false, fun r => Rec.immBad r.o2 6 16⟩
  | .cpchk _ => some ⟨[9], [9, 12], [0, 4], 0, 0, true, fun _ => none⟩
  | .radvx _ => some ⟨[11], [4], [0], 0, 0, false, fun r => firstOf [awMust false r.o0 2,
      match r.o1 with
      | .imm w => if w.getLsbD 7 then some (.value, 4, 39) else none
      | _ => none]⟩
  | .radvxX _ => some ⟨[11], [4], [0], 0, 1, false, fun r => firstOf [awMust false r.o0 2,
      match r.o1 with
      | .imm w => if w.getLsbD 7 then some (.value, 4, 39) else none
      | _ => none]⟩
  | .swait _ => some ⟨[11], [4], [0], 0, 1, false, fun r => firstOf [ringBad r.o0 2,
      match r.o0 with
      | .ring b => if b.msb then modZero r 0 1 else none
      | _ => none]⟩
  | _ => none

/-- KM and XEN belong to operand 0 only (R200). -/
def misplaced (o : Opnd) (word : Nat) : Option (Why × Nat × Nat) :=
  match o with
  | .v _ km xen _ _ => if km != 0 then some (.operand, word, 9) else if xen then some (.operand, word, 12) else none
  | _ => none

/-- The third source: absent, optional or required (R200, R241). -/
def thirdBad (third : Nat) (o : Opnd) : Option (Why × Nat × Nat) :=
  let xen := match o with
    | .v _ _ x _ _ => x
    | _ => false
  if third = 0 && xen then some (.operand, 2, 12) else if third = 2 && !xen then some (.operand, 2, 12) else none

/-- The checks of an entry on a record, header first and then operand by operand. -/
def Entry.bad (e : Entry) (r : Rec) : Option (Why × Nat × Nat) :=
  let promUsed := r.mod.getLsbD 4
  let m := if e.prom then r.mod.toNat % 16 else r.mod.toNat
  firstOf [
    if e.mods < m then some (.modifier, 0, 11) else none,
    if e.prom && promUsed && r.o0.kind != 12 && r.o1.kind != 12 then some (.modifier, 0, 15) else none,
    if e.k0.contains r.o0.kind then none else some (.kind, 2, 0),
    if e.k1.contains r.o1.kind then none else some (.kind, 4, 0),
    if e.k2.contains r.o2.kind then none else some (.kind, 6, 0),
    thirdBad e.third r.o0, misplaced r.o1 4, misplaced r.o2 6, e.more r]

/-- The entry check of a record: none when its operands, MOD and immediates are ones its entry defines. -/
def recCheck (i : Instr) : Option (Why × Nat × Nat) :=
  match recOf i, entryOf i with
  | some (_, _, r), some e => e.bad r
  | _, _ => none

/-! ## Slots (R202, R215) -/

/-- What a slot entry takes: IMM (0 zero, 1 one, 2 either), the numbers of legal DST, SA and SB values, the legal
SZ values, and a check of IMM32 that answers the lowest offending bit of the slot. -/
structure SlotEntry where
  imm : Nat
  dst : Nat
  sa  : Nat
  sb  : Nat
  sz  : List Nat
  more : Slot → Option Nat := fun _ => none

def anySz : List Nat := [0, 1, 2, 3]

/-- Bits of IMM32 at or above lo must be zero. -/
def immHigh (lo : Nat) (s : Slot) : Option Nat := if highSet s.imm32 lo then some (32 + lo) else none

/-- The index of a system register is IMM32[7:0], of 0 to 15 (R50, R238). -/
def sysBad (s : Slot) : Option Nat := firstBad [(16 ≤ s.imm32.toNat % 256, 32), (highSet s.imm32 8, 40)]

def seAlu : SlotEntry := ⟨2, 32, 32, 32, anySz, fun _ => none⟩
def seUn : SlotEntry := ⟨0, 32, 32, 1, anySz, fun _ => none⟩
def seCmp : SlotEntry := ⟨2, 16, 32, 32, anySz, fun _ => none⟩
def sePred : SlotEntry := ⟨0, 16, 16, 16, [0], fun _ => none⟩
def seRow (n : Nat) : SlotEntry := ⟨1, n, 32, 1, [0], immHigh 15⟩
def seRing : SlotEntry := ⟨1, 1, 32, 1, [0], fun _ => none⟩
def sePh (sa : Nat) : SlotEntry := ⟨1, 1, sa, 1, [0], immHigh 8⟩

/-- The IMM32 of an atomic (R233): TID, SGN, CNT. -/
def atomImm (sgn : Bool) (s : Slot) : Option Nat :=
  firstBad [(s.imm32.getLsbD 13 && s.imm32.toNat % 4096 != 0, 32), (s.imm32.getLsbD 12 && !sgn, 44),
    (s.imm32.getLsbD 13 && s.sz != 0, 45), (highSet s.imm32 14, 46)]

def seAtom (dst sb : Nat) (sgn : Bool) : SlotEntry := ⟨0, dst, 32, sb, [0, 1], atomImm sgn⟩

def slotEntries0 : List SlotEntry := [
  /- 0x00 NOP -/ ⟨0, 1, 1, 1, [0], fun s => if s.spred != .always then some 24 else none⟩,
  /- 0x01 ADD -/ seAlu,
  /- 0x02 SUB -/ seAlu,
  /- 0x03 MUL -/ seAlu,
  /- 0x04 MULHS -/ seAlu,
  /- 0x05 MULHN -/ seAlu,
  /- 0x06 MADD -/ seAlu,
  /- 0x07 DIVS -/ seAlu,
  /- 0x08 DIVN -/ seAlu,
  /- 0x09 REMS -/ seAlu,
  /- 0x0A REMN -/ seAlu,
  /- 0x0B AND -/ seAlu,
  /- 0x0C OR -/ seAlu,
  /- 0x0D XOR -/ seAlu,
  /- 0x0E ANDN -/ seAlu,
  /- 0x0F SHL -/ seAlu,
  /- 0x10 SHRL -/ seAlu,
  /- 0x11 SHRA -/ seAlu,
  /- 0x12 ROTL -/ seAlu,
  /- 0x13 CLZ -/ seUn,
  /- 0x14 CTZ -/ seUn,
  /- 0x15 POPC -/ seUn,
  /- 0x16 MINS -/ seAlu,
  /- 0x17 MAXS -/ seAlu,
  /- 0x18 MINN -/ seAlu,
  /- 0x19 MAXN -/ seAlu,
  /- 0x1A ABSS -/ seUn,
  /- 0x1B SEXT -/ seUn,
  /- 0x1C BFEX -/ ⟨1, 32, 32, 1, [0], immHigh 13⟩,
  /- 0x1D BFIN -/ ⟨1, 32, 32, 1, [0], immHigh 12⟩,
  /- 0x1E CRC32 -/ seAlu,
  /- 0x1F MOVI -/ ⟨1, 32, 1, 1, [0], fun _ => none⟩]

def slotEntries1 : List SlotEntry := [
  /- 0x20 MOVH -/ ⟨1, 32, 32, 1, [0], fun _ => none⟩,
  /- 0x21 MOV -/ ⟨0, 32, 32, 1, [0], fun s => firstBad [(s.imm32.toNat = 1 && 16 ≤ s.sa.val, 14),
      (s.imm32.toNat = 2 && 4 ≤ s.sa.val, 14), (s.imm32.toNat % 4 = 3, 32), (highSet s.imm32 2, 34)]⟩,
  /- 0x22 SEL -/ ⟨0, 32, 32, 32, anySz, immHigh 4⟩,
  /- 0x23 CMPEQ -/ seCmp,
  /- 0x24 CMPNE -/ seCmp,
  /- 0x25 CMPLTS -/ seCmp,
  /- 0x26 CMPLES -/ seCmp,
  /- 0x27 CMPLTN -/ seCmp,
  /- 0x28 CMPLEN -/ seCmp,
  /- 0x29 TSTB -/ seCmp,
  /- 0x2A PAND -/ sePred,
  /- 0x2B POR -/ sePred,
  /- 0x2C PXOR -/ sePred,
  /- 0x2D PNOT -/ ⟨0, 16, 16, 1, [0], fun _ => none⟩,
  /- 0x2E PMOV -/ ⟨2, 16, 16, 1, [0], fun s => if s.imm then
      (if s.sa != 0 then some 14 else if 1 < s.imm32.toNat then some 32 else none) else none⟩,
  /- 0x2F LDROW -/ (seRow 4),
  /- 0x30 STROW -/ (seRow 4),
  /- 0x31 EXTL -/ ⟨2, 32, 4, 32, [0], immHigh 5⟩,
  /- 0x32 INSL -/ ⟨2, 4, 32, 32, [0], immHigh 5⟩,
  /- 0x33 QLD -/ (seRow 4),
  /- 0x34 QST -/ (seRow 2),
  /- 0x35 DECIDE -/ ⟨1, 1, 32, 1, [0], fun s =>
      let w := s.imm32.toNat
      firstBad [(w / 4 % 8 = 7, 34), (w / 32 % 128 != 0 && w / 4 % 8 != 5, 37),
        (w / 4096 % 8 != 0 && s.sa != 0, 44), (highSet s.imm32 15, 47)]⟩,
  /- 0x36 CHECK -/ ⟨1, 1, 32, 1, [0], fun s => firstBad [(s.imm32.getLsbD 0 && 4 ≤ s.sa.val, 14),
      (highSet s.imm32 2, 34)]⟩,
  /- 0x37 TRAP -/ ⟨1, 1, 1, 1, [0], immHigh 16⟩,
  /- 0x38 RWAITF -/ seRing,
  /- 0x39 RWAITE -/ seRing,
  /- 0x3A RADVT -/ seRing,
  /- 0x3B RADVH -/ seRing,
  /- 0x3C RCLM -/ seRing,
  /- 0x3D RSTAT -/ seRing,
  /- 0x3E SACQ -/ ⟨1, 1, 32, 1, [0], fun s => firstBad [(s.imm32.toNat / 2 ^ 24 % 4 != 0, 56),
      (highSet s.imm32 26, 58)]⟩,
  /- 0x3F SREL -/ ⟨1, 1, 32, 1, [0], fun s => firstBad [(s.imm32.getLsbD 23, 55), (highSet s.imm32 26, 58)]⟩]

def slotEntries2 : List SlotEntry := [
  /- 0x40 AARM -/ ⟨2, 1, 32, 32, [0], fun _ => none⟩,
  /- 0x41 AWAIT -/ ⟨2, 1, 32, 32, [0], fun _ => none⟩,
  /- 0x42 PHREG -/ (sePh 1),
  /- 0x43 PHDRG -/ (sePh 1),
  /- 0x44 PHARV -/ (sePh 1),
  /- 0x45 PHWAIT -/ (sePh 32),
  /- 0x46 PHAW -/ (sePh 1),
  /- 0x47 ATADD -/ (seAtom 1 32 false),
  /- 0x48 ATINC -/ (seAtom 1 32 false),
  /- 0x49 ATBADD -/ (seAtom 32 32 false),
  /- 0x4A ATCAS -/ (seAtom 32 32 false),
  /- 0x4B ATSWP -/ (seAtom 1 32 false),
  /- 0x4C ATMIN -/ (seAtom 1 32 true),
  /- 0x4D ATMAX -/ (seAtom 1 32 true),
  /- 0x4E ATAND -/ (seAtom 1 32 false),
  /- 0x4F ATOR -/ (seAtom 1 32 false),
  /- 0x50 ATXOR -/ (seAtom 1 32 false),
  /- 0x51 ATSNAP -/ (seAtom 1 1 false),
  /- 0x52 YPOP -/ ⟨0, 32, 1, 1, [0], immHigh 4⟩,
  /- 0x53 YCLM -/ ⟨0, 4, 4, 4, [0], fun s => firstBad [(s.imm32.toNat % 128 = 0 || 64 < s.imm32.toNat % 128, 32),
      (highSet s.imm32 7, 39)]⟩,
  /- 0x54 FENCE -/ ⟨1, 1, 1, 1, [0], fun s =>
      let w := s.imm32.toNat
      let bef := w % 32
      let aft := w / 32 % 32
      let scope := w / 1024 % 8
      firstBad [(bef = 0, 32), (aft = 0 || (aft % 4 != 0 && 4 ≤ bef), 37), (5 ≤ scope, 42),
        (w / 8192 % 2 = 1 && (scope < 3 || aft < 4), 45), (highSet s.imm32 14, 46)]⟩,
  /- 0x55 MARK -/ ⟨0, 1, 1, 1, [0], fun _ => none⟩,
  /- 0x56 RDTIME -/ ⟨0, 32, 1, 1, [0], fun _ => none⟩,
  /- 0x57 WAITT -/ ⟨0, 1, 32, 1, [0], fun _ => none⟩,
  /- 0x58 SETDIV -/ ⟨1, 1, 1, 1, [0], immHigh 4⟩,
  /- 0x59 RDTICK -/ ⟨0, 32, 1, 1, [0], fun _ => none⟩,
  /- 0x5A SYSR -/ ⟨1, 32, 1, 1, [0], sysBad⟩,
  /- 0x5B SYSW -/ ⟨1, 1, 32, 1, [0], sysBad⟩,
  /- 0x5C ICINV -/ ⟨0, 1, 1, 1, [0], fun _ => none⟩,
  /- 0x5D TDRD -/ ⟨1, 1, 32, 1, [0], immHigh 15⟩,
  /- 0x5E TDWR -/ ⟨1, 32, 32, 1, [0], immHigh 15⟩]

/-- The entries of the slot operations by OP8 (R220–R240, R128, R132, R177), in the order of R205. -/
def slotEntries : List SlotEntry := slotEntries0 ++ slotEntries1 ++ slotEntries2

/-- The slot operations whose entry names IMM32 bits with IMM = 0: MOV, SEL, the atomics, YPOP and YCLM. -/
def namesImm0 (op8 : Nat) : Bool := op8 = 0x21 || op8 = 0x22 || (0x47 ≤ op8 && op8 ≤ 0x53)

/-- The lowest offending bit of the first offending field of a slot. With IMM = 1, SB is zero (R202); with IMM = 0,
an entry that takes either form names no IMM32 bit. -/
def SlotEntry.bad (e : SlotEntry) (op8 : Nat) (s : Slot) : Option Nat :=
  firstBad [(e.imm = 0 && s.imm, 8), (e.imm = 1 && !s.imm, 8), (e.dst ≤ s.dst.val, 9), (e.sa ≤ s.sa.val, 14),
    (e.sb ≤ s.sb.val || (s.imm && s.sb != 0), 19), (!e.sz.contains s.sz.toNat, 30),
    (!s.imm && !namesImm0 op8 && s.imm32 != 0, 32)] |>.orElse fun _ => e.more s

/-- The entry check of a slot operation: the lowest offending bit of its word, or none. -/
def slotCheck (op8 : Nat) (s : Slot) : Option Nat :=
  match slotEntries[op8]? with
  | some e => e.bad op8 s
  | none => some 0

/-- The widths of a slot: OP8, IMM, DST, SA, SB, SPRED number, INV, EN, SZ, IMM32 (R202). -/
def slotWidths : List Nat := [8, 1, 5, 5, 5, 4, 1, 1, 2, 32]

/-- OP8 and the fields of a slot word, or the name of the failing check and the lowest offending bit. -/
def decodeSlotRaw (w : Word) : Except (Why × Nat) (Nat × Slot) :=
  match unpack slotWidths w.toNat with
  | [op8, imm, dst, sa, sb, pn, inv, en, sz, imm32] =>
    match decodePred pn inv en with
    | none => .error (if slotEntries.length ≤ op8 then (.opcode, 0) else (.predicate, 24))
    | some spred =>
      let s : Slot := ⟨imm = 1, Fin.ofNat 32 dst, Fin.ofNat 32 sa, Fin.ofNat 32 sb, spred, BitVec.ofNat 2 sz,
        BitVec.ofNat 32 imm32⟩
      if slotEntries.length ≤ op8 then .error (.opcode, 0)
      else match slotCheck op8 s with
        | some b => .error (.slotField, b)
        | none => .ok (op8, s)
  | _ => .error (.opcode, 0)

/-- The slot operation of a slot word. -/
noncomputable def decodeSlot (w : Word) : Option Instr :=
  match decodeSlotRaw w with
  | .error _ => none
  | .ok (op8, s) => (slotTable[op8]?).map (· s)

/-- The word of a slot operation (R202). -/
def encodeSlot (i : Instr) : Option Word :=
  (slotOf i).map fun (op8, s) =>
    let p := encodePred s.spred
    BitVec.ofNat 64 (pack (slotWidths.zip [op8, s.imm.toNat, s.dst.val, s.sa.val, s.sb.val, p.1, p.2.1, p.2.2,
      s.sz.toNat, s.imm32.toNat]))

/-! ## Bundles (R202, R203) -/

def Bundle.words (b : Bundle) : List Word := [b.s0, b.s1, b.s2, b.s3, b.s4, b.s5, b.s6]

/-- LDROW, STROW, QLD and QST (R203). -/
def isRowOp (op8 : Nat) : Bool := op8 = 0x2F || op8 = 0x30 || op8 = 0x33 || op8 = 0x34

/-- The decision, synchronisation and atomic class of R203: DECIDE to RCLM, SACQ to FENCE, and WAITT. -/
def isSyncOp (op8 : Nat) : Bool := (0x35 ≤ op8 && op8 ≤ 0x54 && op8 != 0x3D) || op8 = 0x57

/-- The decoded slots of a bundle in order, or the lowest faulting slot (R215). -/
def decodeSlots (k : Nat) : List Word → Except Reject (List (Nat × Slot))
  | [] => .ok []
  | w :: ws =>
    match decodeSlotRaw w with
    | .error (why, b) => .error ⟨why, some k, k + 1, b, w.toNat % 256⟩
    | .ok i =>
      match decodeSlots (k + 1) ws with
      | .error e => .error e
      | .ok is => .ok (i :: is)

/-- The first SETDIV of a bundle naming an engine that a later SETDIV of it names too (R177). -/
def setdivClash (k : Nat) : List (Nat × Slot) → Option Nat
  | [] => none
  | (op8, s) :: is =>
    if op8 = 0x58 && is.any (fun j => j.1 = 0x58 && j.2.imm32.toNat % 4 = s.imm32.toNat % 4) then some k
    else setdivClash (k + 1) is

/-- The decoded slots of a bundle under the limits of R203, or the rejection. -/
def decodeBundle (b : Bundle) : Except Reject (List (Nat × Slot)) :=
  match decodeSlots 0 b.words with
  | .error e => .error e
  | .ok is =>
    match setdivClash 0 is with
    | some k => .error ⟨.setdivTwice, some k, k + 1, 32, 0x58⟩
    | none =>
      if 2 < is.countP (isRowOp ·.1) || 1 < is.countP (isSyncOp ·.1) then .error ⟨.bundleLimit, none, 0, 2, 0⟩
      else .ok is

/-! ## Records -/

/-- The widths of W0 (R196): ENG, OP, MOD, STAMP, predicate number, INV, EN, reserved. -/
def headWidths : List Nat := [2, 9, 5, 24, 4, 1, 1, 18]
/-- The widths of a record: W0's fields, then W1 to W7. -/
def recWidths : List Nat := headWidths ++ [64, 64, 64, 64, 64, 64, 64]

def engOf : Nat → Eng
  | 0 => .cc | 1 => .ve | 2 => .me | _ => .se

def Eng.code : Eng → Nat
  | .cc => 0 | .ve => 1 | .me => 2 | .se => 3

/-- The modified forms that the opcode table lists apart, told from their base form by MOD and operand kinds
(R259, R267, R278, R279, R283, R292, R313, R316). -/
def refineForm : Instr → Instr
  | .kmov r => if r.mod = 1 then .kmovHi r else .kmov r
  | .vflg r => if r.mod = 1 then .vflgC r else .vflg r
  | .cfil r => if r.mod = 1 then .cfilBf16 r else if r.o1.kind = 0 then .cfil r else .cfilF32 r
  | .clbl r => if r.mod = 1 then .clblR r else .clbl r
  | .mflg r => if r.mod = 1 then .mflgC r else .mflg r
  | .cprr r => if r.mod = 1 then .cprrPull r else .cprr r
  | .radvx r => if r.mod = 1 then .radvxX r else .radvx r
  | .sevt r => if r.mod = 1 then .sevtH r else .sevt r
  | i => i

/-- The constructor of an (engine, OP) pair under a decoder generation: R205, with the deprecated values of R330. -/
def recTable (gen : Nat) (eng : Eng) (op : Nat) : Option (Rec → Instr) :=
  match eng with
  | .cc => match op with
    | 1 => some .qlds
    | 2 => some .qsts
    | _ => none
  | .ve => if op = 0x06E then (if gen = 4 then none else some .vclrf) else veTable[op]?
  | .me => if op = 0x020 then (if gen = 2 then some .ldbw else none) else meTable[op]?
  | .se => if op = 0x02A then (if gen = 2 then some .cpins else none) else seTable[op]?

/-- FMIN and FMAX of a band are multiples of 25 from 475 to 1,900 in order (R178). -/
def bandBad (fmin fmax : Nat) : Option Nat :=
  firstBad [(fmin < 475 || fmin % 25 != 0 || fmax < fmin, 0), (1900 < fmax || fmax % 25 != 0, 16)]

/-- The control records SEGE, FORK, RDV, BRK, NOPR and PHAS (R178, R204, R218, R219). -/
def decodeControl (op stamp w2 w3 w4 w5 w6 w7 : Nat) : Except (Why × Nat × Nat) Instr :=
  let st := BitVec.ofNat 24 stamp
  let hi := firstBad [(w4 != 0, 4), (w5 != 0, 5), (w6 != 0, 6), (w7 != 0, 7)]
  let rest (l : List (Bool × Nat × Nat)) (i : Instr) : Except (Why × Nat × Nat) Instr :=
    match l.find? (·.1) with
    | some (_, w, b) => .error (.control, w, b)
    | none => match hi with
      | some w => .error (.control, w, 0)
      | none => .ok i
  match op with
  | 3 =>
    match unpack [25, 7, 32] w2, unpack [16, 4, 3, 3, 38] w3 with
    | [len, z, sig], [segid, nsucc, dsel, dflt, z'] =>
      let succ := w4 + 2 ^ 64 * (w5 + 2 ^ 64 * (w6 + 2 ^ 64 * w7))
      let k := ((List.range 8).find? fun k => nsucc ≤ k && succ / 2 ^ (32 * k) % 2 ^ 32 != 0).getD nsucc
      match [(len = 0 || 2 ^ 24 < len || len != stamp + 1, 2, 0), (z != 0, 2, 25), (8 < nsucc, 3, 16),
          (4 < dsel || (nsucc = 0 && dsel != 0), 3, 20),
          ((nsucc = 0 && dflt != 0) || (nsucc != 0 && nsucc ≤ dflt), 3, 23), (z' != 0, 3, 26),
          (succ / 2 ^ (32 * nsucc) != 0, 4 + k / 2, 32 * (k % 2))].find? (·.1) with
      | some (_, w, b) => .error (.control, w, b)
      | none => .ok (.sege ⟨st, BitVec.ofNat 25 len, BitVec.ofNat 32 sig, BitVec.ofNat 16 segid,
          BitVec.ofNat 4 nsucc, BitVec.ofNat 3 dsel, BitVec.ofNat 3 dflt, BitVec.ofNat 256 succ⟩)
    | _, _ => .error (.control, 2, 0)
  | 4 =>
    match unpack [32, 32] w2, unpack [32, 3, 29] w3 with
    | [voff, moff], [soff, fen, z] =>
      rest [(fen % 2 = 0 && voff != 0, 2, 0), (fen / 2 % 2 = 0 && moff != 0, 2, 32), (fen / 4 = 0 && soff != 0, 3, 0),
          (fen = 0, 3, 32), (z != 0, 3, 35)]
        (.fork ⟨st, BitVec.ofNat 32 voff, BitVec.ofNat 32 moff, BitVec.ofNat 32 soff, BitVec.ofNat 3 fen⟩)
    | _, _ => .error (.control, 2, 0)
  | 5 => rest [(w2 % 8 = 0, 2, 0), (w2 / 8 != 0, 2, 3), (w3 != 0, 3, 0)] (.rdv ⟨st, BitVec.ofNat 3 w2⟩)
  | 6 => rest [(w2 / 32 != 0, 2, 5), (w3 != 0, 3, 0)] (.brk ⟨st, Fin.ofNat 8 w2, engOf (w2 / 8 % 4)⟩)
  | 7 => rest [(w2 != 0, 2, 0), (w3 != 0, 3, 0)] (.nopr st)
  | _ =>
    match bandBad (w2 % 65536) (w2 / 65536 % 65536) with
    | some b => .error (.control, 2, b)
    | none => rest [(w2 / 2 ^ 32 != 0, 2, 32), (w3 != 0, 3, 0)]
        (.phas ⟨st, BitVec.ofNat 16 w2, BitVec.ofNat 16 (w2 / 65536)⟩)

/-- The three operands, or the word and bit of the first bad one. -/
def decodeOpnds (w2 w3 w4 w5 w6 w7 : Nat) : Except (Nat × Nat) (Opnd × Opnd × Opnd) :=
  match decodeOpnd (w2 + 2 ^ 64 * w3) with
  | .error b => .error (2 + b / 64, b % 64)
  | .ok o0 =>
    match decodeOpnd (w4 + 2 ^ 64 * w5) with
    | .error b => .error (4 + b / 64, b % 64)
    | .ok o1 =>
      match decodeOpnd (w6 + 2 ^ 64 * w7) with
      | .error b => .error (6 + b / 64, b % 64)
      | .ok o2 => .ok (o0, o1, o2)

/-- Decode a record in the generation 4 layout under a generation's opcode map (R196–R205, R330). -/
def decodeWide (gen : Nat) (w : Nat) : Except Reject Instr :=
  match unpack recWidths w with
  | [eng, op, md, stamp, pn, inv, en, rsv, w1, w2, w3, w4, w5, w6, w7] =>
    let rej (why : Why) (word bit : Nat) : Except Reject Instr := .error ⟨why, none, word, bit, op⟩
    if rsv != 0 then rej .header 0 46
    else match decodePred pn inv en with
    | none => rej .predicate 0 40
    | some pred =>
      if eng = 0 && op = 0 then
        if md != 0 then rej .modifier 0 11
        else
          let b : Bundle := ⟨BitVec.ofNat 24 stamp, pred, BitVec.ofNat 64 w1, BitVec.ofNat 64 w2, BitVec.ofNat 64 w3,
            BitVec.ofNat 64 w4, BitVec.ofNat 64 w5, BitVec.ofNat 64 w6, BitVec.ofNat 64 w7⟩
          match decodeBundle b with
          | .error e => .error e
          | .ok _ => .ok (.bndl b)
      else if eng = 0 && 3 ≤ op && op ≤ 8 then
        if md != 0 then rej .modifier 0 11
        else if pn + inv + en != 0 then rej .predicate 0 40
        else if w1 != 0 then rej .nest 1 0
        else match decodeControl op stamp w2 w3 w4 w5 w6 w7 with
        | .error (why, word, bit) => rej why word bit
        | .ok i => .ok i
      else match recTable gen (engOf eng) op with
      | none => rej .opcode 0 2
      | some ctor =>
        match decodeOpnds w2 w3 w4 w5 w6 w7 with
        | .error (word, bit) => rej .operand word bit
        | .ok (o0, o1, o2) =>
          let i := refineForm (ctor ⟨BitVec.ofNat 24 stamp, pred, BitVec.ofNat 5 md, BitVec.ofNat 64 w1, o0, o1, o2⟩)
          match recCheck i with
          | some (why, word, bit) => rej why word bit
          | none => .ok i
  | _ => .error ⟨.header, none, 0, 0, 0⟩

/-- The 512 bits of a record from its header fields and W1–W7. -/
def packRec (eng op md stamp : Nat) (p : Pred) (ws : List Nat) : RecordBits :=
  let q := encodePred p
  BitVec.ofNat 512 (pack (recWidths.zip ([eng, op, md, stamp, q.1, q.2.1, q.2.2, 0] ++ ws)))

/-- The bits of a record (R196–R204), none for slots and events. -/
def encode (i : Instr) : Option RecordBits :=
  match i with
  | .bndl b => some (packRec 0 0 0 b.stamp.toNat b.pred (b.words.map (·.toNat)))
  | .sege r => some (packRec 0 3 0 r.stamp.toNat .always [0, pack ([25, 7, 32].zip [r.len.toNat, 0, r.sig.toNat]),
      pack ([16, 4, 3, 3, 38].zip [r.segid.toNat, r.nsucc.toNat, r.dsel.toNat, r.dflt.toNat, 0]),
      r.succ.toNat % 2 ^ 64, r.succ.toNat / 2 ^ 64 % 2 ^ 64, r.succ.toNat / 2 ^ 128 % 2 ^ 64, r.succ.toNat / 2 ^ 192])
  | .fork r => some (packRec 0 4 0 r.stamp.toNat .always [0, pack ([32, 32].zip [r.voff.toNat, r.moff.toNat]),
      pack ([32, 3, 29].zip [r.soff.toNat, r.fen.toNat, 0]), 0, 0, 0, 0])
  | .rdv r => some (packRec 0 5 0 r.stamp.toNat .always [0, r.jen.toNat, 0, 0, 0, 0, 0])
  | .brk r => some (packRec 0 6 0 r.stamp.toNat .always [0, r.idx.val + 8 * r.deng.code, 0, 0, 0, 0, 0])
  | .nopr st => some (packRec 0 7 0 st.toNat .always [0, 0, 0, 0, 0, 0, 0])
  | .phas r => some (packRec 0 8 0 r.stamp.toNat .always [0, r.fmin.toNat + 65536 * r.fmax.toNat, 0, 0, 0, 0, 0])
  | i => (recOf i).map fun (e, op, r) =>
      let d0 := encodeOpnd r.o0
      let d1 := encodeOpnd r.o1
      let d2 := encodeOpnd r.o2
      packRec e.code op r.mod.toNat r.stamp.toNat r.pred
        [r.nest.toNat, d0 % 2 ^ 64, d0 / 2 ^ 64, d1 % 2 ^ 64, d1 / 2 ^ 64, d2 % 2 ^ 64, d2 / 2 ^ 64]

/-! ## The legacy generations (R324–R330) -/

/-- The opcode values that decode differently under ENCGEN 3 and 2 (R326). -/
def legacyOp (eng op : Nat) : Nat :=
  match eng with
  | 1 => if 0x060 ≤ op && op ≤ 0x06B then op + 2 else if op = 0x06C then 0x060 else if op = 0x06D then 0x061 else op
  | 2 => if op = 0x01A then 0x01D else if op = 0x01B then 0x01E else if op = 0x01D then 0x01F
      else if op = 0x01E then 0x01A else if op = 0x01F then 0x01B else op
  | 3 => if op = 0x026 then 0x028 else if op = 0x027 then 0x029 else if op = 0x028 then 0x026
      else if op = 0x029 then 0x027 else op
  | _ => op

/-- W0 of a legacy record: ENG, OP, MOD, STAMP, predicate, reserved (R325). -/
def legacyHead : List Nat := [2, 9, 5, 20, 6, 22]

/-- The widened W0, or none where a reserved bit is set (R325, R326). -/
def widenHead (w0 : Nat) : Option Nat :=
  match unpack legacyHead w0 with
  | [eng, op, md, stamp, pred, rsv] =>
    if rsv != 0 then none else some (pack [(2, eng), (9, legacyOp eng op), (5, md), (24, stamp), (6, pred), (18, 0)])
  | _ => none

/-- Widen one 64-bit generation 2 operand to a descriptor, or the offending bit (R328). -/
def widenOpnd (g : Nat) : Except Nat Nat :=
  match unpack [4, 5, 23, 16, 8, 8] g with
  | [kind, num, ks, base, s0, s1] =>
    let sx (s : Nat) : Nat := (BitVec.ofNat 8 s).signExtend 16 |>.toNat
    let base' :=
      if kind = 4 then ((BitVec.ofNat 16 base).signExtend 32).toNat
      else if kind = 13 then base + 65536 * (ks / 2 % 4096)
      else base
    let ks' := if kind = 13 then ks % 2 + 8192 * (ks / 8192) else ks
    if kind = 12 && 32768 ≤ base then .error 47
    else .ok (pack (descWidths.zip [kind, num, ks', base', sx s0, sx s1, 0, 0]))
  | _ => .error 0

/-- The VE entries that take both sources a and b (R328). -/
def takesAB (i : Instr) : Bool :=
  match recOf i, entryOf i with
  | some (.ve, _, _), some e => e.k1 = vsrc && e.k2 = vsrc
  | _, _ => false

/-- g0 read as source a: the register and its strides, without the destination's mask and third source (R328). -/
def asSource (d : Nat) : Nat :=
  match unpack descWidths d with
  | [kind, num, _, base, s0, s1, s2, s3] => pack (descWidths.zip [kind, num, 0, base, s0, s1, s2, s3])
  | _ => d

/-- A generation 2 record of 256 bits, widened (R327, R328). -/
def widen2 (w : Nat) : Except Reject Nat :=
  let w0 := w % 2 ^ 64
  let w1 := w / 2 ^ 64 % 2 ^ 64
  let g0 := w / 2 ^ 128 % 2 ^ 64
  let g1 := w / 2 ^ 192 % 2 ^ 64
  let eng := w0 % 4
  let lop := w0 / 4 % 512
  let op := legacyOp eng lop
  let rej (word bit : Nat) : Except Reject Nat := .error ⟨.legacy, none, word, bit, lop⟩
  let words (h : Nat) (ws : List Nat) : Except Reject Nat := .ok (pack ((64, h) :: ws.map fun x => (64, x)))
  match widenHead w0 with
  | none => rej 0 42
  | some h =>
    if eng = 0 && op = 0 then words h [w1, g0, g1, 0, 0, 0, 0]
    else if eng = 0 && op = 3 then
      if 2 ^ 20 < g0 % 2 ^ 25 then rej 2 0
      else if 2 < g1 / 2 ^ 16 % 16 then rej 3 16
      else if 2 ≤ g1 / 2 ^ 23 % 8 then rej 3 23
      else words h [0, g0, g1, w1, 0, 0, 0]
    else if 2 ^ 32 ≤ w1 then rej 1 32
    else if eng = 0 && 3 ≤ op && op ≤ 8 then words h [w1, g0, g1, 0, 0, 0, 0]
    else
      match widenOpnd g0, widenOpnd g1 with
      | .error b, _ => rej 2 b
      | _, .error b => rej 3 b
      | .ok d0, .ok d1 =>
        let two := match recTable 2 (engOf eng) op with
          | some ctor => takesAB (ctor ⟨0, .always, 0, 0, .absent, .absent, .absent⟩)
          | none => false
        if two && d0 % 16 != 1 then rej 2 0
        else
          let a := if two then asSource d0 else d1
          let b := if two then d1 else 0
          words h [w1, d0 % 2 ^ 64, d0 / 2 ^ 64, a % 2 ^ 64, a / 2 ^ 64, b % 2 ^ 64, b / 2 ^ 64]

/-- A generation 3 record of 512 bits, widened (R325, R326). -/
def widen3 (w : Nat) : Except Reject Nat :=
  let w0 := w % 2 ^ 64
  let lop := w0 / 4 % 512
  match widenHead w0 with
  | none => .error ⟨.legacy, none, 0, 42, lop⟩
  | some h =>
    if w0 % 2048 = 12 && 2 ^ 20 < w / 2 ^ 128 % 2 ^ 25 then .error ⟨.control, none, 2, 0, lop⟩
    else .ok (h + 2 ^ 64 * (w / 2 ^ 64))

/-- The bit of a widened descriptor in the generation 2 operand (R328). -/
def legacyOpndBit (b : Nat) : Nat :=
  if b < 48 then b else if b < 60 then b - 48 + 10 else if b < 64 then 47 else if b < 80 then 48 else 56

/-- WORD and BIT of a rejection after widening, in the legacy layout (R360). -/
def legacyPos (gen : Nat) (two : Bool) (r : Reject) : Reject :=
  match r.slot with
  | some _ => r
  | none =>
    if r.word = 0 then
      (if 46 ≤ r.bit then { r with bit := 42 } else if 40 ≤ r.bit then { r with bit := r.bit - 4 } else r)
    else if gen = 3 || r.word = 1 || r.why = .control then r
    else
      let b := (r.word - 2) % 2 * 64 + r.bit
      let k := (r.word - 2) / 2
      { r with word := if two then (if k = 2 then 3 else 2) else (if k = 0 then 2 else 3), bit := legacyOpndBit b }

/-- Decode a record of the given generation: 512 bits, or 256 for generation 2 (R206, R324). -/
def decode (gen : Nat) (w : Nat) : Except Reject Instr :=
  if gen = 4 then decodeWide 4 w
  else if gen = 3 then
    match widen3 w with
    | .error e => .error e
    | .ok x => (decodeWide 3 x).mapError fun e => { legacyPos 3 false e with opc := w / 4 % 512 }
  else
    match widen2 w with
    | .error e => .error e
    | .ok x =>
      let two := match recTable 2 (engOf (x % 4)) (x / 4 % 512) with
        | some ctor => takesAB (ctor ⟨0, .always, 0, 0, .absent, .absent, .absent⟩)
        | none => false
      (decodeWide 2 x).mapError fun e =>
        match e.slot with
        | some _ => e
        | none => { legacyPos 2 two e with opc := w / 4 % 512 }

/-- The widened bits of a record, whose W0 and W1 the signature takes (R324). -/
def widened (gen : Nat) (w : Nat) : Nat :=
  if gen = 4 then w
  else match (if gen = 3 then widen3 w else widen2 w) with
    | .ok x => x
    | .error _ => w

/-- The STAMP of a record without decoding the rest of it (R196, R325). -/
def stampOf (gen : Nat) (w : Nat) : Nat := w / 2 ^ 16 % (if gen = 4 then 2 ^ 24 else 2 ^ 20)

/-- The engine that issues a record: its ENG, or DENG for a BRK (R196, R218). -/
def engineOf (w : Nat) : Eng :=
  if w % 2048 = 24 then engOf (w / 2 ^ 131 % 4) else engOf (w % 4)

/-- The instruction the decoder reads from the bits of a generation 4 record (bits above nbits are zero). -/
def decodeTableWord (nbits w : Nat) : Option Instr :=
  match decode 4 (w % 2 ^ nbits) with
  | .ok i => some i
  | .error _ => none

end Sys2Proof
end

