-- ==== Sys2Proof/WellFormed.lean ====
section
/-! DEFINITION. Which instructions a text of a decoder generation can hold: the checks of Decode on an instruction
already in the form of the syntax (R196–R206, R215, R241, R269, R285). -/

namespace Sys2Proof

/-- The modified forms carry MOD 1 (R259, R267, R278, R279, R283, R292, R313, R316). -/
def Instr.needsMod1 : Instr → Bool
  | .kmovHi _ | .vflgC _ | .cfilBf16 _ | .clblR _ | .mflgC _ | .cprrPull _ | .radvxX _ | .sevtH _ => true
  | _ => false

/-- The generations in which a deprecated record has a meaning (R330). -/
def Instr.inGen (gen : Nat) : Instr → Bool
  | .vclrf _ => gen = 2 || gen = 3
  | .ldbw _ | .cpins _ => gen = 2
  | _ => true

/-- SEGE's fields (R204, R34). -/
def SegeRec.wf (r : SegeRec) : Bool :=
  r.len.toNat = r.stamp.toNat + 1 && r.nsucc.toNat ≤ 8 && r.dsel.toNat ≤ 4 &&
  (if r.nsucc = 0 then r.dsel = 0 && r.dflt = 0 else r.dflt.toNat < r.nsucc.toNat) &&
  r.succ.toNat / 2 ^ (32 * r.nsucc.toNat) = 0

/-- FORK's fields (R204, R30). -/
def ForkRec.wf (r : ForkRec) : Bool :=
  r.fen != 0 && (r.fen.getLsbD 0 || r.voff = 0) && (r.fen.getLsbD 1 || r.moff = 0) && (r.fen.getLsbD 2 || r.soff = 0)

/-- A well-formed instruction of a generation's text; events are always well formed. -/
def Instr.wfIn (gen : Nat) (i : Instr) : Bool :=
  i.inGen gen &&
  match i with
  | .bndl b => match decodeBundle b with
    | .ok _ => true
    | .error _ => false
  | .sege r => r.wf
  | .fork r => r.wf
  | .rdv r => r.jen != 0
  | .phas r => bandBad r.fmin.toNat r.fmax.toNat = none
  | i => match recOf i, slotOf i with
    | some (_, _, r), _ => recCheck i = none && (!i.needsMod1 || r.mod = 1)
    | none, some (op8, s) => slotCheck op8 s = none
    | none, none => true

/-- Well formed in the native generation. -/
def Instr.wf (i : Instr) : Bool := i.wfIn 4

end Sys2Proof
end

