-- ==== Sys2Proof/Machine/State.lean ====
section
/-! DEFINITION. The state of the whole device as plain data, and the state right after reset: 128 cells with their
four engines, the gangs, the ordering machine, the device's memory, scheduler, links, clocks, log and debug server
(spec chapters 01 to 09 and 21 to 24). INVENTORY.md lists every field with its rule and its reset value. -/

namespace Sys2Proof.Machine

/-! ## Outcomes -/

/-- Why a step has no next state: nothing. Every fault of the manual is taken as a next state (R354), and a record that is not there
freezes its cell (R47); so no constructor, and no step raises one. Safe. -/
inductive Fault where
  deriving DecidableEq, Repr

/-- Why a step refuses an instruction. -/
inductive Refusal where
  /-- Raised by exec for an instruction without a meaning yet. Safe. -/
  | notModelled (mnemonic : String)
  deriving DecidableEq, Repr

/-! ## Stores: lists of address and value in one canonical form -/

/-- Bytes by address (Host.Cell), addresses rising, no byte equal to 0. -/
abbrev Memory := List Host.Cell
/-- Scratchpad rows by row number, in the same form (the row is the unit of access, R59). -/
abbrev Rows := List (Nat × Row)
/-- Crema slot rows by 128 · slot + row (R66). -/
abbrev SlotRows := List (Nat × SlotRow)
/-- Poison tags of the 256 elements of slot rows (R121). -/
abbrev SlotTags := List (Nat × BitVec 256)
/-- A set of numbers, rising: poisoned rows or blocks. -/
abbrev Marks := List Nat

/-- A Crema key: output tile and label (R66). -/
structure Key where
  tile  : BitVec 16
  label : BitVec 12
  deriving DecidableEq, Repr

/-! ## Engines of a cell -/

/-- Control core registers (R49–R51) with their poison tags (R215). -/
structure Cc where
  g      : Vector Word 32
  gTag   : BitVec 32
  p      : BitVec 16
  b      : Vector Row 4
  bTag   : Vector (BitVec 32) 4
  d      : Vector (BitVec 3) 4
  slipw  : Nat
  spillBase : BitVec 12
  spillLen  : Nat
  cflags : BitVec 2
  depcnt : Nat
  timeh  : Option (BitVec 16)
  /-- the tick at which each D register last landed (R194) -/
  dLand  : Vector Nat 4
  deriving DecidableEq, Repr

/-- A tile register (R54): body, element tags by 16 · row + column, TSHAPE. -/
structure Tile where
  body  : TileBits
  tags  : BitVec 256
  shape : BitVec 16
  deriving DecidableEq, Repr

/-- Vector engine registers (R52–R55). -/
structure Ve where
  v      : Vector Row 32
  vTag   : Vector (BitVec 64) 32
  k      : Vector (BitVec 64) 8
  mode   : BitVec 4
  flags  : BitVec 6
  z      : Vector Tile 4
  deriving DecidableEq, Repr

/-- An entry of LQ, SQ or MQ (R56): the tick from which it is visible; an LQ entry is filled when its read is
performed. -/
structure QEntry where
  uid   : Nat
  vis   : Nat
  full  : Bool
  row   : Row
  tag   : Bool
  deriving DecidableEq, Repr

/-- A YQ reservation (R57): the return once performed, and whether it has arrived in YQ; a claim round also brings a row for a B register. -/
structure YEntry where
  uid     : Nat
  performed : Bool
  arrived : Bool
  data    : Word
  st      : Bool
  tag     : Bool
  claim   : Option (Fin 4 × Row)
  deriving DecidableEq, Repr

/-- The queues of a cell (R56, R57). `yRet` holds reservations that a YPOP took before their
return arrived (R235). -/
structure Queues where
  lq : Vector (List QEntry) 4
  sq : Vector (List QEntry) 2
  mq : Vector (List QEntry) 2
  yq : List YEntry
  yRet : List YEntry
  deriving DecidableEq, Repr

/-- Where a latch's contents came from, for the window's registration and replay (R284, R362). -/
structure LatchSrc where
  op    : Nat
  row   : Nat
  scale : Option Nat
  deriving DecidableEq, Repr

/-- A B latch (R71, R271): 128 rows, byte tags, four scales and their tags. -/
structure Latch where
  bits  : LatchBits
  tags  : BitVec 32768
  scale : Vector Lane 4
  sTag  : BitVec 4
  src   : Option LatchSrc
  deriving DecidableEq, Repr

/-- One slot of the slot map (R66); `key` none is a free slot. -/
structure SlotInfo where
  key       : Option Key
  spillable : Bool
  lastWrite : Nat
  deriving DecidableEq, Repr

/-- An entry of the spilled-key directory (R68). -/
structure Spilled where
  key       : Key
  entry     : Nat
  spillable : Bool
  lastWrite : Nat
  deriving DecidableEq, Repr

/-- Where a park index is parked (R70). -/
inductive ParkPlace where
  | slot (s : Fin 16)
  | block
  deriving DecidableEq, Repr

/-- Crema work that its freeze covers: a slot's rows on their way to a spill entry, a refill, parked registers on
their way to the park block (R68, R70), and what CSPL and CFIL do under their freeze (R279). -/
inductive CremaMove where
  | spill (entry : Nat) (rows : SlotRows) (tags : SlotTags)
  | fill (key : Key)
  | park (p : Nat) (v : Row) (tags : BitVec 64)
  | cspl (key : Key)
  | cfil (key : Key)
  | load (key : Key) (row : Nat) (half : Bool) (tick : Nat) (ftz : Bool)
  deriving DecidableEq, Repr

/-- A move with the text offset of the record that caused it, the tick of the freeze that covers it, and the number of the record
(R269, R279). -/
structure CremaWork where
  off  : Nat
  due  : Nat
  seq  : Nat
  move : CremaMove
  deriving DecidableEq, Repr

/-- Crema (R66–R70). -/
structure Crema where
  rows    : SlotRows
  tags    : SlotTags
  slots   : Vector SlotInfo 16
  free    : List (Fin 16)
  spilled : List Spilled
  parked  : List (Nat × ParkPlace)
  moving  : List CremaWork
  deriving DecidableEq, Repr

/-- A range of registered scratchpad rows of an accumulator window (R165, R284). -/
structure WinRange where
  row  : Nat
  n    : Nat
  idx  : Bool
  pair : Bool
  deriving DecidableEq, Repr

/-- An uncorrectable error inside the ME as it was detected (R347, R363): the tick, TIME, and the pass that met it. -/
structure WinErr where
  tick : Nat
  tns  : Word
  off  : Option Nat
  deriving DecidableEq, Repr

/-- The accumulator window (R165, R284); `base` is the image the window's key is rebuilt from after a resumption. -/
structure Window where
  key    : Key
  passes : Nat
  ranges : List WinRange
  base   : Option Nat
  /-- 0 no error so far, 1 a replay to be done, 2 replayed (R363) -/
  failed : Nat
  /-- the error that failed it -/
  err    : Option WinErr
  deriving DecidableEq, Repr

/-- An ME operation that still reads scratchpad rows: a latch load or a pass (R271, R273). -/
structure MeOp where
  uid    : Nat
  off    : Nat
  op     : Nat
  mode   : BitVec 5
  t0     : Nat
  div    : Nat
  next   : Nat
  a      : Nat
  slot   : Fin 16
  key    : Key
  ftz    : Bool
  gen2   : Bool
  latch  : Latch
  index  : List (Option Lane)
  /-- an index row was poisoned (R274) -/
  idxBad : Bool
  scales : List Lane
  scTags : List Bool
  metadata : MetaBits
  metaTag : Bool
  /-- the metadata entry is here, or none is needed (R72) -/
  metaIn : Bool
  /-- rows read while the entry is awaited -/
  rows   : List (Nat × Row × Bool)
  src    : LatchSrc
  exp    : Nat
  deriving DecidableEq, Repr

/-- Matrix engine state besides Crema (R53, R71–R73). -/
structure Me where
  bl    : Vector Latch 2
  mode  : BitVec 4
  flags : BitVec 6
  metaq : List (MetaBits × Bool)
  /-- the retained passes, as they resolved their operands at issue (R73, R362) -/
  ret   : List MeOp
  win   : Option Window
  ops   : List MeOp
  lastLoad : Vector (Option LatchSrc) 2
  deriving DecidableEq, Repr

/-- An operand of an SE command, captured at release (R27, R285). -/
inductive ROp where
  | absent
  | imm (w : BitVec 32)
  | sp (row : Nat) (st : Strides)
  | hr (h : Nat) (st : Strides)
  | ring (base : BitVec 32)
  | tensor (tid : BitVec 12) (sdim : BitVec 8) (c : Vector Word 4) (cset : BitVec 4) (st : Strides)
  | ck (key : Key) (st : Strides)
  deriving DecidableEq, Repr

/-- Where an SE command stands (R27, R286, R291). -/
inductive SePhase where
  /-- in the queue, not begun -/
  | queued
  /-- begun -/
  | running
  /-- all its work done, its completion to come -/
  | ending
  /-- stopped by a fault at a chunk (R291) -/
  | stopped
  deriving DecidableEq, Repr

/-- The tile task and member placed on a cell (R293): graph, node, instance, member. -/
structure TaskRef where
  graph  : Nat
  node   : Nat
  inst   : Nat
  member : Nat
  deriving DecidableEq, Repr

/-- What a command with PROM is judged by (R87, R382): deadline tick, class, page, and why the class was 0. -/
structure Promise where
  deadline : Nat
  cls      : Nat
  tid      : BitVec 12
  tile     : Nat
  why      : Nat
  deriving DecidableEq, Repr

/-- A location of the machine at its atomic unit (R122): a row of a cell, a block of device memory, a peer block. -/
inductive Loc where
  | sp (c : CellId) (row : Nat)
  | hbm (blk : Nat)
  | peer (dev : BitVec 12) (blk : Nat)
  | img (id : Nat) (member : Nat) (row : Nat)
  deriving DecidableEq, Repr

/-- An SE command (R27, R74, R164): its record, captured operands, progress, and what holds it back. -/
structure SeCmd where
  uid    : Nat
  off    : Nat
  op     : Nat
  r      : Rec
  o0     : ROp
  o1     : ROp
  o2     : ROp
  rel    : Nat
  /-- the wall time of its release (R194) -/
  relAt  : Nat
  /-- the next piece of its work -/
  next   : Nat
  phase  : SePhase
  /-- the FENCEs that hold it (R133) -/
  holds  : List Nat
  prom   : Option Promise
  /-- the contexts on other cells at release (R293) -/
  target : List (CellId × Option TaskRef)
  /-- the chunk under way: its writes and bytes -/
  cw     : List Nat
  cb     : Nat
  /-- chunks whose writes are on their way (R286) -/
  out    : List (List Nat × Nat)
  /-- the locations read so far for the piece under way, and whether one has been read in this step (R124) -/
  got    : List (Loc × Row × Bool)
  stepped : Bool
  /-- rows read ahead of the work, and a running value -/
  data   : List (Row × Bool)
  acc    : Nat
  tag    : Bool
  /-- it was refused: no completion advance (R309) -/
  nref   : Bool
  deriving DecidableEq, Repr

/-- Stream engine state (R27, R74, R289). -/
structure Se where
  queue  : List SeCmd
  sestat : BitVec 64
  deriving DecidableEq, Repr

/-! ## Sequencers -/

/-- A record whose loop nest is expanding (R25): text offset, first tick, expansions done and in all, its predicate. -/
structure Expansion where
  off   : Nat
  t0    : Nat
  done  : Nat
  total : Nat
  step  : Nat
  act   : Bool
  mode  : BitVec 4
  deriving DecidableEq, Repr

/-- One engine's sequencer (R22, R24–R26, R30, R31, R176). -/
structure EngSeq where
  pc      : Option Nat
  exp     : Option Expansion
  /-- last tick taken by an expansion slot of an earlier record -/
  last    : Option Nat
  /-- the FORK tick -/
  forked  : Option Nat
  /-- text offset of the RDV that stopped it last -/
  rdvOff  : Option Nat
  /-- text offset of the FORK that started it -/
  forkOff : Option Nat
  /-- an RDV of this tick stops it once the tick's records have issued (R31) -/
  stop    : Bool
  div     : Nat
  base    : Nat
  deriving DecidableEq, Repr

/-- A SETDIV that has not switched yet (R177). -/
structure DivSwitch where
  due : Nat
  eng : Eng
  d   : Nat
  deriving DecidableEq, Repr

/-- A cell's sequencers (R22–R36, R74). -/
structure Seqs where
  eng     : Vector EngSeq 4
  segid   : BitVec 16
  start   : Nat
  segOff  : Nat
  /-- text offset and stamp of the SEGE that closes the segment -/
  sege    : Option (Nat × Nat)
  sig     : BitVec 32
  /-- wall time spent frozen for text in this segment (R194) -/
  textWait : Nat
  /-- signature entries of this tick, by engine code (R35) -/
  sigPend : List (Nat × BitVec 128)
  slip    : Nat
  switches : List DivSwitch
  /-- the record each engine runs at this tick is done -/
  issued  : BitVec 4
  /-- the SE released at this tick -/
  seTick  : Option Nat
  /-- no record issues beyond a faulting SEGE (R354) -/
  dead    : Bool
  brk     : Vector (Option (Nat × RecordBits)) 8
  /-- entries to be cleared when the gang next stops (R367) -/
  brkGone : BitVec 8
  /-- entries whose BRK has raised its debug stop in this pass of the segment (R218) -/
  brkDone : BitVec 8
  deriving DecidableEq, Repr

/-! ## Results in flight (R29) -/

/-- What a landing writes. -/
inductive Land where
  | g (n : Fin 32) (v : Word) (tag : Bool)
  | p (n : Fin 16) (v : Bool)
  | b (n : Fin 4) (v : Row) (tags : BitVec 32)
  | bPiece (n : Fin 4) (k : Fin 32) (v : Word) (tag : Bool)
  | v (n : Fin 32) (act : BitVec 64) (v : Row) (tags : BitVec 64)
  | k (n : Fin 8) (v : BitVec 64)
  | mq (n : Fin 2) (v : Row) (tag : Bool)
  | sp (row : Nat) (v : Row) (tag : Bool)
  | tileRow (n : Fin 4) (r : Nat) (v : Row) (tags : BitVec 64)
  | tileCol (n : Fin 4) (c : Nat) (v : Row) (tags : BitVec 64)
  | tcfg (n : Fin 4) (shape : BitVec 9)
  | tzero (n : Fin 4)
  | trel (n : Fin 4)
  | park (p : Nat) (slot : Fin 16) (v : Row) (tags : BitVec 64)
  | latch (l : Fin 2) (v : Latch)
  | slotAdd (slot : Fin 16) (row : Nat) (v : SlotRow) (tags : BitVec 256) (ftz : Bool)
  | slotSet (slot : Fin 16) (row : Nat) (v : SlotRow) (tags : BitVec 256)
  | slotNaN (slot : Fin 16)
  | czero (slot : Fin 16)
  | crel (keys : List Key)
  | clbl (key : Key) (on : Bool)
  | relabel (new old : Key)
  | winOpen (key : Key) (slot : Fin 16)
  | winClose
  | sysw (idx : Nat) (v : Word)
  | band (fmin fmax : BitVec 16)
  | ypop (g : Fin 32) (p : Fin 16) (uid : Nat)
  | flags
  deriving DecidableEq, Repr

/-- A result in flight: due tick, order of issue, issuing record, destination and flags it raises. -/
structure Landing where
  due : Nat
  seq : Nat
  eng : Eng
  off : Nat
  dst : Land
  vfl : BitVec 6
  mfl : BitVec 6
  cfl : BitVec 2
  deriving DecidableEq, Repr

/-! ## The ordering machine (R122–R144) -/

/-- A CQ load in the load buffer: issue tick, last tick of its window, marker count, row, and whether it fills a B
register or an LQ entry. -/
structure CqLoad where
  uid  : Nat
  tick : Nat
  by_  : Nat
  mark : Nat
  row  : Nat
  off  : Nat
  toB  : Option (Fin 4)
  div  : Nat
  deriving DecidableEq, Repr

/-- A CQ store in the store buffer. -/
structure CqStore where
  uid  : Nat
  tick : Nat
  by_  : Nat
  mark : Nat
  row  : Nat
  v    : Row
  tag  : Bool
  /-- the tick by which a FENCE wants it performed (R133) -/
  fby  : Option Nat
  off  : Nat
  deriving DecidableEq, Repr

/-- How a write changes its location: set the named bytes, or add elements (R294). -/
inductive WOp where
  | set
  | add (fmt : Nat) (rm : BitVec 2)
  deriving DecidableEq, Repr

/-- A write in a visibility fabric (R124): writer, path, the command it belongs to, location, data and bytes. -/
structure FWrite where
  uid   : Nat
  cell  : CellId
  path  : Path
  cmd   : Nat
  by_   : Option Nat
  loc   : Loc
  op    : WOp
  v     : Row
  bytes : BitVec 256
  tag   : Bool
  /-- the write is held by a collapse or a migration of its page, or by a moving frame (R88, R92, R93) -/
  held  : Bool
  /-- the tick at which a timed write drained (R59, R126) -/
  tick  : Option Nat := none
  /-- for a write on behalf of a peer: the device and its frame's number (R123) -/
  src   : Option (BitVec 12 × Nat) := none
  deriving DecidableEq, Repr

/-- A variable of the sync engines (R94, R95). -/
inductive SyncVar where
  | mem (addr : Nat)
  | ctr (asid : BitVec 10) (n : Nat)
  deriving DecidableEq, Repr

/-- What a YP operation does when performed (R62–R65, R228–R236, R240, R313). -/
inductive YKind where
  | tail (loc : Nat) (m : Nat)
  | head (loc : Nat) (m : Nat)
  | claim (loc : Nat) (m : Nat)
  | stat (loc : Nat)
  | srel (loc : Nat) (e : Nat) (from_ to_ : Nat)
  | aarm (addr : Nat) (v : BitVec 40)
  | phreg (n : Nat)
  | phdrg (n : Nat)
  | pharv (n : Nat)
  | xtail (d : CellId) (t : Option TaskRef) (loc : Nat) (m : Nat)
  | aset (addr : Nat) (g : BitVec 16)
  | atom (op : AtOp) (v : SyncVar) (w32 sgn : Bool) (val x : Word) (tag : Bool) (tid : BitVec 12) (off : Word)
  | tdrd (tid : BitVec 12) (w : Nat)
  | tdwr (tid : BitVec 12) (w : Nat) (v : Word)
  | yclm (n : Nat) (d : Fin 4) (counts table : Row) (act : Bool)
  deriving DecidableEq, Repr

/-- An access that an ordering operation covers, by its number: its reads, its writes, or both, and of a command those on the
paths of a set (R133, R135, R136). -/
structure Cov where
  uid   : Nat
  rd    : Bool
  wr    : Bool
  paths : BitVec 5
  deriving DecidableEq, Repr

/-- A YP operation in a cell's store buffer: what it does and the accesses it waits for. -/
structure YOp where
  uid   : Nat
  off   : Nat
  slot  : Nat
  tick  : Nat
  kind  : YKind
  cover : List Cov
  scope : Nat
  /-- the engine it came from, and the release tick of an SE command -/
  eng   : Eng
  rel   : Nat
  /-- an atomic that came back MOVED and was issued again (R93) -/
  again : Bool
  deriving DecidableEq, Repr

/-- A FENCE in force (R133): later accesses on the paths of `aft` wait until `cover` is performed within `scope`, and
with `prot` protected, together with what reads on the paths of `bef` have seen (R134). -/
structure Hold where
  uid   : Nat
  tick  : Nat
  bef   : BitVec 5
  aft   : BitVec 5
  scope : Nat
  prot  : Bool
  cover : List Cov
  deriving DecidableEq, Repr

/-- A cell's buffers. -/
structure Ord where
  loads  : List CqLoad
  stores : List CqStore
  yp     : List YOp
  holds  : List Hold
  mark   : Nat
  /-- the unprotected writes that reads on a path have seen: path, number of the read, number of the write (R134) -/
  seen   : List (Path × Nat × Nat)
  /-- timed accesses of this tick by bank, the count of a bank at its number (R59) -/
  banks  : List (Nat × Nat)
  deriving DecidableEq, Repr

/-! ## Cells and gangs -/

/-- One cell (R9, R10). -/
structure Cell where
  gang    : GangId
  busy    : Bool
  lastAsid : Option (BitVec 10)
  cc      : Cc
  ve      : Ve
  q       : Queues
  sp      : Rows
  spTag   : Marks
  cr      : Crema
  me      : Me
  se      : Se
  sq      : Seqs
  ord     : Ord
  flight  : List Landing
  /-- the text cache (R11, R47): text offset and record bits -/
  text    : List (Nat × RecordBits)
  /-- text cache invalidations to come: at a tick of the gang, or before the next fetch (R239) -/
  inval   : List (Option Nat)
  deriving DecidableEq, Repr

/-- What a freeze waits for (R44). -/
inductive Cond where
  | ringFilled (c : CellId) (loc m : Nat)
  | ringFree (c : CellId) (loc m : Nat)
  | stage (c : CellId) (loc e own : Nat) (full : Bool)
  | arrival (c : CellId) (addr : Nat) (g : BitVec 16)
  | phase (asid : BitVec 10) (n : Nat) (v : BitVec 32)
  | phaw (c : CellId) (uid : Nat)
  | yq (c : CellId)
  | metadata (c : CellId)
  | translation (c : CellId) (tid : BitVec 12) (off : Nat) (write : Bool)
  | text (c : CellId) (off : Nat)
  | crema (c : CellId) (key : Key)
  | spill (c : CellId) (key : Key)
  | scratchFill (c : CellId) (key : Key) (row : Nat) (bf16 : Bool)
  | parkMove (c : CellId)
  | replay (c : CellId)
  | seSpace (c : CellId) (n : Nat)
  | drained (c : CellId) (before : Nat)
  | debug
  | preempt
  | time (t : BitVec 64)
  | fault (id : Nat)
  | crds (c : CellId) (uid : Nat)
  | command (c : CellId) (uid : Nat)
  | kill (seq : Nat)
  deriving DecidableEq, Repr

/-- A freeze request (R43): raising cell, due tick, condition, the work still to be done under the freeze. -/
structure Req where
  due  : Nat
  cond : Cond
  deriving DecidableEq, Repr

/-- A detected fault of classes 0x01–0x11 whose record is written at the stop (R354). -/
structure PFault where
  id    : Nat
  cls   : Nat
  cell  : CellId
  unit  : Nat
  tick  : Nat
  tns   : Word
  segid : BitVec 16
  off   : Nat
  slot  : Nat
  eng   : Eng
  addr  : Word
  akind : Bool
  synd  : Word
  written : Bool
  precise : Bool
  /-- the mode of its function when it was raised (R191) -/
  mode  : Nat
  /-- for classes 0x0C to 0x0E of timed records: the record, the registers it read and its expansion (R355) -/
  redo  : Option (Instr × Cc × Nat)
  /-- for a fault found when an operation was performed: the operation -/
  yop   : Option YOp
  /-- the number of its record, and whether a resumed image awaits a new disposition of it (R346, R355) -/
  recSeq : Nat
  again  : Bool
  deriving DecidableEq, Repr

/-- A decision in flight on one cell (R37, R38). -/
structure Decision where
  tick : Nat
  cell : CellId
  dn   : Fin 4
  rop  : Nat
  k    : Nat
  val  : BitVec 3
  /-- the value a debugger has written over it -/
  forced : Option (BitVec 3)
  /-- its place in the order of issue (R6, R165) -/
  seq  : Nat
  deriving DecidableEq, Repr

/-- A divergence token of a SEGE (R40). -/
structure Token where
  tick  : Nat
  cell  : CellId
  segid : BitVec 16
  succ  : Nat
  off   : Nat
  entry : Nat
  /-- its place in the order of issue (R6, R165) -/
  seq   : Nat
  deriving DecidableEq, Repr

/-- What a gang is doing. A save drains (stage 1), writes the stripes without header bytes (2) and those with them (3), and its
commit record awaits its parity (4) (R163). -/
inductive GangStatus where
  | idle
  | starting
  | running
  | ending
  | saving (stage : Nat)
  | killed
  deriving DecidableEq, Repr

/-- A gang and the tile task it runs (R17–R21, R43, R147, R161). -/
structure Gang where
  status  : GangStatus
  cells   : List CellId
  glog    : Nat
  asid    : BitVec 10
  encgen  : Nat
  graph   : Nat
  node    : Nat
  inst    : Nat
  variant : Nat
  ktid    : BitVec 12
  koff    : Nat
  toff    : Nat
  tlen    : Nat
  entry   : Nat
  tick    : Nat
  frozen  : Bool
  reqs    : List Req
  decisions : List Decision
  tokens  : List Token
  fmin    : Nat
  fmax    : Nat
  faults  : List PFault
  queue   : Fin 64
  started : Nat
  /-- provisional PASS charge (R150); wall time at which the quantum begins (R152); wall time at which the task began (R157) -/
  quantum : Nat
  startAt : Nat
  begun   : Nat
  seq     : Nat
  avg     : Nat
  peak    : Nat
  image   : Nat
  savecnt : Nat
  owner   : Option Nat
  /-- what the debugger has written since the stop: member, field, value (R368) -/
  writes  : List (Nat × ImageField × Nat)
  frozenAt : Nat
  saveFor : Option SaveCause
  deriving DecidableEq, Repr

/-! ## Device memory, translation and layout (R76–R98) -/

/-- A tensor table's place for an ASID (R76). -/
structure TTable where
  asid : BitVec 10
  addr : Nat
  deriving DecidableEq, Repr

/-- A cached descriptor or leaf of a layout unit (R77, R81). -/
structure CachedDesc where
  asid : BitVec 10
  tid  : BitVec 12
  bits : RecordBits
  deriving DecidableEq, Repr

structure CachedLeaf where
  asid : BitVec 10
  tid  : BitVec 12
  tile : Nat
  leaf : Word
  deriving DecidableEq, Repr

/-- The layout state (R98) with the dropped banks by (stack, channel, pseudo-channel). -/
structure Layout where
  mode    : Nat
  lost    : Fin 12
  moving  : Bool
  wmark   : Nat
  /-- what the change in progress does: 0 none, 1 bank drop, 2 eleven stacks; 3, none, but it has been recorded that eleven stacks cannot
  hold what is allocated (R380) -/
  change  : Nat
  dropping : Option BankId
  dropped : List (Nat × Nat)
  /-- banks whose drop waits, each with the mode in force when it was asked for (R191) -/
  waiting : List (BankId × Nat)
  /-- the banks on their way out that have failed (R375) -/
  failed  : List BankId
  deriving DecidableEq, Repr

/-- A delta on its way to a parity chunk (R91). -/
structure Delta where
  uid    : Nat
  cmd    : Nat
  cell   : CellId
  asid   : BitVec 10
  blk    : Nat
  parity : Nat
  /-- the write is a context's of this device: not a peer's, nor a line that a sync engine writes back -/
  own    : Bool := true
  path   : Path := .sp
  /-- part of a full-stripe write, whose parity is written when all of the stripe has been performed -/
  full   : Bool := false
  deriving DecidableEq, Repr

/-- A read-duplicated frame at its home (R92, R383): holders with the wall time of their last lease renewal, and the
collapse in progress with the invalidations sent and when. -/
structure Dup where
  frame   : Nat
  asid    : BitVec 10
  holders : List (Holder × Nat × Nat)
  collapse : Bool
  acks    : List (Holder × Nat × Nat)
  waiters : List Nat
  /-- places of the leaves that were writable before DUP was set -/
  we      : List Nat
  /-- for a copy of a peer's page held here: the home device, frame and die -/
  home    : Option (BitVec 12 × Nat × Nat)
  /-- the frames of the copies that holders on this device read from, by holder -/
  copies  : List (Holder × Nat)
  deriving DecidableEq, Repr

/-- A migration in progress (R93): the frame and the device that was its home, its target, whether the copy is done, whether the
lines are on their way to the new frame too (no atomic is performed from then on), and the frames that carry both to a peer. -/
structure Migration where
  frame  : Nat
  die    : Fin 2
  dev    : BitVec 12
  newFrame : Nat
  copied : Bool
  home   : BitVec 12
  sealed_ : Bool
  uids   : List Nat
  /-- the PGMIG that moves a peer's page, 0 for a page of this device -/
  cmd    : Nat
  deriving DecidableEq, Repr

/-- A demoted page (R382). -/
structure Demoted where
  asid : BitVec 10
  tid  : BitVec 12
  tile : Nat
  cls  : Nat
  why  : Nat
  deriving DecidableEq, Repr

/-- A phaser (R231). -/
structure Phaser where
  asid    : BitVec 10
  n       : Nat
  phase   : BitVec 32
  parties : List (CellId × Bool)
  poisoned : Bool
  deriving DecidableEq, Repr

/-- A routing counter that is not 0 and clean (R95). -/
structure Counter where
  asid : BitVec 10
  n    : Nat
  v    : Word
  tag  : Bool
  deriving DecidableEq, Repr

/-- A line of the sync SRAM (R94): the line's device address divided by 64, its bytes, poisoned variables, dirty. -/
structure SyncLine where
  die   : Fin 2
  line  : Nat
  bits  : BitVec 512
  tags  : BitVec 16
  dirty : Bool
  deriving DecidableEq, Repr

/-! ## Scheduling (R145–R171) -/

/-- A node of a submitted graph (R145–R148). -/
structure Node where
  koff   : Nat
  ktid   : BitVec 12
  queue  : Fin 64
  n0 : Nat
  n1 : Nat
  n2 : Nat
  glog   : Nat
  avg    : Nat
  peak   : Nat
  awoff  : Nat
  awtid  : BitVec 12
  awen   : Bool
  awadd  : Nat
  evcode : Nat
  even   : Bool
  succ   : List Nat
  arg    : Vector Word 16
  indeg  : Nat
  doneCount : Nat
  completing : Bool
  /-- the release covers every access numbered below this (R148) -/
  mark   : Nat
  /-- the frame that carries its arrival update to a peer (R148) -/
  sent   : Option Nat
  done   : Bool
  deriving DecidableEq, Repr

structure Graph where
  handle : Nat
  asid   : BitVec 10
  nodes  : List Node
  deriving DecidableEq, Repr

/-- What waits in a queue's ready list: the instances i to upto − 1 of a node, or a saved tile task. -/
inductive Ready where
  | inst (graph node i upto : Nat)
  | saved (img : Nat)
  deriving DecidableEq, Repr

/-- A scheduling queue (R149–R153). -/
structure SQueue where
  tickets : Nat
  quant   : Nat
  cls     : Nat
  en      : Bool
  asids   : BitVec 1024
  pass    : Nat
  ready   : List Ready
  deferred : Bool
  /-- what charges came to while the queue was deferred, its PASS frozen (R150, R153) -/
  owed    : Int
  /-- the head for which a POWERBLOCK event has been sent (R156) -/
  noted   : Option Ready
  deriving DecidableEq, Repr

/-- Cells kept for a node that waits (R151, R152): what waits, the cells freed for it so far, and the victims whose cells it
gets. -/
structure Kept where
  ready   : Ready
  cells   : List CellId
  victims : List GangId
  deriving DecidableEq, Repr

/-- An instance that was refused at its launch and waits for system software to kill it (R210). -/
structure RefusedInst where
  id    : Nat
  graph : Nat
  node  : Nat
  inst  : Nat
  deriving DecidableEq, Repr

/-- A channel binding (R308). -/
structure Chan where
  n    : BitVec 10
  cell : CellId
  gang : GangId
  asid : BitVec 10
  ring : Option Nat
  aw   : Option Nat
  /-- the saved image that holds the binding -/
  img  : Option Nat
  deriving DecidableEq, Repr

/-- A context image (R163–R166): the gang and its members as saved, the bytes of its region by 256-byte block with their
poison marks, and its standing. -/
structure Image where
  id        : Nat
  region    : Nat
  gang      : Gang
  members   : List Cell
  blocks    : Rows
  marks     : Marks
  /-- what the second step of its save has still to write: the stripes that hold header bytes (R163) -/
  later     : Rows
  laterMarks : Marks
  /-- the context stands here, stopped or saved, and not on cells -/
  active    : Bool
  committed : Bool
  pinned    : Bool
  hostHeld  : Bool
  refused   : Bool
  /-- a peer went down while frames sent before the stop were unacknowledged (R388) -/
  lost      : Bool
  /-- another device exported it: no cell or frame of this device belongs to it, and it brings NRECV bindings (R391) -/
  foreign   : Bool
  chans     : List Chan
  deriving DecidableEq, Repr

/-- An image that another device exported, on its way to a region of this device (R170, R390). The numbers of its commands and
accesses lie in [base, top). -/
structure Import where
  image : Image
  base  : Nat
  top   : Nat
  deriving DecidableEq, Repr

/-- The power manager, clock roots and thermal state (R155–R158, R173–R181, R394, R395). -/
structure Power where
  budget  : Nat
  rampup  : Nat
  blim    : Nat
  freq    : Nat
  target  : Nat
  rootDiv : Nat
  /-- ballast of free cells: cell, mW at the collapse, wall time of the collapse (R158, R393) -/
  ballast : List (CellId × Nat × Nat)
  /-- the load before each change of the last 20 µs, with its wall time -/
  hist    : List (Nat × Nat)
  /-- reference ticks since power-on, and the part of a 1,900 MHz cycle not yet counted in the wall time -/
  refs    : Nat
  acc     : Nat
  /-- the reference ticks of each die's stretches within the last 2,048 (R175) -/
  stretchAt : Vector (List Nat) 2
  /-- the die whose budget was exceeded last, and the wall time at which a window last held more than 16 (R395) -/
  slowDie : Fin 2
  calmSince : Nat
  divSince  : Nat
  lastStep : Nat
  hot95   : Vector Bool 2
  clamp   : Bool
  deriving DecidableEq, Repr

/-- TIME, its slew in parts per thousand million, and its input (R51, R184, R185). -/
structure Clock where
  time    : BitVec 80
  slew    : Int
  locked  : Bool
  good    : Nat
  bad     : Nat
  offset  : Int
  input   : Fin 8
  /-- locked before, and stepped since lock was lost (R401) -/
  wasLocked : Bool
  stepped : Bool
  deriving DecidableEq, Repr

/-! ## Links, peers, channels (R96, R182, R183, R308, R385) -/

structure Port where
  split : Nat
  ptpen : Bool
  mgmt  : Bool
  deriving DecidableEq, Repr

structure Peer where
  dev   : BitVec 12
  ip    : BitVec 128
  port  : BitVec 16
  valid : Bool
  down  : Bool
  sub   : Fin 8
  /-- why it is down, as TRIG of class 0x28 (R374) -/
  trig  : Nat
  deriving DecidableEq, Repr

/-- What an outbound frame carries (R96, R309–R311). -/
inductive OutBody where
  | write (addr : Nat) (v : Row) (bytes : BitVec 256) (tag : Bool) (chan : Option (BitVec 10))
  | add (addr : Nat) (v : Row) (bytes : BitVec 256) (fmt : Nat) (rm : BitVec 2) (tag : Bool)
  | read (addr : Nat) (len : Nat)
  | atomic (addr : Nat) (op : AtOp) (w32 sgn : Bool) (v x : Word)
  | message (chan : BitVec 10) (rows : List (Row × Bool))
  | update (addr : Nat) (add : Nat) (graph node : Nat)
  deriving DecidableEq, Repr

/-- A frame in flight to a peer with its retransmissions and the time the wait ends (R385). -/
structure OutFrame where
  fid   : Nat
  dev   : BitVec 12
  cell  : CellId
  cmd   : Nat
  asid  : BitVec 10
  body  : OutBody
  sends : Nat
  wait  : Nat
  reply : Option (List Byte)
  /-- a message that waits at the peer, acknowledged as such (R309) -/
  held  : Bool
  /-- the path and the scope of the access it carries: a write whose page has moved to a peer keeps its own (R131) -/
  path  : Path
  scope : Nat
  /-- the frame carries a context's access: not the engine's copy of a page, nor another peer's write passed on (R93) -/
  own   : Bool
  /-- where it goes: the peer's address and UDP port, and the sub-port its peer is bound to (R96, R183) -/
  ip    : BitVec 128
  port  : BitVec 16
  sub   : Fin 8
  deriving DecidableEq, Repr

/-- An inbound message or count that waits at this device (R309, R310). -/
structure Inbound where
  frame : Frame
  /-- the writes it has made, which are performed, and then protected, before it is acknowledged (R124, R141) -/
  uids    : List Nat
  /-- its bytes have been counted at its channel's arrival word -/
  counted : Bool
  /-- the flags of its additions (R294) -/
  flags   : BitVec 6
  /-- what a read has returned so far, block by block, and whether any of it is poisoned (R124) -/
  got     : List Byte
  bad     : Bool
  deriving DecidableEq, Repr

/-! ## Log, sessions, monitors, outputs -/

/-- A record of the log (R347, R350). -/
structure LogRec where
  seq  : Nat
  bits : RecordBits
  delivered : Bool
  deriving DecidableEq, Repr

/-- A management or debug session (R192, R193, R351). -/
structure Session where
  id     : Nat
  client : Nat
  secured : Bool
  sub    : Fin 8
  subs   : List (Option (BitVec 10) × Nat)
  deriving DecidableEq, Repr

/-- A monitor unit (R194, R195). -/
structure Monitor where
  src   : Nat
  shift : Nat
  cell  : Nat
  allc  : Bool
  asid  : BitVec 10
  alla  : Bool
  en    : Bool
  min   : Nat
  max   : Nat
  count : Nat
  sum   : Nat
  bins  : Vector Nat 32
  deriving DecidableEq, Repr

/-- What leaves the device: answers, events, frames (R146, R148, R156, R187, R190–R195, R351). -/
inductive Out where
  | record (sess : Option Nat) (seq : Nat) (bits : RecordBits)
  | accepted (handle : Nat)
  | refusedGraph (code node : Nat)
  | nodeEvent (graph node code : Nat)
  | cellEvent (asid : BitVec 10) (c : CellId) (code : BitVec 16)
  | awfail (graph node cause : Nat)
  | powerblock (q : Nat)
  | killedTask (graph node seq : Nat)
  | refusedTask (id graph node inst code : Nat)
  | imageSent (img : Nat) (toPeer : Bool)
  | frame (f : OutFrame)
  | ack (dev : BitVec 12) (fid : Nat) (data : List Byte)
  | invalidate (frame : Nat) (h : Holder)
  /-- a copy held here renews its lease at the home of the page (R383) -/
  | renewal (dev : BitVec 12) (frame : Nat) (h : Holder)
  | forwarded (g : GangId)
  | notified (g : GangId)
  | advisory (asid : BitVec 10) (c : CellId) (off : Nat)
  | monitor (m : Nat) (u : Monitor)
  | report (what : MgmtRead) (v : List Nat)
  | telem (tj : Vector Nat 2) (rails : Vector Nat 8) (power stage : Nat)
  | status (stage : Nat) (locked : Bool) (mode thermal : Nat)
  | errorCompletion (code : BitVec 8)
  | vendor (num : BitVec 32)
  | refusedRequest
  | done
  | stateValue (v : Nat)
  | stepped (tick : Nat)
  | crypto (kind idx : Nat) (v : BitVec 384)
  | versions
  | capabilities
  | algorithms
  | sessionOpen (id : Nat)
  | faricaCode (code idx : Nat)
  | faricaBinary (bytes : List Byte)
  deriving DecidableEq, Repr

/-- The assisted modes (R191) as FUNCMODE holds them. -/
abbrev FuncMode := BitVec 64

/-- Which agent moves next: the scheduling step, a record of an engine, an event, or the clock. -/
inductive Turn where
  | auto
  | record (c : CellId) (e : Eng)
  | event (i : Instr)
  | clock
  deriving DecidableEq, Repr

/-- Where an ECC or parity error strikes (R370, R393): a store by its own numbering; `word` is a codeword of 32 bytes, or of 8 in sync
SRAM, and `k` an entry counted from the head. `array` is the ME's pipeline, `ballast` a ballast pass on a free cell. -/
inductive Struck where
  | spRow (c : CellId) (row : Nat)
  | slotRow (c : CellId) (slot : Fin 16) (row : Fin 128)
  | latch (c : CellId) (l : Fin 2) (word : Fin 1024)
  | metadata (c : CellId) (k : Nat)
  | vLane (c : CellId) (n : Fin 32) (i : Fin 64)
  | kLane (c : CellId) (n : Fin 8) (i : Fin 64)
  | gReg (c : CellId) (n : Fin 32)
  | bPiece (c : CellId) (n : Fin 4) (k : Fin 32)
  | lq (c : CellId) (n : Fin 4) (k : Nat)
  | sq (c : CellId) (n : Fin 2) (k : Nat)
  | mq (c : CellId) (n : Fin 2) (k : Nat)
  | yq (c : CellId) (k : Nat)
  | text (c : CellId) (off : Nat)
  | desc (asid : BitVec 10) (tid : BitVec 12)
  | leaf (asid : BitVec 10) (tid : BitVec 12) (tile : Nat)
  | line (n : Nat) (word : Fin 8)
  | counter (asid : BitVec 10) (n : Nat)
  | phaser (asid : BitVec 10) (n : Nat)
  | array (c : CellId)
  | ballast (c : CellId)
  deriving DecidableEq, Repr

/-! ## The device -/

structure State where
  cells    : Vector Cell 128
  gangs    : Vector Gang 128
  /-- device memory at its device address, and the poisoned 256-byte blocks (R82, R373) -/
  mem      : Memory
  memTag   : Marks
  fabric   : List FWrite
  deltas   : List Delta
  layout   : Layout
  tables   : List TTable
  descs    : List CachedDesc
  leaves   : List CachedLeaf
  dups     : List Dup
  migs     : List Migration
  /-- frames of this device whose pages have been handed over, with the device and the frame of their new home (R93) -/
  handed   : List (Nat × BitVec 12 × Nat)
  demoted  : List Demoted
  lines    : List SyncLine
  ctrs     : List Counter
  phasers  : List Phaser
  moved    : List (CellId × YOp)
  graphs   : List Graph
  queues   : Vector SQueue 64
  kept     : List Kept
  refused  : List RefusedInst
  images   : List Image
  withheld : List CellId
  power    : Power
  clock    : Clock
  ports    : Vector Port 2
  links    : BitVec 8
  selfdev  : BitVec 12
  peers    : List Peer
  chans    : List Chan
  outFrames : List OutFrame
  /-- the frames performed here, with what their acknowledgement carried -/
  seen     : List (BitVec 12 × Nat × List Byte)
  inbound  : List Inbound
  log      : List LogRec
  staged   : List (Fin 2 × RecordBits)
  logSeq   : Nat
  drop     : Nat
  /-- corrected errors of an HBM row since its repair, by stack · 2⁴⁰ + line (R371) -/
  rowErrs  : List (Nat × Nat)
  /-- uncorrectable chunk reads of the last second: wall time, and the bank as stack · 4096 + channel · 128 + pseudo-channel · 64 + bank (R377) -/
  badReads : List (Nat × Nat)
  sessions : List Session
  grants   : List (Nat × BitVec 10)
  advk     : List (BitVec 10 × Nat)
  forwards : List (GangId × Nat)
  monitors : Vector Monitor 64
  funcmode : FuncMode
  fwdMs    : Nat
  saveTarget : Bool
  remoteHost : Bool
  emergency : Bool
  powered  : Bool
  stage    : Nat
  bootHalt : Bool
  halted   : Bool
  signature : BitVec 64
  /-- what boot reads of the package and its calibration (R188, R189) -/
  boot     : Option BootInput
  /-- how each client's negotiation of algorithms went: 1 both, 2 refused (R190) -/
  spdm     : List (Nat × Nat)
  /-- wall time in reference cycles since power-on, counted at 1,900 MHz -/
  wall     : Nat
  /-- the model's own: turn, free-choice counter, free-value counter, numbers of accesses -/
  turn     : Turn
  pickCtr  : Nat
  /-- how many of the untimed steps must still be taken before others have a choice (R48) -/
  debt     : Nat
  freeCtr  : Nat
  uid      : Nat
  /-- the cell and engine whose record exec runs -/
  curCell  : CellId
  curEng   : Eng
  /-- the requests and events to come from outside, each with the client that sends it, and the client whose request is served -/
  inputs   : List (Nat × Instr)
  asker    : Nat
  /-- images that another device exports to this one -/
  imports  : List Import
  /-- the errors to come in the device's stores, each uncorrectable or not (R370) -/
  upsets   : List (Struck × Bool)
  outbox   : List Out
  deriving DecidableEq, Repr

/-! ## Reset -/

def Cc.reset : Cc :=
  { g := Vector.replicate 32 0, gTag := 0, p := 0, b := Vector.replicate 4 0, bTag := Vector.replicate 4 0,
    d := Vector.replicate 4 0, slipw := 512, spillBase := 0, spillLen := 0, cflags := 0, depcnt := 0, timeh := none,
    dLand := Vector.replicate 4 0 }

def Tile.reset : Tile := { body := 0, tags := 0, shape := 0 }

def Ve.reset : Ve :=
  { v := Vector.replicate 32 0, vTag := Vector.replicate 32 0, k := Vector.replicate 8 0, mode := 0, flags := 0,
    z := Vector.replicate 4 Tile.reset }

def Queues.reset : Queues :=
  { lq := Vector.replicate 4 [], sq := Vector.replicate 2 [], mq := Vector.replicate 2 [], yq := [], yRet := [] }

def Latch.reset : Latch := { bits := 0, tags := 0, scale := Vector.replicate 4 0, sTag := 0, src := none }

def Crema.reset : Crema :=
  { rows := [], tags := [], slots := Vector.replicate 16 ⟨none, false, 0⟩, free := List.finRange 16, spilled := [],
    parked := [], moving := [] }

def Me.reset : Me :=
  { bl := Vector.replicate 2 Latch.reset, mode := 0, flags := 0, metaq := [], ret := [], win := none, ops := [],
    lastLoad := Vector.replicate 2 none }

def Se.reset : Se := { queue := [], sestat := 0 }

def EngSeq.reset : EngSeq :=
  { pc := none, exp := none, last := none, forked := none, rdvOff := none, forkOff := none, stop := false, div := 1, base := 0 }

def Seqs.reset : Seqs :=
  { eng := Vector.replicate 4 EngSeq.reset, segid := 0, start := 0, segOff := 0, sege := none, sig := 0xFFFFFFFF, textWait := 0, sigPend := [], slip := 512,
    switches := [], issued := 0, seTick := none, dead := false, brk := Vector.replicate 8 none, brkGone := 0, brkDone := 0 }

def Ord.reset : Ord := { loads := [], stores := [], yp := [], holds := [], mark := 0, seen := [], banks := [] }

def Cell.reset : Cell :=
  { gang := 0, busy := false, lastAsid := none, cc := .reset, ve := .reset, q := .reset, sp := [], spTag := [],
    cr := .reset, me := .reset, se := .reset, sq := .reset, ord := .reset, flight := [], text := [], inval := [] }

def Gang.reset : Gang :=
  { status := .idle, cells := [], glog := 0, asid := 0, encgen := 4, graph := 0, node := 0, inst := 0, variant := 0,
    ktid := 0, koff := 0, toff := 0, tlen := 0, entry := 0, tick := 0, frozen := false, reqs := [], decisions := [],
    tokens := [], fmin := 0, fmax := 0, faults := [], queue := 0, started := 0, quantum := 0, startAt := 0, begun := 0,
    seq := 0, avg := 0, peak := 0, image := 0, savecnt := 0, owner := none, writes := [], frozenAt := 0,
    saveFor := none }

def Layout.reset : Layout :=
  { mode := 0, lost := 0, moving := false, wmark := 0, change := 0, dropping := none, dropped := [], waiting := [], failed := [] }

def SQueue.reset : SQueue :=
  { tickets := 0, quant := 5000, cls := 0, en := false, asids := 0, pass := 0, ready := [], deferred := false, owed := 0, noted := none }

def Power.reset : Power :=
  { budget := 2600000, rampup := 1, blim := 2600000, freq := 1900, target := 1900, rootDiv := 1,
    ballast := [], hist := [], refs := 0, acc := 0, stretchAt := Vector.replicate 2 [], slowDie := 0, calmSince := 0, divSince := 0, lastStep := 0,
    hot95 := Vector.replicate 2 false, clamp := false }

def Clock.reset : Clock := { time := 0, slew := 0, locked := false, good := 0, bad := 0, offset := 0, input := 0, wasLocked := false, stepped := false }

def Port.reset : Port := { split := 0, ptpen := true, mgmt := true }

def Monitor.reset : Monitor :=
  { src := 0, shift := 0, cell := 0, allc := false, asid := 0, alla := false, en := false, min := 0xFFFFFFFF,
    max := 0, count := 0, sum := 0, bins := Vector.replicate 32 0 }

/-- The device right after reset (power just applied, boot not begun): the values the manual states, and for the
rest the values of log entries 3, 4 and 5. -/
def State.reset : State :=
  { cells := Vector.replicate 128 Cell.reset, gangs := Vector.replicate 128 Gang.reset, mem := [], memTag := [],
    fabric := [], deltas := [], layout := .reset, tables := [], descs := [], leaves := [], dups := [], migs := [], handed := [],
    demoted := [], lines := [], ctrs := [], phasers := [], moved := [], graphs := [],
    queues := Vector.replicate 64 SQueue.reset, kept := [], refused := [], images := [], withheld := [], power := .reset,
    clock := .reset, ports := Vector.replicate 2 Port.reset, links := 0xFF, selfdev := 0, peers := [], chans := [],
    outFrames := [], seen := [], inbound := [], log := [], staged := [], logSeq := 0, drop := 0, rowErrs := [], badReads := [],
    sessions := [], grants := [], advk := [], forwards := [],
    monitors := Vector.replicate 64 Monitor.reset, funcmode := 0, fwdMs := 10, saveTarget := false,
    remoteHost := false, emergency := false, powered := true, stage := 0, bootHalt := false, halted := false,
    signature := 0, boot := none, spdm := [], wall := 0, turn := .auto, pickCtr := 0, debt := 0, freeCtr := 0, uid := 1, curCell := 0,
    curEng := .cc, inputs := [], asker := 0, imports := [], upsets := [], outbox := [] }

end Sys2Proof.Machine
end

