-- ==== Sys2Proof/Machine/Ops.lean ====
section
/-! DEFINITION. The named operations the meanings share: stores in canonical form, rows and lanes, cells and gangs,
results in flight (R29), freeze requests (R43), taking a fault (R354), the issue of a record (R24–R28, R35, R215), the
issue of a slot, and what a fence or an advance covers (R133–R139). -/

namespace Sys2Proof.Machine

abbrev Res := Host.Outcome State Fault Refusal

/-! ## Stores in canonical form -/

/-- What a store reads at an address; an unlisted address reads as d. -/
def assocGet {α : Type} (d : α) : List (Nat × α) → Nat → α
  | [], _ => d
  | (b, v) :: l, a => if a = b then v else assocGet d l a

/-- Write a value, keeping the addresses rising and no entry equal to d. -/
def assocPut {α : Type} [DecidableEq α] (d : α) : List (Nat × α) → Nat → α → List (Nat × α)
  | [], a, v => if v = d then [] else [(a, v)]
  | (b, w) :: l, a, v =>
    if a < b then (if v = d then (b, w) :: l else (a, v) :: (b, w) :: l)
    else if a = b then (if v = d then l else (a, v) :: l)
    else (b, w) :: assocPut d l a v

/-- The canonical form above a lower bound. -/
def assocWfFrom {α : Type} [DecidableEq α] (d : α) : Nat → List (Nat × α) → Bool
  | _, [] => true
  | lo, (a, v) :: l => decide (lo ≤ a) && decide (v ≠ d) && assocWfFrom d (a + 1) l

/-- The canonical form of a store. -/
def assocWf {α : Type} [DecidableEq α] (d : α) (l : List (Nat × α)) : Bool := assocWfFrom d 0 l

/-- The canonical form of device memory. -/
abbrev Memory.wf (m : Memory) : Bool := assocWf (0 : Byte) m
abbrev Rows.wf (m : Rows) : Bool := assocWf (0 : Row) m

def markHas (m : Marks) (a : Nat) : Bool := m.contains a

/-- Set or clear one mark, keeping the numbers rising. -/
def markPut : Marks → Nat → Bool → Marks
  | [], a, b => if b then [a] else []
  | x :: l, a, b =>
    if a < x then (if b then a :: x :: l else x :: l)
    else if a = x then (if b then x :: l else l)
    else x :: markPut l a b

/-- n fields of w bits, field k at bit w · k. -/
def packNat (w : Nat) (f : Nat → Nat) : Nat → Nat
  | 0 => 0
  | n + 1 => packNat w f n + (f n % 2 ^ w) * 2 ^ (w * n)

/-- Bits lo to lo + w − 1. -/
def fieldOf (x lo w : Nat) : Nat := x / 2 ^ lo % 2 ^ w

/-- Replace bits lo to lo + w − 1. -/
def putField (x lo w v : Nat) : Nat := x - fieldOf x lo w * 2 ^ lo + (v % 2 ^ w) * 2 ^ lo

/-! ## Rows -/

/-- Lane i of a row (R52). -/
def lane (r : Row) (i : Nat) : Lane := r.extractLsb' (32 * i) 32
/-- The row of 64 lanes. -/
def mkRow (f : Nat → Lane) : Row := BitVec.ofNat 2048 (packNat 32 (fun i => (f i).toNat) 64)
/-- Column j of a slot row (R66). -/
def slotLane (r : SlotRow) (j : Nat) : Lane := r.extractLsb' (32 * j) 32
def mkSlotRow (f : Nat → Lane) : SlotRow := BitVec.ofNat 8192 (packNat 32 (fun i => (f i).toNat) 256)
/-- 64-bit piece k of a row (R49). -/
def piece (r : Row) (k : Nat) : Word := r.extractLsb' (64 * k) 64
def setPiece (r : Row) (k : Nat) (v : Word) : Row := BitVec.ofNat 2048 (putField r.toNat (64 * k) 64 v.toNat)
/-- Byte k of a row. -/
def byteAt (r : Row) (k : Nat) : Byte := r.extractLsb' (8 * k) 8
/-- The lanes of `new` where the mask is set, of `old` elsewhere (R52). -/
def mergeLanes (m : BitVec 64) (old new : Row) : Row := mkRow fun i => if m.getLsbD i then lane new i else lane old i
/-- 64 tags from a function of the lane. -/
def mkTags (n : Nat) (f : Nat → Bool) : BitVec n := BitVec.ofNat n (packNat 1 (fun i => (f i).toNat) n)
def allTags (n : Nat) (b : Bool) : BitVec n := if b then BitVec.allOnes n else 0

/-! ## Cells, gangs and engines -/

def engIx : Eng → Fin 4
  | .cc => 0 | .ve => 1 | .me => 2 | .se => 3

def State.cell (s : State) (c : CellId) : Cell := s.cells[c]
def State.setCell (s : State) (c : CellId) (x : Cell) : State := { s with cells := s.cells.set c x }
def State.modCell (s : State) (c : CellId) (f : Cell → Cell) : State := s.setCell c (f (s.cell c))
def State.gang (s : State) (g : GangId) : Gang := s.gangs[g]
def State.setGang (s : State) (g : GangId) (x : Gang) : State := { s with gangs := s.gangs.set g x }
def State.modGang (s : State) (g : GangId) (f : Gang → Gang) : State := s.setGang g (f (s.gang g))
def State.gidOf (s : State) (c : CellId) : GangId := (s.cell c).gang
def State.gangOf (s : State) (c : CellId) : Gang := s.gang (s.gidOf c)
/-- The cell whose record is executed, its gang and its tick. -/
def State.cur (s : State) : Cell := s.cell s.curCell
def State.setCur (s : State) (x : Cell) : State := s.setCell s.curCell x
def State.modCur (s : State) (f : Cell → Cell) : State := s.modCell s.curCell f
def State.now (s : State) : Nat := (s.gangOf s.curCell).tick
/-- The state in which a record of an engine runs. -/
def State.onEngine (s : State) (e : Eng) : State := { s with curEng := e }
/-- A number for an access, a command or a request. -/
def State.fresh (s : State) : State := { s with uid := s.uid + 1 }
/-- A value the manual does not give (log entry 2). -/
def State.free (kind : Nat) (s : State) : Word × State :=
  (Config.freeWord kind s.freeCtr, { s with freeCtr := s.freeCtr + 1 })
def State.emit (o : Out) (s : State) : State := { s with outbox := s.outbox ++ [o] }

/-- The span class of a gang of 2^glog cells (R19). -/
def spanOf (glog : Nat) : Nat := if glog = 0 then 0 else if glog ≤ 4 then 1 else if glog ≤ 6 then 2 else 3
/-- Ddec and Dstall of a gang size (R19). -/
def ddecOf (glog : Nat) : Nat :=
  match spanOf glog with
  | 0 => 6 | 1 => 20 | 2 => 36 | _ => 60
def Gang.dstall (g : Gang) : Nat := ddecOf g.glog
def Gang.size (g : Gang) : Nat := 2 ^ g.glog
/-- The member index of a cell: its rank among the gang's logical numbers (R19). -/
def Gang.member (g : Gang) (c : CellId) : Nat := g.cells.countP fun d => decide (d.val < c.val)
/-- Member m of a gang. -/
def Gang.cellAt (g : Gang) (m : Nat) : Option CellId := g.cells.find? fun c => decide (g.member c = m)

def Cell.engine (x : Cell) (e : Eng) : EngSeq := x.sq.eng[(engIx e)]
def Cell.setEngine (x : Cell) (e : Eng) (q : EngSeq) : Cell := { x with sq := { x.sq with eng := x.sq.eng.set (engIx e) q } }
def State.engine (s : State) : EngSeq := s.cur.engine s.curEng
def State.setEngine (s : State) (q : EngSeq) : State := s.modCur fun x => x.setEngine s.curEng q
/-- The divisor of the engine whose record is executed (R176). -/
def State.div (s : State) : Nat := s.engine.div
/-- The segment tick (R33). -/
def State.segTick (s : State) : Nat := s.now - s.cur.sq.start

/-- Reading P: P0 reads true (R49). -/
def Cc.pred (r : Cc) (n : Nat) : Bool := n = 0 || r.p.getLsbD n
/-- Reading G: G0 reads zero (R49). -/
def Cc.greg (r : Cc) (n : Fin 32) : Word := if n = 0 then 0 else r.g[n]
def Cc.gtag (r : Cc) (n : Fin 32) : Bool := n != 0 && r.gTag.getLsbD n.val
/-- A PRED or SPRED field against the P registers (R28). -/
def evalPred (r : Cc) : Pred → Bool
  | .always => true
  | .p inv n => r.pred n.val != inv

/-! ## Scratchpad rows and device memory as the store holds them -/

def Cell.row (x : Cell) (r : Nat) : Row := assocGet 0 x.sp r
def Cell.rowTag (x : Cell) (r : Nat) : Bool := markHas x.spTag r
def Cell.putRow (x : Cell) (r : Nat) (v : Row) (tag : Bool) : Cell :=
  { x with sp := assocPut 0 x.sp r v, spTag := markPut x.spTag r tag }
/-- Bytes n of device memory from an address, lowest first. -/
def memBytes (m : Memory) (a : Nat) : Nat → List Byte
  | 0 => []
  | n + 1 => assocGet 0 m a :: memBytes m (a + 1) n
/-- The value of n bytes, little-endian (R2). -/
def memNat (m : Memory) (a : Nat) : Nat → Nat
  | 0 => 0
  | n + 1 => (assocGet 0 m a).toNat + 256 * memNat m (a + 1) n
/-- Store n bytes of a value from an address. -/
def memPut (m : Memory) (a v : Nat) : Nat → Memory
  | 0 => m
  | n + 1 => memPut (assocPut 0 m a (BitVec.ofNat 8 v)) (a + 1) (v / 256) n
/-- Store the bytes of a value whose mask bits are set. -/
def memPutMasked (m : Memory) (a v : Nat) (mask : Nat) : Nat → Memory
  | 0 => m
  | n + 1 => memPutMasked (if mask % 2 = 1 then assocPut 0 m a (BitVec.ofNat 8 v) else m) (a + 1) (v / 256) (mask / 2) n

/-! ## Results in flight (R29) -/

/-- Where in a record a meaning runs: its text offset, its expansion, its slot, and the mode it read (R120). -/
structure Ctx where
  off  : Nat
  k    : Nat
  slot : Nat
  mode : BitVec 4 := 0
  deriving DecidableEq, Repr

/-- A result lands at a tick, with the flags it raises there (R5, R6). -/
def State.land (s : State) (c : Ctx) (due : Nat) (d : Land) (vfl mfl : FlagBits := 0) (cfl : BitVec 2 := 0) : State :=
  (s.modCur fun x => { x with flight := x.flight ++ [⟨due, s.uid, s.curEng, c.off, d, vfl, mfl, cfl⟩] }).fresh

/-- A result lands n engine cycles after issue (R4, R75). -/
def State.landAfter (s : State) (c : Ctx) (n : Nat) (d : Land) (vfl mfl : FlagBits := 0) (cfl : BitVec 2 := 0) : State :=
  s.land c (s.now + n * s.div) d vfl mfl cfl

/-! ## Freeze requests and faults (R43, R354) -/

/-- Raise a freeze request on a gang, due Dstall ticks later (R43). -/
def State.request (s : State) (g : GangId) (c : Cond) : State :=
  s.modGang g fun x => { x with reqs := x.reqs ++ [⟨x.tick + x.dstall, c⟩] }

/-- A fault of classes 0x01 to 0x11 as a meaning finds it: class, unit, syndrome, address (R347, R348, R356). -/
structure Flt where
  cls   : Nat
  unit  : Nat
  synd  : Nat
  addr  : Nat := 0
  akind : Bool := false
  slot  : Nat := 0
  deriving DecidableEq, Repr

/-- The mode of the function that decides a class (R191, R352): XLAT, else ERRD. -/
def State.faultMode (s : State) (cls : Nat) : Nat :=
  if 0x0C ≤ cls && cls ≤ 0x0E then fieldOf s.funcmode.toNat 0 2 else fieldOf s.funcmode.toNat 10 2

/-- Take a fault found on a cell: the record to be written at the stop, and the freeze request due Dstall ticks
later (R354). The gang runs on; the fault freeze, the record and the disposition follow as events. -/
def State.fault (s : State) (c : CellId) (e : Eng) (off tick : Nat) (redo : Option (Instr × Cc × Nat)) (f : Flt) :
    State :=
  let g := s.gidOf c
  let p : PFault :=
    { id := s.uid, cls := f.cls, cell := c, unit := f.unit, tick := tick, tns := s.clock.time.extractLsb' 16 64,
      segid := (s.cell c).sq.segid, off := off, slot := f.slot, eng := e, addr := BitVec.ofNat 64 f.addr, akind := f.akind,
      synd := BitVec.ofNat 64 f.synd, written := false, precise := true, mode := s.faultMode f.cls,
      redo := redo, yop := none, recSeq := 0, again := false }
  ((s.modGang g fun x => { x with faults := x.faults ++ [p] }).request g (.fault s.uid)).fresh

/-- The unit of an engine (R347). -/
def engUnit : Eng → Nat
  | .cc => 0 | .ve => 1 | .me => 2 | .se => 3

/-- A schedule miss: CAUSE, WHICH and the segment tick of the offending issue (R356). -/
def missFlt (e : Eng) (cause which due : Nat) : Flt := ⟨1, (engUnit e), cause + which * 256 + due % 2 ^ 32 * 2 ^ 32, 0, false, 0⟩
/-- SYND of classes 0x04 to 0x06. -/
def illSynd (gen word bit opc : Nat) : Nat := word % 8 + bit % 64 * 8 + gen % 8 * 512 + opc % 512 * 4096
/-- The fault of a rejected record or slot (R360). -/
def rejectFlt (gen : Nat) (e : Eng) (r : Reject) : Flt :=
  match r.slot with
  | none => ⟨4, engUnit e, illSynd gen r.word r.bit r.opc, 0, false, 0⟩
  | some k => ⟨5, engUnit e, illSynd gen r.word r.bit r.opc, 0, false, k⟩
/-- Protection and descriptor faults of a scratchpad access, a ring or an arrival word: CAUSE, with WRITE (R374). -/
def protFlt (e : Eng) (cause : Nat) (write : Bool := false) : Flt := ⟨0x0D, engUnit e, cause + write.toNat * 64, 0, true, 0⟩
def descFlt (e : Eng) (cause : Nat) : Flt := ⟨0x0E, engUnit e, cause, 0, true, 0⟩
/-- A poison fault (R356). -/
def poisonFlt (cause reg : Nat) (isB : Bool) : Flt := ⟨0x11, 0, cause + reg * 4 + isB.toNat * 128, 0, false, 0⟩

/-! ## CRC-32C (R35) -/

/-- One byte of the reflected CRC-32C update. -/
def crcBits : Nat → BitVec 32 → BitVec 32
  | 0, c => c
  | n + 1, c => crcBits n (if c.getLsbD 0 then (c >>> 1) ^^^ 0x82F63B78 else c >>> 1)
def crcByte (c : BitVec 32) (b : Byte) : BitVec 32 := crcBits 8 (c ^^^ b.zeroExtend 32)
/-- The update by n bytes of a value, lowest first. -/
def crcNat (c : BitVec 32) (v : Nat) : Nat → BitVec 32
  | 0 => c
  | n + 1 => crcNat (crcByte c (BitVec.ofNat 8 v)) (v / 256) n
def crcBytes (c : BitVec 32) (l : List Byte) : BitVec 32 := l.foldl crcByte c

/-- The signature entry of a record issued at a segment tick: W0 with that tick, and W1 or zero for a BNDL (R35). -/
def sigEntry (i : Instr) (t : Nat) : BitVec 128 :=
  match encode i with
  | none => 0
  | some w =>
    let w0 := putField (w.toNat % 2 ^ 64) 16 24 t
    let w1 := if w0 % 2048 = 0 then 0 else w.toNat / 2 ^ 64 % 2 ^ 64
    BitVec.ofNat 128 (w0 + w1 * 2 ^ 64)

/-- Entries of one tick in the order CC, VE, ME, SE (R35). -/
def sigPut (c : Nat) (x : BitVec 128) : List (Nat × BitVec 128) → List (Nat × BitVec 128)
  | [] => [(c, x)]
  | (d, y) :: l => if c < d then (c, x) :: (d, y) :: l else (d, y) :: sigPut c x l
def sigFold (s : BitVec 32) (l : List (Nat × BitVec 128)) : BitVec 32 :=
  l.foldl (fun c e => crcNat c e.2.toNat 16) s

/-! ## Text -/

/-- A record of the text cache. -/
def Cell.textAt (x : Cell) (off : Nat) : Option RecordBits := (x.text.find? fun e => e.1 == off).map (·.2)
def isSegeBits (w : RecordBits) : Bool := w.toNat % 2048 = 12
/-- The record that a BRK has displaced (R218); any other record stands for itself. -/
def Cell.behind (x : Cell) (w : RecordBits) : RecordBits :=
  if w.toNat % 2048 = 24 then
    match x.sq.brk[Fin.ofNat 8 (w.toNat / 2 ^ 128)] with
    | some e => e.2
    | none => w
  else w
/-- A cell's text cache holds 4,096 records (R11). -/
def textCap : Nat := 4096
/-- The SEGE that closes the segment from an offset, in the text cache: offset and stamp. -/
def findSege (x : Cell) (gen : Nat) : Nat → Nat → Option (Nat × Nat)
  | 0, _ => none
  | fuel + 1, off =>
    match x.textAt off with
    | none => none
    | some v =>
      let w := x.behind v
      if isSegeBits w then some (off, stampOf gen w.toNat) else findSege x gen fuel (off + 1)

/-- Where a sequencer's walk ends: at a record of its engine, at a record it waits for (the SEGE, or an RDV that names it), or
at a record that the text cache lacks. -/
inductive Walk where
  | own (off : Nat) (w : RecordBits)
  | stop (off : Nat)
  | missing (off : Nat)
  deriving DecidableEq, Repr
def Walk.off : Walk → Nat
  | .own o _ => o
  | .stop o => o
  | .missing o => o

/-- Is a record an RDV that names an engine? -/
def rdvStops (gen : Nat) (e : Eng) (w : RecordBits) : Bool :=
  w.toNat % 2048 = 20 && fieldOf (widened gen w.toNat) (127 + (engIx e).val) 1 = 1

/-- Walk from an offset past the records of other engines. -/
def Cell.walk (x : Cell) (gen : Nat) (e : Eng) : Nat → Nat → Walk
  | 0, off => .missing off
  | n + 1, off =>
    match x.textAt off with
    | none => .missing off
    | some v =>
      if engineOf v.toNat = e then .own off v
      else if isSegeBits (x.behind v) || rdvStops gen e (x.behind v) then .stop off
      else x.walk gen e n (off + 1)
/-- The walk of an engine's sequencer from its program counter. -/
def State.walkOf (s : State) (c : CellId) (e : Eng) : Walk :=
  match ((s.cell c).engine e).pc with
  | none => .stop 0
  | some off => (s.cell c).walk (s.gangOf c).encgen e textCap off
/-- The record that a running sequencer has reached: the next of its own, or the one it waits at; it has passed over those of
other engines (R22, R23). -/
def State.position (s : State) (c : CellId) (e : Eng) : Option Nat :=
  ((s.cell c).engine e).pc.map fun _ => (s.walkOf c e).off

/-- The SEGE of the current segment, offset and stamp: as the text cache has it, or as it was found when the segment was
entered. -/
def State.segeOf (s : State) (c : CellId) : Option (Nat × Nat) :=
  match findSege (s.cell c) (s.gangOf c).encgen textCap (s.cell c).sq.segOff with
  | some e => some e
  | none => (s.cell c).sq.sege

/-! ## Issue of a record (R24–R28, R35, R215) -/

/-- Level indices of an expansion (R25). -/
structure Ix where
  i0 : Nat
  i1 : Nat
  i2 : Nat
  i3 : Nat
  deriving DecidableEq, Repr

def ixOf (nest : BitVec 64) (k : Nat) : Ix :=
  let n0 := nest.toNat % 65536 + 1
  let n1 := nest.toNat / 65536 % 65536 + 1
  let n2 := nest.toNat / 2 ^ 32 % 65536 + 1
  ⟨k % n0, k / n0 % n1, k / (n0 * n1) % n2, k / (n0 * n1 * n2)⟩
/-- BASE plus the strides of an expansion, in the units of the KIND (R25). -/
def stepped (base : Int) (st : Strides) (x : Ix) : Int :=
  base + x.i0 * st.s0.toInt + x.i1 * st.s1.toInt + x.i2 * st.s2.toInt + x.i3 * st.s3.toInt

/-- The expansion of the executed engine that falls at this tick, if a record is expanding (R25). -/
def State.expanding (s : State) : Option Expansion :=
  s.engine.exp.filter fun x => decide (1 ≤ x.done ∧ x.done < x.total ∧ x.t0 + x.done * x.step = s.now)

/-- How far the executed engine's counter leads the trailing running one (R23). -/
def State.lead (s : State) (off : Nat) : Nat :=
  [Eng.cc, .ve, .me, .se].foldl (fun m e =>
    if e = s.curEng then m
    else match s.position s.curCell e with
      | some p => max m (off - p)
      | none => m) 0

/-- Why the first issue of a record at this tick is a schedule miss (R23, R24, R26, R27), by CAUSE of R356. -/
def State.missCause (s : State) (off stamp n cyc : Nat) : Option Nat :=
  let q := s.engine
  let t0 := s.cur.sq.start + stamp
  let late := if s.curEng = .se then 10 else 1
  let last := match s.segeOf s.curCell with
    | some (_, st) => s.cur.sq.start + st
    | none => t0 + n * cyc * q.div
  firstBad [
    (q.forked.any fun f => decide (t0 ≤ f), 3),
    (match q.rdvOff, q.forkOff with
      | some r, some f => decide (r < off ∧ off < f)
      | _, _ => false, 3),
    (decide (last < t0), 2),
    (decide (t0 < s.now), late),
    (q.last.any fun l => decide (t0 ≤ l), late),
    (s.curEng != .se && decide ((s.now + q.div - q.base % q.div) % q.div ≠ 0), 0),
    (s.curEng != .se && decide (last < t0 + (n - 1) * cyc * q.div), 2),
    (decide (s.cur.sq.slip < s.lead off), 4)]

/-- A deprecated record counts once in DEPCNT and may raise an advisory (R331). -/
def State.deprecated (s : State) (off : Nat) : State :=
  let n := s.cur.cc.depcnt
  if n = 2 ^ 32 - 1 then s
  else
    let asid := (s.gangOf s.curCell).asid
    let k := match s.advk.find? (fun e => e.1 == asid) with
      | some e => e.2
      | none => 32
    let s1 := s.modCur fun x => { x with cc := { x.cc with depcnt := n + 1 } }
    if k < 32 && (n + 1) % 2 ^ k = 0 then s1.emit (.advisory asid s.curCell off) else s1
def isDeprecated : Instr → Bool
  | .vclrf _ | .ldbw _ | .cpins _ => true
  | _ => false

/-- A fault of an expansion: it and the later ones are suppressed, and the fault is taken (R354, R365). -/
def State.expFault (s : State) (i : Instr) (c : Ctx) (f : Flt) : State :=
  (s.setEngine { s.engine with exp := none }).fault s.curCell s.curEng c.off s.now (some (i, s.cur.cc, c.k)) f

/-- Run an expansion: the checks that hold whatever the predicate says (R199), then its effect when the record's
predicate held. -/
def State.perform (s : State) (i : Instr) (c : Ctx) (act : Bool) (chk : Nat → Option Flt)
    (body : Ctx → State → Except Flt State) : State :=
  match chk c.k with
  | some f => s.expFault i c f
  | none =>
    if act then
      match body c s with
      | .ok t => t
      | .error f => s.expFault i c f
    else s

/-- The mode of the executed engine (R53, R120). -/
def State.engMode (s : State) : BitVec 4 :=
  match s.curEng with
  | .ve => s.cur.ve.mode
  | .me => s.cur.me.mode
  | _ => 0

/-- The OP of an instruction, for syndromes. -/
def opcOf (i : Instr) : Nat :=
  match recOf i, slotOf i with
  | some (_, op, _), _ => op
  | none, some (op8, _) => op8
  | none, none => match encode i with
    | some w => w.toNat / 4 % 512
    | none => 0

/-- The sequencer's state after a record's first issue: counter, expansion, occupied slots (R24, R25). -/
def State.beginRecord (s : State) (i : Instr) (off stamp n cyc : Nat) (act : Bool) : State :=
  let q := s.engine
  let t0 := s.now
  let step := if s.curEng = .se then 1 else cyc * q.div
  let exp := if n ≤ 1 then none else some ⟨off, t0, 1, n, step, act, s.engMode⟩
  let s1 := s.setEngine { q with pc := some (off + 1), exp := exp, last := some (t0 + max (n * step) 1 - 1) }
  let s2 := s1.modCur fun x => { x with sq := { x.sq with sigPend := sigPut s.curEng.code (sigEntry i stamp) x.sq.sigPend } }
  if isDeprecated i then s2.deprecated off else s2

/-- The record is walked past without issuing. -/
def State.skipRecord (s : State) (off : Nat) : State := s.setEngine { s.engine with pc := some (off + 1) }

/-- Does a record stamped at a segment tick wait for it? At its segment's SEGE tick nothing waits any more: a record stamped
beyond it is a schedule miss there (R26). -/
def State.waits (s : State) (stamp : Nat) : Bool :=
  s.now < s.cur.sq.start + stamp &&
    !(match s.segeOf s.curCell with
      | some (_, st) => decide (s.cur.sq.start + st ≤ s.now)
      | none => false)

/-- Issue a record of n expansions of cyc engine cycles (R24–R28): an expansion that is due continues; otherwise the
record issues for the first time, is checked, enters the signature and runs its first expansion. A record whose stamp
has not come waits. -/
def issue (i : Instr) (bad : Option Flt) (stamp : Nat) (p : Pred) (n cyc : Nat) (chk : Nat → Option Flt)
    (body : Ctx → State → Except Flt State) (s : State) : State :=
  match s.expanding with
  | some x =>
    let q := s.engine
    let s1 := s.setEngine { q with exp := if x.done + 1 < x.total then some { x with done := x.done + 1 } else none }
    s1.perform i ⟨x.off, x.done, 0, x.mode⟩ x.act chk body
  | none =>
    let off := s.engine.pc.getD 0
    if s.waits stamp then s
    else
      let s0 := s.skipRecord off
      match bad with
      | some f => s0.fault s.curCell s.curEng off s.now none f
      | none =>
        match s.missCause off stamp n cyc with
        | some k => s0.fault s.curCell s.curEng off s.now none (missFlt s.curEng k 0 stamp)
        | none =>
          let act := evalPred s.cur.cc p
          (s.beginRecord i off stamp n cyc act).perform i ⟨off, 0, 0, s.engMode⟩ act chk body

/-- A record whose expansions make no check of their own. -/
def noChk (_ : Nat) : Option Flt := none

/-- The engine cycles of one issue (R24); an SE record is released, whatever its nest (R27). -/
def engCycles : Eng → Nat
  | .me => 128
  | _ => 1

/-- The illegal-record fault of a record whose fields its entry does not accept (R215, R360). -/
def recBad (i : Instr) (gen : Nat) : Option Flt :=
  match recOf i, recCheck i with
  | some (e, op, _), some (why, word, bit) => some (rejectFlt gen e ⟨why, none, word, bit, op⟩)
  | _, _ => none

/-- A number that an expansion steps out of its range, at a word and bit (R199). -/
def steppedOut (base : Nat) (st : Strides) (x : Ix) (hi : Nat) : Bool :=
  stepped base st x < 0 || (hi : Int) < stepped base st x

/-- The first register, tile or park index of an operand that leaves its kind's range (R199, R200). -/
def opndOut (o : Opnd) (x : Ix) : Option Nat :=
  match o with
  | .v n _ xen xnum st => if steppedOut n.val st x 31 then some 4 else if xen && steppedOut xnum.val st x 31 then some 13
      else none
  | .zrow _ i st | .zcol _ i st => if steppedOut i.toNat st x 15 then some 32 else none
  | .k n st => if steppedOut n.val st x 7 then some 4 else none
  | .park p st => if steppedOut p.toNat st x 63 then some 32 else none
  | _ => none

/-- The illegal-record fault of an expansion that steps a number out of its range (R199). -/
def stepBad (i : Instr) (r : Rec) (e : Eng) (gen k : Nat) : Option Flt :=
  let x := ixOf r.nest k
  let at_ (w b : Nat) : Flt :=
    rejectFlt gen e (if gen = 4 then ⟨.operand, none, w, b, opcOf i⟩
      else legacyPos gen (gen = 2 && takesAB i) ⟨.operand, none, w, b, opcOf i⟩)
  match opndOut r.o0 x, opndOut r.o1 x, opndOut r.o2 x with
  | some b, _, _ => some (at_ 2 b)
  | _, some b, _ => some (at_ 4 b)
  | _, _, some b => some (at_ 6 b)
  | none, none, none => none

/-- Issue a timed record with operands (R25). -/
def issueRec (i : Instr) (r : Rec) (body : Ctx → State → Except Flt State) (s : State) : State :=
  let e := match recOf i with
    | some (e, _, _) => e
    | none => .cc
  let s := s.onEngine e
  let n := if e = .se then 1 else nestTotal r.nest
  let gen := (s.gangOf s.curCell).encgen
  issue i (recBad i gen) r.stamp.toNat r.pred n (engCycles e) (stepBad i r e gen) body s

/-- The current cell faults on a record that the decoder rejects (R215, R354, R360). -/
def rejectRecord (r : Reject) (stamp : Nat) (s : State) : State :=
  let off := s.engine.pc.getD 0
  if s.waits stamp then s
  else (s.skipRecord off).fault s.curCell s.curEng off s.now none (rejectFlt (s.gangOf s.curCell).encgen s.curEng r)

/-! ## Issue of a slot on its own (R202, R203, R215) -/

/-- What a slot operation does: OP8, the checks that ask the state whether or not the predicate holds, the effect, and
what it still does when its predicate is false (a DECIDE's identity, a YCLM's part). -/
structure SlotSem where
  op8  : Nat
  rule : Slot → State → Option Flt := fun _ _ => none
  act  : Ctx → Slot → State → Except Flt State
  idle : Ctx → Slot → State → State := fun _ _ s => s

/-- The effect of a slot whose checks have passed. -/
def SlotSem.run (m : SlotSem) (c : Ctx) (sl : Slot) (s : State) : Except Flt State :=
  if evalPred s.cur.cc sl.spred then m.act c sl s else .ok (m.idle c sl s)

/-- A slot operation that stands in the current cell's bundle alone (R202, R215). -/
def slotAlone (m : SlotSem) (sl : Slot) (s : State) : Res :=
  let s := s.onEngine .cc
  let gen := (s.gangOf s.curCell).encgen
  let off := s.engine.pc.getD 0
  .next <| match slotCheck m.op8 sl with
    | some b => s.fault s.curCell .cc off s.now none (rejectFlt gen .cc ⟨.slotField, some 0, 1, b, m.op8⟩)
    | none =>
      match m.rule sl s with
      | some f => s.fault s.curCell .cc off s.now none f
      | none =>
        match m.run { off := off, k := 0, slot := 0 } sl s with
        | .ok t => t
        | .error f => s.fault s.curCell .cc off s.now none f

/-! ## Scopes (R122, R131) -/

def dieOf (c : CellId) : Fin 2 := if c.val < 64 then 0 else 1

/-- The narrowest scope of a location as seen from a cell: 0 CELL to 4 SYS (R122). -/
def State.scopeOf (s : State) (c : CellId) : Loc → Nat
  | .sp d _ => if c = d then 0 else if s.gidOf c = s.gidOf d then 1 else if dieOf c = dieOf d then 2 else 3
  | .hbm _ => 3
  | .peer _ _ => 4
  | .img _ _ _ => 3

/-! ## Timed accesses to the banks (R59) -/

/-- Count a timed access to a bank at this tick; none when it is the fifth. -/
def Cell.useBank (x : Cell) (row : Nat) : Option Cell :=
  let n := assocGet 0 x.ord.banks (row % 32)
  if n < 4 then some { x with ord := { x.ord with banks := assocPut 0 x.ord.banks (row % 32) (n + 1) } } else none

/-- A timed access to a row, or the schedule miss of a fifth one. -/
def State.useBank (s : State) (row : Nat) : Except Flt State :=
  match s.cur.useBank row with
  | some x => .ok (s.setCur x)
  | none => .error (missFlt s.curEng 7 (row % 32) s.segTick)

end Sys2Proof.Machine
end

