-- ==== Sys2Proof/Machine/Translate.lean ====
section
/-! DEFINITION. Device memory and translation: 256-byte blocks with their poison marks and the sync lines above them
(R82, R94, R373), tensor descriptors, tile tables and leaves (R76–R81), their caches (R77), latency classes (R86), the
placement of chunks on stacks (R83–R89) and peers (R96). -/

namespace Sys2Proof.Machine

/-! ## Blocks and sync lines -/

/-- The allocatable frames (R82). -/
def State.frames (s : State) : Nat := if s.layout.mode = 2 then 10321920 else 11354112

/-- A line the sync engine holds. -/
def State.lineAt (s : State) (n : Nat) : Option SyncLine := s.lines.find? fun l => decide (l.line = n)

/-- A 256-byte block as a plain read sees it: memory under the sync lines that cover it (R94). -/
def State.blockRead (s : State) (blk : Nat) : Row × Bool :=
  let base := memNat s.mem (256 * blk) 256
  let v := (List.range 4).foldl (fun x k =>
    match s.lineAt (4 * blk + k) with
    | some l => putField x (512 * k) 512 l.bits.toNat
    | none => x) base
  let tag := markHas s.memTag blk || (List.range 4).any fun k =>
    match s.lineAt (4 * blk + k) with
    | some l => l.tags != 0
    | none => false
  (BitVec.ofNat 2048 v, tag)

/-- Bytes of `new` where the mask bit is set, of `old` elsewhere. -/
def mergeBytes (mask : BitVec 256) (old new : Row) : Row :=
  BitVec.ofNat 2048 (packNat 8 (fun k => if mask.getLsbD k then (byteAt new k).toNat else (byteAt old k).toNat) 256)

/-- The two-byte mask of the 4-byte units of line k that a byte mask covers whole. -/
def unitMask (mask : BitVec 256) (k : Nat) : BitVec 16 :=
  mkTags 16 fun u => (List.range 4).all fun b => mask.getLsbD (64 * k + 4 * u + b)

/-- A plain write of bytes of a block, into memory and through the held lines (R91, R94); the whole block clears its
poison mark, and a poisoned value sets it (R373). -/
def State.blockWrite (s : State) (blk : Nat) (v : Row) (mask : BitVec 256) (tag : Bool) : State :=
  let whole := mask = BitVec.allOnes 256
  let lines := s.lines.map fun l =>
    if l.line / 4 = blk then
      let k := l.line % 4
      let m := BitVec.ofNat 256 (mask.toNat / 2 ^ (64 * k) % 2 ^ 64)
      let merged := mergeBytes m (BitVec.ofNat 2048 l.bits.toNat) (BitVec.ofNat 2048 (v.toNat / 2 ^ (512 * k) % 2 ^ 512))
      { l with bits := BitVec.ofNat 512 merged.toNat, tags := l.tags &&& ~~~(unitMask mask k), dirty := true }
    else l
  { s with
    mem := memPutMasked s.mem (256 * blk) v.toNat mask.toNat 256
    memTag := if tag then markPut s.memTag blk true else if whole then markPut s.memTag blk false else s.memTag
    lines := lines }

/-- n bytes of device memory at any address, low byte first, and whether a block among them is poisoned. -/
def State.devRead (s : State) (a n : Nat) : Nat × Bool :=
  let blks := List.range ((a + n + 255) / 256 - a / 256)
  let parts := blks.map fun k => s.blockRead (a / 256 + k)
  let whole := packNat 2048 (fun k => (parts.getD k (0, false)).1.toNat) blks.length
  (fieldOf whole (8 * (a % 256)) (8 * n), parts.any (·.2))

/-- Write n bytes at an address inside one block. -/
def State.devWriteIn (s : State) (a n v : Nat) (tag : Bool := false) : State :=
  let o := a % 256
  s.blockWrite (a / 256) (BitVec.ofNat 2048 (v % 2 ^ (8 * n) * 2 ^ (8 * o))) (BitVec.ofNat 256 ((2 ^ n - 1) * 2 ^ o)) tag

/-- Write n bytes at any address, block by block. -/
def State.devWrite : Nat → State → Nat → Nat → Nat → State
  | 0, s, _, _, _ => s
  | fuel + 1, s, a, n, v =>
    if n = 0 then s
    else
      let m := min n (256 - a % 256)
      State.devWrite fuel (s.devWriteIn a m v) (a + m) (n - m) (v / 2 ^ (8 * m))

/-! ## Formats (R76) -/

def fmtBytes (f : Nat) : Nat :=
  match f with
  | 3 | 7 | 8 => 2
  | 4 | 9 | 10 => 4
  | 11 => 8
  | _ => 1

/-! ## Descriptors (R76) -/

/-- A descriptor's fields. -/
structure Desc where
  fmt    : Nat
  ndim   : Nat
  dwe    : Bool
  dims   : List Nat
  tlog   : List Nat
  root   : Nat
  levels : Nat
  sclid  : Nat
  scll   : Nat
  deriving DecidableEq, Repr

/-- A translation fault: class, CAUSE and table LEVEL (R374). -/
structure XFlt where
  cls   : Nat
  cause : Nat
  level : Nat := 0
  tile  : Nat := 0
  deriving DecidableEq, Repr

/-- The first failing check, as a fault. -/
def xCheck (l : List (Bool × XFlt)) : Option XFlt := (l.find? (·.1)).map (·.2)

/-- The fields of a descriptor, or the fault its first use raises (R3, R76). -/
def parseDesc (frames : Nat) (w : Nat) : Except XFlt Desc :=
  let f (lo n : Nat) := fieldOf w lo n
  let nd := f 4 2 + 1
  let dims := [f 64 32, f 96 32, f 128 32, f 160 32]
  let tl := [f 192 5, f 197 5, f 202 5, f 207 5]
  let es := match fmtBytes (f 0 4) with
    | 2 => 1 | 4 => 2 | 8 => 3 | _ => 0
  match xCheck [
    (f 22 1 = 0, ⟨0x0C, 0, 0, 0⟩),
    (f 0 4 ≥ 12, ⟨0x0E, 12, 0, 0⟩),
    (f 8 2 ≥ 2, ⟨0x0E, 11, 0, 0⟩),
    (f 24 40 ≠ 0, ⟨0x0E, 11, 0, 0⟩),
    ((dims.take nd).any (· = 0), ⟨0x0E, 12, 0, 0⟩),
    ((dims.drop nd).any (· ≠ 0), ⟨0x0E, 12, 0, 0⟩),
    (tl.any (16 < ·) || (tl.take nd).sum + es ≠ 16 || (tl.drop nd).any (· ≠ 0), ⟨0x0E, 12, 0, 0⟩),
    (f 212 44 ≠ 0, ⟨0x0E, 11, 0, 0⟩),
    (f 256 36 ≥ frames, ⟨0x0E, 6, 0, 0⟩),
    (f 294 26 ≠ 0, ⟨0x0E, 11, 0, 0⟩),
    (f 332 2 = 3, ⟨0x0E, 11, 0, 0⟩),
    (f 334 50 ≠ 0 || f 384 128 ≠ 0, ⟨0x0E, 11, 0, 0⟩)] with
  | some x => .error x
  | none => .ok { fmt := f 0 4, ndim := nd, dwe := f 23 1 = 1, dims := dims.take nd, tlog := tl.take nd, root := f 256 36,
                  levels := f 292 2 + 1, sclid := f 320 12, scll := f 332 2 }

/-- The descriptor's place in device memory (R76). -/
def State.descAddr (s : State) (asid : BitVec 10) (tid : BitVec 12) : Option Nat :=
  (s.tables.find? fun t => t.asid == asid).map fun t => t.addr + 64 * tid.toNat

/-- The descriptor in memory. -/
def State.descWord (s : State) (asid : BitVec 10) (tid : BitVec 12) : Option Nat :=
  (s.descAddr asid tid).map fun a => (s.devRead a 64).1

/-- The descriptor an access uses: the cached one, else the one in memory (R77). -/
def State.desc (s : State) (asid : BitVec 10) (tid : BitVec 12) : Except XFlt Desc :=
  match s.descs.find? fun d => d.asid == asid && d.tid == tid with
  | some d => parseDesc s.frames d.bits.toNat
  | none =>
    match s.descWord asid tid with
    | some w => parseDesc s.frames w
    | none => .error ⟨0x0C, 0, 0, 0⟩

/-- A flat byte tensor (R76). -/
def Desc.flat (d : Desc) : Bool := d.fmt = 0 && d.ndim = 1 && d.tlog = [16]

/-! ## Elements (R79) -/

/-- Tile and offset of in-range coordinates; none when a coordinate is out of range. -/
def tileOf (d : Desc) (x : List Nat) : Option (Nat × Nat) :=
  if ((d.dims.zip x).any fun p => p.1 ≤ p.2) then none
  else
    let rec go : List Nat → List Nat → List Nat → Nat × Nat
      | n :: ns, t :: ts, y :: ys =>
        let e := 2 ^ t
        let r := go ns ts ys
        (y / e + (n + e - 1) / e * r.1, y % e + e * r.2)
      | _, _, _ => (0, 0)
    let r := go d.dims d.tlog x
    some (r.1, fmtBytes d.fmt * r.2)

/-! ## Tile tables (R80, R81) -/

/-- The leaf of a tile, walking the levels from level i of L (R80). -/
def walk (s : State) (levels : Nat) (tile : Nat) : Nat → Nat → Except XFlt Nat
  | 0, _ => .error ⟨0x0D, 5, 0, tile⟩
  | k + 1, frame =>
    let lvl := levels - (k + 1)
    let w := (s.devRead (frame * 65536 + 8 * fieldOf tile (13 * k) 13) 8).1
    if k = 0 then .ok w
    else if fieldOf w 38 1 = 0 then .error ⟨0x0C, 1, lvl, tile⟩
    else if fieldOf w 36 2 ≠ 0 || fieldOf w 39 25 ≠ 0 then .error ⟨0x0E, 11, lvl, tile⟩
    else if s.frames ≤ fieldOf w 0 36 then .error ⟨0x0E, 6, lvl, tile⟩
    else walk s levels tile k (fieldOf w 0 36)

/-- The leaf an access uses: the cached one, else the one in memory (R77, R81). -/
def State.leaf (s : State) (asid : BitVec 10) (tid : BitVec 12) (d : Desc) (tile : Nat) : Except XFlt Nat :=
  match s.leaves.find? fun l => l.asid == asid && l.tid == tid && decide (l.tile = tile) with
  | some l => .ok l.leaf.toNat
  | none =>
    if 2 ^ (13 * d.levels) ≤ tile then .error ⟨0x0D, 5, 0, tile⟩ else walk s d.levels tile d.levels d.root

/-- A translated page. -/
structure Page where
  frame : Nat
  lcls  : Nat
  we    : Bool
  dup   : Bool
  mig   : Bool
  die   : Nat
  dev   : BitVec 12
  tile  : Nat
  deriving DecidableEq, Repr

/-- DEV, TRIG and INDET of class 0x28 (R374). -/
def peerSynd (dev : BitVec 12) (trig : Nat) (indet : Bool) : Nat := dev.toNat + trig * 2 ^ 12 + indet.toNat * 2 ^ 14
/-- The syndrome of an access to a peer that is down (R385). -/
def State.downSynd (s : State) (dev : BitVec 12) : Option Nat :=
  (s.peers.find? fun p => p.dev == dev && p.valid && p.down).map fun p => peerSynd dev p.trig false

/-- The page of a leaf, or the fault of using it (R81, R96); for a peer that is down, `cause` is the whole syndrome. -/
def parseLeaf (s : State) (write : Bool) (lvl tile w : Nat) : Except XFlt Page :=
  let dev := BitVec.ofNat 12 (fieldOf w 44 12)
  match xCheck [
    (fieldOf w 38 1 = 0, ⟨0x0C, 2, lvl, tile⟩),
    (2 ≤ fieldOf w 42 2 || fieldOf w 56 8 ≠ 0, ⟨0x0E, 11, lvl, tile⟩),
    (dev = s.selfdev && s.frames ≤ fieldOf w 0 36, ⟨0x0D, 6, lvl, tile⟩),
    (dev != s.selfdev && !(s.peers.any fun p => p.dev == dev && p.valid), ⟨0x0C, 3, lvl, tile⟩),
    (dev != s.selfdev && (s.downSynd dev).isSome, ⟨0x28, (s.downSynd dev).getD 0, lvl, tile⟩),
    (write && fieldOf w 39 1 = 0 && fieldOf w 40 1 = 0, ⟨0x0D, 4, lvl, tile⟩)] with
  | some x => .error x
  | none => .ok { frame := fieldOf w 0 36, lcls := fieldOf w 36 2, we := fieldOf w 39 1 = 1, dup := fieldOf w 40 1 = 1,
                  mig := fieldOf w 41 1 = 1, die := fieldOf w 42 2, dev := dev, tile := tile }

/-- Translate a tile of a tensor for a read or a write. -/
def State.page (s : State) (asid : BitVec 10) (tid : BitVec 12) (d : Desc) (write : Bool) (tile : Nat) :
    Except XFlt Page :=
  if write && !d.dwe then .error ⟨0x0D, 4, 0, tile⟩
  else match s.leaf asid tid d tile with
    | .error x => .error x
    | .ok w => parseLeaf s write (d.levels - 1) tile w

/-- Where an element lies: nowhere when out of range (R79), else its page and offset. -/
def State.element (s : State) (asid : BitVec 10) (tid : BitVec 12) (d : Desc) (write : Bool) (x : List Nat) :
    Except XFlt (Option (Page × Nat)) :=
  match tileOf d x with
  | none => .ok none
  | some (tile, off) => (s.page asid tid d write tile).map fun p => some (p, off)

/-- The device address of an offset in a page (R81). -/
def Page.addr (p : Page) (off : Nat) : Nat := p.frame * 65536 + off

/-- The page and offset of a byte of a flat byte tensor that a timed engine or a sync operation uses (R86, R233). -/
def State.flatByte (s : State) (asid : BitVec 10) (tid : BitVec 12) (write : Bool) (off w : Nat) : Except XFlt (Page × Nat) :=
  match s.desc asid tid with
  | .error x => .error x
  | .ok d =>
    if !d.flat then .error ⟨0x0D, 12, 0, 0⟩
    else if off % w ≠ 0 || d.dims.headD 0 ≤ off then .error ⟨0x0D, 10, 0, off / 65536⟩
    else match s.page asid tid d write (off / 65536) with
      | .error x => .error (if x.cls = 0x28 then ⟨0x0D, 9, 0, x.tile⟩ else x)
      | .ok p => if p.dev != s.selfdev then .error ⟨0x0D, 9, 0, p.tile⟩ else .ok (p, off % 65536)

/-- The fault of a translation as an engine reports it, AKIND 1 (R347, R374). -/
def xFlt (e : Eng) (tid : BitVec 12) (write se : Bool) (rel : Nat) (x : XFlt) : Flt :=
  if x.cls = 0x28 then ⟨0x28, 12, x.cause, tid.toNat + x.tile * 4096, true, 0⟩
  else ⟨x.cls, engUnit e, x.cause + x.level % 4 * 16 + write.toNat * 64 + se.toNat * 128 + (if se then rel % 2 ^ 32 * 2 ^ 32 else 0),
    tid.toNat + x.tile * 4096, true, 0⟩

/-! ## Caches (R77) -/

/-- Load a descriptor and a leaf of it into the caches as memory holds them (TRANSLATION_WALK, TDLD). -/
def State.cacheDesc (s : State) (asid : BitVec 10) (tid : BitVec 12) : State :=
  let rest := s.descs.filter fun d => !(d.asid == asid && d.tid == tid)
  match s.descWord asid tid with
  | some w => { s with descs := rest ++ [⟨asid, tid, BitVec.ofNat 512 w⟩] }
  | none => { s with descs := rest }
def State.dropLeaves (s : State) (asid : BitVec 10) (tid : BitVec 12) : State :=
  { s with leaves := s.leaves.filter fun l => !(l.asid == asid && l.tid == tid) }
def State.dropDesc (s : State) (asid : BitVec 10) (tid : BitVec 12) : State :=
  { s with descs := s.descs.filter fun d => !(d.asid == asid && d.tid == tid) }
def State.cacheLeaf (s : State) (asid : BitVec 10) (tid : BitVec 12) (tile : Nat) : State :=
  let rest := s.leaves.filter fun l => !(l.asid == asid && l.tid == tid && decide (l.tile = tile))
  let s := { s with leaves := rest }
  match s.desc asid tid with
  | .error _ => s
  | .ok d =>
    match s.leaf asid tid d tile with
    | .error _ => s
    | .ok w => { s with leaves := rest ++ [⟨asid, tid, tile, BitVec.ofNat 64 w⟩] }
/-- Are the descriptor and the leaf cached? -/
def State.cached (s : State) (asid : BitVec 10) (tid : BitVec 12) (tile : Nat) : Bool :=
  s.descs.any (fun d => d.asid == asid && d.tid == tid) &&
  s.leaves.any (fun l => l.asid == asid && l.tid == tid && decide (l.tile = tile))

/-! ## Latency classes (R86) -/

/-- Is the page's region in transit? -/
def State.inTransit (s : State) (p : Page) : Bool :=
  s.layout.moving && p.dev = s.selfdev && decide (p.frame * 65536 / 2 ^ 30 = s.layout.wmark / 2 ^ 30)
def State.effClass (s : State) (p : Page) : Nat :=
  if s.inTransit p || s.layout.mode = 1 || p.dup || p.mig then 0
  else if p.dev ≠ s.selfdev && (p.lcls = 1 || p.lcls = 2) then 3 else p.lcls
/-- P in nanoseconds of a class (R86). -/
def promiseNs (c : Nat) : Nat :=
  match c with
  | 1 => 1000 | 2 => 2000 | 3 => 4000 | _ => 0
/-- WHY of a class 0 (R374). -/
def State.whyZero (s : State) (p : Page) : Nat :=
  if s.inTransit p then 1 else if s.layout.mode = 1 then 2 else if p.dup then 3 else if p.mig then 4 else 0

/-! ## Placement (R83, R84, R89) -/

/-- The surviving stacks in ascending order. -/
def Layout.stacks (l : Layout) : List Nat := (List.range 12).filter (· ≠ l.lost.val)
/-- Data stack, parity stack and stripe of a chunk in the layout with the given mode. -/
def placeChunk (l : Layout) (eleven : Bool) (c : Nat) : Nat × Nat × Nat :=
  if eleven then
    let m := l.stacks
    let st := c / 10
    (m.getD ((st % 11 + 1 + c % 10) % 11) 0, m.getD (st % 11) 0, st)
  else
    let st := c / 11
    ((st % 12 + 1 + c % 11) % 12, st % 12, st)
/-- Is a chunk placed by the 11-stack layout: always in it, and below the watermark of the change to it (R88, R89)? -/
def Layout.eleven (l : Layout) (c : Nat) : Bool := l.mode = 2 || (l.moving && l.change = 2 && decide (c * 2048 < l.wmark))
/-- The layout in force for a chunk: the new one below the watermark (R88). -/
def Layout.place (l : Layout) (c : Nat) : Nat × Nat × Nat := placeChunk l (l.eleven c) c
/-- A parity chunk's number: the stripes of the 11-stack layout are counted apart from those of the old layout. -/
def Layout.parityOf (l : Layout) (c : Nat) : Nat := (l.place c).2.2 + (if l.eleven c then 2 ^ 40 else 0)
/-- Channel, pseudo-channel, bank and line of a chunk at an in-stack index (R84); a dropped bank's chunk lies in the reserve,
once its frame has been copied (R88, R376). -/
def Layout.bankOf (l : Layout) (stack s c : Nat) : Nat × Nat × Nat × Nat :=
  let k := s / 4096
  let h := (s % 4096) ^^^ (k % 4096)
  let ch := h % 32
  let pc := h / 32 % 2
  let b := h / 64
  let gone := l.dropped.contains ((stack * 32 + ch) * 2 + pc, b) ||
    (l.moving && l.change = 1 && decide (c * 2048 < l.wmark) && l.dropping.any fun d =>
      d.stack.val = stack && d.chan.val = ch && d.pc.val = pc && d.bank.val = b)
  if gone then
    let lst := (List.range 64).filter (· ≠ b)
    (ch, pc, lst.getD (k % 63) 0, 8064 + k / 63)
  else (ch, pc, b, k)

/-- The frame that a layout change holds locked (R88). -/
def State.lockedFrame (s : State) (frame : Nat) : Bool := s.layout.moving && decide (frame * 65536 = s.layout.wmark)

/-! ## Sync lines (R94) -/

/-- A variable of w bytes in a held line, and its poison. -/
def State.lineRead (s : State) (a w : Nat) : Nat × Bool :=
  match s.lineAt (a / 64) with
  | some l => (fieldOf l.bits.toNat (8 * (a % 64)) (8 * w), fieldOf l.tags.toNat (a % 64 / 4) (w / 4) ≠ 0)
  | none => (0, false)
/-- Write a variable of w bytes in its held line. -/
def State.lineWrite (s : State) (a w v : Nat) (tag : Bool) : State :=
  { s with lines := s.lines.map fun l =>
      if l.line = a / 64 then
        { l with bits := BitVec.ofNat 512 (putField l.bits.toNat (8 * (a % 64)) (8 * w) v)
                 tags := BitVec.ofNat 16 (putField l.tags.toNat (a % 64 / 4) (w / 4) (if tag then 3 else 0))
                 dirty := true }
      else l }
/-- A delta of a block joins the queue of its parity chunk; none where the write is protected in one step (R90, R91, R141). -/
def State.queueDelta (s : State) (d : Delta) : State :=
  let (data, parity, _) := s.layout.place (d.blk / 8)
  let lost := s.layout.mode = 1 && (data = s.layout.lost.val || parity = s.layout.lost.val)
  if lost then s else { s with deltas := s.deltas ++ [{ d with parity := s.layout.parityOf (d.blk / 8) }] }
/-- The delta of a write that no context of this device issued: a line's write-back, an engine's copy, a leaf that firmware
rewrites (R91). -/
def State.engineDelta (s : State) (blk : Nat) : State :=
  { s with uid := s.uid + 1 }.queueDelta { uid := s.uid, cmd := 0, cell := 0, asid := 0, blk := blk, parity := 0, own := false }
/-- Write a line back to its frame and drop it (R94). -/
def State.dropLine (s : State) (n : Nat) : State :=
  match s.lineAt n with
  | none => s
  | some l =>
    let rest := { s with lines := s.lines.filter fun x => decide (x.line ≠ n) }
    if l.dirty then
      let t := { rest with mem := memPut rest.mem (64 * n) l.bits.toNat 64 }
      (if l.tags = 0 then t else { t with memTag := markPut t.memTag (n / 4) true }).engineDelta (n / 4)
    else rest
/-- The lines that the sync SRAM of a die holds: 4 MiB (R8). -/
def sramLines : Nat := 65536
/-- The sync engine takes the line of an address into its SRAM; a full SRAM writes its oldest line back first (R8, R94, log
entry 107). -/
def State.takeLine (s : State) (die : Fin 2) (a : Nat) : State :=
  let n := a / 64
  if s.lines.any fun l => decide (l.line = n) then s
  else
    let mine := s.lines.filter fun l => decide (l.die = die)
    let s := match mine with
      | l :: _ => if sramLines ≤ mine.length then s.dropLine l.line else s
      | [] => s
    let v := s.devRead (64 * n) 64
    { s with lines := s.lines ++ [⟨die, n, BitVec.ofNat 512 v.1, if v.2 then BitVec.allOnes 16 else 0, false⟩] }

end Sys2Proof.Machine
end

