-- ==== Sys2Proof/Machine/Graph.lean ====
section
/-! DEFINITION. Kernel binaries (R206–R210, R160), graph objects, submission and readiness (R145–R148). -/

namespace Sys2Proof.Machine

/-! ## Flat byte tensors as firmware and the scheduler read them -/

/-- Bytes off to off + n − 1 of a flat byte tensor, page by page of 64 KiB. -/
def State.flatPages (s : State) (asid : BitVec 10) (tid : BitVec 12) : Nat → Nat → Nat → Except XFlt Nat
  | 0, _, _ => .ok 0
  | pages + 1, off, n =>
    if n = 0 then .ok 0
    else match s.flatByte asid tid false off 1 with
      | .error e => .error e
      | .ok (p, o) =>
        let a := min n (65536 - o)
        match s.flatPages asid tid pages (off + a) (n - a) with
        | .error e => .error e
        | .ok v => .ok ((s.devRead (p.addr o) a).1 + 2 ^ (8 * a) * v)
/-- Bytes off to off + n − 1 of a flat byte tensor; its limit is met before any page of it. -/
def State.flatBytes (s : State) (asid : BitVec 10) (tid : BitVec 12) (off n : Nat) : Except XFlt Nat :=
  match s.flatByte asid tid false (off + n - 1) 1 with
  | .error e => .error e
  | .ok _ => s.flatPages asid tid (n / 65536 + 2) off n
def State.flatNat (s : State) (asid : BitVec 10) (tid : BitVec 12) (off n : Nat) : Option Nat :=
  match s.flatBytes asid tid off n with
  | .ok v => some v
  | .error _ => none

/-! ## Text (R47) -/

/-- The bytes of a record (R196, R327). -/
def recSize (gen : Nat) : Nat := if gen = 2 then 32 else 64
/-- The device address of a record of a gang's text. -/
def State.textAddr (s : State) (x : Gang) (off : Nat) : Option Nat :=
  match s.flatByte x.asid x.ktid false (x.koff + x.toff + recSize x.encgen * off) 1 with
  | .ok (p, o) => some (p.addr o)
  | .error _ => none
/-- A record that comes poisoned: a reserved bit of its W0 is set, so that it is an illegal record at its issue (R370, log entry 130). -/
def poisonedText (bad : Bool) (w : Nat) : Nat := if bad then w ||| 2 ^ 63 else w
/-- A record of the running text as device memory holds it. -/
def State.textWord (s : State) (g : GangId) (off : Nat) : Option RecordBits :=
  let x := s.gang g
  if x.tlen ≤ off then none
  else (s.flatNat x.asid x.ktid (x.koff + x.toff + recSize x.encgen * off) (recSize x.encgen)).map fun w =>
    BitVec.ofNat 512 (poisonedText ((s.textAddr x off).any fun a => (s.blockRead (a / 256)).2) w)

/-- A record of a cell's text: from its cache, else as device memory holds it. -/
def State.recordAt (s : State) (c : CellId) (off : Nat) : Option RecordBits :=
  match (s.cell c).textAt off with
  | some w => some w
  | none => s.textWord (s.gidOf c) off

/-- The SEGE that closes the segment at an offset: its own offset and its bits (R33). -/
def State.segeFrom (s : State) (c : CellId) : Nat → Nat → Option (Nat × RecordBits)
  | 0, _ => none
  | fuel + 1, off =>
    match s.recordAt c off with
    | none => none
    | some v =>
      let w := (s.cell c).behind v
      if isSegeBits w then some (off, w) else s.segeFrom c fuel (off + 1)
/-- What a segment's SEGE tells of it: offset, stamp and identifier (R33). A segment has at most 2²⁴ ticks. -/
def State.segmentAt (s : State) (c : CellId) (gen off : Nat) : Option (Nat × Nat) × Option (BitVec 16) :=
  match s.segeFrom c (2 ^ 24) off with
  | some (o, w) => (some (o, stampOf gen w.toNat), some (BitVec.ofNat 16 (widened gen w.toNat / 2 ^ 192)))
  | none => (none, none)

/-! ## Kernel binaries (R207–R210) -/

/-- Why a kernel or a graph is refused (R146), with its code. -/
inductive Refused where
  | badNode
  | noQueue
  | cycle
  | noVariant
  | badGen
  | chanBusy
  deriving DecidableEq, Repr

def Refused.code : Refused → Nat
  | .badNode => 1 | .noQueue => 2 | .cycle => 3 | .noVariant => 4 | .badGen => 5 | .chanBusy => 7

/-- A kernel header's fields (R208). -/
structure Kernel where
  encgen : Nat
  glog   : Nat
  vcnt   : Nat
  entry  : Nat
  fmin   : Nat
  fmax   : Nat
  sprows : Nat
  cslots : Nat
  vtoff  : Nat
  itoff  : Nat
  itcnt  : Nat
  deriving DecidableEq, Repr

/-- A variant table entry (R209). -/
structure Variant where
  mask   : Nat
  match_ : Nat
  toff   : Nat
  tlen   : Nat
  deriving DecidableEq, Repr

/-- The header at the start of a binary. -/
def parseKernel (w : Nat) : Except Refused Kernel :=
  let b (lo n : Nat) := fieldOf w (8 * lo) (8 * n)
  if b 0 8 ≠ 0x344E52454B4C4F43 then .error .badNode
  else if b 8 1 < 2 || 4 < b 8 1 then .error .badGen
  else if 7 < b 9 1 || b 10 1 ≠ spanOf (b 9 1) || b 11 1 ≠ ddecOf (b 9 1) || b 12 1 = 0 || 16 < b 12 1
      || (bandBad (b 24 2) (b 26 2)).isSome || 24576 < b 28 2 || 16 < b 30 1 || b 32 8 % 64 ≠ 0 || b 40 8 % 64 ≠ 0
      || 4096 < b 48 2 || b 13 3 ≠ 0 || b 31 1 ≠ 0 || b 50 206 ≠ 0 then .error .badNode
  else .ok { encgen := b 8 1, glog := b 9 1, vcnt := b 12 1, entry := b 16 4, fmin := b 24 2, fmax := b 26 2,
             sprows := b 28 2, cslots := b 30 1,
             vtoff := b 32 8, itoff := b 40 8, itcnt := b 48 2 }

/-- A variant table entry; none where a field's fate is BADNODE (R209). -/
def parseVariant (w : Nat) : Option Variant :=
  let v : Variant := ⟨fieldOf w 0 64, fieldOf w 64 64, fieldOf w 128 64, fieldOf w 192 32⟩
  if v.toff % 64 ≠ 0 || v.tlen = 0 || 2 ^ 24 < v.tlen || fieldOf w 224 32 ≠ 0 then none else some v

/-- A binary: where it lies, its header and its variants. -/
structure Binary where
  asid : BitVec 10
  ktid : BitVec 12
  koff : Nat
  k    : Kernel
  vs   : List Variant
  deriving DecidableEq, Repr

/-- The bytes of a binary at an offset from header byte 0. -/
def State.kbytes (s : State) (b : Binary) (off n : Nat) : Option Nat := s.flatNat b.asid b.ktid (b.koff + off) n
/-- End of the last text. -/
def Binary.end_ (b : Binary) : Nat := b.vs.foldl (fun m v => max m (v.toff + recSize b.k.encgen * v.tlen)) 0
/-- Start of the first text. -/
def Binary.texts (b : Binary) : Nat := b.vs.foldl (fun m v => min m v.toff) b.end_

/-- An initialisation entry (R210). -/
structure InitEntry where
  ty   : Nat
  id   : Nat
  loc  : Nat
  val  : Nat
  dims : Nat
  deriving DecidableEq, Repr

/-- The static checks of an initialisation entry (R210). -/
def parseInit (b : Binary) (w : Nat) : Option InitEntry :=
  let f (lo n : Nat) := fieldOf w (8 * lo) (8 * n)
  let e : InitEntry := ⟨f 0 1, f 2 2, f 4 4, f 8 8, f 16 16⟩
  let rest := f 1 1 ≠ 0 || f 32 32 ≠ 0
  let bad := match e.ty with
    | 1 => 4095 < e.id || e.loc ≠ 0 || 64 ≤ e.val
    | 2 => 63 < e.id || 4 * 24576 ≤ e.loc || e.dims ≠ 0
    | 3 => 24576 * 256 ≤ e.loc || e.loc % 16 ≠ 0 || e.id ≠ 0 || e.dims ≠ 0 || fieldOf e.val 40 16 ≠ 0 || fieldOf e.val 57 7 ≠ 0
        || (fieldOf e.val 56 1 = 1 && fieldOf e.val 0 40 = 0)
    | 4 => 24576 < e.loc + e.val || 65536 ≤ e.val || 24576 ≤ e.loc || e.id ≠ 0 || 2 ^ 64 ≤ e.dims || e.dims < b.k.itoff + 64 * b.k.itcnt
        || b.texts < e.dims + 256 * e.val
    | _ => true
  if rest || bad then none else some e

/-- The initialisation table. -/
def State.initTable (s : State) (b : Binary) : Option (List InitEntry) :=
  (List.range b.k.itcnt).mapM fun i => (s.kbytes b (b.k.itoff + 64 * i) 64).bind (parseInit b)

/-- Read and check a binary (R207–R210): its parts lie inside the string, and its texts have one length. -/
def State.binary (s : State) (asid : BitVec 10) (ktid : BitVec 12) (koff : Nat) : Except Refused Binary :=
  match s.flatNat asid ktid koff 256 with
  | none => .error .badNode
  | some w =>
    match parseKernel w with
    | .error e => .error e
    | .ok k =>
      match (List.range k.vcnt).mapM fun i => (s.flatNat asid ktid (koff + k.vtoff + 32 * i) 32).bind parseVariant with
      | none => .error .badNode
      | some vs =>
        let b : Binary := ⟨asid, ktid, koff, k, vs⟩
        if (vs.any fun v => v.tlen ≠ (vs.head?.map (·.tlen)).getD 0 || v.tlen ≤ k.entry) || b.end_ < k.vtoff + 32 * k.vcnt
            || b.end_ < k.itoff + 64 * k.itcnt || (s.initTable b).isNone then .error .badNode
        else .ok b

/-- The variant firmware chooses on this device (R160). -/
def State.variant (s : State) (b : Binary) : Option (Nat × Variant) :=
  (b.vs.zipIdx.find? fun v =>
    let x := v.1
    (BitVec.ofNat 64 x.match_ &&& ~~~(BitVec.ofNat 64 x.mask)) = 0 && (s.signature &&& BitVec.ofNat 64 x.mask) = BitVec.ofNat 64 x.match_).map
    fun v => (v.2, v.1)

/-- Do the variants hold records of the same W0 and W1 at every text offset (R160)? -/
def State.variantsAgree (s : State) (b : Binary) : Bool :=
  match b.vs with
  | [] => true
  | v :: rest => rest.all fun x => (List.range v.tlen).all fun i =>
      s.kbytes b (v.toff + recSize b.k.encgen * i) 16 == s.kbytes b (x.toff + recSize b.k.encgen * i) 16

/-! ## Graph objects (R145, R146) -/

/-- The successors an entry list names. -/
def succList (w : Nat) : List Nat := ((List.range 32).map fun e => fieldOf w (16 * e) 16).filter (· ≠ 0xFFFF)

/-- A node from its 256 bytes, before its in-degree is known. -/
def nodeOf (w : Nat) : Node :=
  let f (word lo n : Nat) := fieldOf w (64 * word + lo) n
  { koff := f 0 0 40, ktid := BitVec.ofNat 12 (f 0 40 12), queue := Fin.ofNat 64 (f 0 52 6), n0 := f 1 0 16, n1 := f 1 16 16,
    n2 := f 1 32 16, glog := f 1 48 3, avg := f 2 0 16, peak := f 2 16 16, awoff := f 3 0 40, awtid := BitVec.ofNat 12 (f 3 40 12),
    awen := f 3 52 1 = 1, awadd := f 4 0 32, evcode := f 4 32 16, even := f 4 48 1 = 1,
    succ := succList (w / 2 ^ 512), arg := Vector.ofFn fun i => BitVec.ofNat 64 (f (16 + i.val) 0 64),
    indeg := 0, doneCount := 0, completing := false, mark := 0, sent := none, done := false }

/-- The instances of a node (R147). -/
def Node.total (n : Node) : Nat := n.n0 * n.n1 * n.n2

/-- The field fates of a node's own bits (R145). -/
def nodeFields (nodes w : Nat) : Bool :=
  let f (word lo n : Nat) := fieldOf w (64 * word + lo) n
  let n := nodeOf w
  n.koff % 256 ≠ 0 || f 0 58 6 ≠ 0 || f 1 51 13 ≠ 0 || n.peak < n.avg || f 2 32 32 ≠ 0 || (n.awen && n.awoff % 16 ≠ 0) || f 3 53 11 ≠ 0
    || f 4 49 15 ≠ 0 || f 5 0 192 ≠ 0 || n.succ.any (nodes ≤ ·)

/-- The nodes one pass of the successor entries away. -/
def reachStep (ns : List Node) (l : List Nat) : List Nat :=
  (l ++ l.flatMap fun i => match ns[i]? with
    | some n => n.succ
    | none => []).dedup
/-- Does a node lie on a cycle: is it reached from its own successors? -/
def onCycle (ns : List Node) (i : Nat) : Bool :=
  match ns[i]? with
  | none => false
  | some n => ((List.range ns.length).foldl (fun l _ => reachStep ns l) n.succ).contains i

/-- The queue refusal of a node for an ASID. -/
def State.queueRefuses (s : State) (q : Fin 64) (asid : BitVec 10) : Bool :=
  !s.queues[q].en || s.queues[q].tickets = 0 || !s.queues[q].asids.getLsbD asid.toNat

/-- Why a node makes its submission refused (R146). -/
def State.nodeRefusal (s : State) (asid : BitVec 10) (ns : List Node) (ws : List Nat) (i : Nat) : Option Refused :=
  match ns[i]?, ws[i]? with
  | some n, some w =>
    if nodeFields ns.length w then some .badNode
    else match s.binary asid n.ktid n.koff with
      | .error e =>
        if e = .badNode then some .badNode
        else if s.queueRefuses n.queue asid then some .noQueue
        else if onCycle ns i then some .cycle else some e
      | .ok b =>
        if b.k.glog ≠ n.glog then some .badNode
        else if s.queueRefuses n.queue asid then some .noQueue
        else if onCycle ns i then some .cycle
        else if (s.variant b).isNone then some .noVariant
        else none
  | _, _ => none

/-- The in-degree of a node: the successor entries that name it. -/
def indegree (ns : List Node) (i : Nat) : Nat := (ns.map fun n => n.succ.count i).sum

/-- A node becomes ready: it joins the tail of its queue's ready list, or with no instance completes at once (R147,
R148). -/
def State.makeReady (s : State) (h i : Nat) : State :=
  match s.graphs.find? fun g => decide (g.handle = h) with
  | none => s
  | some g =>
    match g.nodes[i]? with
    | none => s
    | some n =>
      if n.total = 0 then
        { s with graphs := s.graphs.map fun x =>
            if x.handle = h then { x with nodes := x.nodes.set i { n with completing := true, mark := s.uid } } else x }
      else
        let q := s.queues[n.queue]
        { s with queues := s.queues.set n.queue { q with ready := q.ready ++ [.inst h i 0 n.total] } }

/-- What a submission came to. -/
inductive Submitted where
  | ok (handle : Nat)
  | refused (why : Refused) (node : Nat)
  | fault (x : XFlt)
  deriving DecidableEq, Repr

/-- The header and the nodes of a graph object as 256-byte values. -/
def State.graphWords (s : State) (asid : BitVec 10) (tid : BitVec 12) (off : Nat) : Except XFlt (Nat × List Nat) :=
  match s.flatBytes asid tid off 256 with
  | .error e => .error e
  | .ok hd =>
    match (List.range (hd % 65536)).mapM fun i => s.flatBytes asid tid (off + 256 + 256 * i) 256 with
    | .error e => .error e
    | .ok l => .ok (hd, l)

/-- Copy a graph and make its first nodes ready, or refuse all of it (R146). -/
def State.submit (s : State) (asid : BitVec 10) (tid : BitVec 12) (off : Nat) : State × Submitted :=
  match s.graphWords asid tid off with
  | .error e => (s, .fault e)
  | .ok (hd, ws) =>
    if hd % 65536 = 0 || hd / 65536 ≠ 0 then (s, .refused .badNode 0)
    else
      let ns := ws.map nodeOf
      match (List.range ns.length).findSome? fun i => (s.nodeRefusal asid ns ws i).map fun e => (e, i) with
      | some (e, i) => (s, .refused e i)
      | none =>
        let h := s.uid
        let nodes := ns.mapIdx fun i n => { n with indeg := indegree ns i }
        let t := { s with graphs := s.graphs ++ [⟨h, asid, nodes⟩], uid := s.uid + 1 }
        (((List.range nodes.length).filter fun i => indegree ns i = 0).foldl (fun u i => u.makeReady h i) t, .ok h)

/-- GRAPH_SUBMIT (R146): the host submits a graph object; it is answered with a handle or a refusal. -/
def execGraphSubmit (asid : BitVec 10) (tid : BitVec 12) (off : Nat) (s : State) : Res :=
  .next <| match s.submit asid tid off with
    | (t, .ok h) => t.emit (.accepted h)
    | (t, .refused e i) => t.emit (.refusedGraph e.code i)
    | (t, .fault _) => t.emit (.refusedGraph Refused.badNode.code 0)

end Sys2Proof.Machine
end

