-- ==== Sys2Proof/Machine/Slots.lean ====
section
/-! DEFINITION. Integer, move, compare and predicate slots of the control core (R215, R220–R224): one result
computation each, the meaning of the slot on its own, and the effect that a bundle shares. -/

namespace Sys2Proof.Machine

/-! ## Operands (R215) -/

/-- The operand width of SZ. -/
def szBits (sz : BitVec 2) : Nat :=
  match sz.toNat with
  | 0 => 64 | 1 => 32 | 2 => 16 | _ => 8

/-- A w-bit value as a signed number. -/
def signedOf (w a : Nat) : Int := if a < 2 ^ (w - 1) then a else (a : Int) - 2 ^ w
/-- A number modulo 2^w. -/
def wrapInt (w : Nat) (x : Int) : Nat := (x % 2 ^ w).toNat
/-- A w-bit result in the 64-bit destination. -/
def extendTo64 (sgn : Bool) (w v : Nat) : Word :=
  if sgn then BitVec.ofInt 64 (signedOf w (v % 2 ^ w)) else BitVec.ofNat 64 (v % 2 ^ w)

/-- Source B (R215). -/
def srcB (sl : Slot) (r : Cc) : Word := if sl.imm then sl.imm32.signExtend 64 else r.greg sl.sb
def srcBTag (sl : Slot) (r : Cc) : Bool := !sl.imm && r.gtag sl.sb

/-- PSN is CFLAGS bit 1, IDZ bit 0 (R51). -/
def psn (tag : Bool) : BitVec 2 := if tag then 2 else 0

/-- A result to a G register n cycles after issue: a poisoned one holds zero (R215). -/
def gResult (c : Ctx) (n : Nat) (dst : Fin 32) (v : Word) (tag : Bool) (idz : Bool) (s : State) : State :=
  s.landAfter c n (.g dst (if tag then 0 else v) tag) 0 0 (psn tag ||| (if idz && !tag then 1 else 0))

/-- A result to a P register; a compare that reads poison writes false (R215). -/
def pResult (c : Ctx) (dst : Fin 32) (v : Bool) (tag : Bool) (s : State) : State :=
  s.landAfter c 1 (.p (Fin.ofNat 16 dst.val) (v && !tag)) 0 0 (psn tag)

/-- How an integer slot computes: latency, sign of the extension, whether it reads B and G[DST], its w-bit result, and
whether it sets IDZ. -/
structure Alu where
  lat   : Nat
  sgn   : Bool
  useB  : Bool
  useD  : Bool
  f     : Nat → Nat → Nat → Nat → Nat
  idz   : Bool

/-- The effect of an integer slot (R215, R220, R221). -/
def aluAct (k : Alu) (c : Ctx) (sl : Slot) (s : State) : Except Flt State :=
  let r := s.cur.cc
  let w := szBits sl.sz
  let a := (r.greg sl.sa).toNat % 2 ^ w
  let b := (srcB sl r).toNat % 2 ^ w
  let d := (r.greg sl.dst).toNat % 2 ^ w
  let tag := r.gtag sl.sa || (k.useB && srcBTag sl r) || (k.useD && r.gtag sl.dst)
  .ok (gResult c k.lat sl.dst (extendTo64 k.sgn w (k.f w a b d)) tag (k.idz && b = 0) s)

/-- The effect of a compare (R224). -/
def cmpAct (f : Nat → Nat → Nat → Bool) (c : Ctx) (sl : Slot) (s : State) : Except Flt State :=
  let r := s.cur.cc
  let w := szBits sl.sz
  .ok (pResult c sl.dst (f w ((r.greg sl.sa).toNat % 2 ^ w) ((srcB sl r).toNat % 2 ^ w)) (r.gtag sl.sa || srcBTag sl r) s)

/-- The effect of a predicate operation (R224). -/
def predAct (f : Bool → Bool → Bool) (c : Ctx) (sl : Slot) (s : State) : Except Flt State :=
  .ok (pResult c sl.dst (f (s.cur.cc.pred sl.sa.val) (s.cur.cc.pred sl.sb.val)) false s)

/-! ## Results (R220–R222, R224) -/

def opAdd (w a b _ : Nat) : Nat := (a + b) % 2 ^ w
def opSub (w a b _ : Nat) : Nat := (a + 2 ^ w - b) % 2 ^ w
def opMul (w a b _ : Nat) : Nat := a * b % 2 ^ w
def opMulhs (w a b _ : Nat) : Nat := wrapInt w (signedOf w a * signedOf w b / 2 ^ w)
def opMulhn (w a b _ : Nat) : Nat := a * b / 2 ^ w
def opMadd (w a b d : Nat) : Nat := (d + a * b) % 2 ^ w
def opDivs (w a b _ : Nat) : Nat := if b = 0 then 2 ^ w - 1 else wrapInt w ((signedOf w a).tdiv (signedOf w b))
def opDivn (w a b _ : Nat) : Nat := if b = 0 then 2 ^ w - 1 else a / b
def opRems (w a b _ : Nat) : Nat := if b = 0 then a else wrapInt w ((signedOf w a).tmod (signedOf w b))
def opRemn (_ a b _ : Nat) : Nat := if b = 0 then a else a % b
def opAnd (_ a b _ : Nat) : Nat := a &&& b
def opOr (_ a b _ : Nat) : Nat := a ||| b
def opXor (_ a b _ : Nat) : Nat := a ^^^ b
def opAndn (_ a b _ : Nat) : Nat := a - (a &&& b)
def opShl (w a b _ : Nat) : Nat := a * 2 ^ (b % w) % 2 ^ w
def opShrl (w a b _ : Nat) : Nat := a / 2 ^ (b % w)
def opShra (w a b _ : Nat) : Nat := wrapInt w (signedOf w a / 2 ^ (b % w))
def opRotl (w a b _ : Nat) : Nat := (a * 2 ^ (b % w) % 2 ^ w) + a / 2 ^ (w - b % w)
def opClz (w a _ _ : Nat) : Nat := if a = 0 then w else w - 1 - a.log2
/-- Trailing zeros of a number below 2^fuel. -/
def trailing : Nat → Nat → Nat
  | 0, _ => 0
  | n + 1, a => if a % 2 = 1 then 0 else 1 + trailing n (a / 2)
def opCtz (w a _ _ : Nat) : Nat := trailing w a
/-- Set bits of a number below 2^fuel. -/
def popcount : Nat → Nat → Nat
  | 0, _ => 0
  | n + 1, a => a % 2 + popcount n (a / 2)
def opPopc (w a _ _ : Nat) : Nat := popcount w a
def opMins (w a b _ : Nat) : Nat := if signedOf w b < signedOf w a then b else a
def opMaxs (w a b _ : Nat) : Nat := if signedOf w a < signedOf w b then b else a
def opMinn (_ a b _ : Nat) : Nat := min a b
def opMaxn (_ a b _ : Nat) : Nat := max a b
def opAbss (w a _ _ : Nat) : Nat := wrapInt w (signedOf w a).natAbs

def relEq (_ a b : Nat) : Bool := a = b
def relNe (_ a b : Nat) : Bool := a != b
def relLts (w a b : Nat) : Bool := signedOf w a < signedOf w b
def relLes (w a b : Nat) : Bool := signedOf w a ≤ signedOf w b
def relLtn (_ a b : Nat) : Bool := a < b
def relLen (_ a b : Nat) : Bool := a ≤ b
def relBit (w a b : Nat) : Bool := a.testBit (b % w)

/-! ## Slots -/

/-- NOP (R202): nothing. -/
def actNop (_ : Ctx) (_ : Slot) (s : State) : Except Flt State := .ok s
def semNop : SlotSem := { op8 := 0, act := actNop }
def execNop (sl : Slot) (s : State) : Res := slotAlone semNop sl s

/-- ADD (R220). -/
def actAdd : Ctx → Slot → State → Except Flt State := aluAct ⟨1, false, true, false, opAdd, false⟩
def semAdd : SlotSem := { op8 := 0x01, act := actAdd }
def execAdd (sl : Slot) (s : State) : Res := slotAlone semAdd sl s

/-- SUB (R220). -/
def actSub : Ctx → Slot → State → Except Flt State := aluAct ⟨1, false, true, false, opSub, false⟩
def semSub : SlotSem := { op8 := 0x02, act := actSub }
def execSub (sl : Slot) (s : State) : Res := slotAlone semSub sl s

/-- MUL (R220). -/
def actMul : Ctx → Slot → State → Except Flt State := aluAct ⟨3, false, true, false, opMul, false⟩
def semMul : SlotSem := { op8 := 0x03, act := actMul }
def execMul (sl : Slot) (s : State) : Res := slotAlone semMul sl s

/-- MULHS (R220). -/
def actMulhs : Ctx → Slot → State → Except Flt State := aluAct ⟨3, true, true, false, opMulhs, false⟩
def semMulhs : SlotSem := { op8 := 0x04, act := actMulhs }
def execMulhs (sl : Slot) (s : State) : Res := slotAlone semMulhs sl s

/-- MULHN (R220). -/
def actMulhn : Ctx → Slot → State → Except Flt State := aluAct ⟨3, false, true, false, opMulhn, false⟩
def semMulhn : SlotSem := { op8 := 0x05, act := actMulhn }
def execMulhn (sl : Slot) (s : State) : Res := slotAlone semMulhn sl s

/-- MADD (R220). -/
def actMadd : Ctx → Slot → State → Except Flt State := aluAct ⟨3, false, true, true, opMadd, false⟩
def semMadd : SlotSem := { op8 := 0x06, act := actMadd }
def execMadd (sl : Slot) (s : State) : Res := slotAlone semMadd sl s

/-- DIVS (R220, R221). -/
def actDivs : Ctx → Slot → State → Except Flt State := aluAct ⟨18, true, true, false, opDivs, true⟩
def semDivs : SlotSem := { op8 := 0x07, act := actDivs }
def execDivs (sl : Slot) (s : State) : Res := slotAlone semDivs sl s

/-- DIVN (R220, R221). -/
def actDivn : Ctx → Slot → State → Except Flt State := aluAct ⟨18, false, true, false, opDivn, true⟩
def semDivn : SlotSem := { op8 := 0x08, act := actDivn }
def execDivn (sl : Slot) (s : State) : Res := slotAlone semDivn sl s

/-- REMS (R220, R221). -/
def actRems : Ctx → Slot → State → Except Flt State := aluAct ⟨18, true, true, false, opRems, true⟩
def semRems : SlotSem := { op8 := 0x09, act := actRems }
def execRems (sl : Slot) (s : State) : Res := slotAlone semRems sl s

/-- REMN (R220, R221). -/
def actRemn : Ctx → Slot → State → Except Flt State := aluAct ⟨18, false, true, false, opRemn, true⟩
def semRemn : SlotSem := { op8 := 0x0A, act := actRemn }
def execRemn (sl : Slot) (s : State) : Res := slotAlone semRemn sl s

/-- AND (R220). -/
def actAnd : Ctx → Slot → State → Except Flt State := aluAct ⟨1, false, true, false, opAnd, false⟩
def semAnd : SlotSem := { op8 := 0x0B, act := actAnd }
def execAnd (sl : Slot) (s : State) : Res := slotAlone semAnd sl s

/-- OR (R220). -/
def actOr : Ctx → Slot → State → Except Flt State := aluAct ⟨1, false, true, false, opOr, false⟩
def semOr : SlotSem := { op8 := 0x0C, act := actOr }
def execOr (sl : Slot) (s : State) : Res := slotAlone semOr sl s

/-- XOR (R220). -/
def actXor : Ctx → Slot → State → Except Flt State := aluAct ⟨1, false, true, false, opXor, false⟩
def semXor : SlotSem := { op8 := 0x0D, act := actXor }
def execXor (sl : Slot) (s : State) : Res := slotAlone semXor sl s

/-- ANDN (R220). -/
def actAndn : Ctx → Slot → State → Except Flt State := aluAct ⟨1, false, true, false, opAndn, false⟩
def semAndn : SlotSem := { op8 := 0x0E, act := actAndn }
def execAndn (sl : Slot) (s : State) : Res := slotAlone semAndn sl s

/-- SHL (R220). -/
def actShl : Ctx → Slot → State → Except Flt State := aluAct ⟨1, false, true, false, opShl, false⟩
def semShl : SlotSem := { op8 := 0x0F, act := actShl }
def execShl (sl : Slot) (s : State) : Res := slotAlone semShl sl s

/-- SHRL (R220). -/
def actShrl : Ctx → Slot → State → Except Flt State := aluAct ⟨1, false, true, false, opShrl, false⟩
def semShrl : SlotSem := { op8 := 0x10, act := actShrl }
def execShrl (sl : Slot) (s : State) : Res := slotAlone semShrl sl s

/-- SHRA (R220). -/
def actShra : Ctx → Slot → State → Except Flt State := aluAct ⟨1, true, true, false, opShra, false⟩
def semShra : SlotSem := { op8 := 0x11, act := actShra }
def execShra (sl : Slot) (s : State) : Res := slotAlone semShra sl s

/-- ROTL (R220). -/
def actRotl : Ctx → Slot → State → Except Flt State := aluAct ⟨1, false, true, false, opRotl, false⟩
def semRotl : SlotSem := { op8 := 0x12, act := actRotl }
def execRotl (sl : Slot) (s : State) : Res := slotAlone semRotl sl s

/-- CLZ (R220). -/
def actClz : Ctx → Slot → State → Except Flt State := aluAct ⟨1, false, false, false, opClz, false⟩
def semClz : SlotSem := { op8 := 0x13, act := actClz }
def execClz (sl : Slot) (s : State) : Res := slotAlone semClz sl s

/-- CTZ (R220). -/
def actCtz : Ctx → Slot → State → Except Flt State := aluAct ⟨1, false, false, false, opCtz, false⟩
def semCtz : SlotSem := { op8 := 0x14, act := actCtz }
def execCtz (sl : Slot) (s : State) : Res := slotAlone semCtz sl s

/-- POPC (R220). -/
def actPopc : Ctx → Slot → State → Except Flt State := aluAct ⟨1, false, false, false, opPopc, false⟩
def semPopc : SlotSem := { op8 := 0x15, act := actPopc }
def execPopc (sl : Slot) (s : State) : Res := slotAlone semPopc sl s

/-- MINS (R220). -/
def actMins : Ctx → Slot → State → Except Flt State := aluAct ⟨1, true, true, false, opMins, false⟩
def semMins : SlotSem := { op8 := 0x16, act := actMins }
def execMins (sl : Slot) (s : State) : Res := slotAlone semMins sl s

/-- MAXS (R220). -/
def actMaxs : Ctx → Slot → State → Except Flt State := aluAct ⟨1, true, true, false, opMaxs, false⟩
def semMaxs : SlotSem := { op8 := 0x17, act := actMaxs }
def execMaxs (sl : Slot) (s : State) : Res := slotAlone semMaxs sl s

/-- MINN (R220). -/
def actMinn : Ctx → Slot → State → Except Flt State := aluAct ⟨1, false, true, false, opMinn, false⟩
def semMinn : SlotSem := { op8 := 0x18, act := actMinn }
def execMinn (sl : Slot) (s : State) : Res := slotAlone semMinn sl s

/-- MAXN (R220). -/
def actMaxn : Ctx → Slot → State → Except Flt State := aluAct ⟨1, false, true, false, opMaxn, false⟩
def semMaxn : SlotSem := { op8 := 0x19, act := actMaxn }
def execMaxn (sl : Slot) (s : State) : Res := slotAlone semMaxn sl s

/-- ABSS (R220). -/
def actAbss : Ctx → Slot → State → Except Flt State := aluAct ⟨1, true, false, false, opAbss, false⟩
def semAbss : SlotSem := { op8 := 0x1A, act := actAbss }
def execAbss (sl : Slot) (s : State) : Res := slotAlone semAbss sl s

/-- SEXT (R222): SZ gives the source width. -/
def actSext (c : Ctx) (sl : Slot) (s : State) : Except Flt State :=
  let r := s.cur.cc
  .ok (gResult c 1 sl.dst (extendTo64 true (szBits sl.sz) (r.greg sl.sa).toNat) (r.gtag sl.sa) false s)
def semSext : SlotSem := { op8 := 0x1B, act := actSext }
def execSext (sl : Slot) (s : State) : Res := slotAlone semSext sl s

/-- LO, LEN and SGN of BFEX and BFIN (R222). -/
def bfLo (sl : Slot) : Nat := sl.imm32.toNat % 64
def bfLen (sl : Slot) : Nat := sl.imm32.toNat / 64 % 64 + 1

/-- BFEX (R222). -/
def actBfex (c : Ctx) (sl : Slot) (s : State) : Except Flt State :=
  let r := s.cur.cc
  let f := fieldOf (r.greg sl.sa).toNat (bfLo sl) (bfLen sl)
  .ok (gResult c 1 sl.dst (extendTo64 (sl.imm32.getLsbD 12) (bfLen sl) f) (r.gtag sl.sa) false s)
def semBfex : SlotSem := { op8 := 0x1C, act := actBfex }
def execBfex (sl : Slot) (s : State) : Res := slotAlone semBfex sl s

/-- BFIN (R222): G[DST] is read at issue. -/
def actBfin (c : Ctx) (sl : Slot) (s : State) : Except Flt State :=
  let r := s.cur.cc
  let len := min (bfLen sl) (64 - bfLo sl)
  let v := putField (r.greg sl.dst).toNat (bfLo sl) len (r.greg sl.sa).toNat
  .ok (gResult c 1 sl.dst (BitVec.ofNat 64 v) (r.gtag sl.sa || r.gtag sl.dst) false s)
def semBfin : SlotSem := { op8 := 0x1D, act := actBfin }
def execBfin (sl : Slot) (s : State) : Res := slotAlone semBfin sl s

/-- CRC32 (R222): the raw update of A[31:0] by the w/8 bytes of B. -/
def actCrc32 (c : Ctx) (sl : Slot) (s : State) : Except Flt State :=
  let r := s.cur.cc
  let v := crcNat ((r.greg sl.sa).extractLsb' 0 32) (srcB sl r).toNat (szBits sl.sz / 8)
  .ok (gResult c 1 sl.dst (v.zeroExtend 64) (r.gtag sl.sa || srcBTag sl r) false s)
def semCrc32 : SlotSem := { op8 := 0x1E, act := actCrc32 }
def execCrc32 (sl : Slot) (s : State) : Res := slotAlone semCrc32 sl s

/-! ## Moves (R223) -/

/-- MOVI. -/
def actMovi (c : Ctx) (sl : Slot) (s : State) : Except Flt State :=
  .ok (gResult c 1 sl.dst (sl.imm32.signExtend 64) false false s)
def semMovi : SlotSem := { op8 := 0x1F, act := actMovi }
def execMovi (sl : Slot) (s : State) : Res := slotAlone semMovi sl s

/-- MOVH: IMM32 above A[31:0]. -/
def actMovh (c : Ctx) (sl : Slot) (s : State) : Except Flt State :=
  let r := s.cur.cc
  .ok (gResult c 1 sl.dst (sl.imm32 ++ (r.greg sl.sa).extractLsb' 0 32) (r.gtag sl.sa) false s)
def semMovh : SlotSem := { op8 := 0x20, act := actMovh }
def execMovh (sl : Slot) (s : State) : Res := slotAlone semMovh sl s

/-- MOV from a G, P or D register by CLS. -/
def actMov (c : Ctx) (sl : Slot) (s : State) : Except Flt State :=
  let r := s.cur.cc
  .ok (match sl.imm32.toNat % 4 with
    | 0 => gResult c 1 sl.dst (r.greg sl.sa) (r.gtag sl.sa) false s
    | 1 => gResult c 1 sl.dst (if r.pred sl.sa.val then 1 else 0) false false s
    | _ => gResult c 1 sl.dst (r.d[Fin.ofNat 4 sl.sa.val].zeroExtend 64) false false s)
def semMov : SlotSem := { op8 := 0x21, act := actMov }
def execMov (sl : Slot) (s : State) : Res := slotAlone semMov sl s

/-- SEL: A where P[n] is true, else B, on w bits. -/
def actSel (c : Ctx) (sl : Slot) (s : State) : Except Flt State :=
  let r := s.cur.cc
  let v := if r.pred (sl.imm32.toNat % 16) then r.greg sl.sa else r.greg sl.sb
  .ok (gResult c 1 sl.dst (extendTo64 false (szBits sl.sz) v.toNat) (r.gtag sl.sa || r.gtag sl.sb) false s)
def semSel : SlotSem := { op8 := 0x22, act := actSel }
def execSel (sl : Slot) (s : State) : Res := slotAlone semSel sl s

/-! ## Compares and predicates (R224) -/

/-- CMPEQ. -/
def actCmpeq : Ctx → Slot → State → Except Flt State := cmpAct relEq
def semCmpeq : SlotSem := { op8 := 0x23, act := actCmpeq }
def execCmpeq (sl : Slot) (s : State) : Res := slotAlone semCmpeq sl s

/-- CMPNE. -/
def actCmpne : Ctx → Slot → State → Except Flt State := cmpAct relNe
def semCmpne : SlotSem := { op8 := 0x24, act := actCmpne }
def execCmpne (sl : Slot) (s : State) : Res := slotAlone semCmpne sl s

/-- CMPLTS. -/
def actCmplts : Ctx → Slot → State → Except Flt State := cmpAct relLts
def semCmplts : SlotSem := { op8 := 0x25, act := actCmplts }
def execCmplts (sl : Slot) (s : State) : Res := slotAlone semCmplts sl s

/-- CMPLES. -/
def actCmples : Ctx → Slot → State → Except Flt State := cmpAct relLes
def semCmples : SlotSem := { op8 := 0x26, act := actCmples }
def execCmples (sl : Slot) (s : State) : Res := slotAlone semCmples sl s

/-- CMPLTN. -/
def actCmpltn : Ctx → Slot → State → Except Flt State := cmpAct relLtn
def semCmpltn : SlotSem := { op8 := 0x27, act := actCmpltn }
def execCmpltn (sl : Slot) (s : State) : Res := slotAlone semCmpltn sl s

/-- CMPLEN. -/
def actCmplen : Ctx → Slot → State → Except Flt State := cmpAct relLen
def semCmplen : SlotSem := { op8 := 0x28, act := actCmplen }
def execCmplen (sl : Slot) (s : State) : Res := slotAlone semCmplen sl s

/-- TSTB. -/
def actTstb : Ctx → Slot → State → Except Flt State := cmpAct relBit
def semTstb : SlotSem := { op8 := 0x29, act := actTstb }
def execTstb (sl : Slot) (s : State) : Res := slotAlone semTstb sl s

/-- PAND. -/
def actPand : Ctx → Slot → State → Except Flt State := predAct fun a b => a && b
def semPand : SlotSem := { op8 := 0x2A, act := actPand }
def execPand (sl : Slot) (s : State) : Res := slotAlone semPand sl s

/-- POR. -/
def actPor : Ctx → Slot → State → Except Flt State := predAct fun a b => a || b
def semPor : SlotSem := { op8 := 0x2B, act := actPor }
def execPor (sl : Slot) (s : State) : Res := slotAlone semPor sl s

/-- PXOR. -/
def actPxor : Ctx → Slot → State → Except Flt State := predAct fun a b => a != b
def semPxor : SlotSem := { op8 := 0x2C, act := actPxor }
def execPxor (sl : Slot) (s : State) : Res := slotAlone semPxor sl s

/-- PNOT. -/
def actPnot : Ctx → Slot → State → Except Flt State := predAct fun a _ => !a
def semPnot : SlotSem := { op8 := 0x2D, act := actPnot }
def execPnot (sl : Slot) (s : State) : Res := slotAlone semPnot sl s

/-- PMOV: a predicate, or the constant of IMM32. -/
def actPmov (c : Ctx) (sl : Slot) (s : State) : Except Flt State :=
  .ok (pResult c sl.dst (if sl.imm then sl.imm32.getLsbD 0 else s.cur.cc.pred sl.sa.val) false s)
def semPmov : SlotSem := { op8 := 0x2E, act := actPmov }
def execPmov (sl : Slot) (s : State) : Res := slotAlone semPmov sl s

end Sys2Proof.Machine
end

