-- ==== Sys2Proof/Machine/Rows.lean ====
section
/-! DEFINITION. The row buffers and queue moves of the control core (R56, R58, R59, R126, R217, R225), and the
registered rows of an accumulator window that a write must not touch (R165, R274, R284). -/

namespace Sys2Proof.Machine

/-- The rows of the scratchpad (R58). -/
def spRows : Nat := 24576

/-! ## Registered rows (R284) -/

/-- Does a registered range hold a row, or a present index entry of it name the row's half-rows (R165, R274)? -/
def WinRange.hits (x : Cell) (w : WinRange) (row : Nat) : Bool :=
  (w.row ≤ row && row < w.row + w.n) ||
  (w.idx && (List.range w.n).any fun k =>
    (List.range 64).any fun i =>
      let e := lane (x.row (w.row + k)) i
      !e.getLsbD 31 && e.toNat % 65536 / 2 = row)

/-- The retention violation of a CQ or MP write into a registered row (R284, R356). -/
def Cell.windowFlt (x : Cell) (e : Eng) (row : Nat) : Option Flt :=
  match x.me.win with
  | none => none
  | some w =>
    if w.ranges.any (WinRange.hits x · row) then
      some ⟨0x0B, engUnit e, 2 + row % 32768 * 4 + w.key.tile.toNat * 2 ^ 32 + w.key.label.toNat * 2 ^ 48, 0, false, 0⟩
    else none

/-! ## Row addresses (R58, R225) -/

/-- A scratchpad byte address in a register: its row, or the protection fault (R58). -/
def rowOfAddr (e : Eng) (a : Word) (base : Nat) : Except Flt Nat :=
  if a.toNat / 2 ^ 23 ≠ 0 then .error (protFlt e 7)
  else
    let r := base + a.toNat / 256
    if r < spRows then .ok r else .error (protFlt e 7)

/-- SP[Ga+row] of a slot (R225). -/
def slotRow (sl : Slot) (s : State) : Except Flt Nat :=
  if s.cur.cc.gtag sl.sa then .error (poisonFlt 2 sl.sa.val false)
  else rowOfAddr .cc (s.cur.cc.greg sl.sa) (sl.imm32.toNat % 32768)

/-! ## Queues (R56) -/

/-- Number of a queue in WHICH (R356). -/
def lqWhich (n : Fin 4) : Nat := n.val
def sqWhich (n : Fin 2) : Nat := 4 + n.val
def mqWhich (n : Fin 2) : Nat := 6 + n.val

/-- The visible head of a queue, or the schedule miss. -/
def headOf (e : Eng) (which now due : Nat) (q : List QEntry) : Except Flt QEntry :=
  match q with
  | x :: _ => if x.vis ≤ now then .ok x else .error (missFlt e 5 which due)
  | [] => .error (missFlt e 5 which due)

/-- A queue with one more entry, or the schedule miss of a seventeenth. -/
def pushOf (e : Eng) (which due : Nat) (q : List QEntry) (x : QEntry) : Except Flt (List QEntry) :=
  if q.length < 16 then .ok (q ++ [x]) else .error (missFlt e 6 which due)

/-! ## The four CQ accesses (R126, R225) -/

/-- A CQ read enters the load buffer (R124). -/
def cqLoad (c : Ctx) (row win : Nat) (toB : Option (Fin 4)) (s : State) : State :=
  let l : CqLoad := ⟨s.uid, s.now, s.now + win * s.div, s.cur.ord.mark, row, c.off, toB, s.div⟩
  (s.modCur fun x => { x with ord := { x.ord with loads := x.ord.loads ++ [l] } }).fresh

/-- A CQ write enters the store buffer. -/
def cqStore (c : Ctx) (row win : Nat) (v : Row) (tag : Bool) (s : State) : State :=
  let w : CqStore := ⟨s.uid, s.now, s.now + win * s.div, s.cur.ord.mark, row, v, tag, none, c.off⟩
  (s.modCur fun x => { x with ord := { x.ord with stores := x.ord.stores ++ [w] } }).fresh

/-- A CQ access to a row: the bank, and for a write the window. -/
def cqRow (row : Nat) (write : Bool) (s : State) : Except Flt State :=
  match (if write then s.cur.windowFlt .cc row else none) with
  | some f => .error f
  | none => s.useBank row

/-- One QLD (R225): push the row into LQ n; the read is performed within its window. -/
def qldRow (c : Ctx) (n : Fin 4) (row : Nat) (s : State) : Except Flt State :=
  match cqRow row false s with
  | .error f => .error f
  | .ok t =>
    match pushOf .cc (lqWhich n) t.segTick t.cur.q.lq[n] ⟨t.uid, t.now + 6 * t.div, false, 0, false⟩ with
    | .error f => .error f
    | .ok l => .ok (cqLoad c row 5 none (t.modCur fun x => { x with q := { x.q with lq := x.q.lq.set n l } }))

/-- One QST (R225): take the SQ n head and write it to the row. -/
def qstRow (c : Ctx) (n : Fin 2) (row : Nat) (s : State) : Except Flt State :=
  match cqRow row true s with
  | .error f => .error f
  | .ok t =>
    match headOf .cc (sqWhich n) t.now t.segTick t.cur.q.sq[n] with
    | .error f => .error f
    | .ok h =>
      .ok (cqStore c row 3 h.row h.tag
        (t.modCur fun x => { x with q := { x.q with sq := x.q.sq.set n x.q.sq[n].tail } }))

/-- LDROW: the row reaches B n at +4. -/
def actLdrow (c : Ctx) (sl : Slot) (s : State) : Except Flt State :=
  match slotRow sl s with
  | .error f => .error f
  | .ok row =>
    match cqRow row false s with
    | .error f => .error f
    | .ok t => .ok (cqLoad c row 3 (some (Fin.ofNat 4 sl.dst.val)) t)
def semLdrow : SlotSem := { op8 := 0x2F, act := actLdrow }
def execLdrow (sl : Slot) (s : State) : Res := slotAlone semLdrow sl s

/-- STROW: B n as read at issue; the row is poisoned when a piece is. -/
def actStrow (c : Ctx) (sl : Slot) (s : State) : Except Flt State :=
  match slotRow sl s with
  | .error f => .error f
  | .ok row =>
    match cqRow row true s with
    | .error f => .error f
    | .ok t =>
      let n := Fin.ofNat 4 sl.dst.val
      let tag := t.cur.cc.bTag[n] != 0
      let u := cqStore c row 2 t.cur.cc.b[n] tag t
      .ok (if tag then u.landAfter c 1 .flags 0 0 2 else u)
def semStrow : SlotSem := { op8 := 0x30, act := actStrow }
def execStrow (sl : Slot) (s : State) : Res := slotAlone semStrow sl s

/-- The piece number of EXTL and INSL, from IMM32 or a register (R225). -/
def pieceNum (sl : Slot) (r : Cc) : Except Flt (Fin 32) :=
  if sl.imm then .ok (Fin.ofNat 32 sl.imm32.toNat)
  else if r.gtag sl.sb then .error (poisonFlt 2 sl.sb.val false)
  else .ok (Fin.ofNat 32 (r.greg sl.sb).toNat)

/-- EXTL. -/
def actExtl (c : Ctx) (sl : Slot) (s : State) : Except Flt State :=
  let r := s.cur.cc
  match pieceNum sl r with
  | .error f => .error f
  | .ok k =>
    let n := Fin.ofNat 4 sl.sa.val
    .ok (gResult c 1 sl.dst (piece r.b[n] k.val) (r.bTag[n].getLsbD k.val) false s)
def semExtl : SlotSem := { op8 := 0x31, act := actExtl }
def execExtl (sl : Slot) (s : State) : Res := slotAlone semExtl sl s

/-- INSL. -/
def actInsl (c : Ctx) (sl : Slot) (s : State) : Except Flt State :=
  let r := s.cur.cc
  match pieceNum sl r with
  | .error f => .error f
  | .ok k =>
    let tag := r.gtag sl.sa
    .ok (s.landAfter c 1 (.bPiece (Fin.ofNat 4 sl.dst.val) k (if tag then 0 else r.greg sl.sa) tag) 0 0 (psn tag))
def semInsl : SlotSem := { op8 := 0x32, act := actInsl }
def execInsl (sl : Slot) (s : State) : Res := slotAlone semInsl sl s

/-- QLD. -/
def actQld (c : Ctx) (sl : Slot) (s : State) : Except Flt State :=
  match slotRow sl s with
  | .error f => .error f
  | .ok row => qldRow c (Fin.ofNat 4 sl.dst.val) row s
def semQld : SlotSem := { op8 := 0x33, act := actQld }
def execQld (sl : Slot) (s : State) : Res := slotAlone semQld sl s

/-- QST. -/
def actQst (c : Ctx) (sl : Slot) (s : State) : Except Flt State :=
  match slotRow sl s with
  | .error f => .error f
  | .ok row => qstRow c (Fin.ofNat 2 sl.dst.val) row s
def semQst : SlotSem := { op8 := 0x34, act := actQst }
def execQst (sl : Slot) (s : State) : Res := slotAlone semQst sl s

/-- MARK (R128): later CQ accesses perform after the CQ accesses issued up to this tick. -/
def actMark (_ : Ctx) (_ : Slot) (s : State) : Except Flt State :=
  .ok (s.modCur fun x => { x with ord := { x.ord with mark := s.now + 1 } })
def semMark : SlotSem := { op8 := 0x55, act := actMark }
def execMark (sl : Slot) (s : State) : Res := slotAlone semMark sl s

/-! ## Queue streams (R217) -/

/-- The row of a KIND 9 operand at an expansion: BASE, stepped, or from the GREG register (R58, R200). -/
def spRowAt (e : Eng) (g : Option (Fin 32)) (row : BitVec 15) (st : Strides) (x : Ix) (r : Cc) : Except Flt Nat :=
  match g with
  | none =>
    let n := stepped row.toNat st x
    if 0 ≤ n && n < spRows then .ok n.toNat else .error (protFlt e 7)
  | some n =>
    if r.gtag n then .error (poisonFlt 2 n.val false)
    else if (r.greg n).toNat / 2 ^ 23 ≠ 0 then .error (protFlt e 7)
    else
      let y := stepped (row.toNat + (r.greg n).toNat / 256 % 32768) st x
      if 0 ≤ y && y < spRows then .ok y.toNat else .error (protFlt e 7)

/-- One expansion of QLDS: a QLD of the stepped row. -/
def bodyQlds (r : Rec) (c : Ctx) (s : State) : Except Flt State :=
  match r.o1 with
  | .sp g row st =>
    match spRowAt .cc g row st (ixOf r.nest c.k) s.cur.cc with
    | .error f => .error f
    | .ok n => qldRow c (Fin.ofNat 4 r.mod.toNat) n s
  | _ => .ok s
/-- QLDS (R217). -/
def execQlds (r : Rec) (s : State) : Res := .next (issueRec (.qlds r) r (bodyQlds r) s)

/-- One expansion of QSTS: a QST to the stepped row. -/
def bodyQsts (r : Rec) (c : Ctx) (s : State) : Except Flt State :=
  match r.o0 with
  | .sp g row st =>
    match spRowAt .cc g row st (ixOf r.nest c.k) s.cur.cc with
    | .error f => .error f
    | .ok n => qstRow c (Fin.ofNat 2 r.mod.toNat) n s
  | _ => .ok s
/-- QSTS (R217). -/
def execQsts (r : Rec) (s : State) : Res := .next (issueRec (.qsts r) r (bodyQsts r) s)

end Sys2Proof.Machine
end

