-- ==== Sys2Proof/Machine/Reach.lean ====
section
/-! DEFINITION. What a stream engine command reads and writes, as its captured operands name it at any moment (R79, R87, R201, R286,
R299), and from it the ordering machine's coverage: the path and scope of every access (R122, R123, R131), the accesses an
ordering operation covers (R133–R140) and whether one of them is still to be performed or protected (R91, R133, R134). -/

namespace Sys2Proof.Machine

/-! ## Captured operands (R285) -/

def SeCmd.ix (m : SeCmd) (k : Nat) : Ix := ixOf m.r.nest k
def SeCmd.total (m : SeCmd) : Nat := nestTotal m.r.nest

/-- IMM32 of an operand. -/
def ROp.immNat : ROp → Nat
  | .imm w => w.toNat
  | _ => 0
def immOf : Opnd → Nat
  | .imm w => w.toNat
  | _ => 0

/-- The row number of a scratchpad operand at an iteration, plus k. -/
def ROp.row (o : ROp) (x : Ix) (k : Nat := 0) : Int :=
  match o with
  | .sp b st => stepped b st x + k
  | _ => 0
def inRows (n : Int) : Bool := 0 ≤ n && n < spRows

/-! ## Tensor operands (R79, R201, R286) -/

/-- Coordinate d of a tensor operand at an iteration, an unsigned 64-bit number. -/
def coordAt (sdim : BitVec 8) (c : Vector Word 4) (st : Strides) (x : Ix) (d : Fin 4) : Nat :=
  let step (l : Nat) (i : Nat) (s : BitVec 16) : Int := if sdim.toNat / 4 ^ l % 4 = d.val then i * s.toInt else 0
  (BitVec.ofInt 64 ((c.get d).toNat + step 0 x.i0 st.s0 + step 1 x.i1 st.s1 + step 2 x.i2 st.s2 + step 3 x.i3 st.s3)).toNat

/-- The used coordinates of a tensor operand at an iteration. -/
def ROp.coords (o : ROp) (d : Desc) (x : Ix) : List Nat :=
  match o with
  | .tensor _ sdim c _ st => ((List.finRange 4).take d.ndim).map (coordAt sdim c st x)
  | _ => []

def ROp.tid : ROp → BitVec 12
  | .tensor t _ _ _ _ => t
  | _ => 0
def ROp.isTensor : ROp → Bool
  | .tensor _ _ _ _ _ => true
  | _ => false

/-- The descriptor of a tensor operand; SDIM or a coordinate register beyond its dimensions is a descriptor fault at
first use (R201). -/
def useDesc (s : State) (c : CellId) (rel : Nat) (write : Bool) (o : ROp) : Except Flt Desc :=
  match o with
  | .tensor tid sdim _ cset _ =>
    match s.desc (s.gangOf c).asid tid with
    | .error e => .error (xFlt .se tid write true rel e)
    | .ok d =>
      if (List.range 4).any fun l => d.ndim ≤ sdim.toNat / 4 ^ l % 4 then .error (xFlt .se tid write true rel ⟨0x0E, 12, 0, 0⟩)
      else if cset.toNat / 2 ^ d.ndim ≠ 0 then .error (xFlt .se tid write true rel ⟨0x0E, 12, 0, 0⟩)
      else .ok d
  | _ => .error (descFlt .se 12)

/-- Coordinates moved by n along a dimension. -/
def moveCoord (x : List Nat) (d n : Nat) : List Nat := x.mapIdx fun i v => if i = d then (v + n) % 2 ^ 64 else v
/-- The n elements along dimension 0 that start at coordinates. -/
def alongRow (x : List Nat) (n : Nat) : List (List Nat) := (List.range n).map (moveCoord x 0)

/-- The block-scale tensor of a descriptor; one that is not a valid 2-D FP32 tensor is a descriptor fault (R78). -/
def State.scaleDesc (s : State) (asid : BitVec 10) (d : Desc) : Except XFlt Desc :=
  match s.desc asid (BitVec.ofNat 12 d.sclid) with
  | .ok sd => if sd.fmt = 4 && sd.ndim = 2 then .ok sd else .error ⟨0x0E, 12, 0, 0⟩
  | .error _ => .error ⟨0x0E, 12, 0, 0⟩
/-- The scale's place for an element (R78). -/
def Desc.scaleCoords (d : Desc) (x : List Nat) : List Nat :=
  [x.headD 0 / 128, if d.scll = 1 then x.getD 1 0 else x.getD 1 0 / 128]

/-! ## The elements that a command names (R87, R292–R305) -/

/-- Index entry k of a list of rows as the scratchpad holds them. -/
def indexAt (x : Cell) (base k : Nat) : Nat := (lane (x.row (base + k / 64)) (k % 64)).toNat

/-- The fields of an offset row. -/
structure Groups where
  o     : Nat → Nat
  n     : Nat
  tcap  : Nat
  hstep : Nat
  kb    : Nat
  rs    : Nat
def groupsOf (v : Row) : Groups :=
  let l (i : Nat) := (lane v i).toNat
  ⟨l, l 62, l 63 % 256, l 63 / 256 % 256, l 63 / 65536 % 256, l 63 / 2 ^ 24⟩
/-- The offset row that a command's operand names, as the scratchpad holds it. -/
def SeCmd.offsets (m : SeCmd) (x : Cell) : Groups := groupsOf (x.row (m.o2.row (m.ix 0)).toNat)

/-- Does a mask row keep an element of e bytes, the k-th of its row (R297)? -/
def maskKeeps (mask : Row) (e k : Nat) : Bool := (List.range (max 1 (e / 4))).any fun j => mask.getLsbD (e * k / 4 + j)

/-- The elements of a tensor operand that a command reads or writes, as its index, offset and mask rows stand. -/
def namedElems (s : State) (c : CellId) (m : SeCmd) (write : Bool) (o : ROp) (d : Desc) : List (List Nat) :=
  let e := 256 / fmtBytes d.fmt
  let x := s.cell c
  let start := o.coords d (m.ix 0)
  let each (f : List Nat → List (List Nat)) : List (List Nat) := (List.range m.total).flatMap fun k => f (o.coords d (m.ix k))
  match m.op with
  | 6 => each fun y => (List.range e).flatMap fun j => (List.range e).map fun i => moveCoord (moveCoord y 0 j) 1 i
  | 7 => each fun y => alongRow y (if write then e else 256 / fmtBytes (m.o2.immNat % 16))
  | 8 => each fun y => alongRow y 128
  | 9 =>
    let mask := x.row (m.o2.row (m.ix 0)).toNat
    each fun y => if write then ((List.range e).filter (maskKeeps mask (fmtBytes d.fmt))).map (moveCoord y 0) else alongRow y e
  | 0x0B | 0x0C | 0x0D => (List.range m.total).flatMap fun k =>
    let i := match m.o2 with
      | .sp b _ => indexAt x b k
      | _ => 0
    if i = 0xFFFFFFFF then [] else alongRow (moveCoord start (m.r.mod.toNat % 4) i) e
  | 0x0F =>
    let g := m.offsets x
    (List.range (g.o g.n - g.o 0)).flatMap fun k => alongRow (moveCoord start 1 (g.o 0 + k)) (e * g.rs)
  | 0x10 => each fun y => alongRow y (e * m.o2.immNat)
  | 0x12 => each fun y => alongRow y (e * 32)
  | _ => each fun y => alongRow y e

/-- The pages of a list of elements that translate. -/
def pagesOf (s : State) (asid : BitVec 10) (tid : BitVec 12) (d : Desc) (write : Bool) (xs : List (List Nat)) : List Page :=
  ((xs.filterMap (tileOf d)).map (·.1)).dedup.filterMap fun t =>
    match s.page asid tid d write t with
    | .ok p => some p
    | .error _ => none

/-- The pages that a command touches through an operand, by tensor, where they translate; a quantised tensor's scales with it
(R87, R296). -/
def touched (s : State) (c : CellId) (m : SeCmd) (write : Bool) (o : ROp) : List (BitVec 12 × Page) :=
  let a := (s.gangOf c).asid
  match useDesc s c m.rel write o with
  | .error _ => []
  | .ok d =>
    let l := namedElems s c m write o d
    let scales := match s.scaleDesc a d with
      | .ok sd => if m.op = 8 && write then
          (pagesOf s a (BitVec.ofNat 12 d.sclid) sd true (l.map d.scaleCoords).dedup).map fun p => (BitVec.ofNat 12 d.sclid, p)
        else []
      | .error _ => []
    (pagesOf s a o.tid d write l).map (fun p => (o.tid, p)) ++ scales

/-! ## Paths and scopes (R122, R123, R131) -/

def pathBit : Path → Nat
  | .cq => 0 | .mp => 1 | .sp => 2 | .yp => 3 | .np => 4
/-- Is a path among those of a 5-bit set? -/
def pathIn (set : BitVec 5) (p : Path) : Bool := set.getLsbD (pathBit p)

/-- The scope of a variable from its home die: DIE on the cell's own die, else PKG (R122). -/
def dieScope (c : CellId) (die : Nat) : Nat := if die = (dieOf c).val then 2 else 3
/-- The home die of a routing counter or phaser (R231, R306). -/
def homeOf (n : Nat) : Nat := if n < 128 then 0 else 1

/-- Entry k of a CNTR's list: the counter and the gain, none for padding (R306). -/
def SeCmd.gain (m : SeCmd) (row : Row) (k : Nat) : Nat × Nat :=
  if m.r.mod.getLsbD 0 then ((lane row (2 * (k % 32))).toNat, (lane row (2 * (k % 32) + 1)).toNat) else ((lane row (k % 64)).toNat, 1)
/-- The row of the list that holds entry k. -/
def SeCmd.gainRow (m : SeCmd) (k : Nat) : Nat := if m.r.mod.getLsbD 0 then k / 32 else k / 64

/-- The paths on which a command works through an operand, each with a scope. -/
def operandAt (s : State) (c : CellId) (m : SeCmd) (write : Bool) (o : ROp) : List (Path × Nat) :=
  match o with
  | .sp _ _ | .hr _ _ | .ck _ _ => [(.sp, 0)]
  | .tensor _ _ _ _ _ => ((touched s c m write o).map fun p => if p.2.dev = s.selfdev then (Path.sp, 3) else (Path.np, 4)).dedup
  | _ => []
/-- The paths of a command's writes, each with its location's scope; those of the sync engines are on YP. -/
def SeCmd.writesAt (m : SeCmd) (s : State) (c : CellId) : List (Path × Nat) :=
  let x := s.cell c
  match m.op with
  | 3 => if m.r.mod.getLsbD 0 then [(.sp, 0)] else m.target.map fun t => (Path.sp, s.scopeOf c (.sp t.1 0))
  | 5 => m.target.map fun t => (Path.sp, s.scopeOf c (.sp t.1 0))
  | 0x12 | 0x24 => []
  | 0x14 => (((List.range m.o2.immNat).drop m.next).map fun k =>
      (Path.yp, dieScope c (homeOf (m.gain (x.row (m.o1.row (m.ix 0) (m.gainRow k)).toNat) k).1))).dedup
  | 0x15 => (.sp, 0) :: ((List.range (m.o2.immNat / 256 % 256 + 1)).map fun i => (Path.yp, dieScope c (homeOf (m.o2.immNat % 256 + i)))).dedup
  | 0x16 => [(.np, 4)]
  | 0x1A => [(.np, 4), (.sp, 0)]
  | 0x1C | 0x1D => [(.yp, 0)]
  | 0x28 => m.target.map (fun t => (Path.yp, s.scopeOf c (.sp t.1 0))) ++ [(.yp, 0)]
  | _ => operandAt s c m true m.o0
/-- The paths of a command's reads. -/
def SeCmd.readsAt (m : SeCmd) (s : State) (c : CellId) : List Path :=
  match m.op with
  | 0x14 | 0x15 | 0x28 | 0x1C | 0x1D => [.sp, .yp]
  | 0x16 => [.sp]
  | 0x1A => [.sp, .np]
  | 0x24 | 0x25 => []
  | _ => (operandAt s c m false m.o1 ++ operandAt s c m false m.o2).map (·.1)

/-- The scope of the write of a YP operation, none where it only reads (R122). -/
def State.ypScope (s : State) (c : CellId) : YKind → Option Nat
  | .stat _ | .tdrd _ _ => none
  | .tail _ _ | .head _ _ | .claim _ _ | .srel _ _ _ _ | .aarm _ _ | .aset _ _ => some 0
  | .yclm _ _ _ _ _ => some 1
  | .xtail d _ _ _ => some (s.scopeOf c (.sp d 0))
  | .phreg n | .phdrg n | .pharv n => some (dieScope c (homeOf n))
  | .atom _ (.ctr _ n) _ _ _ _ _ _ _ => some (dieScope c (homeOf n))
  | .atom _ (.mem _) w32 _ _ _ _ tid off =>
    match s.flatByte (s.gangOf c).asid tid true off.toNat (if w32 then 4 else 8) with
    | .ok (p, _) => some (dieScope c p.die)
    | .error _ => some 3
  | .tdwr _ _ _ => some 3

/-! ## Coverage (R133–R140) -/

def SePhase.open_ : SePhase → Bool
  | .ending => false
  | _ => true

/-- May a command that has not done its work still make a covered access? -/
def SeCmd.owes (m : SeCmd) (s : State) (c : CellId) (scope : Nat) (v : Cov) : Bool :=
  m.phase.open_ &&
  ((v.rd && (m.readsAt s c).any (pathIn v.paths)) || (v.wr && (m.writesAt s c).any fun w => pathIn v.paths w.1 && decide (w.2 ≤ scope)))
/-- Is a YP operation that waits a covered access? -/
def State.owesYp (s : State) (c : CellId) (scope : Nat) (v : Cov) (o : YOp) : Bool :=
  o.uid == v.uid && pathIn v.paths .yp && (v.rd || (v.wr && (s.ypScope c o.kind).any (· ≤ scope)))
/-- Is a frame a covered access that its peer has not performed? -/
def OutFrame.owes (f : OutFrame) (scope : Nat) (v : Cov) : Bool :=
  (f.cmd == v.uid || f.fid == v.uid) && pathIn v.paths f.path && f.reply.isNone &&
  (match f.body with
    | .read _ _ => v.rd
    | .atomic _ _ _ _ _ _ => v.rd || (v.wr && decide (f.scope ≤ scope))
    | _ => v.wr && decide (f.scope ≤ scope))

/-- Is a covered access of a cell still to be performed: a read, or a write whose location lies within the scope (R133)? -/
def State.pending (s : State) (c : CellId) (scope : Nat) (v : Cov) : Bool :=
  let x := s.cell c
  (v.rd && (x.ord.loads.any (·.uid == v.uid) || x.me.ops.any (·.uid == v.uid))) ||
  (v.wr && x.ord.stores.any (·.uid == v.uid)) ||
  x.ord.yp.any (s.owesYp c scope v) || s.moved.any (fun e => s.owesYp c scope v e.2) ||
  x.se.queue.any (fun m => m.uid == v.uid && m.owes s c scope v) ||
  (v.wr && s.fabric.any fun w => (w.uid == v.uid || (w.cmd == v.uid && pathIn v.paths w.path)) && decide (s.scopeOf c w.loc ≤ scope)) ||
  s.outFrames.any (·.owes scope v)

/-- Is a write to device memory still unprotected (R91, R141)? A peer's write is protected once it is acknowledged. -/
def State.unprotected (s : State) (u : Nat) : Bool := s.deltas.any fun d => d.uid == u || d.cmd == u

/-- Does a FENCE still hold (R133, R134)? -/
def State.holds (s : State) (c : CellId) (h : Hold) : Bool :=
  h.cover.any (s.pending c h.scope) ||
  (h.prot && (h.cover.any (fun v => s.unprotected v.uid) ||
    (s.cell c).ord.seen.any (fun e => pathIn h.bef e.1 && decide (e.2.1 < h.uid) && s.unprotected e.2.2)))

/-- The tick by which an operation counts as issued: that of its command's release, else its own. -/
def YOp.issued (o : YOp) : Nat := if o.eng = .se then o.rel else o.tick

/-- The accesses of a cell on the paths of a set that were issued before now, or in the bundle of now too; of a command those of its
accesses that lie on the paths (R133, R135–R140). -/
def State.covers (s : State) (c : CellId) (own : Bool) (paths : BitVec 5) (rd wr : Bool) : List Cov :=
  let x := s.cell c
  let now := (s.gangOf c).tick
  let before (t : Nat) : Bool := decide (t < now + own.toNat)
  let of (l : List Nat) : List Cov := l.map fun u => ⟨u, rd, wr, paths⟩
  of ((if paths.getLsbD 0 then
      ((x.ord.loads.filter fun l => before l.tick).map (·.uid)) ++ (x.ord.stores.filter fun w => before w.tick).map (·.uid) else []) ++
    (if paths.getLsbD 1 then (x.me.ops.filter fun o => before o.t0).map (·.uid) else []) ++
    (if paths.getLsbD 3 then
      (x.ord.yp.filter fun o => before o.issued).map (·.uid) ++ (s.moved.filter fun e => e.1 == c).map (·.2.uid) else []) ++
    (if paths.toNat / 4 ≠ 0 then (x.se.queue.filter fun m => decide (m.rel < now)).map (·.uid) else []) ++
    (s.fabric.filter fun w => w.src.isNone && w.cell == c && pathIn paths w.path).map (·.uid))

end Sys2Proof.Machine
end

