-- ==== Sys2Proof/Machine/Sync.lean ====
section
/-! DEFINITION. Decision, check, trap, ring, stage, arrival, phaser, atomic, claim, fence, time, system and descriptor
slots of the control core (R37, R57, R61–R65, R132, R133, R177, R226–R240): what each does at its issue tick. What the
operations on path YP do when performed is in SyncPerform. -/

namespace Sys2Proof.Machine

/-! ## Ring control blocks (R61) -/

structure Rcb where
  base    : Nat
  depth   : Nat
  esize   : Nat
  pushp   : BitVec 5
  popp    : BitVec 5
  stage   : Bool
  head    : BitVec 32
  tail    : BitVec 32
  claimed : BitVec 32
  state   : Word
  deriving DecidableEq, Repr

/-- An RCB's fields, or the CAUSE of its descriptor fault (R61, R63, R374). -/
def parseRcb (w : Nat) : Except Nat Rcb :=
  let f (lo n : Nat) := fieldOf w lo n
  let stage := f 50 1 = 1
  match firstBad [
    (f 15 1 ≠ 0 || f 31 1 ≠ 0 || f 39 1 ≠ 0 || f 51 13 ≠ 0 || f 160 32 ≠ 0 || f 256 256 ≠ 0, 11),
    (stage && (List.range 16).any fun e => f (192 + 4 * e + 3) 1 ≠ 0, 11),
    (f 16 15 = 0 || f 32 7 = 0, 12),
    (stage && 16 < f 16 15, 12),
    (spRows < f 0 15 + f 16 15 * f 32 7, 12),
    (!stage && f 192 64 ≠ 0, 12)] with
  | some c => .error c
  | none => .ok { base := f 0 15, depth := f 16 15, esize := f 32 7, pushp := BitVec.ofNat 5 (f 40 5),
                  popp := BitVec.ofNat 5 (f 45 5), stage := stage, head := BitVec.ofNat 32 (f 64 32),
                  tail := BitVec.ofNat 32 (f 96 32), claimed := BitVec.ofNat 32 (f 128 32), state := BitVec.ofNat 64 (f 192 64) }

/-- The RCB at a location 4 · row + quarter of a cell's scratchpad. -/
def Cell.rcb (x : Cell) (loc : Nat) : Except Nat Rcb := parseRcb (fieldOf (x.row (loc / 4)).toNat (512 * (loc % 4)) 512)

/-- The 64-byte block of a row replaced (R65). -/
def Cell.putQuarter (x : Cell) (loc v : Nat) : Cell :=
  x.putRow (loc / 4) (BitVec.ofNat 2048 (putField (x.row (loc / 4)).toNat (512 * (loc % 4)) 512 v)) (x.rowTag (loc / 4))

/-- The hardware-maintained counts of an RCB written back (R62). -/
def Cell.putCounts (x : Cell) (loc : Nat) (r : Rcb) : Cell :=
  let w := fieldOf (x.row (loc / 4)).toNat (512 * (loc % 4)) 512
  x.putQuarter loc (putField (putField (putField w 64 32 r.head.toNat) 96 32 r.tail.toNat) 128 32 r.claimed.toNat)

def Rcb.filled (r : Rcb) : Nat := (r.tail - r.head).toNat
def Rcb.held (r : Rcb) : Nat := (r.claimed - r.head).toNat
def Rcb.freeCount (r : Rcb) : BitVec 32 := BitVec.ofNat 32 r.depth - (r.claimed - r.head)

/-- RADVT by m (R62); none is the ring-bound fault. -/
def Rcb.advTail (r : Rcb) (m : BitVec 32) : Option Rcb :=
  let t := r.tail + m
  let c := if (r.claimed - r.head).toNat < (t - r.head).toNat then t else r.claimed
  if r.depth < (t - r.head).toNat || r.depth < (c - r.head).toNat then none else some { r with tail := t, claimed := c }
/-- RADVH by m. -/
def Rcb.advHead (r : Rcb) (m : BitVec 32) : Option Rcb :=
  let h := r.head + m
  if r.depth < (r.tail - h).toNat || r.depth < (r.claimed - h).toNat then none else some { r with head := h }
/-- A claim of m. -/
def Rcb.claim (r : Rcb) (m : BitVec 32) : Option Rcb :=
  let c := r.claimed + m
  if r.depth < (c - r.head).toNat || r.depth < (r.tail - r.head).toNat then none else some { r with claimed := c }

/-! ## Arrival words (R64) -/

structure Arrival where
  target : Nat
  count  : Nat
  gen    : BitVec 16
  armed  : Bool
  deriving DecidableEq, Repr

/-- The 16 bytes of an arrival word, or the descriptor CAUSE. -/
def parseArrival (w : Nat) : Except Nat Arrival :=
  if fieldOf w 40 24 ≠ 0 || fieldOf w 121 7 ≠ 0 then .error 11
  else .ok ⟨fieldOf w 0 40, fieldOf w 64 40, BitVec.ofNat 16 (fieldOf w 104 16), fieldOf w 120 1 = 1⟩
def Arrival.bits (a : Arrival) : Nat := a.target + a.count * 2 ^ 64 + a.gen.toNat * 2 ^ 104 + a.armed.toNat * 2 ^ 120

/-- The arrival word at a scratchpad byte address (bits 3:0 ignored). -/
def Cell.arrival (x : Cell) (addr : Nat) : Except Nat Arrival :=
  parseArrival (fieldOf (x.row (addr / 256)).toNat (8 * (addr % 256 / 16 * 16)) 128)
def Cell.putArrival (x : Cell) (addr : Nat) (a : Arrival) : Cell :=
  x.putRow (addr / 256) (BitVec.ofNat 2048 (putField (x.row (addr / 256)).toNat (8 * (addr % 256 / 16 * 16)) 128 a.bits))
    (x.rowTag (addr / 256))

/-- The match test: generations complete while COUNT reaches TARGET (R64). -/
def Arrival.settle (a : Arrival) : Arrival :=
  if a.armed && a.target ≠ 0 then
    { a with gen := a.gen + BitVec.ofNat 16 (a.count / a.target), count := a.count % a.target }
  else a
/-- Count b bytes (R64). -/
def Arrival.add (a : Arrival) (b : Nat) : Arrival := { a with count := (a.count + b) % 2 ^ 40 }.settle
/-- Has the word reached generation g (R64)? -/
def Arrival.reached (a : Arrival) (g : BitVec 16) : Bool := (a.gen - g).toNat < 2 ^ 15

/-! ## Path YP (R57, R124) -/

/-- An operation enters the cell's YP store buffer. -/
def ypPush (c : Ctx) (k : YKind) (cover : List Cov) (scope : Nat) (s : State) : State :=
  let op : YOp := ⟨s.uid, c.off, c.slot, s.now, k, cover, scope, .cc, 0, false⟩
  (s.modCur fun x => { x with ord := { x.ord with yp := x.ord.yp ++ [op] } }).fresh

/-- Reserve a YQ entry for the operation numbered next (R57). -/
def reserveYq (s : State) : Except Flt State :=
  if s.cur.q.yq.length < 16 then
    .ok (s.modCur fun x => { x with q := { x.q with yq := x.q.yq ++ [⟨s.uid, false, false, 0, false, false, none⟩] } })
  else .error (missFlt .cc 8 8 s.segTick)

/-- An operation that returns through YQ. -/
def ypReturn (c : Ctx) (k : YKind) (s : State) : Except Flt State :=
  match reserveYq s with
  | .error f => .error f
  | .ok t => .ok (ypPush c k [] 4 t)

/-! ## Decisions, checks, traps (R37, R38, R226, R227) -/

/-- The contribution of a cell to a reduction. -/
def contribute (sl : Slot) (v : BitVec 3) (s : State) : State :=
  let w := sl.imm32.toNat
  s.modGang (s.gidOf s.curCell) fun g => { g with decisions := g.decisions ++
    [⟨s.now, s.curCell, Fin.ofNat 4 w, w / 4 % 8, w / 32 % 128, v, none, s.uid⟩] }

/-- The identity a false predicate contributes (R38). -/
def reduceIdentity (rop : Nat) : BitVec 3 := if rop = 1 || rop = 3 then 7 else 0

/-- LOCAL outside span class 0, or FROM a member the gang does not have (R38, R226). -/
def ruleDecide (sl : Slot) (s : State) : Option Flt :=
  let g := s.gangOf s.curCell
  let w := sl.imm32.toNat
  let rop := w / 4 % 8
  if rop = 6 && g.glog ≠ 0 then some ⟨5, 0, illSynd g.encgen 1 34 0x35, 0, false, 0⟩
  else if rop = 5 && g.size ≤ w / 32 % 128 then some ⟨5, 0, illSynd g.encgen 1 37 0x35, 0, false, 0⟩
  else none
/-- DECIDE: CV, or the low bits of a G register; a poisoned one contributes 0. -/
def actDecide (c : Ctx) (sl : Slot) (s : State) : Except Flt State :=
  let r := s.cur.cc
  if sl.sa = 0 then .ok (contribute sl (BitVec.ofNat 3 (sl.imm32.toNat / 4096)) s)
  else
    let tag := r.gtag sl.sa
    let t := contribute sl (if tag then 0 else (r.greg sl.sa).extractLsb' 0 3) s
    .ok (if tag then t.landAfter c 1 .flags 0 0 2 else t)
def idleDecide (_ : Ctx) (sl : Slot) (s : State) : State := contribute sl (reduceIdentity (sl.imm32.toNat / 4 % 8)) s
def semDecide : SlotSem := { op8 := 0x35, rule := ruleDecide, act := actDecide, idle := idleDecide }
def execDecide (sl : Slot) (s : State) : Res := slotAlone semDecide sl s

/-- CHECK (R227). -/
def actCheck (_ : Ctx) (sl : Slot) (s : State) : Except Flt State :=
  let r := s.cur.cc
  let isB := sl.imm32.getLsbD 0
  let tagged := if isB then r.bTag[Fin.ofNat 4 sl.sa.val] != 0 else r.gtag sl.sa
  if tagged then .error (poisonFlt 0 sl.sa.val isB)
  else if sl.imm32.getLsbD 1 && r.cflags.getLsbD 1 then .error (poisonFlt 1 sl.sa.val isB)
  else .ok s
def semCheck : SlotSem := { op8 := 0x36, act := actCheck }
def execCheck (sl : Slot) (s : State) : Res := slotAlone semCheck sl s

/-- TRAP (R227, R366). -/
def actTrap (_ : Ctx) (sl : Slot) (_ : State) : Except Flt State := .error ⟨0x10, 0, sl.imm32.toNat % 65536, 0, false, 0⟩
def semTrap : SlotSem := { op8 := 0x37, act := actTrap }
def execTrap (sl : Slot) (s : State) : Res := slotAlone semTrap sl s

/-! ## Rings and stages (R61–R63, R228, R229) -/

/-- The RCB of a ring slot and its location; the location and descriptor faults. -/
def slotRing (sl : Slot) (s : State) : Except Flt (Nat × Rcb) :=
  let loc := sl.imm32.toNat % 2 ^ 17
  if spRows ≤ loc / 4 then .error (protFlt .cc 7)
  else match s.cur.rcb loc with
    | .error c => .error (descFlt .cc c)
    | .ok r => .ok (loc, r)

/-- The ring of a count operation and its count m (R228). -/
def ringCount (sl : Slot) (s : State) : Except Flt (Nat × Rcb × BitVec 32) :=
  let r := s.cur.cc
  if r.gtag sl.sa then .error (poisonFlt 2 sl.sa.val false)
  else match slotRing sl s with
    | .error f => .error f
    | .ok (loc, q) =>
      if q.stage then .error (protFlt .cc 8)
      else .ok (loc, q, (r.greg sl.sa).extractLsb' 0 32 + BitVec.ofNat 32 (sl.imm32.toNat / 2 ^ 17))

/-- A wait: nothing when satisfied or for m = 0, else a freeze request (R62). -/
def ringWait (full : Bool) (sl : Slot) (s : State) : Except Flt State :=
  match ringCount sl s with
  | .error f => .error f
  | .ok (loc, q, m) =>
    if q.depth < m.toNat then .error (protFlt .cc 8)
    else if m = 0 || m.toNat ≤ (if full then q.filled else q.freeCount.toNat) then .ok s
    else .ok (s.request (s.gidOf s.curCell)
      (if full then .ringFilled s.curCell loc m.toNat else .ringFree s.curCell loc m.toNat))

/-- RWAITF. -/
def actRwaitf (_ : Ctx) (sl : Slot) (s : State) : Except Flt State := ringWait true sl s
def semRwaitf : SlotSem := { op8 := 0x38, act := actRwaitf }
def execRwaitf (sl : Slot) (s : State) : Res := slotAlone semRwaitf sl s

/-- RWAITE. -/
def actRwaite (_ : Ctx) (sl : Slot) (s : State) : Except Flt State := ringWait false sl s
def semRwaite : SlotSem := { op8 := 0x39, act := actRwaite }
def execRwaite (sl : Slot) (s : State) : Res := slotAlone semRwaite sl s

/-- RADVT: performed after the covered PUSHP writes within the ring's scope, which is CELL (R135). -/
def actRadvt (c : Ctx) (sl : Slot) (s : State) : Except Flt State :=
  match ringCount sl s with
  | .error f => .error f
  | .ok (loc, q, m) => .ok (ypPush c (.tail loc m.toNat) (s.covers s.curCell false q.pushp false true) 0 s)
def semRadvt : SlotSem := { op8 := 0x3A, act := actRadvt }
def execRadvt (sl : Slot) (s : State) : Res := slotAlone semRadvt sl s

/-- RADVH: performed after the earlier POPP reads (R136). -/
def actRadvh (c : Ctx) (sl : Slot) (s : State) : Except Flt State :=
  match ringCount sl s with
  | .error f => .error f
  | .ok (loc, q, m) => .ok (ypPush c (.head loc m.toNat) (s.covers s.curCell false q.popp true false) 4 s)
def semRadvh : SlotSem := { op8 := 0x3B, act := actRadvh }
def execRadvh (sl : Slot) (s : State) : Res := slotAlone semRadvh sl s

/-- RCLM: the old CLAIMED returns through YQ. -/
def actRclm (c : Ctx) (sl : Slot) (s : State) : Except Flt State :=
  match ringCount sl s with
  | .error f => .error f
  | .ok (loc, _, m) => ypReturn c (.claim loc m.toNat) s
def semRclm : SlotSem := { op8 := 0x3C, act := actRclm }
def execRclm (sl : Slot) (s : State) : Res := slotAlone semRclm sl s

/-- RSTAT: the filled and free counts return through YQ. -/
def actRstat (c : Ctx) (sl : Slot) (s : State) : Except Flt State :=
  match ringCount sl s with
  | .error f => .error f
  | .ok (loc, _, _) => ypReturn c (.stat loc) s
def semRstat : SlotSem := { op8 := 0x3D, act := actRstat }
def execRstat (sl : Slot) (s : State) : Res := slotAlone semRstat sl s

/-- The stage ring of SACQ and SREL and the element (R229). -/
def stageElement (sl : Slot) (s : State) : Except Flt (Nat × Rcb × Nat) :=
  let r := s.cur.cc
  if r.gtag sl.sa then .error (poisonFlt 2 sl.sa.val false)
  else match slotRing sl s with
    | .error f => .error f
    | .ok (loc, q) =>
      let e := ((r.greg sl.sa).toNat + sl.imm32.toNat / 2 ^ 17) % 16
      if !q.stage || q.depth ≤ e then .error (protFlt .cc 8) else .ok (loc, q, e)

/-- FULL and OWNER of a stage element (R63). -/
def Rcb.full (r : Rcb) (e : Nat) : Bool := r.state.getLsbD (4 * e)
def Rcb.owner (r : Rcb) (e : Nat) : Nat := fieldOf r.state.toNat (4 * e + 1) 2

/-- SACQ. -/
def actSacq (_ : Ctx) (sl : Slot) (s : State) : Except Flt State :=
  match stageElement sl s with
  | .error f => .error f
  | .ok (loc, q, e) =>
    let own := sl.imm32.toNat / 2 ^ 21 % 4
    let full := sl.imm32.getLsbD 23
    if q.full e = full && q.owner e = own then .ok s
    else .ok (s.request (s.gidOf s.curCell) (.stage s.curCell loc e own full))
def semSacq : SlotSem := { op8 := 0x3E, act := actSacq }
def execSacq (sl : Slot) (s : State) : Res := slotAlone semSacq sl s

/-- SREL: performed after every earlier access of the cell on the ring's paths, wherever it goes (R137). -/
def actSrel (c : Ctx) (sl : Slot) (s : State) : Except Flt State :=
  match stageElement sl s with
  | .error f => .error f
  | .ok (loc, q, e) =>
    .ok (ypPush c (.srel loc e (sl.imm32.toNat / 2 ^ 24 % 4) (sl.imm32.toNat / 2 ^ 21 % 4))
      (s.covers s.curCell false (q.pushp ||| q.popp) true true) 4 s)
def semSrel : SlotSem := { op8 := 0x3F, act := actSrel }
def execSrel (sl : Slot) (s : State) : Res := slotAlone semSrel sl s

/-! ## Arrival words (R230) -/

/-- Address and value of AARM and AWAIT. -/
def arrivalOpnds (sl : Slot) (s : State) : Except Flt (Nat × Word) :=
  let r := s.cur.cc
  let vr := if sl.imm then sl.sa else sl.sb
  if !sl.imm && r.gtag sl.sa then .error (poisonFlt 2 sl.sa.val false)
  else if r.gtag vr then .error (poisonFlt 2 vr.val false)
  else
    let a := if sl.imm then sl.imm32.zeroExtend 64 else r.greg sl.sa
    match rowOfAddr .cc a 0 with
    | .error f => .error f
    | .ok _ => .ok (a.toNat / 16 * 16, r.greg vr)

/-- AARM. -/
def actAarm (c : Ctx) (sl : Slot) (s : State) : Except Flt State :=
  match arrivalOpnds sl s with
  | .error f => .error f
  | .ok (a, v) =>
    match s.cur.arrival a with
    | .error k => .error (descFlt .cc k)
    | .ok _ =>
      if v.toNat % 2 ^ 40 = 0 then .error (descFlt .cc 12)
      else .ok (ypPush c (.aarm a (v.extractLsb' 0 40)) [] 0 s)
def semAarm : SlotSem := { op8 := 0x40, act := actAarm }
def execAarm (sl : Slot) (s : State) : Res := slotAlone semAarm sl s

/-- AWAIT. -/
def actAwait (_ : Ctx) (sl : Slot) (s : State) : Except Flt State :=
  match arrivalOpnds sl s with
  | .error f => .error f
  | .ok (a, v) =>
    match s.cur.arrival a with
    | .error k => .error (descFlt .cc k)
    | .ok w =>
      let g := v.extractLsb' 0 16
      if w.reached g then .ok s else .ok (s.request (s.gidOf s.curCell) (.arrival s.curCell a g))
def semAwait : SlotSem := { op8 := 0x41, act := actAwait }
def execAwait (sl : Slot) (s : State) : Res := slotAlone semAwait sl s

/-! ## Phasers (R231, R232) -/

def State.phaser (s : State) (asid : BitVec 10) (n : Nat) : Phaser :=
  (s.phasers.find? fun p => p.asid == asid && decide (p.n = n)).getD ⟨asid, n, 0, [], false⟩
def State.putPhaser (s : State) (p : Phaser) : State :=
  { s with phasers := (s.phasers.filter fun q => !(q.asid == p.asid && decide (q.n = p.n))) ++ [p] }
def phNum (sl : Slot) : Nat := sl.imm32.toNat % 256

/-- PHREG. -/
def actPhreg (c : Ctx) (sl : Slot) (s : State) : Except Flt State := ypReturn c (.phreg (phNum sl)) s
def semPhreg : SlotSem := { op8 := 0x42, act := actPhreg }
def execPhreg (sl : Slot) (s : State) : Res := slotAlone semPhreg sl s

/-- PHDRG. -/
def actPhdrg (c : Ctx) (sl : Slot) (s : State) : Except Flt State := .ok (ypPush c (.phdrg (phNum sl)) [] 3 s)
def semPhdrg : SlotSem := { op8 := 0x43, act := actPhdrg }
def execPhdrg (sl : Slot) (s : State) : Res := slotAlone semPhdrg sl s

/-- The arrival, after every earlier write on any path within PKG (R139). -/
def phArrive (c : Ctx) (sl : Slot) (s : State) : State :=
  ypPush c (.pharv (phNum sl)) (s.covers s.curCell false 0x1F false true) 3 s

/-- PHARV. -/
def actPharv (c : Ctx) (sl : Slot) (s : State) : Except Flt State := .ok (phArrive c sl s)
def semPharv : SlotSem := { op8 := 0x44, act := actPharv }
def execPharv (sl : Slot) (s : State) : Res := slotAlone semPharv sl s

/-- Has the phase v completed (R232)? -/
def phasePassed (phase v : BitVec 32) : Bool := 1 ≤ (phase - v).toNat && (phase - v).toNat < 2 ^ 31

/-- PHWAIT. -/
def actPhwait (_ : Ctx) (sl : Slot) (s : State) : Except Flt State :=
  let r := s.cur.cc
  if r.gtag sl.sa then .error (poisonFlt 2 sl.sa.val false)
  else
    let v := (r.greg sl.sa).extractLsb' 0 32
    let a := (s.gangOf s.curCell).asid
    let p := s.phaser a (phNum sl)
    if p.poisoned then .error (poisonFlt 2 0 false)
    else if phasePassed p.phase v then .ok s
    else .ok (s.request (s.gidOf s.curCell) (.phase a (phNum sl) v))
def semPhwait : SlotSem := { op8 := 0x45, act := actPhwait }
def execPhwait (sl : Slot) (s : State) : Res := slotAlone semPhwait sl s

/-- PHAW: the arrival, and a freeze request that the completion of its phase ends. -/
def actPhaw (c : Ctx) (sl : Slot) (s : State) : Except Flt State :=
  .ok ((phArrive c sl s).request (s.gidOf s.curCell) (.phaw s.curCell s.uid))
def semPhaw : SlotSem := { op8 := 0x46, act := actPhaw }
def execPhaw (sl : Slot) (s : State) : Res := slotAlone semPhaw sl s

/-! ## Atomics (R233, R234) -/

/-- The variable of an atomic: a routing counter, or a location with its tensor and offset; whether its translation
was cached, and the faults of R233. -/
def atomVar (sl : Slot) (s : State) : Except Flt (SyncVar × Bool) :=
  let r := s.cur.cc
  let a := (s.gangOf s.curCell).asid
  let off := (r.greg sl.sa).toNat
  if r.gtag sl.sa then .error (poisonFlt 2 sl.sa.val false)
  else if sl.imm32.getLsbD 13 then
    (if 256 ≤ off then .error (protFlt .cc 10 true) else .ok (.ctr a off, true))
  else
    let tid := sl.imm32.extractLsb' 0 12
    match s.flatByte a tid true off (if sl.sz = 0 then 8 else 4) with
    | .error x => .error (xFlt .cc tid true false 0 x)
    | .ok (p, o) => .ok (.mem (p.addr o), s.cached a tid p.tile)

/-- An atomic at issue: translate, reserve, send on YP; a translation miss freezes (R44, R233, R234). -/
def atomAct (op : AtOp) (c : Ctx) (sl : Slot) (s : State) : Except Flt State :=
  match atomVar sl s with
  | .error f => .error f
  | .ok (v, hit) =>
    let r := s.cur.cc
    let tid := sl.imm32.extractLsb' 0 12
    let off := r.greg sl.sa
    let tag := r.gtag sl.sb || r.gtag sl.dst
    match ypReturn c (.atom op v (sl.sz = 1) (sl.imm32.getLsbD 12) (if r.gtag sl.sb then 0 else r.greg sl.sb)
        (if r.gtag sl.dst then 0 else r.greg sl.dst) tag tid off) s with
    | .error f => .error f
    | .ok t =>
      let u := if hit then t
        else t.request (s.gidOf s.curCell) (.translation s.curCell tid (off.toNat / 65536) true)
      .ok (if tag then u.landAfter c 1 .flags 0 0 2 else u)

/-- ATADD. -/
def actAtadd : Ctx → Slot → State → Except Flt State := atomAct .add
def semAtadd : SlotSem := { op8 := 0x47, act := actAtadd }
def execAtadd (sl : Slot) (s : State) : Res := slotAlone semAtadd sl s

/-- ATINC. -/
def actAtinc : Ctx → Slot → State → Except Flt State := atomAct .inc
def semAtinc : SlotSem := { op8 := 0x48, act := actAtinc }
def execAtinc (sl : Slot) (s : State) : Res := slotAlone semAtinc sl s

/-- ATBADD. -/
def actAtbadd : Ctx → Slot → State → Except Flt State := atomAct .badd
def semAtbadd : SlotSem := { op8 := 0x49, act := actAtbadd }
def execAtbadd (sl : Slot) (s : State) : Res := slotAlone semAtbadd sl s

/-- ATCAS. -/
def actAtcas : Ctx → Slot → State → Except Flt State := atomAct .cas
def semAtcas : SlotSem := { op8 := 0x4A, act := actAtcas }
def execAtcas (sl : Slot) (s : State) : Res := slotAlone semAtcas sl s

/-- ATSWP. -/
def actAtswp : Ctx → Slot → State → Except Flt State := atomAct .swp
def semAtswp : SlotSem := { op8 := 0x4B, act := actAtswp }
def execAtswp (sl : Slot) (s : State) : Res := slotAlone semAtswp sl s

/-- ATMIN. -/
def actAtmin : Ctx → Slot → State → Except Flt State := atomAct .min
def semAtmin : SlotSem := { op8 := 0x4C, act := actAtmin }
def execAtmin (sl : Slot) (s : State) : Res := slotAlone semAtmin sl s

/-- ATMAX. -/
def actAtmax : Ctx → Slot → State → Except Flt State := atomAct .max
def semAtmax : SlotSem := { op8 := 0x4D, act := actAtmax }
def execAtmax (sl : Slot) (s : State) : Res := slotAlone semAtmax sl s

/-- ATAND. -/
def actAtand : Ctx → Slot → State → Except Flt State := atomAct .and
def semAtand : SlotSem := { op8 := 0x4E, act := actAtand }
def execAtand (sl : Slot) (s : State) : Res := slotAlone semAtand sl s

/-- ATOR. -/
def actAtor : Ctx → Slot → State → Except Flt State := atomAct .or
def semAtor : SlotSem := { op8 := 0x4F, act := actAtor }
def execAtor (sl : Slot) (s : State) : Res := slotAlone semAtor sl s

/-- ATXOR. -/
def actAtxor : Ctx → Slot → State → Except Flt State := atomAct .xor
def semAtxor : SlotSem := { op8 := 0x50, act := actAtxor }
def execAtxor (sl : Slot) (s : State) : Res := slotAlone semAtxor sl s

/-- ATSNAP. -/
def actAtsnap : Ctx → Slot → State → Except Flt State := atomAct .snap
def semAtsnap : SlotSem := { op8 := 0x51, act := actAtsnap }
def execAtsnap (sl : Slot) (s : State) : Res := slotAlone semAtsnap sl s

/-! ## YQ (R57, R235) -/

/-- YPOP: the head leaves YQ; its values land at +1, or one cycle after the freeze when it has not arrived. -/
def actYpop (c : Ctx) (sl : Slot) (s : State) : Except Flt State :=
  match s.cur.q.yq with
  | [] => .error (missFlt .cc 8 8 s.segTick)
  | e :: rest =>
    let n := Fin.ofNat 16 sl.imm32.toNat
    let t := s.modCur fun x => { x with q := { x.q with yq := rest, yRet := x.q.yRet ++ [e] } }
    if e.arrived then .ok (t.landAfter c 1 (.ypop sl.dst n e.uid))
    else
      let due := s.now + (s.gangOf s.curCell).dstall
      .ok ((t.request (s.gidOf s.curCell) (.yq s.curCell)).land c (due + s.div) (.ypop sl.dst n e.uid))
def semYpop : SlotSem := { op8 := 0x52, act := actYpop }
def execYpop (sl : Slot) (s : State) : Res := slotAlone semYpop sl s

/-! ## Claim rounds (R236) -/

/-- The cell's part of a Yarrow round; a false predicate counts nothing and receives nothing. -/
def claimPart (c : Ctx) (sl : Slot) (act : Bool) (s : State) : State :=
  let r := s.cur.cc
  let counts := if act then r.b[Fin.ofNat 4 sl.sa.val] else 0
  ypPush c (.yclm (sl.imm32.toNat % 128) (Fin.ofNat 4 sl.dst.val) counts r.b[Fin.ofNat 4 sl.sb.val] act) [] 4 s

/-- YCLM. A poisoned count, or on member 0 a poisoned entry of the ring table, is a poisoned count source (R215, R236); lanes at or beyond n
are ignored. -/
def actYclm (c : Ctx) (sl : Slot) (s : State) : Except Flt State :=
  let r := s.cur.cc
  let bad (v : Fin 4) : Bool := (List.range (sl.imm32.toNat % 128)).any fun k => r.bTag[v].getLsbD (k / 2)
  if bad (Fin.ofNat 4 sl.sa.val) then .error (poisonFlt 2 sl.sa.val true)
  else if (s.gangOf s.curCell).member s.curCell = 0 && bad (Fin.ofNat 4 sl.sb.val) then .error (poisonFlt 2 sl.sb.val true)
  else match reserveYq s with
    | .error f => .error f
    | .ok t => .ok (claimPart c sl true t)
def idleYclm (c : Ctx) (sl : Slot) (s : State) : State := claimPart c sl false s
def semYclm : SlotSem := { op8 := 0x53, act := actYclm, idle := idleYclm }
def execYclm (sl : Slot) (s : State) : Res := slotAlone semYclm sl s

/-! ## FENCE (R132, R133) -/

/-- Bring the covered timed accesses forward to t + 5 (R133). The row reads of a running pass are left at the ticks that R126 gives
them, and later CQ accesses are not kept behind them (log entry 106). -/
def forceCovered (cover : List Cov) (scope : Nat) (s : State) : State :=
  let by_ := s.now + 5
  let has (u : Nat) : Bool := cover.any fun v => v.uid == u
  let t := s.modCur fun x => { x with ord := { x.ord with
    loads := x.ord.loads.map fun l => if has l.uid then { l with by_ := min l.by_ by_ } else l
    stores := x.ord.stores.map fun w => if has w.uid then { w with by_ := min w.by_ by_, fby := some (min (w.fby.getD by_) by_) } else w } }
  { t with fabric := t.fabric.map fun w =>
      if has w.uid && decide (s.scopeOf s.curCell w.loc ≤ scope) then { w with by_ := some (min (w.by_.getD by_) by_) } else w }

/-- FENCE. -/
def actFence (_ : Ctx) (sl : Slot) (s : State) : Except Flt State :=
  let bef := sl.imm32.extractLsb' 0 5
  let aft := sl.imm32.extractLsb' 5 5
  let scope := sl.imm32.toNat / 1024 % 8
  let bare := (s.deltas.filter fun d => d.own && d.cell == s.curCell && pathIn bef d.path).map fun d => (⟨d.uid, false, true, bef⟩ : Cov)
  let cover := s.covers s.curCell true bef true true ++ if sl.imm32.getLsbD 13 then bare else []
  let t := if aft &&& 3 ≠ 0 then forceCovered cover scope s else s
  if aft &&& 0x1C ≠ 0 then
    let h : Hold := ⟨s.uid, s.now, bef, aft, scope, sl.imm32.getLsbD 13, cover⟩
    .ok (t.modCur fun x => { x with ord := { x.ord with holds := x.ord.holds ++ [h] } }).fresh
  else .ok t
def semFence : SlotSem := { op8 := 0x54, act := actFence }
def execFence (sl : Slot) (s : State) : Res := slotAlone semFence sl s

/-! ## Time and divisors (R177, R186, R237) -/

/-- RDTIME: TIME in nanoseconds. -/
def actRdtime (c : Ctx) (sl : Slot) (s : State) : Except Flt State :=
  .ok (gResult c 3 sl.dst (s.clock.time.extractLsb' 16 64) false false s)
def semRdtime : SlotSem := { op8 := 0x56, act := actRdtime }
def execRdtime (sl : Slot) (s : State) : Res := slotAlone semRdtime sl s

/-- WAITT: always a freeze request. -/
def actWaitt (_ : Ctx) (sl : Slot) (s : State) : Except Flt State :=
  if s.cur.cc.gtag sl.sa then .error (poisonFlt 2 sl.sa.val false)
  else .ok (s.request (s.gidOf s.curCell) (.time (s.cur.cc.greg sl.sa)))
def semWaitt : SlotSem := { op8 := 0x57, act := actWaitt }
def execWaitt (sl : Slot) (s : State) : Res := slotAlone semWaitt sl s

/-- The last expansion slot among records of an engine whose first issue precedes a tick, from an offset on. -/
def lookAhead (x : Cell) (gen : Nat) (e : Eng) (cyc before : Nat) : Nat → Nat → Nat → Nat
  | 0, _, m => m
  | fuel + 1, off, m =>
    match x.textAt off with
    | none => m
    | some v =>
      let w := x.behind v
      if isSegeBits w then m
      else if engineOf w.toNat = e then
        let t0 := x.sq.start + stampOf gen w.toNat
        if before ≤ t0 then m
        else
          let n := nestTotal (BitVec.ofNat 64 (widened gen w.toNat / 2 ^ 64))
          lookAhead x gen e cyc before fuel (off + 1) (if w.toNat % 2048 = 0 then max m t0 else max m (t0 + (n - 1) * cyc))
      else lookAhead x gen e cyc before fuel (off + 1) m

/-- Does a record of the engine that begins before the switch tick have an expansion slot at or after it (R177)? -/
def State.straddles (s : State) (e : Eng) (at_ : Nat) : Bool :=
  let x := s.cur
  let q := x.engine e
  let cyc := (match e with
    | .me => 128
    | _ => 1) * q.div
  let running := q.exp.any fun p => decide (at_ ≤ p.t0 + (p.total - 1) * p.step)
  e != .se && (running || match q.pc with
    | some off => decide (at_ ≤ lookAhead x (s.gangOf s.curCell).encgen e cyc at_ (textCap + 1) off 0)
    | none => false)

/-- SETDIV: the divisor and phase base switch two ticks later. -/
def actSetdiv (_ : Ctx) (sl : Slot) (s : State) : Except Flt State :=
  let e := engOf (sl.imm32.toNat % 4)
  if s.straddles e (s.now + 2) then .error (missFlt .cc 11 0 (s.segTick + 2))
  else .ok (s.modCur fun x => { x with sq := { x.sq with switches := x.sq.switches ++
    [⟨s.now + 2, e, sl.imm32.toNat / 4 % 4 + 1⟩] } })
def semSetdiv : SlotSem := { op8 := 0x58, act := actSetdiv }
def execSetdiv (sl : Slot) (s : State) : Res := slotAlone semSetdiv sl s

/-- RDTICK: the schedule counter. -/
def actRdtick (c : Ctx) (sl : Slot) (s : State) : Except Flt State :=
  .ok (gResult c 1 sl.dst (BitVec.ofNat 64 s.now) false false s)
def semRdtick : SlotSem := { op8 := 0x59, act := actRdtick }
def execRdtick (sl : Slot) (s : State) : Res := slotAlone semRdtick sl s

/-! ## System registers (R50, R51, R238) -/

def sysIndex (sl : Slot) : Nat := sl.imm32.toNat % 256

/-- The value a SYSR returns (R19, R50, R51). -/
def sysValue (i : Nat) (s : State) : Word :=
  let x := s.cur
  let g := s.gangOf s.curCell
  let n : Nat := match i with
    | 0 => s.curCell.val
    | 1 => g.member s.curCell + 256 * ((g.cellAt 0).map (·.val)).getD 0
    | 2 => g.size
    | 3 => spanOf g.glog
    | 4 => g.dstall
    | 5 => g.tick
    | 6 => x.sq.segid.toNat
    | 7 => x.cc.slipw
    | 8 => x.cc.spillBase.toNat
    | 9 => x.cc.spillLen
    | 10 => x.cc.cflags.toNat
    | 11 => x.cc.depcnt
    | 12 => g.encgen
    | 13 => s.clock.time.toNat
    | 14 => match x.cc.timeh with
      | some h => h.toNat
      | none => s.clock.time.toNat / 2 ^ 64
    | _ => g.fmin + g.fmax * 65536
  BitVec.ofNat 64 n

/-- SYSR: TIMEL captures TIMEH in the same cycle (R51). -/
def actSysr (c : Ctx) (sl : Slot) (s : State) : Except Flt State :=
  let t := gResult c 2 sl.dst (sysValue (sysIndex sl) s) false false s
  .ok (if sysIndex sl = 13 then
    t.modCur fun x => { x with cc := { x.cc with timeh := some (s.clock.time.extractLsb' 64 16) } } else t)
def semSysr : SlotSem := { op8 := 0x5A, act := actSysr }
def execSysr (sl : Slot) (s : State) : Res := slotAlone semSysr sl s

/-- Is a key spilled, or a register parked outside Crema (R50)? -/
def Cell.spilledOut (x : Cell) : Bool := x.cr.spilled != [] || x.cr.parked.any (fun e => e.2 == .block)

/-- The fates of SYSW (R50). -/
def ruleSysw (sl : Slot) (s : State) : Option Flt :=
  let i := sysIndex sl
  let gen := (s.gangOf s.curCell).encgen
  if i ≤ 6 || 11 ≤ i then some ⟨6, 0, illSynd gen 1 32 0x5B, 0, false, 0⟩
  else if (i = 8 || i = 9) && s.cur.spilledOut then some ⟨5, 0, illSynd gen 1 32 0x5B, 0, false, 0⟩
  else none
/-- SYSW: the write takes place at +1; a poisoned source writes zero. -/
def actSysw (c : Ctx) (sl : Slot) (s : State) : Except Flt State :=
  let r := s.cur.cc
  let tag := r.gtag sl.sa
  .ok (s.landAfter c 1 (.sysw (sysIndex sl) (if tag then 0 else r.greg sl.sa)) 0 0 (psn tag))
def semSysw : SlotSem := { op8 := 0x5B, rule := ruleSysw, act := actSysw }
def execSysw (sl : Slot) (s : State) : Res := slotAlone semSysw sl s

/-! ## Privileged and descriptor operations (R239, R240) -/

def privFlt (s : State) (op8 bit : Nat) : Option Flt :=
  if (s.gangOf s.curCell).asid = 0 then none else some ⟨6, 0, illSynd (s.gangOf s.curCell).encgen 1 bit op8, 0, false, 0⟩

/-- ICINV is privileged (R239). -/
def ruleIcinv (_ : Slot) (s : State) : Option Flt := privFlt s 0x5C 0
/-- ICINV: the gang's text caches at issue + Dstall, every other cell's before its next fetch. -/
def actIcinv (_ : Ctx) (_ : Slot) (s : State) : Except Flt State :=
  let g := s.gidOf s.curCell
  let due := s.now + (s.gang g).dstall
  .ok { s with cells := s.cells.map fun x =>
    if x.gang = g && x.busy then { x with inval := x.inval ++ [some due] } else { x with inval := x.inval ++ [none] } }
def semIcinv : SlotSem := { op8 := 0x5C, rule := ruleIcinv, act := actIcinv }
def execIcinv (sl : Slot) (s : State) : Res := slotAlone semIcinv sl s

/-- The tensor of TDRD and TDWR: (G[SA] + base) mod 4096 (R240). -/
def tdTensor (sl : Slot) (r : Cc) : Except Flt (BitVec 12) :=
  if r.gtag sl.sa then .error (poisonFlt 2 sl.sa.val false)
  else .ok (BitVec.ofNat 12 ((r.greg sl.sa).toNat + sl.imm32.toNat))
def tdWord (sl : Slot) : Nat := sl.imm32.toNat / 4096 % 8

/-- TDRD. -/
def actTdrd (c : Ctx) (sl : Slot) (s : State) : Except Flt State :=
  match tdTensor sl s.cur.cc with
  | .error f => .error f
  | .ok tid => ypReturn c (.tdrd tid (tdWord sl)) s
def semTdrd : SlotSem := { op8 := 0x5D, act := actTdrd }
def execTdrd (sl : Slot) (s : State) : Res := slotAlone semTdrd sl s

/-- A TDWR of word 4 is privileged. -/
def ruleTdwr (sl : Slot) (s : State) : Option Flt := if tdWord sl = 4 then privFlt s 0x5E 44 else none
/-- TDWR. -/
def actTdwr (c : Ctx) (sl : Slot) (s : State) : Except Flt State :=
  let r := s.cur.cc
  match tdTensor sl r with
  | .error f => .error f
  | .ok tid =>
    let tag := r.gtag sl.dst
    let t := ypPush c (.tdwr tid (tdWord sl) (if tag then 0 else r.greg sl.dst)) [] 3 s
    .ok (if tag then t.landAfter c 1 .flags 0 0 2 else t)
def semTdwr : SlotSem := { op8 := 0x5E, rule := ruleTdwr, act := actTdwr }
def execTdwr (sl : Slot) (s : State) : Res := slotAlone semTdwr sl s

end Sys2Proof.Machine
end

