-- ==== Sys2Proof/Machine/Fabric.lean ====
section
/-! DEFINITION. The ordering machine's steps on writes and CQ accesses (R122–R128): draining, performing a write and a
read, adding writes (R294), parity deltas (R91), pages that hold their writes (R88, R92, R93), and the release of a
FENCE (R133). -/

namespace Sys2Proof.Machine

/-! ## Element additions (R294) -/

/-- BF16 elements are widened, added and rounded once. -/
def addBf16 (rm : BitVec 2) (a b : Nat) : Nat × FlagBits :=
  let md : FMode := ⟨rmOf rm, false, false⟩
  roundOnce md (fpAdd md.rm (readFp bf16 false a) (readFp bf16 false b))
where
  roundOnce (md : FMode) (x : Fp × FlagBits) : Nat × FlagBits :=
    let r := roundFp bf16 md x.1
    (r.1, r.2 ||| x.2)

/-- d + s elementwise in a format, on the elements whose bytes the mask names; a poisoned sum holds the canonical NaN or
zero and raises no flag (R121). -/
def addRow (fmt : Nat) (rm : BitVec 2) (mask : BitVec 256) (bad : Bool) (d s : Row) : Row × FlagBits :=
  let md : FMode := ⟨rmOf rm, false, false⟩
  let e := fmtBytes fmt
  let elem (i : Nat) : Nat × FlagBits :=
    let x := fieldOf d.toNat (8 * e * i) (8 * e)
    let y := fieldOf s.toNat (8 * e * i) (8 * e)
    if !mask.getLsbD (e * i) then (x, 0)
    else if bad then (match fmt with
      | 3 => canonNaN bf16
      | 4 => canonNaN fp32
      | _ => 0, 0)
    else match fmt with
      | 3 => addBf16 rm x y
      | 4 => let r := fAdd md (BitVec.ofNat 32 x) (BitVec.ofNat 32 y); (r.1.toNat, r.2)
      | _ => ((x + y) % 2 ^ 32, 0)
  let l := (List.range (256 / e)).map elem
  (BitVec.ofNat 2048 (packNat (8 * e) (fun i => (l.getD i (0, 0)).1) (256 / e)), l.foldl (fun f x => f ||| x.2) 0)

/-- What a write makes of its location. -/
def FWrite.apply (w : FWrite) (old : Row × Bool) : Row × FlagBits :=
  match w.op with
  | .set => (mergeBytes w.bytes old.1 w.v, 0)
  | .add fmt rm => addRow fmt rm w.bytes (w.tag || old.2) old.1 w.v

/-! ## What a read takes (R124, R125) -/

/-- The store's value of a location, with its poison. -/
def State.stored (s : State) : Loc → Row × Bool
  | .sp c r => ((s.cell c).row r, (s.cell c).rowTag r)
  | .hbm b => s.blockRead b
  | .peer _ _ => (0, false)
  | .img id m r =>
    match s.images.find? fun i => decide (i.id = id) with
    | some i => match i.members[m]? with
      | some x => (x.row r, x.rowTag r)
      | none => (0, false)
    | none => (0, false)

/-- The newest value of a location for a cell's path: its own writes in the fabric over the store's value. -/
def State.visible (s : State) (c : CellId) (p : Path) (l : Loc) : Row × Bool :=
  s.fabric.foldl (fun x w =>
    if w.cell = c && w.path = p && w.loc = l then ((w.apply x).1, (x.2 && !(w.op == .set && w.bytes == BitVec.allOnes 256)) || w.tag) else x)
    (s.stored l)

/-- The unprotected writes that a read of a block sees, by the read's number (R134). -/
def State.noteSeen (s : State) (c : CellId) (p : Path) (reader : Nat) : Loc → State
  | .hbm b =>
    let new := (s.deltas.filter fun d => decide (d.blk = b)).map fun d => (p, reader, d.uid)
    if new = [] then s else s.modCell c fun x => { x with ord := { x.ord with seen := x.ord.seen ++ new } }
  | _ => s

/-- The path of a plain access of the stream engine to a location of this device: YP where a sync engine holds a line of the block,
and serves it (R94, R123). -/
def State.plainPath (s : State) : Loc → Path
  | .hbm b => if s.lines.any fun l => decide (l.line / 4 = b) then .yp else .sp
  | _ => .sp

/-! ## Draining into a fabric (R124) -/

/-- A write enters the fabric of the narrowest scope of its location. -/
def State.drainWrite (s : State) (c : CellId) (p : Path) (cmd : Nat) (by_ : Option Nat) (l : Loc) (op : WOp) (v : Row)
    (bytes : BitVec 256) (tag : Bool) : State :=
  let w : FWrite := { uid := s.uid, cell := c, path := p, cmd := cmd, by_ := by_, loc := l, op := op, v := v, bytes := bytes, tag := tag, held := false }
  { s with fabric := s.fabric ++ [w], uid := s.uid + 1 }

/-- A timed write of a row drains into the CELL fabric at this tick, under the number its record gave it (R126). -/
def State.drainTimed (s : State) (c : CellId) (p : Path) (uid : Nat) (by_ : Option Nat) (row : Nat) (v : Row) (tag : Bool) : State :=
  let w : FWrite := { uid := uid, cell := c, path := p, cmd := 0, by_ := by_, loc := .sp c row, op := .set, v := v,
                      bytes := BitVec.allOnes 256, tag := tag, held := false, tick := some (s.gangOf c).tick }
  { s with fabric := s.fabric ++ [w] }

/-- May the head of the CQ store buffer drain: every access before its MARK has been performed (R128)? -/
def Cell.mayDrain (x : Cell) : Bool :=
  match x.ord.stores with
  | w :: _ => !(x.ord.loads.any fun l => decide (l.tick < w.mark))
  | [] => false
/-- May the head of the CQ load buffer be performed? -/
def Cell.mayLoad (x : Cell) : Bool :=
  match x.ord.loads with
  | l :: _ => !(x.ord.stores.any fun w => decide (w.tick < l.mark))
  | [] => false

/-- DRAIN (R124, R126): the head of the CQ store buffer enters the CELL fabric, performed on its path; a row that has been
registered since the store issued is a retention violation of its record (R284). -/
def execDrain (c : CellId) (s : State) : Res :=
  let x := s.cell c
  .next <| match x.ord.stores with
    | [] => s
    | w :: rest =>
      if x.mayDrain then
        let t := s.setCell c { x with ord := { x.ord with stores := rest } }
        match x.windowFlt .cc w.row with
        | some f => t.fault c .cc w.off (s.gangOf c).tick none f
        | none => t.drainTimed c .cq w.uid w.fby w.row w.v w.tag
      else s

/-- The read at the head of the CQ load buffer is performed: it fills its LQ entry, or lands in its B register at +4
(R75, R124, R126). -/
def cqPerform (c : CellId) (s : State) : State :=
  let x := s.cell c
  match x.ord.loads with
  | [] => s
  | l :: rest =>
    if x.mayLoad then
      let (v, tag) := s.visible c .cq (.sp c l.row)
      let x := { x with ord := { x.ord with loads := rest } }
      match l.toB with
      | some n =>
        let d : Land := .b n v (allTags 32 tag)
        s.setCell c { x with flight := x.flight ++ [⟨l.tick + 4 * l.div, l.uid, .cc, l.off, d, 0, 0, 0⟩] }
      | none =>
        let fill (q : List QEntry) : List QEntry :=
          q.map fun e => if e.uid = l.uid then { e with full := true, row := v, tag := tag } else e
        s.setCell c { x with q := { x.q with lq := x.q.lq.map fill } }
    else s

/-! ## Pages whose writes are held (R88, R92, R93) -/

def State.dupOf (s : State) (frame : Nat) : Option Dup := s.dups.find? fun d => decide (d.frame = frame)
/-- Is a write to a frame held: duplicated, migrating before handover, or locked by a layout change? -/
def State.frameHeld (s : State) (frame : Nat) : Bool :=
  (s.dupOf frame).isSome || s.migs.any (fun m => decide (m.frame = frame) && m.home == s.selfdev) || s.lockedFrame frame
/-- The migration of a peer's page that this device carries out, which holds its writes to the page (R93). -/
def State.peerHeld (s : State) (dev : BitVec 12) (frame : Nat) : Bool :=
  dev != s.selfdev && s.migs.any fun m => decide (m.frame = frame) && m.home == dev
/-- The agent of a collapse is firmware in an assisted mode of DUPC (R92, R191). -/
def State.dupByFirmware (s : State) : Bool := fieldOf s.funcmode.toNat 2 2 ≠ 0

/-- Step 1 of a collapse: the invalidations go out to every holder (R92). -/
def State.startCollapse (s : State) (frame writer : Nat) : State :=
  match s.dupOf frame with
  | none => s
  | some d =>
    let put (e : Dup) (t : State) : State := { t with dups := t.dups.map fun x => if x.frame = frame then e else x }
    let w := if writer = 0 || d.waiters.contains writer then d.waiters else d.waiters ++ [writer]
    if d.collapse then put { d with waiters := w } s
    else d.holders.foldl (fun u h => u.emit (.invalidate frame h.1)) (put { d with collapse := true, acks := d.holders, waiters := w } s)
/-- A write to a duplicated page: it joins the collapse, which the agent begins; firmware begins it at its own moment (R92). -/
def State.joinCollapse (s : State) (frame writer : Nat) : State :=
  if s.dupByFirmware && (s.dupOf frame).any (fun d => !d.collapse) then
    { s with dups := s.dups.map fun d => if d.frame = frame && !d.waiters.contains writer then { d with waiters := d.waiters ++ [writer] } else d }
  else s.startCollapse frame writer

/-! ## Performing a write (R91, R124, R125) -/

/-- Could a timed write of the same row that was issued earlier still drain at the tick at which a write drained (R6, R59)? -/
def State.tieAhead (s : State) (w : FWrite) : Bool :=
  let x := s.cell w.cell
  let g := s.gangOf w.cell
  w.tick == some g.tick && !g.frozen && !(w.by_.any (· ≤ g.tick)) && match w.loc with
    | .sp _ r => x.ord.stores.any (fun q => q.row = r && decide (q.uid < w.uid)) ||
      x.flight.any (fun l => decide (l.due ≤ g.tick ∧ l.seq < w.uid) && match l.dst with
        | .sp k _ _ => k = r
        | _ => false)
    | _ => false
/-- Earlier writes of the same cell and path to the same location come first, but on NP; timed writes of one row that drained at one
tick come in the order of their issue (R6, R59, R125). -/
def State.firstOfLoc (s : State) (w : FWrite) : Bool :=
  let rivals := s.fabric.filter fun x => decide (x.cell = w.cell) && decide (x.loc = w.loc) && x.src.isNone
  w.path = .np ||
  ((match rivals.find? fun x => x.path == w.path with
    | some x => x.uid = w.uid
    | none => true) &&
   !(rivals.any fun x => x.tick.isSome && x.tick == w.tick && decide (x.uid < w.uid)) && !s.tieAhead w)

/-- The sticky flags of SESTAT (R289). -/
def Cell.seFlags (x : Cell) (f : FlagBits) : Cell :=
  { x with se := { x.se with sestat := x.se.sestat ||| f.zeroExtend 64 } }

/-- The blocks of the span of data chunks of the stripe that holds a block (R91). -/
def Layout.stripeBlocks (l : Layout) (blk : Nat) : List Nat :=
  let n := 8 * (if l.eleven (blk / 8) then 10 else 11)
  (List.range n).map (blk / n * n + ·)
/-- The blocks that a command writes whole through its tensor operand: every byte of them is an element it names (R91). -/
def SeCmd.wholeBlocks (m : SeCmd) (s : State) (c : CellId) (of : List Nat) : Bool :=
  match useDesc s c m.rel true m.o0 with
  | .error _ => false
  | .ok d =>
    let bytes := ((namedElems s c m true m.o0 d).filterMap fun x => match s.element (s.gangOf c).asid m.o0.tid d true x with
      | .ok (some (p, off)) => if p.dev = s.selfdev then some (p.addr off) else none
      | _ => none).dedup
    of.all fun b => decide ((bytes.filter fun a => decide (a / 256 = b)).length * fmtBytes d.fmt = 256)
/-- Is a write part of a full-stripe write of one SE command: it sets a whole block, and its command writes the whole aligned span of
its stripe (R91)? -/
def State.fullStripe (s : State) (w : FWrite) (blk : Nat) : Bool :=
  w.op = .set && w.bytes = BitVec.allOnes 256 && w.src.isNone &&
  match (s.cell w.cell).se.queue.find? fun m => decide (m.uid = w.cmd) with
  | some m => m.wholeBlocks s w.cell (s.layout.stripeBlocks blk)
  | none => false
/-- The delta of a performed write to device memory. -/
def State.addDelta (s : State) (w : FWrite) (blk : Nat) : State :=
  s.queueDelta { uid := w.uid, cmd := w.cmd, cell := w.cell, asid := (s.gangOf w.cell).asid, blk := blk, parity := 0, own := w.src.isNone, path := w.path,
                 full := s.fullStripe w blk }
/-- Flags of an addition: to the issuing cell's SESTAT, or to the frame of the peer that asked for it (R289, R294). -/
def State.writeFlags (s : State) (w : FWrite) (f : FlagBits) : State :=
  match w.src with
  | none => s.modCell w.cell (·.seFlags f)
  | some (dev, fid) => { s with inbound := s.inbound.map fun (i : Inbound) =>
      if i.frame.dev = dev ∧ i.frame.fid = fid then { i with flags := i.flags ||| f } else i }

/-- Blocks of a member's image (R164). -/
def memberBlocks : Nat := 33408
def crcDone (c : BitVec 32) : Nat := (c ^^^ 0xFFFFFFFF).toNat
/-- CRC-32C of a member's image (R166). -/
def memberCrc (r : Rows) (m : Nat) : Nat :=
  crcDone ((List.range memberBlocks).foldl (fun c b => crcNat c (assocGet 0 r (256 + memberBlocks * m + b)).toNat 256) 0xFFFFFFFF)
/-- CRC-32C of header bytes 0 to 65,471. -/
def headerCrc (r : Rows) : Nat :=
  crcDone ((List.range 256).foldl (fun c b => crcNat c (assocGet 0 r b).toNat (if b = 255 then 192 else 256)) 0xFFFFFFFF)
/-- The commit record lies in the last 64 bytes of header block 255 (R166). -/
def commitRegion (r : Rows) (savecnt : Nat) : Rows :=
  let rec_ := 0x0054494D4D4F43 + headerCrc r * 2 ^ 64 + savecnt % 2 ^ 64 * 2 ^ 128
  assocPut 0 r 255 (BitVec.ofNat 2048 (rec_ * 2 ^ (8 * 192)))
/-- The checksum of a member stands in the header (R166). -/
def putMemberCrc (r : Rows) (m : Nat) : Rows :=
  let b := (128 + 4 * m) / 256
  assocPut 0 r b (BitVec.ofNat 2048 (putField (assocGet 0 r b).toNat (8 * ((128 + 4 * m) % 256)) 32 (memberCrc r m)))

/-- A member of a saved context after a change of one of its scratchpad rows, which its region holds in place (R164,
R168); the checksums follow (R166). -/
def Image.setRow (i : Image) (m r : Nat) (f : Cell → Cell) : Image :=
  let ms := i.members.mapIdx fun k x => if k = m then f x else x
  match ms[m]? with
  | none => i
  | some x =>
    let b := 256 + memberBlocks * m + r
    let rows := putMemberCrc (assocPut 0 i.blocks b (x.row r)) m
    { i with members := ms, blocks := commitRegion rows i.gang.savecnt, marks := markPut i.marks b (x.rowTag r) }

/-- A write reaches the store. -/
def State.performWrite (s : State) (w : FWrite) : State :=
  let s := { s with fabric := s.fabric.filter fun x => decide (x.uid ≠ w.uid) }
  match w.loc with
  | .sp c r =>
    let x := s.cell c
    let (v, f) := w.apply (x.row r, x.rowTag r)
    let whole := w.op = .set && w.bytes = BitVec.allOnes 256
    (s.setCell c (x.putRow r v (w.tag || (x.rowTag r && !whole)))).writeFlags w f
  | .hbm b =>
    let old := s.blockRead b
    let (v, f) := w.apply old
    let mask := match w.op with
      | .set => w.bytes
      | .add _ _ => BitVec.allOnes 256
    ((s.blockWrite b v mask (w.tag || (w.op != .set && old.2))).addDelta w b).writeFlags w f
  | .img id m r =>
    let f (x : Cell) : Cell :=
      x.putRow r (w.apply (x.row r, x.rowTag r)).1 (w.tag || (x.rowTag r && !(w.op == .set && w.bytes == BitVec.allOnes 256)))
    { s with images := s.images.map fun i => if i.id = id then i.setRow m r f else i }
  | .peer _ _ => s

/-- The writes for an image are performed in the order of their arrival (R168). -/
def State.firstOfImage (s : State) (id : Nat) (w : FWrite) : Bool :=
  (s.fabric.find? fun x => match x.loc with
    | .img k _ _ => decide (k = id)
    | _ => false).all fun x => x.uid = w.uid

/-- A write that its page holds waits; a duplicated page collapses (R92, R93). A write into an image waits for its commit
record (R168). -/
def State.tryWrite (s : State) (w : FWrite) : State :=
  match w.loc with
  | .hbm b =>
    if s.frameHeld (b / 256) then
      let t := { s with fabric := s.fabric.map fun x => if x.uid = w.uid then { x with held := true } else x }
      if w.held then t else t.joinCollapse (b / 256) w.uid
    else s.performWrite w
  | .img id _ _ => if (s.images.any fun i => i.id = id && !i.committed) || !s.firstOfImage id w then s else s.performWrite w
  | _ => s.performWrite w

/-- PERFORM_A_WRITE (R124): a write in a fabric reaches the store. -/
def execPerformAWrite (uid : Nat) (s : State) : Res :=
  .next <| match s.fabric.find? fun w => decide (w.uid = uid) with
    | none => s
    | some w => if s.firstOfLoc w then s.tryWrite w else s

/-- A new stripe of the change to eleven stacks has parity once its last chunk lies below the watermark (R88). -/
def Layout.hasParity (l : Layout) (parity : Nat) : Bool :=
  !(l.moving && l.change = 2 && decide (2 ^ 40 ≤ parity)) || decide ((10 * (parity - 2 ^ 40) + 10) * 2048 ≤ l.wmark)
/-- Do two deltas belong to one full-stripe write? -/
def Delta.sameStripe (d e : Delta) : Bool := e.full && decide (e.cmd = d.cmd ∧ e.parity = d.parity)
/-- The oldest work of a parity port on a chunk: a delta, or the parity of a full-stripe write once the whole stripe has been
performed, which is then written directly (R91). What a command that stopped or ended short of the stripe has written has deltas. -/
def State.applyDelta (s : State) (d : Delta) : State :=
  if d.full then
    let mine := s.deltas.filter d.sameStripe
    let goesOn := (s.cell d.cell).se.queue.any fun m => decide (m.uid = d.cmd) && (m.phase = .running || m.phase = .ending)
    if goesOn && decide ((mine.map (·.blk)).dedup.length < (s.layout.stripeBlocks d.blk).length) then s
    else { s with deltas := s.deltas.filter fun e => !d.sameStripe e }
  else { s with deltas := s.deltas.filter fun e => decide (e.uid ≠ d.uid || e.blk ≠ d.blk) }
/-- PARITY_DELTA_APPLY (R91): the parity port applies the oldest delta queued for a parity chunk. -/
def execParityDeltaApply (parityChunk : Nat) (s : State) : Res :=
  .next <| match s.deltas.find? fun d => decide (d.parity = parityChunk) with
    | none => s
    | some d => if !s.layout.hasParity parityChunk then s else s.applyDelta d

/-- The cell that holds a FENCE. -/
def State.holderOf (s : State) (uid : Nat) : Option CellId :=
  (List.finRange 128).find? fun c => (s.cell c).ord.holds.any fun h => decide (h.uid = uid)

/-- RELEASE (R124, R133): a FENCE whose covered accesses are performed, and protected where it asks, stops holding. -/
def execRelease (uid : Nat) (s : State) : Res :=
  .next <| match s.holderOf uid with
    | none => s
    | some c =>
      let x := s.cell c
      match x.ord.holds.find? fun h => decide (h.uid = uid) with
      | none => s
      | some h =>
        if s.holds c h then s
        else s.setCell c { x with ord := { x.ord with holds := x.ord.holds.filter fun k => decide (k.uid ≠ uid) } }

end Sys2Proof.Machine
end

