-- ==== Sys2Proof/Machine/SyncPerform.lean ====
section
/-! DEFINITION. What the operations of path YP do when they are performed: ring, stage and arrival updates (R62–R65,
R135–R137), descriptor words (R240), atomics (R93–R95, R234, R373), phasers (R231, R232), Yarrow's claim rounds (R236)
and the returns to YQ (R57). -/

namespace Sys2Proof.Machine

/-! ## Which operation may be performed -/

/-- Do two operations work on one variable, so that their order of issue holds (R95, R140)? -/
def sameTarget : YKind → YKind → Bool
  | .atom _ v _ _ _ _ _ _ _, .atom _ w _ _ _ _ _ _ _ => v == w
  | .tdrd t w, .tdwr u x _ | .tdwr t w _, .tdrd u x | .tdwr t w _, .tdwr u x _ => t == u && w == x
  | a, b => match ringLoc a, ringLoc b, phaserOf a, phaserOf b with
    | some l, some m, _, _ => l == m
    | _, _, some p, some q => p == q
    | _, _, _, _ => false
where
  ringLoc : YKind → Option Nat
    | .tail l _ | .head l _ | .claim l _ | .stat l | .srel l _ _ _ | .xtail _ _ l _ => some (64 * l)
    | .aarm a _ | .aset a _ => some (a + 1)
    | _ => none
  phaserOf : YKind → Option Nat
    | .phreg n | .phdrg n | .pharv n => some n
    | _ => none

def TaskRef.runs (t : TaskRef) (g : Gang) : Bool := g.graph = t.graph && g.node = t.node && g.inst = t.inst
/-- An advance in a context that is being saved waits for the commit record (R168). -/
def State.awaitsImage (s : State) (k : YKind) : Bool :=
  match k with
  | .xtail _ (some t) _ _ => s.images.any fun i => t.runs i.gang && i.active && !i.committed
  | _ => false
/-- The variable and the page of an atomic at a location of memory. -/
def memTarget : YKind → Option (Nat × BitVec 12 × Word × Bool)
  | .atom _ (.mem a) w32 _ _ _ _ tid off => some (a, tid, off, w32)
  | _ => none
/-- The present translation of a variable, from memory and not from a cache. -/
def State.freshVar (s : State) (c : CellId) (tid : BitVec 12) (off w : Nat) : Except XFlt (Page × Nat) :=
  { s with descs := [], leaves := [] }.flatByte (s.gangOf c).asid tid true off w
/-- Do two atomics of a cell work on one variable though its page has moved between them (R140)? -/
def State.sameVariable (s : State) (c : CellId) (a b : YKind) : Bool :=
  match memTarget a, memTarget b with
  | some (_, t, x, w), some (_, u, y, v) =>
    (t == u && x == y) || (match s.freshVar c t x.toNat (if w then 4 else 8), s.freshVar c u y.toNat (if v then 4 else 8) with
      | .ok p, .ok q => decide (p.1.addr p.2 = q.1.addr q.2) && p.1.dev == q.1.dev
      | _, _ => false)
  | _, _ => false
/-- Do two atomics work on one page? -/
def samePage (a b : YKind) : Bool :=
  match memTarget a, memTarget b with
  | some (x, t, u, _), some (y, v, w, _) => x / 65536 = y / 65536 || (t == v && u.toNat / 65536 = w.toNat / 65536)
  | _, _ => false
/-- Does the sync engine of the cell's die hold an atomic behind an earlier one of its page that came back MOVED and is not yet
performed (R93)? -/
def State.behindMoved (s : State) (c : CellId) (op : YOp) : Bool :=
  (memTarget op.kind).isSome &&
  (s.moved.any (fun m => dieOf m.1 = dieOf c && decide (m.2.uid < op.uid) && samePage m.2.kind op.kind) ||
   (List.finRange 128).any fun d => dieOf d = dieOf c && (s.cell d).ord.yp.any fun o => o.again && decide (o.uid < op.uid) && samePage o.kind op.kind)
/-- The frame that a descriptor read of TDRD reaches, which may be locked (R88). -/
def State.descLocked (s : State) (c : CellId) : YKind → Bool
  | .tdrd tid _ => (s.descAddr (s.gangOf c).asid tid).any fun a => s.lockedFrame (a / 65536)
  | _ => false
/-- An operation of a cell's YP buffer is ready: no earlier FENCE holds it, its covered accesses are performed, no earlier
operation on its variable waits, and no frame it reaches is locked (R88, R133, R135–R140). -/
def State.ypReady (s : State) (c : CellId) (op : YOp) : Bool :=
  let x := s.cell c
  !(x.ord.holds.any fun h => decide (h.uid < op.uid) && h.aft.getLsbD 3) &&
  !(op.cover.any (s.pending c op.scope)) &&
  !s.awaitsImage op.kind &&
  !(x.ord.yp.any fun o => decide (o.uid < op.uid) && (sameTarget o.kind op.kind || s.sameVariable c o.kind op.kind)) &&
  !(s.moved.any fun m => m.1 == c && sameTarget m.2.kind op.kind) &&
  !s.behindMoved c op && !s.descLocked c op.kind

def Cell.ypOp (x : Cell) (uid : Nat) : Option YOp := x.ord.yp.find? fun o => decide (o.uid = uid)
def State.dropYp (s : State) (c : CellId) (uid : Nat) : State :=
  s.modCell c fun x => { x with ord := { x.ord with yp := x.ord.yp.filter fun o => decide (o.uid ≠ uid) } }

/-- A performed operation's return: data, status and poison, and a claim round's row (R57). -/
def State.yqReturn (s : State) (c : CellId) (uid : Nat) (v : Word) (st tag : Bool) (claim : Option (Fin 4 × Row) := none) :
    State :=
  let fill (e : YEntry) : YEntry :=
    if e.uid = uid then { e with performed := true, data := v, st := st, tag := tag, claim := claim } else e
  s.modCell c fun x => { x with q := { x.q with yq := x.q.yq.map fill, yRet := x.q.yRet.map fill } }

/-- A fault found when an operation is performed (R354). -/
def State.ypFault (s : State) (c : CellId) (op : YOp) (f : Flt) : State :=
  let f := if op.eng = .se then { f with unit := 3, synd := f.synd + 128 + op.rel % 2 ^ 32 * 2 ^ 32 } else f
  let t := s.fault c op.eng op.off (s.gangOf c).tick none { f with slot := op.slot }
  let keep (p : PFault) : PFault := if p.id = s.uid then { p with yop := some op } else p
  t.modGang (s.gidOf c) fun g => { g with faults := g.faults.map keep }

/-! ## Other cells (R168, R293) -/

/-- The context placed on a cell. -/
def State.taskOn (s : State) (c : CellId) : Option TaskRef :=
  let g := s.gangOf c
  if (s.cell c).busy && g.status != .idle && g.status != .killed then some ⟨g.graph, g.node, g.inst, g.member c⟩ else none

/-- A row of the context that was placed on another cell at release: in the cell it runs on, or in its image; none
where the context has another ASID, has ended, or was absent (R293). -/
def State.rowOf (s : State) (asid : BitVec 10) (t : Option TaskRef) (row : Nat) : Option Loc :=
  match t with
  | none => none
  | some t =>
    match s.images.find? fun i => t.runs i.gang && i.active with
    | some i => if i.gang.asid = asid then some (.img i.id t.member row) else none
    | none =>
      match s.gangs.toList.find? fun g => t.runs g && g.status != .idle && g.status != .killed with
      | some g => if g.asid = asid then (g.cellAt t.member).map (.sp · row) else none
      | none => none

/-- The cell's stored state behind a row, running or saved. -/
def State.holder (s : State) : Loc → Option Cell
  | .sp c _ => some (s.cell c)
  | .img id m _ => (s.images.find? fun i => decide (i.id = id)).bind fun i => i.members[m]?
  | _ => none
def State.modHolder (s : State) (l : Loc) (f : Cell → Cell) : State :=
  match l with
  | .sp c _ => s.modCell c f
  | .img id m r => { s with images := s.images.map fun i => if i.id = id then i.setRow m r f else i }
  | _ => s

/-- RADVX.X: the tail of a ring of another cell (R313). -/
def farTail (c : CellId) (t : Option TaskRef) (loc m : Nat) (s : State) : Except Flt State :=
  if spRows ≤ loc / 4 then .error (protFlt .se 7 true)
  else match s.rowOf (s.gangOf c).asid t (loc / 4) with
    | none => .error (protFlt .se 13 true)
    | some l =>
      match s.holder l with
      | none => .error (protFlt .se 13 true)
      | some x => match x.rcb loc with
        | .error k => .error (descFlt .se k)
        | .ok r =>
          if r.stage then .error (protFlt .se 8 true)
          else match r.advTail (BitVec.ofNat 32 m) with
          | none => .error (protFlt .se 8 true)
          | some r' => .ok (s.modHolder l fun x => x.putCounts loc r')

/-! ## Ring, stage, arrival and descriptor operations -/

/-- A count operation on the RCB in the store. -/
def ringUpdate (c : CellId) (op : YOp) (loc : Nat) (f : Rcb → Option Rcb) (s : State) : Except Flt State :=
  if spRows ≤ loc / 4 then .error (protFlt .cc 7 true) else
  match (s.cell c).rcb loc with
  | .error k => .error (descFlt .cc k)
  | .ok r =>
    if r.stage then .error (protFlt .cc 8 true)
    else match f r with
      | none => .error (protFlt .cc 8 true)
      | some r' => .ok ((s.modCell c fun x => x.putCounts loc r').yqReturn c op.uid (r.claimed.zeroExtend 64) true false)

/-- The effect of a ring, stage, arrival or descriptor operation when performed; none for the other kinds. -/
def rmwEffect (c : CellId) (op : YOp) (s : State) : Option (Except Flt State) :=
  let x := s.cell c
  match op.kind with
  | .tail loc m => some (ringUpdate c op loc (·.advTail (BitVec.ofNat 32 m)) s)
  | .head loc m => some (ringUpdate c op loc (·.advHead (BitVec.ofNat 32 m)) s)
  | .claim loc m => some (ringUpdate c op loc (·.claim (BitVec.ofNat 32 m)) s)
  | .stat loc => some <| match x.rcb loc with
    | .error k => .error (descFlt .cc k)
    | .ok r => .ok (s.yqReturn c op.uid (r.freeCount ++ (r.tail - r.head)) true false)
  | .srel loc e from_ to_ => some <| match x.rcb loc with
    | .error k => .error (descFlt .cc k)
    | .ok r =>
      if !r.stage || r.depth ≤ e || r.owner e ≠ from_ then .error (protFlt .cc 8 true)
      else
        let v := (!r.full e).toNat + 2 * to_
        let w := fieldOf (x.row (loc / 4)).toNat (512 * (loc % 4)) 512
        .ok (s.setCell c (x.putQuarter loc (putField w (192 + 4 * e) 4 v)))
  | .aarm addr v => some <| match x.arrival addr with
    | .error k => .error (descFlt .cc k)
    | .ok a => .ok (s.setCell c (x.putArrival addr { a with target := v.toNat, armed := true }.settle))
  | .xtail _ t loc m => some (farTail c t loc m s)
  | .aset addr g => some <| match x.arrival addr with
    | .error k => .error (descFlt .cc k)
    | .ok a => .ok (s.setCell c (x.putArrival addr { a with count := 0, gen := g, armed := false }))
  | .tdrd tid w =>
    let v := match (s.descs.find? fun d => d.asid == (s.gangOf c).asid && d.tid == tid) with
      | some d => d.bits.toNat
      | none => (s.descWord (s.gangOf c).asid tid).getD 0
    let seen := match s.descAddr (s.gangOf c).asid tid with
      | some a => s.noteSeen c .yp op.uid (.hbm (a / 256))
      | none => s
    some (.ok (seen.yqReturn c op.uid (BitVec.ofNat 64 (v / 2 ^ (64 * w))) true false))
  | .tdwr tid w v => some <| match s.descAddr (s.gangOf c).asid tid with
    | none => .error (xFlt .cc tid true false 0 ⟨0x0C, 0, 0, 0⟩)
    | some a => .ok (s.drainWrite c .yp op.uid none (.hbm ((a + 8 * w) / 256)) .set
        (BitVec.ofNat 2048 (v.toNat * 2 ^ (8 * ((a + 8 * w) % 256)))) (BitVec.ofNat 256 (255 * 2 ^ ((a + 8 * w) % 256))) false)
  | _ => none

/-- PERFORM_A_READ_MODIFY_WRITE (R65, R124): a ring, stage, arrival or descriptor operation in one step at its home. -/
def execPerformARmw (c : CellId) (uid : Nat) (s : State) : Res :=
  .next <| match (s.cell c).ypOp uid with
    | none => s
    | some op =>
      if s.ypReady c op then
        match rmwEffect c op s with
        | none => s
        | some (.ok t) => t.dropYp c uid
        | some (.error f) => (s.dropYp c uid).ypFault c op f
      else s

/-! ## Atomics (R93–R95, R234) -/

/-- The new value and st of an atomic on w bits (R234). -/
def atomStep (op : AtOp) (w : Nat) (sgn : Bool) (old v x : Nat) : Nat × Bool :=
  let less (a b : Nat) : Bool := if sgn then signedOf w a < signedOf w b else a < b
  match op with
  | .add => ((old + v) % 2 ^ w, true)
  | .inc => (if v ≤ old then 0 else old + 1, true)
  | .badd => if old ≤ x && v ≤ x - old then (old + v, true) else (old, false)
  | .cas => if old = x then (v, true) else (old, false)
  | .swp => (v, true)
  | .min => (if less v old then v else old, true)
  | .max => (if less old v then v else old, true)
  | .and => (old &&& v, true)
  | .or => (old ||| v, true)
  | .xor => (old ^^^ v, true)
  | .snap => (0, true)

def State.counter (s : State) (asid : BitVec 10) (n : Nat) : Word × Bool :=
  match s.ctrs.find? fun k => k.asid == asid && decide (k.n = n) with
  | some k => (k.v, k.tag)
  | none => (0, false)
def State.putCounter (s : State) (asid : BitVec 10) (n : Nat) (v : Word) (tag : Bool) : State :=
  let rest := s.ctrs.filter fun k => !(k.asid == asid && decide (k.n = n))
  { s with ctrs := if v = 0 && !tag then rest else rest ++ [⟨asid, n, v, tag⟩] }

/-- A variable's old value and poison at its home; a location is brought into the engine's SRAM. -/
def State.syncRead (s : State) (die : Fin 2) (v : SyncVar) (w : Nat) : State × Nat × Bool :=
  match v with
  | .ctr a n => (s, (s.counter a n).1.toNat, (s.counter a n).2)
  | .mem a =>
    let t := s.takeLine die a
    let r := t.lineRead a (w / 8)
    (t, r.1, r.2)
def State.syncWrite (s : State) (v : SyncVar) (w x : Nat) (tag : Bool) : State :=
  match v with
  | .ctr a n => s.putCounter a n (BitVec.ofNat 64 x) tag
  | .mem a => s.lineWrite a (w / 8) x tag

/-- An atomic at its home (R234, R373): answers the old value, st and poison with the new state. -/
def State.atomPerform (s : State) (die : Fin 2) (op : AtOp) (v : SyncVar) (w32 sgn : Bool) (val x : Word) (tag : Bool) :
    State × Word × Bool × Bool :=
  let w := if w32 then 32 else 64
  let (t, old, bad) := s.syncRead die v w
  let isCtr := match v with
    | .ctr _ _ => true
    | .mem _ => false
  if bad then
    if op = .swp then (t.syncWrite v w (val.toNat % 2 ^ w) tag, 0, true, true)
    else if op = .snap && isCtr then (t.syncWrite v w 0 false, 0, false, true)
    else (t, 0, false, true)
  else
    let r := atomStep op w sgn old (val.toNat % 2 ^ w) (x.toNat % 2 ^ w)
    if tag then (t.syncWrite v w 0 true, BitVec.ofNat 64 old, r.2, false)
    else (t.syncWrite v w r.1 false, BitVec.ofNat 64 old, r.2, false)

/-- The return of an atomic that a CSNAP made joins its command's data (R307). -/
def State.seReturn (s : State) (c : CellId) (uid : Nat) (v : Word) (tag : Bool) : State :=
  s.modCell c fun x => { x with se := { x.se with queue := x.se.queue.map fun (m : SeCmd) =>
    if m.uid = uid && m.op = 0x15 then { m with data := m.data ++ [(v.zeroExtend 2048, tag)] } else m } }

/-- ATOMIC_PERFORM (R95, R234): performed once at the home; an atomic whose page has moved is not performed and
returns MOVED (R93); a write to a duplicated page waits for its collapse (R92). -/
def execAtomicPerform (c : CellId) (uid : Nat) (s : State) : Res :=
  .next <| match (s.cell c).ypOp uid with
    | none => s
    | some op =>
      if !s.ypReady c op then s
      else match op.kind with
      | .atom o v w32 sgn val x tag tid off =>
        let done (u : State) (die : Fin 2) : State :=
          let (t, old, st, bad) := u.atomPerform die o v w32 sgn val x tag
          ((t.yqReturn c uid (if bad then 0 else old) st bad).seReturn c uid (if bad then 0 else old) bad).dropYp c uid
        match v with
        | .ctr _ n => done s (Fin.ofNat 2 (homeOf n))
        | .mem a =>
          let seen := s.noteSeen c .yp uid (.hbm (a / 256))
          match s.freshVar c tid off.toNat (if w32 then 4 else 8) with
          | .error _ => done seen 0
          | .ok (p, o2) =>
            if s.lockedFrame p.frame || s.migs.any (fun m => decide (m.frame = p.frame) && m.home == s.selfdev && m.sealed_) then s
            else if p.addr o2 ≠ a then { s.dropYp c uid with moved := s.moved ++ [(c, op)] }
            else if (s.dupOf p.frame).isSome then s.joinCollapse p.frame uid
            else done seen (Fin.ofNat 2 p.die)
      | _ => s

/-- MOVED_REISSUE (R93, R384): the requesting engine re-translates and reissues the atomic to the new home. -/
def execMovedReissue (c : CellId) (uid : Nat) (s : State) : Res :=
  .next <| match s.moved.find? fun m => m.1 == c && decide (m.2.uid = uid) with
    | none => s
    | some (_, op) =>
      let t := { s with moved := s.moved.filter fun m => decide (m.2.uid ≠ uid) }
      match op.kind with
      | .atom o _ w32 sgn val x tag tid off =>
        match s.freshVar c tid off.toNat (if w32 then 4 else 8) with
        | .error e => t.ypFault c op (xFlt .cc tid true false 0 e)
        | .ok (p, o2) =>
          let op' := { op with kind := .atom o (.mem (p.addr o2)) w32 sgn val x tag tid off, again := true }
          t.modCell c fun y => { y with ord := { y.ord with yp := op' :: y.ord.yp } }
      | _ => t

/-! ## Phasers (R231, R232) -/

/-- Complete the phase when parties are registered and all lead (R231). -/
def Phaser.settle (p : Phaser) : Phaser :=
  if p.parties ≠ [] && p.parties.all (·.2) then
    { p with phase := p.phase + 1, parties := p.parties.map fun e => (e.1, false) }
  else p

/-- PHASER_PERFORM (R231, R232, R373). -/
def execPhaserPerform (c : CellId) (uid : Nat) (s : State) : Res :=
  .next <| match (s.cell c).ypOp uid with
    | none => s
    | some op =>
      if !s.ypReady c op then s
      else
        let a := (s.gangOf c).asid
        let t := s.dropYp c uid
        match op.kind with
        | .phreg n =>
          let p := s.phaser a n
          if p.poisoned then t.ypFault c op (poisonFlt 2 0 false)
          else
            let q := if p.parties.any (·.1 == c) then p else { p with parties := p.parties ++ [(c, false)] }
            (t.putPhaser q).yqReturn c uid (p.phase.zeroExtend 64) true false
        | .phdrg n =>
          let p := s.phaser a n
          if p.poisoned then t.ypFault c op (poisonFlt 2 0 false)
          else if p.parties.any (·.1 == c) then
            t.putPhaser { p with parties := p.parties.filter (·.1 != c) }.settle
          else t
        | .pharv n =>
          let p := s.phaser a n
          if p.poisoned then t.ypFault c op (poisonFlt 2 0 false)
          else if p.parties.any (fun e => e.1 == c && !e.2) then
            let q := { p with parties := p.parties.map fun (e : CellId × Bool) => if e.1 = c then (e.1, true) else e }.settle
            let await (r : Req) : Req := if r.cond = .phaw c uid then { r with cond := .phase a n p.phase } else r
            (t.putPhaser q).modGang (s.gidOf c) fun g => { g with reqs := g.reqs.map await }
          else t.ypFault c op (protFlt .cc 8 true)
        | _ => s

/-! ## Yarrow (R236) -/

/-- The members' parts of a round issued at a tick, in member order, when every member's part has arrived and is ready. -/
def State.roundParts (s : State) (g : GangId) (tick : Nat) : Option (List (CellId × YOp)) :=
  (s.gang g).cells.mapM fun c =>
    match (s.cell c).ord.yp.find? fun o => decide (o.tick = tick) && (match o.kind with
      | .yclm _ _ _ _ _ => true
      | _ => false) with
    | some op => if s.ypReady c op then some (c, op) else none
    | none => none

def roundCounts : YOp → Row
  | ⟨_, _, _, _, .yclm _ _ counts _ _, _, _, _, _, _⟩ => counts
  | _ => 0

/-- Lane k of a round: the claim of the members' total on the ring the table names, and the ring's CLAIMED before. -/
def claimLane (g : Gang) (parts : List (CellId × YOp)) (table : Row) (k : Nat) (s : State) : Except Flt (State × BitVec 32) :=
  let e := lane table k
  let loc := e.toNat % 2 ^ 17
  let m := e.toNat / 2 ^ 17 % 128
  let total := (parts.map fun p => (lane (roundCounts p.2) k).toNat).sum
  if e.toNat / 2 ^ 24 ≠ 0 || g.size ≤ m then .error (protFlt .cc 8 true)
  else if spRows ≤ loc / 4 then .error (protFlt .cc 7 true)
  else match g.cellAt m with
    | none => .error (protFlt .cc 8 true)
    | some d =>
      match (s.cell d).rcb loc with
      | .error c => .error (descFlt .cc c)
      | .ok r =>
        if r.stage || r.depth < total then .error (protFlt .cc 8 true)
        else match r.claim (BitVec.ofNat 32 total) with
          | none => .error (protFlt .cc 8 true)
          | some r' => .ok (s.modCell d fun x => x.putCounts loc r', r.claimed)

/-- The claims of lanes k to n − 1, with the old CLAIMED of each. -/
def claimLanes (g : Gang) (parts : List (CellId × YOp)) (table : Row) : Nat → Nat → State → Except Flt (State × List (BitVec 32))
  | 0, _, s => .ok (s, [])
  | n + 1, k, s =>
    match claimLane g parts table k s with
    | .error f => .error f
    | .ok (t, c) => (claimLanes g parts table n (k + 1) t).map fun r => (r.1, c :: r.2)

/-- YARROW_ROUND (R236). A ring-bound fault faults every member and makes no claim. -/
def execYarrowRound (g : GangId) (tick : Nat) (s : State) : Res :=
  let gg := s.gang g
  .next <| match s.roundParts g tick with
    | none => s
    | some [] => s
    | some ((c0, op0) :: rest) =>
      let parts := (c0, op0) :: rest
      let drop (u : State) : State := parts.foldl (fun u p => u.dropYp p.1 p.2.uid) u
      match op0.kind with
      | .yclm n _ _ table _ =>
        match claimLanes gg parts table n 0 s with
        | .error f => parts.foldl (fun u p => u.ypFault p.1 p.2 f) (drop s)
        | .ok (t, old) =>
          let give (u : State) (p : CellId × YOp) : State :=
            match p.2.kind with
            | .yclm _ d counts _ true =>
              let before (k : Nat) : Nat :=
                ((parts.filter fun q => decide (gg.member q.1 < gg.member p.1)).map fun q => (lane (roundCounts q.2) k).toNat).sum
              let row := mkRow fun k => if k < n then old.getD k 0 + BitVec.ofNat 32 (before k) else 0
              let sum := ((List.range n).map fun k => (lane counts k).toNat).sum
              u.yqReturn p.1 p.2.uid (BitVec.ofNat 64 sum) true false (some (d, row))
            | _ => u
          parts.foldl give (drop t)
      | _ => s

/-! ## YQ (R57) -/

/-- Mark the first reservation that has not arrived as arrived, if its operation has been performed. -/
def arriveFirst : List YEntry → List YEntry
  | [] => []
  | e :: l =>
    if e.arrived then e :: arriveFirst l
    else if e.performed then { e with arrived := true } :: l
    else e :: l

/-- YQ_RETURN_ARRIVAL (R57): returns arrive in the order their operations were issued. -/
def execYqReturnArrival (c : CellId) (s : State) : Res :=
  .next <| s.modCell c fun x =>
    if x.q.yRet.all (·.arrived) then { x with q := { x.q with yq := arriveFirst x.q.yq } }
    else { x with q := { x.q with yRet := arriveFirst x.q.yRet } }

/-- LINE_WRITEBACK (R94). -/
def execLineWriteback (die : Fin 2) (line : Nat) (s : State) : Res :=
  .next <| match s.lineAt line with
    | some l => if l.die = die then s.dropLine line else s
    | none => s

end Sys2Proof.Machine
end

