-- ==== Sys2Proof/Machine/Log.lean ====
section
/-! DEFINITION. Error records (R345–R348), the log (R350), delivery (R351) and the ends a record can bring: a gang's kill
(R346) and the device's halt. -/

namespace Sys2Proof.Machine

/-! ## Records (R347) -/

/-- What an error record says besides TIME, SEQ, DROP and CRC. -/
structure ErrRec where
  cls  : Nat
  sev  : Nat
  unit : Nat
  cell : Option (CellId × BitVec 16) := none
  asid : Option (BitVec 10) := none
  akind : Bool := false
  disp : Nat
  tick : Nat := 0
  tns  : Option Word := none
  addr : Nat := 0
  /-- offset, slot and engine of the record where the error is precise -/
  at_  : Option (Nat × Nat × Nat) := none
  synd : Nat := 0
  deriving DecidableEq, Repr

/-- The 56 bytes that the CRC covers (R347). -/
def ErrRec.body (r : ErrRec) (tns : Word) (drop seq : Nat) : Nat :=
  let w0 := r.cls % 256 + r.sev % 4 * 2 ^ 8 + r.unit % 64 * 2 ^ 10 + (match r.cell with
      | some (c, g) => c.val * 2 ^ 16 + 2 ^ 23 + g.toNat * 2 ^ 48
      | none => 0) + (match r.asid with
      | some a => a.toNat * 2 ^ 24 + 2 ^ 34
      | none => 0) + r.akind.toNat * 2 ^ 35 + r.disp % 8 * 2 ^ 36
  let w4 := (match r.at_ with
      | some (o, k, e) => o % 2 ^ 32 + k % 8 * 2 ^ 32 + e % 4 * 2 ^ 35 + 2 ^ 37
      | none => 0) + min drop 65535 * 2 ^ 48
  packNat 64 (fun i => match i with
    | 0 => w0 | 1 => r.tick | 2 => tns.toNat | 3 => r.addr | 4 => w4 | 5 => r.synd | _ => seq) 7

/-- The 64 bytes of a record, closed by its CRC. -/
def ErrRec.bits (r : ErrRec) (tns : Word) (drop seq : Nat) : RecordBits :=
  let b := r.body tns drop seq
  let crc := (crcNat 0xFFFFFFFF b 56) ^^^ 0xFFFFFFFF
  BitVec.ofNat 512 (b + crc.toNat * 2 ^ 448)

/-! ## The log (R350) -/

def logSize : Nat := 65536

/-- The device halts: every context ends, and only RESET recovers (R345, R351). -/
def State.halt (s : State) : State :=
  { s with halted := true, gangs := s.gangs.map fun g => if g.status = .idle then g else { g with status := .killed } }

/-- The ASID, validity and severity fields of a record. -/
def recAsid (b : RecordBits) : Option (BitVec 10) := if b.getLsbD 34 then some (b.extractLsb' 24 10) else none
def recSev (b : RecordBits) : Nat := (b.extractLsb' 8 2).toNat

/-- Does a session receive a record (R351)? -/
def Session.takes (x : Session) (b : RecordBits) : Bool :=
  2 ≤ recSev b || x.subs.any fun e => e.1 = recAsid b && e.2 ≤ recSev b
/-- A record goes to its sessions (R351). -/
def State.sendRecord (s : State) (seq : Nat) (b : RecordBits) : State :=
  s.sessions.foldl (fun u x => if x.takes b then u.emit (.record (some x.id) seq b) else u) s

/-- The bits of a record as it is written now. -/
def State.recordBits (s : State) (r : ErrRec) : RecordBits := r.bits (r.tns.getD (s.clock.time.extractLsb' 16 64)) s.drop s.logSeq
/-- The record enters the log and interrupts the house cores; a device-fatal one is sent at once (R350, R351). -/
def State.enterLog (s : State) (r : ErrRec) : State :=
  let bits := s.recordBits r
  let t : State := { s with log := s.log ++ [⟨s.logSeq, bits, decide (r.sev = 3)⟩], logSeq := s.logSeq + 1, drop := 0 }
  let u := t.emit (.record none s.logSeq bits)
  if r.sev = 3 then u.sendRecord s.logSeq bits else u

/-- The die of a record: that of its cell, else die 0. -/
def ErrRec.die (r : ErrRec) : Fin 2 := match r.cell with
  | some (c, _) => dieOf c
  | none => 0

/-- The record of an internal error (R348). -/
def internalRec (unit : Nat) : ErrRec := { cls := 0x3F, sev := 3, unit := unit, disp := 6 }
/-- A record for which the log has no place stands in the staging buffer of its die; a 17th is an internal error of the house cores,
which is only sent (R350). -/
def State.stageRecord (s : State) (r : ErrRec) : State :=
  if (s.staged.filter fun e => e.1 = r.die).length < 16 then
    let bits := s.recordBits r
    let t : State := { s with staged := s.staged ++ [(r.die, bits)], logSeq := s.logSeq + 1, drop := 0 }
    if r.sev = 3 then t.sendRecord s.logSeq bits else t
  else (s.sendRecord s.logSeq (s.recordBits (internalRec 14))).halt

/-- Write a record: corrected ones are dropped when fewer than 256 entries are free, a full log stages the others; after a device-fatal
one the device halts (R350, R351). -/
def State.writeRecord (s : State) (r : ErrRec) : State :=
  let free := logSize - s.log.length
  let t :=
    if r.sev = 0 && free < 256 then { s with drop := s.drop + 1 }
    else if free = 0 then s.stageRecord r
    else s.enterLog r
  if r.sev = 3 then t.halt else t

/-- RECORD_DELIVERY (R350, R351): a record goes to its sessions, unless it was sent when it was written, and frees its entry, which a
staged record takes. -/
def execRecordDelivery (seq : Nat) (s : State) : Res :=
  .next <| match s.log.find? fun r => decide (r.seq = seq) with
    | none => s
    | some r =>
      let u : State := { s with log := s.log.filter fun e => decide (e.seq ≠ seq) }
      let t := if r.delivered then u else u.sendRecord seq r.bits
      match t.staged with
      | [] => t
      | e :: rest =>
        let n := (e.2.extractLsb' 384 64).toNat
        let u : State := { t with staged := rest, log := t.log ++ [⟨n, e.2, recSev e.2 = 3⟩] }
        u.emit (.record none n e.2)

/-! ## Default severities (R348, R352) -/

/-- Severity and disposition of a class in hardware mode (R348, R352). -/
def defaultFate (cls : Nat) : Nat × Nat :=
  match cls with
  | 0x0F | 0x22 => (1, 2)
  | 0x20 | 0x30 | 0x31 | 0x32 | 0x34 | 0x35 => (0, 0)
  | 0x21 => (1, 0)
  | 0x24 | 0x25 | 0x27 => (1, 7)
  | 0x33 | 0x3F => (3, 6)
  | _ => (2, 4)

/-- A pending fault as its record. -/
def State.faultRec (s : State) (p : PFault) (sev disp : Nat) : ErrRec :=
  { cls := p.cls, sev := sev, unit := p.unit, cell := some (p.cell, p.segid), asid := some (s.gangOf p.cell).asid,
    akind := p.akind, disp := disp, tick := p.tick, tns := some p.tns, addr := p.addr.toNat, at_ := if p.precise then some (p.off, p.slot, engUnit p.eng) else none,
    synd := p.synd.toNat }

/-! ## Monitor units (R194, R195) -/

/-- Reference cycles at 1,900 MHz in nanoseconds. -/
def nsOf (cycles : Nat) : Nat := cycles * 10 / 19
/-- Does a unit count a sample? -/
def Monitor.takes (u : Monitor) (src : Nat) (c : CellId) (asid : BitVec 10) : Bool :=
  u.en && u.src = src && src < 10 && (u.allc || u.cell = c.val) && (u.alla || u.asid == asid)
/-- The bin of a sample (R195). -/
def binOf (shift v : Nat) : Nat := if v < 2 ^ shift then 0 else min 31 (Nat.log2 v - shift + 1)
/-- A sample in a unit (R195). -/
def Monitor.add (u : Monitor) (v : Nat) : Monitor :=
  { u with
    min := Nat.min u.min (Nat.min v (2 ^ 32 - 1))
    max := Nat.max u.max (Nat.min v (2 ^ 32 - 1))
    count := (u.count + 1) % 2 ^ 48
    sum := Nat.min (u.sum + v) (2 ^ 64 - 1)
    bins := Vector.ofFn fun i : Fin 32 => if i.val = binOf u.shift v then Nat.min (u.bins[i] + 1) (2 ^ 32 - 1) else u.bins[i] }
/-- Every unit that counts a sample takes it once. -/
def State.sample (s : State) (src : Nat) (c : CellId) (asid : BitVec 10) (v : Nat) : State :=
  { s with monitors := s.monitors.map fun (u : Monitor) => if u.takes src c asid then u.add v else u }

end Sys2Proof.Machine
end

