-- ==== Sys2Proof/Machine/Control.lean ====
section
/-! DEFINITION. The control core's records (R22–R36, R178, R202–R204, R215–R219): the bundle with its slots in
parallel, SEGE, FORK, RDV, BRK, NOPR and PHAS, and what a sequencer does at the end of a tick. -/

namespace Sys2Proof.Machine

/-! ## Bundles (R202, R203, R215) -/

def slotSems0 : List SlotSem := [semNop, semAdd, semSub, semMul, semMulhs, semMulhn, semMadd, semDivs,
  semDivn, semRems, semRemn, semAnd, semOr, semXor, semAndn, semShl]
def slotSems1 : List SlotSem := [semShrl, semShra, semRotl, semClz, semCtz, semPopc, semMins, semMaxs,
  semMinn, semMaxn, semAbss, semSext, semBfex, semBfin, semCrc32, semMovi]
def slotSems2 : List SlotSem := [semMovh, semMov, semSel, semCmpeq, semCmpne, semCmplts, semCmples, semCmpltn,
  semCmplen, semTstb, semPand, semPor, semPxor, semPnot, semPmov, semLdrow]
def slotSems3 : List SlotSem := [semStrow, semExtl, semInsl, semQld, semQst, semDecide, semCheck, semTrap,
  semRwaitf, semRwaite, semRadvt, semRadvh, semRclm, semRstat, semSacq, semSrel]
def slotSems4 : List SlotSem := [semAarm, semAwait, semPhreg, semPhdrg, semPharv, semPhwait, semPhaw, semAtadd,
  semAtinc, semAtbadd, semAtcas, semAtswp, semAtmin, semAtmax, semAtand, semAtor]
def slotSems5 : List SlotSem := [semAtxor, semAtsnap, semYpop, semYclm, semFence, semMark, semRdtime, semWaitt,
  semSetdiv, semRdtick, semSysr, semSysw, semIcinv, semTdrd, semTdwr]
/-- The slot operations by OP8. -/
def slotSems : List SlotSem := slotSems0 ++ slotSems1 ++ slotSems2 ++ slotSems3 ++ slotSems4 ++ slotSems5

/-- The fault of slot k; a slot fault's WORD is the slot's word (R356). -/
def Flt.atSlot (f : Flt) (k : Nat) : Flt :=
  { f with slot := k, synd := if f.cls = 5 || f.cls = 6 then f.synd + k else f.synd }

/-- Slots with their numbers. -/
def numbered (k : Nat) : List (Nat × Slot) → List (Nat × Nat × Slot)
  | [] => []
  | (op8, sl) :: l => (k, op8, sl) :: numbered (k + 1) l

/-- MARK and FENCE act on their own bundle's accesses too (R128, R133), so they come last. -/
def slotOrder (l : List (Nat × Nat × Slot)) : List (Nat × Nat × Slot) :=
  let late (x : Nat × Nat × Slot) : Bool := x.2.1 = 0x54 || x.2.1 = 0x55
  l.filter (fun x => !late x) ++ l.filter late

/-- The lowest slot that a check of the state makes illegal or privileged, whether or not its predicate holds (R215). -/
def bundleRule (s : State) : List (Nat × Nat × Slot) → Option Flt
  | [] => none
  | (k, op8, sl) :: l =>
    match slotSems[op8]?.bind fun m => m.rule sl s with
    | some f => some (f.atSlot k)
    | none => bundleRule s l

/-- The effects of the slots; every one reads the registers as they stand at issue, and a fault suppresses all. -/
def runSlots (c : Ctx) : List (Nat × Nat × Slot) → State → Except Flt State
  | [], s => .ok s
  | (k, op8, sl) :: l, s =>
    match slotSems[op8]? with
    | none => runSlots c l s
    | some m =>
      match m.run { c with slot := k } sl s with
      | .error f => .error (f.atSlot k)
      | .ok t => runSlots c l t

/-- The fault that decoding or a slot's check of the state gives a bundle: that of the lowest slot that has one (R215). -/
def bundleBad (b : Bundle) (s : State) : Option Flt :=
  match decodeBundle b with
  | .error e =>
    let lower := match e.slot with
      | some k => ((decodeSlots 0 (b.words.take k)).toOption.bind fun l => bundleRule s (numbered 0 l))
      | none => none
    some (lower.getD (rejectFlt (s.gangOf s.curCell).encgen .cc e))
  | .ok l => bundleRule s (numbered 0 l)

/-- The effect of a bundle. -/
def bodyBndl (b : Bundle) (c : Ctx) (s : State) : Except Flt State :=
  match decodeBundle b with
  | .error _ => .ok s
  | .ok l => runSlots c (slotOrder (numbered 0 l)) s

/-- What the slots of a bundle do when their predicate is false: a DECIDE still contributes its identity, a YCLM is part of its
round (R38, R236). -/
def idleSlots (c : Ctx) : List (Nat × Nat × Slot) → State → State
  | [], s => s
  | (k, op8, sl) :: l, s => idleSlots c l (match slotSems[op8]? with
    | some m => m.idle { c with slot := k } sl s
    | none => s)
/-- A bundle as its own predicate, and those of its slots, govern it (R28, R38). -/
def bundleEffect (b : Bundle) (c : Ctx) (s : State) : Except Flt State :=
  if evalPred s.cur.cc b.pred then bodyBndl b c s
  else match decodeBundle b with
    | .error _ => .ok s
    | .ok l => .ok (idleSlots c (numbered 0 l) s)

/-- BNDL (R202). Its predicate is asked at the effect, since a DECIDE has one under a false predicate too (R38). -/
def execBndl (b : Bundle) (s : State) : Res :=
  let s := s.onEngine .cc
  .next (issue (.bndl b) (bundleBad b s) b.stamp.toNat .always 1 1 noChk (bundleEffect b) s)

/-! ## Illegal control records -/

/-- An illegal-record fault of a control record found at a field. -/
def ctlFlt (s : State) (op word bit : Nat) : Flt := ⟨4, 0, illSynd (s.gangOf s.curCell).encgen word bit op, 0, false, 0⟩

/-! ## SEGE (R33–R36, R40, R42) -/

/-- Every running sequencer enters a segment at tick t (R22, R42). -/
def Cell.enterSegment (x : Cell) (seg : Option (Nat × Nat) × Option (BitVec 16)) (off t : Nat) : Cell :=
  let move (q : EngSeq) : EngSeq := match q.pc with
    | some _ => { q with pc := some off, rdvOff := none, forkOff := none }
    | none => { q with rdvOff := none, forkOff := none }
  let sq := { x.sq with eng := x.sq.eng.map move, segOff := off, sege := seg.1, start := t, sig := 0xFFFFFFFF, sigPend := [],
                        textWait := 0, slip := x.cc.slipw, brkDone := 0, segid := seg.2.getD x.sq.segid }
  { x with sq := sq, cc := { x.cc with timeh := none } }

/-- A SEGE that faults has no effect, and no record issues beyond it (R354). -/
def segeFault (f : Flt) (off : Nat) (s : State) : State :=
  (s.fault s.curCell .cc off s.now none f).modCur fun x => { x with sq := { x.sq with dead := true } }

/-- The successor a SEGE chooses, by DSEL and the default (R34). -/
def segeChoice (r : SegeRec) (s : State) : Nat :=
  if r.dsel = 0 then r.dflt.toNat else (s.cur.cc.d[Fin.ofNat 4 (r.dsel.toNat - 1)]).toNat

/-- The segment check (R36): the fault when LEN or SIG differs. -/
def segeCheck (r : SegeRec) (s : State) : Option Flt :=
  let olen := s.now - s.cur.sq.start + 1
  let osig := (sigFold s.cur.sq.sig (sigPut 0 (sigEntry (.sege r) r.stamp.toNat) s.cur.sq.sigPend)) ^^^ 0xFFFFFFFF
  let lx := r.len.toNat ≠ olen
  let sx := r.sig ≠ osig
  if lx || sx then
    some ⟨2, 7, osig.toNat + olen % 2 ^ 25 * 2 ^ 32 + (decide lx).toNat * 2 ^ 57 + (decide sx).toNat * 2 ^ 58, 0, false, 0⟩
  else none

/-- The engines other than the CC that run. -/
def Cell.running (x : Cell) : List Eng := [Eng.ve, .me, .se].filter fun e => (x.engine e).pc.isSome

/-- The samples of a segment's end: the slack of the decision it reads, and the segment's time frozen for text (R194, log entry 121). -/
def State.sampleSege (s : State) (r : SegeRec) : State :=
  let a := (s.gangOf s.curCell).asid
  let at_ := s.cur.cc.dLand[Fin.ofNat 4 (r.dsel.toNat - 1)]
  let t := if r.dsel = 0 || at_ = 0 then s else s.sample 3 s.curCell a (s.now - at_)
  t.sample 8 s.curCell a (nsOf s.cur.sq.textWait)

/-- A SEGE that issues: choose, check, and enter the successor or end the tile task (R32–R36, R40). -/
def segeEffect (r : SegeRec) (off : Nat) (s : State) : State :=
  let v := segeChoice r s
  if r.nsucc = 0 then
    if s.cur.running ≠ [] then segeFault (ctlFlt s 3 3 16) off s
    else
      let t := match segeCheck r s with
        | some f => s.fault s.curCell .cc off s.now none f
        | none => s
      (t.modCur fun x => { x with sq := { x.sq with
          eng := x.sq.eng.map fun q => { q with pc := none, exp := none }, sigPend := [] } }).modGang (s.gidOf s.curCell) fun g =>
        { g with status := .ending, tokens := g.tokens ++ [⟨s.now, s.curCell, r.segid, 0, off, 0, s.uid⟩] }
  else if r.nsucc.toNat ≤ v then
    segeFault ⟨7, 0, v + r.nsucc.toNat * 8 + (r.dsel.toNat - 1) % 4 * 128, 0, false, 0⟩ off s
  else
    let t := match segeCheck r s with
      | some f => s.fault s.curCell .cc off s.now none f
      | none => s
    let entry := r.succ.toNat / 2 ^ (32 * v) % 2 ^ 32
    let g := s.gidOf s.curCell
    (t.modCur fun x => x.enterSegment (s.segmentAt s.curCell (s.gang g).encgen entry) entry (s.now + 1)).modGang g fun y =>
      { y with tokens := y.tokens ++ [⟨s.now, s.curCell, r.segid, v, off, entry, s.uid⟩] }

/-- The word and bit of the field that makes a SEGE illegal (R34, R204). -/
def segeBad (r : SegeRec) (tlen : Nat) : Option (Nat × Nat) :=
  if r.len.toNat ≠ r.stamp.toNat + 1 then some (2, 0)
  else if 8 < r.nsucc.toNat then some (3, 16)
  else if 4 < r.dsel.toNat || (r.nsucc = 0 && r.dsel ≠ 0) then some (3, 20)
  else if (if r.nsucc = 0 then r.dflt ≠ 0 else r.nsucc.toNat ≤ r.dflt.toNat) then some (3, 23)
  else ((List.range 8).find? fun k =>
    let e := r.succ.toNat / 2 ^ (32 * k) % 2 ^ 32
    if k < r.nsucc.toNat then tlen ≤ e else e ≠ 0).map fun k => (4 + k / 2, 32 * (k % 2))

/-- SEGE (R33–R36). -/
def execSege (r : SegeRec) (s : State) : Res :=
  let s := s.onEngine .cc
  let off := s.engine.pc.getD 0
  .next <|
    if s.now < s.cur.sq.start + r.stamp.toNat then s
    else if let some (w, b) := segeBad r (s.gangOf s.curCell).tlen then segeFault (ctlFlt s 3 w b) off (s.skipRecord off)
    else match s.missCause off r.stamp.toNat 1 1 with
      | some k => segeFault (missFlt .cc k 0 r.stamp.toNat) off (s.skipRecord off)
      | none => segeEffect r off (s.sampleSege r)

/-! ## FORK and RDV (R30, R31) -/

/-- The offset FORK gives an engine. -/
def forkOffset (r : ForkRec) : Eng → Option Nat
  | .cc => none
  | .ve => if r.fen.getLsbD 0 then some r.voff.toNat else none
  | .me => if r.fen.getLsbD 1 then some r.moff.toNat else none
  | .se => if r.fen.getLsbD 2 then some r.soff.toNat else none

/-- A FORK offset outside the rest of the segment, or of an engine that runs (R30): the word and bit of the field. -/
def forkBad (r : ForkRec) (off : Nat) (s : State) : Option (Nat × Nat) :=
  let last := match s.segeOf s.curCell with
    | some (o, _) => o
    | none => 2 ^ 32
  ([(Eng.ve, 2, 0), (.me, 2, 32), (.se, 3, 0)].find? fun e =>
    match forkOffset r e.1 with
    | none => false
    | some o => o < off || last < o || (s.cur.engine e.1).pc.isSome).map (·.2)

/-- Start one engine at its offset. -/
def startEngine (off o t : Nat) (q : EngSeq) : EngSeq :=
  { q with pc := some o, exp := none, forked := some t, forkOff := some off, stop := false }

def bodyFork (r : ForkRec) (c : Ctx) (s : State) : Except Flt State :=
  match forkBad r c.off s with
  | some (w, b) => .error (ctlFlt s 4 w b)
  | none =>
    let go (x : Cell) (e : Eng) : Cell := match forkOffset r e with
      | some o => x.setEngine e (startEngine c.off o s.now (x.engine e))
      | none => x
    .ok (s.modCur fun x => [Eng.ve, .me, .se].foldl go x)
/-- The word and bit of the field that makes a FORK illegal (R204): an empty FEN, or an offset of an engine not enabled. -/
def forkField (r : ForkRec) : Option (Nat × Nat) :=
  if !r.fen.getLsbD 0 && r.voff ≠ 0 then some (2, 0)
  else if !r.fen.getLsbD 1 && r.moff ≠ 0 then some (2, 32)
  else if !r.fen.getLsbD 2 && r.soff ≠ 0 then some (3, 0)
  else if r.fen = 0 then some (3, 32)
  else none

/-- FORK (R30, R204). -/
def execFork (r : ForkRec) (s : State) : Res :=
  let s := s.onEngine .cc
  .next (issue (.fork r) ((forkField r).map fun e => ctlFlt s 4 e.1 e.2) r.stamp.toNat .always 1 1 noChk (bodyFork r) s)

/-- The engines an RDV names. -/
def rdvNames (r : RdvRec) : List (Nat × Eng) := [(0, Eng.ve), (1, .me), (2, .se)].filter fun e => r.jen.getLsbD e.1

def bodyRdv (r : RdvRec) (c : Ctx) (s : State) : Except Flt State :=
  match (rdvNames r).find? fun e => (s.cur.engine e.2).pc.isNone with
  | some (i, _) => .error (ctlFlt s 5 2 i)
  | none => .ok (s.modCur fun x => (rdvNames r).foldl (fun x e =>
      x.setEngine e.2 { x.engine e.2 with rdvOff := some c.off, forkOff := none, stop := true }) x)
/-- RDV (R31): the named engines stop at the end of its tick. -/
def execRdv (r : RdvRec) (s : State) : Res :=
  let s := s.onEngine .cc
  .next (issue (.rdv r) (if r.jen = 0 then some (ctlFlt s 5 2 0) else none) r.stamp.toNat .always 1 1 noChk (bodyRdv r) s)

/-- The records of an engine between two offsets that have not issued, with their stamps. -/
def Cell.unissued (x : Cell) (gen : Nat) (e : Eng) (lo hi : Nat) : List (Nat × Nat) :=
  (List.range (hi - lo)).filterMap fun k => match x.textAt (lo + k) with
    | some v => if engineOf v.toNat = e then some (lo + k, stampOf gen v.toNat) else none
    | none => none
/-- The schedule misses of an engine that an RDV stops: the record that still expands, and each one before the RDV that would
issue after its tick (R31). -/
def State.pastRdv (s : State) (c : CellId) (e : Eng) : List (Nat × Nat) :=
  let x := s.cell c
  let q := x.engine e
  let open_ := match q.exp with
    | some y => if y.done < y.total then [(y.off, y.t0 + y.done * y.step - x.sq.start)] else []
    | none => []
  match q.pc, q.rdvOff with
  | some lo, some hi => open_ ++ x.unissued (s.gangOf c).encgen e lo hi
  | _, _ => open_

/-- An engine that an RDV stops at the end of tick j: a record that extends past j is a schedule miss; an SE queue
that has not drained raises its freeze request (R31, R44). -/
def stopEngine (c : CellId) (e : Eng) (s : State) : State :=
  let q := (s.cell c).engine e
  if !q.stop then s
  else
    let t := s.modCell c fun x => x.setEngine e { q with pc := none, exp := none, stop := false }
    match e with
    | .se => if (s.cell c).se.queue = [] then t else t.request (s.gidOf c) (.drained c s.uid)
    | _ => (s.pastRdv c e).foldl (fun u m => u.fault c e m.1 (s.gangOf c).tick none (missFlt e 3 0 m.2)) t

/-- The end of a cell's tick: engines stop at an RDV, and the tick's entries join the signature (R31, R35). -/
def endTick (c : CellId) (s : State) : State :=
  let t := [Eng.ve, .me, .se].foldl (fun u e => stopEngine c e u) s
  t.modCell c fun x => { x with sq := { x.sq with sig := sigFold x.sq.sig x.sq.sigPend, sigPend := [] },
                                ord := { x.ord with banks := [] } }

/-! ## BRK, NOPR, PHAS (R178, R218, R219) -/

/-- The debug stop that a BRK raises when it enters the slip window: due at segment tick max(STAMP, Dstall), or as soon as a
request can be where the BRK is met later (R43, R218). -/
def brkRequest (r : BrkRec) (s : State) : State :=
  let g := s.gangOf s.curCell
  let q : Req := ⟨max (s.cur.sq.start + max r.stamp.toNat g.dstall) (s.now + g.dstall), .debug⟩
  let t := s.modCur fun x => { x with sq := { x.sq with brkDone := x.sq.brkDone ||| BitVec.ofNat 8 (2 ^ r.idx.val) } }
  t.modGang (s.gidOf s.curCell) fun y => if y.reqs.contains q then y else { y with reqs := y.reqs ++ [q] }

/-- Has a BRK that matches its table entry its debug stop still to raise at this tick? -/
def brkRaises (r : BrkRec) (s : State) : Bool :=
  let g := s.gangOf s.curCell
  !s.cur.sq.brkDone.getLsbD r.idx.val && decide (s.cur.sq.start + max r.stamp.toNat g.dstall ≤ s.now + g.dstall) &&
    s.cur.sq.brk[r.idx].any fun e => stampOf g.encgen e.2.toNat = r.stamp.toNat

/-- BRK (R218): its debug stop is raised when it enters the slip window; at its stamp the displaced record of the breakpoint
table issues in its place, at the next step. -/
def execBrk (r : BrkRec) (s : State) : Res :=
  let off := s.engine.pc.getD 0
  let bad (word bit : Nat) : State := (s.skipRecord off).fault s.curCell s.curEng off s.now none (ctlFlt s 6 word bit)
  let gen := (s.gangOf s.curCell).encgen
  .next (if brkRaises r s then brkRequest r s
  else if s.waits r.stamp.toNat then s
  else match s.cur.sq.brk[r.idx] with
    | none => bad 2 0
    | some (_, w) =>
      if stampOf gen w.toNat ≠ r.stamp.toNat then bad 0 16
      else match decode gen w.toNat with
        | .ok i => { s with turn := .event i }
        | .error e => rejectRecord e r.stamp.toNat s)

/-- NOPR (R219). -/
def execNopr (stamp : BitVec 24) (s : State) : Res :=
  let s := s.onEngine .cc
  .next (issue (.nopr stamp) none stamp.toNat .always 1 1 noChk (fun _ t => .ok t) s)

def bodyPhas (r : PhasRec) (c : Ctx) (s : State) : Except Flt State := .ok (s.land c (s.now + 1) (.band r.fmin r.fmax))
/-- PHAS (R178): the new band is in force from the next tick. -/
def execPhas (r : PhasRec) (s : State) : Res :=
  let s := s.onEngine .cc
  let bad := (bandBad r.fmin.toNat r.fmax.toNat).map fun b => ctlFlt s 8 2 b
  .next (issue (.phas r) bad r.stamp.toNat .always 1 1 noChk (bodyPhas r) s)

end Sys2Proof.Machine
end

