-- ==== Sys2Proof/Machine/Operands.lean ====
section
/-! DEFINITION. The operand forms of the vector engine (R52, R56, R241–R243, R264): sources with their poison tags,
masks, queue heads, destinations; and the result shapes its entries share. -/

namespace Sys2Proof.Machine

/-! ## Sources -/

/-- A vector as an entry reads or writes it: the lanes and the poison tag of each. -/
structure VSrc where
  row  : Row
  tags : BitVec 64
  deriving DecidableEq, Repr

/-- K n; K0 reads all ones (R52). -/
def Ve.kmask (v : Ve) (n : Fin 8) : BitVec 64 := if n = 0 then BitVec.allOnes 64 else v.k[n]

/-- A stepped number that stepBad has found in its range. -/
def stepNum (n : Nat) [NeZero n] (b : Nat) (st : Strides) (x : Ix) : Fin n := Fin.ofNat n (stepped b st x).toNat

/-- A queue row: its poison bit poisons every lane (R243). -/
def QEntry.src (q : QEntry) : VSrc := ⟨q.row, allTags 64 q.tag⟩

/-- A source operand, read at issue (R241, R243). -/
def vRead (o : Opnd) (x : Ix) (s : State) : Except Flt VSrc :=
  match o with
  | .v n _ _ _ st =>
    let i := stepNum 32 n.val st x
    .ok ⟨s.cur.ve.v[i], s.cur.ve.vTag[i]⟩
  | .lq n _ => (headOf .ve (lqWhich n) s.now s.segTick s.cur.q.lq[n]).map QEntry.src
  | .mq n _ => (headOf .ve (mqWhich n) s.now s.segTick s.cur.q.mq[n]).map QEntry.src
  | .imm w => .ok ⟨mkRow fun _ => w, 0⟩
  | _ => .ok ⟨0, 0⟩

/-- The third source V[XNUM], stepping with operand 0 (R200). -/
def vThird (o : Opnd) (x : Ix) (s : State) : VSrc :=
  match o with
  | .v _ _ true n st =>
    let i := stepNum 32 n.val st x
    ⟨s.cur.ve.v[i], s.cur.ve.vTag[i]⟩
  | _ => ⟨0, 0⟩

/-- The destination's contents at issue, which the merging forms read (R243). -/
def vOld (o : Opnd) (x : Ix) (s : State) : VSrc :=
  match o with
  | .v n _ _ _ st =>
    let i := stepNum 32 n.val st x
    ⟨s.cur.ve.v[i], s.cur.ve.vTag[i]⟩
  | _ => ⟨0, 0⟩

/-- A mask operand (KIND 7); an absent one includes every lane (R263). -/
def kRead (o : Opnd) (x : Ix) (s : State) : BitVec 64 :=
  match o with
  | .k n st => s.cur.ve.kmask (stepNum 8 n.val st x)
  | _ => BitVec.allOnes 64

/-- The active lanes of a destination (R242). -/
def activeOf (o : Opnd) (s : State) : BitVec 64 :=
  match o with
  | .v _ km _ _ _ => s.cur.ve.kmask km
  | _ => BitVec.allOnes 64

/-- The queue whose head an operand pops, by WHICH. -/
def popOf (o : Opnd) : Option Nat :=
  match o with
  | .lq n true => some (lqWhich n)
  | .mq n true => some (mqWhich n)
  | _ => none

/-- Remove the head of a queue. -/
def popQueue (w : Nat) (s : State) : State :=
  s.modCur fun x =>
    if w < 4 then { x with q := { x.q with lq := x.q.lq.set (Fin.ofNat 4 w) x.q.lq[(Fin.ofNat 4 w)].tail } }
    else { x with q := { x.q with mq := x.q.mq.set (Fin.ofNat 2 (w - 6)) x.q.mq[(Fin.ofNat 2 (w - 6))].tail } }

/-- Each popped head goes once, however often the record names it (R56). -/
def popHeads (r : Rec) (s : State) : State := ([r.o1, r.o2].filterMap popOf).dedup.foldl (fun t w => popQueue w t) s

/-- What an expansion of a VE record works on: sources, destination contents, active lanes, source mask, mode, MOD. -/
structure VArgs where
  a   : VSrc
  b   : VSrc
  c   : VSrc
  old : VSrc
  act : BitVec 64
  ks  : BitVec 64
  kb  : BitVec 64
  md  : FMode
  mod : BitVec 5
  deriving DecidableEq, Repr

/-- Read the sources of an expansion and pop the heads it names. -/
def vArgs (r : Rec) (c : Ctx) (s : State) : Except Flt (VArgs × State) :=
  let x := ixOf r.nest c.k
  match vRead r.o1 x s, vRead r.o2 x s with
  | .error f, _ => .error f
  | _, .error f => .error f
  | .ok a, .ok b =>
    .ok ({ a := a, b := b, c := vThird r.o0 x s, old := vOld r.o0 x s, act := activeOf r.o0 s,
           ks := s.cur.ve.kmask (Fin.ofNat 8 (r.mod.toNat % 8)), kb := kRead r.o2 x s, md := modeOf c.mode, mod := r.mod },
         popHeads r s)

/-! ## Destinations -/

/-- A result: lanes, poison tags, flags of the active lanes. -/
structure VRes where
  row  : Row
  tags : BitVec 64
  fl   : FlagBits
  deriving DecidableEq, Repr

/-- Land a result in the active lanes of its V register, or push it to SQ, visible at the landing tick (R241, R243). -/
def vPut (r : Rec) (c : Ctx) (lat : Nat) (act : BitVec 64) (v : VRes) (s : State) : Except Flt State :=
  match r.o0 with
  | .v n _ _ _ st => .ok (s.landAfter c lat (.v (stepNum 32 n.val st (ixOf r.nest c.k)) act v.row v.tags) v.fl)
  | .sq n =>
    match pushOf .ve (sqWhich n) s.segTick s.cur.q.sq[n] ⟨s.uid, s.now + lat * s.div, true, v.row, v.tags != 0⟩ with
    | .error f => .error f
    | .ok l => .ok ((s.modCur fun x => { x with q := { x.q with sq := x.q.sq.set n l } }).landAfter c lat .flags v.fl)
  | _ => .ok s

/-- Land a mask in K n (R52, R259). -/
def kPut (r : Rec) (c : Ctx) (lat : Nat) (v : BitVec 64) (fl : FlagBits) (s : State) : State :=
  match r.o0 with
  | .k n st => s.landAfter c lat (.k (stepNum 8 n.val st (ixOf r.nest c.k)) v) fl
  | _ => s

/-- An expansion that reads its sources and lands one vector. -/
def vApply (lat : Nat) (f : VArgs → VRes) (r : Rec) (c : Ctx) (s : State) : Except Flt State :=
  match vArgs r c s with
  | .error e => .error e
  | .ok (x, t) => vPut r c lat x.act (f x) t

/-! ## Shapes of results -/

/-- The OR of the flags of the lanes that a mask selects. -/
def orFlags (m : BitVec 64) (f : Nat → FlagBits) : FlagBits :=
  (List.range 64).foldl (fun a i => if m.getLsbD i then a ||| f i else a) 0

/-- Each lane from the source lanes of the same number (R242, R243): a poisoned lane holds `pv` and raises no flag. -/
def laneWise (merge : Bool) (pv : VArgs → Lane → Lane) (f : VArgs → Lane → Lane → Lane → Lane → Lane × FlagBits)
    (x : VArgs) : VRes :=
  let tags := x.a.tags ||| x.b.tags ||| x.c.tags ||| (if merge then x.old.tags else 0)
  let g (i : Nat) := f x (lane x.a.row i) (lane x.b.row i) (lane x.c.row i) (lane x.old.row i)
  { row := mkRow fun i => if tags.getLsbD i then pv x (lane x.old.row i) else (g i).1
    tags := tags
    fl := orFlags (x.act &&& ~~~tags) fun i => (g i).2 }

/-- The value of a poisoned FP32, BF16 pair or integer lane (R121). -/
def pvF (_ : VArgs) (_ : Lane) : Lane := nan32
def pvH (_ : VArgs) (_ : Lane) : Lane := 0x7FC07FC0
def pvI (_ : VArgs) (_ : Lane) : Lane := 0

/-- A lane operation of one, two or three FP32 sources. -/
def fp1 (lat : Nat) (f : FMode → Lane → Lane × FlagBits) : Rec → Ctx → State → Except Flt State :=
  vApply lat (laneWise false pvF fun x a _ _ _ => f x.md a)
def fp2 (lat : Nat) (f : FMode → Lane → Lane → Lane × FlagBits) : Rec → Ctx → State → Except Flt State :=
  vApply lat (laneWise false pvF fun x a b _ _ => f x.md a b)
def fp3 (lat : Nat) (f : FMode → Lane → Lane → Lane → Lane × FlagBits) : Rec → Ctx → State → Except Flt State :=
  vApply lat (laneWise false pvF fun x a b c _ => f x.md a b c)

/-- The two BF16 elements of each lane independently (R248). -/
def pair2 (f : Nat → Nat → Nat × FlagBits) (a b : Lane) : Lane × FlagBits :=
  let lo := f (a.toNat % 65536) (b.toNat % 65536)
  let hi := f (a.toNat / 65536) (b.toNat / 65536)
  (BitVec.ofNat 32 (lo.1 + 65536 * hi.1), lo.2 ||| hi.2)
def bf2 (lat : Nat) (f : FMode → Nat → Nat → Nat × FlagBits) : Rec → Ctx → State → Except Flt State :=
  vApply lat (laneWise false pvH fun x a b _ _ => pair2 (f x.md) a b)

/-- A flagless integer lane operation. -/
def int1 (lat : Nat) (f : Lane → Lane) : Rec → Ctx → State → Except Flt State :=
  vApply lat (laneWise false pvI fun _ a _ _ _ => (f a, 0))
def int2 (lat : Nat) (f : Lane → Lane → Lane) : Rec → Ctx → State → Except Flt State :=
  vApply lat (laneWise false pvI fun _ a b _ _ => (f a b, 0))

/-- A compare (R247): a K destination takes the result where KS is set; a V destination takes all ones or 0. -/
def compare (f : FMode → Lane → Lane → Bool × FlagBits) (r : Rec) (c : Ctx) (s : State) : Except Flt State :=
  match vArgs r c s with
  | .error e => .error e
  | .ok (x, t) =>
    let tags := (x.a.tags ||| x.b.tags) &&& x.ks
    let ok := x.ks &&& ~~~tags
    let g (i : Nat) := f x.md (lane x.a.row i) (lane x.b.row i)
    let bits := mkTags 64 fun i => ok.getLsbD i && (g i).1
    let fl := orFlags (x.act &&& ok) fun i => (g i).2
    match r.o0 with
    | .k _ _ => .ok (kPut r c 4 bits fl t)
    | _ => vPut r c 4 x.act ⟨mkRow fun i => if bits.getLsbD i then 0xFFFFFFFF else 0, tags, fl⟩ t

/-- One value for the whole vector in every lane (R242): flags when some lane is active, poison when an included
lane is poisoned. -/
def oneForAll (pv : VArgs → Lane) (f : VArgs → Lane × FlagBits) (x : VArgs) : VRes :=
  if x.a.tags &&& x.ks != 0 then ⟨mkRow fun _ => pv x, BitVec.allOnes 64, 0⟩
  else ⟨mkRow fun _ => (f x).1, 0, if x.act = 0 then 0 else (f x).2⟩

/-- The numbers of the included lanes, ascending. -/
def included (m : BitVec 64) : List Nat := (List.range 64).filter fun i => m.getLsbD i

/-- Lanes moved bit for bit with their tags (R102, R121): `src i` gives the lane and the tag that lane i takes. -/
def moveLanes (src : VArgs → Nat → Lane × Bool) (x : VArgs) : VRes :=
  ⟨mkRow fun i => (src x i).1, mkTags 64 fun i => (src x i).2, 0⟩

def VSrc.at_ (v : VSrc) (i : Nat) : Lane × Bool := (lane v.row i, v.tags.getLsbD i)

end Sys2Proof.Machine
end

