-- ==== Sys2Proof/Machine/Vector.lean ====
section
/-! DEFINITION. Lane arithmetic of the vector engine (R244–R252): FP32, BF16 pairs, 32-bit integers and conversions,
each lane from the lanes of the same number. -/

namespace Sys2Proof.Machine

/-! ## FP32 (R244–R247) -/

/-- VNOP (R244). -/
def bodyVnop : Rec → Ctx → State → Except Flt State := fun _ _ s => .ok s
def execVnop (r : Rec) (s : State) : Res := .next (issueRec (.vnop r) r (bodyVnop r) s)

/-- FADD (R245, R246). -/
def bodyFadd : Rec → Ctx → State → Except Flt State := fp2 4 fAdd
def execFadd (r : Rec) (s : State) : Res := .next (issueRec (.fadd r) r (bodyFadd r) s)

/-- FSUB (R245, R246). -/
def bodyFsub : Rec → Ctx → State → Except Flt State := fp2 4 fSub
def execFsub (r : Rec) (s : State) : Res := .next (issueRec (.fsub r) r (bodyFsub r) s)

/-- FMUL (R245, R246). -/
def bodyFmul : Rec → Ctx → State → Except Flt State := fp2 5 fMul
def execFmul (r : Rec) (s : State) : Res := .next (issueRec (.fmul r) r (bodyFmul r) s)

/-- FFMA (R245, R246). -/
def bodyFfma : Rec → Ctx → State → Except Flt State := fp3 5 fFma
def execFfma (r : Rec) (s : State) : Res := .next (issueRec (.ffma r) r (bodyFfma r) s)

/-- FFMS (R245, R246). -/
def bodyFfms : Rec → Ctx → State → Except Flt State := fp3 5 fFms
def execFfms (r : Rec) (s : State) : Res := .next (issueRec (.ffms r) r (bodyFfms r) s)

/-- FNMA (R245, R246). -/
def bodyFnma : Rec → Ctx → State → Except Flt State := fp3 5 fNma
def execFnma (r : Rec) (s : State) : Res := .next (issueRec (.fnma r) r (bodyFnma r) s)

/-- FMIN (R245, R246). -/
def bodyFmin : Rec → Ctx → State → Except Flt State := fp2 4 (fMinMax false)
def execFmin (r : Rec) (s : State) : Res := .next (issueRec (.fmin r) r (bodyFmin r) s)

/-- FMAX (R245, R246). -/
def bodyFmax : Rec → Ctx → State → Except Flt State := fp2 4 (fMinMax true)
def execFmax (r : Rec) (s : State) : Res := .next (issueRec (.fmax r) r (bodyFmax r) s)

/-- FABS (R245, R246). -/
def bodyFabs : Rec → Ctx → State → Except Flt State := fp1 4 (fun _ => fAbs)
def execFabs (r : Rec) (s : State) : Res := .next (issueRec (.fabs r) r (bodyFabs r) s)

/-- FNEG (R245, R246). -/
def bodyFneg : Rec → Ctx → State → Except Flt State := fp1 4 (fun _ => fNeg)
def execFneg (r : Rec) (s : State) : Res := .next (issueRec (.fneg r) r (bodyFneg r) s)

/-- FCPS (R245, R246). -/
def bodyFcps : Rec → Ctx → State → Except Flt State := fp2 4 (fun _ => fCps)
def execFcps (r : Rec) (s : State) : Res := .next (issueRec (.fcps r) r (bodyFcps r) s)

/-- FDIV (R245, R246). -/
def bodyFdiv : Rec → Ctx → State → Except Flt State := fp2 14 fDiv
def execFdiv (r : Rec) (s : State) : Res := .next (issueRec (.fdiv r) r (bodyFdiv r) s)

/-- FSQRT (R245, R246). -/
def bodyFsqrt : Rec → Ctx → State → Except Flt State := fp1 14 fSqrt
def execFsqrt (r : Rec) (s : State) : Res := .next (issueRec (.fsqrt r) r (bodyFsqrt r) s)

/-- FRCP (R245, R246). -/
def bodyFrcp : Rec → Ctx → State → Except Flt State := fp1 10 fRcp
def execFrcp (r : Rec) (s : State) : Res := .next (issueRec (.frcp r) r (bodyFrcp r) s)

/-- FRSQ (R245, R246). -/
def bodyFrsq : Rec → Ctx → State → Except Flt State := fp1 10 fRsq
def execFrsq (r : Rec) (s : State) : Res := .next (issueRec (.frsq r) r (bodyFrsq r) s)

/-- FEXP2 (R245, R246). -/
def bodyFexp2 : Rec → Ctx → State → Except Flt State := fp1 12 (fun md a => laneOf (fExp2 md a.toNat))
def execFexp2 (r : Rec) (s : State) : Res := .next (issueRec (.fexp2 r) r (bodyFexp2 r) s)

/-- FLOG2 (R245, R246). -/
def bodyFlog2 : Rec → Ctx → State → Except Flt State := fp1 12 (fun md a => laneOf (fLog2 md a.toNat))
def execFlog2 (r : Rec) (s : State) : Res := .next (issueRec (.flog2 r) r (bodyFlog2 r) s)

/-- FTANH (R245, R246). -/
def bodyFtanh : Rec → Ctx → State → Except Flt State := fp1 12 (fun md a => laneOf (fTanh md a.toNat))
def execFtanh (r : Rec) (s : State) : Res := .next (issueRec (.ftanh r) r (bodyFtanh r) s)

/-- FFLOOR (R245, R246). -/
def bodyFfloor : Rec → Ctx → State → Except Flt State := fp1 4 fFloor
def execFfloor (r : Rec) (s : State) : Res := .next (issueRec (.ffloor r) r (bodyFfloor r) s)

/-- FRINT (R245, R246). -/
def bodyFrint : Rec → Ctx → State → Except Flt State := fp1 4 fRint
def execFrint (r : Rec) (s : State) : Res := .next (issueRec (.frint r) r (bodyFrint r) s)

/-- FSCAL (R245, R246). -/
def bodyFscal : Rec → Ctx → State → Except Flt State := fp2 4 fScal
def execFscal (r : Rec) (s : State) : Res := .next (issueRec (.fscal r) r (bodyFscal r) s)

/-- FFRAC (R245, R246). -/
def bodyFfrac : Rec → Ctx → State → Except Flt State := fp1 4 fFrac
def execFfrac (r : Rec) (s : State) : Res := .next (issueRec (.ffrac r) r (bodyFfrac r) s)

/-- The format that MOD[1:0] of FCVTR names (R246). -/
def fcvtrFmt (m : BitVec 5) : Fmt :=
  match m.toNat % 4 with
  | 0 => bf16 | 1 => e4m3 | _ => e5m2

/-- FCVTR (R246). -/
def bodyFcvtr : Rec → Ctx → State → Except Flt State := 
  vApply 4 (laneWise false pvF fun x a _ _ _ => fCvtr (fcvtrFmt x.mod) x.md a)
def execFcvtr (r : Rec) (s : State) : Res := .next (issueRec (.fcvtr r) r (bodyFcvtr r) s)

/-- FCMPEQ (R247). -/
def bodyFcmpeq : Rec → Ctx → State → Except Flt State := compare (fCmp .eq)
def execFcmpeq (r : Rec) (s : State) : Res := .next (issueRec (.fcmpeq r) r (bodyFcmpeq r) s)

/-- FCMPLT (R247). -/
def bodyFcmplt : Rec → Ctx → State → Except Flt State := compare (fCmp .lt)
def execFcmplt (r : Rec) (s : State) : Res := .next (issueRec (.fcmplt r) r (bodyFcmplt r) s)

/-- FCMPLE (R247). -/
def bodyFcmple : Rec → Ctx → State → Except Flt State := compare (fCmp .le)
def execFcmple (r : Rec) (s : State) : Res := .next (issueRec (.fcmple r) r (bodyFcmple r) s)

/-- FCMPUN (R247). -/
def bodyFcmpun : Rec → Ctx → State → Except Flt State := compare (fCmp .un)
def execFcmpun (r : Rec) (s : State) : Res := .next (issueRec (.fcmpun r) r (bodyFcmpun r) s)

/-- FCLS (R247). -/
def bodyFcls : Rec → Ctx → State → Except Flt State := int1 4 fCls
def execFcls (r : Rec) (s : State) : Res := .next (issueRec (.fcls r) r (bodyFcls r) s)

/-! ## BF16 pairs (R248) -/

/-- HADD (R248). -/
def bodyHadd : Rec → Ctx → State → Except Flt State := bf2 4 hAdd
def execHadd (r : Rec) (s : State) : Res := .next (issueRec (.hadd r) r (bodyHadd r) s)

/-- HMUL (R248). -/
def bodyHmul : Rec → Ctx → State → Except Flt State := bf2 5 hMul
def execHmul (r : Rec) (s : State) : Res := .next (issueRec (.hmul r) r (bodyHmul r) s)

/-- HMAX (R248). -/
def bodyHmax : Rec → Ctx → State → Except Flt State := bf2 4 (hMinMax true)
def execHmax (r : Rec) (s : State) : Res := .next (issueRec (.hmax r) r (bodyHmax r) s)

/-- HMIN (R248). -/
def bodyHmin : Rec → Ctx → State → Except Flt State := bf2 4 (hMinMax false)
def execHmin (r : Rec) (s : State) : Res := .next (issueRec (.hmin r) r (bodyHmin r) s)

/-- a × b + c on both elements. -/
def pairFma (md : FMode) (a b c : Lane) : Lane × FlagBits :=
  let lo := hFma md (a.toNat % 65536) (b.toNat % 65536) (c.toNat % 65536)
  let hi := hFma md (a.toNat / 65536) (b.toNat / 65536) (c.toNat / 65536)
  (BitVec.ofNat 32 (lo.1 + 65536 * hi.1), lo.2 ||| hi.2)

/-- HFMA (R248). -/
def bodyHfma : Rec → Ctx → State → Except Flt State := 
  vApply 5 (laneWise false pvH fun x a b c _ => pairFma x.md a b c)
def execHfma (r : Rec) (s : State) : Res := .next (issueRec (.hfma r) r (bodyHfma r) s)

/-! ## Integers (R249, R250) -/

/-- The high 32 bits of a signed or unsigned 64-bit product. -/
def mulHigh (signed : Bool) (a b : Lane) : Lane :=
  if signed then BitVec.ofInt 32 (a.toInt * b.toInt / 2 ^ 32) else BitVec.ofNat 32 (a.toNat * b.toNat / 2 ^ 32)
def clz32 (a : Lane) : Lane := if a = 0 then 32 else BitVec.ofNat 32 (31 - a.toNat.log2)
def popc32 (a : Lane) : Lane := BitVec.ofNat 32 ((List.range 32).countP fun i => a.getLsbD i)
def bitrev32 (a : Lane) : Lane := BitVec.ofNat 32 (packNat 1 (fun i => (a.getLsbD (31 - i)).toNat) 32)
/-- Field q of W bytes of a lane, extended (R250). -/
def extField (signed : Bool) (m : BitVec 5) (a : Lane) : Lane :=
  let w := if m.getLsbD 0 then 16 else 8
  let v := fieldOf a.toNat (w * (m.toNat / 2 % 4)) w
  if signed && 2 ^ (w - 1) ≤ v then BitVec.ofInt 32 ((v : Int) - 2 ^ w) else BitVec.ofNat 32 v
/-- The four bytes added with a clamp (R250). -/
def byteAdds (signed : Bool) (a b : Lane) : Lane × FlagBits :=
  let g (k : Nat) := byteAdd signed (fieldOf a.toNat (8 * k) 8) (fieldOf b.toNat (8 * k) 8)
  (BitVec.ofNat 32 (packNat 8 (fun k => (g k).1) 4), (g 0).2 ||| (g 1).2 ||| (g 2).2 ||| (g 3).2)

/-- IADD (R249). -/
def bodyIadd : Rec → Ctx → State → Except Flt State := int2 4 (fun a b => a + b)
def execIadd (r : Rec) (s : State) : Res := .next (issueRec (.iadd r) r (bodyIadd r) s)

/-- ISUB (R249). -/
def bodyIsub : Rec → Ctx → State → Except Flt State := int2 4 (fun a b => a - b)
def execIsub (r : Rec) (s : State) : Res := .next (issueRec (.isub r) r (bodyIsub r) s)

/-- IMUL (R249). -/
def bodyImul : Rec → Ctx → State → Except Flt State := int2 5 (fun a b => a * b)
def execImul (r : Rec) (s : State) : Res := .next (issueRec (.imul r) r (bodyImul r) s)

/-- IMULHS (R249). -/
def bodyImulhs : Rec → Ctx → State → Except Flt State := int2 5 (mulHigh true)
def execImulhs (r : Rec) (s : State) : Res := .next (issueRec (.imulhs r) r (bodyImulhs r) s)

/-- IMULHN (R249). -/
def bodyImulhn : Rec → Ctx → State → Except Flt State := int2 5 (mulHigh false)
def execImulhn (r : Rec) (s : State) : Res := .next (issueRec (.imulhn r) r (bodyImulhn r) s)

/-- IMINS (R249). -/
def bodyImins : Rec → Ctx → State → Except Flt State := int2 4 (fun a b => if b.toInt < a.toInt then b else a)
def execImins (r : Rec) (s : State) : Res := .next (issueRec (.imins r) r (bodyImins r) s)

/-- IMAXS (R249). -/
def bodyImaxs : Rec → Ctx → State → Except Flt State := int2 4 (fun a b => if a.toInt < b.toInt then b else a)
def execImaxs (r : Rec) (s : State) : Res := .next (issueRec (.imaxs r) r (bodyImaxs r) s)

/-- IMINN (R249). -/
def bodyIminn : Rec → Ctx → State → Except Flt State := int2 4 (fun a b => if b.toNat < a.toNat then b else a)
def execIminn (r : Rec) (s : State) : Res := .next (issueRec (.iminn r) r (bodyIminn r) s)

/-- IMAXN (R249). -/
def bodyImaxn : Rec → Ctx → State → Except Flt State := int2 4 (fun a b => if a.toNat < b.toNat then b else a)
def execImaxn (r : Rec) (s : State) : Res := .next (issueRec (.imaxn r) r (bodyImaxn r) s)

/-- IAND (R249). -/
def bodyIand : Rec → Ctx → State → Except Flt State := int2 4 (fun a b => a &&& b)
def execIand (r : Rec) (s : State) : Res := .next (issueRec (.iand r) r (bodyIand r) s)

/-- IOR (R249). -/
def bodyIor : Rec → Ctx → State → Except Flt State := int2 4 (fun a b => a ||| b)
def execIor (r : Rec) (s : State) : Res := .next (issueRec (.ior r) r (bodyIor r) s)

/-- IXOR (R249). -/
def bodyIxor : Rec → Ctx → State → Except Flt State := int2 4 (fun a b => a ^^^ b)
def execIxor (r : Rec) (s : State) : Res := .next (issueRec (.ixor r) r (bodyIxor r) s)

/-- IANDN (R249). -/
def bodyIandn : Rec → Ctx → State → Except Flt State := int2 4 (fun a b => a &&& ~~~b)
def execIandn (r : Rec) (s : State) : Res := .next (issueRec (.iandn r) r (bodyIandn r) s)

/-- ISHL (R249). -/
def bodyIshl : Rec → Ctx → State → Except Flt State := int2 4 (fun a b => a <<< (b.toNat % 32))
def execIshl (r : Rec) (s : State) : Res := .next (issueRec (.ishl r) r (bodyIshl r) s)

/-- ISHRL (R249). -/
def bodyIshrl : Rec → Ctx → State → Except Flt State := int2 4 (fun a b => a >>> (b.toNat % 32))
def execIshrl (r : Rec) (s : State) : Res := .next (issueRec (.ishrl r) r (bodyIshrl r) s)

/-- ISHRA (R249). -/
def bodyIshra : Rec → Ctx → State → Except Flt State := int2 4 (fun a b => a.sshiftRight (b.toNat % 32))
def execIshra (r : Rec) (s : State) : Res := .next (issueRec (.ishra r) r (bodyIshra r) s)

/-- IABS (R249, R250). -/
def bodyIabs : Rec → Ctx → State → Except Flt State := int1 4 (fun a => if a.msb then -a else a)
def execIabs (r : Rec) (s : State) : Res := .next (issueRec (.iabs r) r (bodyIabs r) s)

/-- ICLZ (R249, R250). -/
def bodyIclz : Rec → Ctx → State → Except Flt State := int1 4 (clz32)
def execIclz (r : Rec) (s : State) : Res := .next (issueRec (.iclz r) r (bodyIclz r) s)

/-- IPOPC (R249, R250). -/
def bodyIpopc : Rec → Ctx → State → Except Flt State := int1 4 (popc32)
def execIpopc (r : Rec) (s : State) : Res := .next (issueRec (.ipopc r) r (bodyIpopc r) s)

/-- BITREV (R249, R250). -/
def bodyBitrev : Rec → Ctx → State → Except Flt State := int1 4 (bitrev32)
def execBitrev (r : Rec) (s : State) : Res := .next (issueRec (.bitrev r) r (bodyBitrev r) s)

/-- ICMPEQ (R249). -/
def bodyIcmpeq : Rec → Ctx → State → Except Flt State := 
  compare fun _ a b => (decide (a = b), 0)
def execIcmpeq (r : Rec) (s : State) : Res := .next (issueRec (.icmpeq r) r (bodyIcmpeq r) s)

/-- ICMPLTS (R249). -/
def bodyIcmplts : Rec → Ctx → State → Except Flt State := 
  compare fun _ a b => (decide (a.toInt < b.toInt), 0)
def execIcmplts (r : Rec) (s : State) : Res := .next (issueRec (.icmplts r) r (bodyIcmplts r) s)

/-- ICMPLTN (R249). -/
def bodyIcmpltn : Rec → Ctx → State → Except Flt State := 
  compare fun _ a b => (decide (a.toNat < b.toNat), 0)
def execIcmpltn (r : Rec) (s : State) : Res := .next (issueRec (.icmpltn r) r (bodyIcmpltn r) s)

/-- IMAD (R249). -/
def bodyImad : Rec → Ctx → State → Except Flt State := 
  vApply 5 (laneWise false pvI fun _ a b c _ => (a * b + c, 0))
def execImad (r : Rec) (s : State) : Res := .next (issueRec (.imad r) r (bodyImad r) s)

/-- ISXT (R250). -/
def bodyIsxt : Rec → Ctx → State → Except Flt State := 
  vApply 4 (laneWise false pvI fun x a _ _ _ => (extField true x.mod a, 0))
def execIsxt (r : Rec) (s : State) : Res := .next (issueRec (.isxt r) r (bodyIsxt r) s)

/-- IZXT (R250). -/
def bodyIzxt : Rec → Ctx → State → Except Flt State := 
  vApply 4 (laneWise false pvI fun x a _ _ _ => (extField false x.mod a, 0))
def execIzxt (r : Rec) (s : State) : Res := .next (issueRec (.izxt r) r (bodyIzxt r) s)

/-- BADDS (R250). -/
def bodyBadds : Rec → Ctx → State → Except Flt State := 
  vApply 4 (laneWise false pvI fun _ a b _ _ => byteAdds true a b)
def execBadds (r : Rec) (s : State) : Res := .next (issueRec (.badds r) r (bodyBadds r) s)

/-- BADDN (R250). -/
def bodyBaddn : Rec → Ctx → State → Except Flt State := 
  vApply 4 (laneWise false pvI fun _ a b _ _ => byteAdds false a b)
def execBaddn (r : Rec) (s : State) : Res := .next (issueRec (.baddn r) r (bodyBaddn r) s)

/-! ## Conversions (R251, R252) -/

/-- A narrowed value of w bits at position q of a lane, the rest zero, or kept when merging (R252). -/
def placeAt (w q : Nat) (mrg : Bool) (old : Lane) (v : Nat) : Lane :=
  BitVec.ofNat 32 (putField (if mrg then old.toNat else 0) (w * q) w v)

/-- A narrowing conversion to w bits at the position and with the merge bit that MOD gives; `pv` is the poisoned
value of its format. -/
def narrow (w : Nat) (pos : BitVec 5 → Nat) (mrgBit : Nat) (pv : BitVec 5 → Nat) (f : VArgs → Lane → Nat × FlagBits)
    (r : Rec) : Ctx → State → Except Flt State :=
  let mrg := r.mod.getLsbD mrgBit
  vApply 4 (laneWise mrg (fun x old => placeAt w (pos x.mod) mrg old (pv x.mod)) fun x a _ _ old =>
    let y := f x a
    (placeAt w (pos x.mod) mrg old y.1, y.2)) r

def halfPos (m : BitVec 5) : Nat := m.toNat % 2
def bytePos (m : BitVec 5) : Nat := m.toNat / 2 % 4
/-- The 8-bit format that MOD[0] names. -/
def f8Fmt (m : BitVec 5) : Fmt := if m.getLsbD 0 then e5m2 else e4m3

/-- CVTFI (R109). -/
def bodyCvtfi : Rec → Ctx → State → Except Flt State := vApply 4 (laneWise false pvI fun x a _ _ _ => toInt32 true x.md a)
def execCvtfi (r : Rec) (s : State) : Res := .next (issueRec (.cvtfi r) r (bodyCvtfi r) s)

/-- CVTFN (R109). -/
def bodyCvtfn : Rec → Ctx → State → Except Flt State := vApply 4 (laneWise false pvI fun x a _ _ _ => toInt32 false x.md a)
def execCvtfn (r : Rec) (s : State) : Res := .next (issueRec (.cvtfn r) r (bodyCvtfn r) s)

/-- CVTIF (R109). -/
def bodyCvtif : Rec → Ctx → State → Except Flt State := fp1 4 (ofInt32 true)
def execCvtif (r : Rec) (s : State) : Res := .next (issueRec (.cvtif r) r (bodyCvtif r) s)

/-- CVTNF (R109). -/
def bodyCvtnf : Rec → Ctx → State → Except Flt State := fp1 4 (ofInt32 false)
def execCvtnf (r : Rec) (s : State) : Res := .next (issueRec (.cvtnf r) r (bodyCvtnf r) s)

/-- CVTFH (R108, R252). -/
def bodyCvtfh : Rec → Ctx → State → Except Flt State := 
  narrow 16 halfPos 1 (fun _ => canonNaN bf16) fun x a => convert fp32 bf16 x.md a.toNat
def execCvtfh (r : Rec) (s : State) : Res := .next (issueRec (.cvtfh r) r (bodyCvtfh r) s)

/-- CVTHF (R108, R252). -/
def bodyCvthf : Rec → Ctx → State → Except Flt State := 
  vApply 4 (laneWise false pvF fun x a _ _ _ => widen bf16 x.md.ftz (fieldOf a.toNat (16 * halfPos x.mod) 16))
def execCvthf (r : Rec) (s : State) : Res := .next (issueRec (.cvthf r) r (bodyCvthf r) s)

/-- CVTF8 (R106, R108, R252). -/
def bodyCvtf8 : Rec → Ctx → State → Except Flt State := 
  narrow 8 bytePos 3 (fun m => canonNaN (f8Fmt m)) fun x a => convert fp32 (f8Fmt x.mod) x.md a.toNat
def execCvtf8 (r : Rec) (s : State) : Res := .next (issueRec (.cvtf8 r) r (bodyCvtf8 r) s)

/-- CVT8F (R108, R252). -/
def bodyCvt8f : Rec → Ctx → State → Except Flt State := 
  vApply 4 (laneWise false pvF fun x a _ _ _ => widen (f8Fmt x.mod) x.md.ftz (fieldOf a.toNat (8 * bytePos x.mod) 8))
def execCvt8f (r : Rec) (s : State) : Res := .next (issueRec (.cvt8f r) r (bodyCvt8f r) s)

/-- CVTI8 (R110, R252). -/
def bodyCvti8 : Rec → Ctx → State → Except Flt State := 
  narrow 8 bytePos 3 (fun _ => 0) fun x a => toInt8 (x.mod.getLsbD 0) x.md a
def execCvti8 (r : Rec) (s : State) : Res := .next (issueRec (.cvti8 r) r (bodyCvti8 r) s)

/-- Byte q of a lane, sign-extended or zero-extended. -/
def byteExt (m : BitVec 5) (a : Lane) : Lane :=
  let b : Byte := BitVec.ofNat 8 (fieldOf a.toNat (8 * bytePos m) 8)
  if m.getLsbD 0 then b.zeroExtend 32 else b.signExtend 32

/-- CVT8I (R110, R252). -/
def bodyCvt8i : Rec → Ctx → State → Except Flt State := 
  vApply 4 (laneWise false pvI fun x a _ _ _ => (byteExt x.mod a, 0))
def execCvt8i (r : Rec) (s : State) : Res := .next (issueRec (.cvt8i r) r (bodyCvt8i r) s)

end Sys2Proof.Machine
end

