-- ==== Sys2Proof/Machine/VectorAcross.lean ====
section
/-! DEFINITION. Vector operations across lanes (R253–R263): quantisation helpers, movement, masks, reductions, scans
and the routing helpers. -/

namespace Sys2Proof.Machine

/-! ## Candidates of an order (R103, R260, R263) -/

/-- An included lane that may be selected: its place in the order, its number, the lane as the order reads it. -/
structure Cand where
  key : Int
  i   : Nat
  v   : Lane
  deriving DecidableEq, Repr

/-- The candidates of FMAX order or of signed order: NaN lanes are passed over. -/
def candidates (int : Bool) (md : FMode) (v : Row) (ks : BitVec 64) : List Cand :=
  (included ks).filterMap fun i =>
    let a := lane v i
    if int then some ⟨a.toInt, i, a⟩
    else
      let b := flush32 md a
      if isNaN32 b then none else some ⟨ordKey b, i, b⟩
/-- IV for a signalling included lane. -/
def sigFlags (int : Bool) (v : Row) (ks : BitVec 64) : FlagBits :=
  flIf (!int && (included ks).any fun i => isSNaN32 (lane v i)) flIV
/-- The largest candidate, the lower lane of equals. -/
def bestOf : List Cand → Option Cand
  | [] => none
  | c :: l => match bestOf l with
    | none => some c
    | some d => if c.key < d.key then some d else some c
def negKey (c : Cand) : Cand := { c with key := -c.key }
/-- The k best in descending order. -/
def topOf : Nat → List Cand → List Cand
  | 0, _ => []
  | k + 1, l => match bestOf l with
    | none => []
    | some c => c :: topOf k (l.filter fun d => d.i ≠ c.i)

def negInf32 : Lane := 0xFF800000
def posInf32 : Lane := 0x7F800000
def minInt32 : Lane := 0x80000000
def maxInt32 : Lane := 0x7FFFFFFF
/-- INT of the reductions (R260). -/
def isInt (m : BitVec 5) : Bool := m.getLsbD 3
def pvR (x : VArgs) : Lane := if isInt x.mod then 0 else nan32

/-! ## Quantisation helpers (R253, R254) -/

/-- The largest magnitude of the included lanes. -/
def qmaxOf (x : VArgs) : Lane × FlagBits :=
  let v := mkRow fun i => lane x.a.row i &&& 0x7FFFFFFF
  match bestOf (candidates false x.md v x.ks) with
  | some c => (c.v, sigFlags false v x.ks)
  | none => (if x.ks = 0 then 0 else nan32, sigFlags false v x.ks)
/-- QMAX (R253). -/
def bodyQmax : Rec → Ctx → State → Except Flt State := vApply 8 (oneForAll (fun _ => nan32) qmaxOf)
def execQmax (r : Rec) (s : State) : Res := .next (issueRec (.qmax r) r (bodyQmax r) s)

/-- The largest value of the format that MOD[1:0] of QSC names (R254). -/
def qscMax (m : BitVec 5) : Nat :=
  match m.toNat % 4 with
  | 0 => 448 | 1 => 57344 | _ => 127

/-- QSC (R254). -/
def bodyQsc : Rec → Ctx → State → Except Flt State := 
  vApply 4 (laneWise false pvF fun x a _ _ _ => fQsc (qscMax x.mod) x.md a)
def execQsc (r : Rec) (s : State) : Res := .next (issueRec (.qsc r) r (bodyQsc r) s)

/-! ## Movement (R255–R258) -/

/-- MOVV (R255). -/
def bodyMovv : Rec → Ctx → State → Except Flt State := vApply 4 (moveLanes fun x i => x.a.at_ i)
def execMovv (r : Rec) (s : State) : Res := .next (issueRec (.movv r) r (bodyMovv r) s)

/-- VMOVI (R255). -/
def bodyVmovi : Rec → Ctx → State → Except Flt State := 
  vApply 4 (moveLanes fun x i => (if x.mod.getLsbD 0 then lane x.a.row i + BitVec.ofNat 32 i else lane x.a.row i, false))
def execVmovi (r : Rec) (s : State) : Res := .next (issueRec (.vmovi r) r (bodyVmovi r) s)

/-- VSEL (R255). -/
def bodyVsel : Rec → Ctx → State → Except Flt State := 
  vApply 4 (moveLanes fun x i => if x.ks.getLsbD i then x.a.at_ i else x.b.at_ i)
def execVsel (r : Rec) (s : State) : Res := .next (issueRec (.vsel r) r (bodyVsel r) s)

/-- PERM: lane x[6:0] of the two rows, or 0 when x[7] is set (R256). -/
def permLane (x : VArgs) (i : Nat) : Lane × Bool :=
  let n := lane x.c.row i
  let k := n.toNat % 128
  let v := if n.getLsbD 7 then (0, false) else if k < 64 then x.a.at_ k else x.b.at_ (k - 64)
  (v.1, v.2 || x.c.tags.getLsbD i)

/-- PERM (R256). -/
def bodyPerm : Rec → Ctx → State → Except Flt State := vApply 3 (moveLanes permLane)
def execPerm (r : Rec) (s : State) : Res := .next (issueRec (.perm r) r (bodyPerm r) s)

/-- Byte j of the 512 bytes that start with a (R257). -/
def byteOf2 (x : VArgs) (j : Nat) : Byte := if j % 512 < 256 then byteAt x.a.row (j % 512) else byteAt x.b.row (j % 512 - 256)
def tagOf2 (x : VArgs) (j : Nat) : Bool :=
  if j % 512 < 256 then x.a.tags.getLsbD (j % 512 / 4) else x.b.tags.getLsbD ((j % 512 - 256) / 4)
/-- ROTM's lane i: four bytes from byte 4i + k on; a poisoned count poisons every lane (R243, R257). -/
def rotmLane (k : Nat) (bad : Bool) (x : VArgs) (i : Nat) : Lane × Bool :=
  (BitVec.ofNat 32 (packNat 8 (fun b => (byteOf2 x (4 * i + b + k)).toNat) 4),
    bad || (List.range 4).any fun b => tagOf2 x (4 * i + b + k))
/-- The count of a ROTM: 8 · MOD, or the low bits of lane 0 of the third source. -/
def rotmCount (r : Rec) (x : VArgs) : Nat × Bool :=
  match r.o0 with
  | .v _ _ true _ _ => ((lane x.c.row 0).toNat % 512, x.c.tags.getLsbD 0)
  | _ => (8 * r.mod.toNat, false)
/-- ROTM (R257). -/
def bodyRotm (r : Rec) : Ctx → State → Except Flt State :=
  vApply 3 (fun x => moveLanes (rotmLane (rotmCount r x).1 (rotmCount r x).2) x) r
def execRotm (r : Rec) (s : State) : Res := .next (issueRec (.rotm r) r (bodyRotm r) s)

/-- BCLN (R258). -/
def bodyBcln : Rec → Ctx → State → Except Flt State := vApply 3 (moveLanes fun x _ => x.a.at_ ((lane x.b.row 0).toNat % 64))
def execBcln (r : Rec) (s : State) : Res := .next (issueRec (.bcln r) r (bodyBcln r) s)

/-- COMP (R258). -/
def bodyComp : Rec → Ctx → State → Except Flt State := 
  vApply 3 (moveLanes fun x i => match (included x.ks)[i]? with
    | some j => x.a.at_ j
    | none => (0, false))
def execComp (r : Rec) (s : State) : Res := .next (issueRec (.comp r) r (bodyComp r) s)

/-- EXPD (R258). -/
def bodyExpd : Rec → Ctx → State → Except Flt State := 
  vApply 3 (moveLanes fun x i => if x.ks.getLsbD i then x.a.at_ ((List.range i).countP fun j => x.ks.getLsbD j)
    else (0, false))
def execExpd (r : Rec) (s : State) : Res := .next (issueRec (.expd r) r (bodyExpd r) s)

/-- LUT16 (R258). -/
def bodyLut16 : Rec → Ctx → State → Except Flt State := 
  vApply 4 (moveLanes fun x i =>
    let v := x.b.at_ (fieldOf (lane x.a.row i).toNat (4 * (x.mod.toNat % 8)) 4)
    (v.1, v.2 || x.a.tags.getLsbD i))
def execLut16 (r : Rec) (s : State) : Res := .next (issueRec (.lut16 r) r (bodyLut16 r) s)

/-! ## Masks (R259) -/

/-- A mask operation on K operands 1 and 2. -/
def kOp (f : BitVec 64 → BitVec 64 → BitVec 64) (r : Rec) (c : Ctx) (s : State) : Except Flt State :=
  let x := ixOf r.nest c.k
  .ok (kPut r c 2 (f (kRead r.o1 x s) (kRead r.o2 x s)) 0 s)

/-- KAND (R259). -/
def bodyKand : Rec → Ctx → State → Except Flt State := kOp (fun a b => a &&& b)
def execKand (r : Rec) (s : State) : Res := .next (issueRec (.kand r) r (bodyKand r) s)

/-- KOR (R259). -/
def bodyKor : Rec → Ctx → State → Except Flt State := kOp (fun a b => a ||| b)
def execKor (r : Rec) (s : State) : Res := .next (issueRec (.kor r) r (bodyKor r) s)

/-- KXOR (R259). -/
def bodyKxor : Rec → Ctx → State → Except Flt State := kOp (fun a b => a ^^^ b)
def execKxor (r : Rec) (s : State) : Res := .next (issueRec (.kxor r) r (bodyKxor r) s)

/-- KNOT (R259). -/
def bodyKnot : Rec → Ctx → State → Except Flt State := kOp (fun a _ => ~~~a)
def execKnot (r : Rec) (s : State) : Res := .next (issueRec (.knot r) r (bodyKnot r) s)

/-- KFIRST (R259). -/
def bodyKfirst : Rec → Ctx → State → Except Flt State := kOp (fun a _ => a &&& -a)
def execKfirst (r : Rec) (s : State) : Res := .next (issueRec (.kfirst r) r (bodyKfirst r) s)

/-- KPOPC (R259). -/
def bodyKpopc (r : Rec) (c : Ctx) (s : State) : Except Flt State :=
  let n := BitVec.ofNat 32 (included (kRead r.o1 (ixOf r.nest c.k) s)).length
  vPut r c 2 (activeOf r.o0 s) ⟨mkRow fun _ => n, 0, 0⟩ s
def execKpopc (r : Rec) (s : State) : Res := .next (issueRec (.kpopc r) r (bodyKpopc r) s)

/-- KMOV in its four forms (R259). -/
def bodyKmov (r : Rec) (c : Ctx) (s : State) : Except Flt State :=
  let x := ixOf r.nest c.k
  match r.o0, r.o1 with
  | .k _ _, .k _ _ => .ok (kPut r c 2 (kRead r.o1 x s) 0 s)
  | .k _ _, .imm w => .ok (kPut r c 2 (w.zeroExtend 64) 0 s)
  | .k _ _, o => (vRead o x s).map fun a =>
      kPut r c 2 (mkTags 64 fun i => !a.tags.getLsbD i && lane a.row i != 0) 0 s
  | _, o =>
    let m := kRead o x s
    vPut r c 2 (activeOf r.o0 s) ⟨mkRow fun i => if m.getLsbD i then 0xFFFFFFFF else 0, 0, 0⟩ s
def execKmov (r : Rec) (s : State) : Res := .next (issueRec (.kmov r) r (bodyKmov r) s)

/-- KMOV.HI reads its own destination (R243, R259). -/
def bodyKmovHi (r : Rec) (c : Ctx) (s : State) : Except Flt State :=
  match r.o1 with
  | .imm w => .ok (kPut r c 2 (w ++ (kRead r.o0 (ixOf r.nest c.k) s).extractLsb' 0 32) 0 s)
  | _ => .ok s
def execKmovHi (r : Rec) (s : State) : Res := .next (issueRec (.kmovHi r) r (bodyKmovHi r) s)

/-! ## Reductions and scans (R260, R261) -/

/-- One level of the RSUM tree: the sums of adjacent pairs and the flags so far. -/
def pairSums (add : Lane → Lane → Lane × FlagBits) : List Lane → List Lane × FlagBits
  | a :: b :: l =>
    let y := add a b
    let z := pairSums add l
    (y.1 :: z.1, y.2 ||| z.2)
  | l => (l, 0)
/-- n levels of the tree. -/
def treeSum (add : Lane → Lane → Lane × FlagBits) : Nat → List Lane × FlagBits → List Lane × FlagBits
  | 0, x => x
  | n + 1, x =>
    let y := pairSums add x.1
    treeSum add n (y.1, x.2 ||| y.2)

/-- RSUM: the wrapping sum, or the tree with −0 in excluded lanes. -/
def rsumOf (x : VArgs) : Lane × FlagBits :=
  if isInt x.mod then ((included x.ks).foldl (fun a i => a + lane x.a.row i) 0, 0)
  else
    let y := treeSum (fAdd x.md) 6 ((List.range 64).map fun i => if x.ks.getLsbD i then lane x.a.row i else 0x80000000, 0)
    (y.1.headD 0, y.2)
/-- RMAX and RMIN. -/
def rmaxOf (neg : Bool) (x : VArgs) : Lane × FlagBits :=
  let int := isInt x.mod
  let l := candidates int x.md x.a.row x.ks
  let none_ : Lane :=
    if int then (if neg then maxInt32 else minInt32)
    else if x.ks != 0 then nan32
    else if neg then posInf32 else negInf32
  ((bestOf (if neg then l.map negKey else l)).elim none_ (·.v), sigFlags int x.a.row x.ks)
/-- RARGMX: 64 when there is no candidate. -/
def rargmxOf (x : VArgs) : Lane × FlagBits :=
  let int := isInt x.mod
  (BitVec.ofNat 32 ((bestOf (candidates int x.md x.a.row x.ks)).elim 64 (·.i)), sigFlags int x.a.row x.ks)

/-- RSUM (R260). -/
def bodyRsum : Rec → Ctx → State → Except Flt State := vApply 8 (oneForAll pvR rsumOf)
def execRsum (r : Rec) (s : State) : Res := .next (issueRec (.rsum r) r (bodyRsum r) s)

/-- RMAX (R260). -/
def bodyRmax : Rec → Ctx → State → Except Flt State := vApply 8 (oneForAll pvR (rmaxOf false))
def execRmax (r : Rec) (s : State) : Res := .next (issueRec (.rmax r) r (bodyRmax r) s)

/-- RMIN (R260). -/
def bodyRmin : Rec → Ctx → State → Except Flt State := vApply 8 (oneForAll pvR (rmaxOf true))
def execRmin (r : Rec) (s : State) : Res := .next (issueRec (.rmin r) r (bodyRmin r) s)

/-- RARGMX (R260). -/
def bodyRargmx : Rec → Ctx → State → Except Flt State := vApply 8 (oneForAll (fun _ => 0) rargmxOf)
def execRargmx (r : Rec) (s : State) : Res := .next (issueRec (.rargmx r) r (bodyRargmx r) s)

/-- The running values of a scan, from lane i on: value, poison and flags so far (R261). -/
def scanFrom (step : Lane → Lane → Lane × FlagBits) (pv : Lane) (x : VArgs) :
    Nat → Nat → Lane → Bool → FlagBits → List (Lane × Bool) × FlagBits
  | 0, _, _, _, fl => ([], fl)
  | n + 1, i, v, p, fl =>
    let take := x.ks.getLsbD i
    let p' := p || (take && x.a.tags.getLsbD i)
    let y := if take && !p' then step v (lane x.a.row i) else (v, 0)
    let z := scanFrom step pv x n (i + 1) y.1 p' (fl ||| y.2)
    ((if p' then pv else y.1, p') :: z.1, z.2)
/-- A scan's result; a poisoned included lane poisons its own lane and those after it. -/
def scanOf (int : FMode → Lane → Lane → Lane × FlagBits) (fp : FMode → Lane → Lane → Lane × FlagBits) (i0 f0 : Lane)
    (x : VArgs) : VRes :=
  let y := scanFrom ((if isInt x.mod then int else fp) x.md) (pvR x) x 64 0 (if isInt x.mod then i0 else f0) false 0
  let get (i : Nat) : Lane × Bool := y.1.getD i (0, false)
  ⟨mkRow fun i => (get i).1, mkTags 64 fun i => (get i).2, if x.act = 0 then 0 else y.2⟩

/-- SCANA (R261). -/
def bodyScana : Rec → Ctx → State → Except Flt State := vApply 8 (scanOf (fun _ a b => (a + b, 0)) fAdd 0 0x80000000)
def execScana (r : Rec) (s : State) : Res := .next (issueRec (.scana r) r (bodyScana r) s)

/-- SCANM (R261). -/
def bodyScanm : Rec → Ctx → State → Except Flt State := 
  vApply 8 (scanOf (fun _ a b => (if a.toInt < b.toInt then b else a, 0)) (fMinMax true) minInt32 negInf32)
def execScanm (r : Rec) (s : State) : Res := .next (issueRec (.scanm r) r (bodyScanm r) s)

/-! ## Routing helpers (R262, R263) -/

/-- HISTB: the count of each bin, plus c when there is a third source. -/
def histbOf (x : VArgs) : VRes :=
  if x.a.tags &&& x.ks != 0 then ⟨0, BitVec.allOnes 64, 0⟩
  else ⟨mkRow fun b => if x.c.tags.getLsbD b then 0 else
      lane x.c.row b + BitVec.ofNat 32 ((included x.ks).countP fun i => (lane x.a.row i).toNat = b), x.c.tags, 0⟩

/-- HISTB (R262). -/
def bodyHistb : Rec → Ctx → State → Except Flt State := vApply 8 histbOf
def execHistb (r : Rec) (s : State) : Res := .next (issueRec (.histb r) r (bodyHistb r) s)

/-- TOPKV: the k best in lanes 0 on, their lane numbers in lanes 8 on (R263). -/
def topkvOf (x : VArgs) : VRes :=
  let int := isInt x.mod
  let k := x.mod.toNat % 8 + 1
  if x.a.tags &&& x.kb != 0 then ⟨mkRow fun i => if i < k then pvR x else 0, BitVec.allOnes 64, 0⟩
  else
    let l := topOf k (candidates int x.md x.a.row x.kb)
    let val (i : Nat) : Lane := match l[i]? with
      | some c => c.v
      | none => if int then minInt32 else negInf32
    let idx (i : Nat) : Lane := match l[i]? with
      | some c => BitVec.ofNat 32 c.i
      | none => 0xFFFFFFFF
    ⟨mkRow fun i => if i < k then val i else if 8 ≤ i && i < 8 + k then idx (i - 8) else 0, 0,
      if x.act = 0 then 0 else sigFlags int x.a.row x.kb⟩

/-- TOPKV (R263). -/
def bodyTopkv : Rec → Ctx → State → Except Flt State := vApply 12 topkvOf
def execTopkv (r : Rec) (s : State) : Res := .next (issueRec (.topkv r) r (bodyTopkv r) s)

end Sys2Proof.Machine
end

