-- ==== Sys2Proof/Machine/VectorTile.lean ====
section
/-! DEFINITION. Tile registers, mode and flags, and register parking of the vector engine (R54, R55, R70, R264–R268),
and the legacy VCLRF (R330). -/

namespace Sys2Proof.Machine

/-! ## Tiles (R54, R55) -/

def Tile.rows (z : Tile) : Nat := z.shape.toNat % 16 + 1
def Tile.cols (z : Tile) : Nat := z.shape.toNat / 16 % 16 + 1
/-- ESZ: 16-bit elements. -/
def Tile.half (z : Tile) : Bool := z.shape.getLsbD 8
def Tile.cfg (z : Tile) : Bool := z.shape.getLsbD 9
def Tile.ebits (z : Tile) : Nat := if z.half then 16 else 32
/-- The first bit of element (i, j) in the body: bank (i + j) mod 16, word i (R54). -/
def Tile.bitOf (z : Tile) (i j : Nat) : Nat := (i + j) % 16 * 512 + i * z.ebits
def Tile.elem (z : Tile) (i j : Nat) : Nat := fieldOf z.body.toNat (z.bitOf i j) z.ebits
def Tile.tagAt (z : Tile) (i j : Nat) : Bool := z.tags.getLsbD (16 * i + j)
/-- Write one element, within the shape, with its tag. -/
def Tile.put (z : Tile) (i j v : Nat) (tag : Bool) : Tile :=
  if i < z.rows && j < z.cols then
    { z with body := BitVec.ofNat 8192 (putField z.body.toNat (z.bitOf i j) z.ebits v)
             tags := BitVec.ofNat 256 (putField z.tags.toNat (16 * i + j) 1 tag.toNat) }
  else z
def Tile.setDirty (z : Tile) : Tile := { z with shape := z.shape ||| 0x0400 }
/-- TCFG as it lands: the shape, configured and dirty, and a clear body (R55). -/
def Tile.configure (s : BitVec 9) : Tile := { body := 0, tags := 0, shape := s.zeroExtend 16 ||| 0x0600 }
/-- The lane or half lane that element j of a row takes (R264, R265). -/
def rowElem (half : Bool) (v : Row) (tags : BitVec 64) (j : Nat) : Nat × Bool :=
  if half then (fieldOf v.toNat (16 * j) 16, tags.getLsbD (j / 2)) else ((lane v j).toNat, tags.getLsbD j)
/-- TWRR as it lands. -/
def Tile.writeRow (z : Tile) (r : Nat) (v : Row) (tags : BitVec 64) : Tile :=
  ((List.range 16).foldl (fun t j => t.put r j (rowElem z.half v tags j).1 (rowElem z.half v tags j).2) z).setDirty
/-- TWRC as it lands: bits [15:0] of lane i under ESZ 1. -/
def Tile.writeCol (z : Tile) (c : Nat) (v : Row) (tags : BitVec 64) : Tile :=
  ((List.range 16).foldl (fun t i => t.put i c (lane v i).toNat (tags.getLsbD i)) z).setDirty
/-- A row of a tile in lanes, the rest zero. -/
def Tile.readRow (z : Tile) (r : Nat) : VSrc :=
  let e (j : Nat) : Nat × Bool := if j < z.cols then (z.elem r j, z.tagAt r j) else (0, false)
  if z.half then
    ⟨mkRow fun i => if i < 8 then BitVec.ofNat 32 ((e (2 * i)).1 + 65536 * (e (2 * i + 1)).1) else 0,
      mkTags 64 fun i => i < 8 && ((e (2 * i)).2 || (e (2 * i + 1)).2)⟩
  else ⟨mkRow fun i => if i < 16 then BitVec.ofNat 32 (e i).1 else 0, mkTags 64 fun i => i < 16 && (e i).2⟩
/-- A column of a tile in lanes, zero-extended. -/
def Tile.readCol (z : Tile) (c : Nat) : VSrc :=
  ⟨mkRow fun i => if i < z.rows then BitVec.ofNat 32 (z.elem i c) else 0, mkTags 64 fun i => i < z.rows && z.tagAt i c⟩

/-! ## Tile records (R264, R265) -/

/-- The tile-shape fault of an access (R356): unconfigured, row beyond, column beyond. -/
def tileFlt (n : Fin 4) (z : Tile) (cause idx : Nat) : Flt :=
  ⟨8, 1, n.val + cause * 4 + idx % 16 * 16 + z.shape.toNat * 256, 0, false, 0⟩

/-- A tile operand at an expansion: its tile, row or column, or the fault. A whole tile names no row. -/
def tileAt (o : Opnd) (whole : Bool) (x : Ix) (s : State) : Except Flt (Fin 4 × Nat) :=
  match o with
  | .zrow n i st =>
    let z := s.cur.ve.z[n]
    let k := (stepped i.toNat st x).toNat
    if !z.cfg then .error (tileFlt n z 0 k)
    else if !whole && z.rows ≤ k then .error (tileFlt n z 1 k) else .ok (n, k)
  | .zcol n i st =>
    let z := s.cur.ve.z[n]
    let k := (stepped i.toNat st x).toNat
    if !z.cfg then .error (tileFlt n z 0 k) else if z.cols ≤ k then .error (tileFlt n z 2 k) else .ok (n, k)
  | _ => .ok (0, 0)

/-- TCFG (R265). -/
def bodyTcfg (r : Rec) (c : Ctx) (s : State) : Except Flt State :=
  match r.o0, r.o1 with
  | .zrow n _ _, .imm w => .ok (s.landAfter c 3 (.tcfg n (w.extractLsb' 0 9)))
  | _, _ => .ok s
def execTcfg (r : Rec) (s : State) : Res := .next (issueRec (.tcfg r) r (bodyTcfg r) s)

/-- Read the source of a tile write and land it. -/
def tileWrite (r : Rec) (c : Ctx) (land : Fin 4 → Nat → VSrc → Land) (s : State) : Except Flt State :=
  match tileAt r.o0 false (ixOf r.nest c.k) s, vArgs r c s with
  | .error f, _ => .error f
  | _, .error f => .error f
  | .ok (n, k), .ok (x, t) => .ok (t.landAfter c 3 (land n k x.a))
/-- TWRR (R265). -/
def bodyTwrr (r : Rec) (c : Ctx) (s : State) : Except Flt State := tileWrite r c (fun n k v => .tileRow n k v.row v.tags) s
def execTwrr (r : Rec) (s : State) : Res := .next (issueRec (.twrr r) r (bodyTwrr r) s)
/-- TWRC (R265). -/
def bodyTwrc (r : Rec) (c : Ctx) (s : State) : Except Flt State := tileWrite r c (fun n k v => .tileCol n k v.row v.tags) s
def execTwrc (r : Rec) (s : State) : Res := .next (issueRec (.twrc r) r (bodyTwrc r) s)

/-- A tile read into a vector destination. -/
def tileRead (r : Rec) (c : Ctx) (whole : Bool) (get : Tile → Nat → VSrc) (s : State) : Except Flt State :=
  match tileAt r.o1 whole (ixOf r.nest c.k) s with
  | .error f => .error f
  | .ok (n, k) =>
    let v := get s.cur.ve.z[n] k
    vPut r c 3 (activeOf r.o0 s) ⟨v.row, v.tags, 0⟩ s
/-- TRDR (R265). -/
def bodyTrdr (r : Rec) (c : Ctx) (s : State) : Except Flt State := tileRead r c false Tile.readRow s
def execTrdr (r : Rec) (s : State) : Res := .next (issueRec (.trdr r) r (bodyTrdr r) s)
/-- TRDC (R265). -/
def bodyTrdc (r : Rec) (c : Ctx) (s : State) : Except Flt State := tileRead r c false Tile.readCol s
def execTrdc (r : Rec) (s : State) : Res := .next (issueRec (.trdc r) r (bodyTrdc r) s)
/-- TRDS: TSHAPE in every active lane (R265). -/
def bodyTrds (r : Rec) (c : Ctx) (s : State) : Except Flt State :=
  tileRead r c true (fun z _ => ⟨mkRow fun _ => z.shape.zeroExtend 32, 0⟩) s
def execTrds (r : Rec) (s : State) : Res := .next (issueRec (.trds r) r (bodyTrds r) s)

/-- TZERO and TREL land a change of the whole tile. -/
def tileWhole (r : Rec) (c : Ctx) (land : Fin 4 → Land) (s : State) : Except Flt State :=
  (tileAt r.o0 true (ixOf r.nest c.k) s).map fun p => s.landAfter c 3 (land p.1)
/-- TZERO (R265). -/
def bodyTzero (r : Rec) (c : Ctx) (s : State) : Except Flt State := tileWhole r c .tzero s
def execTzero (r : Rec) (s : State) : Res := .next (issueRec (.tzero r) r (bodyTzero r) s)
/-- TREL (R55, R265). -/
def bodyTrel (r : Rec) (c : Ctx) (s : State) : Except Flt State := tileWhole r c .trel s
def execTrel (r : Rec) (s : State) : Res := .next (issueRec (.trel r) r (bodyTrel r) s)

/-! ## Mode and flags (R266, R267) -/

/-- VMODE: the mode of the records issued from the next VE issue tick on (R120). -/
def bodyVmode (r : Rec) (_ : Ctx) (s : State) : Except Flt State :=
  match r.o1 with
  | .imm w => .ok (s.modCur fun x => { x with ve := { x.ve with mode := w.extractLsb' 0 4 } })
  | _ => .ok s
def execVmode (r : Rec) (s : State) : Res := .next (issueRec (.vmode r) r (bodyVmode r) s)

/-- The flags in every active lane, at +4. -/
def vflgRead (r : Rec) (c : Ctx) (s : State) : Except Flt State :=
  let v := s.cur.ve.flags.zeroExtend 32
  vPut r c 4 (activeOf r.o0 s) ⟨mkRow fun _ => v, 0, 0⟩ s
/-- Clear the flags of a mask at the issue tick. -/
def State.clearVflags (m : FlagBits) (s : State) : State :=
  s.modCur fun x => { x with ve := { x.ve with flags := x.ve.flags &&& ~~~m } }
/-- VFLG vdst (R267). -/
def bodyVflg (r : Rec) (c : Ctx) (s : State) : Except Flt State := vflgRead r c s
def execVflg (r : Rec) (s : State) : Res := .next (issueRec (.vflg r) r (bodyVflg r) s)
/-- VFLG.C: the read, if any, and the clear (R267). -/
def bodyVflgC (r : Rec) (c : Ctx) (s : State) : Except Flt State :=
  match r.o1 with
  | .imm w => (vflgRead r c s).map (State.clearVflags (w.extractLsb' 0 6))
  | _ => .ok s
def execVflgC (r : Rec) (s : State) : Res := .next (issueRec (.vflgC r) r (bodyVflgC r) s)
/-- VCLRF, the legacy form of VFLG.C 0x3F (R330). -/
def bodyVclrf (_ : Rec) (_ : Ctx) (s : State) : Except Flt State := .ok (s.clearVflags 0x3F)
def execVclrf (r : Rec) (s : State) : Res := .next (issueRec (.vclrf r) r (bodyVclrf r) s)

/-! ## Register parking (R70, R268) -/

/-- A row of a Crema slot and its element tags (R66). -/
def Crema.rowAt (x : Crema) (slot : Fin 16) (i : Nat) : SlotRow := assocGet 0 x.rows (128 * slot.val + i)
def Crema.tagsAt (x : Crema) (slot : Fin 16) (i : Nat) : BitVec 256 := assocGet 0 x.tags (128 * slot.val + i)
def Crema.putAt (x : Crema) (slot : Fin 16) (i : Nat) (v : SlotRow) (tags : BitVec 256) : Crema :=
  { x with rows := assocPut 0 x.rows (128 * slot.val + i) v, tags := assocPut 0 x.tags (128 * slot.val + i) tags }
/-- Column j of a slot row replaced. -/
def setSlotLane (r : SlotRow) (j : Nat) (v : Lane) : SlotRow := BitVec.ofNat 8192 (putField r.toNat (32 * j) 32 v.toNat)

/-- Write a register to column p of the parking slot (R70). -/
def Crema.parkIn (x : Crema) (p : Nat) (slot : Fin 16) (v : Row) (tags : BitVec 64) : Crema :=
  let y := (List.range 64).foldl (fun y i =>
    y.putAt slot i (setSlotLane (y.rowAt slot i) p (lane v i))
      (BitVec.ofNat 256 (putField (y.tagsAt slot i).toNat p 1 (tags.getLsbD i).toNat))) x
  { y with parked := y.parked.filter (fun e => e.1 ≠ p) ++ [(p, .slot slot)] }

/-- The parked register read from a slot's column. -/
def Crema.parkOut (x : Crema) (p : Nat) (slot : Fin 16) : VSrc :=
  ⟨mkRow fun i => slotLane (x.rowAt slot i) p, mkTags 64 fun i => (x.tagsAt slot i).getLsbD p⟩

/-- A register on its way to the park block, as it was parked last (R70, R268). -/
def Crema.parkMoving (x : Crema) (p : Nat) : Option VSrc :=
  x.moving.reverse.findSome? fun w => match w.move with
    | .park q v tags => if q = p then some ⟨v, tags⟩ else none
    | _ => none

/-- Bytes of the spill area of a cell's context: SPILLBASE of its ASID (R69). -/
def State.spillAt (s : State) (c : CellId) (write : Bool) (off w : Nat) : Except XFlt Nat :=
  (s.flatByte (s.gangOf c).asid (s.cell c).cc.spillBase write off w).map fun p => p.1.addr p.2

/-- The parked register of an index: zeros when it is not parked (R70). -/
def parkRead (p : Nat) (s : State) : Except Flt VSrc :=
  match s.cur.cr.parked.find? fun e => e.1 = p with
  | none => .ok ⟨0, 0⟩
  | some (_, .slot k) => .ok (s.cur.cr.parkOut p k)
  | some (_, .block) =>
    match s.cur.cr.parkMoving p with
    | some v => .ok v
    | none =>
    match s.spillAt s.curCell false (256 * p) 256 with
    | .error x => .error (xFlt .ve s.cur.cc.spillBase false false 0 x)
    | .ok a => .ok ⟨BitVec.ofNat 2048 (s.devRead a 256).1, allTags 64 (s.devRead a 256).2⟩

/-- The free spill entries of a cell (R50, R68). -/
def Cell.freeSpill (x : Cell) : Nat := x.cc.spillLen - x.cr.spilled.length

/-- The park index of an operand at an expansion. -/
def parkIx (o : Opnd) (x : Ix) : Nat :=
  match o with
  | .park p st => (stepped p.toNat st x).toNat
  | _ => 0

/-- VSPL (R268): the slot at the tail of the free list, taken at issue. -/
def bodyVspl (r : Rec) (c : Ctx) (s : State) : Except Flt State :=
  let x := ixOf r.nest c.k
  match vRead r.o1 x s, s.cur.cr.free.getLast? with
  | .error f, _ => .error f
  | _, none => .error ⟨9, 1, 2 * 2 ^ 28 + s.cur.freeSpill % 128 * 2 ^ 30, 0, false, 0⟩
  | .ok a, some slot => .ok (s.landAfter c 3 (.park (parkIx r.o0 x) slot a.row a.tags))
def execVspl (r : Rec) (s : State) : Res := .next (issueRec (.vspl r) r (bodyVspl r) s)

/-- VFIL (R268). -/
def bodyVfil (r : Rec) (c : Ctx) (s : State) : Except Flt State :=
  match parkRead (parkIx r.o1 (ixOf r.nest c.k)) s with
  | .error f => .error f
  | .ok v => vPut r c 3 (activeOf r.o0 s) ⟨v.row, v.tags, 0⟩ s
def execVfil (r : Rec) (s : State) : Res := .next (issueRec (.vfil r) r (bodyVfil r) s)

end Sys2Proof.Machine
end

