-- ==== Sys2Proof/Machine/CremaOps.lean ====
section
/-! DEFINITION. Crema's slot map (R66, R68–R70, R269): pending writes of a slot, allocation, spilling, refilling,
parked registers that move, and the events that do the work of a Crema freeze (R44, R279). -/

namespace Sys2Proof.Machine

/-! ## Looking up keys -/

def Crema.slotOf (x : Crema) (k : Key) : Option (Fin 16) := (List.finRange 16).find? fun i => decide (x.slots[i].key = some k)
def Crema.spilledOf (x : Crema) (k : Key) : Option Spilled := x.spilled.find? fun e => decide (e.key = k)
def Crema.setSlot (x : Crema) (i : Fin 16) (v : SlotInfo) : Crema := { x with slots := x.slots.set i v }
/-- Every element of a slot +0.0, unpoisoned (R66). -/
def Crema.clearSlot (x : Crema) (i : Fin 16) : Crema :=
  { x with rows := x.rows.filter fun e => decide (e.1 / 128 ≠ i.val), tags := x.tags.filter fun e => decide (e.1 / 128 ≠ i.val) }

/-! ## Writes of slot rows (R112, R116, R121, R274) -/

/-- The slot row to which a partial row is added, rounded RNE: a poisoned element stays poisoned (R121). -/
def addSlotRow (ftz : Bool) (old : SlotRow) (ot : BitVec 256) (p : SlotRow) (pt : BitVec 256) :
    SlotRow × BitVec 256 × FlagBits :=
  let md : FMode := ⟨.rne, false, ftz⟩
  let t := ot ||| pt
  let g (j : Nat) := finish32 md (fpAdd .rne (rd32 md (slotLane old j)) (decodeFp fp32 (slotLane p j).toNat))
  (mkSlotRow fun j => if t.getLsbD j then nan32 else (g j).1, t,
    (List.range 256).foldl (fun f j => if t.getLsbD j then f else f ||| (g j).2) 0)

/-- The slot a result in flight writes, and its row when it writes one. -/
def Land.slotRow : Land → Option (Fin 16 × Option Nat)
  | .slotAdd s r _ _ _ | .slotSet s r _ _ => some (s, some r)
  | .slotNaN s | .czero s => some (s, none)
  | _ => none

/-- Does a result write a row of a slot? -/
def Land.touches (d : Land) (slot : Fin 16) (row : Option Nat) : Bool :=
  match d.slotRow with
  | some (s, none) => s = slot
  | some (s, some r) => s = slot && (row.isNone || row = some r)
  | none => false

/-- What a result makes of row i of its slot, with the flags it raises there. A row that is replaced has the new tags, whatever the old
were (R121, R276, log entry 118). -/
def Land.onRow (d : Land) (i : Nat) (v : SlotRow × BitVec 256) : SlotRow × BitVec 256 × FlagBits :=
  match d with
  | .slotAdd _ r q t ftz => if r = i then addSlotRow ftz v.1 v.2 q t else (v.1, v.2, 0)
  | .slotSet _ r q t => if r = i then (q, t, 0) else (v.1, v.2, 0)
  | .slotNaN _ => (mkSlotRow fun _ => nan32, BitVec.allOnes 256, 0)
  | .czero _ => (0, 0, 0)
  | _ => (v.1, v.2, 0)

/-- Apply a result to its slot: one row, or all of them. -/
def Crema.applyLand (x : Crema) (d : Land) : Crema × FlagBits :=
  match d with
  | .slotAdd s r _ _ _ | .slotSet s r _ _ =>
    let y := d.onRow r (x.rowAt s r, x.tagsAt s r)
    (x.putAt s r y.1 y.2.1, y.2.2)
  | .slotNaN s =>
    ((List.range 128).foldl (fun x i => x.putAt s i (d.onRow i (0, 0)).1 (d.onRow i (0, 0)).2.1) x, 0)
  | .czero s => (x.clearSlot s, 0)
  | _ => (x, 0)

/-- Apply the pending results of a slot (of one row of it) that were issued before a number; each leaves only its
flags in flight. Writes of a row take effect in issue order (R269). -/
def settleList (slot : Fin 16) (row : Option Nat) (before : Nat) : List Landing → Crema → List Landing × Crema
  | [], x => ([], x)
  | l :: ls, x =>
    if l.dst.touches slot row && l.seq < before then
      let y := x.applyLand l.dst
      let z := settleList slot row before ls y.1
      ({ l with dst := .flags, mfl := l.mfl ||| y.2 } :: z.1, z.2)
    else
      let z := settleList slot row before ls x
      (l :: z.1, z.2)
def Cell.settle (x : Cell) (slot : Fin 16) (row : Option Nat) (before : Nat) : Cell :=
  let z := settleList slot row before x.flight x.cr
  { x with flight := z.1, cr := z.2 }

/-- Row i of a slot as a record issued now reads it: the stored row under the pending writes, in issue order (R269). -/
def Cell.slotView (x : Cell) (slot : Fin 16) (i : Nat) : SlotRow × BitVec 256 :=
  x.flight.foldl (fun v l => if l.dst.touches slot (some i) then ((l.dst.onRow i v).1, (l.dst.onRow i v).2.1) else v)
    (x.cr.rowAt slot i, x.cr.tagsAt slot i)
/-- Row i of a key; a key that holds no slot reads as +0.0 (R269). Until its window is replayed, the key of a window with
an uncorrectable error reads poisoned (R363). -/
def Cell.keyView (x : Cell) (k : Key) (i : Nat) : SlotRow × BitVec 256 :=
  let bad := x.me.win.any fun w => w.failed = 1 && w.key = k
  match x.cr.slotOf k with
  | some s => let v := x.slotView s i
    if bad then (mkSlotRow fun _ => nan32, BitVec.allOnes 256) else v
  | none => (0, 0)

/-- Are writes of a slot still due (R66, R269)? -/
def Cell.slotDue (x : Cell) (slot : Fin 16) : Bool :=
  x.flight.any (fun l => l.dst.touches slot none) || x.me.ops.any (fun o => 5 ≤ o.op && o.op ≤ 10 && o.slot = slot)
/-- Are writes of a key still due? -/
def Cell.keyDue (x : Cell) (k : Key) : Bool :=
  match x.cr.slotOf k with
  | some s => x.slotDue s
  | none => false

/-! ## Allocation and spilling (R66, R68, R70) -/

/-- A Crema-full fault (R356). -/
def cremaFull (k : Key) (cause : Nat) (x : Cell) : Flt :=
  ⟨9, 2, k.tile.toNat + k.label.toNat * 2 ^ 16 + cause * 2 ^ 28 + x.freeSpill % 128 * 2 ^ 30, 0, false, 0⟩

def Crema.addWork (x : Crema) (off due seq : Nat) (m : CremaMove) : Crema := { x with moving := x.moving ++ [⟨off, due, seq, m⟩] }
/-- The tick of the freeze that covers Crema work which arises now: Dstall ticks ahead, or the freeze in which the gang stands (R43,
R68, R279). -/
def State.moveDue (s : State) (g : GangId) : Nat :=
  let x := s.gang g
  if x.frozen then x.tick else x.tick + x.dstall
/-- The freeze request of that work. -/
def State.askMove (s : State) (g : GangId) (c : Cond) : State :=
  s.modGang g fun x => { x with reqs := x.reqs ++ [⟨if x.frozen then x.tick else x.tick + x.dstall, c⟩] }

/-- Registers parked in a slot that is taken move to the new tail of the free list, or to the park block (R70). -/
def Crema.movePark (x : Crema) (off due seq : Nat) (slot : Fin 16) : Crema :=
  (x.parked.filter fun e => e.2 = .slot slot).foldl (fun y e =>
    let v := x.parkOut e.1 slot
    match y.free.getLast? with
    | some t => y.parkIn e.1 t v.row v.tags
    | none => { y with parked := y.parked.map (fun d : Nat × ParkPlace => if d.1 = e.1 then (d.1, .block) else d) }.addWork
        off due seq (.park e.1 v.row v.tags)) x

/-- A free slot is given to a key: parked registers leave it, and every element is +0.0 (R66, R70). -/
def takeSlot (c : Ctx) (slot : Fin 16) (rest : List (Fin 16)) (info : SlotInfo) (s : State) : State :=
  let parked := s.cur.cr.parked.any fun e => e.2 = .slot slot
  let t := s.modCur fun x =>
    { x with cr := ((({ x.cr with free := rest }.movePark c.off (s.moveDue (s.gidOf s.curCell)) s.uid slot).clearSlot slot).setSlot slot info) }
  if parked then t.askMove (t.gidOf t.curCell) (.parkMove t.curCell) else t

/-- The spillable slot with the oldest last write, the lower number of equals (R68). -/
def Crema.victim (x : Crema) : Option (Fin 16) :=
  (List.finRange 16).foldl (fun b i =>
    if x.slots[i].spillable && x.slots[i].key.isSome then
      match b with
      | none => some i
      | some j => if x.slots[i].lastWrite < x.slots[j].lastWrite then some i else b
    else b) none

/-- The lowest free spill entry. -/
def Cell.freeEntry (x : Cell) : Option Nat :=
  (List.range x.cc.spillLen).find? fun e => !(x.cr.spilled.any fun p => p.entry = e)

/-- The rows of a slot by row number. -/
def Crema.slotRows (x : Crema) (slot : Fin 16) : SlotRows :=
  (x.rows.filter fun e => decide (e.1 / 128 = slot.val)).map fun e => (e.1 % 128, e.2)
def Crema.slotTags (x : Crema) (slot : Fin 16) : SlotTags :=
  (x.tags.filter fun e => decide (e.1 / 128 = slot.val)).map fun e => (e.1 % 128, e.2)

/-- A slot leaves for a spill entry: its pending writes take effect, its key enters the directory, and the slot is the
head of the free list (R68). -/
def Cell.spillSlot (x : Cell) (off due : Nat) (slot : Fin 16) (entry seq : Nat) : Cell :=
  let y := x.settle slot none seq
  match y.cr.slots[slot].key with
  | none => x
  | some k =>
    let i := y.cr.slots[slot]
    let cr : Crema := { y.cr with
      spilled := y.cr.spilled ++ [⟨k, entry, i.spillable, i.lastWrite⟩]
      free := slot :: y.cr.free }
    { y with cr := (cr.setSlot slot ⟨none, false, 0⟩).addWork off due seq (.spill entry (y.cr.slotRows slot) (y.cr.slotTags slot)) }

/-- Take a slot for a key by the rule of a first write (R66, R68). -/
def allocSlot (c : Ctx) (k : Key) (info : SlotInfo) (s : State) : Except Flt (Fin 16 × State) :=
  match s.cur.cr.free with
  | h :: rest => .ok (h, takeSlot c h rest info s)
  | [] =>
    match s.cur.cr.victim, s.cur.freeEntry with
    | none, _ => .error (cremaFull k 0 s.cur)
    | some _, none => .error (cremaFull k 1 s.cur)
    | some v, some e =>
      let t := (s.modCur fun x => x.spillSlot c.off (s.moveDue (s.gidOf s.curCell)) v e s.uid).askMove (s.gidOf s.curCell) (.spill s.curCell k)
      .ok (v, takeSlot c v t.cur.cr.free.tail info t)

/-! ## The spill area (R69) -/

/-- Write a block of the spill area, as a write to device memory with its parity delta (R91). -/
def State.spillPut (c : CellId) (off : Nat) (v : Row) (tag : Bool) (s : State) : Except XFlt State :=
  (s.spillAt c true off 256).map fun a =>
    let w : FWrite := { uid := s.uid, cell := c, path := .mp, cmd := 0, by_ := none, loc := .hbm (a / 256), op := .set, v := v,
                        bytes := BitVec.allOnes 256, tag := tag, held := false }
    ((s.blockWrite (a / 256) v (BitVec.allOnes 256) tag).addDelta w (a / 256)).fresh
/-- Block k of a slot row in a spill entry: 64 columns. -/
def rowBlock (r : SlotRow) (k : Nat) : Row := r.extractLsb' (2048 * k) 2048
/-- Write the 512 blocks of a slot to entry e. -/
def State.spillWrite (c : CellId) (e : Nat) (rows : SlotRows) (tags : SlotTags) : Nat → State → Except XFlt State
  | 0, s => .ok s
  | n + 1, s =>
    match State.spillWrite c e rows tags n s with
    | .error x => .error x
    | .ok t =>
      let r := assocGet 0 rows (n / 4)
      let g := assocGet 0 tags (n / 4)
      t.spillPut c (16384 + 131072 * e + 256 * n) (rowBlock r (n % 4)) (fieldOf g.toNat (64 * (n % 4)) 64 ≠ 0)
/-- The rows of entry e while they are still on their way there (R68). -/
def Crema.spilling (x : Crema) (e : Nat) : Option (SlotRows × SlotTags) :=
  x.moving.reverse.findSome? fun w => match w.move with
    | .spill d rows tags => if d = e then some (rows, tags) else none
    | _ => none
/-- A slot's 128 rows from a list. -/
def Crema.putRows (x : Crema) (slot : Fin 16) (rows : SlotRows) (tags : SlotTags) : Crema :=
  (List.range 128).foldl (fun y i => y.putAt slot i (assocGet 0 rows i) (assocGet 0 tags i)) x
/-- The blocks of a spill entry in device memory, read into a slot. -/
def State.spillLoad (c : CellId) (e : Nat) (slot : Fin 16) : Nat → State → Except XFlt Crema
  | 0, s => .ok (s.cell c).cr
  | n + 1, s =>
    match State.spillLoad c e slot n s, s.spillAt c false (16384 + 131072 * e + 256 * n) 256 with
    | .error x, _ => .error x
    | _, .error x => .error x
    | .ok x, .ok a =>
      let b := s.devRead a 256
      .ok (x.putAt slot (n / 4)
        (BitVec.ofNat 8192 (putField (x.rowAt slot (n / 4)).toNat (2048 * (n % 4)) 2048 b.1))
        (BitVec.ofNat 256 (putField (x.tagsAt slot (n / 4)).toNat (64 * (n % 4)) 64 (allTags 64 b.2).toNat)))
/-- The rows of a spill entry, read into a slot. -/
def State.spillRead (c : CellId) (e : Nat) (slot : Fin 16) (s : State) : Except XFlt Crema :=
  match (s.cell c).cr.spilling e with
  | some (rows, tags) => .ok ((s.cell c).cr.putRows slot rows tags)
  | none => State.spillLoad c e slot 512 s
/-- Does a page of the spill area hold its accesses: one that a layout change has locked, or a duplicated or migrating one (R88, R92,
R93)? -/
def State.spillHeld (s : State) (c : CellId) (write : Bool) : Option Nat :=
  if !s.layout.moving && s.dups = [] && s.migs = [] then none
  else (List.range (2 * (s.cell c).cc.spillLen + 1)).findSome? fun i => match s.spillAt c false (65536 * i) 1 with
    | .ok a => if (if write then s.frameHeld (a / 65536) else s.lockedFrame (a / 65536)) then some (a / 65536) else none
    | .error _ => none
/-- A move into or out of the spill area, unless a page of it holds its accesses; a write to a duplicated page collapses it (R92). -/
def State.spillWhen (s : State) (c : CellId) (write : Bool) (t : State) : State :=
  match s.spillHeld c write with
  | none => t
  | some f => if (s.dupOf f).any (fun d => !d.collapse) then s.joinCollapse f 0 else s

/-- A spilled key is refilled into a slot taken by the same rule, and its entry is freed (R68). -/
def fillKey (c : Ctx) (p : Spilled) (s : State) : Except Flt State :=
  match allocSlot c p.key ⟨some p.key, p.spillable, p.lastWrite⟩ s with
  | .error f => .error f
  | .ok (slot, t) =>
    match State.spillRead t.curCell p.entry slot t with
    | .error x => .error (xFlt .me t.cur.cc.spillBase false false 0 x)
    | .ok cr => .ok (t.setCur { t.cur with cr :=
        { cr with spilled := cr.spilled.filter fun e => decide (e.key ≠ p.key) } })

/-- A record reads or writes a key: a spilled one is refilled first, under a freeze (R68, R269). -/
def needKey (c : Ctx) (k : Key) (s : State) : Except Flt State :=
  match s.cur.cr.spilledOf k with
  | none => .ok s
  | some p => (fillKey c p s).map fun t =>
      (t.modCur fun x => { x with cr := x.cr.addWork c.off (t.moveDue (t.gidOf t.curCell)) t.uid (.fill k) }).askMove (t.gidOf t.curCell) (.crema t.curCell k)
def needKeys (c : Ctx) : List Key → State → Except Flt State
  | [], s => .ok s
  | k :: l, s => match needKey c k s with
    | .error f => .error f
    | .ok t => needKeys c l t

/-- A record writes a key: its slot is allocated when it holds none, and the last-write tick is the issue tick. -/
def writeKey (c : Ctx) (k : Key) (s : State) : Except Flt (Fin 16 × State) :=
  match needKey c k s with
  | .error f => .error f
  | .ok t =>
    let stamp (i : Fin 16) (u : State) : State :=
      u.modCur fun x => { x with cr := x.cr.setSlot i { x.cr.slots[i] with lastWrite := u.now } }
    match t.cur.cr.slotOf k with
    | some i => .ok (i, stamp i t)
    | none => allocSlot c k ⟨some k, false, t.now⟩ t

/-! ## Release (R66) -/

/-- A key's slot goes to the tail of the free list; a spilled key's entry is freed with no fill (R66, R278). -/
def Crema.release (x : Crema) (k : Key) : Crema :=
  let y := { x with spilled := x.spilled.filter fun e => decide (e.key ≠ k) }
  match x.slotOf k with
  | some i => { y with free := y.free ++ [i] }.setSlot i ⟨none, false, 0⟩
  | none => y
/-- The old key's slot or entry takes the new key, which is released first (R278). -/
def Crema.relabel (x : Crema) (new old : Key) : Crema :=
  if new = old || ((x.slotOf old).isNone && (x.spilledOf old).isNone) then x
  else
    let y := x.release new
    let z := match y.slotOf old with
      | some i => y.setSlot i { y.slots[i] with key := some new }
      | none => y
    { z with spilled := z.spilled.map fun e => if e.key = old then { e with key := new } else e }
/-- The spillable mark of a key (R68, R278). -/
def Crema.setSpillable (x : Crema) (k : Key) (on : Bool) : Crema :=
  match x.slotOf k with
  | some i => x.setSlot i { x.slots[i] with spillable := on }
  | none => x

/-! ## The work of a Crema freeze (R44, R68–R70, R279) -/

/-- A fault found while its gang stands stopped is resolved under the same freeze (R69). -/
def State.faultHere (s : State) (c : CellId) (off : Nat) (f : Flt) : State :=
  let g := s.gidOf c
  if (s.gang g).faults.any fun p => p.cell = c && p.off = off && p.eng = .me then s
  else
    let t := s.fault c .me off (s.gang g).tick none f
    let now (x : Gang) (q : Req) : Req := if q.cond = .fault s.uid then { q with due := x.tick } else q
    t.modGang g fun x => { x with reqs := x.reqs.map (now x) }

/-- Drop the first move that a test accepts. -/
def Cell.dropWork (x : Cell) (p : CremaMove → Bool) : Cell :=
  { x with cr := { x.cr with moving := x.cr.moving.eraseP fun w => p w.move } }
def Cell.work (x : Cell) (p : CremaMove → Bool) : Option CremaWork := x.cr.moving.find? fun w => p w.move
/-- The oldest move of a kind, once the freeze that covers it stops the gang (R68, R279). -/
def State.workDue (s : State) (c : CellId) (p : CremaMove → Bool) : Option CremaWork :=
  ((s.cell c).work p).filter fun w => (s.gangOf c).frozen && decide (w.due ≤ (s.gangOf c).tick)

def CremaMove.isSpill : CremaMove → Bool
  | .spill _ _ _ | .cspl _ => true
  | _ => false
def CremaMove.isFill : CremaMove → Bool
  | .fill _ | .cfil _ | .load _ _ _ _ _ => true
  | _ => false
def CremaMove.isPark : CremaMove → Bool
  | .park _ _ _ => true
  | _ => false

/-- The write of a spilled slot to its entry. -/
def cremaOut (c : CellId) (w : CremaWork) (e : Nat) (rows : SlotRows) (tags : SlotTags) (s : State) : State :=
  match State.spillWrite c e rows tags 512 s with
  | .error x => s.faultHere c w.off (xFlt .me (s.cell c).cc.spillBase true false 0 x)
  | .ok t => t.modCell c fun x => x.dropWork fun m => match m with
      | .spill d _ _ => d = e
      | _ => false

/-- CREMA_SPILL (R68, R279): the oldest spill in progress is written to its entry; a CSPL takes its slot first. -/
def execCremaSpill (c : CellId) (s : State) : Res :=
  .next <| match s.workDue c CremaMove.isSpill with
    | none => s
    | some w => s.spillWhen c true <| match w.move with
      | .spill e rows tags => cremaOut c w e rows tags s
      | .cspl k =>
        let x := s.cell c
        let y := x.dropWork fun m => m = .cspl k
        match x.cr.slotOf k, x.freeEntry with
        | some i, some e =>
          let t := s.setCell c (y.spillSlot w.off w.due i e w.seq)
          match (t.cell c).work (fun m => match m with
            | .spill d _ _ => d = e
            | _ => false) with
          | some v => match v.move with
            | .spill d rows tags => cremaOut c v d rows tags t
            | _ => t
          | none => t
        | some _, none => (s.setCell c y).faultHere c w.off (cremaFull k 3 x)
        | none, _ => s.setCell c y
      | _ => s

/-- Rows of a CFIL.F32 or CFIL.BF16: slot row i, a source row, its element values and flags (R279). -/
def cfilRow (half ftz : Bool) (src : Nat → Row × Bool) (i : Nat) : SlotRow × BitVec 256 × FlagBits :=
  let n := if half then 2 else 4
  let tags := mkTags 256 fun j => (src (n * i + j * n / 256)).2
  if half then
    let g (j : Nat) := widen bf16 ftz (fieldOf (src (2 * i + j / 128)).1.toNat (16 * (j % 128)) 16)
    (mkSlotRow fun j => if tags.getLsbD j then nan32 else (g j).1, tags,
      (List.range 256).foldl (fun f j => if tags.getLsbD j then f else f ||| (g j).2) 0)
  else (mkSlotRow fun j => lane (src (4 * i + j / 64)).1 (j % 64), tags, 0)

/-- CREMA_FILL (R68, R279): the oldest refill in progress is done; a CFIL refills its key, and the scratchpad forms read
their rows into their slot, after the writes of the records before theirs (R269). -/
def execCremaFill (c : CellId) (s : State) : Res :=
  .next <| match s.workDue c CremaMove.isFill with
    | none => s
    | some w => s.spillWhen c false <|
      let gone (t : State) : State := t.modCell c fun x => x.dropWork fun m => m = w.move
      match w.move with
      | .cfil k =>
        let u := { s with curCell := c, curEng := .me }
        match (s.cell c).cr.spilledOf k with
        | none => gone s
        | some p => match fillKey ⟨w.off, 0, 0, 0⟩ p u with
          | .ok t => gone t
          | .error f => s.faultHere c w.off f
      | .load k row half tick ftz =>
        match (s.cell c).cr.slotOf k with
        | none => gone s
        | some i =>
          let src (r : Nat) : Row × Bool := s.visible c .mp (.sp c (row + r))
          let rows := (List.range 128).map fun n => (n, cfilRow half ftz src n)
          let y := (s.cell c).settle i none w.seq
          let cr := rows.foldl (fun x e => x.putAt i e.1 e.2.1 e.2.2.1) y.cr
          let fl := rows.foldl (fun f e => f ||| e.2.2.2) (0 : FlagBits)
          gone (s.setCell c
            { y with cr := cr.setSlot i { cr.slots[i] with lastWrite := tick }, me := { y.me with flags := y.me.flags ||| fl } })
      | _ => gone s

/-- PARKED_REGISTER_MOVE (R70): a register on its way to the park block is written there. -/
def execParkedRegisterMove (c : CellId) (s : State) : Res :=
  .next <| match s.workDue c CremaMove.isPark with
    | none => s
    | some w => s.spillWhen c true <| match w.move with
      | .park p v tags =>
        match s.spillPut c (256 * p) v (tags != 0) with
        | .error x => s.faultHere c w.off (xFlt .me (s.cell c).cc.spillBase true false 0 x)
        | .ok t => t.modCell c fun x => x.dropWork fun m => m = w.move
      | _ => s

end Sys2Proof.Machine
end

