-- ==== Sys2Proof/Machine/Matrix.lean ====
section
/-! DEFINITION. Latch loads and passes of the matrix engine (R71–R73, R111–R116, R269–R274, R329), accumulator windows
(R284) and the reads of a pass or a load that MP performs (R126). -/

namespace Sys2Proof.Machine

/-! ## Operands (R200, R269) -/

/-- The half-row of a KIND 10 operand at an expansion. -/
def halfRowAt (g : Option (Fin 32)) (h : BitVec 16) (st : Strides) (x : Ix) (r : Cc) : Except Flt Nat :=
  match g with
  | none =>
    let n := stepped h.toNat st x
    if 0 ≤ n && n < 2 * spRows then .ok n.toNat else .error (protFlt .me 7)
  | some n =>
    if r.gtag n then .error (poisonFlt 2 n.val false)
    else if (r.greg n).toNat / 2 ^ 23 ≠ 0 then .error (protFlt .me 7)
    else
      let y := stepped (h.toNat + (r.greg n).toNat / 128 % 65536) st x
      if 0 ≤ y && y < 2 * spRows then .ok y.toNat else .error (protFlt .me 7)

/-- The key of a KIND 13 operand at an expansion (R200). -/
def keyAt (o : Opnd) (x : Ix) (r : Cc) : Except Flt Key :=
  match o with
  | .ck none tile label st => .ok ⟨BitVec.ofInt 16 (stepped tile.toNat st x), label⟩
  | .ck (some n) tile label st =>
    if r.gtag n then .error (poisonFlt 2 n.val false)
    else .ok ⟨BitVec.ofInt 16 (stepped (tile.toNat + (r.greg n).toNat % 65536) st x), label⟩
  | _ => .ok ⟨0, 0⟩

/-- n rows from a KIND 9 operand's row on, inside the scratchpad; none when the operand is absent. -/
def rowsAt (o : Opnd) (n : Nat) (x : Ix) (r : Cc) : Except Flt (Option Nat) :=
  match o with
  | .sp g row st =>
    match spRowAt .me g row st x r with
    | .error f => .error f
    | .ok k => if k + n ≤ spRows then .ok (some k) else .error (protFlt .me 7)
  | _ => .ok none

/-- A scratchpad row read on MP at this tick (R59, R126). -/
def mpRead (row : Nat) (s : State) : Except Flt ((Row × Bool) × State) :=
  (s.useBank row).map fun t => (t.visible t.curCell .mp (.sp t.curCell row), t)
/-- Several rows, in order. -/
def mpReads : List Nat → State → Except Flt (List (Row × Bool) × State)
  | [], s => .ok ([], s)
  | r :: l, s =>
    match mpRead r s with
    | .error f => .error f
    | .ok (v, t) => (mpReads l t).map fun y => (v :: y.1, y.2)

/-! ## Registered ranges of a window (R284) -/

/-- Two ranges of one kind that overlap or adjoin. -/
def WinRange.joins (a b : WinRange) : Bool := a.idx == b.idx && a.pair == b.pair && a.row ≤ b.row + b.n && b.row ≤ a.row + a.n
def WinRange.union (a b : WinRange) : WinRange :=
  let lo := min a.row b.row
  { a with row := lo, n := max (a.row + a.n) (b.row + b.n) - lo }
/-- Register a range: it joins those it overlaps or adjoins, as long as none holds more than 256 rows; the rows beyond
that stand in a range of their own. -/
def addRange : Nat → List WinRange → WinRange → List WinRange
  | 0, l, w => l ++ [w]
  | fuel + 1, l, w =>
    match l.find? fun v => v.joins w && (v.union w).n ≤ 256 with
    | some v => addRange fuel (l.erase v) (v.union w)
    | none =>
      match l.find? (·.joins w) with
      | some v =>
        let u := v.union w
        l.erase v ++ [{ u with n := 256 }, { u with row := u.row + 256, n := u.n - 256 }]
      | none => l ++ [w]

/-- A retention violation (R356). -/
def windowFault (w : Window) (cause : Nat) : Flt :=
  ⟨0x0B, 2, cause + w.key.tile.toNat * 2 ^ 32 + w.key.label.toNat * 2 ^ 48, 0, false, 0⟩
/-- Register ranges in the open window, if there is one; a 65th range is a violation. -/
def registerRows (l : List WinRange) (s : State) : Except Flt State :=
  match s.cur.me.win with
  | none => .ok s
  | some w =>
    let r := l.foldl (fun r x => addRange 66 r x) w.ranges
    if 64 < r.length then .error (windowFault w 3)
    else .ok (s.modCur fun x => { x with me := { x.me with win := some { w with ranges := r } } })

/-- The rows a latch load reads: its source and its scale row. -/
def LatchSrc.ranges (l : LatchSrc) : List WinRange :=
  (if l.op = 4 then ⟨l.row / 2, (l.row + 255) / 2 - l.row / 2 + 1, false, false⟩ else ⟨l.row, 128, false, false⟩) ::
    (match l.scale with
      | some r => [⟨r, 1, false, false⟩]
      | none => [])

/-! ## Latch loads (R271) -/

def one32 : Lane := 0x3F800000
/-- The four scales of a load, and which of them its scale row supplies. -/
def loadScales (op : Nat) (row : Option (Row × Bool)) : Vector Lane 4 × BitVec 4 :=
  match row with
  | none => (Vector.replicate 4 one32, 0)
  | some (v, tag) =>
    if op = 3 then (#v[lane v 0, lane v 1, lane v 2, lane v 3], allTags 4 tag)
    else if op = 0x20 then (#v[lane v 0, lane v 0, one32, one32], if tag then 3 else 0)
    else (#v[lane v 0, lane v 1, one32, one32], if tag then 3 else 0)

/-- The base of a load's source: a row, or a half-row for LDBT. -/
def loadSource (op : Nat) (o : Opnd) (x : Ix) (r : Cc) : Except Flt Nat :=
  match o with
  | .hr g h st =>
    match halfRowAt g h st x r with
    | .error f => .error f
    | .ok k => if k + 256 ≤ 2 * spRows then .ok k else .error (protFlt .me 7)
  | o => if op = 4 then .ok 0 else (rowsAt o 128 x r).map (·.getD 0)

/-- A latch load issues: it reads its scale row and registers its rows; the source rows follow one a cycle. -/
def loadBody (op : Nat) (r : Rec) (c : Ctx) (s : State) : Except Flt State :=
  let x := ixOf r.nest c.k
  match loadSource op r.o1 x s.cur.cc, rowsAt r.o2 1 x s.cur.cc with
  | .error f, _ => .error f
  | _, .error f => .error f
  | .ok a, .ok sc =>
    match mpReads sc.toList s with
    | .error f => .error f
    | .ok (rows, t) =>
      let src : LatchSrc := ⟨op, a, sc⟩
      match registerRows src.ranges t with
      | .error f => .error f
      | .ok u =>
        let q := loadScales op rows.head?
        let l : Latch := { Latch.reset with scale := q.1, sTag := q.2, src := some src }
        let n := Fin.ofNat 2 (r.mod.toNat % 2)
        let o : MeOp :=
          { uid := u.uid, off := c.off, op := op, mode := r.mod, t0 := u.now, div := u.div, next := 0, a := a, slot := 0,
            key := ⟨0, 0⟩, ftz := false, gen2 := false, latch := l, index := [], idxBad := false, scales := [], scTags := [], metadata := 0,
            metaTag := false, metaIn := true, rows := [], src := src, exp := c.k }
        .ok (u.modCur fun y => { y with me :=
          { y.me with ops := y.me.ops ++ [o], lastLoad := y.me.lastLoad.set n (some src) } }).fresh

/-- LDB (R271). -/
def bodyLdb : Rec → Ctx → State → Except Flt State := loadBody 1
def execLdb (r : Rec) (s : State) : Res := .next (issueRec (.ldb r) r (bodyLdb r) s)
/-- LDBH (R271). -/
def bodyLdbh : Rec → Ctx → State → Except Flt State := loadBody 2
def execLdbh (r : Rec) (s : State) : Res := .next (issueRec (.ldbh r) r (bodyLdbh r) s)
/-- LDBS (R271). -/
def bodyLdbs : Rec → Ctx → State → Except Flt State := loadBody 3
def execLdbs (r : Rec) (s : State) : Res := .next (issueRec (.ldbs r) r (bodyLdbs r) s)
/-- LDBT (R271). -/
def bodyLdbt : Rec → Ctx → State → Except Flt State := loadBody 4
def execLdbt (r : Rec) (s : State) : Res := .next (issueRec (.ldbt r) r (bodyLdbt r) s)
/-- LDBW, a legacy form of LDB (R330). -/
def bodyLdbw : Rec → Ctx → State → Except Flt State := loadBody 0x20
def execLdbw (r : Rec) (s : State) : Res := .next (issueRec (.ldbw r) r (bodyLdbw r) s)

/-- MNOP (R270). -/
def bodyMnop (_ : Rec) (_ : Ctx) (s : State) : Except Flt State := .ok s
def execMnop (r : Rec) (s : State) : Res := .next (issueRec (.mnop r) r (bodyMnop r) s)

/-! ## Partials (R112–R115, R329) -/

/-- A sum of exact products under way: the fixed-point total in units of 2^−32, the products that are −0, and what
was seen of NaNs, invalid products and infinities. -/
structure Dot where
  tot  : Int
  neg0 : Nat
  n    : Nat
  nan  : Bool
  iv   : Bool
  pinf : Bool
  ninf : Bool
  deriving DecidableEq, Repr

/-- Add a product (R113). -/
def Dot.add (d : Dot) (p : Fp × FlagBits) : Dot :=
  let d := { d with n := d.n + 1 }
  match p.1 with
  | .nan _ => { d with nan := true, iv := d.iv || p.2.getLsbD 0 }
  | .inf false => { d with pinf := true }
  | .inf true => { d with ninf := true }
  | .num neg m e =>
    let v : Int := m * 2 ^ (e + 32).toNat
    { d with tot := if neg then d.tot - v else d.tot + v, neg0 := d.neg0 + (if neg && m = 0 then 1 else 0) }
/-- The exact sum (R112, R113). -/
def Dot.sum (d : Dot) : Fp × FlagBits :=
  if d.nan || (d.pinf && d.ninf) then (.nan false, flIf (d.iv || (d.pinf && d.ninf)) flIV)
  else if d.pinf then (.inf false, 0)
  else if d.ninf then (.inf true, 0)
  else (.num (d.tot < 0 || (d.tot = 0 && d.neg0 = d.n)) d.tot.natAbs (-32), 0)
/-- The sum of 128 products. -/
def dot128 (p : Nat → Fp × FlagBits) : Fp × FlagBits :=
  ((List.range 128).foldl (fun (d : Dot) k => d.add (p k)) (⟨0, 0, 0, false, false, false, false⟩ : Dot)).sum

/-- The mode of a pass: RNE, with FTZ from CMODE (R112). -/
def passMode (ftz : Bool) : FMode := ⟨.rne, false, ftz⟩
/-- The scale of an element: a NaN scale sets IV (R113). -/
def scalePair (ftz : Bool) (a b : Lane) : Lane × FlagBits :=
  if isNaN32 a || isNaN32 b then (nan32, flIV)
  else finish32 (passMode ftz) (fpMul (decodeFp fp32 a.toNat) (decodeFp fp32 b.toNat))
/-- The partial of one element: the exact sum times the scale, rounded once; generation 2 rounds the sum first. -/
def partial8 (ftz gen2 : Bool) (sum : Fp × FlagBits) (sc : Lane × FlagBits) : Lane × FlagBits :=
  let s1 := if gen2 then finish32 (passMode ftz) sum else (0, 0)
  let x : Fp × FlagBits := if gen2 then (decodeFp fp32 s1.1.toNat, s1.2) else sum
  let y := finish32 (passMode ftz) (fpMul x.1 (decodeFp fp32 sc.1.toNat))
  (y.1, y.2 ||| x.2 ||| sc.2)

/-- The first level of the BF16 tree: pairs of exact products added and rounded. -/
def pairProducts (ftz : Bool) : List (Fp × FlagBits) → List Lane × FlagBits
  | a :: b :: l =>
    let y := finish32 (passMode ftz) (fpAdd .rne a.1 b.1)
    let z := pairProducts ftz l
    (y.1 :: z.1, y.2 ||| a.2 ||| b.2 ||| z.2)
  | _ => ([], 0)
/-- An addition of the tree's later levels: FTZ on its result alone (R114). -/
def treeAdd (ftz : Bool) (a b : Lane) : Lane × FlagBits :=
  finish32 (passMode ftz) (fpAdd .rne (decodeFp fp32 a.toNat) (decodeFp fp32 b.toNat))
/-- The partial of a BF16 element (R114). -/
def partialH (ftz : Bool) (p : List (Fp × FlagBits)) : Lane × FlagBits :=
  let y := treeSum (treeAdd ftz) 5 (pairProducts ftz p)
  (y.1.headD 0, y.2)

/-- AF and BF of a pass (R272). -/
def passFmt (b : Bool) : Fmt := if b then e5m2 else e4m3
def latchByte (l : Latch) (k n : Nat) : Nat := (l.bits.extractLsb' (8 * (256 * k + n)) 8).toNat
def latchTag (l : Latch) (k n : Nat) : Bool := l.tags.getLsbD (256 * k + n)
/-- Byte k of an A half-row. -/
def halfByte (v : Row) (half : Nat) (k : Nat) : Nat := (byteAt v (128 * half + k)).toNat

/-- One row of partials: values, poison and flags of the elements that are not poisoned. -/
def partialRow (f : Nat → Lane × FlagBits) (tag : Nat → Bool) : SlotRow × BitVec 256 × FlagBits :=
  (mkSlotRow fun n => if tag n then nan32 else (f n).1, mkTags 256 tag,
    (List.range 256).foldl (fun a n => if tag n then a else a ||| (f n).2) 0)

/-- The A row and the scales of a pass row. -/
structure ARow where
  v    : Row
  tag  : Bool
  half : Nat
  deriving DecidableEq, Repr

/-- A dense 8-bit row (R112). -/
def denseRow (o : MeOp) (i : Nat) (a : ARow) : SlotRow × BitVec 256 × FlagBits :=
  let fa := passFmt (o.mode.getLsbD 1)
  let fb := passFmt (o.mode.getLsbD 2)
  let sc (n : Nat) := scalePair o.ftz (o.scales.getD i one32) (o.latch.scale[Fin.ofNat 4 (n / 128)])
  partialRow (fun n => partial8 o.ftz o.gen2 (dot128 fun k =>
      fpMul (decodeFp fa (halfByte a.v a.half k)) (decodeFp fb (latchByte o.latch k n))) (sc n))
    fun n => a.tag || o.scTags.getD i false || o.latch.sTag.getLsbD (n / 128) ||
      (o.latch.tags != 0 && (List.range 128).any fun k => latchTag o.latch k n)

/-- A dense BF16 row (R114, R271). -/
def bf16Row (o : MeOp) (a : ARow) : SlotRow × BitVec 256 × FlagBits :=
  let b (k n : Nat) := fieldOf o.latch.bits.toNat (8 * (256 * (2 * k + n / 128) + 2 * (n % 128))) 16
  partialRow (fun n => partialH o.ftz ((List.range 64).map fun k =>
      fpMul (decodeFp bf16 (fieldOf a.v.toNat (1024 * a.half + 16 * k) 16)) (decodeFp bf16 (b k n))))
    fun n => a.tag || (o.latch.tags != 0 && (List.range 64).any fun k =>
      latchTag o.latch (2 * k + n / 128) (2 * (n % 128)) || latchTag o.latch (2 * k + n / 128) (2 * (n % 128) + 1))

/-- The stored value that a column selects for K position 4 g + j of a sparse row, if any (R72). -/
def sparsePick (m : MetaBits) (n g j : Nat) : Option Nat :=
  let nib := fieldOf m.toNat (4 * (64 * n + g)) 4
  let p0 := nib % 4 = j
  let p1 := nib / 4 = j
  if p0 && p1 then some (if Config.equalPositions then 1 else 0) else if p0 then some 0 else if p1 then some 1 else none

/-- One half of a sparse row: K block b of the pair (R115); an unselected position contributes an exact +0. -/
def sparseHalf (o : MeOp) (b i : Nat) (a : ARow) : SlotRow × BitVec 256 × FlagBits :=
  let fa := passFmt (o.mode.getLsbD 1)
  let fb := passFmt (o.mode.getLsbD 2)
  let sc (n : Nat) := scalePair o.ftz (o.scales.getD (128 * b + i) one32) (o.latch.scale[Fin.ofNat 4 (2 * b + n / 128)])
  partialRow (fun n => partial8 o.ftz o.gen2 (dot128 fun k =>
      let g := 32 * b + k / 4
      match sparsePick o.metadata n g (k % 4) with
      | some p => fpMul (decodeFp fa (halfByte a.v b k)) (decodeFp fb (latchByte o.latch (2 * g + p) n))
      | none => (.num false 0 0, 0)) (sc n))
    fun n => a.tag || o.metaTag || o.scTags.getD (128 * b + i) false || o.latch.sTag.getLsbD (2 * b + n / 128) ||
      (o.latch.tags != 0 && (List.range 64).any fun k => latchTag o.latch (64 * b + k) n)

/-- The rows of partials that pass row i adds to its slot row, in order. -/
def MeOp.partials (o : MeOp) (i : Nat) (a : ARow) : List (SlotRow × BitVec 256 × FlagBits) :=
  match o.op with
  | 5 | 7 => [denseRow o i a]
  | 6 | 8 => [bf16Row o a]
  | _ => [sparseHalf o 0 i a, sparseHalf o 1 i a]

/-! ## Passes (R272–R274) -/

def isSparse (op : Nat) : Bool := op = 9 || op = 10
def isGather (op : Nat) : Bool := op = 7 || op = 8 || op = 10

/-- The source half-row of pass row i, none for a padding row (R272, R274). -/
def MeOp.source (o : MeOp) (i : Nat) : Option Nat :=
  if isGather o.op then
    match o.index.getD i none with
    | some e => some (if isSparse o.op then e.toNat % 65536 / 2 * 2 else e.toNat % 65536)
    | none => none
  else some (if isSparse o.op then o.a / 2 * 2 + 2 * i else o.a + i)
/-- The slot row that pass row i adds into (R273). -/
def MeOp.dest (o : MeOp) (i : Nat) : Nat :=
  if isGather o.op then
    match o.index.getD i none with
    | some e => e.toNat / 65536 % 128
    | none => i
  else i

/-- The index entries of a gathered pass: absent ones, and all of a poisoned index row, are none (R274). -/
def indexEntries (rows : List (Row × Bool)) : List (Option Lane) :=
  (List.range 128).map fun i =>
    match rows[i / 64]? with
    | some (v, tag) => let e := lane v (i % 64)
      if tag || e.getLsbD 31 then none else some e
    | none => none
/-- A present entry names a half-row beyond the scratchpad. -/
def indexBeyond (l : List (Option Lane)) : Bool :=
  l.any fun e => match e with
    | some w => 2 * spRows ≤ w.toNat % 65536
    | none => false

/-- Operand 1 of a pass: the first half-row, or the index row. -/
def passSource (op : Nat) (o : Opnd) (x : Ix) (r : Cc) : Except Flt Nat :=
  match o with
  | .hr g h st =>
    match halfRowAt g h st x r with
    | .error f => .error f
    | .ok k =>
      if (if isSparse op then k / 2 * 2 + 256 else k + 128) ≤ 2 * spRows then .ok k else .error (protFlt .me 7)
  | o => (rowsAt o 2 x r).map (·.getD 0)

/-- The ranges a pass registers (R284). -/
def passRanges (op a : Nat) (sc : Option Nat) : List WinRange :=
  (if isGather op then ⟨a, 2, true, isSparse op⟩
    else if isSparse op then ⟨a / 2, 128, false, false⟩ else ⟨a / 2, (a + 127) / 2 - a / 2 + 1, false, false⟩) ::
  (match sc with
    | some r => [⟨r, if isSparse op then 4 else 2, false, false⟩]
    | none => [])

/-- A pass in an open window: its key, its count, its retention and its ranges (R73, R284). -/
def retain (k : Key) (ranges : List WinRange) (s : State) : Except Flt State :=
  match s.cur.me.win with
  | none => .ok s
  | some w =>
    if w.key ≠ k then .error (windowFault w 1)
    else if 64 ≤ w.passes then .error (windowFault w 0)
    else registerRows ranges (s.modCur fun x => { x with me := { x.me with win := some { w with passes := w.passes + 1 } } })

/-- The retention buffer keeps a pass of an open window; its latch is kept as the load that filled it (R362). -/
def Me.keep (x : Me) (o : MeOp) : Me :=
  if x.win.isSome then { x with ret := x.ret ++ [{ o with latch := .reset }] } else x

/-- A sparse pass takes the head of the metadata queue, or waits for it under a freeze (R44, R72). -/
def takeMeta (op : Nat) (s : State) : (MetaBits × Bool × Bool) × State :=
  if isSparse op then
    match s.cur.me.metaq with
    | m :: rest => ((m.1, m.2, true), s.modCur fun x => { x with me := { x.me with metaq := rest } })
    | [] => ((0, false, false), s.request (s.gidOf s.curCell) (.metadata s.curCell))
  else ((0, false, true), s)

/-- A pass issues (R273). -/
def passBody (op : Nat) (r : Rec) (c : Ctx) (s : State) : Except Flt State :=
  let x := ixOf r.nest c.k
  let n := if isSparse op then 4 else 2
  match passSource op r.o1 x s.cur.cc, rowsAt r.o2 n x s.cur.cc, keyAt r.o0 x s.cur.cc with
  | .error f, _, _ => .error f
  | _, .error f, _ => .error f
  | _, _, .error f => .error f
  | .ok a, .ok sc, .ok key =>
    let idxRows := if isGather op then [a, a + 1] else []
    let scRows := match sc with
      | some k => (List.range n).map (k + ·)
      | none => []
    match mpReads (idxRows ++ scRows) s with
    | .error f => .error f
    | .ok (rows, t) =>
      let ir := rows.take idxRows.length
      let sr := rows.drop idxRows.length
      let index := if isGather op then indexEntries ir else []
      if indexBeyond index then .error (protFlt .me 7)
      else
        let l := t.cur.me.bl[Fin.ofNat 2 (r.mod.toNat % 2)]
        match retain key (passRanges op a sc) t with
        | .error f => .error f
        | .ok u =>
          match writeKey c key u with
          | .error f => .error f
          | .ok (slot, v) =>
            let m := takeMeta op v
            let w := m.2
            let o : MeOp :=
              { uid := w.uid, off := c.off, op := op, mode := r.mod, t0 := w.now, div := w.div, next := 0, a := a,
                slot := slot, key := key, ftz := c.mode.getLsbD 3, gen2 := decide ((w.gangOf w.curCell).encgen = 2),
                latch := l, index := index, idxBad := ir.any (·.2), scales := sr.flatMap fun e => (List.range 64).map (lane e.1),
                scTags := sr.flatMap fun e => List.replicate 64 e.2, metadata := m.1.1, metaTag := m.1.2.1,
                metaIn := m.1.2.2, rows := [], src := l.src.getD ⟨0, 0, none⟩, exp := c.k }
            .ok (w.modCur fun y => { y with me := Me.keep { y.me with ops := y.me.ops ++ [o] } o }).fresh

/-- MMA (R272). -/
def bodyMma : Rec → Ctx → State → Except Flt State := passBody 5
def execMma (r : Rec) (s : State) : Res := .next (issueRec (.mma r) r (bodyMma r) s)
/-- MMAH (R272). -/
def bodyMmah : Rec → Ctx → State → Except Flt State := passBody 6
def execMmah (r : Rec) (s : State) : Res := .next (issueRec (.mmah r) r (bodyMmah r) s)
/-- MMAG (R272). -/
def bodyMmag : Rec → Ctx → State → Except Flt State := passBody 7
def execMmag (r : Rec) (s : State) : Res := .next (issueRec (.mmag r) r (bodyMmag r) s)
/-- MMAGH (R272). -/
def bodyMmagh : Rec → Ctx → State → Except Flt State := passBody 8
def execMmagh (r : Rec) (s : State) : Res := .next (issueRec (.mmagh r) r (bodyMmagh r) s)
/-- MMAS (R272). -/
def bodyMmas : Rec → Ctx → State → Except Flt State := passBody 9
def execMmas (r : Rec) (s : State) : Res := .next (issueRec (.mmas r) r (bodyMmas r) s)
/-- MMASG (R272). -/
def bodyMmasg : Rec → Ctx → State → Except Flt State := passBody 10
def execMmasg (r : Rec) (s : State) : Res := .next (issueRec (.mmasg r) r (bodyMmasg r) s)

/-! ## The reads of a load or a pass, one row a cycle (R126, R271, R273) -/

/-- A result of an operation in progress, due n ME cycles after its issue. -/
def Cell.landOp (x : Cell) (o : MeOp) (n seq : Nat) (d : Land) (mfl : FlagBits) : Cell :=
  { x with flight := x.flight ++ [⟨o.t0 + n * o.div, seq, .me, o.off, d, 0, mfl, 0⟩] }

/-- The partials of pass row i are on their way to their slot row; after a wait for metadata they land no earlier than
the present tick. -/
def State.landPartials (c : CellId) (o : MeOp) (i now : Nat) (a : ARow) (s : State) : State :=
  (o.partials i a).foldl (fun t p =>
    (t.modCell c fun x => { x with flight := x.flight ++
      [⟨max now (o.t0 + (37 + i) * o.div), t.uid, .me, o.off, .slotAdd o.slot (o.dest i) p.1 p.2.1 o.ftz, 0, p.2.2, 0⟩] }).fresh) s

/-- A pass with a poisoned index row ends by filling its slot with poisoned NaNs, behind its own partials (R274). -/
def State.landIndexNaN (c : CellId) (o : MeOp) (now : Nat) (s : State) : State :=
  if o.idxBad then
    (s.modCell c fun x => { x with flight := x.flight ++
      [⟨max now (o.t0 + 164 * o.div), s.uid, .me, o.off, .slotNaN o.slot, 0, 0, 0⟩] }).fresh
  else s

/-- Row k of a load enters the latch (R271). -/
def loadRow (o : MeOp) (k : Nat) (rows : List (Row × Bool)) : Latch :=
  let l := o.latch
  if o.op = 4 then
    -- half-rows a + 2k and a + 2k + 1 are columns 2k and 2k + 1
    let h := o.a + 2 * k
    let col (n j : Nat) : Nat × Bool :=
      let hr := h + n
      let r := rows.getD (hr / 2 - h / 2) (0, false)
      (halfByte r.1 (hr % 2) j, r.2)
    (List.range 128).foldl (fun l j =>
      { l with bits := BitVec.ofNat 262144 (putField (putField l.bits.toNat (8 * (256 * j + 2 * k)) 8 (col 0 j).1)
                  (8 * (256 * j + 2 * k + 1)) 8 (col 1 j).1)
               tags := BitVec.ofNat 32768 (putField (putField l.tags.toNat (256 * j + 2 * k) 1 (col 0 j).2.toNat)
                  (256 * j + 2 * k + 1) 1 (col 1 j).2.toNat) }) l
  else
    let r := rows.headD (0, false)
    { l with bits := BitVec.ofNat 262144 (putField l.bits.toNat (2048 * k) 2048 r.1.toNat)
             tags := BitVec.ofNat 32768 (putField l.tags.toNat (256 * k) 256 (allTags 256 r.2).toNat) }

/-- The scratchpad rows that step k of an operation reads. -/
def MeOp.reads (o : MeOp) (k : Nat) : List Nat :=
  if o.op = 4 then (if o.a % 2 = 0 then [o.a / 2 + k] else [o.a / 2 + k, o.a / 2 + k + 1])
  else if 5 ≤ o.op && o.op ≤ 10 then
    match o.source k with
    | some h => [h / 2]
    | none => []
  else [o.a + k]

def Cell.setOp (x : Cell) (o : MeOp) : Cell :=
  { x with me := { x.me with ops := x.me.ops.map fun p => if p.uid = o.uid then o else p } }
def Cell.dropOp (x : Cell) (u : Nat) : Cell :=
  { x with me := { x.me with ops := x.me.ops.filter fun p => decide (p.uid ≠ u) } }

/-- A step of an operation with the rows it has read. -/
def meStep (c : CellId) (o : MeOp) (rows : List (Row × Bool)) (s : State) : State :=
  let k := o.next
  let done := k + 1 = 128
  if 5 ≤ o.op && o.op ≤ 10 then
    let o1 := { o with next := k + 1 }
    let t := match o.source k, rows.head? with
      | some h, some r =>
        if o.metaIn then (s.modCell c (·.setOp o1)).landPartials c o k 0 ⟨r.1, r.2, h % 2⟩
        else s.modCell c (·.setOp { o1 with rows := o.rows ++ [(k, r.1, r.2)] })
      | _, _ => s.modCell c (·.setOp o1)
    if done && o.metaIn then (t.landIndexNaN c o 0).modCell c (·.dropOp o.uid) else t
  else
    let l := loadRow o k rows
    if done then
      (s.modCell c fun x => (x.dropOp o.uid).landOp o 128 s.uid (.latch (Fin.ofNat 2 (o.mode.toNat % 2)) l) 0).fresh
    else s.modCell c (·.setOp { o with next := k + 1, latch := l })

/-- Count the reads of a step against their banks, and make them. -/
def State.mpRows (c : CellId) : List Nat → State → Option (List (Row × Bool) × State) × Nat
  | [], s => (some ([], s), 0)
  | r :: l, s =>
    match (s.cell c).useBank r with
    | none => (none, r)
    | some x =>
      let t := s.setCell c x
      match State.mpRows c l t with
      | (none, b) => (none, b)
      | (some (vs, u), b) => (some (s.visible c .mp (.sp c r) :: vs, u), b)

/-- PERFORM_A_READ on MP: the row of an operation that is due at this tick. A fifth access to a bank is a schedule miss
found after issue, and ends the operation (R59, R354). -/
def mpPerform (c : CellId) (uid : Nat) (s : State) : State :=
  match (s.cell c).me.ops.find? fun o => decide (o.uid = uid) with
  | none => s
  | some o =>
    let now := (s.gangOf c).tick
    if o.next < 128 && o.t0 + o.next * o.div = now then
      match State.mpRows c (o.reads o.next) s with
      | (some (rows, t), _) => meStep c o rows t
      | (none, b) =>
        (s.modCell c (·.dropOp uid)).fault c .me o.off now none (missFlt .me 7 (b % 32) (now - (s.cell c).sq.start))
    else s

/-- The metadata that a waiting sparse pass takes once it is there: its rows so far proceed (R44, R72). -/
def feedMeta (c : CellId) (s : State) : State :=
  match (s.cell c).me.ops.find? fun o => !o.metaIn, (s.cell c).me.metaq with
  | some o, m :: rest =>
    let o1 := { o with metadata := m.1, metaTag := m.2, metaIn := true, rows := [] }
    let kept (p : MeOp) : MeOp := if p.uid = o.uid then { p with metadata := m.1, metaTag := m.2, metaIn := true } else p
    let t := s.modCell c fun x => { x with me := { x.me with metaq := rest, ret := x.me.ret.map kept } }
    let now := (s.gangOf c).tick
    let u := o.rows.foldl (fun u r => u.landPartials c o1 r.1 now ⟨r.2.1, r.2.2, 0⟩) t
    if o.next = 128 then (u.landIndexNaN c o now).modCell c (·.dropOp o.uid) else u.modCell c (·.setOp o1)
  | _, _ => s

end Sys2Proof.Machine
end

