-- ==== Sys2Proof/Machine/MatrixSlots.lean ====
section
/-! DEFINITION. The matrix engine's records on Crema slots: binds (R67, R117, R275, R276), reads (R277), maintenance
(R278–R280), arithmetic (R281, R282), mode, flags and windows (R283, R284). -/

namespace Sys2Proof.Machine

/-! ## Output rows (R269) -/

/-- Where a record sends its rows: an MQ tail, or scratchpad rows from a base on. -/
inductive RowDst where
  | mq (n : Fin 2)
  | sp (base : Nat)
  deriving DecidableEq, Repr

/-- The landing of output row i. -/
def RowDst.land (d : RowDst) (i : Nat) (v : Row) (tag : Bool) : Land :=
  match d with
  | .mq n => .mq n v tag
  | .sp b => .sp (b + i) v tag

/-- The destination of n rows: inside the scratchpad and clear of the registered rows (R284). -/
def rowDst (o : Opnd) (n : Nat) (x : Ix) (s : State) : Except Flt RowDst :=
  match o with
  | .mq q _ => .ok (.mq q)
  | o =>
    match rowsAt o n x s.cur.cc with
    | .error f => .error f
    | .ok b =>
      match (List.range n).findSome? fun i => s.cur.windowFlt .me (b.getD 0 + i) with
      | some f => .error f
      | none => .ok (.sp (b.getD 0))

/-- An output row. -/
structure OutRow where
  v   : Row
  tag : Bool
  fl  : FlagBits
  deriving DecidableEq, Repr

/-- Output row i lands at issue + lat + i. -/
def landRows (c : Ctx) (lat : Nat) (d : RowDst) (f : Nat → OutRow) (n : Nat) (s : State) : State :=
  (List.range n).foldl (fun t i => t.landAfter c (lat + i) (d.land i (f i).v (f i).tag) 0 (f i).fl) s

/-- A slot row to be written. -/
structure SlotOut where
  v    : SlotRow
  tags : BitVec 256
  fl   : FlagBits
  deriving DecidableEq, Repr

/-- Slot row i is replaced at issue + lat + i. -/
def landSlot (c : Ctx) (lat : Nat) (slot : Fin 16) (f : Nat → SlotOut) (s : State) : State :=
  (List.range 128).foldl (fun t i => t.landAfter c (lat + i) (.slotSet slot i (f i).v (f i).tags) 0 (f i).fl) s

/-- The rows of a source slot as read at issue. -/
abbrev SlotView := Nat → SlotRow × BitVec 256

/-- Read a key: a spilled one is refilled, an absent one reads +0.0 (R269). -/
def viewKey (c : Ctx) (k : Key) (s : State) : Except Flt (SlotView × State) :=
  (needKey c k s).map fun t => (t.cur.keyView k, t)
def viewKeys (c : Ctx) : List Key → State → Except Flt (List SlotView × State)
  | [], s => .ok ([], s)
  | k :: l, s =>
    match viewKey c k s with
    | .error f => .error f
    | .ok (v, t) => (viewKeys c l t).map fun r => (v :: r.1, r.2)

/-! ## Binding (R67, R117, R275, R276) -/

/-- A bind row: the number of labels, label k and coefficient k. -/
def bindN (v : Row) : Nat := (byteAt v 48).toNat % 8 + 1
def bindLabel (v : Row) (k : Nat) : BitVec 12 := v.extractLsb' (256 + 16 * k) 12

/-- One step of a bind: a NaN coefficient or slot value gives the canonical NaN with no flag (R117). -/
def bindStep (ftz : Bool) (c x : Lane) (acc : Option Lane) : Lane × FlagBits :=
  if isNaN32 c || isNaN32 x then (nan32, 0)
  else
    let md := passMode ftz
    match acc with
    | none => finish32 md (fpMul (rd32 md c) (rd32 md x))
    | some a => finish32 md (fpFma .rne (rd32 md c) (rd32 md x) (decodeFp fp32 a.toNat))
/-- The fused chain in label order. -/
def bindSum (ftz : Bool) : List (Lane × Lane) → Option Lane → FlagBits → Lane × FlagBits
  | [], acc, fl => (acc.getD 0, fl)
  | (c, x) :: l, acc, fl => bindSum ftz l (some (bindStep ftz c x acc).1) (fl ||| (bindStep ftz c x acc).2)

/-- What a bind reads: its coefficients by label and row, which rows a poisoned coefficient row feeds, its slots. -/
structure BindArgs where
  coef  : Nat → Nat → Lane
  bad   : Nat → Bool
  views : List SlotView

/-- Element (i, j) of a bind. -/
def BindArgs.elem (b : BindArgs) (ftz : Bool) (i j : Nat) : Lane × FlagBits :=
  bindSum ftz (b.views.mapIdx fun k v => (b.coef k i, slotLane (v i).1 j)) none 0
def BindArgs.tag (b : BindArgs) (i j : Nat) : Bool := b.bad i || b.views.any fun v => (v i).2.getLsbD j
/-- Row i of a bind, all 256 columns. -/
def BindArgs.row (b : BindArgs) (ftz : Bool) (i : Nat) : SlotOut :=
  let tags := mkTags 256 (b.tag i)
  { v := mkSlotRow fun j => if tags.getLsbD j then nan32 else (b.elem ftz i j).1
    tags := tags
    fl := (List.range 256).foldl (fun f j => if tags.getLsbD j then f else f ||| (b.elem ftz i j).2) 0 }
/-- Columns 64 q to 64 q + 63 of row i. -/
def BindArgs.quarter (b : BindArgs) (ftz : Bool) (q i : Nat) : OutRow :=
  let tags := mkTags 64 fun j => b.tag i (64 * q + j)
  { v := mkRow fun j => if tags.getLsbD j then nan32 else (b.elem ftz i (64 * q + j)).1
    tag := tags != 0
    fl := (List.range 64).foldl (fun f j => if tags.getLsbD j then f else f ||| (b.elem ftz i (64 * q + j)).2) 0 }

/-- Read the bind row, the per-row coefficients and the keys (R275, R276). -/
def bindArgs (perRow : Bool) (r : Rec) (c : Ctx) (s : State) : Except Flt (BindArgs × State) :=
  let x := ixOf r.nest c.k
  match rowsAt r.o2 1 x s.cur.cc, keyAt r.o1 x s.cur.cc with
  | .error f, _ => .error f
  | _, .error f => .error f
  | .ok r0, .ok key =>
    let r0 := r0.getD 0
    match mpRead r0 s with
    | .error f => .error f
    | .ok (b, t) =>
      let n := bindN b.1
      let extra := if perRow then (List.range (2 * n)).map (r0 + 1 + ·) else []
      if perRow && spRows < r0 + 1 + 2 * n then .error (protFlt .me 7)
      else match mpReads extra t with
        | .error f => .error f
        | .ok (rows, u) =>
          (viewKeys c ((List.range n).map fun k => ⟨key.tile, bindLabel b.1 k⟩) u).map fun v =>
            ({ coef := fun k i => if perRow then lane (rows.getD (2 * k + i / 64) (0, false)).1 (i % 64) else lane b.1 k
               bad := fun i => b.2 || (perRow && (List.range n).any fun k => (rows.getD (2 * k + i / 64) (0, false)).2)
               views := v.1 }, v.2)

/-- BIND and BINDA send columns 64 Q to 64 Q + 63. -/
def bindRows (perRow : Bool) (r : Rec) (c : Ctx) (s : State) : Except Flt State :=
  match rowDst r.o0 128 (ixOf r.nest c.k) s, bindArgs perRow r c s with
  | .error f, _ => .error f
  | _, .error f => .error f
  | .ok d, .ok (b, t) => .ok (landRows c 12 d (b.quarter (c.mode.getLsbD 3) (r.mod.toNat % 4)) 128 t)

/-- BIND (R276). -/
def bodyBind : Rec → Ctx → State → Except Flt State := bindRows false
def execBind (r : Rec) (s : State) : Res := .next (issueRec (.bind r) r (bodyBind r) s)
/-- BINDA (R276). -/
def bodyBinda : Rec → Ctx → State → Except Flt State := bindRows true
def execBinda (r : Rec) (s : State) : Res := .next (issueRec (.binda r) r (bodyBinda r) s)
/-- BINDM (R276): whole rows of the destination slot are replaced. -/
def bodyBindm (r : Rec) (c : Ctx) (s : State) : Except Flt State :=
  match keyAt r.o0 (ixOf r.nest c.k) s.cur.cc, bindArgs (r.mod.getLsbD 0) r c s with
  | .error f, _ => .error f
  | _, .error f => .error f
  | .ok k, .ok (b, t) =>
    (writeKey c k t).map fun w => landSlot c 12 w.1 (b.row (c.mode.getLsbD 3)) w.2
def execBindm (r : Rec) (s : State) : Res := .next (issueRec (.bindm r) r (bodyBindm r) s)

/-! ## Reading slots (R277) -/

/-- The format that F names. -/
def crdFmt (f : Nat) : Fmt :=
  match f with
  | 1 => bf16 | 2 => e4m3 | _ => e5m2

/-- Output row i of a read: `at_ i e` gives the slot row and column of element e. -/
def crdRow (md : FMode) (f : Nat) (v : SlotView) (at_ : Nat → Nat → Nat × Nat) (i : Nat) : OutRow :=
  let n := match f with
    | 0 => 64 | 1 => 128 | _ => 256
  let w := 2048 / n
  let get (e : Nat) : Lane × Bool := (slotLane (v (at_ i e).1).1 (at_ i e).2, (v (at_ i e).1).2.getLsbD (at_ i e).2)
  let out (e : Nat) : Nat × FlagBits × Bool :=
    let g := get e
    if f = 0 then (g.1.toNat, 0, g.2)
    else if g.2 then (canonNaN (crdFmt f), 0, true)
    else let y := convert fp32 (crdFmt f) md g.1.toNat; (y.1, y.2, false)
  { v := BitVec.ofNat 2048 (packNat w (fun e => (out e).1) n)
    tag := (List.range n).any fun e => (out e).2.2
    fl := (List.range n).foldl (fun a e => a ||| (out e).2.1) 0 }

/-- Element e of output row i of CRD. -/
def crdAt (f p i e : Nat) : Nat × Nat :=
  match f with
  | 0 => (i, 64 * p + e)
  | 1 => (i, 128 * (p % 2) + e)
  | _ => (i, e)
/-- Element e of output row r of CRDT. -/
def crdtAt (f p r e : Nat) : Nat × Nat :=
  match f with
  | 0 => (64 * (r % 2) + e, 64 * p + r / 2)
  | 1 => (e, 128 * (p % 2) + r)
  | _ => (e % 128, 2 * r + e / 128)

/-- A read of one key into 128 rows. -/
def crdBody (at_ : Nat → Nat → Nat → Nat → Nat × Nat) (r : Rec) (c : Ctx) (s : State) : Except Flt State :=
  let x := ixOf r.nest c.k
  match rowDst r.o0 128 x s, keyAt r.o1 x s.cur.cc with
  | .error f, _ => .error f
  | _, .error f => .error f
  | .ok d, .ok k =>
    let f := r.mod.toNat % 4
    (viewKey c k s).map fun v => landRows c 4 d (crdRow (modeOf c.mode) f v.1 (at_ f (r.mod.toNat / 4))) 128 v.2
/-- CRD (R277). -/
def bodyCrd : Rec → Ctx → State → Except Flt State := crdBody crdAt
def execCrd (r : Rec) (s : State) : Res := .next (issueRec (.crd r) r (bodyCrd r) s)
/-- CRDT (R277). -/
def bodyCrdt : Rec → Ctx → State → Except Flt State := crdBody crdtAt
def execCrdt (r : Rec) (s : State) : Res := .next (issueRec (.crdt r) r (bodyCrdt r) s)

/-! ## Slot maintenance (R278–R280) -/

/-- The schedule miss of a release before a write that is still due (R66, R269). -/
def releaseFlt (s : State) : Flt := missFlt .me 9 0 s.segTick

/-- CZERO (R278). -/
def bodyCzero (r : Rec) (c : Ctx) (s : State) : Except Flt State :=
  match keyAt r.o0 (ixOf r.nest c.k) s.cur.cc with
  | .error f => .error f
  | .ok k => (writeKey c k s).map fun w => w.2.landAfter c 1 (.czero w.1)
def execCzero (r : Rec) (s : State) : Res := .next (issueRec (.czero r) r (bodyCzero r) s)

/-- CREL (R66, R278). -/
def bodyCrel (r : Rec) (c : Ctx) (s : State) : Except Flt State :=
  match keyAt r.o0 (ixOf r.nest c.k) s.cur.cc with
  | .error f => .error f
  | .ok k => if s.cur.keyDue k then .error (releaseFlt s) else .ok (s.landAfter c 1 (.crel [k]))
def execCrel (r : Rec) (s : State) : Res := .next (issueRec (.crel r) r (bodyCrel r) s)

/-- The keys of a label: allocated ones in slot order, then spilled ones. -/
def Crema.labelKeys (x : Crema) (l : BitVec 12) : List Key :=
  ((List.finRange 16).filterMap fun i => x.slots[i].key.filter (·.label == l)) ++
    (x.spilled.filter fun e => e.key.label == l).map (·.key)
/-- CRELL (R66, R278). -/
def bodyCrell (r : Rec) (c : Ctx) (s : State) : Except Flt State :=
  match r.o1 with
  | .imm w =>
    let ks := s.cur.cr.labelKeys (w.extractLsb' 0 12)
    if ks.any s.cur.keyDue then .error (releaseFlt s) else .ok (s.landAfter c 1 (.crel ks))
  | _ => .ok s
def execCrell (r : Rec) (s : State) : Res := .next (issueRec (.crell r) r (bodyCrell r) s)

/-- CLBL (R68, R278). -/
def bodyClbl (r : Rec) (c : Ctx) (s : State) : Except Flt State :=
  match keyAt r.o0 (ixOf r.nest c.k) s.cur.cc, r.o1 with
  | .error f, _ => .error f
  | .ok k, .imm w => (needKey c k s).map fun t => t.landAfter c 1 (.clbl k (w.getLsbD 0))
  | .ok _, _ => .ok s
def execClbl (r : Rec) (s : State) : Res := .next (issueRec (.clbl r) r (bodyClbl r) s)

/-- CLBL.R (R278). -/
def bodyClblR (r : Rec) (c : Ctx) (s : State) : Except Flt State :=
  let x := ixOf r.nest c.k
  match keyAt r.o0 x s.cur.cc, keyAt r.o1 x s.cur.cc with
  | .error f, _ => .error f
  | _, .error f => .error f
  | .ok new, .ok old =>
    if new ≠ old && s.cur.keyDue new then .error (releaseFlt s) else .ok (s.landAfter c 1 (.relabel new old))
def execClblR (r : Rec) (s : State) : Res := .next (issueRec (.clblR r) r (bodyClblR r) s)

/-- Work that a record leaves to the freeze it requests (R279). -/
def askWork (c : Ctx) (m : CremaMove) (cond : Cond) (s : State) : State :=
  ((s.modCur fun x => { x with cr := x.cr.addWork c.off (s.moveDue (s.gidOf s.curCell)) s.uid m }).askMove (s.gidOf s.curCell) cond).fresh

/-- CSPL (R279): no free entry, or no area, is a Crema-full fault. -/
def bodyCspl (r : Rec) (c : Ctx) (s : State) : Except Flt State :=
  match keyAt r.o0 (ixOf r.nest c.k) s.cur.cc with
  | .error f => .error f
  | .ok k =>
    if (s.cur.cr.slotOf k).isNone then .ok s
    else if s.cur.freeEntry.isNone then .error (cremaFull k 3 s.cur)
    else .ok (askWork c (.cspl k) (.spill s.curCell k) s)
def execCspl (r : Rec) (s : State) : Res := .next (issueRec (.cspl r) r (bodyCspl r) s)

/-- CFIL of a spilled key (R279). -/
def bodyCfil (r : Rec) (c : Ctx) (s : State) : Except Flt State :=
  match keyAt r.o0 (ixOf r.nest c.k) s.cur.cc with
  | .error f => .error f
  | .ok k => if (s.cur.cr.spilledOf k).isNone then .ok s else .ok (askWork c (.cfil k) (.crema s.curCell k) s)
def execCfil (r : Rec) (s : State) : Res := .next (issueRec (.cfil r) r (bodyCfil r) s)

/-- CFIL from scratchpad rows (R279). -/
def cfilRows (half : Bool) (r : Rec) (c : Ctx) (s : State) : Except Flt State :=
  let x := ixOf r.nest c.k
  match keyAt r.o0 x s.cur.cc, rowsAt r.o1 (if half then 256 else 512) x s.cur.cc with
  | .error f, _ => .error f
  | _, .error f => .error f
  | .ok k, .ok b =>
    (writeKey c k s).map fun w =>
      askWork c (.load k (b.getD 0) half s.now (c.mode.getLsbD 3)) (.scratchFill s.curCell k (b.getD 0) half) w.2
/-- CFIL.F32 (R279). -/
def bodyCfilF32 : Rec → Ctx → State → Except Flt State := cfilRows false
def execCfilF32 (r : Rec) (s : State) : Res := .next (issueRec (.cfilF32 r) r (bodyCfilF32 r) s)
/-- CFIL.BF16 (R279). -/
def bodyCfilBf16 : Rec → Ctx → State → Except Flt State := cfilRows true
def execCfilBf16 (r : Rec) (s : State) : Res := .next (issueRec (.cfilBf16 r) r (bodyCfilBf16 r) s)

/-- Lane i of CSTAT (R280). -/
def cstatLane (x : Cell) (i : Nat) : Lane :=
  if h : i < 16 then
    let s : Fin 16 := ⟨i, h⟩
    let info := x.cr.slots[s]
    let park := x.cr.parked.any fun e => e.2 = .slot s
    match info.key with
    | some k => BitVec.ofNat 32 (k.tile.toNat + k.label.toNat * 2 ^ 16 + 2 ^ 28 + info.spillable.toNat * 2 ^ 29 + park.toNat * 2 ^ 30)
    | none => BitVec.ofNat 32 (park.toNat * 2 ^ 30)
  else BitVec.ofNat 32 <| match i with
    | 16 => x.cr.free.length
    | 17 => x.cr.spilled.length
    | 18 => x.freeSpill
    | 19 => x.me.ret.length
    | 20 => x.me.win.isSome.toNat
    | 21 => x.me.metaq.length
    | _ => 0
/-- CSTAT (R280). -/
def bodyCstat (r : Rec) (c : Ctx) (s : State) : Except Flt State :=
  (rowDst r.o0 1 (ixOf r.nest c.k) s).map fun d => landRows c 4 d (fun _ => ⟨mkRow (cstatLane s.cur), false, 0⟩) 1 s
def execCstat (r : Rec) (s : State) : Res := .next (issueRec (.cstat r) r (bodyCstat r) s)

/-! ## Slot arithmetic (R281, R282) -/

/-- An element-wise operation on views of its sources; `bad i` poisons row i. -/
def slotArith (c : Ctx) (dst : Key) (t : State) (bad : Nat → Bool) (vs : List SlotView) (keep : Bool)
    (f : Nat → Nat → Lane × FlagBits) : Except Flt State :=
  let row (i : Nat) : SlotOut :=
    let tags := mkTags 256 fun j => bad i || vs.any fun v => (v i).2.getLsbD j
    { v := mkSlotRow fun j => if tags.getLsbD j && !keep then nan32 else (f i j).1
      tags := tags
      fl := (List.range 256).foldl (fun a j => if tags.getLsbD j then a else a ||| (f i j).2) 0 }
  (writeKey c dst t).map fun w => landSlot c 4 w.1 row w.2

/-- CMODE's mode with s = 0. -/
def slotMode (m : BitVec 4) : FMode := { modeOf m with sat := false }

/-- CCPY (R281). -/
def bodyCcpy (r : Rec) (c : Ctx) (s : State) : Except Flt State :=
  let x := ixOf r.nest c.k
  match keyAt r.o0 x s.cur.cc, keyAt r.o1 x s.cur.cc with
  | .error f, _ => .error f
  | _, .error f => .error f
  | .ok d, .ok a =>
    match viewKey c a s with
    | .error f => .error f
    | .ok (v, t) => slotArith c d t (fun _ => false) [v] true fun i j => (slotLane (v i).1 j, 0)
def execCcpy (r : Rec) (s : State) : Res := .next (issueRec (.ccpy r) r (bodyCcpy r) s)

/-- The factor of CSCAL by row, and whether it is poisoned. -/
def cscalFactor (o : Opnd) (x : Ix) (s : State) : Except Flt ((Nat → Lane × Bool) × State) :=
  match o with
  | .imm w => .ok (fun _ => (w, false), s)
  | o =>
    match rowsAt o 2 x s.cur.cc with
    | .error f => .error f
    | .ok b =>
      (mpReads [b.getD 0, b.getD 0 + 1] s).map fun y =>
        (fun i => let q := y.1.getD (i / 64) (0, false); (lane q.1 (i % 64), q.2), y.2)
/-- CSCAL (R281). FTZ flushes the factor too (log entry 116). -/
def bodyCscal (r : Rec) (c : Ctx) (s : State) : Except Flt State :=
  let x := ixOf r.nest c.k
  match keyAt r.o0 x s.cur.cc, keyAt r.o1 x s.cur.cc, cscalFactor r.o2 x s with
  | .error f, _, _ => .error f
  | _, .error f, _ => .error f
  | _, _, .error f => .error f
  | .ok d, .ok a, .ok (g, t) =>
    match viewKey c a t with
    | .error f => .error f
    | .ok (v, u) => slotArith c d u (fun i => (g i).2) [v] false fun i j => fMul (slotMode c.mode) (slotLane (v i).1 j) (g i).1
def execCscal (r : Rec) (s : State) : Res := .next (issueRec (.cscal r) r (bodyCscal r) s)

/-- CADD (R281). -/
def bodyCadd (r : Rec) (c : Ctx) (s : State) : Except Flt State :=
  let x := ixOf r.nest c.k
  match keyAt r.o0 x s.cur.cc, keyAt r.o1 x s.cur.cc, keyAt r.o2 x s.cur.cc with
  | .error f, _, _ => .error f
  | _, .error f, _ => .error f
  | _, _, .error f => .error f
  | .ok d, .ok a, .ok b =>
    match viewKeys c [a, b] s with
    | .error f => .error f
    | .ok (vs, t) =>
      let va := vs.getD 0 fun _ => (0, 0)
      let vb := vs.getD 1 fun _ => (0, 0)
      slotArith c d t (fun _ => false) vs false fun i j =>
        fAdd (slotMode c.mode) (slotLane (va i).1 j) (slotLane (vb i).1 j)
def execCadd (r : Rec) (s : State) : Res := .next (issueRec (.cadd r) r (bodyCadd r) s)

/-- The largest of the columns of a row in FMAX order, NaNs passed over (R103, R282). -/
def colMax (md : FMode) (l : List Lane) : Lane × FlagBits :=
  let best := l.foldl (fun (b : Option Lane) a0 =>
    let a := flush32 md a0
    if isNaN32 a then b else match b with
      | none => some a
      | some y => if ordKey y < ordKey a then some a else b) none
  (best.getD nan32, flIf (l.any isSNaN32) flIV)
/-- The balanced tree of eight levels (R260, R282). -/
def colSum (md : FMode) (l : List Lane) : Lane × FlagBits :=
  let y := treeSum (fAdd md) 8 (l, 0)
  (y.1.headD 0, y.2)

/-- A reduction of 64 slot rows to one output row (R282). -/
def reduceBody (f : FMode → List Lane → Lane × FlagBits) (r : Rec) (c : Ctx) (s : State) : Except Flt State :=
  let x := ixOf r.nest c.k
  match rowDst r.o0 1 x s, keyAt r.o1 x s.cur.cc with
  | .error f, _ => .error f
  | _, .error f => .error f
  | .ok d, .ok k =>
    (viewKey c k s).map fun v =>
      let row (i : Nat) := v.1 (64 * (r.mod.toNat % 2) + i)
      let tags := mkTags 64 fun i => (row i).2 != 0
      let g (i : Nat) := f (slotMode c.mode) ((List.range 256).map (slotLane (row i).1))
      let o : OutRow :=
        { v := mkRow fun i => if tags.getLsbD i then nan32 else (g i).1
          tag := tags != 0
          fl := (List.range 64).foldl (fun a i => if tags.getLsbD i then a else a ||| (g i).2) 0 }
      landRows c 136 d (fun _ => o) 1 v.2
/-- CMAXR (R282). -/
def bodyCmaxr : Rec → Ctx → State → Except Flt State := reduceBody colMax
def execCmaxr (r : Rec) (s : State) : Res := .next (issueRec (.cmaxr r) r (bodyCmaxr r) s)
/-- CSUMR (R282). -/
def bodyCsumr : Rec → Ctx → State → Except Flt State := reduceBody colSum
def execCsumr (r : Rec) (s : State) : Res := .next (issueRec (.csumr r) r (bodyCsumr r) s)

/-! ## Mode, flags and windows (R283, R284) -/

/-- CMODE (R283): the mode of the ME records issued after it. -/
def bodyCmode (r : Rec) (_ : Ctx) (s : State) : Except Flt State :=
  match r.o1 with
  | .imm w => .ok (s.modCur fun x => { x with me := { x.me with mode := w.extractLsb' 0 4 } })
  | _ => .ok s
def execCmode (r : Rec) (s : State) : Res := .next (issueRec (.cmode r) r (bodyCmode r) s)

/-- The ME flags in every lane of one row at +1. -/
def mflgRead (r : Rec) (c : Ctx) (s : State) : Except Flt State :=
  match r.o0 with
  | .absent => .ok s
  | o => (rowDst o 1 (ixOf r.nest c.k) s).map fun d =>
      landRows c 1 d (fun _ => ⟨mkRow fun _ => s.cur.me.flags.zeroExtend 32, false, 0⟩) 1 s
/-- MFLG (R283). -/
def bodyMflg (r : Rec) (c : Ctx) (s : State) : Except Flt State := mflgRead r c s
def execMflg (r : Rec) (s : State) : Res := .next (issueRec (.mflg r) r (bodyMflg r) s)
/-- MFLG.C (R283): the clear acts at the issue tick. -/
def bodyMflgC (r : Rec) (c : Ctx) (s : State) : Except Flt State :=
  match r.o1 with
  | .imm w => (mflgRead r c s).map fun t =>
      t.modCur fun x => { x with me := { x.me with flags := x.me.flags &&& ~~~(w.extractLsb' 0 6) } }
  | _ => .ok s
def execMflgC (r : Rec) (s : State) : Res := .next (issueRec (.mflgC r) r (bodyMflgC r) s)

/-- TSTART (R284). -/
def bodyTstart (r : Rec) (c : Ctx) (s : State) : Except Flt State :=
  match keyAt r.o0 (ixOf r.nest c.k) s.cur.cc with
  | .error f => .error f
  | .ok k => (writeKey c k s).map fun w => (w.2.landAfter c 1 (.czero w.1)).landAfter c 1 (.winOpen k w.1)
def execTstart (r : Rec) (s : State) : Res := .next (issueRec (.tstart r) r (bodyTstart r) s)
/-- TCOMMIT (R284). -/
def bodyTcommit (_ : Rec) (c : Ctx) (s : State) : Except Flt State := .ok (s.landAfter c 1 .winClose)
def execTcommit (r : Rec) (s : State) : Res := .next (issueRec (.tcommit r) r (bodyTcommit r) s)

/-- The window that TSTART opens: the last load of each latch is registered. -/
def Me.openWindow (x : Me) (k : Key) : Me :=
  let l := (x.lastLoad.toList.flatMap fun o => (o.map LatchSrc.ranges).getD []).foldl (fun r w => addRange 66 r w) []
  { x with ret := [], win := some ⟨k, 0, l, none, 0, none⟩ }
def Me.closeWindow (x : Me) : Me := { x with ret := [], win := none }

end Sys2Proof.Machine
end

