-- ==== Sys2Proof/Machine/StreamOps.lean ====
section
/-! DEFINITION. What the stream engine's commands share (R27, R74, R285–R293): release with captured operands and the
promise test (R87), the range checker and the queue barriers, and reads and writes of scratchpad rows, tensor elements,
other cells and peers. -/

namespace Sys2Proof.Machine

/-- Why a piece of a command's work does not end in this step: the command's fault, or a wait, which keeps what was read (R124). -/
inductive SeStop where
  | fault (f : Flt)
  | wait
  deriving DecidableEq, Repr

/-- A piece of a command's work. -/
abbrev SeM := ExceptT SeStop (StateM State)

/-- The command's fault. -/
def seFail {α : Type} (f : Flt) : SeM α := throw (.fault f)
/-- The piece waits; a later step tries it again. -/
def seWait {α : Type} : SeM α := throw .wait

/-! ## Captured operands (R27, R285) -/

/-- A row number that no stride brings back into the scratchpad: address bits above bit 22 were set (R58). -/
def farRow : Nat := 2 ^ 40

def poisonedReg (n : Fin 32) : Flt := { poisonFlt 2 n.val false with unit := 3 }

/-- A row or half-row from a G register: BASE plus its bits from `lo` to 22. -/
def capRow (g : Option (Fin 32)) (base lo : Nat) (r : Cc) : Except Flt Nat :=
  match g with
  | none => .ok base
  | some n =>
    if r.gtag n then .error (poisonedReg n)
    else if (r.greg n).toNat / 2 ^ 23 ≠ 0 then .ok farRow
    else .ok (base + (r.greg n).toNat / 2 ^ lo)

/-- Capture an operand at release. -/
def capOpnd (o : Opnd) (r : Cc) : Except Flt ROp :=
  match o with
  | .imm w => .ok (.imm w)
  | .sp g row st => (capRow g row.toNat 8 r).map (.sp · st)
  | .hr g h st => (capRow g h.toNat 7 r).map (.hr · st)
  | .ring b => .ok (.ring b)
  | .tensor tid sdim c0 c1 c2 c3 st =>
    match [c0, c1, c2, c3].find? r.gtag with
    | some n => .error (poisonedReg n)
    | none =>
      .ok (.tensor tid sdim #v[r.greg c0, r.greg c1, r.greg c2, r.greg c3]
        (mkTags 4 fun d => [c0, c1, c2, c3].getD d 0 != 0) st)
  | .ck g tile label st =>
    match g with
    | none => .ok (.ck ⟨tile, label⟩ st)
    | some n =>
      if r.gtag n then .error (poisonedReg n)
      else .ok (.ck ⟨tile + (r.greg n).extractLsb' 0 16, label⟩ st)
  | _ => .ok .absent

/-- A command's fault with the SE bit and its release tick (R356, R374). -/
def SeCmd.flt (m : SeCmd) (f : Flt) : Flt :=
  if f.cls = 0x0A then { f with synd := f.synd % 2 ^ 40 + m.rel % 2 ^ 24 * 2 ^ 40 }
  else if 0x0C ≤ f.cls && f.cls ≤ 0x0E then { f with synd := (f.synd % 2 ^ 32 ||| 128) + m.rel % 2 ^ 32 * 2 ^ 32 }
  else f

/-- The row number of an iteration, or the protection fault (R58). -/
def rowNo (write : Bool) (o : ROp) (x : Ix) (k : Nat := 0) : SeM Nat :=
  if inRows (o.row x k) then pure (o.row x k).toNat else seFail (protFlt .se 7 write)

def tensorDesc (m : SeCmd) (c : CellId) (write : Bool) (o : ROp) : SeM Desc := do
  match useDesc (← get) c m.rel write o with
  | .error f => seFail f
  | .ok d => pure d

/-- An element's value and poison. -/
structure Elem where
  v   : Nat
  tag : Bool
  deriving DecidableEq, Repr

/-- The UDP port of the device fabric where the peer table gives none (R96). -/
def defaultPort : BitVec 16 := 49210
/-- The peer table's entry of a device (R96). -/
def State.peer (s : State) (dev : BitVec 12) : Peer :=
  (s.peers.find? fun p => p.dev == dev).getD ⟨dev, 0, defaultPort, false, false, 0, 0⟩
/-- Send a fabric frame under a number, on the sub-port its peer is bound to (R96, R183, R385): the first wait ends 50 µs later. -/
def State.sendFrameAs (fid : Nat) (path : Path) (scope : Nat) (own : Bool) (dev : BitVec 12) (c : CellId) (cmd : Nat) (body : OutBody)
    (s : State) : State :=
  let p := s.peer dev
  let f : OutFrame :=
    { fid := fid, dev := dev, cell := c, cmd := cmd, asid := (s.gangOf c).asid, body := body, sends := 1, wait := s.wall + 95000,
      reply := none, held := false, path := path, scope := scope, own := own, ip := p.ip, port := p.port, sub := p.sub }
  { s with outFrames := s.outFrames ++ [f] }.emit (.frame f)
/-- Send a fabric frame for a command. -/
def State.sendFrame (dev : BitVec 12) (c : CellId) (cmd : Nat) (body : OutBody) (s : State) : State :=
  (s.sendFrameAs s.uid .np 4 true dev c cmd body).fresh

/-- A row from bytes, low first. -/
def rowOfBytes (l : List Byte) : Row := BitVec.ofNat 2048 (packNat 8 (fun i => (l.getD i 0).toNat) 256)

/-- A block of a peer: the reply to a read frame, which is sent first; none while it is awaited (R96). -/
def peerBlock (m : SeCmd) (c : CellId) (dev : BitVec 12) (blk : Nat) : SeM (Option (Row × Bool)) := do
  let s ← get
  match s.outFrames.find? fun f => decide (f.cmd = m.uid) && f.dev == dev && f.body == .read (256 * blk) 256 with
  | some f => pure (f.reply.map fun l => (rowOfBytes l, l.getD 256 0 != 0))
  | none => do
    set (s.sendFrame dev c m.uid (.read (256 * blk) 256))
    pure none

/-- A location as a path of the cell sees it. Each location that a piece reads is read in a step of its own; what earlier steps read for
the piece stays (R124). -/
def readLoc (m : SeCmd) (c : CellId) (p : Path) (l : Loc) : SeM (Row × Bool) := do
  let s ← get
  match (s.cell c).se.queue.find? fun e => decide (e.uid = m.uid) with
  | none => pure (s.visible c p l)
  | some e =>
    match e.got.find? fun g => decide (g.1 = l) with
    | some g => pure g.2
    | none =>
      if e.stepped then seWait
      else do
        let r := s.visible c p l
        set ((s.noteSeen c p m.uid l).modCell c fun x => { x with se := { x.se with queue := x.se.queue.map fun (k : SeCmd) =>
          if k.uid = m.uid then { k with got := k.got ++ [(l, r)], stepped := true } else k } })
        pure r

/-- The frame from which a cell reads a page: the copy on its own die where there is one (R92). -/
def State.readFrame (s : State) (c : CellId) (p : Page) : Nat :=
  match (s.dupOf p.frame).bind fun d => d.copies.find? fun e => decide (e.1 = ⟨dieOf c, s.selfdev⟩) with
  | some e => e.2
  | none => p.frame

/-- One element: zero out of range, from memory as the cell sees it, or from the peer that holds it. -/
def readElem (m : SeCmd) (c : CellId) (tid : BitVec 12) (d : Desc) (x : List Nat) : SeM (Option Elem) := do
  let s ← get
  match s.element (s.gangOf c).asid tid d false x with
  | .error e => seFail (xFlt .se tid false true m.rel e)
  | .ok none => pure (some ⟨0, false⟩)
  | .ok (some (p, off)) =>
    let n := 8 * fmtBytes d.fmt
    let bit := 8 * (off % 256)
    if p.dev = s.selfdev then
      let frame := s.readFrame c p
      if s.lockedFrame frame then pure none
      else do
        let l : Loc := .hbm (256 * frame + off / 256)
        let r ← readLoc m c (s.plainPath l) l
        pure (some ⟨fieldOf r.1.toNat bit n, r.2⟩)
    else do
      let r ← peerBlock m c p.dev (p.addr off / 256)
      pure (r.map fun v => ⟨fieldOf v.1.toNat bit n, v.2⟩)

/-- The replies a command has used are dropped. -/
def dropReplies (m : SeCmd) : SeM Unit :=
  modify fun s => { s with outFrames := s.outFrames.filter fun f =>
    !(decide (f.cmd = m.uid) && f.reply.isSome && (match f.body with
      | .read _ _ => true
      | _ => false)) }

/-- Several elements; none while one of them is awaited. -/
def readElems (m : SeCmd) (c : CellId) (o : ROp) (d : Desc) (xs : List (List Nat)) : SeM (Option (List Elem)) := do
  let l ← xs.mapM (readElem m c o.tid d)
  if l.all (·.isSome) then do
    dropReplies m
    pure (some (l.filterMap id))
  else pure none

/-- Elements packed in a row. -/
def packElems (e : Nat) (l : List Elem) : Row × Bool :=
  (BitVec.ofNat 2048 (packNat (8 * e) (fun i => (l.getD i ⟨0, false⟩).v) (256 / e)), l.any (·.tag))
/-- A row's elements of e bytes. -/
def rowElems (e : Nat) (r : Row × Bool) : List Elem :=
  (List.range (256 / e)).map fun i => ⟨fieldOf r.1.toNat (8 * e * i) (8 * e), r.2⟩

/-- A tensor row (R286). -/
def readTensorRow (m : SeCmd) (c : CellId) (o : ROp) (d : Desc) (x : List Nat) : SeM (Option (Row × Bool)) := do
  let e := fmtBytes d.fmt
  pure ((← readElems m c o d (alongRow x (256 / e))).map (packElems e))

/-! ## Writes -/

/-- A write a command makes. -/
structure Wr where
  loc   : Loc
  op    : WOp
  v     : Nat
  bytes : Nat
  tag   : Bool
  deriving DecidableEq, Repr

/-- A whole row. -/
def wrRow (l : Loc) (r : Row × Bool) : Wr := ⟨l, .set, r.1.toNat, 2 ^ 256 - 1, r.2⟩

/-- n bytes at an offset of a location, joined with what the list already writes there. -/
def addWr (op : WOp) (l : Loc) (off n v : Nat) (tag : Bool) : List Wr → List Wr
  | [] => [⟨l, op, v % 2 ^ (8 * n) * 2 ^ (8 * off), (2 ^ n - 1) * 2 ^ off, tag⟩]
  | w :: ws =>
    if w.loc = l then
      ⟨l, op, putField w.v (8 * off) (8 * n) v, w.bytes ||| (2 ^ n - 1) * 2 ^ off, w.tag || tag⟩ :: ws
    else w :: addWr op l off n v tag ws

/-- The location of an element, none out of range. -/
def elemLoc (m : SeCmd) (c : CellId) (o : ROp) (d : Desc) (x : List Nat) : SeM (Option (Loc × Nat)) := do
  let s ← get
  match s.element (s.gangOf c).asid o.tid d true x with
  | .error e => seFail (xFlt .se o.tid true true m.rel e)
  | .ok none => pure none
  | .ok (some (p, off)) =>
    let blk := p.addr off / 256
    pure (some (if p.dev = s.selfdev then .hbm blk else .peer p.dev blk, off % 256))

/-- Writes of elements with the flags of each, one write for each block they lie in; those out of range are dropped, and raise no
flag (R79). -/
def writeFlagged (m : SeCmd) (c : CellId) (o : ROp) (d : Desc) (op : WOp) (l : List (List Nat × Elem × FlagBits)) :
    SeM (List Wr × FlagBits) := do
  let n := fmtBytes d.fmt
  l.foldlM (fun ws x => do
    match ← elemLoc m c o d x.1 with
    | none => pure ws
    | some (loc, off) => pure (addWr op loc off n x.2.1.v x.2.1.tag ws.1, ws.2 ||| x.2.2)) ([], 0)
/-- Writes of elements that raise no flags. -/
def writeElems (m : SeCmd) (c : CellId) (o : ROp) (d : Desc) (op : WOp) (l : List (List Nat × Elem)) : SeM (List Wr) := do
  pure (← writeFlagged m c o d op (l.map fun x => (x.1, x.2, 0))).1

/-- A tensor row written. -/
def writeTensorRow (m : SeCmd) (c : CellId) (o : ROp) (d : Desc) (op : WOp) (x : List Nat) (r : Row × Bool) : SeM (List Wr) :=
  let e := fmtBytes d.fmt
  writeElems m c o d op ((alongRow x (256 / e)).zip (rowElems e r))

/-- Make a write: it is drained into its fabric, or goes out as a frame, under the next number. -/
def makeWrite (m : SeCmd) (c : CellId) (chan : Option (BitVec 10)) (w : Wr) (s : State) : State :=
  let v : Row := BitVec.ofNat 2048 w.v
  let bs : BitVec 256 := BitVec.ofNat 256 w.bytes
  match w.loc with
  | .peer dev blk => s.sendFrame dev c m.uid (match w.op with
      | .set => .write (256 * blk) v bs w.tag chan
      | .add fmt rm => .add (256 * blk) v bs fmt rm w.tag)
  | l => s.drainWrite c (s.plainPath l) m.uid none l w.op v bs w.tag

/-- Does a frame write at the peer? -/
def OutBody.writes : OutBody → Bool
  | .read _ _ => false
  | _ => true
/-- Does it write into a frame there? -/
def OutBody.writesFrame (frame : Nat) : OutBody → Bool
  | .write a _ _ _ _ | .add a _ _ _ _ _ | .atomic a _ _ _ _ _ | .update a _ _ _ => a / 65536 = frame
  | _ => false
/-- Is a write held by a migration of a peer's page that this device carries out (R93)? -/
def State.heldAway (s : State) (w : Wr) : Bool :=
  match w.loc with
  | .peer dev b => s.peerHeld dev (b / 256)
  | _ => false

/-- Is a write to a row that an open window has registered (R284, R290)? -/
def heldByWindow (c : CellId) (s : State) (w : Wr) : Bool :=
  match w.loc with
  | .sp d r => d = c && ((s.cell c).windowFlt .se r).isSome
  | _ => false

/-! ## Scratchpad rows -/

/-- A scratchpad row of an operand as the cell's SP path sees it. -/
def readRow (m : SeCmd) (c : CellId) (o : ROp) (x : Ix) (k : Nat := 0) : SeM (Row × Bool) := do
  readLoc m c .sp (.sp c (← rowNo false o x k))

/-- A row of another cell (R293). -/
def farLoc (m : SeCmd) (c d : CellId) (write : Bool) (row : Nat) : SeM Loc := do
  let s ← get
  match s.rowOf (s.gangOf c).asid (((m.target.find? fun t => decide (t.1 = d)).map (·.2)).getD none) row with
  | some l => pure l
  | none => seFail (protFlt .se 13 write)

/-- A row of an operand that is scratchpad or tensor at an iteration; none while a peer is awaited. -/
def readOpnd (m : SeCmd) (c : CellId) (o : ROp) (x : Ix) : SeM (Option (Row × Bool)) := do
  match o with
  | .tensor _ _ _ _ _ =>
    let d ← tensorDesc m c false o
    readTensorRow m c o d (o.coords d x)
  | _ => pure (some (← readRow m c o x))
/-- Write a row to an operand at an iteration. -/
def writeOpnd (m : SeCmd) (c : CellId) (o : ROp) (op : WOp) (x : Ix) (r : Row × Bool) : SeM (List Wr) := do
  match o with
  | .tensor _ _ _ _ _ =>
    let d ← tensorDesc m c true o
    writeTensorRow m c o d op (o.coords d x) r
  | _ => pure [{ wrRow (.sp c (← rowNo true o x)) r with op := op }]

/-! ## A piece of work -/

/-- What one step of a command did: its writes, the destination bytes they carry, flags, the command after it, and whether that was
the last. -/
structure Piece where
  wr    : List Wr
  bytes : Nat
  fl    : FlagBits
  m     : SeCmd
  fin   : Bool
  /-- the number of a message that carries the bytes -/
  frames : Option Nat := none

/-- A command's work on its cell: none where it must wait. -/
abbrev Work := SeCmd → CellId → SeM (Option Piece)

/-- Work in items of one destination row each. -/
def itemsOf (total : Nat) (bytes : Nat) (item : Nat → SeM (Option (List Wr × FlagBits))) (m : SeCmd) :
    SeM (Option Piece) := do
  if total ≤ m.next then pure (some ⟨[], 0, 0, m, true, none⟩)
  else
    match ← item m.next with
    | none => pure none
    | some (ws, fl) => pure (some ⟨ws, bytes, fl, { m with next := m.next + 1 }, decide (total ≤ m.next + 1), none⟩)

/-- Work that ends with one result row, of the given bytes from byte 0 on, when it has an operand for it. -/
def resultRow (m : SeCmd) (c : CellId) (v : Nat) (tag : Bool) : SeM (Option Piece) := do
  match m.o0 with
  | .sp _ _ =>
    let r ← rowNo true m.o0 (m.ix 0)
    pure (some ⟨[wrRow (.sp c r) (BitVec.ofNat 2048 v, tag)], 256, 0, m, true, none⟩)
  | _ => pure (some ⟨[], 0, 0, m, true, none⟩)

/-! ## The range checker and the queue (R27, R290) -/

/-- Rows from a scratchpad operand on, n for each iteration. -/
def ROp.rows (o : ROp) (m : SeCmd) (n : Nat) (k : Nat → Nat := fun _ => 0) : List Nat :=
  match o with
  | .sp _ _ => (List.range m.total).flatMap fun i => (List.range n).filterMap fun j =>
      let r := o.row (m.ix i) (j + k i)
      if inRows r then some r.toNat else none
  | _ => []
def allRows : List Nat := List.range spRows
/-- n rows from an unstepped operand on. -/
def ROp.span (o : ROp) (n : Nat) : List Nat :=
  match o with
  | .sp b _ => (List.range n).map (b + ·) |>.filter (· < spRows)
  | _ => []
def ceilDiv (a b : Nat) : Nat := (a + b - 1) / b

/-- The elements' bytes of a tensor operand at release, 1 where its descriptor is not valid. -/
def State.esize (s : State) (c : CellId) (o : ROp) : Nat :=
  match s.desc (s.gangOf c).asid o.tid with
  | .ok d => fmtBytes d.fmt
  | .error _ => 1

/-- Rows of the source of CPCV that one destination row needs. -/
def cpcvRows (s : State) (c : CellId) (m : SeCmd) : Nat :=
  match m.o0, m.o1 with
  | .tensor _ _ _ _ _, .sp _ _ => max 1 (fmtBytes (m.o2.immNat % 16) / s.esize c m.o0)
  | _, _ => 1

/-- The rows of this cell that a command may read or write (R290). -/
def seRows (s : State) (c : CellId) (m : SeCmd) : List Nat :=
  let own (l : List Nat) : List Nat := if m.target.any fun t => t.2.isSome && t.2 == s.taskOn c then l else []
  match m.op with
  | 3 => if m.r.mod.getLsbD 0 then m.o0.rows m 1 ++ own (m.o1.rows m 1) else m.o1.rows m 1 ++ own (m.o0.rows m 1)
  | 5 => own (m.o0.rows m 1) ++ m.o1.rows m 1
  | 6 =>
    let n := 256 / s.esize c (match m.o0 with
      | .tensor _ _ _ _ _ => m.o0
      | _ => m.o1)
    m.o0.rows m n ++ m.o1.rows m n
  | 7 => m.o0.rows m 1 ++ m.o1.rows m (cpcvRows s c m)
  | 8 => m.o1.rows m 2 (fun i => 2 * i)
  | 9 => m.o0.rows m 1 ++ m.o1.rows m 1 ++ m.o2.span 1
  | 0x0B => m.o0.span m.total ++ (match m.o1 with
      | .sp _ _ => allRows
      | _ => []) ++ m.o2.span (ceilDiv m.total 64)
  | 0x0C | 0x0D => (match m.o0 with
      | .sp _ _ => allRows
      | _ => []) ++ m.o1.span m.total ++ m.o2.span (ceilDiv m.total 64)
  | 0x0E | 0x0F => allRows
  | 0x10 => m.o0.rows m 1 ++ m.o1.rows m m.o2.immNat
  | 0x12 => m.o1.rows m 32
  | 0x13 => m.o0.span (ceilDiv m.o2.immNat 32) ++ m.o1.span (ceilDiv m.o2.immNat 32)
  | 0x14 => m.o1.span (ceilDiv m.o2.immNat (if m.r.mod.getLsbD 0 then 32 else 64))
  | 0x15 => m.o0.span (ceilDiv (m.o2.immNat / 256 % 256 + 1) 32)
  | 0x1C | 0x1D => match m.o0 with
    | .ring b => [b.toNat % 2 ^ 19 / 16]
    | _ => []
  | 0x1A => m.o0.span 1 ++ m.o2.span 1
  | _ => m.o0.rows m 1 ++ m.o1.rows m 1 ++ m.o2.rows m 1

/-- The commands of the network (R308–R312), whose path is NP. -/
def isNetOp (op : Nat) : Bool := 0x16 ≤ op && op ≤ 0x1B
/-- The queue barriers (R290), the legacy CPINS among them (R330). -/
def isBarrier (op : Nat) : Bool := op = 0x1E || op = 0x1F || op = 0x20 || op = 0x21 || op = 0x29 || op = 0x2A

/-- Commands ahead of a command in its queue. -/
def Se.before (q : Se) (m : SeCmd) : List SeCmd := q.queue.takeWhile fun e => decide (e.uid ≠ m.uid)

/-- May a command begin: no FENCE holds it, no earlier incomplete command shares a row with it or is a barrier, and
METAs keep their order (R27, R133, R290, R305)? -/
def State.seReady (s : State) (c : CellId) (m : SeCmd) : Bool :=
  let x := s.cell c
  !(x.ord.holds.any fun h => m.holds.contains h.uid) &&
  !((x.se.before m).any fun e =>
    (isBarrier e.op && !(e.op = 0x1E && isNetOp m.op)) || (e.op = 0x12 && m.op = 0x12) ||
    (seRows s c m).any fun r => (seRows s c e).contains r)

/-! ## Promises (R87, R288, R382) -/

/-- A class's place from weakest to strongest: none, then the longest promise. -/
def weakness (cls : Nat) : Nat := if cls = 0 then 0 else 4 - cls
/-- The page of the weakest effective class that a command touches, by tensor. -/
def weakestPage (s : State) (c : CellId) (m : SeCmd) : Option (Nat × BitVec 12 × Page) :=
  ((touched s c m true m.o0 ++ touched s c m false m.o1).map fun p => (s.effClass p.2, p.1, p.2)).foldl (fun b p => match b with
    | none => some p
    | some q => if weakness p.1 < weakness q.1 then some p else b) none

/-- Destination bytes of a command that carries PROM (R288). -/
def promBytes (s : State) (c : CellId) (op : Nat) (r : Rec) (o2 : ROp) : Nat :=
  let n := nestTotal r.nest
  let e (o : Opnd) : Nat := match o with
    | .tensor tid _ _ _ _ _ _ => s.esize c (.tensor tid 0 (Vector.replicate 4 0) 0 .zero)
    | _ => 1
  match op with
  | 5 => n * 256 * 2 ^ ((immOf r.o2) / 128 % 8 + immOf r.o2 / 1024 % 8)
  | 6 => n * 65536 / (max (e r.o0) (e r.o1))
  | 8 => n * 132
  | 0x0F =>
    let g := groupsOf ((s.cell c).row (o2.row ⟨0, 0, 0, 0⟩).toNat)
    (g.o (g.n % 64) - g.o 0) * g.rs * 256
  | 0x12 => n * 8192
  | 0x1A | 0x22 | 0x23 | 0x27 => 256
  | 0x24 => 0
  | _ => n * 256

/-- The illegal-record fault of a PROM command beyond 65,536 bytes, which depends on operand 2 as it would be captured. -/
def promBad (i : Instr) (op : Nat) (r : Rec) (s : State) : Option Flt :=
  let o2 := match capOpnd r.o2 s.cur.cc with
    | .ok o => o
    | .error _ => .absent
  if (match entryOf i with
    | some e => e.prom
    | none => false) && r.mod.getLsbD 4 && 65536 < promBytes s s.curCell op r o2 then
    some (rejectFlt (s.gangOf s.curCell).encgen .se ⟨.modifier, none, 0, 15, op⟩)
  else none

/-- The fault of the first page of a down peer that a command names at its release (R385). -/
def downPage (s : State) (c : CellId) (m : SeCmd) : Option Flt :=
  let look (write : Bool) (o : ROp) : Option Flt := match useDesc s c m.rel write o with
    | .error _ => none
    | .ok d => ((namedElems s c m write o d).filterMap (tileOf d)).findSome? fun t => match s.page (s.gangOf c).asid o.tid d write t.1 with
      | .error x => if x.cls = 0x28 then some (xFlt .se o.tid write true m.rel x) else none
      | .ok _ => none
  if s.peers.any fun p => p.valid && p.down then (look true m.o0).orElse fun _ => look false m.o1 else none

/-- A latency-promise-broken fault (R374): LATE, the deadline in ticks, bytes not complete. -/
def promiseFlt (p : Promise) (late : Bool) (rel left : Nat) : Flt :=
  ⟨0x0F, 3, p.cls + late.toNat * 4 + p.why * 8 + (if late then (p.deadline - rel) % 2 ^ 24 * 256 else 0) + left % 2 ^ 32 * 2 ^ 32,
    p.tid.toNat + p.tile * 4096, true, 0⟩

/-! ## Release (R27, R285) -/

/-- The cells other contexts of which a command may touch: CPRR, CPBC, RADVX.X (R293). -/
def targetCells (op : Nat) (r : Rec) : List CellId :=
  match op with
  | 3 => [Fin.ofNat 128 (immOf r.o2)]
  | 5 =>
    let w := immOf r.o2
    (List.range (2 ^ (w / 1024 % 8))).flatMap fun y => (List.range (2 ^ (w / 128 % 8))).map fun x =>
      Fin.ofNat 128 (w % 128 + 8 * y + x)
  | 0x28 => if r.mod.getLsbD 0 then [Fin.ofNat 128 (immOf r.o1 % 128)] else []
  | _ => []

/-- An arrival word beyond the scratchpad (R287). -/
def awBeyond (o : ROp) : Bool :=
  match o with
  | .ring b => b.msb && spRows ≤ b.toNat % 2 ^ 19 / 16
  | _ => false

/-- Is a command's path among the later paths of a FENCE (R129, R133)? -/
def fenceHolds (op : Nat) (touchesPeer : Bool) (h : Hold) : Bool :=
  if isNetOp op then h.aft.getLsbD 4 else h.aft.getLsbD 2 || (touchesPeer && h.aft.getLsbD 4)

/-- Does a command name a page of a peer at release? -/
def namesPeer (s : State) (c : CellId) (m : SeCmd) : Bool :=
  (touched s c m true m.o0 ++ touched s c m false m.o1).any fun p => p.2.dev != s.selfdev

/-- The command of a record at its release. -/
def newCmd (op : Nat) (r : Rec) (off : Nat) (s : State) : Except Flt SeCmd :=
  let cc := s.cur.cc
  match capOpnd r.o0 cc, capOpnd r.o1 cc, capOpnd r.o2 cc with
  | .error f, _, _ => .error f
  | _, .error f, _ => .error f
  | _, _, .error f => .error f
  | .ok a, .ok b, .ok d =>
    .ok { uid := s.uid, off := off, op := op, r := r, o0 := a, o1 := b, o2 := d, rel := s.now, relAt := s.wall, next := 0, phase := .queued,
          holds := [], prom := none, target := (targetCells op r).map fun c => (c, s.taskOn c), cw := [], cb := 0, out := [],
          got := [], stepped := false, data := [], acc := 0, tag := false, nref := false }

/-- The promise of a PROM command at release (R87). -/
def promiseOf (m : SeCmd) (s : State) : Option Promise :=
  (weakestPage s s.curCell m).map fun w =>
    let p := w.2.2
    let why := if p.dev ≠ s.selfdev && s.whyZero p = 0 then 5 else s.whyZero p
    let ns := promiseNs w.1
    ⟨m.rel + (ns * (s.gangOf s.curCell).fmin + 999) / 1000, w.1, w.2.1, p.tile, why⟩

/-- A page of effective class 0 breaks the promise at release: the command is queued, the fault is taken and the gang
waits for the command (R87, R382). -/
def breakAtRelease (m : SeCmd) (s : State) : State :=
  match m.prom with
  | some p =>
    if p.cls = 0 then
      (s.fault s.curCell .se m.off s.now none (promiseFlt p false m.rel (promBytes s s.curCell m.op m.r m.o2))).request
        (s.gidOf s.curCell) (.command s.curCell m.uid)
    else s
  | none => s

/-- Release a record into the SE command queue. -/
def releaseCmd (prom : Bool) (op : Nat) (r : Rec) (c : Ctx) (s : State) : Except Flt State :=
  match newCmd op r c.off s with
  | .error f => .error f
  | .ok m =>
    if awBeyond m.o0 || awBeyond m.o1 || awBeyond m.o2 then .error (m.flt (protFlt .se 7 (op != 0x29)))
    else match downPage s s.curCell m with
    | some f => .error f
    | none =>
      let x := s.cur
      let peer := namesPeer s s.curCell m
      let m := { m with
        prom := if prom && r.mod.getLsbD 4 then promiseOf m s else none
        holds := (x.ord.holds.filter fun h => fenceHolds op peer h && decide (h.tick < s.now)).map (·.uid) }
      let t := s.setCur { x with se := { x.se with queue := x.se.queue ++ [m] }, sq := { x.sq with seTick := some s.now } }
      .ok (breakAtRelease m t.fresh)

/-- Issue an SE record: its checks, its signature entry and its release (R27, R285). -/
def issueSe (i : Instr) (op : Nat) (r : Rec) (body : Ctx → State → Except Flt State) (s : State) : State :=
  let s := s.onEngine .se
  let gen := (s.gangOf s.curCell).encgen
  let bad := match recBad i gen with
    | some f => some f
    | none => promBad i op r s
  issue i bad r.stamp.toNat r.pred 1 1 (stepBad i r .se gen) body s

end Sys2Proof.Machine
end

