-- ==== Sys2Proof/Machine/Pages.lean ====
section
/-! DEFINITION. Pages that move or are copied: the leaves that map a frame, read-duplication and its collapse (R92, R383),
migration and handover (R93, R384), and the demotion of a page whose promise broke (R382). -/

namespace Sys2Proof.Machine

/-! ## The leaves that map a frame (R80, R81) -/

/-- The address of the leaf of a tile, none where the walk stops before it. -/
def leafAddr (s : State) (tile : Nat) : Nat → Nat → Option Nat
  | 0, _ => none
  | k + 1, frame =>
    let a := frame * 65536 + 8 * fieldOf tile (13 * k) 13
    if k = 0 then some a
    else
      let w := (s.devRead a 8).1
      if fieldOf w 38 1 = 0 || s.frames ≤ fieldOf w 0 36 then none else leafAddr s tile k (fieldOf w 0 36)

/-- The tiles of a tensor. -/
def Desc.tiles (d : Desc) : Nat := (d.dims.zip d.tlog).foldl (fun n x => n * ceilDiv x.1 (2 ^ x.2)) 1

/-- A leaf: its tensor, its tile and its place. -/
structure LeafAt where
  asid : BitVec 10
  tid  : BitVec 12
  tile : Nat
  addr : Nat
  deriving DecidableEq, Repr

/-- The leaves of a tensor. -/
def State.leavesOfTensor (s : State) (asid : BitVec 10) (tid : BitVec 12) : List LeafAt :=
  match (s.descWord asid tid).map (parseDesc s.frames) with
  | some (.ok d) => (List.range d.tiles).filterMap fun t => (leafAddr s t d.levels d.root).map (⟨asid, tid, t, ·⟩)
  | _ => []
/-- The valid leaves of every tensor table that a test of the leaf accepts. -/
def State.leavesWith (s : State) (p : Nat → Bool) : List LeafAt :=
  (s.tables.flatMap fun t => (List.range 4096).flatMap fun i => s.leavesOfTensor t.asid (BitVec.ofNat 12 i)).filter fun l =>
    let w := (s.devRead l.addr 8).1
    fieldOf w 38 1 = 1 && p w
/-- The leaves that map a frame of a device. -/
def State.leavesOf (s : State) (dev : BitVec 12) (frame : Nat) : List LeafAt :=
  s.leavesWith fun w => fieldOf w 0 36 = frame && BitVec.ofNat 12 (fieldOf w 44 12) = dev

/-- Rewrite leaves, and invalidate their cached translations (R77). -/
def State.rewriteLeaves (s : State) (l : List LeafAt) (f : LeafAt → Nat → Nat) : State :=
  let t := l.foldl (fun u x => (u.devWriteIn x.addr 8 (f x (s.devRead x.addr 8).1)).engineDelta (x.addr / 256)) s
  { t with leaves := t.leaves.filter fun c => !(l.any fun x => x.asid == c.asid && x.tid == c.tid && decide (x.tile = c.tile)) }

def setLeafBit (b v w : Nat) : Nat := putField w b 1 v
/-- Frame, home die and home device of a leaf. -/
def setLeafHome (frame die : Nat) (dev : BitVec 12) (w : Nat) : Nat :=
  putField (putField (putField w 0 36 frame) 42 2 die) 44 12 dev.toNat

/-- Blocks of a frame, by their numbers in it, copied to another frame with their poison marks. -/
def State.copyBlocks (s : State) (src dst : Nat) (l : List Nat) : State :=
  l.foldl (fun u k =>
    let r := u.blockRead (256 * src + k)
    (u.blockWrite (256 * dst + k) r.1 (BitVec.allOnes 256) r.2).engineDelta (256 * dst + k)) s
/-- The blocks of a frame of which a sync engine holds a line. -/
def State.lineBlocks (s : State) (frame : Nat) : List Nat :=
  ((s.lines.filter fun l => decide (l.line / 1024 = frame)).map fun l => l.line / 4 % 256).dedup
/-- The sync engine's lines of a frame are written back (R93). -/
def State.dropLines (s : State) (frame : Nat) : State :=
  (s.lines.filter fun l => decide (l.line / 1024 = frame)).foldl (fun u l => u.dropLine l.line) s
/-- Copy the 64 KiB of a frame, with its poison marks (R93, R384). -/
def State.copyFrame (s : State) (src dst : Nat) : State := s.copyBlocks src dst (List.range 256)
/-- Send blocks of a frame to a frame of a peer: the numbers of the frames that carry them, and the state after. -/
def State.sendBlocks (s : State) (src : Nat) (dev : BitVec 12) (dst : Nat) (l : List Nat) : List Nat × State :=
  l.foldl (fun r k =>
    let b := r.2.blockRead (256 * src + k)
    let u := r.2.uid
    (r.1 ++ [u], (r.2.sendFrameAs u .np 4 false dev 0 0 (.write (65536 * dst + 256 * k) b.1 (BitVec.allOnes 256) b.2 none)).fresh)) ([], s)

/-! ## Migrations in progress (R93, R384) -/

def Migration.is (m : Migration) (home : BitVec 12) (frame : Nat) : Bool := m.home == home && decide (m.frame = frame)
def State.migOf (s : State) (frame : Nat) : Option Migration := s.migs.find? (·.is s.selfdev frame)
def State.putMig (s : State) (m : Migration) : State :=
  { s with migs := s.migs.map fun x => if x.is m.home m.frame then m else x }
/-- Must a migration be abandoned: its new home is down, or the command that moves a peer's page has gone (R384)? -/
def State.migFails (s : State) (m : Migration) : Bool :=
  (m.dev != s.selfdev && (s.peer m.dev).down) ||
  (m.cmd ≠ 0 && !(s.cells.toList.any fun x => x.se.queue.any fun e => decide (e.uid = m.cmd)) &&
    !(s.images.any fun i => i.active && i.members.any fun x => x.se.queue.any fun e => decide (e.uid = m.cmd)))

/-! ## Held writes (R92, R93) -/

def FWrite.frame (w : FWrite) : Option Nat := match w.loc with
  | .hbm b => some (b / 256)
  | _ => none

/-- Perform the held writes of a frame: writers in the order their first writes reached the agent, each in issue order. -/
def State.releaseWaiters (s : State) (frame : Nat) : List Nat → State
  | [] => s
  | u :: us =>
    let t := match s.fabric.find? fun w => decide (w.uid = u) with
      | none => s
      | some w =>
        (s.fabric.filter fun (x : FWrite) => decide (x.cell = w.cell) && x.path == w.path && x.held && decide (x.frame = some frame)).foldl
          (fun v x => v.performWrite x) s
    t.releaseWaiters frame us
/-- Let go of whatever a frame still holds. -/
def State.unhold (s : State) (frame : Nat) : State :=
  { s with fabric := s.fabric.map fun w => if w.frame = some frame then { w with held := false } else w }
/-- A write whose location is a block of a frame goes on to that block of a frame of this device, or to a peer, under its own number,
path and scope (R131, R138). -/
def State.redirect (s : State) (w : FWrite) (dev : BitVec 12) (frame : Nat) : State :=
  match w.loc with
  | .hbm b =>
    let blk := 256 * frame + b % 256
    if dev = s.selfdev then
      { s with fabric := s.fabric.map fun x => if x.uid = w.uid then { x with loc := .hbm blk, held := false } else x }
    else
      let u : State := { s with fabric := s.fabric.filter fun x => decide (x.uid ≠ w.uid) }
      u.sendFrameAs w.uid w.path (s.scopeOf w.cell w.loc) w.src.isNone dev w.cell w.cmd (match w.op with
        | .set => .write (256 * blk) w.v w.bytes w.tag none
        | .add f rm => .add (256 * blk) w.v w.bytes f rm w.tag)
  | _ => s
/-- The writes held for a frame go to another home, in issue order. -/
def State.redirectAll (s : State) (src : Nat) (dev : BitVec 12) (frame : Nat) : State :=
  (s.fabric.filter fun w => w.frame = some src).foldl (fun t w => t.redirect w dev frame) s
/-- A frame that firmware allocates on a device, whose choice is its own (log entry 2); one of this device is no longer handed over. -/
def State.freshFrame (s : State) (dev : BitVec 12) : Nat × State :=
  let (w, t) := s.free 5
  let f := w.toNat % s.frames
  (f, if dev = s.selfdev then { t with handed := t.handed.filter fun x => decide (x.1 ≠ f) } else t)

/-! ## Duplication and collapse (R92, R383) -/

def State.setDup (s : State) (d : Dup) : State :=
  { s with dups := (s.dups.filter fun e => decide (e.frame ≠ d.frame)) ++ [d] }
def State.dropDup (s : State) (frame : Nat) : State := { s with dups := s.dups.filter fun e => decide (e.frame ≠ frame) }

/-- A holder on this device has a frame of its own, with the page's data; a holder on a peer reads the page by its own frames (R92, log
entry 108). -/
def State.giveCopy (s : State) (frame : Nat) (h : Holder) (d : Dup) : State :=
  if h.dev = s.selfdev then
    let f := s.freshFrame s.selfdev
    (f.2.copyFrame frame f.1).setDup { d with holders := d.holders ++ [(h, s.wall, 0)], copies := d.copies ++ [(h, f.1)] }
  else s.setDup { d with holders := d.holders ++ [(h, s.wall, 0)] }
/-- A copy of a page of this device is given to a holder: every leaf carries DUP = 1 and WE = 0. -/
def State.duplicate (s : State) (asid : BitVec 10) (frame : Nat) (h : Holder) : State :=
  match s.dupOf frame with
  | some d => s.giveCopy frame h d
  | none =>
    let l := s.leavesOf s.selfdev frame
    let we := (l.filter fun x => fieldOf (s.devRead x.addr 8).1 39 1 = 1).map (·.addr)
    (s.rewriteLeaves l fun _ w => setLeafBit 40 1 (setLeafBit 39 0 w)).giveCopy frame h
      { frame := frame, asid := asid, holders := [], collapse := false, acks := [], waiters := [], we := we, home := none, copies := [] }

/-- DUP is cleared, and WE restored where it stood. -/
def clearDup (we : List Nat) (x : LeafAt) (w : Nat) : Nat :=
  setLeafBit 40 0 (setLeafBit 39 (if we.contains x.addr then 1 else fieldOf w 39 1) w)

/-- The holder's leaves go back to the home frame and home fields, with DUP = 0 (R92, R383). -/
def State.returnLeaves (s : State) (d : Dup) : State :=
  match d.home with
  | none => s
  | some (dev, frame, die) =>
    (s.rewriteLeaves (s.leavesOf s.selfdev d.frame) fun x w => setLeafHome frame die dev (clearDup d.we x w)).dropDup d.frame
/-- Step 3 of a collapse: the home leaf clears DUP, and the held writes are performed at the home copy (R92). The writes held at a copy
of a peer's page go to its home, once the leaves name the home again. -/
def State.finishCollapse (s : State) (d : Dup) : State :=
  match d.home with
  | some (dev, frame, _) => (s.returnLeaves d).redirectAll d.frame dev frame
  | none =>
    let t := (s.rewriteLeaves (s.leavesOf s.selfdev d.frame) (clearDup d.we)).dropDup d.frame
    (t.releaseWaiters d.frame d.waiters).unhold d.frame

/-- COLLAPSE (R92): a held write's agent sends the invalidations. -/
def execCollapse (frame : Nat) (s : State) : Res :=
  .next <| match s.dupOf frame with
    | some d => if d.collapse then s else s.startCollapse frame 0
    | none => s

/-- A holder has acknowledged or lapsed. -/
def State.acked (s : State) (d : Dup) (h : Holder) : State :=
  let e := { d with acks := d.acks.filter fun a => decide (a.1 ≠ h), holders := d.holders.filter fun a => decide (a.1 ≠ h) }
  if d.collapse && e.acks = [] then s.finishCollapse e else s.setDup e

/-- INVALIDATION_ACK (R92). -/
def execInvalidationAck (frame : Nat) (h : Holder) (s : State) : Res :=
  .next <| match s.dupOf frame with
    | some d => if d.collapse && d.acks.any (fun a => decide (a.1 = h)) then s.acked d h else s
    | none => s

/-- Wall cycles of the model's 1,900 MHz count in n µs. -/
def usCycles (n : Nat) : Nat := 1900 * n

/-- INVALIDATION_RESEND (R383): after 10 ms without an acknowledgement, up to three times. -/
def execInvalidationResend (frame : Nat) (h : Holder) (s : State) : Res :=
  .next <| match s.dupOf frame with
    | none => s
    | some d =>
      let again (a : Holder × Nat × Nat) : Bool := a.1 = h && a.2.1 < 3 && a.2.2 + usCycles 10000 ≤ s.wall
      if d.acks.any again then
        (s.setDup { d with acks := d.acks.map fun a => if again a then (a.1, a.2.1 + 1, s.wall) else a }).emit (.invalidate frame h)
      else s

/-- LEASE_RENEWAL (R383): the home notes the renewal of a peer that holds a copy; a copy held here sends one while the session with its home
stands. -/
def execLeaseRenewal (frame : Nat) (h : Holder) (s : State) : Res :=
  .next <| match s.dupOf frame with
    | none => s
    | some d =>
      let t := s.setDup { d with holders := d.holders.map fun (a : Holder × Nat × Nat) => if a.1 = h then (a.1, s.wall, a.2.2) else a }
      match d.home with
      | some (dev, f, _) => if s.peers.any fun p => p.dev == dev && p.valid && !p.down then t.emit (.renewal dev f h) else s
      | none => t

/-- LEASE_LAPSE (R383): a copy held here whose lease of 10 ms has run out returns to its home; a peer's copy, silent through
three resends, is dropped once its lease has lapsed by the home's reckoning, and a record is written. -/
def execLeaseLapse (frame : Nat) (h : Holder) (s : State) : Res :=
  .next <| match s.dupOf frame with
    | none => s
    | some d =>
      match d.holders.find? fun a => decide (a.1 = h) with
      | none => s
      | some (_, renewed, _) =>
        if d.home.isSome then (if renewed + usCycles 10000 ≤ s.wall then s.finishCollapse d else s)
        else if h.dev ≠ s.selfdev && renewed + usCycles 10020 ≤ s.wall && d.acks.any (fun a => a.1 = h && 3 ≤ a.2.1 && a.2.2 + usCycles 10000 ≤ s.wall) then
          (s.acked d h).writeRecord
            { cls := 0x28, sev := 2, unit := 10, asid := some d.asid, akind := true, disp := 4, synd := h.dev.toNat + 2 ^ 12,
              addr := ((s.leavesOf s.selfdev frame).head?.map fun l => l.tid.toNat + l.tile * 4096).getD 0 }
        else s

/-- FABRIC_SESSION_REOPEN (R383): every duplicated leaf held of a home is invalidated first; the peer's entry stays
unusable until system software re-validates it (R385). -/
def execFabricSessionReopen (dev : BitVec 12) (s : State) : Res :=
  .next ((s.dups.filter fun d => match d.home with
    | some (v, _, _) => v == dev
    | none => false).foldl (fun t d => t.finishCollapse d) s)

/-- The page's ASID: that of the first leaf that maps its frame. -/
def State.asidOfFrame (s : State) (frame : Nat) : BitVec 10 := ((s.leavesOf s.selfdev frame).head?.map (·.asid)).getD 0

/-- READ_DUPLICATION (R92): firmware duplicates a frame of this device. -/
def execReadDuplication (frame : Nat) (h : Holder) (s : State) : Res :=
  .next <| match s.dupOf frame with
    | some d => if d.collapse || d.home.isSome || 15 ≤ d.holders.length || d.holders.any (fun a => decide (a.1 = h)) then s
      else s.duplicate d.asid frame h
    | none => if (s.migOf frame).isSome || s.frames ≤ frame then s else s.duplicate (s.asidOfFrame frame) frame h

/-! ## Migration (R93, R384) -/

/-- Step 1: MIG is set in every leaf; a duplicated page collapses first (R383). -/
def State.startMigration (s : State) (frame : Nat) (die : Fin 2) (dev : BitVec 12) (newFrame : Nat) : State :=
  let t := s.rewriteLeaves (s.leavesOf s.selfdev frame) fun _ w => setLeafBit 41 1 w
  { t with migs := t.migs ++ [⟨frame, die, dev, newFrame, false, s.selfdev, false, [], 0⟩] }
/-- Step 1 for a page of a peer, which a PGMIG moves: MIG is set in the leaves here, and its writes are held. -/
def State.startPeerMigration (s : State) (home : BitVec 12) (frame : Nat) (die : Fin 2) (dev : BitVec 12) (newFrame cmd : Nat) : State :=
  let t := s.rewriteLeaves (s.leavesOf home frame) fun _ w => setLeafBit 41 1 w
  { t with migs := t.migs ++ [⟨frame, die, dev, newFrame, true, home, false, [], cmd⟩] }
/-- Handover of a page of a peer: the leaves here name the new home. -/
def State.endPeerMigration (s : State) (home : BitVec 12) (frame : Nat) (die : Fin 2) (dev : BitVec 12) (newFrame : Nat) : State :=
  let t := s.rewriteLeaves (s.leavesOf home frame) fun _ w => setLeafHome newFrame die.val dev (setLeafBit 41 0 w)
  { t with migs := t.migs.filter fun (m : Migration) => !m.is home frame }

/-- PAGE_MIGRATION (R93): firmware starts a migration, or the engine copies the page of a started one. -/
def execPageMigration (frame : Nat) (die : Fin 2) (dev : BitVec 12) (s : State) : Res :=
  .next <| match s.migOf frame with
    | some m =>
      if m.copied then s
      else if m.dev = s.selfdev then (s.copyFrame frame m.newFrame).putMig { m with copied := true }
      else
        let r := (s.dropLines frame).sendBlocks frame m.dev m.newFrame (List.range 256)
        r.2.putMig { m with copied := true, uids := r.1 }
    | none =>
      if s.frames ≤ frame then s
      else if (s.dupOf frame).isSome then s.startCollapse frame 0
      else ((s.freshFrame dev).2).startMigration frame die dev (s.freshFrame dev).1

/-- Is every frame that carries a migration's page performed at the new home? -/
def State.carried (s : State) (m : Migration) : Bool := !(s.outFrames.any fun f => m.uids.contains f.fid)

/-- HANDOVER (R93): the lines are written into the new frame, the leaves are rewritten, MIG is cleared, and the held writes go to the
new home. On the way to a peer the lines' blocks travel first, and no atomic is performed from then on. -/
def execHandover (frame newFrame : Nat) (s : State) : Res :=
  .next <| match s.migOf frame with
    | none => s
    | some m =>
      if m.newFrame ≠ newFrame || !m.copied || !s.carried m || s.migFails m then s
      else if m.dev ≠ s.selfdev && !m.sealed_ then
        let l := s.lineBlocks frame
        let r := (s.dropLines frame).sendBlocks frame m.dev newFrame l
        r.2.putMig { m with sealed_ := true, uids := r.1 }
      else
        let t := if m.dev = s.selfdev then (s.dropLines frame).copyBlocks frame newFrame (s.lineBlocks frame) else s
        let u := t.rewriteLeaves (t.leavesOf t.selfdev frame) fun _ w => setLeafHome newFrame m.die.val m.dev (setLeafBit 41 0 w)
        { u.redirectAll frame m.dev newFrame with
          migs := s.migs.filter fun (x : Migration) => !x.is s.selfdev frame
          handed := s.handed ++ [(frame, m.dev, newFrame)] }

/-- A PGMIG that waits for a frame's migration learns that it was abandoned. -/
def Cell.refuseMigration (x : Cell) (frame : Nat) : Cell :=
  { x with se := { x.se with queue := x.se.queue.map fun (m : SeCmd) =>
      if m.op = 0x23 && m.acc = frame + 1 then { m with tag := true } else m } }

/-- MIGRATION_ABANDON (R384): MIG is cleared, the frame stays, held writes are released there, and PGMIG is refused. A migration of a
peer's page whose command has gone is abandoned too. -/
def execMigrationAbandon (frame : Nat) (s : State) : Res :=
  .next <| match s.migs.find? fun m => decide (m.frame = frame) with
    | none => s
    | some m =>
      let t := s.rewriteLeaves (s.leavesOf m.home frame) fun _ w => setLeafBit 41 0 w
      let u : State := { t with migs := t.migs.filter fun (x : Migration) => !x.is m.home frame
                                cells := t.cells.map (·.refuseMigration frame) }
      if m.home = s.selfdev then (u.fabric.filter fun w => w.frame = some frame && w.held).foldl (fun v w => v.performWrite w) u else u
/-! ## Demotion (R382) -/

/-- PAGE_DEMOTION: LCLS 0 in every leaf of the page, and the original class recorded. -/
def execPageDemotion (asid : BitVec 10) (tid : BitVec 12) (tile : Nat) (why : BitVec 3) (s : State) : Res :=
  .next <| match (s.leavesOfTensor asid tid).find? fun l => decide (l.tile = tile) with
    | none => s
    | some l =>
      let w := (s.devRead l.addr 8).1
      let all := s.leavesWith fun v => fieldOf v 0 36 = fieldOf w 0 36 && fieldOf v 44 12 = fieldOf w 44 12
      if fieldOf w 38 1 = 0 || s.demoted.any (fun d => d.asid == asid && d.tid == tid && decide (d.tile = tile)) then s
      else { s.rewriteLeaves all fun _ v => putField v 36 2 0 with
        demoted := s.demoted ++ [⟨asid, tid, tile, fieldOf w 36 2, why.toNat⟩] }

/-- Has the cause of a demotion ended (R382)? WHY 0 and 5 end only at system software's request, which this event is. -/
def State.whyEnded (s : State) (d : Demoted) (w : Nat) : Bool :=
  match d.why with
  | 1 | 2 => !s.layout.moving && s.layout.mode ≠ 1
  | 3 => fieldOf w 40 1 = 0
  | 4 => fieldOf w 41 1 = 0
  | _ => true

/-- DEMOTION_RESTORE (R382): the recorded class returns to every leaf of the page. -/
def execDemotionRestore (asid : BitVec 10) (tid : BitVec 12) (tile : Nat) (s : State) : Res :=
  .next <| match s.demoted.find? fun d => d.asid == asid && d.tid == tid && decide (d.tile = tile),
      (s.leavesOfTensor asid tid).find? fun l => decide (l.tile = tile) with
    | some d, some l =>
      let w := (s.devRead l.addr 8).1
      if s.whyEnded d w then
        let all := s.leavesWith fun v => fieldOf v 0 36 = fieldOf w 0 36 && fieldOf v 44 12 = fieldOf w 44 12
        { s.rewriteLeaves all fun _ v => putField v 36 2 d.cls with demoted := s.demoted.erase d }
      else s
    | _, _ => s

end Sys2Proof.Machine
end

