-- ==== Sys2Proof/Machine/StreamCopy.lean ====
section
/-! DEFINITION. The copying commands of the stream engine (R291–R304): plain, adding, transposing, converting and masked
copies, gathers and scatters, grouped tiles, selection, sorting and reads of Crema. Each has its release and its work. -/

namespace Sys2Proof.Machine

/-- SNOP (R291). -/
def bodySnop : Rec → Ctx → State → Except Flt State := releaseCmd false 0
def execSnop (r : Rec) (s : State) : Res := .next (issueSe (.snop r) 0 r (bodySnop r) s)

/-! ## Plain copies (R292, R293) -/

/-- One row from operand 1 to operand 0. -/
def copyItem (op : WOp) (m : SeCmd) (c : CellId) (q : Nat) : SeM (Option (List Wr × FlagBits)) := do
  let x := m.ix q
  match ← readOpnd m c m.o1 x with
  | none => pure none
  | some r => pure (some (← writeOpnd m c m.o0 op x r, 0))
def workCopy : Work := fun m c => itemsOf m.total 256 (copyItem .set m c) m

/-- CPIN (R292). -/
def bodyCpin : Rec → Ctx → State → Except Flt State := releaseCmd true 1
def execCpin (r : Rec) (s : State) : Res := .next (issueSe (.cpin r) 1 r (bodyCpin r) s)
/-- CPINS, a legacy CPIN that is also a queue barrier (R330). -/
def bodyCpins : Rec → Ctx → State → Except Flt State := releaseCmd true 0x2A
def execCpins (r : Rec) (s : State) : Res := .next (issueSe (.cpins r) 0x2A r (bodyCpins r) s)
/-- CPOUT (R292). -/
def bodyCpout : Rec → Ctx → State → Except Flt State := releaseCmd true 2
def execCpout (r : Rec) (s : State) : Res := .next (issueSe (.cpout r) 2 r (bodyCpout r) s)

/-- The cell that CPRR names. -/
def SeCmd.farCell (m : SeCmd) : CellId := Fin.ofNat 128 m.o2.immNat
/-- CPRR: local row s to row r of the named cell, or with PULL its row s to local row r. -/
def workCprr : Work := fun m c =>
  itemsOf m.total 256 (fun q => do
    let x := m.ix q
    let d := m.farCell
    if m.r.mod.getLsbD 0 then
      let r ← readLoc m c .sp (← farLoc m c d false (← rowNo false m.o1 x))
      pure (some ([wrRow (.sp c (← rowNo true m.o0 x)) r], 0))
    else
      let r ← readRow m c m.o1 x
      pure (some ([wrRow (← farLoc m c d true (← rowNo true m.o0 x)) r], 0))) m

/-- CPRR (R292). -/
def bodyCprr : Rec → Ctx → State → Except Flt State := releaseCmd false 3
def execCprr (r : Rec) (s : State) : Res := .next (issueSe (.cprr r) 3 r (bodyCprr r) s)
/-- CPRR.PULL (R292). -/
def bodyCprrPull : Rec → Ctx → State → Except Flt State := releaseCmd false 3
def execCprrPull (r : Rec) (s : State) : Res := .next (issueSe (.cprrPull r) 3 r (bodyCprrPull r) s)

/-- Is a logical cell present: its row's defect-map field is not 0xF (R10)? -/
def State.present (s : State) (c : CellId) : Bool := fieldOf s.signature.toNat (4 * (c.val / 8)) 4 ≠ 15

/-- The rows of a rectangle that CPBC writes; an absent cell is a protection fault. -/
def bcastLocs (m : SeCmd) (c : CellId) (row : Nat) : List CellId → SeM (List Loc)
  | [] => pure []
  | d :: l => do
    if (← get).present d then pure ((← farLoc m c d true row) :: (← bcastLocs m c row l))
    else seFail (protFlt .se 13 true)
/-- CPBC: each iteration's row into every cell of the rectangle, 16 cells a chunk; the row is read as the iteration begins (R286). -/
def workCpbc : Work := fun m c => do
  let n := m.target.length
  let parts := ceilDiv n 16
  if m.total * parts ≤ m.next then pure (some ⟨[], 0, 0, m, true, none⟩)
  else
    let x := m.ix (m.next / parts)
    let cells := ((m.target.map (·.1)).drop (16 * (m.next % parts))).take 16
    match ← (match m.data with
        | r :: _ => pure (some r)
        | [] => readOpnd m c m.o1 x) with
    | none => pure none
    | some r =>
      let locs ← bcastLocs m c (← rowNo true m.o0 x) cells
      let goesOn := (m.next + 1) % parts ≠ 0
      pure (some ⟨locs.map fun l => wrRow l r, 256 * cells.length, 0, { m with next := m.next + 1, data := if goesOn then [r] else [] },
        decide (m.total * parts ≤ m.next + 1), none⟩)

/-- CPBC (R292). -/
def bodyCpbc : Rec → Ctx → State → Except Flt State := releaseCmd true 5
def execCpbc (r : Rec) (s : State) : Res := .next (issueSe (.cpbc r) 5 r (bodyCpbc r) s)

/-- FILL: the pattern in every lane of a row, or of a tensor row's bytes. -/
def workFill : Work := fun m c =>
  itemsOf m.total 256 (fun q => do
    pure (some (← writeOpnd m c m.o0 .set (m.ix q) (mkRow fun _ => BitVec.ofNat 32 m.o1.immNat, false), 0))) m

/-- FILL (R292). -/
def bodyFill : Rec → Ctx → State → Except Flt State := releaseCmd true 0xA
def execFill (r : Rec) (s : State) : Res := .next (issueSe (.fill r) 0xA r (bodyFill r) s)

/-! ## Adding copies (R294) -/

/-- The element format of an addition: the tensor's, or FP32 between scratchpad rows. -/
def addFmt (m : SeCmd) (c : CellId) : SeM Nat := do
  let of (write : Bool) (o : ROp) : SeM Nat := do
    let d ← tensorDesc m c write o
    if d.fmt = 3 || d.fmt = 4 || d.fmt = 9 then pure d.fmt
    else seFail (xFlt .se o.tid write true m.rel ⟨0x0E, 12, 0, 0⟩)
  match m.o0, m.o1 with
  | .tensor _ _ _ _ _, _ => of true m.o0
  | _, .tensor _ _ _ _ _ => of false m.o1
  | _, _ => pure 4

def workCpadd : Work := fun m c => do
  let f ← addFmt m c
  itemsOf m.total 256 (copyItem (.add f (m.r.mod.extractLsb' 0 2)) m c) m

/-- CPADD (R294). -/
def bodyCpadd : Rec → Ctx → State → Except Flt State := releaseCmd true 4
def execCpadd (r : Rec) (s : State) : Res := .next (issueSe (.cpadd r) 4 r (bodyCpadd r) s)

/-! ## Transposing, converting and masked copies (R295–R297) -/

/-- CPT: scratchpad row r + j, element i, against tensor element (x0 + j, x1 + i). -/
def workCpt : Work := fun m c => do
  let out := match m.o0 with
    | .tensor _ _ _ _ _ => true
    | _ => false
  let t := if out then m.o0 else m.o1
  let d ← tensorDesc m c out t
  if d.ndim < 2 then seFail (xFlt .se t.tid out true m.rel ⟨0x0E, 12, 0, 0⟩)
  let e := fmtBytes d.fmt
  let n := 256 / e
  itemsOf (m.total * n) 256 (fun q => do
    let x := m.ix (q / n)
    let j := q % n
    let at_ := (List.range n).map fun i => moveCoord (moveCoord (t.coords d x) 0 j) 1 i
    if out then
      let r ← readRow m c m.o1 x j
      pure (some (← writeElems m c t d .set (at_.zip (rowElems e r)), 0))
    else
      match ← readElems m c t d at_ with
      | none => pure none
      | some l => pure (some ([wrRow (.sp c (← rowNo true m.o0 x j)) (packElems e l)], 0))) m

/-- CPT (R295). -/
def bodyCpt : Rec → Ctx → State → Except Flt State := releaseCmd true 6
def execCpt (r : Rec) (s : State) : Res := .next (issueSe (.cpt r) 6 r (bodyCpt r) s)

/-- The floating-point format of an FMT code (R76). -/
def fpOf (f : Nat) : Fmt :=
  match f with
  | 1 => e4m3 | 2 => e5m2 | 3 => bf16 | _ => fp32
/-- The mode in the options of CPCV and CPQ (R296). -/
def optMode (w : Nat) : FMode := ⟨rmOf (BitVec.ofNat 2 (w / 16)), w / 64 % 2 = 1, w / 128 % 2 = 1⟩
/-- Convert an element; a poisoned one becomes the canonical NaN and raises no flag (R121). -/
def cvtElem (src dst : Nat) (md : FMode) (x : Elem) : Elem × FlagBits :=
  if x.tag then (⟨canonNaN (fpOf dst), true⟩, 0)
  else (⟨(convert (fpOf src) (fpOf dst) md x.v).1, false⟩, (convert (fpOf src) (fpOf dst) md x.v).2)
def cvtElems (src dst : Nat) (md : FMode) (l : List Elem) : List Elem × FlagBits :=
  let r := l.map (cvtElem src dst md)
  (r.map (·.1), r.foldl (fun f x => f ||| x.2) 0)

/-- Elements 0 to n − 1 of scratchpad rows from a row on. -/
def spElems (m : SeCmd) (c : CellId) (o : ROp) (x : Ix) (e n : Nat) : SeM (List Elem) := do
  let rows ← (List.range (max 1 (ceilDiv (n * e) 256))).mapM fun k => readRow m c o x k
  pure ((rows.flatMap (rowElems e)).take n)

/-- CPCV: one destination row and the source elements it holds. -/
def workCpcv : Work := fun m c => do
  let out := match m.o0 with
    | .tensor _ _ _ _ _ => true
    | _ => false
  let t := if out then m.o0 else m.o1
  let d ← tensorDesc m c out t
  if d.fmt < 1 || 4 < d.fmt then seFail (xFlt .se t.tid out true m.rel ⟨0x0E, 12, 0, 0⟩)
  let w := m.o2.immNat
  let sf := w % 16
  itemsOf m.total 256 (fun q => do
    let x := m.ix q
    if out then
      let l := (← spElems m c m.o1 x (fmtBytes sf) (256 / fmtBytes d.fmt)).map (cvtElem sf d.fmt (optMode w))
      pure (some (← writeFlagged m c t d .set ((alongRow (t.coords d x) (256 / fmtBytes d.fmt)).zip l)))
    else
      match ← readElems m c t d (alongRow (t.coords d x) (256 / fmtBytes sf)) with
      | none => pure none
      | some l =>
        let y := cvtElems d.fmt sf (optMode w) l
        pure (some ([wrRow (.sp c (← rowNo true m.o0 x)) (packElems (fmtBytes sf) y.1)], y.2))) m

/-- CPCV (R296). -/
def bodyCpcv : Rec → Ctx → State → Except Flt State := releaseCmd true 7
def execCpcv (r : Rec) (s : State) : Res := .next (issueSe (.cpcv r) 7 r (bodyCpcv r) s)

/-- The block maximum as FMAX orders magnitudes: NaNs are passed over; none when all are NaN. -/
def maxMag (md : FMode) (l : List Lane) : Option Lane :=
  l.foldl (fun b a =>
    let v := flush32 md a &&& 0x7FFFFFFF
    if isNaN32 v then b
    else match b with
      | none => some v
      | some u => if u.toNat < v.toNat then some v else b) none
/-- The scale of a block; of a block of NaNs the canonical NaN, which a signalling one makes invalid (R102, R296). -/
def blockScale (q : Nat) (md : FMode) (l : List Lane) : Lane × FlagBits :=
  match maxMag md l with
  | none => (nan32, flIf (l.any isSNaN32) flIV)
  | some v => fQsc q { md with sat := false } v
/-- One quantised element: the exact quotient rounded once. -/
def quantise (f : Fmt) (md : FMode) (scale x : Lane) : Nat × FlagBits :=
  let q := fpDiv (rd32 md x) (decodeFp fp32 scale.toNat)
  ((roundFp f md q.1).1, q.2 ||| (roundFp f md q.1).2)

/-- CPQ: one block of 128 elements and its scale. -/
def workCpq : Work := fun m c => do
  let d ← tensorDesc m c true m.o0
  let bad (cls cause : Nat) : SeM Unit := seFail (xFlt .se m.o0.tid true true m.rel ⟨cls, cause, 0, 0⟩)
  if d.fmt ≠ 1 && d.fmt ≠ 2 then bad 0x0E 12
  if d.scll ≠ 1 then bad 0x0D 12
  let f := fpOf d.fmt
  let md := optMode m.o2.immNat
  itemsOf m.total 132 (fun q => do
    let x := m.ix q
    let at_ := m.o0.coords d x
    if at_.headD 0 % 128 ≠ 0 then bad 0x0D 12
    let st : ROp := .tensor (BitVec.ofNat 12 d.sclid) 0 (Vector.replicate 4 0) 0 .zero
    let sd ← match (← get).scaleDesc ((← get).gangOf c).asid d with
      | .ok e => pure e
      | .error e => seFail (xFlt .se st.tid true true m.rel e)
    let a ← readRow m c m.o1 x (2 * q)
    let b ← readRow m c m.o1 x (2 * q + 1)
    let l := (List.range 64).map (lane a.1) ++ (List.range 64).map (lane b.1)
    let tag := a.2 || b.2
    let sc : Lane × FlagBits := if tag then (nan32, 0) else blockScale (if d.fmt = 1 then 448 else 57344) md l
    let out := l.map fun v => if tag || isNaN32 sc.1 then (canonNaN f, (0 : FlagBits)) else quantise f md sc.1 v
    let w1 ← writeFlagged m c m.o0 d .set ((alongRow at_ 128).zip (out.map fun v => (⟨v.1, tag⟩, v.2)))
    let w2 ← writeFlagged m c st sd .set [(d.scaleCoords at_, ⟨sc.1.toNat, tag⟩, sc.2)]
    pure (some (w1.1 ++ w2.1, w1.2 ||| w2.2))) m

/-- CPQ (R296). -/
def bodyCpq : Rec → Ctx → State → Except Flt State := releaseCmd true 8
def execCpq (r : Rec) (s : State) : Res := .next (issueSe (.cpq r) 8 r (bodyCpq r) s)

/-- A row read ahead of a command's work, once, when it starts. -/
def headRow (m : SeCmd) (c : CellId) (o : ROp) : SeM (SeCmd × (Row × Bool)) := do
  match m.data with
  | r :: _ => pure (m, r)
  | [] =>
    let r ← readRow m c o (m.ix 0)
    pure ({ m with data := [r] }, r)

/-- CPMASK: the lanes of each row that the mask selects. -/
def workCpmask : Work := fun m c => do
  let (m, mask) ← headRow m c m.o2
  let bit (i : Nat) : Bool := mask.1.getLsbD i
  itemsOf m.total 256 (fun q => do
    let x := m.ix q
    match ← readOpnd m c m.o1 x with
    | none => pure none
    | some r =>
      let tag := r.2 || mask.2
      match m.o0 with
      | .tensor _ _ _ _ _ =>
        let d ← tensorDesc m c true m.o0
        let e := fmtBytes d.fmt
        -- units of at most a lane, so that the lanes of a wide element are written alone
        let u := min e 4
        let ws ← (List.range (256 / e)).foldlM (fun ws k => do
          if (List.range (e / u)).any fun j => bit ((e * k + u * j) / 4) then
            match ← elemLoc m c m.o0 d (moveCoord (m.o0.coords d x) 0 k) with
            | none => pure ws
            | some (loc, off) => pure ((List.range (e / u)).foldl (fun ws j =>
                if bit ((e * k + u * j) / 4) then
                  addWr .set loc (off + u * j) u (fieldOf r.1.toNat (8 * (e * k + u * j)) (8 * u)) tag ws
                else ws) ws)
          else pure ws) []
        pure (some (ws, 0))
      | _ =>
        let row ← rowNo true m.o0 x
        let bytes := packNat 1 (fun i => (bit (i / 4)).toNat) 256
        pure (some ([⟨.sp c row, .set, r.1.toNat, bytes, tag⟩], 0))) m

/-- CPMASK (R297). -/
def bodyCpmask : Rec → Ctx → State → Except Flt State := releaseCmd true 9
def execCpmask (r : Rec) (s : State) : Res := .next (issueSe (.cpmask r) 9 r (bodyCpmask r) s)

/-! ## Gathers and scatters (R298) -/

/-- Entry k of the index rows, with its poison. -/
def indexEntry (m : SeCmd) (c : CellId) (o : ROp) (k : Nat) : SeM (Nat × Bool) := do
  let r ← readRow m c o (m.ix 0) (k / 64)
  pure ((lane r.1 (k % 64)).toNat, r.2)

/-- The coordinates an entry selects on a tensor. -/
def pick (m : SeCmd) (write : Bool) (o : ROp) (d : Desc) (e : Nat) : SeM (List Nat) :=
  let idim := m.r.mod.toNat % 4
  if d.ndim ≤ idim then seFail (xFlt .se o.tid write true m.rel ⟨0x0E, 12, 0, 0⟩)
  else pure (moveCoord (o.coords d (m.ix 0)) idim e)
/-- The row an entry selects, read. -/
def pickRead (m : SeCmd) (c : CellId) (o : ROp) (e : Nat) : SeM (Option (Row × Bool)) := do
  match o with
  | .tensor _ _ _ _ _ =>
    let d ← tensorDesc m c false o
    readTensorRow m c o d (← pick m false o d e)
  | _ => pure (some (← readRow m c o (m.ix 0) e))
/-- The row an entry selects, written. -/
def pickWrite (m : SeCmd) (c : CellId) (o : ROp) (op : WOp) (e : Nat) (r : Row × Bool) : SeM (List Wr) := do
  match o with
  | .tensor _ _ _ _ _ =>
    let d ← tensorDesc m c true o
    writeTensorRow m c o d op (← pick m true o d e) r
  | _ => pure [{ wrRow (.sp c (← rowNo true o (m.ix 0) e)) r with op := op }]

def padding : Nat := 0xFFFFFFFF

/-- GATH: row r + k from the selected row; a padding entry writes a zero row. -/
def workGath : Work := fun m c =>
  itemsOf m.total 256 (fun k => do
    let e ← indexEntry m c m.o2 k
    let dst ← rowNo true m.o0 (m.ix 0) k
    if e.1 = padding then pure (some ([wrRow (.sp c dst) (0, e.2)], 0))
    else match ← pickRead m c m.o1 e.1 with
      | none => pure none
      | some r => pure (some ([wrRow (.sp c dst) (r.1, r.2 || e.2)], 0))) m

/-- GATH (R298). -/
def bodyGath : Rec → Ctx → State → Except Flt State := releaseCmd true 0xB
def execGath (r : Rec) (s : State) : Res := .next (issueSe (.gath r) 0xB r (bodyGath r) s)

/-- Row r + k into the selected row; a padding entry is skipped. -/
def scatItem (op : WOp) (m : SeCmd) (c : CellId) (k : Nat) : SeM (Option (List Wr × FlagBits)) := do
  let e ← indexEntry m c m.o2 k
  if e.1 = padding then pure (some ([], 0))
  else
    let r ← readRow m c m.o1 (m.ix 0) k
    pure (some (← pickWrite m c m.o0 op e.1 (r.1, r.2 || e.2), 0))
def workScat : Work := fun m c => itemsOf m.total 256 (scatItem .set m c) m

/-- SCAT (R298). -/
def bodyScat : Rec → Ctx → State → Except Flt State := releaseCmd true 0xC
def execScat (r : Rec) (s : State) : Res := .next (issueSe (.scat r) 0xC r (bodyScat r) s)

def workScata : Work := fun m c => do
  let f ← addFmt m c
  itemsOf m.total 256 (scatItem (.add f (m.r.mod.extractLsb' 2 2)) m c) m

/-- SCATA (R298). -/
def bodyScata : Rec → Ctx → State → Except Flt State := releaseCmd true 0xD
def execScata (r : Rec) (s : State) : Res := .next (issueSe (.scata r) 0xD r (bodyScata r) s)

/-! ## Grouped tiles (R299–R301) -/

/-- The index of the first check that an offset row fails: the header, then j = 1 to G (R299). -/
def groupBad (v : Row) (out : Bool) : Option Nat :=
  let g := groupsOf v
  if g.n = 0 || 60 < g.n then some 62
  else if g.tcap = 0 || g.hstep = 0 || g.kb = 0 || g.hstep < g.kb || (out && g.rs = 0) then some 63
  else (List.range g.n).map (· + 1) |>.find? fun j =>
    g.o j < g.o (j - 1) || 128 * g.tcap < g.o j - g.o (j - 1) || (j = g.n && (lane v 61).toNat < g.o j)

/-- The offset row, read whole and tested before anything is written. -/
def offsetRow (m : SeCmd) (c : CellId) (out : Bool) : SeM (SeCmd × Groups × Bool) := do
  let (m', r) ← headRow m c m.o2
  match groupBad r.1 out with
  | some j => seFail ⟨0x0A, 3, j + (m.o2.row (m.ix 0)).toNat % 32768 * 256, 0, false, 0⟩
  | none => pure (m', groupsOf r.1, r.2)

/-- The source half-row of matrix row entry i of set u, when the row is present. -/
def groupSource (g : Groups) (h0 u i : Nat) : Option Nat :=
  let q := u % g.kb
  let t := u / g.kb % g.tcap
  let k := u / g.kb / g.tcap
  let m := g.o k + 128 * t + i
  if m < g.o (k + 1) then some (h0 + m * g.hstep + q) else none

def ROp.half : ROp → Nat
  | .hr h _ => h
  | _ => 0

/-- GRPF, index mode: row j of set u. -/
def grpfIndex (g : Groups) (h0 u j : Nat) : SeM Row := do
  let l ← (List.range 64).mapM fun n => do
    let i := 64 * j + n
    match groupSource g h0 u i with
    | some h => if 2 * spRows ≤ h then seFail (protFlt .se 7) else pure (h + i * 65536)
    | none => pure (2 ^ 31 + i * 65536)
  pure (mkRow fun n => BitVec.ofNat 32 (l.getD n 0))
/-- GRPF, copy mode: the row of half-rows 2 j and 2 j + 1 of set u. -/
def grpfCopy (m : SeCmd) (c : CellId) (g : Groups) (h0 u j : Nat) : SeM (Row × Bool) := do
  let half (i : Nat) : SeM (Nat × Bool) := do
    match groupSource g h0 u i with
    | none => pure (0, false)
    | some h =>
      if 2 * spRows ≤ h then seFail (protFlt .se 7)
      else
        let r ← readLoc m c .sp (.sp c (h / 2))
        pure (fieldOf r.1.toNat (1024 * (h % 2)) 1024, r.2)
  let a ← half (2 * j)
  let b ← half (2 * j + 1)
  pure (BitVec.ofNat 2048 (a.1 + b.1 * 2 ^ 1024), a.2 || b.2)

def workGrpf : Work := fun m c => do
  let (m, g, tag) ← offsetRow m c false
  let copy := m.r.mod.getLsbD 0
  let n := if copy then 64 else 2
  itemsOf (g.n * g.tcap * g.kb * n) 256 (fun k => do
    let u := k / n
    let dst ← rowNo true m.o0 (m.ix 0) k
    let r ← if copy then grpfCopy m c g m.o1.half u (k % n) else do pure (← grpfIndex g m.o1.half u (k % n), false)
    pure (some ([wrRow (.sp c dst) (r.1, r.2 || tag)], 0))) m

/-- GRPF (R300). -/
def bodyGrpf : Rec → Ctx → State → Except Flt State := releaseCmd false 0xE
def execGrpf (r : Rec) (s : State) : Res := .next (issueSe (.grpf r) 0xE r (bodyGrpf r) s)

/-- The group that holds a matrix row. -/
def groupOf (g : Groups) (m : Nat) : Nat := ((List.range g.n).find? fun k => decide (g.o k ≤ m) && decide (m < g.o (k + 1))).getD 0

/-- GRPO: the RS result rows of each present matrix row, back in matrix order. -/
def workGrpo : Work := fun m c => do
  let (m, g, tag) ← offsetRow m c true
  itemsOf ((g.o g.n - g.o 0) * g.rs) 256 (fun n => do
    let row := g.o 0 + n / g.rs
    let part := n % g.rs
    let k := groupOf g row
    let i := row - g.o k
    let r ← readRow m c m.o1 (m.ix 0) (g.rs * (128 * (k * g.tcap + i / 128) + i % 128) + part)
    let v := (r.1, r.2 || tag)
    match m.o0 with
    | .tensor _ _ _ _ _ =>
      let d ← tensorDesc m c true m.o0
      if d.ndim < 2 then seFail (xFlt .se m.o0.tid true true m.rel ⟨0x0E, 12, 0, 0⟩)
      let x := moveCoord (moveCoord (m.o0.coords d (m.ix 0)) 0 (part * (256 / fmtBytes d.fmt))) 1 row
      pure (some (← writeTensorRow m c m.o0 d .set x v, 0))
    | _ => pure (some ([wrRow (.sp c (← rowNo true m.o0 (m.ix 0) (g.rs * row + part))) v], 0))) m

/-- GRPO (R301). -/
def bodyGrpo : Rec → Ctx → State → Except Flt State := releaseCmd true 0xF
def execGrpo (r : Rec) (s : State) : Res := .next (issueSe (.grpo r) 0xF r (bodyGrpo r) s)

/-! ## Selection and sorting (R302, R303) -/

/-- Consecutive rows of an operand at an iteration; none while a peer is awaited. -/
def readRows (m : SeCmd) (c : CellId) (o : ROp) (x : Ix) (from_ n : Nat) : SeM (Option (List (Row × Bool))) := do
  match o with
  | .tensor _ _ _ _ _ =>
    let d ← tensorDesc m c false o
    let e := 256 / fmtBytes d.fmt
    let l ← (List.range n).mapM fun j => readTensorRow m c o d (moveCoord (o.coords d x) 0 (e * (from_ + j)))
    pure (if l.all (·.isSome) then some (l.filterMap id) else none)
  | _ => pure (some (← (List.range n).mapM fun j => readRow m c o x (from_ + j)))

/-- The selection of a logical row: the k largest, and their lane numbers (R263, R302). -/
def topkRow (int : Bool) (k : Nat) (rows : List (Row × Bool)) : (Row × Bool) × FlagBits :=
  if rows.any (·.2) then ((mkRow fun i => if i < k then (if int then 0 else nan32) else 0, true), 0)
  else
    let md : FMode := ⟨.rne, false, false⟩
    let all : List Cand := rows.zipIdx.flatMap fun r =>
      (candidates int md r.1.1 (BitVec.allOnes 64)).map fun d => { d with i := d.i + 64 * r.2 }
    let l := topOf k all
    let val (i : Nat) : Lane := match l[i]? with
      | some d => d.v
      | none => if int then minInt32 else negInf32
    let idx (i : Nat) : Lane := match l[i]? with
      | some d => BitVec.ofNat 32 d.i
      | none => 0xFFFFFFFF
    ((mkRow fun i => if i < k then val i else if 8 ≤ i && i < 8 + k then idx (i - 8) else 0, false),
      rows.foldl (fun f r => f ||| sigFlags int r.1 (BitVec.allOnes 64)) 0)

def workTopk : Work := fun m c =>
  itemsOf m.total 256 (fun q => do
    let x := m.ix q
    match ← readRows m c m.o1 x 0 m.o2.immNat with
    | none => pure none
    | some rows =>
      let r := topkRow (m.r.mod.getLsbD 3) (m.r.mod.toNat % 8 + 1) rows
      pure (some ([wrRow (.sp c (← rowNo true m.o0 x)) r.1], r.2))) m

/-- TOPK (R302). -/
def bodyTopk : Rec → Ctx → State → Except Flt State := releaseCmd true 0x10
def execTopk (r : Rec) (s : State) : Res := .next (issueSe (.topk r) 0x10 r (bodyTopk r) s)

/-- Insert a pair before the first that it does not follow: a stable sort, from the right. -/
def putPair (desc : Bool) (p : Nat × Nat) : List (Nat × Nat) → List (Nat × Nat)
  | [] => [p]
  | q :: l => if (if desc then q.1 ≤ p.1 else p.1 ≤ q.1) then p :: q :: l else q :: putPair desc p l
def sortPairs (desc : Bool) (l : List (Nat × Nat)) : List (Nat × Nat) := l.foldr (putPair desc) []
/-- The first n pairs of rows, sorted, in rows again. -/
def sortRows (desc : Bool) (n : Nat) (rows : List (Row × Bool)) : List (Row × Bool) :=
  let pair (j : Nat) : Nat × Nat :=
    let r := (rows.getD (j / 32) (0, false)).1
    ((lane r (2 * (j % 32))).toNat, (lane r (2 * (j % 32) + 1)).toNat)
  let out := sortPairs desc ((List.range n).map pair)
  let tag := rows.any (·.2)
  (List.range rows.length).map fun k =>
    (mkRow fun i => let p := out.getD (32 * k + i / 2) (0, 0)
      BitVec.ofNat 32 (if i % 2 = 0 then p.1 else p.2), tag)

/-- SORTK: the source is read in full, then the sorted rows are written. -/
def workSortk : Work := fun m c => do
  let n := m.o2.immNat
  let k := ceilDiv n 32
  let rows ← if m.data = [] then do
      let l ← (List.range k).mapM fun j => readRow m c m.o1 (m.ix 0) j
      pure (sortRows (m.r.mod.getLsbD 0) n l)
    else pure m.data
  itemsOf k 256 (fun j => do
    pure (some ([wrRow (.sp c (← rowNo true m.o0 (m.ix 0) j)) (rows.getD j (0, false))], 0))) { m with data := rows }

/-- SORTK (R303). -/
def bodySortk : Rec → Ctx → State → Except Flt State := releaseCmd false 0x13
def execSortk (r : Rec) (s : State) : Res := .next (issueSe (.sortk r) 0x13 r (bodySortk r) s)

/-! ## Crema reads (R304) -/

/-- The one key of a CRDS, as captured. -/
def ROp.key : ROp → Key
  | .ck k _ => k
  | _ => ⟨0, 0⟩

/-- Are writes of a row of a key by records issued before a command's release still to land? -/
def keyWritesBefore (x : Cell) (k : Key) (u row : Nat) : Bool :=
  match x.cr.slotOf k with
  | none => false
  | some i =>
    x.flight.any (fun l => l.seq < u && l.dst.touches i (some row)) ||
    x.me.ops.any (fun o => o.uid < u && 5 ≤ o.op && o.op ≤ 10 && o.slot = i)

/-- Slot row i of a key as CRDS reads it: from its slot, its spill entry, or +0.0. -/
def crdsRow (m : SeCmd) (c : CellId) (k : Key) (i : Nat) : SeM (SlotRow × BitVec 256) := do
  let s ← get
  let x := s.cell c
  match x.cr.slotOf k, x.cr.spilledOf k with
  | some j, _ => pure (x.cr.rowAt j i, x.cr.tagsAt j i)
  | none, some p =>
    let blocks ← (List.range 4).mapM fun b =>
      match s.spillAt c false (16384 + 131072 * p.entry + 256 * (4 * i + b)) 256 with
      | .error e => seFail (xFlt .se x.cc.spillBase false true 0 e)
      | .ok a => if s.lockedFrame (a / 65536) then seWait else readLoc m c .sp (.hbm (a / 256))
    pure (BitVec.ofNat 8192 (packNat 2048 (fun b => (blocks.getD b (0, false)).1.toNat) 4),
      BitVec.ofNat 256 (packNat 64 (fun b => if (blocks.getD b (0, false)).2 then 2 ^ 64 - 1 else 0) 4))
  | none, none => pure (0, 0)

/-- Output row j of a CRDS: 64 columns as they are, or 128 narrowed to BF16, each with its flags. -/
def crdsOut (half : Bool) (md : FMode) (v : SlotRow × BitVec 256) (j : Nat) : List (Elem × FlagBits) :=
  let col (k : Nat) : Elem := ⟨(slotLane v.1 k).toNat, v.2.getLsbD k⟩
  if half then (List.range 128).map fun k => cvtElem 4 3 md (col (128 * (j % 2) + k))
  else (List.range 64).map fun k => (col (64 * (j % 4) + k), 0)
/-- A row of elements of e bytes with flags, in a row of the scratchpad or in the elements of a tensor row. -/
def writeRowFlagged (m : SeCmd) (c : CellId) (o : ROp) (x : Ix) (e : Nat) (l : List (Elem × FlagBits)) : SeM (List Wr × FlagBits) := do
  let fl := l.foldl (fun f v => f ||| v.2) 0
  let row := packElems e (l.map (·.1))
  match o with
  | .tensor _ _ _ _ _ =>
    let d ← tensorDesc m c true o
    let n := 256 / fmtBytes d.fmt
    -- where the tensor's elements are those of the output row each carries its own flags
    if fmtBytes d.fmt = e then writeFlagged m c o d .set ((alongRow (o.coords d x) n).zip l)
    else writeFlagged m c o d .set ((alongRow (o.coords d x) n).zip ((rowElems (fmtBytes d.fmt) row).zipIdx.map fun v =>
      (v.1, ((l.zipIdx.filter fun u => decide (u.2 * e / fmtBytes d.fmt = v.2 ∨ u.2 = v.2 * fmtBytes d.fmt / e)).foldl (fun f u => f ||| u.1.2) 0))))
  | _ => pure ([wrRow (.sp c (← rowNo true o x)) row], fl)

def workCrds : Work := fun m c =>
  let half := m.r.mod.getLsbD 0
  itemsOf m.total 256 (fun q => do
    let k := m.o1.key
    let i := if half then q / 2 else q / 4
    if keyWritesBefore ((← get).cell c) k m.uid i then pure none
    else
      let md : FMode := ⟨rmOf (m.r.mod.extractLsb' 1 2), m.r.mod.getLsbD 3, false⟩
      let out := crdsOut half md (← crdsRow m c k i) q
      pure (some (← writeRowFlagged m c m.o0 (m.ix q) (if half then 2 else 4) out))) m

/-- CRDS (R304). -/
def bodyCrds : Rec → Ctx → State → Except Flt State := releaseCmd true 0x11
def execCrds (r : Rec) (s : State) : Res := .next (issueSe (.crds r) 0x11 r (bodyCrds r) s)

end Sys2Proof.Machine
end

