-- ==== Sys2Proof/Machine/StreamMisc.lean ====
section
/-! DEFINITION. The other commands of the stream engine: metadata (R305), routing counters (R306, R307), network commands
(R308–R312), arrival words, rings, waits and fences (R313), descriptors, pages and queries (R314, R315), submission
(R316) and checksums (R317). -/

namespace Sys2Proof.Machine

/-- A command that ends with no write. -/
def endWork (m : SeCmd) : SeM (Option Piece) := pure (some ⟨[], 0, 0, m, true, none⟩)
/-- Wait. -/
def waitWork : SeM (Option Piece) := pure none
/-- A command whose every earlier one in the queue is complete works; another waits. -/
def afterEarlier (m : SeCmd) (c : CellId) (w : SeM (Option Piece)) : SeM (Option Piece) := do
  if ((← get).cell c).se.before m = [] then w else pure none
/-- A result row of 32-bit lanes. -/
def resultLanes (m : SeCmd) (c : CellId) (l : List Nat) (tag : Bool) : SeM (Option Piece) :=
  resultRow m c (packNat 32 (fun i => l.getD i 0) 64) tag

/-! ## Metadata (R305) -/

/-- META: one 8 KiB entry an iteration, pushed once it is read whole and the queue has room (a pass that waits
takes it). -/
def workMeta : Work := fun m c => do
  let k := m.next / 2
  if m.total ≤ k then endWork m
  else if m.next % 2 = 0 then
    -- the first 4 KiB of an entry are a chunk of their own
    match ← readRows m c m.o1 (m.ix k) 0 16 with
    | none => pure none
    | some rows => pure (some ⟨[], 4096, 0, { m with next := m.next + 1, data := rows }, false, none⟩)
  else if 4 ≤ ((← get).cell c).me.metaq.length then waitWork
  -- a command that was saved between its two chunks reads the whole entry again (R162)
  else match ← (if m.data = [] then readRows m c m.o1 (m.ix k) 0 32 else readRows m c m.o1 (m.ix k) 16 16) with
    | none => pure none
    | some rest =>
      let rows := m.data ++ rest
      let e : MetaBits := BitVec.ofNat 65536 (packNat 2048 (fun i => (rows.getD i (0, false)).1.toNat) 32)
      modify fun s => feedMeta c (s.modCell c fun x => { x with me := { x.me with metaq := x.me.metaq ++ [(e, rows.any (·.2))] } })
      pure (some ⟨[], 4096, 0, { m with next := m.next + 1, data := [] }, decide (m.total ≤ k + 1), none⟩)

/-- META (R305). -/
def bodyMetaq : Rec → Ctx → State → Except Flt State := releaseCmd true 0x12
def execMetaq (r : Rec) (s : State) : Res := .next (issueSe (.metaq r) 0x12 r (bodyMetaq r) s)

/-! ## Routing counters (R306, R307) -/

/-- An operation of a command on YP, which has the command's number but where it is the completion's. -/
def SeCmd.ypOp (m : SeCmd) (uid tick : Nat) (k : YKind) (cover : List Cov) (scope : Nat) : YOp :=
  { uid := uid, off := m.off, slot := 0, tick := tick, kind := k, cover := cover, scope := scope, eng := .se, rel := m.rel, again := false }
/-- A command's operation enters the cell's YP buffer under the command's number. -/
def enterYp (m : SeCmd) (c : CellId) (k : YKind) (cover : List Cov) (scope : Nat) : SeM Unit :=
  modify fun s => s.modCell c fun x => { x with ord := { x.ord with yp := x.ord.yp ++ [m.ypOp m.uid (s.gangOf c).tick k cover scope] } }
/-- Is an operation of a command still to be performed? -/
def ypWaits (m : SeCmd) (c : CellId) : SeM Bool := do pure (((← get).cell c).ypOp m.uid).isSome

/-- CNTR: one entry a step, each an atomic on YP that is performed before the next enters, behind the cell's earlier CNTRs. -/
def workCntr : Work := fun m c => do
  let s ← get
  if (s.cell c).se.before m |>.any fun e => e.op = 0x14 then waitWork
  else if ← ypWaits m c then waitWork
  else if m.o2.immNat ≤ m.next then endWork m
  else
    let k := m.next
    let r ← readRow m c m.o1 (m.ix 0) (m.gainRow k)
    let (n, v) := m.gain r.1 k
    if n ≠ padding && 256 ≤ n then seFail (protFlt .se 10 true)
    if n ≠ padding then
      enterYp m c (.atom .add (.ctr (s.gangOf c).asid n) false false (BitVec.ofNat 64 v) 0 r.2 0 0) [] 0
    pure (some ⟨[], 0, 0, { m with next := k + 1 }, decide (m.o2.immNat ≤ k + 1), none⟩)

/-- CNTR (R306). -/
def bodyCntr : Rec → Ctx → State → Except Flt State := releaseCmd false 0x14
def execCntr (r : Rec) (s : State) : Res := .next (issueSe (.cntr r) 0x14 r (bodyCntr r) s)

/-- CSNAP: the counters in ascending order, each an atomic on YP whose return joins the command's rows, then the rows. A counter read
without being cleared is one whose bits are kept. -/
def workCsnap : Work := fun m c => do
  let w := m.o2.immNat
  let n := w / 256 % 256 + 1
  if ← ypWaits m c then waitWork
  else if m.data.length < n then
    let v : SyncVar := .ctr ((← get).gangOf c).asid (w % 256 + m.data.length)
    enterYp m c (.atom (if m.r.mod.getLsbD 0 then .or else .snap) v false false 0 0 false 0 0) [] 0
    waitWork
  else
    let j := m.next
    let get_ (i : Nat) : Row × Bool := m.data.getD (32 * j + i) (0, false)
    let row : Row := BitVec.ofNat 2048 (packNat 64 (fun i => (get_ i).1.toNat) 32)
    let dst ← rowNo true m.o0 (m.ix 0) j
    pure (some ⟨[wrRow (.sp c dst) (row, (List.range 32).any fun i => (get_ i).2)], 256, 0, { m with next := m.next + 1 },
      decide (ceilDiv n 32 ≤ j + 1), none⟩)

/-- CSNAP (R307). -/
def bodyCsnap : Rec → Ctx → State → Except Flt State := releaseCmd false 0x15
def execCsnap (r : Rec) (s : State) : Res := .next (issueSe (.csnap r) 0x15 r (bodyCsnap r) s)

/-! ## Network commands (R308–R312) -/

/-- The fault of a device without a usable peer table entry (R309, R385). -/
def State.peerFlt (s : State) (dev : BitVec 12) (write : Bool) : Option Flt :=
  if !(s.peers.any fun p => p.dev == dev && p.valid) then some ⟨0x0C, 3, 3 + write.toNat * 64, 0, true, 0⟩
  else (s.downSynd dev).map fun k => ⟨0x28, 12, k, 0, true, 0⟩

/-- NSEND: the rows, one a step, then one message. -/
def workNsend : Work := fun m c => do
  let w := m.o0.immNat
  let dev : BitVec 12 := BitVec.ofNat 12 w
  match (← get).peerFlt dev true with
  | some f => seFail f
  | none =>
    if m.next < m.total then
      let r ← readRow m c m.o1 (m.ix m.next)
      pure (some ⟨[], 0, 0, { m with next := m.next + 1, data := m.data ++ [r] }, false, none⟩)
    else
      let u := (← get).uid
      modify (·.sendFrame dev c m.uid (.message (BitVec.ofNat 10 (w / 4096)) m.data))
      pure (some ⟨[], 256 * m.data.length, 0, m, true, some u⟩)

/-- NSEND (R309). -/
def bodyNsend : Rec → Ctx → State → Except Flt State := releaseCmd false 0x16
def execNsend (r : Rec) (s : State) : Res := .next (issueSe (.nsend r) 0x16 r (bodyNsend r) s)

/-- NRECV: bind the channel to the context and cell, or unbind it. -/
def workNrecv : Work := fun m c => do
  let s ← get
  let n : BitVec 10 := BitVec.ofNat 10 m.o2.immNat
  let base (o : ROp) : Option Nat := match o with
    | .ring b => some b.toNat
    | _ => none
  match s.chans.find? fun x => x.n == n with
  | some x => if x.gang ≠ s.gidOf c || x.img.isSome then seFail (protFlt .se 14 false)
  | none => pure ()
  let rest := s.chans.filter fun x => x.n != n
  match base m.o0, base m.o1 with
  | none, none => set { s with chans := rest }
  | r, a =>
    let x : Chan := ⟨n, c, s.gidOf c, (s.gangOf c).asid, r.map (· % 2 ^ 17), a.map fun b => 16 * (b % 2 ^ 19), none⟩
    set { s with chans := rest ++ [x] }
  endWork m

/-- NRECV (R308). -/
def bodyNrecv : Rec → Ctx → State → Except Flt State := releaseCmd false 0x17
def execNrecv (r : Rec) (s : State) : Res := .next (issueSe (.nrecv r) 0x17 r (bodyNrecv r) s)

/-- A page of this device is a protection fault of the network commands (R310). -/
def notHere (m : SeCmd) (o : ROp) (write : Bool) : Flt := xFlt .se o.tid write true m.rel ⟨0x0D, 15, 0, 0⟩

/-- NPUT: as CPOUT, to peer pages only. -/
def workNput : Work := fun m c =>
  itemsOf m.total 256 (fun q => do
    match ← copyItem .set m c q with
    | none => pure none
    | some (ws, f) =>
      if ws.any fun w => match w.loc with
        | .hbm _ => true
        | _ => false then seFail (notHere m m.o0 true)
      else pure (some (ws, f))) m

/-- NPUT (R310). -/
def bodyNput : Rec → Ctx → State → Except Flt State := releaseCmd true 0x18
def execNput (r : Rec) (s : State) : Res := .next (issueSe (.nput r) 0x18 r (bodyNput r) s)

/-- Does a tensor row touch a page of this device? -/
def rowHere (s : State) (c : CellId) (o : ROp) (d : Desc) (xs : List (List Nat)) : Bool :=
  (pagesOf s (s.gangOf c).asid o.tid d false xs).any fun p => p.dev == s.selfdev
/-- NGET: as CPIN, from peer pages only. -/
def workNget : Work := fun m c =>
  itemsOf m.total 256 (fun q => do
    let d ← tensorDesc m c false m.o1
    if rowHere (← get) c m.o1 d (alongRow (m.o1.coords d (m.ix q)) (256 / fmtBytes d.fmt)) then seFail (notHere m m.o1 false)
    else copyItem .set m c q) m

/-- NGET (R310). -/
def bodyNget : Rec → Ctx → State → Except Flt State := releaseCmd true 0x19
def execNget (r : Rec) (s : State) : Res := .next (issueSe (.nget r) 0x19 r (bodyNget r) s)

/-- The operations of a NATOM request in OPC order. -/
def atOps : List AtOp := [.add, .inc, .badd, .cas, .swp, .min, .max, .and, .or, .xor, .snap]
/-- A request row: operation, width, sign, value and bound; none is BADREQ (R311). -/
def natomRequest (v : Row) : Option (AtOp × Bool × Bool × Word × Word) :=
  let f (lo n : Nat) := fieldOf v.toNat (8 * lo) (8 * n)
  match atOps[f 0 1]? with
  | none => none
  | some op =>
    let sgn := f 1 1 / 2 % 2 = 1
    if sgn && op != .min && op != .max then none
    else some (op, f 1 1 % 2 = 1, sgn, BitVec.ofNat 64 (f 8 8), BitVec.ofNat 64 (f 16 8))
/-- The result row of a NATOM: old value, st, outcome. -/
def natomResult (old : Nat) (st : Nat) (outcome : Nat) : Nat := old % 2 ^ 64 + st % 256 * 2 ^ 64 + outcome * 2 ^ 72

/-- The page and offset of a peer's sync variable. -/
def natomPage (m : SeCmd) (c : CellId) (w : Nat) : SeM (Page × Nat) := do
  let s ← get
  let d ← tensorDesc m c true m.o1
  let off := (m.o1.coords d (m.ix 0)).headD 0
  let bad (cause : Nat) : SeM (Page × Nat) := seFail (xFlt .se m.o1.tid true true m.rel ⟨0x0D, cause, 0, off / 65536⟩)
  if !d.flat then bad 12
  else if off % w ≠ 0 || d.dims.headD 0 ≤ off then bad 10
  else match s.page (s.gangOf c).asid m.o1.tid d true (off / 65536) with
    | .error e => seFail (xFlt .se m.o1.tid true true m.rel e)
    | .ok p => if p.dev = s.selfdev then bad 15 else pure (p, off % 65536)

/-- NATOM: one atomic at a peer's home sync engine, behind the cell's earlier NATOMs. -/
def workNatom : Work := fun m c => do
  let s ← get
  if (s.cell c).se.before m |>.any fun e => e.op = 0x1A then waitWork
  else if m.acc = 0 then
    let r ← readRow m c m.o2 (m.ix 0)
    match natomRequest r.1 with
    | none => resultRow m c (natomResult 0 0 2) r.2
    | some (op, w32, sgn, v, x) =>
      let (p, off) ← natomPage m c (if w32 then 4 else 8)
      modify (·.sendFrame p.dev c m.uid (.atomic (p.addr off) op w32 sgn v x))
      pure (some ⟨[], 0, 0, { m with acc := 1, tag := r.2 }, false, none⟩)
  else
    match s.outFrames.find? fun f => decide (f.cmd = m.uid) && f.reply.isSome with
    | none => waitWork
    | some f =>
      let l := f.reply.getD []
      set { s with outFrames := s.outFrames.filter fun g => decide (g.fid ≠ f.fid) }
      -- MOVED: the command re-translates and issues the atomic again (R93)
      if l.length = 1 then pure (some ⟨[], 0, 0, { m with acc := 0 }, false, none⟩)
      else
        resultRow m c (natomResult (packNat 8 (fun i => (l.getD i 0).toNat) 8) (l.getD 8 0).toNat 0) (m.tag || l.getD 9 0 != 0)

/-- NATOM (R311). -/
def bodyNatom : Rec → Ctx → State → Except Flt State := releaseCmd true 0x1A
def execNatom (r : Rec) (s : State) : Res := .next (issueSe (.natom r) 0x1A r (bodyNatom r) s)

/-- May a command reach a peer (R312)? -/
def SeCmd.mayReachPeer (m : SeCmd) : Bool :=
  (isNetOp m.op && m.op ≠ 0x17 && m.op ≠ 0x1B) || (match m.o0 with
    | .tensor _ _ _ _ _ => true
    | _ => false) || (match m.o1 with
    | .tensor _ _ _ _ _ => true
    | _ => false)
/-- NFLUSH: done once every earlier command that may reach a peer is. -/
def workNflush : Work := fun m c => do
  if ((← get).cell c).se.before m |>.any (·.mayReachPeer) then waitWork else endWork m

/-- NFLUSH (R312). -/
def bodyNflush : Rec → Ctx → State → Except Flt State := releaseCmd false 0x1B
def execNflush (r : Rec) (s : State) : Res := .next (issueSe (.nflush r) 0x1B r (bodyNflush r) s)

/-! ## Arrival words, rings, waits and fences (R313) -/

/-- The scratchpad address of an arrival operand, and the location of a ring operand. -/
def ROp.awAddr : ROp → Nat
  | .ring b => 16 * (b.toNat % 2 ^ 19)
  | _ => 0
def ROp.ringLoc : ROp → Nat
  | .ring b => b.toNat % 2 ^ 17
  | _ => 0

/-- A command whose whole work is one operation on YP. -/
def seYp (m : SeCmd) (c : CellId) (k : YKind) (cover : List Cov) (scope : Nat) : SeM (Option Piece) := do
  enterYp m c k cover scope
  endWork m

/-- The writes that the completion of a command covers: its own, and the SE writes performed on SP before it, where PUSHP names SP
(R135). -/
def State.seCover (s : State) (c : CellId) (cmd : Nat) (paths : BitVec 5) : List Cov :=
  (s.fabric.filter fun w => w.src.isNone && w.cell == c && decide (w.cmd ≠ 0) && (decide (w.cmd = cmd) || (w.path == .sp && paths.getLsbD 2))).map
    fun w => ⟨w.uid, false, true, paths⟩

/-- AWRM: as AARM, performed on YP; a target of 0 is a descriptor fault (R64). -/
def workAwrm : Work := fun m c =>
  if m.o1.immNat = 0 then seFail (descFlt .se 12)
  else seYp m c (.aarm m.o0.awAddr (BitVec.ofNat 40 m.o1.immNat)) [] 0
/-- AWRM (R313). -/
def bodyAwrm : Rec → Ctx → State → Except Flt State := releaseCmd false 0x1C
def execAwrm (r : Rec) (s : State) : Res := .next (issueSe (.awrm r) 0x1C r (bodyAwrm r) s)

/-- ASET: COUNT 0, GEN as given, disarmed, TARGET kept. -/
def workAset : Work := fun m c => seYp m c (.aset m.o0.awAddr (BitVec.ofNat 16 m.o1.immNat)) [] 0
/-- ASET (R313). -/
def bodyAset : Rec → Ctx → State → Except Flt State := releaseCmd false 0x1D
def execAset (r : Rec) (s : State) : Res := .next (issueSe (.aset r) 0x1D r (bodyAset r) s)

/-- SFENCE: as a FENCE from SP to SP at its scope; what it covers of the commands before it in the queue is performed, and protected
with PROT (R129, R133). -/
def workSfence : Work := fun m c => do
  let s ← get
  let w := m.o1.immNat
  let cmds := ((s.cell c).se.before m).map fun e => (⟨e.uid, true, true, 4⟩ : Cov)
  let late := (s.fabric.filter fun x => x.src.isNone && x.cell == c && x.path == .sp && decide (x.uid < m.uid)).map fun x => (⟨x.uid, false, true, 4⟩ : Cov)
  let bare := (s.deltas.filter fun d => d.own && d.cell == c && d.path == .sp && decide (d.cmd < m.uid)).map fun d => (⟨d.uid, false, true, 4⟩ : Cov)
  let h : Hold := { uid := m.uid, tick := m.rel, bef := 4, aft := 4, scope := w % 8, prot := w / 8 % 2 = 1, cover := cmds ++ late ++ bare }
  if s.holds c h then waitWork else endWork m
/-- SFENCE (R313). -/
def bodySfence : Rec → Ctx → State → Except Flt State := releaseCmd false 0x1E
def execSfence (r : Rec) (s : State) : Res := .next (issueSe (.sfence r) 0x1E r (bodySfence r) s)

/-- WAITC: after every earlier command, SESTAT into the row, and cleared. -/
def workWaitc : Work := fun m c => afterEarlier m c do
  match m.o0 with
  | .sp _ _ =>
    let v := ((← get).cell c).se.sestat
    let p ← resultRow m c v.toNat false
    modify (·.modCell c fun x => { x with se := { x.se with sestat := 0 } })
    pure p
  | _ => endWork m
/-- WAITC (R313). -/
def bodyWaitc : Rec → Ctx → State → Except Flt State := releaseCmd false 0x1F
def execWaitc (r : Rec) (s : State) : Res := .next (issueSe (.waitc r) 0x1F r (bodyWaitc r) s)

/-- RADVX: after every earlier command, the tail of a ring here or in another cell. -/
def workRadvx : Work := fun m c => afterEarlier m c do
  let s ← get
  let w := m.o1.immNat
  let loc := m.o0.ringLoc
  if w / 256 = 0 then endWork m
  else if spRows ≤ loc / 4 then seFail (protFlt .se 7 true)
  else
    let d : CellId := if m.r.mod.getLsbD 0 then Fin.ofNat 128 w else c
    let t := ((m.target.find? fun t => decide (t.1 = d)).map (·.2)).getD none
    let own := !m.r.mod.getLsbD 0 || (t.isSome && t == s.taskOn c)
    let l := if own then some (.sp c (loc / 4)) else s.rowOf (s.gangOf c).asid t (loc / 4)
    let paths := match (l.bind s.holder).map (·.rcb loc) with
      | some (.ok r) => r.pushp
      | _ => 0
    let cover := s.seCover c m.uid paths
    if own then seYp m c (.tail loc (w / 256)) cover 0
    else
      let e := match l with
        | some (.sp e _) => e
        | _ => d
      seYp m c (.xtail e t loc (w / 256)) cover (s.scopeOf c (.sp e 0))
/-- RADVX (R313). -/
def bodyRadvx : Rec → Ctx → State → Except Flt State := releaseCmd false 0x28
def execRadvx (r : Rec) (s : State) : Res := .next (issueSe (.radvx r) 0x28 r (bodyRadvx r) s)
/-- RADVX.X (R313). -/
def bodyRadvxX : Rec → Ctx → State → Except Flt State := releaseCmd false 0x28
def execRadvxX (r : Rec) (s : State) : Res := .next (issueSe (.radvxX r) 0x28 r (bodyRadvxX r) s)

/-- SWAIT: a queue barrier until the ring or the arrival word satisfies it. -/
def workSwait : Work := fun m c => do
  let x := (← get).cell c
  let v := m.o1.immNat
  match m.o0 with
  | .ring b =>
    if b.msb then
      match x.arrival m.o0.awAddr with
      | .error k => seFail (descFlt .se k)
      | .ok a => if a.reached (BitVec.ofNat 16 v) then endWork m else waitWork
    else if spRows ≤ m.o0.ringLoc / 4 then seFail (protFlt .se 7)
    else match x.rcb m.o0.ringLoc with
      | .error k => seFail (descFlt .se k)
      | .ok r =>
        if r.stage || r.depth < v then seFail (protFlt .se 8)
        else if v ≤ (if m.r.mod.getLsbD 0 then r.freeCount.toNat else r.filled) then endWork m else waitWork
  | _ => endWork m
/-- SWAIT (R313). -/
def bodySwait : Rec → Ctx → State → Except Flt State := releaseCmd false 0x29
def execSwait (r : Rec) (s : State) : Res := .next (issueSe (.swait r) 0x29 r (bodySwait r) s)

/-! ## Descriptors and pages (R314, R315) -/

/-- TDLD: the descriptor into every layout unit. -/
def workTdld : Work := fun m c => do
  modify fun s => s.cacheDesc (s.gangOf c).asid (BitVec.ofNat 12 m.o1.immNat)
  endWork m
/-- TDLD (R314). -/
def bodyTdld : Rec → Ctx → State → Except Flt State := releaseCmd false 0x20
def execTdld (r : Rec) (s : State) : Res := .next (issueSe (.tdld r) 0x20 r (bodyTdld r) s)

/-- TDINV: the descriptor and its leaves out of every layout unit. -/
def workTdinv : Work := fun m c => do
  modify fun s =>
    let a := (s.gangOf c).asid
    (s.dropDesc a (BitVec.ofNat 12 m.o1.immNat)).dropLeaves a (BitVec.ofNat 12 m.o1.immNat)
  endWork m
/-- TDINV (R314). -/
def bodyTdinv : Rec → Ctx → State → Except Flt State := releaseCmd false 0x21
def execTdinv (r : Rec) (s : State) : Res := .next (issueSe (.tdinv r) 0x21 r (bodyTdinv r) s)

/-- PFCH: the translations of the elements the operand covers; an invalid one is left unloaded, and nothing faults. -/
def workPfch : Work := fun m c => do
  let s ← get
  let a := (s.gangOf c).asid
  match useDesc s c m.rel false m.o1 with
  | .error _ => endWork m
  | .ok d =>
    let tiles := ((namedElems s c m false m.o1 d).filterMap (tileOf d)).map (·.1) |>.dedup
    set (tiles.foldl (fun t n => t.cacheLeaf a m.o1.tid n) (s.cacheDesc a m.o1.tid))
    endWork m
/-- PFCH (R314). -/
def bodyPfch : Rec → Ctx → State → Except Flt State := releaseCmd true 0x24
def execPfch (r : Rec) (s : State) : Res := .next (issueSe (.pfch r) 0x24 r (bodyPfch r) s)

/-- The page of an operand's first element, none when it is out of range. -/
def firstPage (m : SeCmd) (c : CellId) (o : ROp) : SeM (Option Page) := do
  let s ← get
  let d ← tensorDesc m c false o
  match s.element (s.gangOf c).asid o.tid d false (o.coords d (m.ix 0)) with
  | .error e => seFail (xFlt .se o.tid false true m.rel e)
  | .ok r => pure (r.map (·.1))

/-- The target of PGDUP and PGMIG. -/
def SeCmd.pageTarget (m : SeCmd) : Holder := ⟨Fin.ofNat 2 (m.o2.immNat % 4), BitVec.ofNat 12 (m.o2.immNat / 4)⟩

/-- Blocks of a peer's page copied into a frame here, one a step; acc − 1 is that frame. This device's own writes to the page are
performed before it is read, and a copy that has become stale is begun again. -/
def fetchPage (m : SeCmd) (c : CellId) (p : Page) (fresh : State → Bool) (last : State → State) : SeM (Option Piece) := do
  let s ← get
  if s.outFrames.any fun f => f.dev == p.dev && f.body.writesFrame p.frame then waitWork
  else if !fresh s then do
    dropReplies m
    pure (some ⟨[], 0, 0, { m with acc := 0, next := 0 }, false, none⟩)
  else if m.next < 256 then
    match ← peerBlock m c p.dev (256 * p.frame + m.next) with
    | none => waitWork
    | some r =>
      dropReplies m
      modify (·.blockWrite (256 * (m.acc - 1) + m.next) r.1 (BitVec.allOnes 256) r.2)
      pure (some ⟨[], 0, 0, { m with next := m.next + 1 }, false, none⟩)
  else
    modify last
    resultRow m c 0 false

/-- What firmware's allocator or the peer answers is its own choice (log entry 2): 1 no frame, 3 the peer refused. -/
def allocAnswer (peer : Bool) (w : Word) : Nat := if w.toNat % 4 = 1 then 1 else if peer && w.toNat % 4 = 3 then 3 else 0

/-- PGDUP: one more holder of the page (R92). -/
def workPgdup : Work := fun m c => do
  match ← firstPage m c m.o1 with
  | none => resultRow m c 4 false
  | some p =>
    let s ← get
    let t := m.pageTarget
    if t.dev ≠ s.selfdev then
      match s.peerFlt t.dev false with
      | some f => seFail f
      | none => pure ()
    let away := p.dev ≠ s.selfdev
    if away && m.acc ≠ 0 then
      fetchPage m c p (fun s => (s.dupOf (m.acc - 1)).isSome) fun s =>
        let l := s.leavesOf p.dev p.frame
        let we := (l.filter fun x => fieldOf (s.devRead x.addr 8).1 39 1 = 1).map (·.addr)
        (s.rewriteLeaves l fun _ w => setLeafHome (m.acc - 1) t.die.val t.dev (setLeafBit 40 1 (setLeafBit 39 0 w))).setDup
          { frame := m.acc - 1, asid := (s.gangOf c).asid, holders := [(t, s.wall, 0)], collapse := false, acks := [], waiters := [],
            we := we, home := some (p.dev, p.frame, p.die), copies := [] }
    else
      let d := if away then none else s.dupOf p.frame
      let busy := d.any (·.collapse) || s.migs.any (·.is p.dev p.frame)
      let held := (p.dev = t.dev && p.die = t.die.val) || d.any fun e => e.holders.any fun h => decide (h.1 = t)
      if busy then waitWork
      else if held then resultRow m c 4 false
      else if d.any fun e => 15 ≤ e.holders.length then resultRow m c 2 false
      else
        let (w, s1) := s.free 4
        let a := allocAnswer (t.dev ≠ s.selfdev || away) w
        if a ≠ 0 then do set s1; resultRow m c a false
        else if away && t.dev = s.selfdev then do
          let f := s1.freshFrame s1.selfdev
          -- the directory knows of the copy before it is read, so that a collapse meanwhile reaches it
          set (f.2.setDup { frame := f.1, asid := (s.gangOf c).asid, holders := [(t, s.wall, 0)], collapse := false, acks := [], waiters := [],
                            we := [], home := some (p.dev, p.frame, p.die), copies := [] })
          pure (some ⟨[], 0, 0, { m with acc := f.1 + 1, next := 0 }, false, none⟩)
        else do
          set (if away then s1 else s1.duplicate (s.gangOf c).asid p.frame t)
          resultRow m c 0 false
/-- PGDUP (R314). -/
def bodyPgdup : Rec → Ctx → State → Except Flt State := releaseCmd true 0x22
def execPgdup (r : Rec) (s : State) : Res := .next (issueSe (.pgdup r) 0x22 r (bodyPgdup r) s)

/-- PGMIG: the page moves to a new home (R93); it completes when the migration has ended. -/
def workPgmig : Work := fun m c => do
  let s ← get
  let t := m.pageTarget
  if m.acc ≠ 0 && m.nref = false && m.data = [] then
    -- a migration of this device's frame acc − 1 is under way, or has ended
    if (s.migOf (m.acc - 1)).isSome then waitWork else resultRow m c (if m.tag then 3 else 0) false
  else match ← firstPage m c m.o1 with
  | none => resultRow m c 4 false
  | some p =>
    if t.dev ≠ s.selfdev then
      match s.peerFlt t.dev false with
      | some f => seFail f
      | none => pure ()
    let away := p.dev ≠ s.selfdev
    if m.acc ≠ 0 then
      fetchPage m c p (fun _ => true) (·.endPeerMigration p.dev p.frame t.die t.dev (m.acc - 1))
    else if p.dev = t.dev && p.die = t.die.val then resultRow m c 4 false
    else if !away && (s.dupOf p.frame).isSome then do set (s.startCollapse p.frame 0); waitWork
    else if s.migs.any (·.is p.dev p.frame) then waitWork
    else
      let (w, s1) := s.free 4
      let a := allocAnswer (t.dev ≠ s.selfdev || away) w
      let f := s1.freshFrame t.dev
      if a ≠ 0 then do set s1; resultRow m c a false
      else if !away then do
        set (f.2.startMigration p.frame t.die t.dev f.1)
        pure (some ⟨[], 0, 0, { m with acc := p.frame + 1 }, false, none⟩)
      else do
        -- a page that goes from one peer to another is carried by the two of them
        set (f.2.startPeerMigration p.dev p.frame t.die t.dev f.1 m.uid)
        pure (some ⟨[], 0, 0, { m with acc := f.1 + 1, next := if t.dev = s.selfdev then 0 else 256, data := [(0, false)] }, false, none⟩)
/-- PGMIG (R314). -/
def bodyPgmig : Rec → Ctx → State → Except Flt State := releaseCmd true 0x23
def execPgmig (r : Rec) (s : State) : Res := .next (issueSe (.pgmig r) 0x23 r (bodyPgmig r) s)

/-- The deadline in ticks of a class under a band (R87). -/
def deadlineTicks (cls fmin : Nat) : Nat := (promiseNs cls * fmin + 999) / 1000

/-- LATQ: class, deadline, LCLS and states of the page of the operand's first element. -/
def workLatq : Work := fun m c => do
  match ← firstPage m c m.o1 with
  | none => resultLanes m c [] false
  | some p =>
    let s ← get
    let k := s.effClass p
    let bits := p.dup.toNat + p.mig.toNat * 2 + (s.inTransit p).toNat * 4 + (decide (s.layout.mode = 1)).toNat * 8
      + (decide (p.dev ≠ s.selfdev)).toNat * 16
    resultLanes m c [k, if k = 0 then 0 else deadlineTicks k (s.gangOf c).fmin, p.lcls, bits] false
/-- LATQ (R315). -/
def bodyLatq : Rec → Ctx → State → Except Flt State := releaseCmd false 0x25
def execLatq (r : Rec) (s : State) : Res := .next (issueSe (.latq r) 0x25 r (bodyLatq r) s)

/-! ## Submission (R316) and checksums (R317) -/

/-- SEVT: a graph submitted once the cell's earlier SE writes are performed at PKG scope; SEVT.H an event to the host. -/
def workSevt : Work := fun m c => do
  let s ← get
  if m.r.mod.getLsbD 0 then
    set (s.emit (.cellEvent (s.gangOf c).asid c (BitVec.ofNat 16 m.o2.immNat)))
    resultRow m c 0 false
  else if (s.cell c).se.before m ≠ [] || s.fabric.any fun x => x.cell = c && x.path == .sp && s.scopeOf c x.loc ≤ 3 then waitWork
  else
    let d ← tensorDesc m c false m.o1
    match s.submit (s.gangOf c).asid m.o1.tid ((m.o1.coords d (m.ix 0)).headD 0) with
    | (_, .fault e) => seFail (xFlt .se m.o1.tid false true m.rel e)
    | (t, .ok h) => do
      set t
      resultLanes m c [0, 0, h % 2 ^ 32, h / 2 ^ 32] false
    | (t, .refused e i) => do
      set t
      resultLanes m c [e.code, i] false
/-- SEVT (R316). -/
def bodySevt : Rec → Ctx → State → Except Flt State := releaseCmd false 0x26
def execSevt (r : Rec) (s : State) : Res := .next (issueSe (.sevt r) 0x26 r (bodySevt r) s)
/-- SEVT.H (R316). -/
def bodySevtH : Rec → Ctx → State → Except Flt State := releaseCmd false 0x26
def execSevtH (r : Rec) (s : State) : Res := .next (issueSe (.sevtH r) 0x26 r (bodySevtH r) s)

/-- CPCHK: the CRC-32C of the source bytes, compared with the expected value. -/
def workCpchk : Work := fun m c => do
  if m.next < m.total then
    match ← readOpnd m c m.o1 (m.ix m.next) with
    | none => waitWork
    | some r =>
      let crc : BitVec 32 := if m.next = 0 then 0xFFFFFFFF else BitVec.ofNat 32 m.acc
      pure (some ⟨[], 0, 0, { m with next := m.next + 1, acc := (crcNat crc r.1.toNat 256).toNat, tag := m.tag || r.2 }, false, none⟩)
  else
    let crc := (BitVec.ofNat 32 m.acc ^^^ 0xFFFFFFFF).toNat
    let verdict := if m.tag then 0 else match m.o2 with
      | .imm w => if w.toNat = crc then 1 else 0
      | _ => 2
    resultRow m c (crc + verdict * 2 ^ 32) m.tag
/-- CPCHK (R317). -/
def bodyCpchk : Rec → Ctx → State → Except Flt State := releaseCmd true 0x27
def execCpchk (r : Rec) (s : State) : Res := .next (issueSe (.cpchk r) 0x27 r (bodyCpchk r) s)

/-! ## The work of every command -/

def workSnop : Work := fun m _ => endWork m

def seWorks : List Work := [workSnop, workCopy, workCopy, workCprr, workCpadd, workCpbc, workCpt, workCpcv, workCpq, workCpmask,
  workFill, workGath, workScat, workScata, workGrpf, workGrpo, workTopk, workCrds, workMeta, workSortk, workCntr, workCsnap,
  workNsend, workNrecv, workNput, workNget, workNatom, workNflush, workAwrm, workAset, workSfence, workWaitc, workTdld, workTdinv,
  workPgdup, workPgmig, workPfch, workLatq, workSevt, workCpchk, workRadvx, workSwait, workCopy]
/-- The work of a command by its OP. -/
def seWork (op : Nat) : Work := seWorks.getD op workSnop

end Sys2Proof.Machine
end

