-- ==== Sys2Proof/Machine/StreamRun.lean ====
section
/-! DEFINITION. The steps of the stream engine: the release of a record, the start of a command, its pieces, its chunks, its
completion (R27, R286, R287, R291), its deadline (R87, R382), and PERFORM_A_READ on every path (R124). -/

namespace Sys2Proof.Machine

def Cell.seCmd (x : Cell) (uid : Nat) : Option SeCmd := x.se.queue.find? fun m => decide (m.uid = uid)
def Cell.putCmd (x : Cell) (m : SeCmd) : Cell :=
  { x with se := { x.se with queue := x.se.queue.map fun (e : SeCmd) => if e.uid = m.uid then m else e } }
def Cell.dropCmd (x : Cell) (uid : Nat) : Cell :=
  { x with se := { x.se with queue := x.se.queue.filter fun (e : SeCmd) => decide (e.uid ≠ uid) } }

/-- SE_RELEASE (R27): the SE record that is due takes its turn. -/
def execSeRelease (c : CellId) (s : State) : Res :=
  .next (if ((s.cell c).engine .se).pc.isSome && !(s.gangOf c).frozen then { s with turn := .record c .se } else s)

/-- SE_COMMAND_START (R27, R133, R290). -/
def execSeCommandStart (c : CellId) (uid : Nat) (s : State) : Res :=
  .next <| match (s.cell c).seCmd uid with
    | none => s
    | some m => if m.phase = .queued && s.seReady c m && ((s.gangOf c).status = .running || (s.gangOf c).status = .ending) then s.modCell c (·.putCmd { m with phase := .running }) else s

/-! ## Pieces and chunks (R286, R287, R290, R291) -/

/-- A command stops at a fault: the chunks before it stay, and the fault is reported against its record (R291, R354). -/
def stopCmd (c : CellId) (m : SeCmd) (f : Flt) (s : State) : State :=
  (s.modCell c (·.putCmd { m with phase := .stopped })).fault c .se m.off (s.gangOf c).tick none (m.flt f)

/-- The channel at which an NPUT's frames are counted (R310). -/
def SeCmd.chan (m : SeCmd) : Option (BitVec 10) :=
  match m.op, m.o2 with
  | 0x18, .imm w => some (w.extractLsb' 0 10)
  | _, _ => none

/-- Make the writes of a piece, under the next numbers. -/
def makeWrites (m : SeCmd) (c : CellId) (l : List Wr) (s : State) : State := l.foldl (fun t w => makeWrite m c m.chan w t) s

/-- Destination bytes with the writes that carry them join the chunk under way; each 4 KiB that are full are a chunk on its way, and
bytes beyond them begin the next (R286). -/
def SeCmd.addBytes (m : SeCmd) (us : List Nat) (n : Nat) : SeCmd :=
  let t := m.cb + n
  if t < 4096 then { m with cw := m.cw ++ us, cb := t }
  else
    let m' := { m with out := m.out ++ (m.cw ++ us, 4096) :: List.replicate (t / 4096 - 1) (us, 4096) }
    { m' with cw := if t % 4096 = 0 then [] else us, cb := t % 4096 }
/-- The command after a piece, whose writes have the numbers `us`: a full chunk, or the last one, is on its way. -/
def afterPiece (p : Piece) (us : List Nat) : SeCmd :=
  let m := (p.m.addBytes us p.bytes)
  let m1 := if p.fin && (m.cw ≠ [] || m.cb ≠ 0) then { m with out := m.out ++ [(m.cw, m.cb)], cw := [], cb := 0 } else m
  { m1 with got := [], stepped := false, phase := if p.fin then .ending else m1.phase }

/-- A command that goes on waiting keeps what it has read, and reads on in a step of its own (R124). -/
def SeCmd.rest (m : SeCmd) : SeCmd := { m with stepped := false }
def State.restCmd (s : State) (c : CellId) (uid : Nat) : State :=
  match (s.cell c).seCmd uid with
  | none => s
  | some m => s.modCell c (·.putCmd m.rest)
/-- Must the writes of a piece wait: into a registered row of an open window, or into a page on its way elsewhere (R93, R284, R290)? -/
def Piece.waits (p : Piece) (c : CellId) (s : State) : Bool := p.wr.any fun w => heldByWindow c s w || s.heldAway w

/-- One step of a running command: one of the reads of a piece, or the piece with its writes. -/
def sePerform (c : CellId) (uid : Nat) (s : State) : State :=
  match (s.cell c).seCmd uid with
  | none => s
  | some m =>
    if m.phase ≠ .running then s
    else match (seWork m.op m c).run s with
      | (.error (.fault f), _) => stopCmd c m f s
      | (.error .wait, t) | (.ok none, t) => t.restCmd c uid
      | (.ok (some p), t) =>
        if p.waits c s then s
        else
          let us := p.frames.toList ++ (List.range p.wr.length).map (t.uid + ·)
          (makeWrites m c p.wr t).modCell c fun x => (x.putCmd (afterPiece p us)).seFlags p.fl

/-- PERFORM_A_READ (R124): the CQ load at the head, the rows of an ME operation, or the next piece of an SE command. -/
def execPerformARead (c : CellId) (p : Path) (uid : Nat) (s : State) : Res :=
  .next <| match p with
    | .cq => cqPerform c s
    | .mp => mpPerform c uid s
    | .sp | .np => sePerform c uid s
    | .yp => s

/-- Is a write performed on its path: out of its fabric, and acknowledged where it went to a peer? -/
def State.writeDone (s : State) (u : Nat) : Bool :=
  !(s.fabric.any fun w => decide (w.uid = u)) && !(s.outFrames.any fun f => decide (f.fid = u) && f.reply.isNone)

/-- The bytes of a chunk are added to the arrival word that the command names (R64, R287). -/
def countBytes (c : CellId) (m : SeCmd) (b : Nat) (s : State) : Except Flt State :=
  match m.o2 with
  | .ring r =>
    if r.msb && !(isBarrier m.op) then
      match (s.cell c).arrival m.o2.awAddr with
      | .error k => .error (descFlt .se k)
      | .ok a =>
        if a.armed && a.target = 0 then .error (descFlt .se 12)
        else .ok (s.modCell c fun x => x.putArrival m.o2.awAddr (a.add b))
    else .ok s
  | _ => .ok s

/-- CHUNK_PERFORMED (R286, R287): the oldest chunk whose writes are performed is counted. -/
def execChunkPerformed (c : CellId) (uid : Nat) (s : State) : Res :=
  .next <| match (s.cell c).seCmd uid with
    | none => s
    | some m =>
      match m.out with
      | [] => s
      | (us, b) :: rest =>
        if us.all s.writeDone then
          let m' := { m with out := rest }
          match countBytes c m (if m.nref then 0 else b) s with
          | .ok t => t.modCell c (·.putCmd m')
          | .error f => stopCmd c m' f s
        else s

/-! ## Completion (R287, R289, R291) -/

/-- One more command in DONE (R289). -/
def Cell.countDone (x : Cell) : Cell :=
  let v := x.se.sestat.toNat
  { x with se := { x.se with sestat := BitVec.ofNat 64 (putField v 16 32 (fieldOf v 16 32 + 1)) } }

/-- The ring that a command's completion advances. -/
def SeCmd.ringAdvance (m : SeCmd) : Option Nat :=
  match m.o2 with
  | .ring b => if b.msb || m.nref then none else some m.o2.ringLoc
  | _ => none

/-- Does a command count its bytes at an arrival word? -/
def SeCmd.counts (m : SeCmd) : Bool :=
  match m.o2 with
  | .ring r => r.msb && !isBarrier m.op
  | _ => false
/-- Is an ending command complete: its writes performed on their paths, those to peers acknowledged, its chunks counted where it
counts them, its operations on YP done (R291)? -/
def State.cmdDone (s : State) (c : CellId) (m : SeCmd) : Bool :=
  m.phase = .ending && (m.out = [] || !m.counts) &&
    !(s.outFrames.any fun f => decide (f.cmd = m.uid) && f.reply.isNone) && ((s.cell c).ypOp m.uid).isNone

/-- The samples of a command's completion: its latency, and its promise's margin (R194, log entry 121). -/
def State.sampleCmd (s : State) (c : CellId) (m : SeCmd) : State :=
  let g := s.gangOf c
  let t := s.sample 1 c g.asid (nsOf (s.wall - m.relAt))
  match m.prom with
  | some p => if p.cls = 0 then t else t.sample 9 c g.asid (p.deadline - g.tick)
  | none => t

/-- SE_COMMAND_COMPLETION (R287, R289, R291): the entry leaves the queue, DONE counts it, and a ring form's advance enters
YP behind the writes that R135 names. -/
def execSeCommandCompletion (c : CellId) (uid : Nat) (s : State) : Res :=
  .next <| match (s.cell c).seCmd uid with
    | none => s
    | some m =>
      if s.cmdDone c m then
        let t := { (s.sampleCmd c m).modCell c fun x => (x.dropCmd uid).countDone with
          outFrames := s.outFrames.filter fun f => decide (f.cmd ≠ uid) }
        match m.ringAdvance with
        | none => t
        | some loc =>
          let paths := match (s.cell c).rcb loc with
            | .ok r => r.pushp
            | .error _ => 0
          let op := m.ypOp t.uid (s.gangOf c).tick (.tail loc 1) (t.seCover c uid paths) 0
          (t.modCell c fun x => { x with ord := { x.ord with yp := x.ord.yp ++ [op] } }).fresh
      else s

/-! ## Deadlines (R87, R382) -/

/-- Destination bytes of a step of a command's work, and of the work it has done (R286). -/
def SeCmd.unit (m : SeCmd) : Nat :=
  match m.op with
  | 8 => 132
  | 0x12 => 4096
  | _ => 256
def SeCmd.moved (m : SeCmd) : Nat :=
  if m.op = 5 then
    let n := m.target.length
    256 * (m.next / ceilDiv n 16 * n + 16 * (m.next % ceilDiv n 16))
  else m.next * m.unit

/-- LATENCY_DEADLINE (R87, R382): a PROM command still incomplete at its deadline; it goes on, and the gang waits for it. -/
def execLatencyDeadline (c : CellId) (uid : Nat) (s : State) : Res :=
  .next <| match (s.cell c).seCmd uid with
    | none => s
    | some m =>
      match m.prom with
      | none => s
      | some p =>
        if p.cls = 0 || (s.gangOf c).tick < p.deadline then s
        else
          let done := m.moved - m.cb - (m.out.map (·.2)).sum
          let left := promBytes s c m.op m.r m.o2 - done
          ((s.modCell c (·.putCmd { m with prom := none })).fault c .se m.off (s.gangOf c).tick none
            (promiseFlt p true m.rel left)).request (s.gidOf c) (.command c uid)

/-- CRDS_HOLD_MET (R304): a CRDS that has read every row of its key meets the freezes that its hold raised. -/
def execCrdsHoldMet (c : CellId) (uid : Nat) (s : State) : Res :=
  .next <| match (s.cell c).seCmd uid with
    | some m => if m.next < m.total then s else s.modGang (s.gidOf c) fun g => { g with reqs := g.reqs.filter fun r => decide (r.cond ≠ .crds c uid) }
    | none => s.modGang (s.gidOf c) fun g => { g with reqs := g.reqs.filter fun r => decide (r.cond ≠ .crds c uid) }

end Sys2Proof.Machine
end

