-- ==== Sys2Proof/Machine/Landings.lean ====
section
/-! DEFINITION. What falls due at a tick besides the records: results that land (R5, R6, R29), decisions (R37, R38), divergence
checks (R40, R359), divisor switches (R177), and the text cache (R47, R239) and translation caches (R77, R381). -/

namespace Sys2Proof.Machine

/-! ## Results (R5, R6) -/

/-- The earlier of two results: due tick, then order of issue (R6). -/
def Landing.before (a b : Landing) : Bool := a.due < b.due || (a.due = b.due && a.seq < b.seq)

/-- The first result of a list that is due. -/
def firstDue (now : Nat) : List Landing → Option Landing
  | [] => none
  | l :: ls =>
    let r := firstDue now ls
    if now < l.due then r
    else match r with
      | some m => if m.before l then some m else some l
      | none => some l

/-- The segment tick of a cell. -/
def State.segTickOf (s : State) (c : CellId) : Nat := (s.gangOf c).tick - (s.cell c).sq.start

/-- A register of the control core. -/
def Cc.land (r : Cc) : Land → Cc
  | .g n v tag => if n = 0 then r else { r with g := r.g.set n v, gTag := BitVec.ofNat 32 (putField r.gTag.toNat n.val 1 tag.toNat) }
  | .p n v => if n = 0 then r else { r with p := BitVec.ofNat 16 (putField r.p.toNat n.val 1 v.toNat) }
  | .b n v tags => { r with b := r.b.set n v, bTag := r.bTag.set n tags }
  | .bPiece n k v tag =>
    { r with b := r.b.set n (setPiece r.b[n] k.val v)
             bTag := r.bTag.set n (BitVec.ofNat 32 (putField r.bTag[n].toNat k.val 1 tag.toNat)) }
  | .sysw i v =>
    match i with
    | 7 => { r with slipw := max 16 (min v.toNat 4096) }
    | 8 => { r with spillBase := v.extractLsb' 0 12 }
    | 9 => { r with spillLen := min v.toNat 64 }
    | 10 => { r with cflags := v.extractLsb' 0 2 }
    | _ => r
  | _ => r

/-- A register or tile of the vector engine (R52, R55). -/
def Ve.land (x : Ve) : Land → Ve
  | .v n act v tags =>
    { x with v := x.v.set n (mergeLanes act x.v[n] v)
             vTag := x.vTag.set n ((tags &&& act) ||| (x.vTag[n] &&& ~~~act)) }
  | .k n v => if n = 0 then x else { x with k := x.k.set n v }
  | .tileRow n r v tags => { x with z := x.z.set n (x.z[n].writeRow r v tags) }
  | .tileCol n c v tags => { x with z := x.z.set n (x.z[n].writeCol c v tags) }
  | .tcfg n shape => { x with z := x.z.set n (.configure shape) }
  | .tzero n => { x with z := x.z.set n { x.z[n] with body := 0, tags := 0, shape := x.z[n].shape ||| 0x0400 } }
  | .trel n => { x with z := x.z.set n { x.z[n] with shape := x.z[n].shape &&& 0xFDFF } }
  | _ => x

/-- A parked register reaches its slot, or the tail of the free list when that slot has been taken (R70). -/
def Crema.parkLand (x : Crema) (off due seq p : Nat) (slot : Fin 16) (v : Row) (tags : BitVec 64) : Crema × Bool :=
  if x.free.contains slot then (x.parkIn p slot v tags, false)
  else match x.free.getLast? with
    | some t => (x.parkIn p t v tags, true)
    | none =>
      let y : Crema := { x with parked := x.parked.filter (fun (e : Nat × ParkPlace) => decide (e.1 ≠ p)) ++ [(p, .block)] }
      (y.addWork off due seq (.park p v tags), true)

/-- Crema and the matrix engine: the writes of a slot row take effect in issue order (R66, R269). -/
def Cell.landMe (x : Cell) (l : Landing) : Cell × FlagBits :=
  match l.dst with
  | .latch n v => ({ x with me := { x.me with bl := x.me.bl.set n v } }, 0)
  | .crel keys => ({ x with cr := keys.foldl Crema.release x.cr }, 0)
  | .clbl k on => ({ x with cr := x.cr.setSpillable k on }, 0)
  | .relabel new old => ({ x with cr := x.cr.relabel new old }, 0)
  | .winOpen k _ => ({ x with me := x.me.openWindow k }, 0)
  | .winClose => ({ x with me := x.me.closeWindow }, 0)
  | d =>
    match d.slotRow with
    | some (slot, row) =>
      let y := x.settle slot row l.seq
      ({ y with cr := (y.cr.applyLand d).1 }, (y.cr.applyLand d).2)
    | none => (x, 0)

/-- The flags a result raises where it lands (R53, R119). -/
def Cell.raise (x : Cell) (vfl mfl : FlagBits) (cfl : BitVec 2) : Cell :=
  { x with cc := { x.cc with cflags := x.cc.cflags ||| cfl }, ve := { x.ve with flags := x.ve.flags ||| vfl },
           me := { x.me with flags := x.me.flags ||| mfl } }

/-- A row of MQ, the seventeenth being a schedule miss (R56). -/
def landMq (c : CellId) (l : Landing) (n : Fin 2) (v : Row) (tag : Bool) (s : State) : State :=
  let x := s.cell c
  let now := (s.gangOf c).tick
  match pushOf .me (mqWhich n) (s.segTickOf c) x.q.mq[n] ⟨l.seq, now, true, v, tag⟩ with
  | .error f => s.fault c .me l.off now none f
  | .ok q => s.setCell c { x with q := { x.q with mq := x.q.mq.set n q } }

/-- A scratchpad row of the matrix engine drains at its landing tick; a row that has been registered since its record issued is a
retention violation (R284), the fifth access to a bank a schedule miss (R59, R126). -/
def landSp (c : CellId) (l : Landing) (row : Nat) (v : Row) (tag : Bool) (s : State) : State :=
  match (s.cell c).windowFlt .me row, (s.cell c).useBank row with
  | some f, _ => s.fault c .me l.off (s.gangOf c).tick none f
  | none, none => s.fault c .me l.off (s.gangOf c).tick none (missFlt .me 7 (row % 32) (s.segTickOf c))
  | none, some x =>
    let t := s.setCell c x
    t.drainTimed c .mp l.seq none row v tag

/-- A YPOP's values (R57, R235, R236). -/
def landYpop (c : CellId) (g : Fin 32) (p : Fin 16) (uid : Nat) (s : State) : State :=
  let x := s.cell c
  match x.q.yRet.find? fun e => decide (e.uid = uid) with
  | none => s
  | some e =>
    let r := (x.cc.land (.g g (if e.tag then 0 else e.data) e.tag)).land (.p p e.st)
    let r1 := match e.claim with
      | some (d, row) => r.land (.b d row 0)
      | none => r
    s.setCell c { x with cc := { r1 with cflags := r1.cflags ||| psn e.tag }
                         q := { x.q with yRet := x.q.yRet.filter fun (f : YEntry) => decide (f.uid ≠ uid) } }

/-- A result lands. -/
def State.landIn (s : State) (c : CellId) (l : Landing) : State :=
  match l.dst with
  | .mq n v tag => landMq c l n v tag s
  | .sp row v tag => landSp c l row v tag s
  | .ypop g p uid => landYpop c g p uid s
  | .band lo hi => s.modGang (s.gidOf c) fun g => { g with fmin := lo.toNat, fmax := hi.toNat }
  | .park p slot v tags =>
    let x := s.cell c
    let y := x.cr.parkLand l.off (s.moveDue (s.gidOf c)) l.seq p slot v tags
    let t := s.setCell c { x with cr := y.1 }
    if y.2 then t.askMove (t.gidOf c) (.parkMove c) else t
  | d =>
    let y := (s.cell c).landMe l
    let x := { y.1 with cc := y.1.cc.land d, ve := y.1.ve.land d }
    s.setCell c (x.raise 0 y.2 0)

/-- Is a result of a cell due now, its gang not stopped (R29, R45)? -/
def State.landingDue (s : State) (c : CellId) : Option Landing :=
  if (s.gangOf c).frozen then none else firstDue (s.gangOf c).tick (s.cell c).flight

/-- RESULT_LANDING (R5, R6): the first result that is due takes effect, and its flags with it. -/
def execResultLanding (c : CellId) (s : State) : Res :=
  .next <| match s.landingDue c with
    | none => s
    | some l =>
      let t := s.modCell c fun x => { x with flight := x.flight.filter fun (m : Landing) => decide (m.seq ≠ l.seq) }
      (t.landIn c l).modCell c (·.raise l.vfl l.mfl l.cfl)

/-! ## Decisions (R37, R38) -/

/-- A reduction of contributions. -/
def reduce (rop : Nat) (l : List (BitVec 3)) : BitVec 3 :=
  match rop with
  | 0 => l.foldl (· ||| ·) 0
  | 1 => l.foldl (· &&& ·) 7
  | 2 => BitVec.ofNat 3 (l.foldl (fun m v => max m v.toNat) 0)
  | 3 => BitVec.ofNat 3 (l.foldl (fun m v => min m v.toNat) 7)
  | _ => BitVec.ofNat 3 (min 7 (l.map (·.toNat)).sum)

/-- What a member's DECIDE receives: its own operation over the contributions that name its register and operation, and the
identity for every other member. -/
def decisionValue (g : Gang) (all : List Decision) (d : Decision) : BitVec 3 :=
  let same := all.filter fun e => decide (e.tick = d.tick ∧ e.dn = d.dn ∧ e.rop = d.rop ∧ e.k = d.k)
  let of_ (c : CellId) : BitVec 3 := match same.find? fun e => e.cell == c with
    | some e => e.val
    | none => reduceIdentity d.rop
  if let some v := d.forced then v
  else match d.rop with
  | 5 => match g.cellAt d.k with
    | some c => of_ c
    | none => 0
  | 6 => d.val
  | r => reduce r (g.cells.map of_)

/-- DECISION_DELIVERY (R37): the decisions of one tick land Ddec ticks later in the D registers of the members that issued
them. -/
def execDecisionDelivery (g : GangId) (s : State) : Res :=
  let x := s.gang g
  .next <| match x.decisions.head? with
    | none => s
    | some h =>
      if x.frozen || x.tick < h.tick + ddecOf x.glog then s
      else
        let mine := x.decisions.filter fun d => decide (d.tick = h.tick)
        let put (t : State) (d : Decision) : State :=
          t.modCell d.cell fun y => { y with cc := { y.cc with
            d := y.cc.d.set d.dn (decisionValue x mine d), dLand := y.cc.dLand.set d.dn x.tick } }
        (mine.foldl put s).modGang g fun y => { y with decisions := y.decisions.filter fun (d : Decision) => decide (d.tick ≠ h.tick) }

/-! ## Divergence (R40, R359) -/

/-- The divergence fault of a cell's token against member 0's (R356). -/
def divergeFlt (m0 own : Token) : Flt :=
  ⟨3, 7, m0.segid.toNat + m0.succ % 8 * 2 ^ 16 + own.succ % 8 * 2 ^ 19 + own.entry % 2 ^ 32 * 2 ^ 32, 0, false, 0⟩

/-- DIVERGENCE_CHECK (R40): the tokens of one tick are compared with member 0's, Ddec ticks later. Where member 0 was at no SEGE
at that tick, no pair agrees with its (log entry 29). -/
def execDivergenceCheck (g : GangId) (s : State) : Res :=
  let x := s.gang g
  .next <| match x.tokens.head? with
    | none => s
    | some h =>
      if x.frozen || x.tick < h.tick + ddecOf x.glog then s
      else
        let mine := x.tokens.filter fun k => decide (k.tick = h.tick)
        let t := s.modGang g fun y => { y with tokens := y.tokens.filter fun (k : Token) => decide (k.tick ≠ h.tick) }
        match mine.find? fun k => decide (x.member k.cell = 0) with
        | none => mine.foldl (fun u k => u.fault k.cell .cc k.off x.tick none (divergeFlt { k with segid := 0, succ := 0 } k)) t
        | some m0 => mine.foldl (fun u k =>
            if k.segid = m0.segid ∧ k.succ = m0.succ then u else u.fault k.cell .cc k.off x.tick none (divergeFlt m0 k)) t

/-! ## Divisors (R177) -/

/-- DIVISOR_SWITCH (R177): the engine's divisor, and its phase base at the switch tick. -/
def execDivisorSwitch (c : CellId) (s : State) : Res :=
  let x := s.cell c
  .next <| match x.sq.switches with
    | [] => s
    | w :: rest =>
      if (s.gangOf c).frozen || (s.gangOf c).tick < w.due then s
      else
        let y : Cell := { x with sq := { x.sq with switches := rest } }
        s.setCell c (y.setEngine w.eng { y.engine w.eng with div := w.d, base := w.due })

/-! ## Text (R47, R239) -/

/-- The successors that the SEGE of a cell's segment names (R33, R47). -/
def State.successors (s : State) (c : CellId) : List Nat :=
  match s.segeOf c with
  | none => []
  | some (off, _) =>
    match (s.cell c).textAt off with
    | none => []
    | some v => match decode (s.gangOf c).encgen ((s.cell c).behind v).toNat with
      | .ok (.sege r) => (List.range r.nsucc.toNat).map fun k => fieldOf r.succ.toNat (32 * k) 32
      | _ => []
/-- Where a cell's text is wanted: the records its sequencers have reached, and the successors of its segment. -/
def State.textFocus (s : State) (c : CellId) : List Nat :=
  [Eng.cc, .ve, .me, .se].filterMap (s.position c) ++ s.successors c
/-- How far ahead of the text that is wanted a record stands; one behind all of it is furthest. -/
def textDist (focus : List Nat) (off : Nat) : Nat := ((focus.filter (· ≤ off)).map (off - ·)).foldl min (2 ^ 32)

/-- The text cache takes a record; an invalidation that awaits the cell's next fetch comes first. A full cache gives up the
record that stands furthest ahead, where the new one does not (R11, log entry 27). -/
def Cell.putText (x : Cell) (focus : List Nat) (off : Nat) (w : RecordBits) : Cell :=
  let old := (if x.inval.contains none then [] else x.text).filter fun e => decide (e.1 ≠ off)
  let y : Cell := { x with inval := x.inval.filter (· ≠ none) }
  if old.length < textCap then { y with text := old ++ [(off, w)] }
  else
    let far := old.foldl (fun m e => if textDist focus m < textDist focus e.1 then e.1 else m) off
    if far = off then x else { y with text := old.filter (fun e => decide (e.1 ≠ far)) ++ [(off, w)] }

/-- TEXT_PRELOAD (R47): a record of the text arrives from device memory. -/
def execTextPreload (c : CellId) (off : Nat) (s : State) : Res :=
  .next <| match s.textWord (s.gidOf c) off with
    | none => s
    | some w => if (s.cell c).busy then s.modCell c (·.putText (s.textFocus c) off w) else s

/-- TEXT_CACHE_INVALIDATE (R239): an invalidation due at this tick of the gang. -/
def execTextCacheInvalidate (c : CellId) (s : State) : Res :=
  let now := (s.gangOf c).tick
  .next <| match (s.cell c).inval.find? fun e => e.any fun d => decide (d ≤ now) with
    | none => s
    | some e => s.modCell c fun x => { x with text := [], inval := x.inval.erase e }

/-! ## Translations (R77, R381) -/

/-- TRANSLATION_WALK (R80, R381): a layout unit loads the descriptor and the leaf it misses, where they translate. -/
def execTranslationWalk (asid : BitVec 10) (tid : BitVec 12) (tile : Nat) (s : State) : Res :=
  let t := if s.descs.any fun d => d.asid == asid && d.tid == tid then s else s.cacheDesc asid tid
  .next <| match t.desc asid tid with
    | .error _ => s
    | .ok d => match t.page asid tid d false tile with
      | .error _ => s
      | .ok _ => if t.cached asid tid tile then t else t.cacheLeaf asid tid tile

end Sys2Proof.Machine
end

