-- ==== Sys2Proof/Machine/Gangs.lean ====
section
/-! DEFINITION. The cells and the power a gang holds (R150, R155–R158, R393), the end of a gang's hold on its cells, and the
killing of a context (R346). -/

namespace Sys2Proof.Machine

/-! ## Load, ballast and budget (R155–R158, R393) -/

/-- A gang that holds cells. -/
def Gang.holdsCells (g : Gang) : Bool := g.status != .idle && g.status != .killed
/-- A gang whose tile task runs or is being saved: its average counts in the load (R157). -/
def Gang.runs (g : Gang) : Bool := g.holdsCells && g.status != .starting

/-- AdmittedPeak: running and starting tile tasks (R156). -/
def State.admittedPeak (s : State) : Nat := (s.gangs.toList.map fun g => if g.holdsCells then g.peak * g.size else 0).sum
/-- The budget in force: BUDGET within the board limit (R155, R187). -/
def State.budget (s : State) : Nat := min s.power.budget s.power.blim

/-- Is ballast suppressed (R393)? -/
def Power.noBallast (p : Power) : Bool := p.clamp || p.hot95.any id || 1 < p.rootDiv
/-- What is left of a ballast in mW: it falls linearly to zero over 20 µs (R158). -/
def ballastLeft (wall : Nat) (b : CellId × Nat × Nat) : Nat := b.2.1 * (usCycles 20 - (wall - b.2.2)) / usCycles 20
/-- Load: the averages of running tile tasks and the ballast (R157). -/
def State.load (s : State) : Nat :=
  (s.gangs.toList.map fun g => if g.runs then g.avg * g.size else 0).sum
    + (if s.power.noBallast then 0 else (s.power.ballast.map (ballastLeft s.wall)).sum)

/-- The load before a change enters the history of the last 20 µs. -/
def State.noteLoad (s : State) : State :=
  { s with power := { s.power with
      hist := (s.power.hist.filter fun (e : Nat × Nat) => decide (s.wall < e.1 + usCycles 20)) ++ [(s.wall, s.load)] } }

/-- The load without the ballast of some cells, which a start on them replaces (R158). -/
def State.loadWithout (s : State) (cells : List CellId) : Nat :=
  { s with power := { s.power with ballast := s.power.ballast.filter fun (b : CellId × Nat × Nat) => !cells.contains b.1 } }.load
/-- May a start on some cells raise the load by d now, whatever the load was before each change of the last 20 µs (R157)? -/
def State.rampAllows (s : State) (cells : List CellId) (d : Nat) : Bool :=
  s.power.hist.all fun e =>
    s.wall ≥ e.1 + usCycles 20 || (s.loadWithout cells + d) * usCycles 1 ≤ e.2 * usCycles 1 + s.power.rampup * (s.wall - e.1)

/-- Free cells of a collapse take ballast, each no more than the average of the task that left it (R158, R393). -/
def State.addBallast (s : State) (cells : List CellId) (avg : Nat) : State :=
  if s.power.noBallast || avg = 0 then s
  else { s with power := { s.power with ballast := s.power.ballast ++ cells.map fun (c : CellId) => (c, avg, s.wall) } }

/-- BALLAST_DECAY (R158, R393): ballast whose 20 µs are over, or that is suppressed, is gone. -/
def execBallastDecay (s : State) : Res :=
  let gone (b : CellId × Nat × Nat) : Bool := s.power.noBallast || b.2.2 + usCycles 20 ≤ s.wall
  .next (if s.power.ballast.any gone then
    let t := s.noteLoad
    { t with power := { t.power with ballast := t.power.ballast.filter fun b => !gone b } }
  else s)

/-! ## Cells become free (R17, R150) -/

def ceilQ (a b : Nat) : Nat := (a + b - 1) / b
/-- A queue's stride (R149). -/
def SQueue.stride (q : SQueue) : Nat := 2 ^ 20 / q.tickets
/-- The provisional charge of a dispatch of G cells (R150). -/
def SQueue.charge (q : SQueue) (g : Nat) : Nat := q.stride * ceilQ (q.quant * g) 128
/-- The charge for the cell-time a gang has used since its dispatch. -/
def SQueue.used (q : SQueue) (g cycles : Nat) : Nat := q.stride * ceilQ (cycles * g) (128 * usCycles 1)

/-- A charge, or the difference by which a charge is replaced, joins the PASS of a queue, 64 bits (R149). While the queue is deferred
its PASS stays as it is and the charge waits for its return (R153, log entry 112). -/
def SQueue.add (q : SQueue) (n : Int) : SQueue :=
  if q.deferred then { q with owed := q.owed + n } else { q with pass := ((q.pass + n) % 2 ^ 64).toNat }

/-- A cell that its gang leaves: its scratchpad stays, for a later task of the same ASID alone (R17). A task that has not
started has left nothing there. -/
def Cell.leave (x : Cell) (g : Gang) : Cell :=
  { Cell.reset with gang := x.gang, lastAsid := if g.runs then some g.asid else x.lastAsid, sp := x.sp, spTag := x.spTag }

/-- The entry that the cells of a gang go to when they become free: that of the node it is saved for, else the first (R151,
R152). -/
def keepFreed (g : GangId) (cells : List CellId) (l : List Kept) : List Kept :=
  let i := (l.findIdx? fun k => k.victims.contains g).getD 0
  l.modify i fun k => { k with cells := k.cells ++ cells, victims := k.victims.filter fun (v : GangId) => decide (v ≠ g) }

/-- A gang's cells become free: the provisional charge is replaced, and the load that falls becomes ballast (R150, R158). -/
def State.freeGang (s : State) (g : GangId) : State :=
  let x := s.gang g
  let q := s.queues[x.queue]
  let n : Int := if x.quantum = 0 then 0 else q.used x.size (s.wall - x.started) - x.quantum
  let t := s.noteLoad
  let u := x.cells.foldl (fun (u : State) c => u.modCell c (·.leave x)) t
  let v : State := { u.setGang g Gang.reset with
    queues := u.queues.set x.queue (q.add n)
    kept := keepFreed g x.cells u.kept
    forwards := u.forwards.filter fun (e : GangId × Nat) => decide (e.1 ≠ g)
    moved := u.moved.filter fun (m : CellId × YOp) => !x.cells.contains m.1 }
  if x.runs then v.addBallast x.cells x.avg else v

/-! ## SE commands stop at a chunk's end (R162, R346) -/

/-- Is a command inside a chunk, a sort that has begun writing, or a snapshot whose counters have been read and cleared? -/
def SeCmd.inside (m : SeCmd) : Bool :=
  m.phase = .running && (m.cb ≠ 0 || m.cw ≠ [] || (m.op = 0x13 && m.next ≠ 0) || (m.op = 0x15 && m.data ≠ []))

/-- Run a command on to the end of the chunk it moves, or to where it must wait. -/
def finishChunk (c : CellId) (uid : Nat) : Nat → State → State
  | 0, s => s
  | n + 1, s =>
    match (s.cell c).seCmd uid with
    | none => s
    | some m =>
      if m.inside then
        let t := sePerform c uid s
        if (t.cell c).seCmd uid = some m then s else finishChunk c uid n t
      else s
/-- All commands of a cell stop at chunk ends. -/
def stopStream (c : CellId) (s : State) : State :=
  (s.cell c).se.queue.foldl (fun t m => finishChunk c m.uid 300 t) s

/-! ## Kill (R346) -/

/-- Write the record of a fault that has none yet. -/
def State.writeFault (g : GangId) (sev disp : Nat) (s : State) (p : PFault) : State :=
  if p.written then s
  else
    let mark (q : PFault) : PFault := if q.id = p.id then { q with written := true, recSeq := s.logSeq } else q
    (s.writeRecord (s.faultRec p sev disp)).modGang g fun y => { y with faults := y.faults.map mark }
/-- Write the records of faults that have none yet, with a severity and a disposition. -/
def State.writeFaults (s : State) (g : GangId) (l : List PFault) (sev disp : Nat) : State := l.foldl (State.writeFault g sev disp) s

/-- The records of a window's error (R348): tick, TIME and record are those at which it was detected (R347). -/
def windowRec (s : State) (c : CellId) (w : Window) (cls sev disp : Nat) : ErrRec :=
  { cls := cls, sev := sev, unit := 2, cell := some (c, (s.cell c).sq.segid), asid := some (s.gangOf c).asid, akind := cls ≠ 0x21,
    disp := disp, tick := (w.err.map (·.tick)).getD (s.gangOf c).tick, tns := w.err.map (·.tns),
    addr := if cls = 0x21 then 0 else w.key.label.toNat + w.key.tile.toNat * 4096,
    at_ := if cls = 0x21 then none else (w.err.bind (·.off)).map fun o => (o, 0, engUnit .me),
    synd := if cls = 0x21 then 1 else w.passes }

/-- What a kill cuts short has its record with it: the faults that await theirs, and the windows whose replay has not come (R345). -/
def State.recordKilled (s : State) (g : GangId) : State :=
  let x := s.gang g
  x.cells.foldl (fun (u : State) c => match (s.cell c).me.win with
    | some w => if w.failed = 1 then u.writeRecord (windowRec s c w 0x22 2 4) else u
    | none => u) (s.writeFaults g x.faults 2 4)

/-- A region that is not pinned is freed (R364, R392). -/
def State.dropImage (s : State) (id : Nat) : State :=
  { s with images := s.images.filter fun (i : Image) => decide (i.id ≠ id) || i.pinned }

/-- A killed context: its chunks end, its remainders and what stands in its buffers are discarded, no action runs, the host
is told, and its cells are free. Writes already in a fabric are performed by their own steps. -/
def State.killGang (s : State) (g : GangId) (seq : Nat) : State :=
  let x := s.gang g
  let t := if x.runs then x.cells.foldl (fun u c => stopStream c u) (s.recordKilled g) else s
  let u := { t with chans := t.chans.filter fun (h : Chan) => decide (h.gang ≠ g) || decide (h.img ≠ none ∧ h.img ≠ some x.image) }
  ((u.dropImage x.image).freeGang g).emit (.killedTask x.graph x.node seq)

/-- The number of the record that a kill request of a gang rests on. -/
def Gang.killSeq (x : Gang) : Option Nat := x.reqs.findSome? fun r => match r.cond with
  | .kill n => some n
  | _ => none

/-- A gang whose save is under way. -/
def Gang.saving (x : Gang) : Bool := match x.status with
  | .saving _ => true
  | _ => false
/-- KILL_CONTEXT (R346): a running context is first frozen through the stall wire; a save is never abandoned, and the context is
killed at its end (R15, R167). -/
def execKillContext (g : GangId) (s : State) : Res :=
  let x := s.gang g
  .next (if !x.holdsCells then s
    else if x.saving then
      (if x.killSeq.isSome then s else s.modGang g fun y => { y with reqs := y.reqs ++ [⟨y.tick, .kill s.logSeq⟩] })
    else if x.frozen || x.status = .starting then s.killGang g (x.killSeq.getD s.logSeq)
    else if x.killSeq.isSome then s
    else s.modGang g fun y => { y with reqs := y.reqs ++ [⟨y.tick + 1 + y.dstall, .kill s.logSeq⟩] })

end Sys2Proof.Machine
end

