-- ==== Sys2Proof/Machine/Freeze.lean ====
section
/-! DEFINITION. Freezes (R43–R46): the requests the hardware raises ahead of need, the stop; what happens at a stopped
fault (R191, R345, R352–R355, R369); and the replay of an accumulator window (R362–R364). -/

namespace Sys2Proof.Machine

/-! ## Requests ahead of need (R27, R44, R304) -/

/-- The SE releases of the current segment that are due by a tick, from an offset on. -/
def Cell.releases (x : Cell) (gen last : Nat) : Nat → Nat → List Nat
  | 0, _ => []
  | n + 1, off =>
    match x.walk gen .se textCap off with
    | .own o v =>
      let t := x.sq.start + stampOf gen v.toNat
      if t ≤ last then t :: x.releases gen last n (o + 1) else []
    | _ => []
/-- The ticks of the releases due within the next Dstall ticks for which the queue would have no free entry (R27). -/
def State.releaseShort (s : State) (c : CellId) : List Nat :=
  let x := s.cell c
  match (x.engine .se).pc with
  | none => []
  | some off => (x.releases (s.gangOf c).encgen ((s.gangOf c).tick + (s.gangOf c).dstall) 64 off).drop (64 - x.se.queue.length)

/-- FREEZE_REQUEST_AHEAD (R44): text, free entries of the SE queue for every release due, or a CRDS's hold on its key. -/
def execFreezeRequestAhead (c : CellId) (what : Ahead) (due : Nat) (s : State) : Res :=
  let g := s.gidOf c
  let cond : Cond := match what with
    | .text off => .text c off
    | .seSpace => .seSpace c (s.releaseShort c).length
    | .crds uid => .crds c uid
  let x := s.gang g
  .next (if x.frozen || due < x.tick || x.reqs.any (fun r => r.cond = cond) then s
    else s.modGang g fun y => { y with reqs := y.reqs ++ [⟨due, cond⟩] })

/-! ## Conditions (R44) -/

/-- The moves that the freeze in which a gang stands covers (R279). -/
def State.moves (s : State) (c : CellId) : List CremaMove :=
  ((s.cell c).cr.moving.filter fun w => decide (w.due ≤ (s.gangOf c).tick)).map (·.move)
/-- Is a freeze condition met? -/
def State.met (s : State) : Cond → Bool
  | .ringFilled c loc m => match (s.cell c).rcb loc with
    | .ok r => m ≤ r.filled
    | .error _ => false
  | .ringFree c loc m => match (s.cell c).rcb loc with
    | .ok r => m ≤ r.freeCount.toNat
    | .error _ => false
  | .stage c loc e own full => match (s.cell c).rcb loc with
    | .ok r => r.full e == full && r.owner e = own
    | .error _ => false
  | .arrival c addr g => match (s.cell c).arrival addr with
    | .ok a => a.reached g
    | .error _ => false
  | .phase a n v => phasePassed (s.phaser a n).phase v
  | .phaw _ _ => false
  | .yq c => (s.cell c).q.yRet.all (·.arrived)
  | .metadata c => (s.cell c).me.ops.all (·.metaIn)
  | .translation c tid tile _ => s.cached (s.gangOf c).asid tid tile
  | .text c off => ((s.cell c).textAt off).isSome
  | .crema c k => !(s.moves c).any fun m => m = .fill k || m = .cfil k
  | .spill c _ => !(s.moves c).any (·.isSpill)
  | .scratchFill c k _ _ => !(s.moves c).any fun m => match m with
    | .load j _ _ _ _ => j = k
    | _ => false
  | .parkMove c => !(s.moves c).any (·.isPark)
  | .replay c => !(s.cell c).me.win.any fun w => w.failed = 1
  | .seSpace c n => (s.cell c).se.queue.length + n ≤ 64
  | .drained c before => !(s.cell c).se.queue.any fun m => m.uid < before
  | .debug | .preempt | .fault _ | .kill _ => false
  | .time t => t.toNat ≤ s.clock.time.toNat / 65536
  | .crds c uid => match (s.cell c).seCmd uid with
    | some m => m.total ≤ m.next
    | none => true
  | .command c uid => ((s.cell c).seCmd uid).isNone

/-- The requests due at or before the tick at which a gang stands. -/
def Gang.dueReqs (x : Gang) : List Req := x.reqs.filter fun r => r.due ≤ x.tick

/-! ## Stopped faults (R345, R352–R355) -/

/-- The pending faults whose request is due. -/
def Gang.dueFaults (x : Gang) : List PFault := x.faults.filter fun p => x.dueReqs.any fun r => r.cond = .fault p.id

/-- Faults and their requests leave the gang. -/
def State.dropFaults (s : State) (g : GangId) (l : List PFault) : State :=
  s.modGang g fun y => { y with
    faults := y.faults.filter fun (p : PFault) => !l.any fun (q : PFault) => q.id = p.id
    reqs := y.reqs.filter fun (r : Req) => !l.any fun (q : PFault) => r.cond = .fault q.id }

/-- Firmware demotes the page of a broken promise (R382). -/
def State.demoteLater (s : State) (asid : BitVec 10) (p : PFault) : State :=
  { s with inputs := s.inputs ++ [(0, .pageDemotion asid (p.addr.extractLsb' 0 12) (p.addr.toNat / 4096) (p.synd.extractLsb' 3 3))] }

/-- A gang stopped at faults is killed for them: each has its record, and the kill names that of the first (R345, R346). -/
def State.killForFaults (s : State) (g : GangId) : State :=
  let n := ((((s.gang g).faults.find? (·.written)).map (·.recSeq)).getD s.logSeq)
  (s.writeFaults g (s.gang g).faults 2 4).modGang g fun y => { y with reqs := y.reqs ++ [⟨y.tick, .kill n⟩] }

/-- What hardware mode makes of the stopped faults (R345, R352): a kill when one of the gang's faults is fatal, recorded for
each of them; else every broken promise is recorded as replayed and its page demoted. -/
def State.hardwareFate (s : State) (g : GangId) : State :=
  let x := s.gang g
  let d := x.dueFaults
  if d = [] then s
  else if x.faults.any fun p => p.cls ≠ 0x0F then
    s.killForFaults g
  else (d.foldl (fun (u : State) p => u.demoteLater x.asid p) (s.writeFaults g d 1 2)).dropFaults g d

/-- A gang that a session owns takes the debugger's disposition for faults of classes 0x01 to 0x11 (R352). -/
def Gang.debugged (x : Gang) (l : List PFault) : Bool := x.owner.isSome && l.all fun p => decide (p.cls ≤ 0x11)

/-- A request that is forwarded to the remote host waits at most the forwarding timeout (R191). -/
def State.forward (s : State) (g : GangId) : State :=
  ({ s with forwards := s.forwards.filter (fun (e : GangId × Nat) => decide (e.1 ≠ g)) ++ [(g, s.wall + usCycles (1000 * s.fwdMs))] }).emit
    (.forwarded g)

/-- FREEZE_BEGIN (R43, R354): the gang stops before the due tick; faults that are due have their records written, or await
the choice of firmware or of the host. -/
def execFreezeBegin (g : GangId) (s : State) : Res :=
  let x := s.gang g
  .next (if x.frozen || !x.runs || x.dueReqs = [] then s
    else
      let gone (z : Cell) : Cell := { z with sq := { z.sq with
        brk := Vector.ofFn fun (i : Fin 8) => if z.sq.brkGone.getLsbD i.val then none else z.sq.brk[i]
        brkGone := 0 } }
      let t := (x.cells.foldl (fun (u : State) c => u.modCell c gone) s).modGang g fun y => { y with frozen := true, frozenAt := s.wall }
      let d := x.dueFaults
      if d = [] then t
      else if x.debugged d then t.writeFaults g d 1 5
      else if s.remoteHost && d.any (fun p => p.mode = 2) then t.forward g
      else if d.any fun p => p.mode ≠ 0 then t
      else t.hardwareFate g)

/-! ## Resumption of a fault (R355) -/

/-- The effect of a record that can meet a translation fault at issue. -/
def redoBody : Instr → Option (Ctx → State → Except Flt State)
  | .bndl b => some (bodyBndl b)
  | .qlds r => some (bodyQlds r)
  | .qsts r => some (bodyQsts r)
  | .vfil r => some (bodyVfil r)
  | .ldb r => some (bodyLdb r)
  | .ldbh r => some (bodyLdbh r)
  | .ldbs r => some (bodyLdbs r)
  | .ldbt r => some (bodyLdbt r)
  | .ldbw r => some (bodyLdbw r)
  | .mma r => some (bodyMma r)
  | .mmah r => some (bodyMmah r)
  | .mmag r => some (bodyMmag r)
  | .mmagh r => some (bodyMmagh r)
  | .mmas r => some (bodyMmas r)
  | .mmasg r => some (bodyMmasg r)
  | .bind r => some (bodyBind r)
  | .binda r => some (bodyBinda r)
  | .bindm r => some (bodyBindm r)
  | .crd r => some (bodyCrd r)
  | .crdt r => some (bodyCrdt r)
  | .czero r => some (bodyCzero r)
  | .crel r => some (bodyCrel r)
  | .crell r => some (bodyCrell r)
  | .cspl r => some (bodyCspl r)
  | .cfil r => some (bodyCfil r)
  | .cfilF32 r => some (bodyCfilF32 r)
  | .cfilBf16 r => some (bodyCfilBf16 r)
  | .cstat r => some (bodyCstat r)
  | .clbl r => some (bodyClbl r)
  | .clblR r => some (bodyClblR r)
  | .ccpy r => some (bodyCcpy r)
  | .cscal r => some (bodyCscal r)
  | .cadd r => some (bodyCadd r)
  | .cmaxr r => some (bodyCmaxr r)
  | .csumr r => some (bodyCsumr r)
  | .tstart r => some (bodyTstart r)
  | .mflg r => some (bodyMflg r)
  | .mflgC r => some (bodyMflgC r)
  | _ => none

/-- The expansions of a record. -/
def expansions (i : Instr) : Nat := match recOf i with
  | some (_, _, r) => nestTotal r.nest
  | none => 1

/-- Perform expansion k of a suppressed record under the freeze, at its own tick and with the control registers it read; a
fault met again is a new one, due at the stop (R355). -/
def redoOne (p : PFault) (i : Instr) (cc : Cc) (body : Ctx → State → Except Flt State) (k tick : Nat) (s : State) :
    State × Bool :=
  let g := s.gidOf p.cell
  let stop := (s.gang g).tick
  let u := ({ s with curCell := p.cell, curEng := p.eng }.modGang g fun y => { y with tick := tick }).modCell p.cell fun x =>
    { x with cc := cc }
  let own := (s.cell p.cell).cc
  match body ⟨p.off, k, p.slot, u.engMode⟩ u with
  | .ok t => ((t.modCell p.cell fun x => { x with cc := own }).modGang g fun y => { y with tick := stop }, true)
  | .error f =>
    let t := s.fault p.cell p.eng p.off tick (some (i, cc, k)) f
    let now (r : Req) : Req := if r.cond = .fault s.uid then { r with due := stop } else r
    (t.modGang g fun y => { y with reqs := y.reqs.map now }, false)

/-- The suppressed expansions: those due before the stop now, the rest at their own ticks. -/
def redoFrom (p : PFault) (i : Instr) (cc : Cc) (body : Ctx → State → Except Flt State) (n step : Nat) : Nat → Nat → State → State
  | 0, _, s => s
  | fuel + 1, k, s =>
    let k0 := match p.redo with
      | some (_, _, j) => j
      | none => k
    let tick := p.tick + (k - k0) * step
    if n ≤ k then s
    else if k0 < k && (s.gangOf p.cell).tick ≤ tick then
      s.modCell p.cell fun x => x.setEngine p.eng { x.engine p.eng with
        exp := some ⟨p.off, p.tick - k0 * step, k, n, step, true, match p.eng with
          | .ve => x.ve.mode
          | .me => x.me.mode
          | _ => 0⟩ }
    else
      let r := redoOne p i cc body k tick s
      if r.2 then redoFrom p i cc body n step fuel (k + 1) r.1 else r.1

/-- What a resumed fault does to its work (R355): the record is performed, a stopped command goes on, an operation is tried
again; a TRAP does nothing. -/
def State.resumeFault (s : State) (p : PFault) : State :=
  if p.cls = 0x10 then s
  else
    let s := match p.yop with
      | some op => s.modCell p.cell fun x => { x with ord := { x.ord with yp := op :: x.ord.yp } }
      | none => s
    match p.eng, p.redo with
    | .se, _ =>
      let go (m : SeCmd) : SeCmd := if m.off = p.off && m.phase = .stopped then { m with phase := .running } else m
      s.modCell p.cell fun x => { x with se := { x.se with queue := x.se.queue.map go } }
    | e, some (i, cc, k) =>
      match redoBody i with
      | some body => redoFrom p i cc body (expansions i) (engCycles e * ((s.cell p.cell).engine e).div) 65536 k s
      | none => s
    | _, none => s

/-- A save of the gang where it stands (R161). -/
def State.saveHere (s : State) (g : GangId) (why : SaveCause) : State :=
  s.modGang g fun y => if y.saveFor.isSome then y
    else { y with saveFor := some why, reqs := y.reqs ++ [⟨y.tick, .preempt⟩] }

def mayResume (cls : Nat) : Bool := 0x0C ≤ cls && cls ≤ 0x10

/-- The choice in force: the debugger's for a gang that a session owns, hardware mode where none may choose or the choice is
not permitted (R352). -/
def choiceFor (x : Gang) (d : Choice) : Choice :=
  let l := x.dueFaults
  if x.debugged l then .debugger
  else if l.all fun p => p.mode = 0 && !p.again then .hardware
  else match d with
    | .resume => if l.all fun p => mayResume p.cls then .resume else .hardware
    | c => c

/-- A freeze that waits for a command with a broken promise ends where firmware or the host resumes the gang (R44, R355). -/
def State.letGo (s : State) (g : GangId) (l : List PFault) : State :=
  let gone (r : Req) : Bool := match r.cond with
    | .command c u => l.any fun p => p.cls = 0x0F && p.cell = c && ((s.cell c).seCmd u).all fun m => m.off = p.off
    | _ => false
  s.modGang g fun y => { y with reqs := y.reqs.filter fun r => !gone r }

/-- What a disposition does to the stopped faults of a gang (R345, R352, R355). -/
def State.dispose (s : State) (g : GangId) (d : Choice) : State :=
  let x := s.gang g
  let l := x.dueFaults
  match d with
  | .hardware => s.hardwareFate g
  | .resume => (l.foldl (fun (u : State) p => (if p.cls = 0x0F then u.demoteLater x.asid p else u).resumeFault p)
      (((s.writeFaults g l 1 1).dropFaults g l).letGo g l))
  | .preempt => (s.writeFaults g l 1 3).saveHere g .firmware
  | .kill => s.killForFaults g
  | .debugger => s.writeFaults g l 1 5

/-- FAULT_DISPOSITION (R352, R355): the choice for a gang stopped at faults. -/
def execFaultDisposition (g : GangId) (d : Choice) (s : State) : Res :=
  let x := s.gang g
  .next (if x.frozen && x.runs && x.killSeq.isNone && x.dueFaults ≠ [] then
    { s with forwards := s.forwards.filter fun (e : GangId × Nat) => decide (e.1 ≠ g) }.dispose g (choiceFor x d)
  else s)

/-- FORWARDING_TIMEOUT (R191): firmware completes a forwarded request that the host has not answered, and the host is
notified; from then on it is firmware's. -/
def execForwardingTimeout (g : GangId) (s : State) : Res :=
  .next <| match s.forwards.find? fun e => decide (e.1 = g) with
    | none => s
    | some e =>
      if s.wall < e.2 then s
      else { s with forwards := s.forwards.filter fun (e : GangId × Nat) => decide (e.1 ≠ g) }.emit (.notified g)

/-! ## Window replay (R362–R364) -/

/-- The latch a retained pass used, loaded again from its rows. -/
def reloadLatch (c : CellId) (o : MeOp) (s : State) : Latch :=
  let get (r : Nat) : Row × Bool := s.visible c .mp (.sp c r)
  let q := loadScales o.src.op (o.src.scale.map get)
  let l0 : Latch := { Latch.reset with scale := q.1, sTag := q.2, src := some o.src }
  let o1 := { o with op := o.src.op, a := o.src.row, latch := l0 }
  (List.range 128).foldl (fun l k => loadRow { o1 with latch := l } k ((o1.reads k).map get)) l0

/-- The full partial of a retained pass, into its slot; a poisoned index row fills the slot with poisoned NaNs (R274). -/
def replayPass (c : CellId) (slot : Fin 16) (s : State) (o : MeOp) : State :=
  let o1 := { o with latch := reloadLatch c o s }
  let nan (u : State) : State := if o.idxBad then u.modCell c fun x => { x with cr := (x.cr.applyLand (.slotNaN slot)).1 } else u
  nan <| (List.range 128).foldl (fun u i =>
    match o.source i with
    | none => u
    | some h =>
      let r := s.visible c .mp (.sp c (h / 2))
      (o1.partials i ⟨r.1, r.2, h % 2⟩).foldl (fun u p => u.modCell c fun x =>
        let y := x.cr.applyLand (.slotAdd slot (o.dest i) p.1 p.2.1 o.ftz)
        { x with cr := y.1, me := { x.me with flags := x.me.flags ||| y.2 ||| p.2.2 } }) u) s

/-- The slot's contents before the retained passes: +0.0, or those of the image the task was resumed from (R364). -/
def windowBase (c : CellId) (w : Window) (slot : Fin 16) (s : State) : State :=
  let m := (s.gangOf c).member c
  let img := match w.base with
    | some n => (s.images.find? fun (i : Image) => decide (i.id = n)).bind fun (i : Image) => i.members[m]?
    | none => none
  s.modCell c fun x =>
    let cr := x.cr.clearSlot slot
    match img with
    | none => { x with cr := cr }
    | some y => match y.cr.slotOf w.key with
      | none => { x with cr := cr }
      | some j => { x with cr := (List.range 128).foldl (fun z i => z.putAt slot i (y.cr.rowAt j i) (y.cr.tagsAt j i)) cr }

/-- The newest pass of the window is the one that meets an error inside the ME. -/
def State.winErr (s : State) (c : CellId) : WinErr :=
  ⟨(s.gangOf c).tick, s.clock.time.extractLsb' 16 64, ((s.cell c).me.ret.getLast?).map (·.off)⟩
def State.setWin (s : State) (c : CellId) (w : Window) : State := s.modCell c fun x => { x with me := { x.me with win := some w } }
/-- An uncorrectable error inside the ME while its window is open, with the record of the read: the first asks for the replay freeze, and
a second kills the context (R362, R363). -/
def State.windowError (s : State) (c : CellId) (w : Window) (r : ErrRec) : State :=
  let g := s.gidOf c
  let e := s.winErr c
  if w.failed = 0 then ((s.writeRecord r).setWin c { w with failed := 1, err := some e }).request g (.replay c)
  else
    let t := (s.writeRecord r).writeRecord (windowRec s c { w with err := some e } 0x23 2 4)
    t.modGang g fun y => { y with reqs := y.reqs ++ [⟨if y.frozen then y.tick else y.tick + y.dstall, .kill (t.logSeq - 1)⟩] }

/-- The latches that still hold the load of a retained pass hold its reloaded image after the replay. -/
def reloadHeld (c : CellId) (s : State) : State :=
  let again (l : Latch) : Latch := match (s.cell c).me.ret.find? fun o => l.src = some o.src with
    | some o => reloadLatch c o s
    | none => l
  s.modCell c fun y => { y with me := { y.me with bl := y.me.bl.map again } }
/-- The rebuilt slot of a window (R363): the pending landings of its passes are gone, and every retained pass is added to the base. -/
def rebuildWindow (c : CellId) (w : Window) (slot : Fin 16) (s : State) : State :=
  let clear (y : Cell) : Cell := { y with
    flight := y.flight.filter fun (l : Landing) => match l.dst with
      | .slotAdd k _ _ _ _ => decide (k ≠ slot)
      | _ => true
    me := { y.me with ops := y.me.ops.filter fun (o : MeOp) => !(5 ≤ o.op && o.op ≤ 10 && o.slot = slot) } }
  reloadHeld c ((s.cell c).me.ret.foldl (fun u o => replayPass c slot u o) (windowBase c w slot (s.modCell c clear)))

/-- WINDOW_REPLAY (R362, R363): an uncorrectable error of an open window is found, and its freeze requested; at the stop the
slot is rebuilt, unless a kill has overtaken the replay. A second error of the window kills the context. -/
def execWindowReplay (c : CellId) (s : State) : Res :=
  let g := s.gidOf c
  .next <| match (s.cell c).me.win with
    | none => s
    | some w =>
      if w.failed = 1 then
        if !(s.gang g).frozen || (s.gang g).killSeq.isSome || !(s.gang g).dueReqs.any (fun r => r.cond = .replay c) then s
        else match (s.cell c).cr.slotOf w.key with
          | none => s.setWin c { w with failed := 2 }
          | some slot => ((rebuildWindow c w slot s).setWin c { w with failed := 2 }).writeRecord (windowRec s c w 0x22 1 2)
      else s.windowError c w (windowRec s c { w with err := none } 0x21 1 0)

end Sys2Proof.Machine
end

