-- ==== Sys2Proof/Machine/ImageBytes.lean ====
section
/-! DEFINITION. The bytes of a context image (R163–R166): each member by 256-byte block, the flight capture, the gang header with
its CRCs and the SHA-256 of the kernel binary. The layouts of the slot map and of the sequencer state, and the payloads of
flag and token entries, are not stated: their bytes are free values (log entry 2). -/

namespace Sys2Proof.Machine

/-! ## SHA-256 (FIPS 180-4), named by R166 -/

/-- The largest r below 2ⁿ, above an r0 with its low n bits clear, whose k-th power is at most v. -/
def rootBits (k v : Nat) : Nat → Nat → Nat
  | 0, r => r
  | n + 1, r => rootBits k v n (if (r + 2 ^ n) ^ k ≤ v then r + 2 ^ n else r)
/-- The first 32 bits of the fraction of the k-th root of p. -/
def rootFraction (k p : Nat) : BitVec 32 := BitVec.ofNat 32 (rootBits k (p * 2 ^ (32 * k)) 40 0)
/-- The first 64 primes. -/
def shaPrimes : List Nat := (List.range 312).filter fun n => 2 ≤ n && (List.range n).all fun d => d < 2 || n % d ≠ 0

/-- The sum modulo 2 of three rotations of a word, the last a shift where `cut` says so. -/
def shaMix (x : BitVec 32) (i j k : Nat) (cut : Bool := false) : BitVec 32 :=
  x.rotateRight i ^^^ x.rotateRight j ^^^ (if cut then x >>> k else x.rotateRight k)
/-- Word t of the schedule of a block, from the words before it, newest first. -/
def shaWord (past : List (BitVec 32)) : BitVec 32 :=
  let w (back : Nat) := past.getD (back - 1) 0
  shaMix (w 2) 17 19 10 true + w 7 + shaMix (w 15) 7 18 3 true + w 16
/-- The two halves of the working state, newest word first, after a round with its key and schedule word. -/
def shaStep (st : List (BitVec 32) × List (BitVec 32)) (kw : BitVec 32) : List (BitVec 32) × List (BitVec 32) :=
  let p (i : Nat) := st.1.getD i 0
  let q (i : Nat) := st.2.getD i 0
  let sum := q 3 + shaMix (q 0) 6 11 25 + (q 2 ^^^ (q 0 &&& (q 1 ^^^ q 2))) + kw
  let new := sum + shaMix (p 0) 2 13 22 + ((p 0 &&& p 1) ||| (p 2 &&& (p 0 ||| p 1)))
  (new :: st.1.take 3, (p 3 + sum) :: st.2.take 3)
/-- A block of 16 words, newest first, joins the running digest, which is held as the two halves. -/
def shaBlock (keys : List (BitVec 32)) (h : List (BitVec 32) × List (BitVec 32)) (block : List (BitVec 32)) :
    List (BitVec 32) × List (BitVec 32) :=
  let words := ((List.range 48).foldl (fun l _ => shaWord l :: l) block).reverse
  let r := (words.zip keys).foldl (fun st x => shaStep st (x.1 + x.2)) h
  (h.1.zipWith (· + ·) r.1, h.2.zipWith (· + ·) r.2)
/-- The digest of n bytes of a little-endian value, as a little-endian value of 32 bytes. -/
def sha256 (v n : Nat) : Nat :=
  let blocks := n / 64 + (if n % 64 < 56 then 1 else 2)
  let len (i : Nat) := fieldOf (8 * n) (8 * (64 * blocks - 1 - i)) 8
  let byte (i : Nat) : Nat := if i < n then fieldOf v (8 * i) 8 else if i = n then 128 else if i + 8 < 64 * blocks then 0 else len i
  let word (i : Nat) : BitVec 32 := BitVec.ofNat 32 ((List.range 4).foldl (fun a k => 256 * a + byte (4 * i + k)) 0)
  let start := shaPrimes.take 8 |>.map (rootFraction 2)
  let keys := shaPrimes.map (rootFraction 3)
  let h := (List.range blocks).foldl (fun h b => shaBlock keys h ((List.range 16).reverse.map fun j => word (16 * b + j)))
    ((start.take 4), (start.drop 4))
  packNat 8 (fun i => fieldOf ((h.1 ++ h.2).getD (i / 4) 0).toNat (8 * (3 - i % 4)) 8) 32

/-! ## Pieces of a member (R164, R165) -/

/-- A 256-byte block whose layout the manual does not state. -/
def freeBlock (ctr : Nat) : Row := BitVec.ofNat 2048 (packNat 64 (fun i => (Config.freeWord 7 (ctr + i)).toNat) 32)

/-- A flight capture entry: due tick, kind, number, poison, payload bytes and payload. -/
structure Capture where
  due  : Nat
  kind : Nat
  num  : Nat
  psn  : Bool
  size : Nat
  v    : Nat
  deriving DecidableEq, Repr

def Capture.bits (e : Capture) : Nat := e.due % 2 ^ 64 + (e.kind + e.num * 16 + e.psn.toNat * 2 ^ 19) * 2 ^ 64 + e.v * 2 ^ 128

/-- What an entry of the flight capture stands for: a result, the return that a YPOP took, a decision, a row on its way into LQ, a
token. -/
inductive FlightSrc where
  | result (seq : Nat)
  | ret (uid : Nat)
  | decision (d : Decision)
  | row (uid : Nat)
  | token (k : Token)
  deriving DecidableEq, Repr

/-- An entry with its place in the order of issue and what it stands for. -/
structure Flight where
  seq : Nat
  src : FlightSrc
  cap : Capture
  deriving DecidableEq, Repr

/-- Insert by due tick and then by issue, behind an equal one (R6, R165). -/
def putFlight (e : Flight) : List Flight → List Flight
  | [] => [e]
  | d :: l => if e.cap.due < d.cap.due ∨ (e.cap.due = d.cap.due ∧ e.seq < d.seq) then e :: d :: l else d :: putFlight e l
/-- Insert a landing in the order in which they land (R6). -/
def putLanding (e : Landing) : List Landing → List Landing
  | [] => [e]
  | d :: l => if e.before d then e :: d :: l else d :: putLanding e l

/-- The return that a YPOP took, once it is performed. -/
def Cell.returnOf (x : Cell) (uid : Nat) : Option YEntry := x.q.yRet.find? fun e => decide (e.uid = uid) && e.performed
/-- A B register as it is once a landing and all before it have landed. -/
def Cell.bAfter (x : Cell) (n : Fin 4) (l : Landing) : Row × BitVec 32 :=
  let step (r : Cc) (k : Landing) : Cc := match k.dst with
    | .b _ _ _ | .bPiece _ _ _ _ => r.land k.dst
    | .ypop _ _ uid => (match (x.returnOf uid).bind (·.claim) with
      | some (m, row) => r.land (.b m row 0)
      | none => r)
    | _ => r
  let r := ((x.flight.filter (·.before l)).foldl (fun a k => putLanding k a) [] ++ [l]).foldl step x.cc
  (r.b[n], r.bTag[n])

/-- The entries of a result in flight, where its destination has a kind; of a row that lands in part the whole register. -/
def captureOf (x : Cell) (ctr : Nat) (l : Landing) : List Flight :=
  let one (kind num : Nat) (psn : Bool) (size v : Nat) : List Flight := [⟨l.seq, .result l.seq, ⟨l.due, kind, num, psn, size, v⟩⟩]
  match l.dst with
  | .g n v tag => one 1 n.val tag 8 v.toNat
  | .p n v => one 2 n.val false 8 v.toNat
  | .b n _ _ | .bPiece n _ _ _ =>
    let r := x.bAfter n l
    one 4 n.val (r.2 != 0) 256 r.1.toNat
  | .v n _ v tags => one 5 n.val (tags != 0) 256 v.toNat
  | .k n v => one 6 n.val false 8 v.toNat
  | .mq n v tag => one 7 n.val tag 256 v.toNat
  | .sp row v tag => one 8 row tag 256 v.toNat
  | .flags => one 10 0 false 8 (Config.freeWord 8 (ctr + l.seq)).toNat
  | .ypop g p uid => (match x.returnOf uid with
    | none => []
    | some e =>
      let of (kind num : Nat) (psn : Bool) (size v : Nat) : Flight := ⟨l.seq, .ret uid, ⟨l.due, kind, num, psn, size, v⟩⟩
      of 1 g.val e.tag 8 e.data.toNat :: of 2 p.val false 8 e.st.toNat :: (match e.claim with
        | some (d, row) => [of 4 d.val false 256 row.toNat]
        | none => []))
  | _ => []

/-- The flight capture of a member: decisions, divergence tokens, results, rows not yet visible in LQ. -/
def flights (s : State) (g : Gang) (c : CellId) (x : Cell) : List Flight :=
  let dec := (g.decisions.filter fun d => d.cell == c).map fun (d : Decision) =>
    (⟨d.seq, .decision d, ⟨d.tick + ddecOf g.glog, 3, d.dn.val, false, 8, (decisionValue g g.decisions d).toNat⟩⟩ : Flight)
  let tok := (g.tokens.filter fun k => k.cell == c).map fun (k : Token) =>
    (⟨k.seq, .token k, ⟨k.tick + ddecOf g.glog, 11, 0, false, 8, (Config.freeWord 9 (s.freeCtr + k.tick)).toNat⟩⟩ : Flight)
  let lq := (List.finRange 4).flatMap fun n => (x.q.lq[n].filter fun e => g.tick < e.vis).map fun (e : QEntry) =>
    (⟨e.uid, .row e.uid, ⟨e.vis, 9, n.val, e.tag, 256, e.row.toNat⟩⟩ : Flight)
  (dec ++ tok ++ x.flight.flatMap (captureOf x s.freeCtr) ++ lq).foldl (fun l e => putFlight e l) []

/-- Entries one after another, as one value. -/
def packCapture : List Capture → Nat
  | [] => 0
  | e :: l => e.bits + packCapture l * 2 ^ (128 + 8 * e.size)

/-- The first captured coordinates of a command. -/
def SeCmd.coords (m : SeCmd) : Nat :=
  match m.o0, m.o1, m.o2 with
  | .tensor _ _ c _ _, _, _ | _, .tensor _ _ c _ _, _ | _, _, .tensor _ _ c _ _ => packNat 64 (fun i => (c.get (Fin.ofNat 4 i)).toNat) 4
  | _, _, _ => 0
/-- The nest iteration that a command is in, and the 4 KiB chunks of it that are done, or of all its bytes where its work is not
divided by its nest; of CNTR the entries performed (R162, R164). -/
def seProgress (s : State) (c : CellId) (m : SeCmd) : Nat × Nat :=
  let parts (n : Nat) : Nat × Nat := (m.next / n, m.next % n)
  match m.op with
  | 0x05 => parts (ceilDiv m.target.length 16)
  | 0x06 =>
    let p := parts (256 / s.esize c (match m.o0 with
      | .tensor _ _ _ _ _ => m.o0
      | _ => m.o1))
    (p.1, p.2 / 16)
  | 0x0E | 0x0F => (0, m.next / 16)
  | 0x12 => parts 2
  | 0x13 | 0x15 => (0, 0)
  | 0x14 => (0, m.next)
  | _ => (m.next, 0)
/-- An unissued entry: the record, its coordinates, and its progress. -/
def seEntry (s : State) (c : CellId) (g : GangId) (m : SeCmd) : Nat :=
  let p := seProgress s c m
  ((s.textWord g m.off).map (·.toNat)).getD 0 + m.coords * 2 ^ 512 + p.1 % 2 ^ 64 * 2 ^ 768 + p.2 % 2 ^ 64 * 2 ^ 832

/-- The CC state area (R164, R215, R289). -/
def ccBytes (x : Cell) : Nat :=
  let r := x.cc
  let y := x.q.yq ++ x.q.yRet
  packNat 64 (fun i => (r.g[Fin.ofNat 32 i]).toNat) 32 + packNat 2048 (fun i => (r.b[Fin.ofNat 4 i]).toNat) 4 * 2 ^ (8 * 256)
    + (r.p.toNat + packNat 8 (fun i => (r.d[Fin.ofNat 4 i]).toNat) 4 * 2 ^ 16) * 2 ^ (8 * 1280)
    + packNat 64 (fun i => match i with
      | 0 => r.slipw | 1 => r.spillBase.toNat | 2 => r.spillLen | _ => r.cflags.toNat) 4 * 2 ^ (8 * 1288)
    + packNat 64 (fun i => match x.q.yq[i]? with
      | some e => if e.arrived then e.data.toNat else 0
      | none => 0) 16 * 2 ^ (8 * 1344)
    + (y.length + packNat 1 (fun i => match x.q.yq[i]? with
      | some e => (e.arrived && e.st).toNat
      | none => 0) 16 * 2 ^ 16 + r.gTag.toNat * 2 ^ 32 + packNat 32 (fun i => (r.bTag[Fin.ofNat 4 i]).toNat) 4 * 2 ^ 64) * 2 ^ (8 * 1472)
    + x.se.sestat.toNat * 2 ^ (8 * 1496)

/-- The VE and ME state area (R165). -/
def veMeBytes (x : Cell) (tick : Nat) : Nat :=
  let occ : List Nat := ((List.finRange 4).map fun n => (x.q.lq[n].filter fun e => e.vis ≤ tick).length)
    ++ ((List.finRange 2).map fun n => x.q.sq[n].length) ++ ((List.finRange 2).map fun n => x.q.mq[n].length)
  let win := match x.me.win with
    | some w => 1 + w.passes * 2 ^ 8 + (w.key.tile.toNat + w.key.label.toNat * 2 ^ 16) * 2 ^ 32 + w.ranges.length * 2 ^ 64
    | none => 0
  packNat 64 (fun i => (if i = 0 then BitVec.allOnes 64 else x.ve.k[Fin.ofNat 8 i]).toNat) 8
    + packNat 16 (fun i => (x.ve.z[Fin.ofNat 4 i]).shape.toNat) 4 * 2 ^ (8 * 64)
    + (x.ve.mode.toNat + x.me.mode.toNat * 256) * 2 ^ (8 * 72) + x.ve.flags.toNat * 2 ^ (8 * 80) + x.me.flags.toNat * 2 ^ (8 * 88)
    + packNat 8 (fun i => occ.getD i 0) 8 * 2 ^ (8 * 96) + x.me.metaq.length * 2 ^ (8 * 104) + win * 2 ^ (8 * 112)

/-- The retention record and the window ranges. -/
def retentionBytes (x : Cell) : Nat :=
  packNat 64 (fun i => match x.me.ret[i]? with
    | some o => o.off % 2 ^ 32 + o.exp % 2 ^ 32 * 2 ^ 32
    | none => 0) 64
def rangeBytes (x : Cell) : Nat :=
  packNat 32 (fun i => match (x.me.win.map (·.ranges)).getD [] |>.getD i ⟨0, 0, false, false⟩ with
    | ⟨_, 0, _, _⟩ => 0
    | w => w.row % 2 ^ 15 + (w.n - 1) % 256 * 2 ^ 15 + w.idx.toNat * 2 ^ 23 + w.pair.toNat * 2 ^ 24) 64

/-- A queue's row. -/
def queueRow (x : Cell) (q k : Nat) : Row × Bool :=
  let l := if q < 4 then x.q.lq[Fin.ofNat 4 q] else if q < 6 then x.q.sq[Fin.ofNat 2 (q - 4)] else x.q.mq[Fin.ofNat 2 (q - 6)]
  match l[k]? with
  | some e => (e.row, e.tag)
  | none => (0, false)

/-- What the blocks of a member that are not plain stores are cut from. -/
structure MemberAreas where
  flight : Nat
  se     : Nat
  cc     : Nat
  veMe   : Nat
  ret    : Nat
  ranges : Nat
  deriving DecidableEq, Repr
def memberAreas (s : State) (gid : GangId) (c : CellId) : MemberAreas :=
  let x := s.cell c
  let g := s.gang gid
  { flight := packCapture ((flights s g c x).map (·.cap)), se := packNat 1024 (fun i => match x.se.queue[i]? with
      | some m => seEntry s c gid m
      | none => 0) 64
    cc := ccBytes x, veMe := veMeBytes x g.tick, ret := retentionBytes x, ranges := rangeBytes x }

/-- Block b of a member, with its poison; a clean tile's body stays as the previous save left it (R165, R170). -/
def memberBlock (x : Cell) (a : MemberAreas) (ctr : Nat) (old : Nat → Row) (b : Nat) : Row × Bool :=
  let cut (v k : Nat) : Row := BitVec.ofNat 2048 (v / 2 ^ (2048 * k))
  if b < 24576 then (x.row b, x.rowTag b)
  else if b < 32768 then
    let k := b - 24576
    let slot : Fin 16 := Fin.ofNat 16 (k / 512)
    (rowBlock (x.cr.rowAt slot (k / 4 % 128)) (k % 4), fieldOf (x.cr.tagsAt slot (k / 4 % 128)).toNat (64 * (k % 4)) 64 ≠ 0)
  else if b < 33024 then
    let k := b - 32768
    let l := x.me.bl[Fin.ofNat 2 (k / 128)]
    (cut l.bits.toNat (k % 128), fieldOf l.tags.toNat (256 * (k % 128)) 256 ≠ 0)
  else if b < 33152 then
    let k := b - 33024
    let e := x.me.metaq.getD (k / 32) (0, false)
    (cut e.1.toNat (k % 32), e.2)
  else if b < 33280 then queueRow x ((b - 33152) / 16) ((b - 33152) % 16)
  else if b < 33312 then (x.ve.v[Fin.ofNat 32 (b - 33280)], x.ve.vTag[Fin.ofNat 32 (b - 33280)] != 0)
  else if b < 33328 then
    let z := x.ve.z[Fin.ofNat 4 ((b - 33312) / 4)]
    (if z.shape.getLsbD 10 then cut z.body.toNat ((b - 33312) % 4) else old b, z.tags != 0)
  else if b < 33360 then (cut a.flight (b - 33328), false)
  else if b < 33392 then (cut a.se (b - 33360), false)
  else if b < 33398 then (cut a.cc (b - 33392), false)
  else if b < 33399 then (cut a.veMe 0, false)
  else if b < 33402 then (freeBlock (ctr + 32 * b), false)
  else if b < 33404 then (cut a.ret (b - 33402), false)
  else if b < 33407 then (freeBlock (ctr + 32 * b), false)
  else (cut a.ranges 0, false)

/-- The blocks of all members behind the 256 blocks of the header. -/
def memberRegion (s : State) (gid : GangId) (old : Rows) : List (Nat × Row × Bool) :=
  let g := s.gang gid
  (List.range g.size).flatMap fun m =>
    match g.cellAt m with
    | none => []
    | some c =>
      let a := memberAreas s gid c
      let base := 256 + memberBlocks * m
      (List.range memberBlocks).map fun b => (base + b, memberBlock (s.cell c) a (s.freeCtr + memberBlocks * 32 * m) (fun k => assocGet 0 old (base + k)) b)

/-! ## The gang header (R166) -/

/-- SHA-256 of the kernel binary a gang runs. -/
def binId (s : State) (g : Gang) : Nat :=
  match s.binary g.asid g.ktid g.koff with
  | .ok b => match s.flatNat g.asid g.ktid g.koff b.end_ with
    | some v => sha256 v b.end_
    | none => 0
  | .error _ => 0

/-- The node of a gang's tile task. -/
def State.nodeAt (s : State) (graph node : Nat) : Option Node := (s.graphs.find? fun x => decide (x.handle = graph)).bind fun x => x.nodes[node]?

/-- Header bytes 0 to 639; a task that no graph of this device knows keeps its instance from the header it came with. -/
def headerNat (s : State) (g : Gang) (prev : Nat) (segid : BitVec 16) (crcs : List Nat) : Nat :=
  let inst := match s.nodeAt g.graph g.node with
    | some n => g.inst % n.n0 + g.inst / n.n0 % n.n1 * 2 ^ 16 + g.inst / (n.n0 * n.n1) * 2 ^ 32
    | none => fieldOf prev (8 * 88) 48
  0x00004D49344C4F43 + 1 * 2 ^ 64 + g.encgen * 2 ^ 80 + g.glog * 2 ^ 88 + spanOf g.glog * 2 ^ 96 + g.variant % 256 * 2 ^ 104
    + g.asid.toNat * 2 ^ 128 + binId s g * 2 ^ (8 * 24) + g.tick % 2 ^ 64 * 2 ^ (8 * 56) + segid.toNat * 2 ^ (8 * 64)
    + s.signature.toNat * 2 ^ (8 * 72) + g.node % 65536 * 2 ^ (8 * 80) + inst * 2 ^ (8 * 88) + g.savecnt * 2 ^ (8 * 96)
    + packNat 32 (fun i => crcs.getD i 0) 128 * 2 ^ (8 * 128)

/-- Data bytes of a stripe in the current layout (R91). -/
def State.stripeBytes (s : State) : Nat := if s.layout.mode = 2 then 20480 else 22528
/-- The blocks of the stripes of a region that hold header bytes (R163). -/
def State.headBlocks (s : State) : Nat := ceilDiv 65536 s.stripeBytes * s.stripeBytes / 256

/-- The region as the save writes it before its commit record: header blocks with the checksums, members, and the poison marks. The
padding of its last stripe is zeros. -/
def regionOf (s : State) (gid : GangId) (old : Rows) : Rows × Marks :=
  let g := s.gang gid
  let l := memberRegion s gid old
  let members : Rows := (l.filter fun e => decide (e.2.1 ≠ 0)).map fun e => (e.1, e.2.1)
  let segid := match g.cellAt 0 with
    | some c => (s.cell c).sq.segid
    | none => 0
  let h := headerNat s g (assocGet 0 old 0).toNat segid ((List.range g.size).map (memberCrc members))
  let hd : Rows := ((List.range 3).map fun k => (k, BitVec.ofNat 2048 (h / 2 ^ (2048 * k)))).filter fun e => decide (e.2 ≠ 0)
  (hd ++ members, (l.filter (·.2.2)).map (·.1))

/-- Does the header of a region fail a check of R166 on its fields? -/
def fieldsBad (r : Rows) : Bool :=
  let h := packNat 2048 (fun k => (assocGet 0 r k).toNat) 3
  let f (o n : Nat) := fieldOf h (8 * o) (8 * n)
  f 0 8 ≠ 0x00004D49344C4F43 || f 8 2 ≠ 1 || f 10 1 < 2 || 4 < f 10 1 || 7 < f 11 1 || f 12 1 ≠ spanOf (f 11 1) || f 14 2 ≠ 0 || f 18 6 ≠ 0
    || f 66 6 ≠ 0 || f 82 6 ≠ 0 || f 94 2 ≠ 0 || f 104 24 ≠ 0 || f 640 128 ≠ 0 || (r.any fun e => decide (3 ≤ e.1 ∧ e.1 < 255 ∧ e.2 ≠ 0))
/-- Is the commit record of a region absent or inconsistent with its header (R166)? -/
def commitBad (r : Rows) : Bool :=
  let last := (assocGet 0 r 255).toNat
  decide (last ≠ (0x0054494D4D4F43 + headerCrc r * 2 ^ 64 + fieldOf (assocGet 0 r 0).toNat (8 * 96) 64 * 2 ^ 128) * 2 ^ (8 * 192))
/-- Does the header of a region fail a check of R166, or is its commit record absent or inconsistent with it? -/
def headerBad (r : Rows) : Bool := fieldsBad r || commitBad r

end Sys2Proof.Machine
end

