-- ==== Sys2Proof/Machine/Saves.lean ====
section
/-! DEFINITION. Saving a gang and bringing it back: the request (R161, R167), the stop (R162), the image's writing and its commit
record (R163, R388, R389), traffic for saved contexts (R168), resumption (R169, R170, R390), and what system software does
with a saved task (R152, R390–R392). -/

namespace Sys2Proof.Machine

/-! ## The request (R161, R167) -/

/-- The pre-emption freeze request at the gang's next tick; a request during a save is satisfied by
that save, whose first cause stands and says where the task goes (R152, R167, log entry 113). -/
def State.requestSave (g : GangId) (why : SaveCause) (s : State) : State :=
  let x := s.gang g
  if (x.status = .running || x.status = .ending) && x.saveFor.isNone then
    (if x.frozen then s.saveHere g why
     else s.modGang g fun y => { y with saveFor := some why, reqs := y.reqs ++ [⟨y.tick + 1 + y.dstall, .preempt⟩] })
  else s
/-- SAVE_REQUEST (R161). -/
def execSaveRequest (g : GangId) (why : SaveCause) (s : State) : Res := .next (s.requestSave g why)

/-! ## The stop (R162) -/

/-- The remaining rows of a pass are read now. -/
def finishPass (c : CellId) (uid : Nat) : Nat → State → State
  | 0, s => s
  | n + 1, s =>
    match (s.cell c).me.ops.find? fun o => decide (o.uid = uid) with
    | none => s
    | some o =>
      if o.next < 128 then finishPass c uid n (meStep c o ((o.reads o.next).map fun r => s.visible c .mp (.sp c r)) s) else s
/-- Every pass issued before the stop completes into Crema. -/
def finishPasses (c : CellId) (s : State) : State :=
  let t := ((s.cell c).me.ops.filter fun o => 5 ≤ o.op && o.op ≤ 10).foldl (fun u (o : MeOp) => finishPass c o.uid 128 u) s
  t.modCell c fun x => (List.finRange 16).foldl (fun y k => y.settle k none t.uid) x

/-- Does what a command has read stay with it through a save: the counters that a snapshot has cleared, and what PGDUP and PGMIG keep
of their own progress? -/
def SeCmd.keepsData (m : SeCmd) : Bool := m.op = 0x15 || m.op = 0x22 || m.op = 0x23
/-- Commands that have begun become unissued entries with their progress; they read their inputs again on resume, and a message whose
rows were being read begins anew. -/
def SeCmd.unissue (m : SeCmd) : SeCmd :=
  if m.phase = .running then
    { m with
      phase := .queued
      got := []
      stepped := false
      data := if m.keepsData then m.data else []
      next := if m.op = 0x16 then 0 else m.next }
  else m
def Cell.unissue (x : Cell) : Cell := { x with se := { x.se with queue := x.se.queue.map SeCmd.unissue } }

/-- A write on its way to a stopped cell goes to that cell's place in the image (R168). -/
def FWrite.toImage (g : Gang) (id : Nat) (w : FWrite) : FWrite :=
  match w.loc with
  | .sp c r => if g.cells.contains c && (w.src.isSome || !g.cells.contains w.cell) then { w with loc := .img id (g.member c) r } else w
  | _ => w

/-- The bytes of a region, a whole number of stripes (R163). -/
def State.regionBytes (s : State) (members : Nat) : Nat :=
  ceilDiv (65536 + members * (256 * memberBlocks)) s.stripeBytes * s.stripeBytes
/-- A region within the first frames of device memory, aligned to a stripe, where firmware chooses (R12, R163, log entry 2). -/
def State.freshRegion (s : State) (frames members : Nat) : Nat × State :=
  let (w, t) := s.free 6
  let last := (frames * 65536 - s.regionBytes members) / s.stripeBytes
  (s.stripeBytes * (w.toNat % (last + 1)), t)

/-- The image entry of a save: the region the task was resumed from, or one reserved at its dispatch (R170, R389). -/
def State.openImage (s : State) (x : Gang) : State × Nat :=
  match s.images.find? fun i => decide (i.id = x.image) with
  | some i =>
    let j : Image := { i with
      gang := x
      active := true
      committed := false
      hostHeld := false
      refused := false
      lost := false
      foreign := false
      chans := [] }
    ({ s with images := s.images.map fun (k : Image) => if k.id = i.id then j else k }, i.id)
  | none =>
    let (a, t) := s.freshRegion s.frames x.size
    let j : Image := { id := t.uid, region := a, gang := x, members := [], blocks := [], marks := [], later := [], laterMarks := [],
                       active := true, committed := false, pinned := false, hostHeld := false, refused := false, lost := false, foreign := false, chans := [] }
    ({ t with images := t.images ++ [j], uid := t.uid + 1 }, t.uid)

/-- May the stop of a save proceed: the gang stands at it, no fault awaits its disposition, no replay its end? -/
def State.stopDue (s : State) (g : GangId) : Bool :=
  let x := s.gang g
  x.frozen && (x.status = .running || x.status = .ending) && x.saveFor.isSome && x.killSeq.isNone &&
    (x.dueReqs.any fun r => r.cond = .preempt) && (x.dueFaults.all fun p => p.written) &&
    x.cells.all fun c => !(s.cell c).me.win.any fun w => w.failed = 1

/-- PREEMPTION_STOP (R162): passes complete, commands stop at chunk ends, and traffic for the cells turns to the image. -/
def execPreemptionStop (g : GangId) (s : State) : Res :=
  .next (if s.stopDue g then
    let x := s.gang g
    let t := x.cells.foldl (fun u c => ((stopStream c (finishPasses c u)).modCell c (·.unissue))) s
    let y := { t.gang g with
      reqs := (t.gang g).reqs.filter fun (r : Req) => decide (r.cond ≠ .preempt)
      savecnt := x.savecnt + 1 }
    let (u, id) := t.openImage y
    { u.modGang g (fun (z : Gang) => { z with status := .saving 1, image := id, reqs := y.reqs, savecnt := y.savecnt }) with
      fabric := u.fabric.map (FWrite.toImage x id)
      chans := u.chans.map fun (h : Chan) => if h.gang = g ∧ h.img = none then { h with img := some id } else h }
  else s)

/-! ## Write-out (R144, R163) -/

/-- A write that waits for another image's commit record is held there, and no longer in the cell's fabric (R168). -/
def State.heldAtImage (s : State) (w : FWrite) : Bool :=
  match w.loc with
  | .img id _ _ => s.images.any fun i => i.id = id && !i.committed
  | _ => false
/-- An operation of YP that could be performed now; a claim round needs the part of every member. -/
def State.ypOpen (s : State) (g : GangId) (c : CellId) (o : YOp) : Bool :=
  match o.kind with
  | .yclm _ _ _ _ _ => (s.roundParts g o.tick).isSome
  | _ => s.ypReady c o
/-- Could anything of a stopped cell still be performed? What waits for a stopped command, for another image or for another
member goes with the context (R144). -/
def State.quietCell (s : State) (g : GangId) (c : CellId) : Bool :=
  let x := s.cell c
  x.ord.loads.isEmpty && x.ord.stores.isEmpty && !(x.ord.yp.any (s.ypOpen g c)) && (x.ord.holds.all fun h => s.holds c h) &&
    !(s.moved.any fun m => decide (m.1 = c)) && !(s.fabric.any fun w => decide (w.cell = c) && w.src.isNone && !s.heldAtImage w) &&
    !(s.outFrames.any fun f => decide (f.cell = c) && f.own && f.reply.isNone) &&
    x.se.queue.all fun m => !s.cmdDone c m && !(m.out.head?.any fun o => o.1.all s.writeDone)

/-- A saved tile is clean: DIRTY is cleared once its body is written (R55). -/
def Cell.cleanTiles (x : Cell) : Cell :=
  { x with ve := { x.ve with z := x.ve.z.map fun (z : Tile) => { z with shape := z.shape &&& 0xFBFF } } }

/-- The first step of the writing: the stripes that hold no header byte, full-stripe writes that need no delta. -/
def State.writeMembers (s : State) (g : GangId) (i : Image) : State :=
  let x := s.gang g
  let r := regionOf s g i.blocks
  let n := s.headBlocks
  let ms := (List.range x.size).map fun m => match x.cellAt m with
    | some c => (s.cell c).cleanTiles
    | none => Cell.reset
  let j : Image := { i with
    members := ms
    blocks := r.1.filter fun e => decide (n ≤ e.1)
    marks := r.2.filter fun b => decide (n ≤ b)
    later := r.1.filter fun e => decide (e.1 < n)
    laterMarks := r.2.filter fun b => decide (b < n)
    gang := { i.gang with faults := x.faults, reqs := x.reqs, decisions := x.decisions, tokens := x.tokens } }
  { s.modGang g fun (z : Gang) => { z with status := .saving 2 } with
    images := s.images.map fun (k : Image) => if k.id = i.id then j else k
    freeCtr := s.freeCtr + 64 * memberBlocks * x.size }
/-- The second step: the stripes of the header, the commit record's bytes zero. -/
def State.writeHeader (s : State) (g : GangId) (i : Image) : State :=
  let j : Image := { i with
    blocks := i.later ++ i.blocks
    marks := i.laterMarks ++ i.marks
    later := []
    laterMarks := [] }
  { s.modGang g fun (z : Gang) => { z with status := .saving 3 } with
    images := s.images.map fun (k : Image) => if k.id = i.id then j else k }
/-- IMAGE_WRITEOUT (R163): once the buffers have drained, the members and then the header are written to the region. -/
def execImageWriteout (g : GangId) (s : State) : Res :=
  let x := s.gang g
  .next <| match x.status, s.images.find? fun i => decide (i.id = x.image) with
    | .saving 1, some i => if x.cells.all (s.quietCell g) then s.writeMembers g i else s
    | .saving 2, some i => s.writeHeader g i
    | _, _ => s

/-! ## The commit record (R163, R388, R389) -/

/-- The first poisoned block of the areas that firmware reads back: the header, and each member's state areas (R389). -/
def badControl (r : Marks) : Option Nat :=
  r.find? fun b => decide (b < 256) || decide (33328 ≤ (b - 256) % memberBlocks)
/-- The record of a failed save (R387). -/
def saveFailed (x : Gang) (cause member addr : Nat) : ErrRec :=
  { cls := 0x36, sev := 2, unit := 11, asid := some x.asid, disp := 4, tick := x.tick, addr := addr % 2 ^ 40, synd := cause + member % 128 * 4 }

/-- Put an entry at the head of a queue's ready list. -/
def State.readyHead (s : State) (q : Fin 64) (r : Ready) : State :=
  { s with queues := s.queues.set q { s.queues[q] with ready := r :: s.queues[q].ready } }
def State.modImage (s : State) (id : Nat) (f : Image → Image) : State :=
  { s with images := s.images.map fun i => if i.id = id then f i else i }
/-- An image is discarded, with its bindings (R346, R388). -/
def State.discardImage (s : State) (id : Nat) : State :=
  { s with
    images := s.images.filter fun (i : Image) => decide (i.id ≠ id)
    chans := s.chans.filter fun (h : Chan) => decide (h.img ≠ some id)
    fabric := s.fabric.filter fun (w : FWrite) => match w.loc with
      | .img k _ _ => decide (k ≠ id)
      | _ => true
    queues := s.queues.map fun (q : SQueue) => { q with ready := q.ready.filter fun (r : Ready) => decide (r ≠ .saved id) } }

/-- Where a saved task goes by the cause of its save (R152, R398). -/
def State.filed (s : State) (x : Gang) (id : Nat) : State :=
  match x.saveFor with
  | some .host => s.modImage id fun i => { i with hostHeld := true }
  | some .emergency => s
  | _ => s.readyHead x.queue (.saved id)

/-- The block of a region that holds the commit record. -/
def Image.commitBlock (i : Image) : Nat := i.region / 256 + 255
/-- The commit record is written as a partial write, whose delta protects it. -/
def State.writeCommit (s : State) (g : GangId) (i : Image) : State :=
  ((s.modGang g fun z => { z with status := .saving 4 }).modImage i.id fun j =>
    { j with blocks := commitRegion j.blocks (s.gang g).savecnt }).engineDelta i.commitBlock
/-- The end of a save whose commit record is protected: the image stands, unless a peer was lost or the context is to be killed
(R15, R388). -/
def State.endSave (s : State) (g : GangId) (i : Image) : State :=
  let x := s.gang g
  if i.lost then
    let t := s.writeRecord (saveFailed x 1 127 i.region)
    (t.discardImage i.id).killGang g s.logSeq
  else match x.killSeq with
    | some n => (s.discardImage i.id).killGang g n
    | none => ((s.modImage i.id fun j => { j with committed := true }).freeGang g).filed x i.id
/-- COMMIT_RECORD (R163, R389): firmware reads the control areas back; a poisoned block there suppresses the commit record and kills
the context, else the record is written, and once it is protected the cells are free. -/
def execCommitRecord (g : GangId) (s : State) : Res :=
  let x := s.gang g
  .next <| match x.status, s.images.find? fun i => decide (i.id = x.image) with
    | .saving 3, some i => (match badControl i.marks with
      | some b =>
        let t := s.writeRecord (saveFailed x 0 (if b < 256 then 127 else (b - 256) / memberBlocks) (i.region + 256 * b))
        (t.discardImage i.id).killGang g s.logSeq
      | none => s.writeCommit g i)
    | .saving 4, some i => if s.deltas.any fun d => decide (d.blk = i.commitBlock) then s else s.endSave g i
    | _, _ => s

/-! ## Traffic for saved contexts (R168) -/

/-- INBOUND_TO_IMAGE (R168): the oldest write held for an image is performed into it once its commit record stands. -/
def execInboundToImage (img : Nat) (s : State) : Res :=
  .next <| match s.fabric.find? fun w => match w.loc with
      | .img id _ _ => decide (id = img)
      | _ => false with
    | none => s
    | some w => s.tryWrite w

/-! ## Resumption (R169, R170, R364, R390–R392) -/

/-- The codes of a refused resumption besides those of R146. -/
def badImage : Nat := 6

/-- Range entries of a member's window area (R165). -/
def badRange (v : Nat) : Bool :=
  let f := fieldOf v
  24576 ≤ f 0 15 || 24576 ≤ f 0 15 + f 15 8 || (f 24 1 = 1 && f 23 1 = 0) || f 25 7 ≠ 0
def badRanges (r : Rows) (members : Nat) : Bool :=
  (List.range members).any fun m =>
    let b := (assocGet 0 r (256 + memberBlocks * m + 33407)).toNat
    (List.range 64).any fun k => badRange (fieldOf b (32 * k) 32)

/-- The flight capture's entries: a kind beyond 11 or a reserved bit makes the image bad (R165). -/
def badCapture : Nat → Nat → Bool
  | 0, _ => false
  | fuel + 1, v =>
    let w := fieldOf v 64 64
    let k := w % 16
    if k = 0 then false
    else if 12 ≤ k || w / 2 ^ 20 ≠ 0 then true
    else badCapture fuel (v / 2 ^ (if k = 4 || k = 5 || k = 7 || k = 8 || k = 9 then 128 + 2048 else 192))
def badFlight (r : Rows) (members : Nat) : Bool :=
  (List.range members).any fun m =>
    badCapture 512 (packNat 2048 (fun i => (assocGet 0 r (256 + memberBlocks * m + 33328 + i)).toNat) 32)

/-- A member whose bytes do not have the checksum of the header; an image of this device has it by construction (R166). -/
def badChecksum (r : Rows) (members : Nat) : Bool :=
  (List.range members).any fun m =>
    decide (memberCrc r m ≠ fieldOf (assocGet 0 r ((128 + 4 * m) / 256)).toNat (8 * ((128 + 4 * m) % 256)) 32)

/-- The binary's digest in the header. -/
def headerBin (r : Rows) : Nat := fieldOf (assocGet 0 r 0).toNat (8 * 24) 256

/-- Why a resumption is refused, or the variant it takes (R169, R391). -/
def State.resumeCheck (s : State) (i : Image) : Except Nat (Nat × Variant) :=
  let x := i.gang
  if headerBad i.blocks || (badControl i.marks).isSome || badRanges i.blocks x.size || badFlight i.blocks x.size || (i.foreign && badChecksum i.blocks x.size) then
    .error badImage
  else match s.binary x.asid x.ktid x.koff with
    | .error .badGen => .error Refused.badGen.code
    | .error _ => .error badImage
    | .ok b =>
      if headerBin i.blocks ≠ binId s x then .error badImage
      else match s.variant b with
        | none => .error Refused.noVariant.code
        | some v => if !s.variantsAgree b then .error Refused.badNode.code
          else if s.queueRefuses x.queue x.asid then .error Refused.noQueue.code
          else if i.chans.any fun (h : Chan) => s.chans.any fun (k : Chan) => k.n == h.n then .error Refused.chanBusy.code
          else .ok v

/-- A condition whose cell has moved. -/
def Cond.mapCell (f : CellId → CellId) : Cond → Cond
  | .ringFilled c l m => .ringFilled (f c) l m
  | .ringFree c l m => .ringFree (f c) l m
  | .stage c l e o b => .stage (f c) l e o b
  | .arrival c a g => .arrival (f c) a g
  | .phase a n v => .phase a n v
  | .phaw c u => .phaw (f c) u
  | .yq c => .yq (f c)
  | .metadata c => .metadata (f c)
  | .translation c t o w => .translation (f c) t o w
  | .text c o => .text (f c) o
  | .crema c k => .crema (f c) k
  | .spill c k => .spill (f c) k
  | .scratchFill c k r b => .scratchFill (f c) k r b
  | .parkMove c => .parkMove (f c)
  | .replay c => .replay (f c)
  | .seSpace c n => .seSpace (f c) n
  | .drained c b => .drained (f c) b
  | .debug => .debug
  | .preempt => .preempt
  | .time t => .time t
  | .fault i => .fault i
  | .crds c u => .crds (f c) u
  | .command c u => .command (f c) u
  | .kill n => .kill n

/-- A saved gang as it stands on new cells: stopped at S with its unmet conditions; the debug stop stays only while a session
owns the gang (R161, R193). -/
def Gang.moveTo (old new : Gang) (f : CellId → CellId) (img : Nat) (v : Nat × Variant) (owned : Bool) (wall : Nat) : Gang :=
  { old with
    cells := new.cells
    queue := new.queue
    quantum := new.quantum
    startAt := new.startAt
    begun := wall
    started := new.started
    seq := new.seq
    variant := v.1
    toff := v.2.toff
    tlen := v.2.tlen
    image := img
    saveFor := none
    frozen := true
    frozenAt := wall
    owner := if owned then old.owner else none
    reqs := (old.reqs.filter fun (r : Req) => owned || decide (r.cond ≠ .debug)).map fun (r : Req) => { r with cond := r.cond.mapCell f }
    decisions := old.decisions.map fun (d : Decision) => { d with cell := f d.cell }
    tokens := old.tokens.map fun (k : Token) => { k with cell := f k.cell }
    faults := old.faults.map fun (p : PFault) => { p with cell := f p.cell, again := true } }

/-- A member restored on a cell: the retention buffer empty, the window's base the image (R364). -/
def Cell.restoreOn (x : Cell) (g : GangId) (last : Option (BitVec 10)) (img : Nat) : Cell :=
  { x with
    gang := g
    busy := true
    lastAsid := last
    text := []
    inval := []
    me := { x.me with ret := [], win := x.me.win.map fun (w : Window) => { w with base := some img } } }

/-- A pinned region is copied into a fresh one, which the task then owns (R170, R392). -/
def State.ownRegion (s : State) (i : Image) : State × Nat :=
  if i.pinned then
    let (a, t) := s.freshRegion s.frames i.gang.size
    let j : Image := { i with id := t.uid, region := a, pinned := false }
    ({ t with images := t.images ++ [j], uid := t.uid + 1 }, t.uid)
  else (s, i.id)

/-- The gang that the dispatcher has placed for an image. -/
def State.placedFor (s : State) (img : Nat) : Option GangId :=
  (List.finRange 128).find? fun g => (s.gang g).status = .starting && (s.gang g).image = img

/-- A frame of one of an image's commands. -/
def Image.sent (i : Image) (h : OutFrame) : Bool := i.members.any fun x => x.se.queue.any fun m => m.uid = h.cmd

/-- Restore every member of an image on the cells of a placed gang, and bind the channels an imported image brings (R391). -/
def State.restore (s : State) (g : GangId) (i : Image) (v : Nat × Variant) : State :=
  let new := s.gang g
  let old := i.gang
  let f (c : CellId) : CellId := if old.cells.contains c then (new.cellAt (old.member c)).getD c else c
  let (t, id) := s.ownRegion i
  let owned := old.owner.any fun o => s.sessions.any fun (e : Session) => decide (e.id = o)
  let put (u : State) (m : Nat × Cell) : State := match new.cellAt m.1 with
    | some c => u.setCell c (m.2.restoreOn g (s.cell c).lastAsid id)
    | none => u
  let u := (i.members.zipIdx.map fun m => (m.2, m.1)).foldl put t
  { u.setGang g (old.moveTo new f id v owned s.wall) with
    images := (u.images.map fun (j : Image) => if j.id = id then { j with active := false, foreign := false, chans := [] }
      else if j.id = i.id then { j with active := false } else j)
    chans := (u.chans.map fun (h : Chan) => if h.img = some i.id then { h with cell := f h.cell, gang := g, img := none } else h) ++
      i.chans.map fun (h : Chan) => { h with cell := f h.cell, gang := g, img := none }
    outFrames := u.outFrames.map fun (h : OutFrame) => if !i.foreign ∧ h.cell ∈ old.cells ∧ i.sent h = true then { h with cell := f h.cell } else h
    phasers := u.phasers.map fun (p : Phaser) =>
      if !i.foreign ∧ p.asid = old.asid then { p with parties := p.parties.map fun (q : CellId × Bool) => (f q.1, q.2) } else p }

/-- Do writes that arrived for an image still wait to be performed into it (R168)? -/
def State.imageBusy (s : State) (img : Nat) : Bool := s.fabric.any fun w => match w.loc with
  | .img id _ _ => decide (id = img)
  | _ => false
/-- RESUME (R169): the image on its placed cells is checked and restored at S once every write that arrived for it has been performed,
or refused and left unchanged. -/
def execResume (img : Nat) (s : State) : Res :=
  .next <| match s.placedFor img, s.images.find? fun i => decide (i.id = img) with
    | some g, some i =>
      if !i.committed || s.imageBusy img || !s.rampAllows (s.gang g).cells ((s.gang g).avg * (s.gang g).size) then s
      else match s.resumeCheck i with
        | .error k =>
          ((s.freeGang g).modImage img fun j => { j with refused := true }).emit (.refusedTask img i.gang.graph i.gang.node i.gang.inst k)
        | .ok v =>
          let t := s.noteLoad
          { t with power := { t.power with
            ballast := t.power.ballast.filter fun (b : CellId × Nat × Nat) => !(s.gang g).cells.contains b.1 } }.restore g i v
    | _, _ => s

/-! ## System software and saved tasks (R152, R390–R392, R398) -/

def State.image (s : State) (img : Nat) : Option Image := s.images.find? fun i => decide (i.id = img)

/-- The order of the emergency export: class, ASID, node, instance (R398). -/
def State.exportKey (s : State) (i : Image) : List Nat :=
  [if i.gang.saveFor = some .emergency then 0 else 1, 3 - s.queues[i.gang.queue].cls, i.gang.asid.toNat, i.gang.node, i.gang.inst]
def keyLt : List Nat → List Nat → Bool
  | a :: l, b :: m => a < b || (a = b && keyLt l m)
  | _, _ => false
/-- May an image be exported now? In an emergency every gang has stopped, and none comes before it unless firmware chooses
the order (R398). -/
def State.exportTurn (s : State) (i : Image) : Bool :=
  !s.emergency || (s.saveTarget && !(s.gangs.any fun g => g.holdsCells) &&
    (fieldOf s.funcmode.toNat 12 2 ≠ 0 || !(s.images.any fun j => j.committed && j.active && keyLt (s.exportKey j) (s.exportKey i))))
/-- The emergency save ends with the device halted once every image is committed at the target, or, without a target, once
every gang has stopped (R398). -/
def State.emergencyEnd (s : State) : State :=
  if s.emergency && !(s.gangs.any fun g => g.holdsCells) && (!s.saveTarget || !(s.images.any fun i => i.committed && i.active)) then s.halt else s

/-- EXPORT_IMAGE (R390, R391): the image leaves, its commit record last; its channels are unbound here. -/
def execExportImage (img : Nat) (s : State) : Res :=
  .next <| match s.image img with
    | some i =>
      if i.committed && i.active && (s.placedFor img).isNone && s.exportTurn i then
        let t := s.emit (.imageSent img true)
        let u := if i.pinned then
            { t.modImage img (fun (j : Image) => { j with active := false }) with
              chans := t.chans.filter fun (h : Chan) => decide (h.img ≠ some img)
              queues := t.queues.map fun (q : SQueue) => { q with ready := q.ready.filter fun (r : Ready) => decide (r ≠ .saved img) } }
          else t.discardImage img
        u.emergencyEnd
      else s
    | none => s

/-- Is the device up: booted, powered, not halted (R188, R345)? -/
def State.up (s : State) : Bool := s.powered && decide (s.stage = 7) && !s.bootHalt && !s.halted
/-- The reference of a context to itself under the number of its task here; another context is not on this device (R293, log entry
86). -/
def Gang.ownRef (old : Gang) (graph : Nat) (t : Option TaskRef) : Option TaskRef :=
  (t.filter (·.runs old)).map fun (r : TaskRef) => { r with graph := graph }
/-- A member of an imported image, with the references of its commands. -/
def Cell.reref (x : Cell) (old : Gang) (graph : Nat) : Cell :=
  { x with
    se := { x.se with queue := x.se.queue.map fun (m : SeCmd) => { m with target := m.target.map fun t => (t.1, old.ownRef graph t.2) } }
    ord := { x.ord with yp := x.ord.yp.map fun (o : YOp) => match o.kind with
      | .xtail d t loc n => { o with kind := .xtail d (old.ownRef graph t) loc n }
      | _ => o } }
/-- An image that another device exported is stored in a region of this device and waits for system software; it belongs to no
graph of this device (R170, R390, log entry 86). -/
def takeImport (s : State) : Res :=
  .next <| match s.imports with
  | [] => s
  | m :: rest =>
    let t := { s with imports := rest }
    let i := m.image
    if !s.up || !i.committed || !(i.members.all fun x => assocWf 0 x.sp && assocWf 0 x.cr.rows) || m.base < s.uid || m.top < m.base
      || i.members.length ≠ i.gang.size then t
    else
      let (a, u) := t.freshRegion t.frames i.members.length
      let j : Image := { i with
        id := m.top
        region := a
        members := i.members.map fun x => x.reref i.gang m.top
        gang := { i.gang with graph := m.top, image := m.top, owner := none, saveFor := none }
        active := true
        pinned := false
        hostHeld := true
        refused := false
        lost := false
        foreign := true }
      { u with images := u.images ++ [j], uid := m.top + 1 }

/-- RETURN_TASK (R152, R392): a held task, or a pinned image once more, joins the head of its queue's ready list. -/
def execReturnTask (img : Nat) (s : State) : Res :=
  .next <| match s.image img with
    | some i =>
      if i.committed && (i.hostHeld || (i.pinned && !i.active)) then
        (s.modImage img fun j => { j with hostHeld := false, active := true }).readyHead i.gang.queue (.saved img)
      else s
    | none => s

/-- A saved context is killed: its faults that await their record have it, its image is discarded, and the host is told (R345, R346, R390). -/
def State.killImage (s : State) (i : Image) (seq : Nat) : State :=
  let t := i.gang.faults.foldl (fun (u : State) p =>
    if p.written then u else u.writeRecord { s.faultRec p 2 4 with asid := some i.gang.asid }) s
  (t.discardImage i.id).emit (.killedTask i.gang.graph i.gang.node seq)
/-- KILL_TASK (R210, R390): a held or refused task is killed and its image discarded; or an instance that was refused at its launch is
killed. -/
def execKillTask (img : Nat) (s : State) : Res :=
  .next <| match s.image img, s.refused.find? fun r => decide (r.id = img) with
    | some i, _ =>
      if i.active && (i.hostHeld || i.refused) then s.killImage i s.logSeq else s
    | none, some r => { s with refused := s.refused.filter fun x => decide (x.id ≠ img) }.emit (.killedTask r.graph r.node s.logSeq)
    | none, none => s

/-- PIN_REGION (R392): the region is kept. -/
def execPinRegion (img : Nat) (s : State) : Res := .next (s.modImage img fun i => { i with pinned := true })

end Sys2Proof.Machine
end

