-- ==== Sys2Proof/Machine/Sched.lean ====
section
/-! DEFINITION. The task-graph scheduler and the dispatcher (R145–R160): completion of tile tasks and nodes, the dispatch loop,
quanta, the start of a tile task with its initialisation table (R17, R210), and the registers of the scheduler and the power
manager (R149, R155, R182, R187, R191). -/

namespace Sys2Proof.Machine

/-! ## Completion (R32, R148) -/

def State.modNode (s : State) (h i : Nat) (f : Node → Node) : State :=
  { s with graphs := s.graphs.map fun x => if x.handle = h then { x with nodes := x.nodes.modify i f } else x }

/-- Has everything of a cell that ended its text landed and been performed? -/
def Cell.finished (x : Cell) : Bool :=
  x.flight.isEmpty && x.me.ops.isEmpty && x.ord.loads.isEmpty && x.ord.stores.isEmpty && x.ord.yp.isEmpty && x.se.queue.isEmpty
/-- May a tile task complete: its results have landed and no fault is pending? -/
def State.taskDone (s : State) (g : GangId) : Bool :=
  let x := s.gang g
  x.status = .ending && !x.frozen && x.decisions.isEmpty && x.tokens.isEmpty && x.faults.isEmpty && x.killSeq.isNone &&
    !(s.moved.any fun m => x.cells.contains m.1) && x.cells.all fun c => (s.cell c).finished && (s.cell c).running.isEmpty

/-- TILE_TASK_COMPLETE (R32): the instance is counted, its cells are free, and after the last one the node completes. -/
def execTileTaskComplete (g : GangId) (s : State) : Res :=
  let x := s.gang g
  .next (if s.taskDone g then
    let count (n : Node) : Node :=
      { n with doneCount := n.doneCount + 1, completing := decide (n.doneCount + 1 = n.total), mark := s.uid }
    let t := (s.modNode x.graph x.node count).dropImage x.image
    { t with chans := t.chans.filter fun (h : Chan) => decide (h.gang ≠ g) || h.img.isSome }.freeGang g
  else s)

/-- Is the release of a node complete: every write numbered below its mark performed and protected (R148)? -/
def State.released (s : State) (n : Node) : Bool :=
  !(s.fabric.any fun w => decide (w.uid < n.mark)) && !(s.deltas.any fun d => decide (d.uid < n.mark)) &&
    !(s.outFrames.any fun f => decide (f.fid < n.mark) && f.reply.isNone)

/-- The page and offset of a completion arrival word, here or on a peer; else why the update cannot be made (R148). -/
def State.countPlace (s : State) (asid : BitVec 10) (n : Node) : Except Nat (Page × Nat) :=
  match s.desc asid n.awtid with
  | .error x => .error x.cause
  | .ok d =>
    if !d.flat then .error 12
    else if d.dims.headD 0 ≤ n.awoff + 15 then .error 10
    else match s.page asid n.awtid d true (n.awoff / 65536) with
      | .error x => .error x.cause
      | .ok p => .ok (p, n.awoff % 65536)

/-- Bytes are added to an arrival word in device memory, at its home sync engine (R64, R94); a word with reserved bits, armed
with TARGET 0, or poisoned is left as it is. -/
def State.countAt (s : State) (die : Fin 2) (a b : Nat) : Except Nat State :=
  let t := s.takeLine die a
  let r := t.lineRead a 16
  if r.2 then .error 14
  else match parseArrival r.1 with
    | .error k => .error k
    | .ok w => if w.armed && w.target = 0 then .error 12 else .ok (t.lineWrite a 16 (w.add b).bits false)

/-- Is a peer reachable? -/
def State.peerUp (s : State) (dev : BitVec 12) : Bool := s.peers.any fun p => p.dev == dev && p.valid && !p.down

/-- The arrival update of a node's completion: made, or dropped with an AWFAIL event; sent to a peer, with its frame's number; none
where it waits for a collapse. -/
def State.nodeCount (s : State) (h : Graph) (i : Nat) (n : Node) : Option (State × Option Nat) :=
  if !n.awen then some (s, none)
  else
    let fail (k : Nat) : Option (State × Option Nat) := some (s.emit (.awfail h.handle i k), none)
    match s.countPlace h.asid n with
    | .error k => fail k
    | .ok (p, o) =>
      if p.dev != s.selfdev then
        (if s.peerUp p.dev then
          let e := s.peer p.dev
          let f : OutFrame :=
            { fid := s.uid, dev := p.dev, cell := 0, cmd := 0, asid := h.asid, body := .update (p.addr o) n.awadd h.handle i, sends := 1,
              wait := s.wall + usCycles 50, reply := none, held := false, path := .np, scope := 4, own := false, ip := e.ip, port := e.port,
              sub := e.sub }
          some ({ s with outFrames := s.outFrames ++ [f], uid := s.uid + 1 }.emit (.frame f), some s.uid)
        else fail 3)
      else if s.frameHeld p.frame then none
      else match s.countAt (Fin.ofNat 2 p.die) (p.addr o) n.awadd with
        | .error k => fail k
        | .ok t => some (t, none)

/-- One successor entry: the in-degree falls, and at 0 the node becomes ready. -/
def State.succStep (h : Nat) (s : State) (j : Nat) : State :=
  let t := s.modNode h j fun n => { n with indeg := n.indeg - 1 }
  match t.nodeAt h j with
  | some n => if n.indeg = 0 then t.makeReady h j else t
  | none => t

/-- A duplicated page of the arrival word is collapsed before the word is written (R92). -/
def State.collapseFor (s : State) (frame : Nat) : State :=
  if s.dups.any fun d => d.frame = frame && !d.collapse then s.startCollapse frame 0 else s

/-- The event and the successors, after the arrival update (R148). -/
def State.finishNode (s : State) (graph node : Nat) (n : Node) : State :=
  let u := s.modNode graph node fun k => { k with done := true }
  let v := if n.even then u.emit (.nodeEvent graph node n.evcode) else u
  n.succ.foldl (State.succStep graph) v
/-- NODE_COMPLETION (R148): release, arrival update, event and successors, in order; an update at a peer is awaited. -/
def execNodeCompletion (graph node : Nat) (s : State) : Res :=
  .next <| match s.graphs.find? fun g => decide (g.handle = graph), s.nodeAt graph node with
    | some h, some n =>
      if !n.completing || n.done || !s.released n then s
      else match n.sent with
        | some fid => if s.outFrames.any fun f => decide (f.fid = fid) && f.reply.isNone then s else s.finishNode graph node n
        | none => (match s.nodeCount h node n with
          | none => (match s.countPlace h.asid n with
            | .ok (p, _) => s.collapseFor p.frame
            | .error _ => s)
          | some (t, some fid) => t.modNode graph node fun k => { k with sent := some fid }
          | some (t, none) => t.finishNode graph node n)
    | _, _ => s

/-! ## What waits at the head of a queue (R151, R156, R159, R179) -/

/-- The figures of a head node. -/
structure Head where
  glog : Nat
  avg  : Nat
  peak : Nat
  fmin : Nat
  fmax : Nat
  deriving DecidableEq, Repr

/-- The figures of an entry: of an instance those of its node and of the header of its kernel, of a saved task those it was saved with,
its band that of the phase it was saved in (R179, log entry 114). -/
def State.headOf (s : State) (r : Ready) : Option Head :=
  match r with
  | .inst h i _ _ =>
    match s.graphs.find? fun g => decide (g.handle = h) with
    | none => none
    | some g => g.nodes[i]?.map fun n => match s.binary g.asid n.ktid n.koff with
      | .ok b => ⟨n.glog, n.avg, n.peak, b.k.fmin, b.k.fmax⟩
      | .error _ => ⟨n.glog, n.avg, n.peak, 475, 1900⟩
  | .saved id => (s.images.find? fun i => decide (i.id = id)).map fun i => ⟨i.gang.glog, i.gang.avg, i.gang.peak, i.gang.fmin, i.gang.fmax⟩

/-- The intersection of the bands of gangs (R179). -/
def bandOf (l : List Gang) : Nat × Nat := (l.foldl (fun m g => max m g.fmin) 475, l.foldl (fun m g => min m g.fmax) 1900)
/-- The permitted set of the reference frequency: its lowest and highest value. -/
def State.permitted (s : State) : Nat × Nat := bandOf (s.gangs.toList.filter (·.runs))
/-- Does a band meet those of the tasks that run or start? -/
def State.bandFits (s : State) (x : Head) : Bool :=
  let b := bandOf (s.gangs.toList.filter (·.holdsCells))
  max b.1 x.fmin ≤ min b.2 x.fmax

/-- Power-eligible, and with a band that the permitted set meets (R156, R179). -/
def State.eligible (s : State) (x : Head) : Bool := s.admittedPeak + x.peak * 2 ^ x.glog ≤ s.budget && s.bandFits x

/-- The cells of a rectangle of G cells at an origin; all cells for 128 (R18, R159). -/
def rectangle (glog : Nat) (origin : CellId) : Option (List CellId) :=
  if glog = 7 then (if origin = 0 then some (List.finRange 128) else none)
  else
    let w := min (2 ^ glog) 8
    let h := 2 ^ glog / w
    let row := origin.val % 64 / 8
    let col := origin.val % 8
    if row + h ≤ 8 && col + w ≤ 8 then
      some ((List.finRange 128).filter fun c =>
        c.val / 64 = origin.val / 64 && row ≤ c.val % 64 / 8 && c.val % 64 / 8 < row + h && col ≤ c.val % 8 && c.val % 8 < col + w)
    else none
/-- FirstFit over cells that count as free (R159). -/
def State.firstFit (s : State) (glog : Nat) (free : CellId → Bool) : Option (CellId × List CellId) :=
  (List.finRange 128).findSome? fun o =>
    match rectangle glog o with
    | none => none
    | some l => if l.all fun c => s.present c && !s.withheld.contains c && free c then some (o, l) else none

/-- Is a cell kept for another node? -/
def State.keptFor (s : State) (r : Ready) (c : CellId) : Bool := s.kept.any fun k => k.ready ≠ r && k.cells.contains c
/-- Free for a node: not busy, not kept for another. -/
def State.freeFor (s : State) (r : Ready) (c : CellId) : Bool := !(s.cell c).busy && !s.keptFor r c
def State.place (s : State) (r : Ready) (glog : Nat) : Option (CellId × List CellId) := s.firstFit glog (s.freeFor r)

/-! ## Pre-emption for a node (R152) -/

/-- The class of a gang's queue. -/
def State.classOf (s : State) (g : Gang) : Nat := s.queues[g.queue].cls
/-- Is a save of this gang under way, and not for another node? -/
def State.savingFor (s : State) (r : Ready) (g : GangId) : Bool :=
  let x := s.gang g
  x.holdsCells && x.saveFor.isSome && !(s.kept.any fun k => k.ready ≠ r && k.victims.contains g)
/-- The order of victims: lowest class, then highest PASS, then most recent dispatch. -/
def State.victimBefore (s : State) (a b : GangId) : Bool :=
  let x := s.gang a
  let y := s.gang b
  let p := s.queues[x.queue].pass
  let q := s.queues[y.queue].pass
  s.classOf x < s.classOf y || (s.classOf x = s.classOf y && (q < p || (p = q && (if x.queue = y.queue then y.seq < x.seq else x.queue < y.queue))))
/-- The next victim for a node of a class. -/
def State.nextVictim (s : State) (cls : Nat) (taken : List GangId) : Option GangId :=
  ((List.finRange 128).filter fun g =>
    let x := s.gang g
    (x.status = .running || x.status = .ending) && x.saveFor.isNone && s.classOf x < cls && !taken.contains g).foldl
    (fun m g => match m with
      | none => some g
      | some v => if s.victimBefore g v then some g else some v) none
/-- Choose victims until FirstFit would succeed with their cells counted as free. -/
def State.victims (s : State) (r : Ready) (glog cls : Nat) : Nat → List GangId → Option (List GangId)
  | 0, _ => none
  | fuel + 1, taken =>
    let free (c : CellId) : Bool := s.freeFor r c ||
      ((s.cell c).busy && (taken.contains (s.gidOf c) || s.savingFor r (s.gidOf c)))
    if (s.firstFit glog free).isSome then some taken
    else match s.nextVictim cls taken with
      | none => none
      | some v => s.victims r glog cls fuel (taken ++ [v])

/-- Cells freed from now on are kept for a node, with its victims' cells among them (R151, R152). -/
def State.keepFor (s : State) (r : Ready) (victims : List GangId) : State :=
  if s.kept.any fun k => k.ready = r then
    { s with kept := s.kept.map fun (k : Kept) => if k.ready = r then { k with victims := k.victims ++ victims } else k }
  else { s with kept := s.kept ++ [⟨r, [], victims⟩] }

/-! ## The dispatch loop (R151, R153) -/

/-- Queues with a ready node, enabled and not deferred, of a class. -/
def SQueue.open_ (q : SQueue) : Bool := q.en && q.tickets ≠ 0 && q.ready ≠ [] && !q.deferred
def State.candidate (s : State) (cls : Nat) : Option (Fin 64) :=
  ((List.finRange 64).filter fun q => s.queues[q].open_ && s.queues[q].cls = cls).foldl
    (fun m q => match m with
      | none => some q
      | some p => if s.queues[q].pass < s.queues[p].pass then some q else some p) none
def State.cand (s : State) : Option (Fin 64) := [3, 2, 1, 0].findSome? s.candidate

def State.modQueue (s : State) (q : Fin 64) (f : SQueue → SQueue) : State := { s with queues := s.queues.set q (f s.queues[q]) }

/-- A deferred queue whose head can never fit is reported, once for each head (R156). -/
def State.reportBlock (s : State) (q : Fin 64) : State :=
  let y := s.queues[q]
  let never := y.deferred && match y.ready with
    | r :: _ => (s.headOf r).any fun x => decide (s.budget < x.peak * 2 ^ x.glog)
    | [] => false
  if !never then s.modQueue q fun z => { z with noted := none }
  else if y.noted = y.ready.head? then s
  else (s.modQueue q fun z => { z with noted := z.ready.head? }).emit (.powerblock q.val)
/-- Deferred queues whose head can never fit are reported (R156). -/
def State.blocked (s : State) : State := (List.finRange 64).foldl State.reportBlock s

/-- Defer a queue: what was kept for its head is released; a head that can never fit is reported (R151, R153, R156). -/
def State.defer (s : State) (q : Fin 64) (r : Ready) : State :=
  State.reportBlock { s.modQueue q fun y => { y with deferred := true } with
    kept := s.kept.filter fun (k : Kept) => decide (k.ready ≠ r) } q

/-- The charges that came while a queue was deferred join its PASS (R149, R150, log entry 112). -/
def SQueue.settle (q : SQueue) : SQueue := { ({ q with deferred := false } : SQueue).add q.owed with owed := 0 }
/-- A deferred queue returns with its PASS raised (R153). -/
def State.undefer (s : State) (q : Fin 64) : State :=
  let others := ((List.finRange 64).filter fun p => p ≠ q ∧ s.queues[p].open_).map fun p => s.queues[p].pass
  s.modQueue q fun z =>
    let y := z.settle
    match others.min? with
    | none => y
    | some m => { y with pass := max y.pass (m - y.stride * y.quant) }
/-- Deferred queues whose head would pass now return; one that has none does too, with its PASS as it is (log entry 112). -/
def State.returnDeferred (s : State) : State :=
  (List.finRange 64).foldl (fun t q =>
    let y := t.queues[q]
    if !y.deferred || !y.en || y.tickets = 0 then t
    else match y.ready with
      | [] => t.modQueue q (·.settle)
      | r :: _ => match t.headOf r with
        | some x => if t.eligible x then t.undefer q else t
        | none => t) s

/-- A queue's ready list without its head, or with the next instance in its place (R147). -/
def State.popReady (s : State) (q : Fin 64) (r : Ready) : State :=
  s.modQueue q fun z => { z with ready := match r, z.ready with
    | .inst h i k upto, _ :: rest => if k + 1 < upto then .inst h i (k + 1) upto :: rest else rest
    | _, _ :: rest => rest
    | _, [] => [] }

/-- A gang as placed: what it will run, its charge, and when it was dispatched (R150). -/
def State.placed (s : State) (q : Fin 64) (r : Ready) (x : Head) (cells : List CellId) : Gang :=
  let g : Gang := { Gang.reset with
    status := .starting
    cells := cells
    glog := x.glog
    avg := x.avg
    peak := x.peak
    fmin := x.fmin
    fmax := x.fmax
    queue := q
    quantum := s.queues[q].charge (2 ^ x.glog)
    startAt := s.wall
    started := s.wall
    seq := s.uid }
  match r with
  | .inst h i k _ => { g with graph := h, node := i, inst := k, asid := ((s.graphs.find? fun y => decide (y.handle = h)).map (·.asid)).getD 0 }
  | .saved id => match s.images.find? fun i => decide (i.id = id) with
    | some i => { g with graph := i.gang.graph, node := i.gang.node, inst := i.gang.inst, asid := i.gang.asid, image := id }
    | none => g

/-- The node starts on its cells once the ramp allows it (R157): the cells are taken and the queue is charged. -/
def State.dispatch (s : State) (q : Fin 64) (r : Ready) (x : Head) (o : CellId) (cells : List CellId) : State :=
  let g := s.placed q r x cells
  let t := (s.popReady q r).modQueue q (·.add g.quantum)
  let u := cells.foldl (fun (u : State) c => u.modCell c fun y => { y with gang := o, busy := true }) t
  { u.setGang o g with
    kept := s.kept.filter fun (k : Kept) => decide (k.ready ≠ r)
    uid := s.uid + 1 }

/-- The loop of R151. -/
def State.dispatchLoop : Nat → State → State
  | 0, s => s
  | fuel + 1, s =>
    match s.cand with
    | none => s
    | some q =>
      match s.queues[q].ready with
      | [] => s
      | r :: rest =>
        match s.headOf r with
        | none => State.dispatchLoop fuel (s.modQueue q fun z => { z with ready := rest })
        | some x =>
          if !s.eligible x then State.dispatchLoop fuel (s.defer q r)
          else match s.place r x.glog with
            | some (o, cells) => State.dispatchLoop fuel (s.dispatch q r x o cells)
            | none => match s.victims r x.glog s.queues[q].cls 129 [] with
              | some vs => vs.foldl (fun t v => t.requestSave v .victim) (s.keepFor r vs)
              | none => s.keepFor r []

/-- DISPATCHER_RUN (R151–R153, R159): nothing more starts once the emergency save has begun (R398). -/
def execDispatcherRun (s : State) : Res := .next (if s.emergency then s else (State.dispatchLoop 512 s.returnDeferred).blocked)

/-! ## Quanta (R150, R152) -/

/-- Does some queue of at least a class have a ready, power-eligible node that FirstFit cannot place? -/
def State.pressed (s : State) (cls : Nat) : Bool :=
  (List.finRange 64).any fun q =>
    let y := s.queues[q]
    y.en && y.tickets ≠ 0 && cls ≤ y.cls && match y.ready with
      | [] => false
      | r :: _ => match s.headOf r with
        | some x => s.eligible x && (s.place r x.glog).isNone
        | none => false

/-- QUANTUM_EXPIRY (R152): the task is saved, or runs on into a new quantum that is charged. -/
def execQuantumExpiry (g : GangId) (s : State) : Res :=
  let x := s.gang g
  let q := s.queues[x.queue]
  .next (if (x.status = .running || x.status = .ending) && x.saveFor.isNone && decide (x.startAt + usCycles q.quant ≤ s.wall) then
    (if s.pressed (s.classOf x) then s.requestSave g .quantum
    else
      let t := s.modQueue x.queue (·.add (q.charge x.size))
      t.modGang g fun y => { y with quantum := y.quantum + q.charge x.size, startAt := y.startAt + usCycles q.quant })
  else s)

/-! ## The start of a tile task (R17, R157, R160, R210) -/

/-- A tensor check: FMT, NDM1 and the used dimensions of the descriptor. -/
def State.tensorOk (s : State) (asid : BitVec 10) (e : InitEntry) : Bool :=
  match s.desc asid (BitVec.ofNat 12 e.id) with
  | .error _ => false
  | .ok d => d.fmt = e.val % 16 && d.ndim = e.val / 16 + 1 && d.dims == (List.range d.ndim).map fun k => fieldOf e.dims (32 * k) 32

/-- Apply an entry to a cell. -/
def State.initEntry (s : State) (b : Binary) (x : Cell) (e : InitEntry) : Cell :=
  match e.ty with
  | 2 => x.putQuarter e.loc e.val
  | 3 => x.putArrival e.loc { target := fieldOf e.val 0 40, count := 0, gen := 0, armed := fieldOf e.val 56 1 = 1 }
  | 4 => (List.range e.val).foldl (fun y k => match s.kbytes b (e.dims + 256 * k) 256 with
      | some v => y.putRow (e.loc + k) (BitVec.ofNat 2048 v) false
      | none => y) x
  | _ => x

/-- A cell at tick 0 (R17): registers at their first contents, its scratchpad that of the last task where the ASID is the
same, else zero. -/
def Cell.begin_ (x : Cell) (g : GangId) (asid : BitVec 10) (i0 i1 i2 : Nat) (arg : Vector Word 16) (entry : Nat) : Cell :=
  let keep := x.lastAsid = some asid
  let gr (k : Fin 32) : Word :=
    if k.val = 13 then BitVec.ofNat 64 i0 else if k.val = 14 then BitVec.ofNat 64 i1 else if k.val = 15 then BitVec.ofNat 64 i2
    else if 16 ≤ k.val then arg[Fin.ofNat 16 (k.val - 16)] else 0
  let y : Cell := { Cell.reset with
    gang := g
    busy := true
    lastAsid := x.lastAsid
    sp := if keep then x.sp else []
    spTag := if keep then x.spTag else []
    cc := { Cc.reset with g := Vector.ofFn gr } }
  y.setEngine .cc { EngSeq.reset with pc := some entry }

/-- Why an instance is refused at its start, or what it starts with. -/
def State.startCheck (s : State) (asid : BitVec 10) (n : Node) : Except Nat (Binary × Nat × Variant × List InitEntry) :=
  match s.binary asid n.ktid n.koff with
  | .error e => .error e.code
  | .ok b =>
    if b.k.glog ≠ n.glog then .error Refused.badNode.code
    else match s.variant b with
      | none => .error Refused.noVariant.code
      | some (i, v) =>
        if !s.variantsAgree b then .error Refused.badNode.code
        else match s.initTable b with
          | none => .error Refused.badNode.code
          | some l => if (l.filter fun e => decide (e.ty = 1)).all (s.tensorOk asid) then .ok (b, i, v, l) else .error Refused.badNode.code

/-- Instances of one node that one run dispatched begin within 4 µs of the first (R157). -/
def State.tooLate (s : State) (g : GangId) : Bool :=
  let x := s.gang g
  s.gangs.any fun y => y.runs && y.graph = x.graph && y.node = x.node && y.started = x.started && y.begun + usCycles 4 < s.wall
/-- Instance k of a node back at its place among those of the node at the head of a ready list (R147). -/
def putInst (h i k : Nat) : List Ready → List Ready
  | .inst g n a b :: l =>
    if g ≠ h ∨ n ≠ i then .inst h i k (k + 1) :: .inst g n a b :: l
    else if k + 1 = a then .inst h i k b :: l
    else if b = k then .inst h i a (k + 1) :: l
    else if k < a then .inst h i k (k + 1) :: .inst h i a b :: l
    else .inst h i a b :: putInst h i k l
  | l => .inst h i k (k + 1) :: l
/-- An instance left to a later run; cells kept for a later one of its node are kept for the head then. -/
def State.putBack (s : State) (g : GangId) : State :=
  let x := s.gang g
  let t := (s.freeGang g).modQueue x.queue fun q => { q with ready := putInst x.graph x.node x.inst q.ready }
  match t.queues[x.queue].ready.head? with
  | none => t
  | some r => { t with kept := t.kept.map fun (k : Kept) => match k.ready with
      | .inst h i _ _ => if h = x.graph ∧ i = x.node then { k with ready := r } else k
      | .saved _ => k }

/-- Begin a tile task on its placed cells at tick 0. -/
def State.beginTask (s : State) (g : GangId) (n : Node) (p : Binary × Nat × Variant × List InitEntry) : State :=
  let x := s.gang g
  let (b, vi, v, tab) := p
  let i0 := x.inst % n.n0
  let i1 := x.inst / n.n0 % n.n1
  let i2 := x.inst / (n.n0 * n.n1)
  let t := s.noteLoad
  let u := { t with power := { t.power with ballast := t.power.ballast.filter fun (e : CellId × Nat × Nat) => !x.cells.contains e.1 } }
  let put (w : State) (c : CellId) : State :=
    w.setCell c (tab.foldl (s.initEntry b) ((s.cell c).begin_ g x.asid i0 i1 i2 n.arg b.k.entry))
  let y : Gang := { x with
    status := .running
    encgen := b.k.encgen
    variant := vi
    ktid := n.ktid
    koff := n.koff
    toff := v.toff
    tlen := v.tlen
    entry := b.k.entry
    fmin := b.k.fmin
    fmax := b.k.fmax
    begun := s.wall }
  let w := (x.cells.foldl put u).setGang g y
  let seg (z : State) (c : CellId) : State :=
    let m := w.segmentAt c b.k.encgen b.k.entry
    z.modCell c fun a => { a with sq := { a.sq with segOff := b.k.entry, sege := m.1, segid := m.2.getD 0 } }
  x.cells.foldl seg w

/-- A refused instance leaves its cells, is named to the host, and waits for system software to kill it (R210, R390). -/
def State.refuseLaunch (s : State) (g : GangId) (code : Nat) : State :=
  let x := s.gang g
  let t := s.freeGang g
  ({ t with refused := t.refused ++ [⟨s.uid, x.graph, x.node, x.inst⟩], uid := s.uid + 1 } : State).emit
    (.refusedTask s.uid x.graph x.node x.inst code)
/-- TILE_TASK_START (R157): the earliest moment the ramp allows. -/
def execTileTaskStart (g : GangId) (s : State) : Res :=
  let x := s.gang g
  .next (if x.status ≠ .starting || x.image ≠ 0 then s
  else if s.tooLate g then s.putBack g
  else if !s.rampAllows x.cells (x.avg * x.size) then s
  else match s.nodeAt x.graph x.node with
    | none => s.freeGang g
    | some n => match s.startCheck x.asid n with
      | .error k => s.refuseLaunch g k
      | .ok p => s.beginTask g n p)

/-! ## Registers of system software (R149, R155, R182, R187, R191) -/

/-- QCFG_WRITE (R149): TICKETS as given, QUANT clamped, CLASS and EN; what was kept for a disabled queue is released
(R151). -/
def execQcfgWrite (q : Fin 64) (v : BitVec 64) (s : State) : Res :=
  let f (lo n : Nat) := fieldOf v.toNat lo n
  let t := s.modQueue q fun y => { y with
    tickets := f 0 16
    quant := max 100 (min (f 16 20) 1000000)
    cls := f 36 2
    en := f 38 1 = 1 }
  .next (if f 0 16 = 0 || f 38 1 = 0 then
    { t with kept := t.kept.filter fun (k : Kept) => !s.queues[q].ready.contains k.ready }
  else t)

/-- PWRCFG_WRITE (R155). -/
def execPwrcfgWrite (v : BitVec 64) (s : State) : Res :=
  let f (lo n : Nat) := fieldOf v.toNat lo n
  .next { s with power := { s.power with budget := min (f 0 24) 2600000, rampup := max 1 (f 24 16) } }.blocked

/-- SETLIM (R187): the board limit, clamped. -/
def execSetlim (mw : Nat) (s : State) : Res :=
  .next (({ s with power := { s.power with blim := min mw 2600000 } }.blocked).emit .done)

/-- FUNCMODE_WRITE (R191): two bits a function; reserved bits read zero. -/
def funcmodeValue (v : Nat) : Nat :=
  packNat 2 (fun i =>
    let m := fieldOf v (2 * i) 2
    if i < 6 then (if m = 3 then 0 else m) else if 2 ≤ m then 1 else m) 8
def execFuncmodeWrite (v : BitVec 64) (s : State) : Res := .next { s with funcmode := BitVec.ofNat 64 (funcmodeValue v.toNat) }

/-- The sub-ports of a port as its split gives them (R182). -/
def subPorts (split : Nat) : Nat := if split = 0 then 1 else if split = 1 then 2 else 4

end Sys2Proof.Machine
end

