-- ==== Sys2Proof/Machine/Mgmt.lean ====
section
/-! DEFINITION. The management protocol's registers and sessions (R96, R149, R191–R193, R331, R351), the monitor units (R194,
R195), the SPDM answers (R190) and the board link's commands (R187). -/

namespace Sys2Proof.Machine

/-! ## Monitor units (R194, R195) -/

/-- The configuration word; reserved bits are dropped, and the counters stand (R194). -/
def Monitor.configure (u : Monitor) (v : Nat) : Monitor :=
  { u with
    src := fieldOf v 0 4
    shift := fieldOf v 4 5
    cell := fieldOf v 9 7
    allc := fieldOf v 16 1 = 1
    asid := BitVec.ofNat 10 (fieldOf v 17 10)
    alla := fieldOf v 27 1 = 1
    en := fieldOf v 28 1 = 1 }
/-- A unit with its counters cleared. -/
def Monitor.clear (u : Monitor) : Monitor :=
  { u with min := 2 ^ 32 - 1, max := 0, count := 0, sum := 0, bins := Vector.replicate 32 0 }

def State.modMonitor (s : State) (m : Fin 64) (f : Monitor → Monitor) : State :=
  { s with monitors := s.monitors.set m (f s.monitors[m]) }

/-- MONITOR_CONFIG_WRITE (R194). -/
def execMonitorConfigWrite (m : Fin 64) (v : BitVec 64) (s : State) : Res := .next (s.modMonitor m (·.configure v.toNat))
/-- MONITOR_SAMPLE (R195): a sample of a source that the model does not form itself (log entry 91). -/
def execMonitorSample (src : BitVec 4) (c : CellId) (asid : BitVec 10) (v : Nat) (s : State) : Res :=
  .next (s.sample src.toNat c asid v)
/-- MONITOR_READ (R195). -/
def execMonitorRead (m : Fin 64) (s : State) : Res := .next (s.emit (.monitor m.val s.monitors[m]))
/-- MONITOR_READ_AND_CLEAR (R195): the snapshot and the clear are one step. -/
def execMonitorReadAndClear (m : Fin 64) (s : State) : Res :=
  .next ((s.modMonitor m Monitor.clear).emit (.monitor m.val s.monitors[m]))

/-! ## Sub-ports and peers (R96, R182, R183) -/

/-- Does a sub-port exist under its port's split? -/
def State.subExists (s : State) (k : Fin 8) : Bool := k.val % 4 < subPorts (s.ports[Fin.ofNat 2 (k.val / 4)]).split
/-- The sub-ports whose link is up. -/
def State.upSubs (s : State) : List (Fin 8) := (List.finRange 8).filter fun k => s.subExists k && s.links.getLsbD k.val
/-- The sub-port firmware binds an address to (R183); none where no link is up. -/
def State.bindSub (s : State) (ip : BitVec 128) : Option (Fin 8) :=
  s.upSubs[Config.subPortHash ip.toNat % s.upSubs.length]?

/-- Put an entry into the peer table (R96): a written entry is re-validated (R385), and one without a port has the protocol's. -/
def State.putPeer (s : State) (p : Peer) : State :=
  let q := { p with port := if p.port = 0 then defaultPort else p.port }
  { s with peers := s.peers.filter (fun (e : Peer) => decide (e.dev ≠ p.dev)) ++ [q] }

/-! ## Management writes (R191) -/

/-- Replace the value of a key. -/
def setKey {α β : Type} [DecidableEq α] (l : List (α × β)) (k : α) (v : β) : List (α × β) :=
  l.filter (fun e => decide (e.1 ≠ k)) ++ [(k, v)]
/-- Put an element into a set or take it out. -/
def setMember {α : Type} [DecidableEq α] (l : List α) (x : α) (member : Bool) : List α :=
  let rest := l.filter fun y => decide (y ≠ x)
  if member then rest ++ [x] else rest

/-! ## What is read back (R96, R98, R182, R185, R208) -/

/-- The layout word (R98). -/
def Layout.word (l : Layout) : Nat :=
  l.mode + (if l.mode = 0 then 0 else l.lost.val) * 4 + l.moving.toNat * 64 + (if l.moving then l.wmark / 65536 % 2 ^ 24 * 65536 else 0) * 256
/-- The dropped bank of each stack, channel and pseudo-channel, 0xFF for none (R98). -/
def Layout.bankBytes (l : Layout) : List Nat :=
  (List.range 768).map fun k => ((l.dropped.find? fun d => decide (d.1 = k)).map (·.2)).getD 0xFF
/-- PORTCFG (R182). -/
def Port.word (p : Port) : Nat := p.split + p.ptpen.toNat * 4 + p.mgmt.toNat * 8
/-- What the management protocol reads; none where a kernel is not there. A temperature is what the sensor gives (log entry 2). -/
def State.mgmtRead (s : State) : MgmtRead → Option (List Nat)
  | .layout => some [s.layout.word]
  | .droppedBanks => some s.layout.bankBytes
  | .selfdev => some [s.selfdev.toNat]
  | .portcfg p => some [s.ports[p].word]
  | .clock => some [s.clock.locked.toNat, (BitVec.ofInt 64 s.clock.offset).toNat, s.clock.input.val]
  | .kernel asid tid off => match s.binary asid tid off with
    | .ok b => some [b.k.sprows, b.k.cslots]
    | .error _ => none
  | .depcnt g => some [((s.gang g).cells.map fun c => (s.cell c).cc.depcnt).sum]
  | .tj _ => some [(s.free 11).1.toNat % 4096]

/-- The write of a register without a row of its own; none where the value has no meaning there. -/
def State.mgmtWrite (s : State) : MgmtWrite → Option State
  | .read (.tj d) => (s.mgmtRead (.tj d)).map fun v => (s.free 11).2.emit (.report (.tj d) v)
  | .read r => (s.mgmtRead r).map fun v => s.emit (.report r v)
  | .forwardingTimeout ms => if 1 ≤ ms && ms ≤ 1000 then some { s with fwdMs := ms } else none
  | .selfdev d => some { s with selfdev := d }
  | .peer dev valid ip port => some (s.putPeer ⟨dev, ip, port, valid, false, (s.bindSub ip).getD 0, 0⟩)
  | .queueAsids q asid member => some (s.modQueue q fun y =>
      { y with asids := BitVec.ofNat 1024 (putField y.asids.toNat asid.toNat 1 member.toNat) })
  | .saveTarget b => some { s with saveTarget := b }
  | .remoteHost b => some { s with remoteHost := b }
  | .advk asid k => if k ≤ 32 then some { s with advk := setKey s.advk asid k } else none
  | .tensorTable asid addr =>
    some { s with tables := s.tables.filter (fun (t : TTable) => decide (t.asid ≠ asid)) ++ [⟨asid, addr⟩] }
  | .subscribe sess asid minSev =>
    if s.sessions.any fun x => decide (x.id = sess) then
      some { s with sessions := s.sessions.map fun (x : Session) => if x.id = sess then { x with subs := setKey x.subs asid minSev } else x }
    else none
  | .clientAsids client asid member => some { s with grants := setMember s.grants (client, asid) member }
  | .freqTarget mhz =>
    if 475 ≤ mhz && mhz ≤ 1900 && mhz % 25 = 0 then some { s with power := { s.power with target := mhz } } else none

/-- MGMT_REGISTER_WRITE (R191). -/
def execMgmtRegisterWrite (w : MgmtWrite) (s : State) : Res :=
  .next <| match s.mgmtWrite w with
    | some t => t.emit .done
    | none => s.emit .refusedRequest

/-! ## Sessions (R190, R193) -/

/-- A gang whose owning session ends is released; a gang stopped at a fault takes hardware mode's disposition (R193, R369). -/
def State.disown (s : State) (g : GangId) : State :=
  let t := s.modGang g fun y => { y with owner := none, reqs := y.reqs.filter fun (r : Req) => decide (r.cond ≠ .debug) }
  if (t.gang g).frozen then t.hardwareFate g else t
/-- The end of a session. -/
def State.endSession (s : State) (id : Nat) : State :=
  let t := ((List.finRange 128).filter fun g => (s.gang g).owner = some id).foldl (fun (u : State) g => u.disown g) s
  { t with sessions := t.sessions.filter fun (x : Session) => decide (x.id ≠ id) }

/-- SESSION_END (R193). -/
def execSessionEnd (sess : Nat) (s : State) : Res := .next (s.endSession sess)

/-! ## SPDM (R190) -/

/-- An answer whose bits the manual does not give (log entry 7). -/
def State.cryptoAnswer (s : State) (kind idx : Nat) : State := s.emit (.crypto kind idx (Config.crypto kind idx))
/-- A client that negotiated only one of the two algorithms is refused; otherwise its request is answered. -/
def State.spdmAnswer (s : State) (f : State → State) : State :=
  if s.spdm.contains (s.asker, 2) then s.emit .refusedRequest else f s

/-- GET_VERSION (R190). -/
def execGetVersion (s : State) : Res := .next (s.emit .versions)
/-- GET_CAPABILITIES (R190). -/
def execGetCapabilities (s : State) : Res := .next (s.emit .capabilities)
/-- NEGOTIATE_ALGORITHMS (R190): both algorithms, or the client is refused. -/
def execNegotiateAlgorithms (rsa slhdsa : Bool) (s : State) : Res :=
  let put (k : Nat) : State := { s with spdm := setKey s.spdm s.asker k }
  .next (if rsa && slhdsa then (put 1).emit .algorithms else (put 2).emit .refusedRequest)
/-- The certificate chains: that of the RSA key in slot 0, that of the SLH-DSA key in slot 1 (R190, log entry 7). -/
def certSlots : Nat := 2
/-- GET_DIGESTS (R190): the digests of both chains. -/
def execGetDigests (s : State) : Res :=
  .next (s.spdmAnswer fun t => (List.range certSlots).foldl (fun u k => u.cryptoAnswer 0 k) t)
/-- GET_CERTIFICATE (R190): the chain in a slot that holds one. -/
def execGetCertificate (slot : Nat) (s : State) : Res :=
  .next (s.spdmAnswer fun t => if slot < certSlots then t.cryptoAnswer 1 slot else t.emit .refusedRequest)
/-- CHALLENGE (R190). -/
def execChallenge (nonce : BitVec 256) (s : State) : Res := .next (s.spdmAnswer (·.cryptoAnswer 2 nonce.toNat))
/-- What a measurement measures, as far as the model tells one from another (R190): the images and records by their security versions,
the defect-map signature, FUNCMODE. -/
def State.measured (s : State) (idx : Nat) : Nat :=
  let of (f : BootInput → Nat) : Nat := (s.boot.map f).getD 0
  match idx with
  | 2 => of (·.image.version)
  | 3 => of (·.signature.toNat)
  | 4 => s.signature.toNat
  | 5 => of (·.image.version)
  | 6 => s.funcmode.toNat
  | _ => 0
/-- GET_MEASUREMENTS (R190): indices 1 to 6. -/
def execGetMeasurements (idx : Nat) (s : State) : Res :=
  .next (s.spdmAnswer fun t => if 1 ≤ idx && idx ≤ 6 then t.cryptoAnswer (2 + idx) (t.measured idx) else t.emit .refusedRequest)
/-- KEY_EXCHANGE (R190): with mutual authentication, after both algorithms were negotiated. -/
def execKeyExchange (client : Nat) (mutualAuth : Bool) (s : State) : Res :=
  .next (if s.spdm.contains (client, 1) && mutualAuth then
    let (w, t) := s.free 10
    let x : Session := ⟨t.uid, client, false, Fin.ofNat 8 w.toNat, []⟩
    ({ t with sessions := t.sessions ++ [x], uid := t.uid + 1 } : State).emit (.sessionOpen x.id)
  else s.emit .refusedRequest)
/-- FINISH (R190): the handshake of an open session completes, or fails and ends it. -/
def execFinish (sess : Nat) (valid : Bool) (s : State) : Res :=
  .next (if s.sessions.any fun x => decide (x.id = sess) && !x.secured then
    (if valid then
      ({ s with sessions := s.sessions.map fun (x : Session) => if x.id = sess then { x with secured := true } else x } : State).emit .done
    else ({ s with sessions := s.sessions.filter fun (x : Session) => decide (x.id ≠ sess) } : State).emit .refusedRequest)
  else s.emit .refusedRequest)
/-- END_SESSION (R190, R193). -/
def execEndSession (sess : Nat) (s : State) : Res :=
  .next (if s.sessions.any fun x => decide (x.id = sess) then (s.endSession sess).emit .done else s.emit .refusedRequest)

/-! ## The board link (R187) -/

/-- The thermal response in force: 0 none, 1 that of 95 °C, 2 the clamp (R181). -/
def Power.thermal (p : Power) : Nat := if p.clamp then 2 else if p.hot95.any id then 1 else 0

/-- TELEM (R187): temperatures, currents and power are what the sensors give (log entry 2). -/
def execTelem (s : State) : Res :=
  let f (i : Nat) : Nat := (Config.freeWord 11 (s.freeCtr + i)).toNat
  .next (({ s with freeCtr := s.freeCtr + 11 } : State).emit
    (.telem (Vector.ofFn fun i => f i.val) (Vector.ofFn fun i => f (2 + i.val)) (f 10) s.stage))
/-- STATUS (R187). -/
def execStatus (s : State) : Res := .next (s.emit (.status s.stage s.clock.locked s.layout.mode s.power.thermal))
/-- Power is applied anew: no state of the device survives. What has left the device, what waits outside it and the model's
own counters do. -/
def State.coldReset (s : State) : State :=
  { State.reset with pickCtr := s.pickCtr, freeCtr := s.freeCtr, inputs := s.inputs, imports := s.imports, upsets := s.upsets, outbox := s.outbox }
/-- RESET (R187): a cold reset, from which boot follows, of the same package and with the same outcome of its calibration (log entry
109). A device without power stays as it is. -/
def execReset (s : State) : Res :=
  .next (if !s.powered then s else { s.coldReset with boot := s.boot, stage := if s.boot.isSome then 1 else 0 })
/-- An unassigned command code is answered with an error completion (R187). -/
def execMctpUnknownCommand (code : BitVec 8) (s : State) : Res :=
  .next (if 1 ≤ code.toNat && code.toNat ≤ 4 then s else s.emit (.errorCompletion code))
/-- Get Vendor Defined Message Support (R187). -/
def execGetVendorDefinedMessageSupport (s : State) : Res := .next (s.emit (.vendor Config.enterpriseNumber))

end Sys2Proof.Machine
end

