-- ==== Sys2Proof/Machine/Debug.lean ====
section
/-! DEFINITION. The Sniser debug server (R192, R193, R218, R367–R369): stops, the fields of a stopped gang by their names in the
context image, breakpoints, resumption and steps; and the thaw of a gang, at which what was written takes effect (R43, R368). -/

namespace Sys2Proof.Machine

/-! ## The fields of a member (R164, R192) -/

def spBytes : Nat := 24576 * 256
def cremaBytes : Nat := 16 * 128 * 1024
/-- The slot and row of a byte of Crema, slots in order and rows in order (R164). -/
def cremaAt (a : Nat) : Fin 16 × Nat := (Fin.ofNat 16 (a / 131072), a % 131072 / 1024)

/-- The body of a tile as its blocks of the layout hold it. -/
def Cell.tileBlock (x : Cell) (b : Nat) : Row :=
  BitVec.ofNat 2048 (x.ve.z[Fin.ofNat 4 ((b - 33312) / 4)].body.toNat / 2 ^ (2048 * ((b - 33312) % 4)))
/-- A field of a member; none where the field does not exist. -/
def fieldRead (s : State) (g : Gang) (c : CellId) : ImageField → Option Nat
  | .g n => some ((s.cell c).cc.greg n).toNat
  | .p n => some ((s.cell c).cc.pred n.val).toNat
  | .bPiece n k => some (piece (s.cell c).cc.b[n] k.val).toNat
  | .d n => some (s.cell c).cc.d[n].toNat
  | .v n l => some (lane (s.cell c).ve.v[n] l.val).toNat
  | .k n => some (if n = 0 then BitVec.allOnes 64 else (s.cell c).ve.k[n]).toNat
  | .tshape n => some (s.cell c).ve.z[n].shape.toNat
  | .vmode => some (s.cell c).ve.mode.toNat
  | .cmode => some (s.cell c).me.mode.toNat
  | .vflags => some (s.cell c).ve.flags.toNat
  | .mflags => some (s.cell c).me.flags.toNat
  | .cflags => some (s.cell c).cc.cflags.toNat
  | .slipw => some (s.cell c).cc.slipw
  | .spillbase => some (s.cell c).cc.spillBase.toNat
  | .spilllen => some (s.cell c).cc.spillLen
  | .sestat => some (s.cell c).se.sestat.toNat
  | .spByte a => if a < spBytes then some (byteAt ((s.cell c).row (a / 256)) (a % 256)).toNat else none
  | .cremaByte a =>
    if a < cremaBytes then some (fieldOf ((s.cell c).cr.rowAt (cremaAt a).1 (cremaAt a).2).toNat (8 * (a % 1024)) 8) else none
  | .pc e => some (((s.cell c).engine e).pc.getD 0)
  | .tick => some g.tick
  | .sig => some (s.cell c).sq.sig.toNat
  | .flight i => (flights s g c (s.cell c))[i]?.map (·.cap.bits)
  | .imageByte o =>
    if o < 256 * memberBlocks then
      some (byteAt (memberBlock (s.cell c) (memberAreas s (s.gidOf c) c) s.freeCtr (s.cell c).tileBlock (o / 256)).1 (o % 256)).toNat
    else none

/-- The bits of SESTAT that are not reserved (R289). -/
def sestatMask : Word := 0x0000FFFFFFFF007F
/-- A byte of a row. -/
def setByte {n : Nat} (r : BitVec n) (k v : Nat) : BitVec n := BitVec.ofNat n (putField r.toNat (8 * k) 8 v)

/-! ## Bytes of the image layout (R164, R165, R368) -/

/-- The CC state that the bytes of its area give; G0 and P0 are not written. -/
def Cell.ccLoad (x : Cell) (v : Nat) : Cell :=
  let f (o n : Nat) := fieldOf v (8 * o) (8 * n)
  let cc : Cc := { x.cc with
    g := Vector.ofFn fun (i : Fin 32) => if i = 0 then 0 else BitVec.ofNat 64 (f (8 * i.val) 8)
    b := Vector.ofFn fun (i : Fin 4) => BitVec.ofNat 2048 (f (256 + 256 * i.val) 256)
    p := BitVec.ofNat 16 (putField (f 1280 2) 0 1 x.cc.p.toNat)
    d := Vector.ofFn fun (i : Fin 4) => BitVec.ofNat 3 (f (1282 + i.val) 1)
    gTag := BitVec.ofNat 32 (f 1476 4)
    bTag := Vector.ofFn fun (i : Fin 4) => BitVec.ofNat 32 (f (1480 + 4 * i.val) 4) }
  let set (r : Cc) (i o : Nat) : Cc := r.land (.sysw i (BitVec.ofNat 64 (f o 8)))
  let ret (e : YEntry) (i : Nat) : YEntry :=
    if e.arrived then { e with data := BitVec.ofNat 64 (f (1344 + 8 * i) 8), st := fieldOf (f 1474 2) i 1 = 1 } else e
  { x with
    cc := set (set (set (set cc 7 1288) 8 1296) 9 1304) 10 1312
    q := { x.q with yq := x.q.yq.mapIdx fun i e => ret e i }
    se := { x.se with sestat := BitVec.ofNat 64 (f 1496 8) &&& sestatMask } }
/-- The VE and ME state that the bytes of its area give; how full the queues are, and whether a window is open, is not changed. -/
def Cell.veMeLoad (x : Cell) (v : Nat) : Cell :=
  let f (o n : Nat) := fieldOf v (8 * o) (8 * n)
  let tile (z : Tile) (i : Nat) : Tile := { z with shape := BitVec.ofNat 11 (f (64 + 2 * i) 2) |>.zeroExtend 16 }
  let window (w : Window) : Window := { w with
    passes := f 113 1
    key := ⟨BitVec.ofNat 16 (f 116 2), BitVec.ofNat 12 (f 118 2)⟩ }
  { x with
    ve := { x.ve with
      k := Vector.ofFn fun (i : Fin 8) => if i = 0 then x.ve.k[0] else BitVec.ofNat 64 (f (8 * i.val) 8)
      z := x.ve.z.mapFinIdx fun i z _ => tile z i
      mode := BitVec.ofNat 4 (f 72 1)
      flags := BitVec.ofNat 6 (f 80 1) }
    me := { x.me with
      mode := BitVec.ofNat 4 (f 73 1)
      flags := BitVec.ofNat 6 (f 88 1)
      win := x.me.win.map window } }
/-- The retained passes that the bytes of the retention record give. -/
def Cell.retLoad (x : Cell) (v : Nat) : Cell :=
  { x with me := { x.me with ret := x.me.ret.mapIdx fun i o => { o with
      off := fieldOf v (64 * i) 32
      exp := fieldOf v (64 * i + 32) 32 } } }
/-- The registered ranges that the bytes of the window area give. -/
def Cell.rangesLoad (x : Cell) (v : Nat) : Cell :=
  let range (i : Nat) : WinRange :=
    let f (lo n : Nat) := fieldOf v (32 * i + lo) n
    ⟨f 0 15, f 15 8 + 1, f 23 1 = 1, f 24 1 = 1⟩
  { x with me := { x.me with win := x.me.win.map fun (w : Window) => { w with ranges := w.ranges.mapIdx fun i _ => range i } } }
/-- The entry of an SE command that the bytes of its entry give: its captured coordinates, and its progress. -/
def SeCmd.load (m : SeCmd) (v : Nat) : SeCmd :=
  let c : Vector Word 4 := Vector.ofFn fun i => BitVec.ofNat 64 (fieldOf v (512 + 64 * i.val) 64)
  let set (o : ROp) : ROp := match o with
    | .tensor tid sdim _ cset st => .tensor tid sdim c cset st
    | other => other
  let next := match m.op with
    | 0x0E | 0x0F => 16 * fieldOf v 832 64
    | 0x14 => fieldOf v 832 64
    | 0x05 | 0x06 | 0x12 | 0x13 | 0x15 => m.next
    | _ => fieldOf v 768 64
  match m.o0, m.o1 with
  | .tensor _ _ _ _ _, _ => { m with o0 := set m.o0, next := next }
  | _, .tensor _ _ _ _ _ => { m with o1 := set m.o1, next := next }
  | _, _ => { m with o2 := set m.o2, next := next }

/-- The parts of the layout whose bytes name no field: the slot map with its directories, and the sequencer state (log entry 2). -/
def unnamedBlock (b : Nat) : Bool := (33399 ≤ b && b < 33402) || (33404 ≤ b && b < 33407)
/-- A debugger's write to a byte of the image layout other than the flight capture. -/
def Cell.imageWrite (x : Cell) (areas : MemberAreas) (o v : Nat) : Cell :=
  let b := o / 256
  let k := o % 256
  let area (a lo : Nat) : Nat := putField a (8 * (o - 256 * lo)) 8 v
  let entry (q : List QEntry) : List QEntry := q.modify ((b - 33152) % 16) fun e => { e with row := setByte e.row k v }
  let q := (b - 33152) / 16
  if b < 24576 then x.putRow b (setByte (x.row b) k v) (x.rowTag b)
  else if b < 32768 then
    let a := o - spBytes
    let s := cremaAt a
    { x with cr := x.cr.putAt s.1 s.2 (setByte (x.cr.rowAt s.1 s.2) (a % 1024) v) (x.cr.tagsAt s.1 s.2) }
  else if b < 33024 then
    let l : Fin 2 := Fin.ofNat 2 ((b - 32768) / 128)
    { x with me := { x.me with bl := x.me.bl.set l { x.me.bl[l] with bits := setByte x.me.bl[l].bits (256 * ((b - 32768) % 128) + k) v } } }
  else if b < 33152 then
    { x with me := { x.me with metaq := x.me.metaq.modify ((b - 33024) / 32) fun e => (setByte e.1 (256 * ((b - 33024) % 32) + k) v, e.2) } }
  else if b < 33280 then
    { x with q :=
      (if q < 4 then { x.q with lq := x.q.lq.set (Fin.ofNat 4 q) (entry x.q.lq[Fin.ofNat 4 q]) }
      else if q < 6 then { x.q with sq := x.q.sq.set (Fin.ofNat 2 (q - 4)) (entry x.q.sq[Fin.ofNat 2 (q - 4)]) }
      else { x.q with mq := x.q.mq.set (Fin.ofNat 2 (q - 6)) (entry x.q.mq[Fin.ofNat 2 (q - 6)]) }) }
  else if b < 33312 then
    let n : Fin 32 := Fin.ofNat 32 (b - 33280)
    { x with ve := { x.ve with v := x.ve.v.set n (setByte x.ve.v[n] k v) } }
  else if b < 33328 then
    let n : Fin 4 := Fin.ofNat 4 ((b - 33312) / 4)
    { x with ve := { x.ve with z := x.ve.z.set n { x.ve.z[n] with body := setByte x.ve.z[n].body (256 * ((b - 33312) % 4) + k) v } } }
  else if 33360 ≤ b ∧ b < 33392 then
    let i := (o - 256 * 33360) / 128
    { x with se := { x.se with queue := x.se.queue.modify i fun m => m.load (area areas.se 33360 / 2 ^ (1024 * i)) } }
  else if 33392 ≤ b ∧ b < 33398 then x.ccLoad (area areas.cc 33392)
  else if b = 33398 then x.veMeLoad (area areas.veMe 33398)
  else if 33402 ≤ b ∧ b < 33404 then x.retLoad (area areas.ret 33402)
  else if b = 33407 then x.rangesLoad (area areas.ranges 33407)
  else x

/-- A debugger's write to a register or row, as if it had landed (R368); reserved bits read zero (R3). -/
def Cell.debugWrite (x : Cell) (f : ImageField) (v : Nat) : Cell :=
  let w : Word := BitVec.ofNat 64 v
  match f with
  | .g n => { x with cc := x.cc.land (.g n w false) }
  | .p n => { x with cc := x.cc.land (.p n (v % 2 = 1)) }
  | .bPiece n k => { x with cc := x.cc.land (.bPiece n k w false) }
  | .d n => { x with cc := { x.cc with d := x.cc.d.set n (BitVec.ofNat 3 v) } }
  | .v n l => { x with ve := x.ve.land (.v n (BitVec.ofNat 64 (2 ^ l.val)) (mkRow fun _ => BitVec.ofNat 32 v) 0) }
  | .k n => { x with ve := x.ve.land (.k n w) }
  | .tshape n => { x with ve := { x.ve with z := x.ve.z.set n { x.ve.z[n] with shape := BitVec.ofNat 16 (v % 2048) } } }
  | .vmode => { x with ve := { x.ve with mode := BitVec.ofNat 4 v } }
  | .cmode => { x with me := { x.me with mode := BitVec.ofNat 4 v } }
  | .vflags => { x with ve := { x.ve with flags := BitVec.ofNat 6 v } }
  | .mflags => { x with me := { x.me with flags := BitVec.ofNat 6 v } }
  | .cflags => { x with cc := x.cc.land (.sysw 10 w) }
  | .slipw => { x with cc := x.cc.land (.sysw 7 w) }
  | .spillbase => { x with cc := x.cc.land (.sysw 8 w) }
  | .spilllen => { x with cc := x.cc.land (.sysw 9 w) }
  | .sestat => { x with se := { x.se with sestat := w &&& sestatMask } }
  | .spByte a => x.putRow (a / 256) (setByte (x.row (a / 256)) (a % 256) v) (x.rowTag (a / 256))
  | .cremaByte a =>
    let k := cremaAt a
    { x with cr := x.cr.putAt k.1 k.2 (setByte (x.cr.rowAt k.1 k.2) (a % 1024) v) (x.cr.tagsAt k.1 k.2) }
  | .pc _ | .tick | .sig | .flight _ | .imageByte _ => x

/-! ## Flight capture entries (R165, R368) -/

/-- A result with another value. -/
def Land.withValue (d : Land) (v : Nat) : Land :=
  match d with
  | .g n _ _ => .g n (BitVec.ofNat 64 v) false
  | .p n _ => .p n (v % 2 = 1)
  | .b n _ _ | .bPiece n _ _ _ => .b n (BitVec.ofNat 2048 v) 0
  | .v n act _ _ => .v n act (BitVec.ofNat 2048 v) 0
  | .k n _ => .k n (BitVec.ofNat 64 v)
  | .mq n _ _ => .mq n (BitVec.ofNat 2048 v) false
  | .sp row _ _ => .sp row (BitVec.ofNat 2048 v) false
  | other => other
/-- A result in flight with another payload; that of a flag entry has no stated layout, so the flags are free (log entry 2). -/
def Landing.withValue (l : Landing) (v : Nat) (w : Word) : Landing :=
  if l.dst = .flags then { l with vfl := w.extractLsb' 0 6, mfl := w.extractLsb' 6 6, cfl := w.extractLsb' 12 2 }
  else { l with dst := l.dst.withValue v }

/-- A debugger's write to a return that a YPOP took: data, status or row. -/
def YEntry.withValue (e : YEntry) (kind v : Nat) : YEntry :=
  match kind with
  | 1 => { e with data := BitVec.ofNat 64 v, tag := false }
  | 2 => { e with st := v % 2 = 1 }
  | _ => { e with claim := e.claim.map fun x => (x.1, BitVec.ofNat 2048 v) }
/-- A debugger's write to a flight capture entry. -/
def State.writeFlight (s : State) (g : GangId) (c : CellId) (f : Flight) (v : Nat) : State :=
  let (w, t) := s.free 8
  match f.src with
  | .result seq =>
    t.modCell c fun x => { x with flight := x.flight.map fun (l : Landing) => if l.seq = seq then l.withValue v w else l }
  | .ret uid =>
    t.modCell c fun x => { x with q := { x.q with
      yRet := x.q.yRet.map fun (e : YEntry) => if e.uid = uid then e.withValue f.cap.kind v else e } }
  | .decision d =>
    t.modGang g fun y => { y with
      decisions := y.decisions.map fun (e : Decision) => if e = d then { e with forced := some (BitVec.ofNat 3 v) } else e }
  | .row uid =>
    let put (e : QEntry) : QEntry := if e.uid = uid then { e with row := BitVec.ofNat 2048 v, tag := false } else e
    t.modCell c fun x => { x with q := { x.q with lq := x.q.lq.map fun (l : List QEntry) => l.map put } }
  | .token k =>
    t.modGang g fun y => { y with tokens := y.tokens.map fun (e : Token) =>
      if e = k then { e with segid := w.extractLsb' 0 16, succ := (w.extractLsb' 16 3).toNat } else e }

/-! ## The thaw (R43, R368) -/

/-- The entry of a flight capture that holds a byte of its area, with the byte's place in the payload. -/
def flightAt : List Flight → Nat → Option (Flight × Nat)
  | [], _ => none
  | f :: l, o => if o < 16 + f.cap.size then (if 16 ≤ o then some (f, o - 16) else none) else flightAt l (o - 16 - f.cap.size)
/-- The entry and the byte of its payload that a byte of the layout stands for. -/
def flightByte (s : State) (g : Gang) (c : CellId) (o : Nat) : Option (Flight × Nat) :=
  if 256 * 33328 ≤ o ∧ o < 256 * 33360 then flightAt (flights s g c (s.cell c)) (o - 256 * 33328) else none
/-- One write of the debugger takes effect. -/
def State.applyWrite (s : State) (g : GangId) (w : Nat × ImageField × Nat) : State :=
  match (s.gang g).cellAt w.1 with
  | none => s
  | some c => match w.2.1 with
    | .flight i => (match (flights s (s.gang g) c (s.cell c))[i]? with
      | some e => s.writeFlight g c e w.2.2
      | none => s)
    | .imageByte o => (match flightByte s (s.gang g) c o with
      | some (e, k) => s.writeFlight g c e (putField e.cap.v (8 * k) 8 w.2.2)
      | none => s.modCell c fun x => x.imageWrite (memberAreas s g c) o w.2.2)
    | f => s.modCell c fun x => x.debugWrite f w.2.2

/-- Is a request's condition met? A debug stop that no session owns is released by firmware (R193). -/
def State.metFor (s : State) (x : Gang) (r : Req) : Bool := s.met r.cond || (r.cond = .debug && x.owner.isNone)

/-- The samples of a freeze that ends, for every member cell; a cell that text was fetched for notes the time for its segment (R194, log entry
121). -/
def State.sampleFreeze (s : State) (x : Gang) : State :=
  let d := s.wall - x.frozenAt
  x.cells.foldl (fun (t : State) c =>
    let u := t.sample 2 c x.asid (nsOf d)
    if x.dueReqs.any fun r => match r.cond with
      | .text c1 _ => c1 = c
      | _ => false
    then u.modCell c fun y => { y with sq := { y.sq with textWait := y.sq.textWait + d } } else u) s

/-- THAW (R43): no condition due at the stopped tick is unmet, and the freeze has lasted a reference cycle; what a debugger
wrote takes effect, as if it had landed at the stopped tick (R368). -/
def execThaw (g : GangId) (s : State) : Res :=
  let x := s.gang g
  .next (if x.frozen && (x.status = .running || x.status = .ending) && decide (x.frozenAt < s.wall)
      && x.dueReqs.all (s.metFor x) then
    (x.writes.foldl (fun u w => u.applyWrite g w) (s.sampleFreeze x)).modGang g fun y =>
      { y with frozen := false, writes := [], reqs := y.reqs.filter fun (r : Req) => decide (y.tick < r.due) }
  else s)

/-! ## Requests of a session (R192) -/

/-- Is a session served for a gang: secured, and its client granted the gang's ASID? -/
def State.serves (s : State) (sess : Nat) (g : GangId) : Bool :=
  (s.gang g).runs && s.sessions.any fun x => x.id = sess && x.secured && s.grants.contains (x.client, (s.gang g).asid)
/-- May a session change a gang: nobody else owns it? -/
def State.mayChange (s : State) (sess : Nat) (g : GangId) : Bool :=
  s.serves sess g && (s.gang g).owner.all fun o => o = sess
/-- Stopped by the debugger or at a fault. -/
def Gang.stopped (x : Gang) : Bool :=
  x.frozen && (x.status = .running || x.status = .ending) && x.dueReqs.any fun r => match r.cond with
    | .debug | .fault _ => true
    | _ => false

/-- DEBUG_STOP (R192): a stop request at the gang's next tick, or where it stands. -/
def execDebugStop (sess : Nat) (g : GangId) (s : State) : Res :=
  let x := s.gang g
  .next (if s.mayChange sess g && (x.status = .running || x.status = .ending) then
    (s.modGang g fun y => { y with
      owner := some sess
      reqs := y.reqs ++ [⟨if y.frozen then y.tick else y.tick + 1 + y.dstall, .debug⟩] }).emit .done
  else s.emit .refusedRequest)

/-- STATE_READ (R192): any session that is served may read a stopped gang. -/
def execStateRead (sess : Nat) (g : GangId) (m : Nat) (f : ImageField) (s : State) : Res :=
  let x := s.gang g
  .next <| if s.serves sess g && x.stopped then
    (match x.cellAt m with
    | some c => (match fieldRead s x c f with
      | some v => s.emit (.stateValue v)
      | none => s.emit .refusedRequest)
    | none => s.emit .refusedRequest)
  else s.emit .refusedRequest

/-- The fields that Sniser refuses to write, or that do not exist (R368). -/
def State.fieldFixed (s : State) (g : Gang) (c : CellId) : ImageField → Bool
  | .pc _ | .tick | .sig => true
  | .flight i => (flights s g c (s.cell c))[i]?.all fun e => e.cap.due ≤ g.tick
  | .imageByte o => decide (256 * memberBlocks ≤ o) || unnamedBlock (o / 256) ||
      (256 * 33328 ≤ o && o < 256 * 33360 && (flightByte s g c o).all fun e => e.1.cap.due ≤ g.tick)
  | f => (fieldRead s g c f).isNone

/-- STATE_WRITE (R368): the write takes effect at the release. -/
def execStateWrite (sess : Nat) (g : GangId) (m : Nat) (f : ImageField) (v : Nat) (s : State) : Res :=
  let x := s.gang g
  .next <| if s.mayChange sess g && x.owner = some sess && x.stopped && (x.cellAt m).any fun c => !s.fieldFixed x c f then
    (s.modGang g fun y => { y with writes := y.writes ++ [(m, f, v)] }).emit .done
  else s.emit .refusedRequest

/-- A debugger's release: the debug stops that are due go; a fault that may be resumed is, and any other takes hardware mode's
disposition (R352, R355). -/
def State.debugRelease (s : State) (g : GangId) : State :=
  let t := s.modGang g fun y => { y with reqs := y.reqs.filter fun (r : Req) => decide (r.cond ≠ .debug ∨ y.tick < r.due) }
  let d := (t.gang g).dueFaults
  if d = [] then t else if d.all fun p => mayResume p.cls then t.dispose g .resume else t.hardwareFate g
/-- May a session release a gang? -/
def State.mayRelease (s : State) (sess : Nat) (g : GangId) : Bool :=
  s.mayChange sess g && (s.gang g).owner = some sess && (s.gang g).stopped

/-- DEBUG_RESUME (R192). -/
def execDebugResume (sess : Nat) (g : GangId) (s : State) : Res :=
  .next (if s.mayRelease sess g then (s.debugRelease g).emit .done else s.emit .refusedRequest)
/-- DEBUG_STEP (R368): the gang stops again max(n, Dstall) ticks on. -/
def execDebugStep (sess : Nat) (g : GangId) (n : Nat) (s : State) : Res :=
  let x := s.gang g
  let stop := x.tick + max n x.dstall
  .next (if s.mayRelease sess g then
    ((s.debugRelease g).modGang g fun y => { y with reqs := y.reqs ++ [⟨stop, .debug⟩] }).emit (.stepped stop)
  else s.emit .refusedRequest)

/-! ## Breakpoints (R218, R367) -/

/-- The bits of a BRK in the gang's generation: the stamp, the entry and the displaced record's engine (R218, R325, R327). -/
def brkBits (gen : Nat) (w : RecordBits) (idx : Fin 8) : Nat :=
  24 + stampOf gen w.toNat * 2 ^ 16 + (idx.val + (engUnit (engineOf w.toNat)) * 8) * 2 ^ 128
/-- The invalidation that follows a patch: at once for a gang that stands, else as ICINV does it (R239). -/
def State.icinv (s : State) (g : GangId) : State :=
  let x := s.gang g
  { s with cells := s.cells.map fun (y : Cell) =>
      if y.gang = g && y.busy then
        (if x.frozen then { y with text := [] } else { y with inval := y.inval ++ [some (x.tick + 1 + x.dstall)] })
      else { y with inval := y.inval ++ [none] } }
/-- Set an entry of the breakpoint tables of a gang's cells. -/
def State.setBrk (s : State) (g : GangId) (idx : Fin 8) (e : Option (Nat × RecordBits)) : State :=
  (s.gang g).cells.foldl (fun (u : State) c => u.modCell c fun x => { x with sq := { x.sq with brk := x.sq.brk.set idx e } }) s
/-- The entry in the tables of a gang, which are alike. -/
def State.brkOf (s : State) (g : GangId) (idx : Fin 8) : Option (Nat × RecordBits) :=
  (s.gang g).cells.head?.bind fun c => (s.cell c).sq.brk[idx]

/-- SET_BREAKPOINT (R218): the record is displaced into a free entry. -/
def execSetBreakpoint (sess : Nat) (g : GangId) (off : Nat) (idx : Fin 8) (s : State) : Res :=
  let x := s.gang g
  .next <| match s.textWord g off, s.textAddr x off with
    | some w, some a =>
      if s.mayChange sess g && (s.brkOf g idx).isNone && w.toNat % 2048 ≠ 24 then
        let t := s.devWriteIn a (recSize x.encgen) (brkBits x.encgen w idx)
        (((t.setBrk g idx (some (off, w))).modGang g fun y => { y with owner := some sess }).icinv g).emit .done
      else s.emit .refusedRequest
    | _, _ => s.emit .refusedRequest

/-- CLEAR_BREAKPOINT (R367): the record is restored; the entry goes when the gang next stops, or now if it stands. -/
def execClearBreakpoint (sess : Nat) (g : GangId) (idx : Fin 8) (s : State) : Res :=
  let x := s.gang g
  .next <| match s.brkOf g idx with
    | none => s.emit .refusedRequest
    | some (off, w) => match s.textAddr x off with
      | none => s.emit .refusedRequest
      | some a =>
        if s.mayChange sess g then
          let t := s.devWriteIn a (recSize x.encgen) w.toNat
          let later (y : Cell) : Cell := { y with sq := { y.sq with brkGone := y.sq.brkGone ||| BitVec.ofNat 8 (2 ^ idx.val) } }
          let u := if x.frozen then t.setBrk g idx none
            else x.cells.foldl (fun (v : State) c => v.modCell c later) t
          (u.icinv g).emit .done
        else s.emit .refusedRequest

end Sys2Proof.Machine
end

