-- ==== Sys2Proof/Machine/Board.lean ====
section
/-! DEFINITION. Boot and calibration (R188, R396), droop stretches and forced slow-downs (R174, R175, R394, R395), the frequency
(R179), slip (R397), the thermal responses (R181, R398, R399), the links (R400) and TIME's input (R184, R185, R401). -/

namespace Sys2Proof.Machine

/-! ## Boot (R188, R396) -/

/-- A manufacturing record that yields a field of 0x9 to 0xE fails its verification (R10). -/
def badSignature (sig : BitVec 64) : Bool := (List.range 16).any fun i => 9 ≤ fieldOf sig.toNat (4 * i) 4 && fieldOf sig.toNat (4 * i) 4 ≤ 14
/-- An object verifies: each signature names an unrevoked root slot, carries the key of that slot, and verifies under it (R189). -/
def objectVerifies (o : SignedObject) (revoked : BitVec 8) : Bool :=
  o.rsaKey = some o.rsaSlot && o.rsaGood && !revoked.getLsbD o.rsaSlot.val &&
  o.slhKey = some o.slhSlot && o.slhGood && !revoked.getLsbD (4 + o.slhSlot.val)
/-- Does a stage fail? -/
def bootStageFails (b : BootInput) (stage : Nat) : Bool :=
  b.failStage = stage || match stage with
    | 1 => badSignature b.signature || !objectVerifies b.record b.revoked
    | 3 => !objectVerifies b.image b.revoked
    | _ => false

/-- A row's field of the signature. -/
def rowField (sig : Nat) (die : Fin 2) (row : Fin 8) : Nat := fieldOf sig (32 * die.val + 4 * row.val) 4
/-- The cell behind a failed crossing is bypassed: the second bypass in a row, which has one already where a column below 8 is bypassed,
makes it 0xF (R10, R172). -/
def bypass (sig : Nat) (f : FailedCrossing) : Nat :=
  let now := rowField sig f.die f.row
  putField sig (32 * f.die.val + 4 * f.row.val) 4 (if now = 8 then f.pcol.val else if now = f.pcol.val then now else 15)
/-- The signature from the manufacturing record and the outcome of calibration (R10). -/
def bootSigns (b : BootInput) : BitVec 64 := BitVec.ofNat 64 (b.failed.foldl bypass b.signature.toNat)

/-- Position and link of a crossing in a record of class 0x31 (R387). -/
def crossingSynd (die row pcol link : Nat) : Nat := die + row * 2 + pcol * 16 + link * 256
/-- The record of a calibration bypass; ROWF with the one by which the row failed. -/
def bypassRec (sig : BitVec 64) (f : FailedCrossing) (later : List FailedCrossing) : ErrRec :=
  let rowf := fieldOf sig.toNat (32 * f.die.val + 4 * f.row.val) 4 = 15 && !(later.any fun h => h.die = f.die && h.row = f.row)
  { cls := 0x31, sev := 0, unit := 13, disp := 0, synd := crossingSynd f.die.val f.row.val f.pcol.val f.link.val + (if rowf then 1024 else 0) }

/-- A stage of boot that succeeds leaves its results: the signature, the layout state, the records of the bypasses once the log is open
(R10, R98, R172, R188, R396). -/
def bootLeaves (b : BootInput) (stage : Nat) (s : State) : State :=
  match stage with
  | 4 => { s with signature := bootSigns b }
  | 5 => match b.lost with
    | some k => { s with layout := { s.layout with mode := 1, lost := k } }
    | none => s
  | 6 => b.failed.zipIdx.foldl (fun (u : State) f => u.writeRecord (bypassRec (bootSigns b) f.1 (b.failed.drop (f.2 + 1)))) { s with stage := 7 }
  | _ => s
/-- Boot goes one stage on, or halts at the stage that fails (R188). -/
def State.bootStep (s : State) (b : BootInput) : State :=
  if s.bootHalt || s.stage = 0 || 7 ≤ s.stage then s
  else if bootStageFails b s.stage then { s with bootHalt := true }
  else bootLeaves b s.stage { s with stage := s.stage + 1 }

/-- POWER_ON (R188): power is applied, and boot begins at stage 1; while boot runs, its next stage. -/
def execPowerOn (b : BootInput) (s : State) : Res :=
  .next (match s.boot with
    | some k => s.bootStep k
    | none => if s.stage ≠ 0 || s.bootHalt then s else { s.coldReset with boot := some b, stage := 1 })

/-! ## Droop (R174, R175, R393–R395) -/

/-- The stretches of a die within the last 2,048 reference ticks. -/
def Power.stretches (p : Power) (die : Fin 2) : List Nat := (p.stretchAt.get die).filter fun n => decide (p.refs < n + 2048)
/-- Does a free cell draw ballast? -/
def State.ballasted (s : State) (c : CellId) : Bool :=
  !(s.cell c).busy && !s.power.noBallast && s.power.ballast.any fun b => b.1 = c && ballastLeft s.wall b ≠ 0

/-- DROOP_STRETCH (R174): the cell's stretch and its echo through the root count, and the reference cycle is half a period longer, for the
whole device (log entry 110). A droop seen by a ballasted cell halves its die's ballast instead (R393). -/
def execDroopStretch (c : CellId) (s : State) : Res :=
  let d := dieOf c
  .next (if s.ballasted c then
    let t := s.noteLoad
    let half (b : CellId × Nat × Nat) : CellId × Nat × Nat := if dieOf b.1 = d then (b.1, b.2.1 / 2, b.2.2) else b
    { t with power := { t.power with ballast := t.power.ballast.map half } }
  else
    let p := s.power
    let l := p.stretches d ++ [p.refs, p.refs]
    ({ s with power := { p with
        stretchAt := p.stretchAt.set d l
        acc := p.acc + 1900 * p.rootDiv } } : State).sample 5 c (s.gangOf c).asid l.length)

/-- RDIV of a root divider (R387). -/
def rdiv (n : Nat) : Nat := if n = 1 then 0 else if n = 2 then 1 else 2
/-- The record of a change of the root dividers. -/
def slowRec (divider : Nat) (back : Bool) (die : Fin 2) (str dur : Nat) : ErrRec :=
  { cls := 0x30, sev := 0, unit := 13, disp := 0,
    synd := rdiv divider + back.toNat * 4 + die.val * 8 + str % 2048 * 16 + dur % 2 ^ 32 * 2 ^ 32 }

/-- FORCED_SLOW_DOWN (R394): the 65th stretch of a window, which the record names; at ÷4 the budget is no longer enforced. -/
def execForcedSlowDown (die : Fin 2) (s : State) : Res :=
  let p := s.power
  let n := (p.stretches die).length
  .next (if n < 65 || 4 ≤ p.rootDiv then s
  else
    let t := s.noteLoad
    { t with power := { t.power with
        rootDiv := 2 * p.rootDiv
        stretchAt := p.stretchAt.set die ((p.stretches die).drop 65)
        slowDie := die
        divSince := s.wall
        calmSince := s.wall } }.writeRecord (slowRec (2 * p.rootDiv) false die 65 0))

/-- SLOW_DOWN_RETURN (R395): after 500 µs in which no window held more than 16 stretches. -/
def execSlowDownReturn (s : State) : Res :=
  let p := s.power
  .next (if p.rootDiv ≤ 1 || p.clamp || s.wall < p.calmSince + usCycles 500 then s
  else
    let t := s.noteLoad
    { t with power := { t.power with rootDiv := p.rootDiv / 2, divSince := s.wall, calmSince := s.wall } }.writeRecord
      (slowRec (p.rootDiv / 2) true p.slowDie (p.stretches p.slowDie).length ((s.wall - p.divSince) / usCycles 1)))

/-! ## The frequency (R179) -/

/-- Where the power manager heads: into the permitted set, else to its target when that lies within; FMIN of the set under the
95 °C response (R181). -/
def State.heading (s : State) : Nat :=
  let b := s.permitted
  let goal := if s.power.hot95.any id then b.1 else s.power.target
  if b.2 < b.1 then s.power.freq
  else if s.power.freq < b.1 then b.1
  else if b.2 < s.power.freq then b.2
  else if b.1 ≤ goal && goal ≤ b.2 then goal
  else s.power.freq

/-- FREQUENCY_STEP (R179): one step of 25 MHz, no more often than one per microsecond. -/
def execFrequencyStep (s : State) : Res :=
  let f := s.power.freq
  let h := s.heading
  .next (if h = f || s.wall < s.power.lastStep + usCycles 1 then s
  else { s with power := { s.power with freq := if f < h then f + 25 else f - 25, lastStep := s.wall } })

/-! ## Slip (R397) -/

/-- The physical column of a logical cell (R10). -/
def State.pcol (s : State) (c : CellId) : Nat :=
  let k := c.val % 8
  if k < fieldOf s.signature.toNat (4 * (c.val / 8)) 4 then k else k + 1
/-- The record that a kill rests on is written; a gang that runs is stopped first (R346). -/
def State.killSoon (s : State) (g : GangId) (seq : Nat) : State :=
  let x := s.gang g
  if !x.holdsCells then s
  else if x.status = .starting then s.killGang g seq
  else if x.killSeq.isSome then s
  else s.modGang g fun y => { y with reqs := y.reqs ++ [⟨if y.frozen then y.tick else y.tick + 1 + y.dstall, .kill seq⟩] }

/-- SLIP_DETECTED (R397): on a hop, every context that uses it ends and its far cell is withheld; on the bridge the device
halts. -/
def execSlipDetected (at_ : SlipPlace) (s : State) : Res :=
  .next <| match at_ with
    | .bridge => s.writeRecord (internalRec 15)
    | .hop c =>
      let (w, t) := s.free 12
      let g := s.gidOf c
      let x := s.gang g
      let busy := (s.cell c).busy
      let r : ErrRec :=
        { cls := 0x31, sev := 2, unit := 13, asid := if busy then some x.asid else none, disp := 4, tick := if busy then x.tick else 0,
          synd := crossingSynd (dieOf c).val (c.val % 64 / 8) (s.pcol c) (w.toNat % 3) + 2048 }
      let u := t.writeRecord r
      let v := if busy then u.killSoon g s.logSeq else u
      { v with withheld := setMember v.withheld c true }

/-! ## Thermal responses (R181, R398, R399) -/

/-- THERMAL_RESPONSE_95 (R181). -/
def execThermalResponse95 (die : Fin 2) (tj : Nat) (s : State) : Res :=
  .next (if tj < 95 * 16 || s.power.hot95.get die then s
  else
    let t := s.noteLoad
    { t with power := { t.power with hot95 := t.power.hot95.set die true } }.writeRecord
      { cls := 0x32, sev := 0, unit := 13, disp := 0, synd := die.val + tj % 4096 * 16 })
/-- THERMAL_RESPONSE_95_END (R181): Tj is then below 92 °C, at a value the event does not give (log entry 2). -/
def execThermalResponse95End (die : Fin 2) (s : State) : Res :=
  .next (if s.power.hot95.get die then
    let (w, t) := s.noteLoad.free 11
    { t with power := { t.power with hot95 := t.power.hot95.set die false } }.writeRecord
      { cls := 0x32, sev := 0, unit := 13, disp := 0, synd := die.val + 2 + w.toNat % (92 * 16) * 16 }
  else s)

/-- A placed task that has not begun goes back to the head of its queue. -/
def State.unplace (s : State) (g : GangId) : State :=
  let x := s.gang g
  if x.image = 0 then s.putBack g else (s.freeGang g).readyHead x.queue (.saved x.image)
/-- The contexts to be exported (R387). -/
def State.exports (s : State) : Nat :=
  if s.saveTarget then s.gangs.toList.countP (·.runs) + s.images.countP (fun i => i.committed && i.active) else 0

/-- THERMAL_CLAMP (R181, R398): the roots divide by 4, the record is written, and every running gang receives its pre-emption
request at once. -/
def execThermalClamp (die : Fin 2) (tj : Nat) (s : State) : Res :=
  .next (if tj < 100 * 16 || s.power.clamp then s
  else
    let t := ((List.finRange 128).filter fun g => (s.gang g).status = .starting).foldl (fun (u : State) g => u.unplace g) s.noteLoad
    let r : ErrRec :=
      { cls := 0x33, sev := 3, unit := 13, disp := 6,
        synd := die.val + tj % 4096 * 16 + t.exports % 65536 * 2 ^ 16 + (if s.saveTarget then 0 else 2 ^ 32) }
    let u := ({ t with power := { t.power with rootDiv := 4, clamp := true }, emergency := true } : State).enterLog r
    ((List.finRange 128).foldl (fun (v : State) g => v.requestSave g .emergency) u).emergencyEnd)

/-- BOARD_TRIP (R399): the board removes power, and no state survives. -/
def execBoardTrip (s : State) : Res := .next { s.coldReset with powered := false }

/-! ## Links (R183, R400) -/

/-- Peers bound to a sub-port whose link is down are bound to another that routes to them. -/
def State.rebind (s : State) : State × Bool :=
  let lost (p : Peer) : Bool := !s.upSubs.contains p.sub && (s.bindSub p.ip).isSome
  ({ s with peers := s.peers.map fun (p : Peer) => if lost p then { p with sub := (s.bindSub p.ip).getD p.sub } else p }, s.peers.any lost)
/-- The record of a link's change (R387). -/
def linkRec (sub : Fin 8) (up moved : Bool) : ErrRec :=
  { cls := 0x34, sev := 0, unit := 12, disp := 0, synd := sub.val + up.toNat * 8 + moved.toNat * 16 }
def State.setLink (s : State) (sub : Fin 8) (up : Bool) : State :=
  { s with links := BitVec.ofNat 8 (putField s.links.toNat sub.val 1 up.toNat) }

/-- LINK_DOWN (R400): peers are rebound, the change is recorded, and the sub-port's management sessions end. -/
def execLinkDown (sub : Fin 8) (s : State) : Res :=
  .next (if !s.upSubs.contains sub then s
  else
    let (t, moved) := (s.setLink sub false).rebind
    let gone := (s.sessions.filter fun x => decide (x.sub = sub)).map (·.id)
    gone.foldl (fun (u : State) id => u.endSession id) (t.writeRecord (linkRec sub false moved)))
/-- LINK_UP (R400). -/
def execLinkUp (sub : Fin 8) (s : State) : Res :=
  .next (if !s.subExists sub || s.upSubs.contains sub then s
  else
    let (t, moved) := (s.setLink sub true).rebind
    t.writeRecord (linkRec sub true moved))

/-- PORTCFG_WRITE (R182): SPLIT 3 leaves SPLIT alone, and the other fields are written (log entry 111). A change of SPLIT takes the port's
links down and brings those of the new split up, as LINK_DOWN and LINK_UP do; frames lost meanwhile are retransmitted (R385). -/
def execPortcfgWrite (p : Fin 2) (v : BitVec 64) (s : State) : Res :=
  let f (lo n : Nat) := fieldOf v.toNat lo n
  let split := if f 0 2 = 3 then s.ports[p].split else f 0 2
  let subs := (List.finRange 8).filter fun k => decide (k.val / 4 = p.val)
  let thru (g : Fin 8 → State → Res) (k : Fin 8) (u : State) : State := match g k u with
    | .next t => t
    | _ => u
  let down := if split = s.ports[p].split then s else subs.foldl (fun u k => thru execLinkDown k u) s
  let put := { down with ports := s.ports.set p { split := split, ptpen := f 2 1 = 1, mgmt := f 3 1 = 1 } }
  .next (if split = s.ports[p].split then put else subs.foldl (fun u k => thru execLinkUp k u) put)

/-! ## TIME's input (R184, R185, R401) -/

/-- ANNOUNCE_TIMEOUT (R184): the time input moves to another sub-port that has PTPEN set, of firmware's choice. -/
def execAnnounceTimeout (s : State) : Res :=
  let l := s.upSubs.filter fun k => decide (k ≠ s.clock.input) && (s.ports[Fin.ofNat 2 (k.val / 4)]).ptpen
  let (w, t) := s.free 13
  .next <| match l[w.toNat % l.length]? with
    | some k => { t with clock := { t.clock with input := k } }
    | none => s

/-- The counts of measurements under and over 25 ns in a row, and the lock they give (R185). -/
def Clock.judge (c : Clock) (offset : Int) : Clock :=
  let good := if offset.natAbs < 25 then c.good + 1 else 0
  let bad := if 25 < offset.natAbs then c.bad + 1 else 0
  { c with
    good := good
    bad := bad
    offset := offset
    locked := if c.locked then decide (bad < 4) else decide (16 ≤ good) }
/-- TIME steps forward where it lies more than 1 ms behind (R185). -/
def Clock.stepTo (c : Clock) (offset : Int) : Clock :=
  if offset < -1000000 then { c with time := c.time + BitVec.ofNat 80 (offset.natAbs * 65536), stepped := true } else c
/-- The record of a change of lock (R387). -/
def lockRec (c : Clock) : ErrRec :=
  { cls := 0x35, sev := 0, unit := 12, disp := 0,
    synd := c.input.val + c.locked.toNat * 8 + (c.locked && c.stepped).toNat * 16 + (BitVec.ofInt 32 c.offset).toNat * 2 ^ 32 }

/-- PTP_MEASUREMENT (R185, R401): the offset of TIME from the grandmaster in ns. Firmware slews towards the grandmaster by at most
500 ppm, at a rate of its own (log entry 2). -/
def execPtpMeasurement (offset : Int) (s : State) : Res :=
  let (w, t) := s.free 14
  let c := (s.clock.judge offset).stepTo offset
  let rate : Int := (w.toNat % 500001 : Nat)
  let c1 := { c with slew := if offset < 0 then rate else if 0 < offset then -rate else 0 }
  .next (if s.clock.locked && !c.locked then
    ({ t with clock := { c1 with wasLocked := true, stepped := decide (offset < -1000000) } } : State).writeRecord (lockRec c)
  else if !s.clock.locked && c.locked then
    (if s.clock.wasLocked then ({ t with clock := c1 } : State).writeRecord (lockRec c) else { t with clock := c1 })
  else { t with clock := c1 })

end Sys2Proof.Machine
end

