-- ==== Sys2Proof/Machine/Stores.lean ====
section
/-! DEFINITION. Failures of device memory: scrubbing and row repair (R371), reconstruction of a chunk (R372, R373), dropped banks
(R85, R375, R376), lost stacks (R90, R377–R379), and the layout changes frame by frame (R88, R89, R380). -/

namespace Sys2Proof.Machine

/-! ## Scrub and reconstruction (R371–R373) -/

/-- SYND of classes 0x20 and 0x21 for HBM (R374). -/
def hbmSynd (recon repair scrub : Bool) (whyf line : Nat) : Nat :=
  6 + recon.toNat * 16 + repair.toNat * 32 + scrub.toNat * 64 + whyf % 8 * 128 + line % 65536 * 2 ^ 16
def hbmRec (cls sev addr synd : Nat) : ErrRec := { cls := cls, sev := sev, unit := 9, disp := 0, addr := addr, synd := synd }

/-- SCRUB (R371): each correction in the line is recorded; the row is repaired when 16 have struck it. -/
def execScrub (stack : Fin 12) (line corrected : Nat) (s : State) : Res :=
  let key := stack.val * 2 ^ 40 + line
  let n := assocGet 0 s.rowErrs key + corrected
  let t := (List.range corrected).foldl (fun (u : State) _ => u.writeRecord (hbmRec 0x20 0 0 (hbmSynd false false true 0 line))) s
  .next (if 16 ≤ n then
    { t with rowErrs := assocPut 0 t.rowErrs key 0 }.writeRecord (hbmRec 0x20 0 0 (hbmSynd false true true 0 line))
  else { t with rowErrs := assocPut 0 t.rowErrs key n })

/-- The chunks of the stripe that holds a chunk. -/
def Layout.stripeOf (l : Layout) (c : Nat) : List Nat :=
  let n := if l.eleven c then 10 else 11
  (List.range n).map fun j => c / n * n + j
/-- Is the parity at a block of a chunk's stripe stale: is a data block at that offset poisoned (R373)? -/
def State.stale (s : State) (c k : Nat) : Bool := (s.layout.stripeOf c).any fun d => (s.blockRead (8 * d + k)).2
/-- Why a block of a chunk cannot be rebuilt, by WHYF (R372, R374): no parity, a second bad chunk, stale parity. -/
def State.rebuildFails (s : State) (c : Nat) (bad : List Nat) (k : Nat) : Option Nat :=
  if s.layout.mode = 1 && !s.layout.eleven c then some 1
  else if bad.contains k then some 2
  else if s.stale c k then some 3
  else none
/-- The line of a chunk. -/
def State.lineOf (s : State) (c : Nat) : Nat :=
  let p := s.layout.place c
  (s.layout.bankOf p.1 p.2.2 c).2.2.2

/-- The state that a block of a member's image holds is poisoned, where poison can stand for it (R164, R389): a row, a quarter of a slot
row, a latch row, a metadata entry, a queue entry, a V register, a quarter of a tile. -/
def Cell.poisonAt (x : Cell) (o : Nat) : Cell :=
  let entry (i : Nat) (k : Nat) (l : List QEntry) : List QEntry := if o / 16 % 8 = i && o % 16 = k then l.modify k fun e => { e with tag := true } else l
  if o < 24576 then x.putRow o (x.row o) true
  else if o < 32768 then
    let n := o - 24576
    let k : Fin 16 := Fin.ofNat 16 (n / 512)
    let i := n / 4 % 128
    { x with cr := x.cr.putAt k i (x.cr.rowAt k i) (x.cr.tagsAt k i ||| BitVec.ofNat 256 ((2 ^ 64 - 1) * 2 ^ (64 * (n % 4)))) }
  else if o < 33024 then
    let tag (l : Nat) (y : Latch) : Latch :=
      if (o - 32768) / 128 = l then { y with tags := y.tags ||| BitVec.ofNat 32768 ((2 ^ 256 - 1) * 2 ^ (256 * (o % 128))) } else y
    { x with me := { x.me with bl := Vector.ofFn fun l => tag l.val x.me.bl[l] } }
  else if o < 33152 then { x with me := { x.me with metaq := x.me.metaq.modify ((o - 33024) / 32) fun e => (e.1, true) } }
  else if o < 33280 then
    { x with q := { x.q with
        lq := Vector.ofFn fun i => entry i.val (o % 16) x.q.lq[i]
        sq := Vector.ofFn fun i => entry (4 + i.val) (o % 16) x.q.sq[i]
        mq := Vector.ofFn fun i => entry (6 + i.val) (o % 16) x.q.mq[i] } }
  else if o < 33312 then
    { x with ve := { x.ve with vTag := x.ve.vTag.set (Fin.ofNat 32 o) (BitVec.allOnes 64) } }
  else if o < 33328 then
    let n : Fin 4 := Fin.ofNat 4 ((o - 33312) / 4)
    let tag (y : Tile) : Tile := { y with tags := y.tags ||| BitVec.ofNat 256 ((2 ^ 64 - 1) * 2 ^ (64 * (o % 4))) }
    { x with ve := { x.ve with z := x.ve.z.set n (tag x.ve.z[n]) } }
  else x
/-- A block of an image's region takes its poison mark, and with it the state that it holds. -/
def Image.poisonBlock (i : Image) (b : Nat) : Image :=
  let k := b - i.region / 256
  if b < i.region / 256 || 256 + memberBlocks * i.members.length ≤ k then i
  else
    let at_ (m : Nat) (x : Cell) : Cell := if 256 ≤ k && (k - 256) / memberBlocks = m then x.poisonAt ((k - 256) % memberBlocks) else x
    { i with marks := markPut i.marks k true, members := i.members.mapIdx at_ }
/-- A block of device memory is poisoned, in the image whose region holds it too (R373, R389). -/
def State.poisonBlock (s : State) (b : Nat) : State :=
  let t := s.blockWrite b 0 0 true
  { t with images := t.images.map fun (i : Image) => i.poisonBlock b }
/-- Blocks of a chunk that cannot be rebuilt are poisoned, and recorded (R372). -/
def State.loseBlocks (s : State) (chunk : Nat) (why : Nat → Option Nat) : State :=
  match (List.range 8).filter fun k => (why k).isSome with
  | [] => s
  | k :: rest => ((k :: rest).foldl (fun (u : State) j => u.poisonBlock (8 * chunk + j)) s).writeRecord
      (hbmRec 0x21 1 (2048 * chunk + 256 * k) (hbmSynd true false false ((why k).getD 0) (s.lineOf chunk)))
/-! ## Lost stacks (R90, R377–R379) -/

/-- The context that issued a write: running on its cell since before the write, else saved; none of a peer's write or an engine's. -/
inductive Issuer where
  | gang (g : GangId)
  | image (id : Nat)
  | gone
  deriving DecidableEq, Repr

def State.issuer (s : State) (d : Delta) : Issuer :=
  let g := s.gidOf d.cell
  let x := s.gang g
  if !d.own then .gone
  else if (s.cell d.cell).busy && x.holdsCells && x.asid = d.asid && x.seq < d.uid then .gang g
  else match s.images.find? fun i => i.active && i.gang.asid == d.asid && i.gang.cells.contains d.cell with
    | some i => .image i.id
    | none => if (s.cell d.cell).busy && x.holdsCells && x.asid = d.asid then .gang g else .gone

/-- A range of lost bytes of one context. -/
structure LostRange where
  who  : Issuer
  d    : Delta
  blk  : Nat
  n    : Nat
  deriving DecidableEq, Repr

/-- Blocks in rising order, each once for a context. -/
def putLost (x : Issuer × Delta) : List (Issuer × Delta) → List (Issuer × Delta)
  | [] => [x]
  | y :: l => if x.1 = y.1 ∧ x.2.blk = y.2.blk then y :: l else if x.2.blk < y.2.blk then x :: y :: l else y :: putLost x l
/-- The contiguous ranges of each context. -/
def lostRanges (l : List (Issuer × Delta)) : List LostRange :=
  l.foldl (fun rs x =>
    if rs.any fun r => r.who = x.1 && r.blk + r.n = x.2.blk then
      rs.map fun r => if r.who = x.1 && r.blk + r.n = x.2.blk then { r with n := r.n + 1 } else r
    else rs ++ [⟨x.1, x.2, x.2.blk, 1⟩]) []
/-- The record of a lost range (R379). -/
def State.lostRec (s : State) (stack : Nat) (r : LostRange) : ErrRec :=
  { cls := 0x26, sev := 2, unit := 9, cell := if r.d.own then some (r.d.cell, (s.cell r.d.cell).sq.segid) else none,
    asid := if r.d.own then some r.d.asid else none, disp := 4,
    tick := match r.who with
      | .gang g => (s.gang g).tick
      | .image id => ((s.image id).map (·.gang.tick)).getD 0
      | .gone => 0,
    addr := 256 * r.blk, synd := stack + 256 * r.n * 2 ^ 32 }
/-- The issuing context of a lost range is killed, a saved one with its image. -/
def State.killIssuer (s : State) (w : Issuer) (seq : Nat) : State :=
  match w with
  | .gang g => s.killSoon g seq
  | .image id => match s.image id with
    | some i => s.killImage i seq
    | none => s
  | .gone => s

/-- Writes whose data was performed on the lost stack and whose delta had not reached its parity stack are poisoned (R379); a
write whose parity lay there has none, and a full-stripe write keeps its data until it is protected. -/
def State.loseWrites (s : State) (stack : Nat) : State :=
  let at_ (d : Delta) : Nat × Nat × Nat := s.layout.place (d.blk / 8)
  let lost := s.deltas.filter fun d => (at_ d).1 = stack && !d.full
  let rs := lostRanges (lost.foldl (fun l d => putLost (s.issuer d, d) l) [])
  let t : State := { s with deltas := s.deltas.filter fun (d : Delta) => ((at_ d).1 ≠ stack || d.full) && (at_ d).2.1 ≠ stack }
  let u := lost.foldl (fun (u : State) d => u.blockWrite d.blk 0 0 true) t
  rs.foldl (fun (v : State) r => (v.writeRecord (s.lostRec stack r)).killIssuer r.who v.logSeq) u

/-- The record of a lost stack (R374). -/
def stackRec (stack trig : Nat) (fatal : Bool) : ErrRec :=
  { cls := 0x25, sev := if fatal then 3 else 1, unit := 9, disp := if fatal then 6 else 7, synd := stack + trig * 16 + fatal.toNat * 64 }

/-- A stack is lost: the first loss of a 12-stack device leads to degraded mode, any other halts the device (R378). -/
def State.loseStack (s : State) (stack : Fin 12) (trig : Nat) : State :=
  if s.layout.mode = 0 then
    let l := s.layout
    let ends := l.dropping.any fun b => b.stack = stack
    let t : State := { s with layout := { l with
      mode := 1
      lost := stack
      moving := l.moving && !ends
      change := if ends then 0 else l.change
      dropping := if ends then none else l.dropping
      waiting := l.waiting.filter fun (b : BankId × Nat) => decide (b.1.stack ≠ stack) } }
    (t.writeRecord (stackRec stack.val trig false)).loseWrites stack.val
  else if s.layout.lost = stack then s
  else s.writeRecord (stackRec stack.val trig true)

/-- The uncorrectable chunk reads of the last second with one of a chunk at this moment, one for each bank (R377). -/
def State.struck (s : State) (chunk : Nat) : List (Nat × Nat) :=
  let p := s.layout.place chunk
  let b := s.layout.bankOf p.1 p.2.2 chunk
  let key := p.1 * 4096 + b.1 * 128 + b.2.1 * 64 + b.2.2.1
  (s.badReads.filter fun e => s.wall < e.1 + usCycles 1000000 && decide (e.2 ≠ key)) ++ [(s.wall, key)]
/-- The banks of a chunk's stack that uncorrectable reads have struck within a second. -/
def State.banksStruck (s : State) (chunk : Nat) : Nat :=
  ((s.struck chunk).filter fun e => decide (e.2 / 4096 = (s.layout.place chunk).1)).length
/-- An uncorrectable read of a chunk is counted: the eighth bank of a stack within a second loses the stack (R377). -/
def State.strikeBank (s : State) (chunk : Nat) : State :=
  let t : State := { s with badReads := s.struck chunk }
  if 8 ≤ s.banksStruck chunk then t.loseStack (Fin.ofNat 12 (s.layout.place chunk).1) 2 else t

/-- CHUNK_RECONSTRUCTION (R372): the deltas queued for the stripe's parity come first; the blocks that cannot be rebuilt (`bad`
names those at which another chunk is uncorrectable too) are poisoned. A read that strikes the eighth bank of its stack within a second
loses the stack (R377). -/
def execChunkReconstruction (chunk : Nat) (bad : List Nat) (s : State) : Res :=
  let t : State := { s with deltas := s.deltas.filter fun (d : Delta) => decide (d.parity ≠ s.layout.parityOf chunk) }
  let u := if (List.range 8).all fun k => (s.rebuildFails chunk bad k).isNone then
    t.writeRecord (hbmRec 0x20 0 (2048 * chunk) (hbmSynd true false false 0 (s.lineOf chunk)))
    else t.loseBlocks chunk (s.rebuildFails chunk bad)
  .next (u.strikeBank chunk)

/-- STACK_LOSS (R377, R378). -/
def execStackLoss (stack : Fin 12) (trig : BitVec 2) (s : State) : Res := .next (s.loseStack stack trig.toNat)

/-! ## Dropped banks (R85, R375, R376) -/

def bankPlace (b : BankId) : Nat := (b.stack.val * 32 + b.chan.val) * 2 + b.pc.val
/-- The banks dropped or to be dropped. -/
def Layout.drops (l : Layout) : List (Nat × Nat) :=
  l.dropped ++ (l.dropping.toList ++ l.waiting.map (·.1)).map fun b => ((bankPlace b), b.bank.val)
/-- Start the copy of a dropped bank's chunks. -/
def Layout.startDrop (l : Layout) (b : BankId) : Layout :=
  { l with moving := true, wmark := 0, change := 1, dropping := some b }
/-- The mode of the BANK function (R191). -/
def State.bankMode (s : State) : Nat := fieldOf s.funcmode.toNat 4 2

/-- BANK_DROP (R375): recorded, and started once no other layout change runs, at firmware's moment where the function was in an assisted
mode when the drop was asked for (R191); a second bank of a pseudo-channel loses the stack (R376). -/
def execBankDrop (b : BankId) (trig : BitVec 2) (s : State) : Res :=
  let l := s.layout
  .next (if l.mode ≠ 0 && l.lost = b.stack || l.drops.contains ((bankPlace b), b.bank.val) then s
  else if l.drops.any fun d => d.1 = (bankPlace b) then s.loseStack b.stack 3
  else
    let t := s.writeRecord
      { cls := 0x24, sev := 1, unit := 9, disp := 7,
        synd := b.stack.val + b.chan.val * 16 + b.pc.val * 512 + b.bank.val * 1024 + trig.toNat * 2 ^ 16 }
    let k : Layout := { l with failed := if trig = 2 then l.failed ++ [b] else l.failed }
    { t with layout := if l.moving || l.waiting ≠ [] || s.bankMode ≠ 0 then { k with waiting := l.waiting ++ [(b, s.bankMode)] } else k.startDrop b })

/-! ## Layout changes frame by frame (R88, R89, R380) -/

/-- The record of a change to eleven stacks (R374). -/
def restripeRec (phase high : Nat) : ErrRec := { cls := 0x27, sev := 1, unit := 10, disp := 7, synd := phase + high % 2 ^ 32 * 2 ^ 32 }

/-- The deltas of a frame's stripes in the layout it leaves are applied before its lock; those of a new stripe whose last chunk
now lies below the watermark are covered by its new parity (R88). -/
def State.settleDeltas (s : State) (frame : Nat) (new : Layout) : State :=
  let old := (List.range 32).map fun k => s.layout.parityOf (32 * frame + k)
  { s with deltas := s.deltas.filter fun (d : Delta) =>
      !old.contains d.parity && !(new.change = 2 && decide (2 ^ 40 ≤ d.parity) && new.hasParity d.parity) }

/-- The last frame of a change has been copied: the new layout is in force, and the next drop may begin. -/
def State.finishChange (s : State) : State :=
  let l := s.layout
  let done : Layout := { l with
    moving := false
    wmark := 0
    change := 0
    dropping := none
    failed := l.failed.filter fun (b : BankId) => decide (l.dropping ≠ some b)
    mode := if l.change = 2 then 2 else l.mode
    dropped := l.dropped ++ l.dropping.toList.map fun b => ((bankPlace b), b.bank.val) }
  let next : Layout := match done.waiting with
    | (b, 0) :: rest => { done.startDrop b with waiting := rest }
    | _ :: _ => done
    | [] => done
  let t : State := { s with layout := next }
  if l.change = 2 then t.writeRecord (restripeRec 1 0) else t

/-- Does a chunk lie in the bank that is being dropped? -/
def Layout.inDropped (l : Layout) (c : Nat) : Bool :=
  let p := l.place c
  let q := l.bankOf p.1 p.2.2 c
  l.change = 1 && l.dropping.any fun b => p.1 = b.stack.val && q.1 = b.chan.val && q.2.1 = b.pc.val && q.2.2.1 = b.bank.val
/-- The chunks of a frame that lie in a failed bank come from their stripes; what cannot be rebuilt is poisoned at its new place, and the
copy goes on (R375). -/
def State.copyFailed (s : State) (frame : Nat) : State :=
  if s.layout.dropping.any fun b => s.layout.failed.contains b then
    (List.range 32).foldl (fun (u : State) k =>
      let c := 32 * frame + k
      if s.layout.inDropped c then u.loseBlocks c (s.rebuildFails c []) else u) s
  else s

/-- RESTRIPE_FRAME_COPY (R88): the locked frame at the watermark is copied, the accesses it held go on, and the watermark
advances; where firmware chose to wait, a bank's drop begins. -/
def execRestripeFrameCopy (s : State) : Res :=
  let l := s.layout
  .next (if !l.moving then
    (match l.waiting with
    | b :: rest => { s with layout := { l.startDrop b.1 with waiting := rest } }
    | [] => s)
  else
    let f := l.wmark / 65536
    let new : Layout := { l with wmark := l.wmark + 65536 }
    let bound := if l.change = 2 then 10321920 else s.frames
    let t := ({ (s.settleDeltas f new).copyFailed f with layout := new } : State).unhold f
    if bound ≤ f + 1 then t.finishChange else t)

/-- The bound of the 11-stack layout (R89). -/
def bound11 : Nat := 10321920

/-- The entries above the leaves of a tile table with so many levels at a root, by their addresses (R80). -/
def State.entriesOf (s : State) : Nat → Nat → List Nat
  | 0, _ | 1, _ => []
  | k + 2, frame => (List.range 8192).flatMap fun i =>
    let a := 65536 * frame + 8 * i
    let w := (s.devRead a 8).1
    if fieldOf w 38 1 = 1 && decide (fieldOf w 0 36 < s.frames) then a :: s.entriesOf (k + 1) (fieldOf w 0 36) else []
/-- The words that name a frame of a tile table, by their addresses: roots in the descriptors, and entries of nodes (R76, R80). -/
def State.tableRefs (s : State) : List Nat :=
  s.tables.flatMap fun t => (List.range 4096).flatMap fun i =>
    match (s.descWord t.asid (BitVec.ofNat 12 i)).map (parseDesc s.frames) with
    | some (.ok d) => (t.addr + 64 * i + 32) :: s.entriesOf d.levels d.root
    | _ => []
/-- The frame that such a word names. -/
def State.refFrame (s : State) (a : Nat) : Nat := fieldOf (s.devRead a 8).1 0 36
/-- The frames of a tensor table: 4,096 descriptors of 64 bytes. -/
def TTable.frames (t : TTable) : List Nat := (List.range ((t.addr % 65536 + 262144 + 65535) / 65536)).map (t.addr / 65536 + ·)
/-- The frames that leaves map here. -/
def State.mapped (s : State) : List Nat :=
  (s.leavesWith fun w => BitVec.ofNat 12 (fieldOf w 44 12) = s.selfdev).map fun l => s.refFrame l.addr
/-- The allocated frames, each once: pages, tile tables, tensor tables, the copies of duplicated pages, and the targets of
migrations (R76, R80, R92, R93). -/
def State.allocated (s : State) : List Nat :=
  (s.mapped ++ s.tableRefs.map s.refFrame ++ s.tables.flatMap (·.frames) ++ s.dups.flatMap (fun d => d.copies.map (·.2)) ++
    (s.migs.filter fun m => m.dev == s.selfdev).map (·.newFrame)).dedup
/-- The last frame of an image's region. -/
def Image.lastFrame (i : Image) : Nat := (i.region + 65536 + i.gang.size * 8552448) / 65536
/-- Regions of saved images that reach above the bound move below it, to a place of firmware's choice (R380). -/
def State.moveRegions (s : State) : State :=
  s.images.foldl (fun u i =>
    if i.lastFrame < bound11 then u
    else
      let r := u.freshRegion bound11 i.gang.size
      r.2.modImage i.id fun j => { j with region := r.1 }) s

/-- A frame of a tile table goes to a frame below the bound, and the words that name it follow. -/
def State.moveNode (s : State) (f : Nat) : State :=
  let (w, t) := s.free 5
  let new := w.toNat % bound11
  let u := t.copyFrame f new
  { (s.tableRefs.filter fun a => s.refFrame a = f).foldl (fun (v : State) a =>
      -- an entry that the moved frame itself holds stands in the copy
      let b := if a / 65536 = f then 65536 * new + a % 65536 else a
      (v.devWriteIn b 8 (putField (v.devRead b 8).1 0 36 new)).engineDelta (b / 256)) u with descs := [] }
/-- A tensor table goes to a place below the bound, and the ASID's context names it there. -/
def State.moveTable (s : State) (t : TTable) : State :=
  let (w, u) := s.free 5
  let new := 65536 * (w.toNat % (bound11 - 4))
  let v := (List.range 4096).foldl (fun (v : State) i =>
    (v.devWriteIn (new + 64 * i) 64 (s.devRead (t.addr + 64 * i) 64).1).engineDelta ((new + 64 * i) / 256)) u
  { v with tables := v.tables.map fun x => if x = t then { x with addr := new } else x }
/-- Firmware moves one frame below the bound: a duplicated page is collapsed first, a page migrates, a table is copied. The new home
die of a page is firmware's choice, a free value (log entry 115). -/
def State.moveFrame (s : State) (f : Nat) : State :=
  if (s.dupOf f).isSome then s.startCollapse f 0
  else match s.dups.find? fun d => d.copies.any fun c => decide (c.2 = f) with
    | some d => s.startCollapse d.frame 0
    | none =>
      if s.mapped.contains f then
        let (w, t) := s.free 5
        t.startMigration f (Fin.ofNat 2 (w.toNat / bound11)) s.selfdev (w.toNat % bound11)
      else match s.tables.find? fun t => t.frames.contains f with
        | some t => s.moveTable t
        | none => s.moveNode f

/-- RESTRIPE_11_STACKS (R380): the change starts once no frame above the bound is allocated; firmware first moves such frames,
one each time, or reports once that they cannot fit. -/
def execRestripe11Stacks (s : State) : Res :=
  .next (if s.layout.mode ≠ 1 || s.layout.moving then s
  else
    let all := s.allocated
    let u : State := { s with layout := { s.layout with change := 0 } }
    let high := all.filter fun f => decide (bound11 ≤ f)
    if high = [] then
      let t := s.moveRegions
      { t.writeRecord (restripeRec 0 0) with layout := { s.layout with moving := true, wmark := 0, change := 2 } }
    else if bound11 - (all.length - high.length) < high.length then
      (if s.layout.change = 3 then s
      else ({ s with layout := { s.layout with change := 3 } } : State).writeRecord (restripeRec 2 high.length))
    else match high.find? fun f => !(s.migs.any fun m => decide (m.frame = f ∨ m.newFrame = f)) with
      | none => u
      | some f => u.moveFrame f)

end Sys2Proof.Machine
end

