-- ==== Sys2Proof/Machine/Frames.lean ====
section
/-! DEFINITION. The device fabric (R96, R97, R168, R308–R311, R385, R386, R388): frames from peers, performed once each and counted,
the messages and counts that wait here, acknowledgements, retransmissions, and peers that go down. -/

namespace Sys2Proof.Machine

/-! ## Where traffic for a channel goes (R168, R308) -/

/-- The context behind a channel's binding: a cell, or a member of a saved image. -/
def State.chanPlace (s : State) (h : Chan) (row : Nat) : Option Loc :=
  match h.img with
  | none => some (.sp h.cell row)
  | some id => (s.image id).map fun i => .img id (i.gang.member h.cell) row
/-- May traffic reach it now: an image takes it once its commit record stands (R168). -/
def State.chanOpen (s : State) (h : Chan) : Bool :=
  match h.img with
  | none => true
  | some id => (s.image id).any (·.committed)
def State.chanOf (s : State) (n : BitVec 10) : Option Chan := s.chans.find? fun h => h.n == n

/-- The descriptor fault of a count that cannot be added, against the context that bound the channel, not precise (R310). -/
def State.countFault (s : State) (h : Chan) (cause : Nat) : State :=
  let f : Flt := { (descFlt .se cause) with unit := 12 }
  match h.img with
  | none =>
    let vague (p : PFault) : PFault := if p.id = s.uid then { p with precise := false } else p
    (s.fault h.cell .se 0 (s.gangOf h.cell).tick none f).modGang (s.gidOf h.cell) fun g => { g with faults := g.faults.map vague }
  | some id => match s.image id with
    | none => s
    | some i =>
      let t := s.writeRecord { cls := 0x0E, sev := 2, unit := 12, asid := some h.asid, akind := true, disp := 4, tick := i.gang.tick, synd := cause }
      t.killImage i s.logSeq

/-- Bytes counted at the arrival word of a channel (R64, R310); none while no word is bound, or its image is not committed. -/
def State.chanCount (s : State) (n : BitVec 10) (bytes : Nat) : Option State :=
  match s.chanOf n with
  | none => none
  | some h => match h.aw with
    | none => none
    | some a =>
      if !s.chanOpen h then none
      else match s.chanPlace h (a / 256) with
        | none => none
        | some l => (s.holder l).map fun x => match x.arrival a with
          | .error k => s.countFault h k
          | .ok w => if w.armed && w.target = 0 then s.countFault h 12
            else s.modHolder l fun y => y.putArrival a (w.add bytes)

/-! ## Messages (R309) -/

/-- What becomes of a message: it waits, is refused, or its rows are to be written. -/
inductive Taken where
  | waits
  | refused
  | rows (l : List Loc)

/-- The rows of the element at the tail of a channel's ring. -/
def State.elementRows (s : State) (h : Chan) (r : Rcb) (n : Nat) : List Loc :=
  (List.range n).filterMap fun k => s.chanPlace h (r.base + r.tail.toNat % r.depth * r.esize + k)
/-- The ring of a channel, where traffic may reach it. -/
def State.chanRing (s : State) (h : Chan) : Option (Nat × Loc × Rcb) :=
  match h.ring with
  | none => none
  | some loc =>
    if !s.chanOpen h then none
    else (s.chanPlace h (loc / 4)).bind fun l => (s.holder l).bind fun x => match x.rcb loc with
      | .error _ => none
      | .ok r => some (loc, l, r)
/-- A message at its channel; one after another takes the element at the tail. -/
def State.takeMessage (s : State) (n : BitVec 10) (rows : List (Row × Bool)) : Taken :=
  match s.chanOf n with
  | none => .waits
  | some h => match s.chanRing h with
    | none => .waits
    | some (_, _, r) =>
      if r.esize < rows.length then .refused
      else if r.stage || r.freeCount = 0 || (s.inbound.any fun i => i.uids ≠ [] && match i.frame.body with
          | .message k _ => k == n
          | _ => false) then .waits
      else .rows (s.elementRows h r rows.length)
/-- The tail advances by one once the rows of a message are performed (R309); none while the ring is out of reach. -/
def State.endMessage (s : State) (n : BitVec 10) : Option State :=
  (s.chanOf n).bind fun h => (s.chanRing h).bind fun (loc, l, r) => (r.advTail 1).map fun r' => s.modHolder l fun y => y.putCounts loc r'

/-! ## Inbound frames (R96, R97) -/

/-- The value of bytes, low first, and their mask from an offset in a block. -/
def bytesNat (l : List Byte) : Nat := packNat 8 (fun i => (l.getD i 0).toNat) l.length
def bytesOf (v n : Nat) : List Byte := (List.range n).map fun i => BitVec.ofNat 8 (fieldOf v (8 * i) 8)
/-- The bytes of a frame as writes of the blocks they lie in. -/
def blockParts : Nat → Nat → List Byte → List (Nat × Nat × List Byte)
  | 0, _, _ => []
  | fuel + 1, a, l =>
    if l = [] then []
    else
      let m := min l.length (256 - a % 256)
      (a / 256, a % 256, l.take m) :: blockParts fuel (a + m) (l.drop m)
/-- What a frame comes to: it waits, its work goes on, or it is performed and acknowledged. -/
inductive Arrived where
  | waits (s : State)
  | goes (s : State) (i : Inbound)
  | acked (s : State) (data : List Byte)

def Inbound.new (f : Frame) (uids : List Nat) : Inbound := { frame := f, uids := uids, counted := false, flags := 0, got := [], bad := false }
/-- Where a page of this device that has been handed over now has its home (R93). -/
def State.movedTo (s : State) (frame : Nat) : Option (BitVec 12 × Nat) := (s.handed.find? fun h => decide (h.1 = frame)).map (·.2)
/-- A write of a frame enters the PKG fabric on NP, under the next number (R123, R124); to a page that has been handed over, on its
way to the new home (R93). -/
def State.inboundWrite (s : State) (f : Frame) (l : Loc) (op : WOp) (v : Row) (bytes : BitVec 256) (tag : Bool) : State :=
  let w : FWrite := { uid := s.uid, cell := 0, path := .np, cmd := 0, by_ := none, loc := l, op := op, v := v, bytes := bytes, tag := tag,
                      held := false, src := some (f.dev, f.fid) }
  let t : State := { s with fabric := s.fabric ++ [w], uid := s.uid + 1 }
  match w.frame.bind s.movedTo with
  | some (dev, frame) => t.redirect w dev frame
  | none => t
/-- The writes of a frame, one for each block (R124). -/
def State.inboundBytes (s : State) (f : Frame) (a : Nat) (op : WOp) (l : List Byte) (tag : Bool) : State × List Nat :=
  (blockParts (l.length + 1) a l).foldl (fun (r : State × List Nat) p =>
    let bytes : BitVec 256 := BitVec.ofNat 256 ((2 ^ p.2.2.length - 1) * 2 ^ p.2.1)
    (r.1.inboundWrite f (.hbm p.1) op (BitVec.ofNat 2048 (bytesNat p.2.2 * 2 ^ (8 * p.2.1))) bytes tag, r.2 ++ [r.1.uid])) (s, [])
/-- A frame goes on to the new home of its page; what comes back is passed on (R93). -/
def State.passOn (s : State) (f : Frame) (dev : BitVec 12) (body : OutBody) : Arrived :=
  .goes (s.sendFrameAs s.uid .np 4 false dev 0 0 body).fresh (Inbound.new f [s.uid])

/-- A frame beyond the allocatable range is reported back (R97). -/
def State.frameBeyond (s : State) (a : Nat) : Bool := s.frames ≤ a / 65536
def beyondAck : List Byte := [6]
/-- The copy held here of a frame of a peer. -/
def State.copyOf (s : State) (dev : BitVec 12) (frame : Nat) : Option Dup :=
  s.dups.find? fun d => match d.home with
    | some (v, f, _) => v == dev && decide (f = frame)
    | none => false

/-- The die whose sync engine performs an operation of a peer: the home die in a leaf of the page here, else that which holds the line,
else a free choice (R94, log entry 115). -/
def State.homeDie (s : State) (a : Nat) : Fin 2 × State :=
  match (s.leavesOf s.selfdev (a / 65536)).head?, s.lineAt (a / 64) with
  | some l, _ => (Fin.ofNat 2 (fieldOf (s.devRead l.addr 8).1 42 2), s)
  | none, some l => (l.die, s)
  | none, none =>
    let (w, t) := s.free 15
    (Fin.ofNat 2 w.toNat, t)
/-- Does a page take no atomic now: duplicated, locked, or its lines on their way to a new home (R88, R92, R93)? -/
def State.noAtomics (s : State) (frame : Nat) : Bool :=
  (s.dupOf frame).isSome || s.lockedFrame frame || s.migs.any fun m => m.is s.selfdev frame && m.sealed_
/-- An atomic that reaches a page which has been handed over is not performed (R93, log entry 119). -/
def movedAck : List Byte := [7]

/-- The next block of a read (R124). -/
def State.readOn (s : State) (i : Inbound) (a n : Nat) : Arrived :=
  let b := a + i.got.length
  let m := min (n - i.got.length) (256 - b % 256)
  let r := s.devRead b m
  let j : Inbound := { i with got := i.got ++ bytesOf r.1 m, bad := i.bad || r.2 }
  if j.got.length < n then .goes s j else .acked s (j.got ++ (if j.bad then [1] else []))

/-- Begin what a frame asks for. -/
def State.performFrame (s : State) (f : Frame) : Arrived :=
  match f.body with
  | .write a l tag _ =>
    if s.frameBeyond a then .acked s beyondAck
    else
      let r := s.inboundBytes f a .set l tag
      .goes r.1 (Inbound.new f r.2)
  | .add a fmt rm l tag =>
    if s.frameBeyond a then .acked s beyondAck
    else
      let r := s.inboundBytes f a (.add fmt rm) l tag
      .goes r.1 (Inbound.new f r.2)
  | .count a n =>
    if s.frameBeyond a then .acked s beyondAck
    else match s.movedTo (a / 65536) with
      | some (dev, frame) =>
        if dev = s.selfdev then
          let d := s.homeDie (65536 * frame + a % 65536)
          (match d.2.countAt d.1 (65536 * frame + a % 65536) n with
          | .ok t => .acked t []
          | .error k => .acked s [BitVec.ofNat 8 k])
        else s.passOn f dev (.update (65536 * frame + a % 65536) n 0 0)
      | none =>
        if s.noAtomics (a / 65536) then .waits (s.collapseFor (a / 65536))
        else
          let d := s.homeDie a
          (match d.2.countAt d.1 a n with
          | .ok t => .acked t []
          | .error k => .acked s [BitVec.ofNat 8 k])
  | .read a n =>
    if s.frameBeyond a then .acked s beyondAck
    else match s.movedTo (a / 65536) with
      | some (dev, frame) =>
        if dev = s.selfdev then s.readOn (Inbound.new f []) (65536 * frame + a % 65536) n
        else s.passOn f dev (.read (65536 * frame + a % 65536) n)
      | none => if s.lockedFrame (a / 65536) then .waits s else s.readOn (Inbound.new f []) a n
  | .atomic a op w32 sgn v x =>
    if s.frameBeyond a then .acked s beyondAck
    else if (s.movedTo (a / 65536)).isSome then .acked s movedAck
    else if s.noAtomics (a / 65536) then .waits (s.collapseFor (a / 65536))
    else
      let d := s.homeDie a
      let (t, old, st, bad) := d.2.atomPerform d.1 op (.mem a) w32 sgn v x false
      .acked t (bytesOf (if bad then 0 else old.toNat) 8 ++ [BitVec.ofNat 8 st.toNat] ++ (if bad then [1] else []))
  | .message n rows => match s.takeMessage n rows with
    | .waits => .waits s
    | .refused => .acked s [1]
    | .rows l =>
      let t := (l.zip rows).foldl (fun (u : State) x => u.inboundWrite f x.1 .set x.2.1 (BitVec.allOnes 256) x.2.2) s
      .goes t (Inbound.new f ((List.range l.length).map (s.uid + ·)))
  | .invalidate frame => match s.copyOf f.dev frame with
    | some d => .acked (s.finishCollapse d) []
    | none => .acked s []

def State.dropInbound (s : State) (f : Frame) : State :=
  { s with inbound := s.inbound.filter fun (i : Inbound) => decide (i.frame.dev ≠ f.dev ∨ i.frame.fid ≠ f.fid) }
/-- An inbound frame goes on. -/
def State.putInbound (s : State) (i : Inbound) : State :=
  { s with inbound := (s.inbound.filter fun (x : Inbound) => decide (x.frame.dev ≠ i.frame.dev ∨ x.frame.fid ≠ i.frame.fid)) ++ [i] }
/-- Acknowledge a frame, and remember it. -/
def State.ackFrame (s : State) (f : Frame) (data : List Byte) : State :=
  ({ s with seen := s.seen ++ [(f.dev, f.fid, data)] } : State).emit (.ack f.dev f.fid data)
/-- A frame that waits here: a message is acknowledged as waiting, once. -/
def State.keepFrame (s : State) (f : Frame) : State :=
  if s.inbound.any fun i => i.frame.dev = f.dev && i.frame.fid = f.fid then s
  else
    let t := s.putInbound (Inbound.new f [])
    match f.body with
    | .message _ _ => t.emit (.ack f.dev f.fid [2])
    | _ => t
/-- What becomes of a frame. -/
def settle (f : Frame) : Arrived → State
  | .acked t data => (t.dropInbound f).ackFrame f data
  | .waits t => t.keepFrame f
  | .goes t i => t.putInbound i

/-- What the new home of a page answered to the frames that a frame was passed on as. -/
def State.answers (s : State) (i : Inbound) : List (List Byte) :=
  (s.outFrames.filter fun f => i.uids.contains f.fid).filterMap (·.reply)
/-- Those frames are gone from the queue of sent ones. -/
def State.dropAnswers (s : State) (i : Inbound) : State :=
  { s with outFrames := s.outFrames.filter fun (f : OutFrame) => !i.uids.contains f.fid }
/-- Have the writes of a frame been acknowledged to its sender? -/
def State.ackedFrame (s : State) (f : Frame) : Bool := s.seen.any fun e => e.1 == f.dev && decide (e.2.1 = f.fid)
/-- The acknowledgement of writes: the flags of additions follow a 0 (R294, log entry 119). -/
def writeAck (flags : BitVec 6) : List Byte := if flags = 0 then [] else [0, flags.zeroExtend 8]
/-- The flags of additions that a new home answered with. -/
def answerFlags (l : List (List Byte)) : BitVec 6 := l.foldl (fun f d => if d.length = 2 then f ||| BitVec.setWidth 6 (d.getD 1 0) else f) 0

/-- A frame's writes, once performed: its bytes are counted at its channel as soon as a word is bound, and it is acknowledged once they
are protected (R96, R124, R141, R310). -/
def State.writesOn (s : State) (i : Inbound) (chan : Option (BitVec 10)) (bytes : Nat) : State :=
  let f := i.frame
  if i.uids.any fun u => !s.writeDone u then s
  else
    let ans := s.answers i
    let counts := !i.counted && chan.isSome
    let (t, left) := match counts, chan.bind fun n => s.chanCount n bytes with
      | true, some t => (t.putInbound { i with counted := true }, false)
      | true, none => (s, true)
      | false, _ => (s, false)
    if s.ackedFrame f then (if left then t else (t.dropInbound f).dropAnswers i)
    else if t.deltas.any fun d => i.uids.contains d.uid then t
    else
      let u := t.ackFrame f (if ans.contains beyondAck then beyondAck else writeAck (i.flags ||| answerFlags ans))
      if left then u else (u.dropInbound f).dropAnswers i
/-- An inbound frame that has arrived goes on, or is tried again. -/
def State.frameOn (s : State) (i : Inbound) : State :=
  let f := i.frame
  if !s.peerUp f.dev then s
  else match f.body, i.uids with
    | .write _ l _ chan, _ => s.writesOn i chan l.length
    | .add _ _ _ _ _, _ => s.writesOn i none 0
    | .message n _, _ :: _ =>
      if i.uids.any fun u => !s.writeDone u then s
      else match s.endMessage n with
        | some t => settle f (.acked t [])
        | none => s
    | .read a n, [] => if i.got = [] then settle f (s.performFrame f) else settle f (s.readOn i a n)
    | _, [] => settle f (s.performFrame f)
    | _, _ :: _ => match s.answers i with
      | d :: _ => settle f (.acked (s.dropAnswers i) d)
      | [] => s

/-- FRAME_RECEIVE (R96): each frame is performed once, however often it arrives; one that is known goes on, and a message that waits
here is acknowledged as waiting again (R309). -/
def execFrameReceive (f : Frame) (s : State) : Res :=
  .next <|
    if !s.peerUp f.dev then s
    else match s.seen.find? fun e => e.1 == f.dev && decide (e.2.1 = f.fid) with
      | some e => s.emit (.ack f.dev f.fid e.2.2)
      | none => match s.inbound.find? fun i => i.frame.dev = f.dev && i.frame.fid = f.fid with
        | some i => (match f.body, i.uids with
          | .message _ _, [] => s.emit (.ack f.dev f.fid [2])
          | _, _ => s.frameOn i)
        | none => settle f (s.performFrame f)

/-! ## Acknowledgements (R96, R141, R309) -/

def State.dropOut (s : State) (fid : Nat) : State := { s with outFrames := s.outFrames.filter fun (f : OutFrame) => decide (f.fid ≠ fid) }
def State.modOut (s : State) (fid : Nat) (g : OutFrame → OutFrame) : State :=
  { s with outFrames := s.outFrames.map fun f => if f.fid = fid then g f else f }

/-- The tensor and tile of a peer's page, as the first leaf that maps it names them (R347). -/
def State.peerTile (s : State) (f : OutFrame) : Nat :=
  let a := match f.body with
    | .write a _ _ _ _ | .add a _ _ _ _ _ | .read a _ | .atomic a _ _ _ _ _ | .update a _ _ _ => a
    | .message _ _ => 0
  match (s.leavesOf f.dev (a / 65536)).head? with
  | some l => l.tid.toNat + l.tile * 4096
  | none => 0
/-- The command of a frame stops at a fault. -/
def State.stopSender (s : State) (f : OutFrame) (x : Flt) : State :=
  match if f.own then (s.cell f.cell).seCmd f.cmd else none with
  | some m => if (s.cell f.cell).busy && m.phase ≠ .stopped then stopCmd f.cell m x s else s
  | none => s
/-- A change of the cell whose command sent a frame: where it runs, or in the image it was saved into. -/
def State.modSender (s : State) (f : OutFrame) (g : Cell → Cell) : State :=
  let has (x : Cell) : Bool := x.se.queue.any fun m => decide (m.uid = f.cmd)
  if has (s.cell f.cell) then s.modCell f.cell g
  else { s with images := s.images.map fun (i : Image) => if i.active then { i with members := i.members.map fun x => if has x then g x else x } else i }
/-- A command is refused its message: no advance, and NREF in SESTAT (R289, R309). -/
def State.refuseMessage (s : State) (f : OutFrame) : State :=
  s.modSender f fun x => match x.seCmd f.cmd with
    | some m => { (x.putCmd { m with nref := true }) with se := { (x.putCmd { m with nref := true }).se with sestat := x.se.sestat ||| 64 } }
    | none => x

/-- Does a frame carry another peer's access to the new home of its page? -/
def State.passed (s : State) (f : OutFrame) : Bool := !f.own && s.inbound.any fun i => i.uids.contains f.fid
/-- FRAME_ACK (R96): the frame is performed and protected at the peer, a read or an atomic returns its data, additions their flags, a
message is refused or waits there, the page has moved, or the frame was beyond the peer's range (R93, R97, R294). -/
def execFrameAck (fid : Nat) (data : List Byte) (s : State) : Res :=
  .next <| match s.outFrames.find? fun f => decide (f.fid = fid) && f.reply.isNone with
    | none => s
    | some f =>
      if s.passed f then s.modOut fid fun g => { g with reply := some data }
      else match f.body with
      | .message _ _ =>
        if data = [2] then s.modOut fid fun g => { g with held := true }
        else if data = [1] then (s.dropOut fid).refuseMessage f
        else s.dropOut fid
      | .update _ _ g n => (match data with
        | [] => s.dropOut fid
        | k :: _ => (s.dropOut fid).emit (.awfail g n k.toNat))
      | b =>
        if data = beyondAck then (s.dropOut fid).stopSender f ⟨0x0D, 3, 6 + b.writes.toNat * 64, s.peerTile f, true, 0⟩
        else match b with
          | .write _ _ _ _ _ => s.dropOut fid
          | .add _ _ _ _ _ _ => (s.dropOut fid).modSender f (·.seFlags (answerFlags [data]))
          | _ => s.modOut fid fun g => { g with reply := some data }

/-! ## Retransmission and lost peers (R385, R386, R388) -/

/-- One unacknowledged frame of a lost peer: its command stops, an image being written is void, a node's update has failed. -/
def State.loseFrame (s : State) (trig : Nat) (f : OutFrame) : State :=
  match f.body with
  | .update _ _ g n => s.emit (.awfail g n 3)
  | b =>
    let x := s.gangOf f.cell
    if !f.own then s
    else match x.status with
    | .saving _ => s.modImage x.image fun i => { i with lost := true }
    | _ => s.stopSender f ⟨0x28, 12, peerSynd f.dev trig b.writes, s.peerTile f, true, 0⟩
/-- A peer is down (R385, R386). -/
def State.peerDown (s : State) (dev : BitVec 12) (trig : Nat) : State :=
  let lost := s.outFrames.filter fun f => f.dev == dev && f.reply.isNone && !s.passed f
  let t : State := { s with
    peers := s.peers.map fun (p : Peer) => if p.dev = dev then { p with down := true, trig := trig } else p
    -- what was passed on for another peer stays unacknowledged there too
    outFrames := (s.outFrames.filter fun (f : OutFrame) => !(f.dev == dev && f.reply.isNone) || s.passed f).map fun (f : OutFrame) =>
      if f.dev = dev then { f with held := true } else f }
  (lost.foldl (fun (u : State) f => u.loseFrame trig f) t).writeRecord
    { cls := 0x28, sev := 2, unit := 12, akind := true, disp := 4, synd := peerSynd dev trig (lost.any fun f => f.body.writes) }

/-- RETRANSMIT_TIMEOUT (R385): the frame goes out again and its wait doubles; after the seventh wait the peer is down. -/
def execRetransmitTimeout (fid : Nat) (s : State) : Res :=
  .next <| match s.outFrames.find? fun f => decide (f.fid = fid) && f.reply.isNone && !f.held with
    | none => s
    | some f =>
      if s.wall < f.wait then s
      else if f.sends < 7 then
        let p := s.peer f.dev
        let g := { f with
          sends := f.sends + 1
          wait := s.wall + usCycles (50 * 2 ^ f.sends)
          ip := p.ip
          port := p.port
          sub := p.sub }
        (s.modOut fid fun _ => g).emit (.frame g)
      else s.peerDown f.dev 0

/-- PEER_RESET_REPORT (R385). -/
def execPeerResetReport (dev : BitVec 12) (s : State) : Res := .next (if s.peerUp dev then s.peerDown dev 2 else s)

end Sys2Proof.Machine
end

