-- ==== Sys2Proof/Machine/Farica.lean ====
section
/-! DEFINITION. The Farica portable form (R318–R323): the checks of a module, operation by operation, and the translation's
answer. The translator's own choices are free values (log entry 8). -/

namespace Sys2Proof.Machine

/-- Why a module is refused (R318–R323), with the number its answer carries in this model. -/
inductive FCode where
  | fop
  | fdist
  | fkind
  | fctrl
  | fres
  deriving DecidableEq, Repr

def FCode.code : FCode → Nat
  | .fop => 1 | .fdist => 2 | .fkind => 3 | .fctrl => 4 | .fres => 5

/-- The kinds of values (R319, R320). -/
inductive FKind where
  | g
  | p
  | v
  | k
  | tile
  | key
  | row
  | tensor
  | ring
  | pattern
  | none
  deriving DecidableEq, Repr

/-! ## Words (R319) -/

/-- The fields of an operation's word. -/
structure FWord where
  eng : Nat
  op  : Nat
  md  : Nat
  ty  : Nat
  cls : Nat
  rsv : Nat
  a   : Nat
  b   : Nat
  c   : Nat
  lit : Nat
  top : Nat
  deriving DecidableEq, Repr

def fWord (w : Nat) : FWord :=
  let f := fieldOf w
  ⟨f 0 2, f 2 9, f 11 5, f 16 4, f 20 4, f 24 4, f 28 12, f 40 12, f 52 12, f 28 32, f 60 4⟩

/-- Literal bits beyond those its kind uses. -/
def litBad (md lit : Nat) : Bool :=
  match md with
  | 0 | 1 => false
  | 2 => 4096 ≤ lit
  | 3 => 64 ≤ lit
  | 4 => 2 ^ 28 ≤ lit
  | 5 => lit = 0 || 24576 < lit
  | 6 => 16 ≤ lit
  | 7 => 3 ≤ lit
  | _ => true
def litKind (md : Nat) : FKind :=
  match md with
  | 1 => .pattern | 2 => .tensor | 3 => .ring | 4 => .key | 5 => .row | _ => .g

/-! ## What an operation uses and produces (R320, R321) -/

/-- The value kinds an operand takes. -/
structure FUse where
  need  : Bool
  kinds : List FKind
  deriving DecidableEq, Repr

def noUse : FUse := ⟨false, []⟩
/-- The value kinds that fit a slot operand by the register class its entry names. -/
def slotUse (n : Nat) : FUse :=
  match n with
  | 1 => noUse
  | 4 => ⟨true, [.row]⟩
  | 16 => ⟨true, [.p]⟩
  | _ => ⟨true, [.g]⟩
/-- The value kinds that fit a record operand by the KINDs its entry takes. -/
def recUse (l : List Nat) : FUse :=
  let kinds := l.flatMap fun k => match k with
    | 1 | 2 | 3 | 8 | 14 => [FKind.v]
    | 4 => [.pattern, .g]
    | 5 | 6 => [.tile]
    | 7 => [.k]
    | 9 | 10 => [.row]
    | 11 => [.ring]
    | 12 => [.tensor]
    | 13 => [.key]
    | _ => []
  ⟨!l.contains 0, kinds⟩
/-- The result's kind by the KINDs of a record's destination; a row buffer or a tensor of the SE (R320). -/
def recKind (e : Nat) (l : List Nat) (ty : Nat) : FKind :=
  if e = 3 then (if l.contains 9 then .row else if l.contains 12 then .tensor else .none)
  else if l.contains 7 && (ty = 15 || !l.contains 1) then .k
  else if l.contains 1 || l.contains 14 then .v
  else if l.contains 5 || l.contains 6 then .tile
  else if l.contains 13 then .key
  else .none

/-- Slots the translator alone places (R323). -/
def fPlaced (op8 : Nat) : Bool := [0x33, 0x34, 0x35, 0x52, 0x58, 0x5C].contains op8
/-- Slot operations that address a ring, a row, a word or a tensor take its literal as operand 1. -/
def fAddressed (op8 : Nat) : Bool := op8 = 0x2F || op8 = 0x30 || (0x38 ≤ op8 && op8 ≤ 0x54) || 0x5D ≤ op8
/-- SZ of a slot's TYPE (R319); none where the format has none. -/
def fSize (ty : Nat) : Option Nat :=
  match ty with
  | 11 | 15 => some 0
  | 9 | 10 => some 1
  | 7 | 8 => some 2
  | 5 | 6 => some 3
  | _ => none

/-- Slots whose value returns through YQ, from which the translator takes it (R57, R320). -/
def fReturns (op8 : Nat) : Bool := op8 = 0x3C || op8 = 0x3D || op8 = 0x42 || (0x47 ≤ op8 && op8 ≤ 0x51) || op8 = 0x5D
/-- A MOD that the entry of a slot does not define: it holds the low bits of IMM32 where the entry names fields there, and is zero
elsewhere (R319). -/
def slotModBad (e : SlotEntry) (op8 md : Nat) : Bool :=
  let bad (imm : Bool) : Bool := (e.more ⟨imm, 0, 0, 0, .always, 0, BitVec.ofNat 32 md⟩).any fun b => decide (32 ≤ b)
  if e.imm = 1 then bad true else if namesImm0 op8 then bad false
  else if op8 = 0x2E || op8 = 0x31 || op8 = 0x32 then bad true else md ≠ 0

/-- An operand of a KIND with all its fields zero. -/
def plainOpnd (kind : Nat) : Opnd :=
  match kind with
  | 1 => .v 0 0 false 0 .zero
  | 4 => .imm 0
  | 9 => .sp none 0 .zero
  | 10 => .hr none 0 .zero
  | _ => .absent
/-- A MOD that the entry of a record does not define (R319). -/
def recModBad (e : Entry) (md : Nat) : Bool :=
  let r : Rec := ⟨0, .always, BitVec.ofNat 5 md, 0, plainOpnd (e.k0.headD 0), plainOpnd (e.k1.headD 0), plainOpnd (e.k2.headD 0)⟩
  e.mods < (if e.prom then md % 16 else md) || match e.more r with
    | some (.modifier, _, _) => true
    | _ => false

/-- The formats that a VE operation takes and gives, where its entry names some (R244–R268); K results have none. -/
def fFormats : Instr → Option (List Nat) × Option (List Nat)
  | .fadd _ | .fsub _ | .fmul _ | .fmin _ | .fmax _ | .fcps _ | .fdiv _ | .fscal _ | .ffma _ | .ffms _ | .fnma _ | .fabs _ | .fneg _
  | .fsqrt _ | .frcp _ | .frsq _ | .fexp2 _ | .flog2 _ | .ftanh _ | .ffloor _ | .frint _ | .ffrac _ => (some [4], some [4])
  | .fcls _ => (some [4], some [9, 10])
  | .hadd _ | .hmul _ | .hmax _ | .hmin _ | .hfma _ => (some [3], some [3])
  | .iadd _ | .isub _ | .imul _ | .imulhs _ | .imulhn _ | .imins _ | .imaxs _ | .iminn _ | .imaxn _ | .imad _ | .iabs _ =>
    (some [9, 10], some [9, 10])
  | .badds _ => (some [5], some [5])
  | .baddn _ => (some [6], some [6])
  | .cvtfi _ => (some [4], some [9])
  | .cvtfn _ => (some [4], some [10])
  | .cvtif _ => (some [9], some [4])
  | .cvtnf _ => (some [10], some [4])
  | .cvtfh _ => (some [4], some [3])
  | .cvthf _ => (some [3], some [4])
  | .cvtf8 _ => (some [4], some [1, 2])
  | .cvt8f _ => (some [1, 2], some [4])
  | .cvti8 _ => (some [9, 10], some [5, 6])
  | .cvt8i _ => (some [5, 6], some [9, 10])
  | .fcmpeq _ | .fcmplt _ | .fcmple _ | .fcmpun _ => (some [4], none)
  | .icmpeq _ | .icmplts _ | .icmpltn _ => (some [9, 10], none)
  | .kand _ | .kor _ | .kxor _ | .knot _ | .kfirst _ | .kmovHi _ => (none, some [])
  | _ => (none, none)
/-- Does a TYPE fit a list of formats: untyped, or one of them? -/
def fits (l : Option (List Nat)) (ty : Nat) : Bool := ty = 15 || l.all fun m => m.contains ty

/-- What an operation is: its operands, the formats they may have, its result, or the refusal. -/
structure FShape where
  a : FUse
  b : FUse
  c : FUse
  out : FKind
  ins : Option (List Nat) := none
  deriving DecidableEq, Repr

/-- A slot operation. -/
def slotShape (w : FWord) : Except FCode FShape :=
  if 256 ≤ w.op || fPlaced w.op then .error .fop
  else match slotEntries[w.op]? with
    | none => .error .fop
    | some e => match fSize w.ty with
      | none => .error .fkind
      | some sz =>
        if slotModBad e w.op w.md then .error .fop
        else if !e.sz.contains sz then .error .fkind
        else
          let a := if fAddressed w.op && e.sa ≠ 1 then ⟨true, [.g, .ring, .row, .tensor]⟩ else slotUse e.sa
          let c := if w.op = 0x06 || w.op = 0x1D then ⟨true, [.g]⟩ else if w.op = 0x22 then ⟨true, [.p]⟩
            else if w.op = 0x30 then ⟨true, [.row]⟩ else if w.op = 0x5E then ⟨true, [.g]⟩ else noUse
          let out := if w.op = 0x30 || w.op = 0x5E then FKind.none else if fReturns w.op then FKind.g else match e.dst with
            | 1 => .none | 4 => .row | 16 => .p | _ => .g
          .ok ⟨a, slotUse e.sb, c, out, none⟩

/-- A record that the translator alone places. -/
def fPlacedRec : Instr → Bool
  | .vspl _ | .vfil _ | .cspl _ => true
  | _ => false
/-- A record of the VE, ME or SE: sources a and b are operands 1 and 2; operand 3 is the third source of the VE, and the
destination that an ME or SE record names. -/
def recShape (w : FWord) : Except FCode FShape :=
  match recTable 4 (engOf w.eng) w.op with
  | none => .error .fop
  | some ctor =>
    let i := refineForm (ctor ⟨0, .always, BitVec.ofNat 5 w.md, 0, .absent, .absent, .absent⟩)
    match entryOf i with
    | none => .error .fop
    | some e =>
      if fPlacedRec i || recModBad e w.md then .error .fop
      else if (12 ≤ w.ty && w.ty ≤ 14) || !fits (fFormats i).2 w.ty then .error .fkind
      else
        let c := if w.eng = 1 then (if e.third = 0 then noUse else ⟨e.third = 2, [.v]⟩)
          else if w.eng = 3 || e.k0.contains 13 then recUse e.k0 else noUse
        .ok ⟨recUse e.k1, recUse e.k2, c, recKind w.eng e.k0 w.ty, (fFormats i).1⟩

/-! ## Regions (R322) -/

/-- An open region: a loop, or an arm of a DECIDE. -/
structure FReg where
  loop : Bool
  at_  : Nat
  arm  : Nat
  arms : Nat
  deriving DecidableEq, Repr

/-- What later operations need to know of one. -/
structure FInfo where
  kind  : FKind
  path  : List FReg
  carry : Bool
  lit   : Bool
  /-- the format of a result, 15 for none -/
  ty    : Nat := 15
  deriving DecidableEq, Repr

/-- May an operation in some regions name one that stands in others: not into an arm from outside it. -/
def visibleFrom (here there : List FReg) : Bool := there.all fun r => r.loop || here.contains r
/-- The operation that a distance names, and the checks of an operand (R321). -/
def operand (infos : List FInfo) (path : List FReg) (u : FUse) (any : Bool) (d : Nat) : Except FCode (Option FInfo) :=
  if d = 0 then (if u.need then .error .fdist else .ok none)
  else if !u.need && u.kinds = [] && !any then .error .fdist
  else match infos[d - 1]? with
    | none => .error .fdist
    | some x =>
      if !visibleFrom path x.path then .error .fdist
      else if any || u.kinds.contains x.kind || (x.kind = .none && u.kinds = []) then .ok (some x)
      else .error .fkind

/-- The reduce operations (R226). -/
def ropBad (n : Nat) : Bool := n = 7
def gOrP : FUse := ⟨true, [.g, .p]⟩
/-- The regions after an END, innermost first. -/
def closeRegion : List FReg → Option (FReg × List FReg)
  | [] => none
  | r :: rest => some (r, if r.loop || r.arms ≤ r.arm + 1 then rest else { r with arm := r.arm + 1 } :: rest)

/-- One operation: what it is to those after it, and the regions open then. -/
def fStep (i : Nat) (w : FWord) (infos : List FInfo) (path : List FReg) : Except FCode (FInfo × List FReg) :=
  let info (kind : FKind) (carry lit : Bool) : FInfo := ⟨kind, path, carry, lit, 15⟩
  let opnd := operand infos path
  let plain : Except FCode Unit := if w.ty ≠ 0 || w.rsv ≠ 0 || w.eng ≠ 0 || w.op ≠ 0 then .error .fop else .ok ()
  match w.cls with
  | 0 =>
    if w.rsv ≠ 0 then .error .fop
    else match (if w.eng = 0 then slotShape w else recShape w) with
      | .error e => .error e
      | .ok h => do
        let a ← opnd h.a false w.a
        let b ← opnd h.b false w.b
        let c ← opnd h.c false w.c
        let wrong (x : Option FInfo) : Bool := x.any fun y => decide (y.kind = .v) && !fits h.ins y.ty
        if wrong a || wrong b || wrong c then .error .fkind
        else
          -- an SE record's result is what its destination names
          let out := match c with
            | some y => if w.eng = 3 then y.kind else h.out
            | none => h.out
          .ok ({ info out false false with ty := w.ty }, path)
  | 1 =>
    if 8 ≤ w.md || w.rsv ≠ 0 || w.top ≠ 0 || litBad w.md w.lit then .error .fop
    else .ok (info (litKind w.md) false true, path)
  | 2 =>
    if w.ty ≠ 0 || w.eng ≠ 0 || w.op ≠ 0 || ropBad (w.md % 8) || 8 ≤ w.md || 8 ≤ w.rsv then .error .fop
    else do
      let _ ← opnd gOrP false w.a
      let b ← opnd (if w.md = 5 then ⟨true, [.g]⟩ else noUse) false w.b
      let _ ← opnd noUse false w.c
      if w.md = 5 && !(b.any fun x => x.lit) then .error .fkind
      else if 16 ≤ path.length then .error .fctrl
      else .ok (info .none false false, ⟨false, i, 0, w.rsv + 1⟩ :: path)
  | 3 => do
    plain
    if w.md ≠ 0 then .error .fop
    else
      let _ ← opnd noUse false w.a
      let _ ← opnd noUse false w.b
      let _ ← opnd noUse false w.c
      if 16 ≤ path.length then .error .fctrl
      else .ok (info .none false false, ⟨true, i, 0, 1⟩ :: path)
  | 4 => do
    plain
    match closeRegion path with
    | none => .error .fctrl
    | some (r, rest) =>
      if (if r.loop then 8 ≤ w.md || ropBad w.md else w.md ≠ 0) then .error .fop
      else
        let _ ← opnd (if r.loop then gOrP else noUse) false w.a
        let _ ← opnd noUse false w.b
        let _ ← opnd noUse false w.c
        .ok (info .none false false, rest)
  | 5 => do
    plain
    if w.md ≠ 0 then .error .fop
    else
      let a ← opnd ⟨true, []⟩ true w.a
      let _ ← opnd noUse false w.b
      let _ ← opnd noUse false w.c
      match path.head?, a with
      | some r, some x =>
        if !r.loop then .error .fctrl else if x.path.contains r then .error .fdist else .ok ({ info x.kind true false with ty := x.ty }, path)
      | _, _ => .error .fctrl
  | 6 => do
    plain
    if w.md ≠ 0 then .error .fop
    else
      let a ← opnd ⟨true, []⟩ true w.a
      let b ← opnd ⟨true, []⟩ true w.b
      let _ ← opnd noUse false w.c
      match a, b with
      | some x, some y =>
        if !x.carry || !(x.path.head?.any fun r => path.contains r) then .error .fctrl
        else if x.kind ≠ y.kind then .error .fkind
        else .ok (info .none false false, path)
      | _, _ => .error .fdist
  | _ => .error .fop

/-- The list from an index on: the first refusal, or none. `infos` holds the earlier operations, nearest first. -/
def fList : List Nat → Nat → List FInfo → List FReg → Option (FCode × Nat)
  | [], _, _, path => path.getLast?.map fun r => (.fctrl, r.at_)
  | w :: ws, i, infos, path =>
    match fStep i (fWord w) infos path with
    | .error e => some (e, i)
    | .ok (x, p) => fList ws (i + 1) (x :: infos) p

/-! ## The module (R318, R323) -/

/-- A header that R318 refuses. -/
def fHeadBad (h : Nat) : Bool :=
  let f (lo n : Nat) := fieldOf h (8 * lo) (8 * n)
  f 0 8 ≠ 0x0031414349524146 || 7 < f 8 1 || f 12 4 = 0 || 2 ^ 24 < f 12 4 || (bandBad (f 16 2) (f 18 2)).isSome ||
    f 22 2 < f 20 2 || f 9 3 ≠ 0 || f 24 40 ≠ 0

/-- A byte of the binary's header that the module or R323 fixes: MAGIC, ENCGEN 4, the gang's size and span, one variant, the
power figures, the band, and the reserved bytes (R208). -/
def fHeadByte (h i : Nat) : Option Nat :=
  let glog := fieldOf h 64 8
  let b (k : Nat) := fieldOf h (8 * k) 8
  if i < 8 then some (fieldOf 0x344E52454B4C4F43 (8 * i) 8)
  else if i = 8 then some 4
  else if i = 9 then some glog
  else if i = 10 then some (spanOf glog)
  else if i = 11 then some (ddecOf glog)
  else if i = 12 then some 1
  else if i ≤ 15 then some 0
  else if i < 20 then none
  else if i < 24 then some (b i)
  else if i < 28 then some (b (i - 8))
  else if i = 31 then some 0
  else if i < 50 then none
  else if i < 256 then some 0
  else none
/-- The binary of a translation: its other bytes and its length are the translator's. -/
def fBinary (h ctr : Nat) : List Byte :=
  (List.range (256 + (Config.freeWord 16 ctr).toNat % 2 ^ 32)).map fun i => match fHeadByte h i with
    | some v => BitVec.ofNat 8 v
    | none => Config.faricaByte ctr i

/-- The words of the list. -/
def State.fWords (s : State) (asid : BitVec 10) (tid : BitVec 12) (off n : Nat) : Option (List Nat) :=
  (List.range n).mapM fun k => s.flatNat asid tid (off + 64 + 8 * k) 8

/-- FARICA_TRANSLATE (R323): a binary, or the code with the lowest offending index; whether a correct module fits one cell is the
translator's to find. A module that does not translate cannot be read, and the request is refused. -/
def execFaricaTranslate (asid : BitVec 10) (tid : BitVec 12) (off : Nat) (s : State) : Res :=
  .next <| match s.flatNat asid tid off 64 with
    | none => s.emit .refusedRequest
    | some h =>
      if fHeadBad h then s.emit (.faricaCode FCode.fop.code 0)
      else match s.fWords asid tid off (fieldOf h 96 32) with
        | none => s.emit .refusedRequest
        | some ws => match fList ws 0 [] [] with
          | some (e, i) => s.emit (.faricaCode e.code i)
          | none =>
            let (w, t) := s.free 17
            if w.toNat % 2 = 1 then t.emit (.faricaCode FCode.fres.code (w.toNat / 2 % ws.length))
            else ({ t with freeCtr := t.freeCtr + 1 } : State).emit (.faricaBinary (fBinary h t.freeCtr))

end Sys2Proof.Machine
end

