-- ==== Sys2Proof/Machine/Dispatch.lean ====
section
/-! DEFINITION. One arm for every constructor of Instr: the meaning each instruction has. -/

namespace Sys2Proof.Machine

open Sys2Proof

def exec (i : Instr) (s : State) : Host.Outcome State Fault Refusal :=
  match i with
  | .bndl b => Sys2Proof.Machine.execBndl b s
  | .qlds r => Sys2Proof.Machine.execQlds r s
  | .qsts r => Sys2Proof.Machine.execQsts r s
  | .sege r => Sys2Proof.Machine.execSege r s
  | .fork r => Sys2Proof.Machine.execFork r s
  | .rdv r => Sys2Proof.Machine.execRdv r s
  | .brk r => Sys2Proof.Machine.execBrk r s
  | .nopr stamp => Sys2Proof.Machine.execNopr stamp s
  | .phas r => Sys2Proof.Machine.execPhas r s
  | .vnop r => Sys2Proof.Machine.execVnop r s
  | .fadd r => Sys2Proof.Machine.execFadd r s
  | .fsub r => Sys2Proof.Machine.execFsub r s
  | .fmul r => Sys2Proof.Machine.execFmul r s
  | .ffma r => Sys2Proof.Machine.execFfma r s
  | .ffms r => Sys2Proof.Machine.execFfms r s
  | .fnma r => Sys2Proof.Machine.execFnma r s
  | .fmin r => Sys2Proof.Machine.execFmin r s
  | .fmax r => Sys2Proof.Machine.execFmax r s
  | .fabs r => Sys2Proof.Machine.execFabs r s
  | .fneg r => Sys2Proof.Machine.execFneg r s
  | .fcps r => Sys2Proof.Machine.execFcps r s
  | .fdiv r => Sys2Proof.Machine.execFdiv r s
  | .fsqrt r => Sys2Proof.Machine.execFsqrt r s
  | .frcp r => Sys2Proof.Machine.execFrcp r s
  | .frsq r => Sys2Proof.Machine.execFrsq r s
  | .fexp2 r => Sys2Proof.Machine.execFexp2 r s
  | .flog2 r => Sys2Proof.Machine.execFlog2 r s
  | .ftanh r => Sys2Proof.Machine.execFtanh r s
  | .ffloor r => Sys2Proof.Machine.execFfloor r s
  | .frint r => Sys2Proof.Machine.execFrint r s
  | .fcmpeq r => Sys2Proof.Machine.execFcmpeq r s
  | .fcmplt r => Sys2Proof.Machine.execFcmplt r s
  | .fcmple r => Sys2Proof.Machine.execFcmple r s
  | .fcmpun r => Sys2Proof.Machine.execFcmpun r s
  | .fcls r => Sys2Proof.Machine.execFcls r s
  | .fscal r => Sys2Proof.Machine.execFscal r s
  | .ffrac r => Sys2Proof.Machine.execFfrac r s
  | .fcvtr r => Sys2Proof.Machine.execFcvtr r s
  | .hadd r => Sys2Proof.Machine.execHadd r s
  | .hmul r => Sys2Proof.Machine.execHmul r s
  | .hfma r => Sys2Proof.Machine.execHfma r s
  | .hmax r => Sys2Proof.Machine.execHmax r s
  | .hmin r => Sys2Proof.Machine.execHmin r s
  | .iadd r => Sys2Proof.Machine.execIadd r s
  | .isub r => Sys2Proof.Machine.execIsub r s
  | .imul r => Sys2Proof.Machine.execImul r s
  | .imulhs r => Sys2Proof.Machine.execImulhs r s
  | .imulhn r => Sys2Proof.Machine.execImulhn r s
  | .imins r => Sys2Proof.Machine.execImins r s
  | .imaxs r => Sys2Proof.Machine.execImaxs r s
  | .iminn r => Sys2Proof.Machine.execIminn r s
  | .imaxn r => Sys2Proof.Machine.execImaxn r s
  | .iand r => Sys2Proof.Machine.execIand r s
  | .ior r => Sys2Proof.Machine.execIor r s
  | .ixor r => Sys2Proof.Machine.execIxor r s
  | .iandn r => Sys2Proof.Machine.execIandn r s
  | .ishl r => Sys2Proof.Machine.execIshl r s
  | .ishrl r => Sys2Proof.Machine.execIshrl r s
  | .ishra r => Sys2Proof.Machine.execIshra r s
  | .iabs r => Sys2Proof.Machine.execIabs r s
  | .icmpeq r => Sys2Proof.Machine.execIcmpeq r s
  | .icmplts r => Sys2Proof.Machine.execIcmplts r s
  | .icmpltn r => Sys2Proof.Machine.execIcmpltn r s
  | .iclz r => Sys2Proof.Machine.execIclz r s
  | .ipopc r => Sys2Proof.Machine.execIpopc r s
  | .imad r => Sys2Proof.Machine.execImad r s
  | .isxt r => Sys2Proof.Machine.execIsxt r s
  | .izxt r => Sys2Proof.Machine.execIzxt r s
  | .bitrev r => Sys2Proof.Machine.execBitrev r s
  | .badds r => Sys2Proof.Machine.execBadds r s
  | .baddn r => Sys2Proof.Machine.execBaddn r s
  | .cvtfi r => Sys2Proof.Machine.execCvtfi r s
  | .cvtfn r => Sys2Proof.Machine.execCvtfn r s
  | .cvtif r => Sys2Proof.Machine.execCvtif r s
  | .cvtnf r => Sys2Proof.Machine.execCvtnf r s
  | .cvtfh r => Sys2Proof.Machine.execCvtfh r s
  | .cvthf r => Sys2Proof.Machine.execCvthf r s
  | .cvtf8 r => Sys2Proof.Machine.execCvtf8 r s
  | .cvt8f r => Sys2Proof.Machine.execCvt8f r s
  | .cvti8 r => Sys2Proof.Machine.execCvti8 r s
  | .cvt8i r => Sys2Proof.Machine.execCvt8i r s
  | .qmax r => Sys2Proof.Machine.execQmax r s
  | .qsc r => Sys2Proof.Machine.execQsc r s
  | .movv r => Sys2Proof.Machine.execMovv r s
  | .vmovi r => Sys2Proof.Machine.execVmovi r s
  | .vsel r => Sys2Proof.Machine.execVsel r s
  | .perm r => Sys2Proof.Machine.execPerm r s
  | .rotm r => Sys2Proof.Machine.execRotm r s
  | .bcln r => Sys2Proof.Machine.execBcln r s
  | .comp r => Sys2Proof.Machine.execComp r s
  | .expd r => Sys2Proof.Machine.execExpd r s
  | .lut16 r => Sys2Proof.Machine.execLut16 r s
  | .kand r => Sys2Proof.Machine.execKand r s
  | .kor r => Sys2Proof.Machine.execKor r s
  | .kxor r => Sys2Proof.Machine.execKxor r s
  | .knot r => Sys2Proof.Machine.execKnot r s
  | .kpopc r => Sys2Proof.Machine.execKpopc r s
  | .kfirst r => Sys2Proof.Machine.execKfirst r s
  | .kmov r => Sys2Proof.Machine.execKmov r s
  | .kmovHi r => Sys2Proof.Machine.execKmovHi r s
  | .rsum r => Sys2Proof.Machine.execRsum r s
  | .rmax r => Sys2Proof.Machine.execRmax r s
  | .rmin r => Sys2Proof.Machine.execRmin r s
  | .rargmx r => Sys2Proof.Machine.execRargmx r s
  | .scana r => Sys2Proof.Machine.execScana r s
  | .scanm r => Sys2Proof.Machine.execScanm r s
  | .histb r => Sys2Proof.Machine.execHistb r s
  | .topkv r => Sys2Proof.Machine.execTopkv r s
  | .tcfg r => Sys2Proof.Machine.execTcfg r s
  | .twrr r => Sys2Proof.Machine.execTwrr r s
  | .trdr r => Sys2Proof.Machine.execTrdr r s
  | .twrc r => Sys2Proof.Machine.execTwrc r s
  | .trdc r => Sys2Proof.Machine.execTrdc r s
  | .tzero r => Sys2Proof.Machine.execTzero r s
  | .trel r => Sys2Proof.Machine.execTrel r s
  | .trds r => Sys2Proof.Machine.execTrds r s
  | .vmode r => Sys2Proof.Machine.execVmode r s
  | .vflg r => Sys2Proof.Machine.execVflg r s
  | .vflgC r => Sys2Proof.Machine.execVflgC r s
  | .vspl r => Sys2Proof.Machine.execVspl r s
  | .vfil r => Sys2Proof.Machine.execVfil r s
  | .vclrf r => Sys2Proof.Machine.execVclrf r s
  | .mnop r => Sys2Proof.Machine.execMnop r s
  | .ldb r => Sys2Proof.Machine.execLdb r s
  | .ldbh r => Sys2Proof.Machine.execLdbh r s
  | .ldbs r => Sys2Proof.Machine.execLdbs r s
  | .ldbt r => Sys2Proof.Machine.execLdbt r s
  | .ldbw r => Sys2Proof.Machine.execLdbw r s
  | .mma r => Sys2Proof.Machine.execMma r s
  | .mmah r => Sys2Proof.Machine.execMmah r s
  | .mmag r => Sys2Proof.Machine.execMmag r s
  | .mmagh r => Sys2Proof.Machine.execMmagh r s
  | .mmas r => Sys2Proof.Machine.execMmas r s
  | .mmasg r => Sys2Proof.Machine.execMmasg r s
  | .bind r => Sys2Proof.Machine.execBind r s
  | .binda r => Sys2Proof.Machine.execBinda r s
  | .bindm r => Sys2Proof.Machine.execBindm r s
  | .crd r => Sys2Proof.Machine.execCrd r s
  | .crdt r => Sys2Proof.Machine.execCrdt r s
  | .czero r => Sys2Proof.Machine.execCzero r s
  | .crel r => Sys2Proof.Machine.execCrel r s
  | .crell r => Sys2Proof.Machine.execCrell r s
  | .cspl r => Sys2Proof.Machine.execCspl r s
  | .cfil r => Sys2Proof.Machine.execCfil r s
  | .cfilF32 r => Sys2Proof.Machine.execCfilF32 r s
  | .cfilBf16 r => Sys2Proof.Machine.execCfilBf16 r s
  | .cstat r => Sys2Proof.Machine.execCstat r s
  | .clbl r => Sys2Proof.Machine.execClbl r s
  | .clblR r => Sys2Proof.Machine.execClblR r s
  | .ccpy r => Sys2Proof.Machine.execCcpy r s
  | .cscal r => Sys2Proof.Machine.execCscal r s
  | .cadd r => Sys2Proof.Machine.execCadd r s
  | .cmaxr r => Sys2Proof.Machine.execCmaxr r s
  | .csumr r => Sys2Proof.Machine.execCsumr r s
  | .cmode r => Sys2Proof.Machine.execCmode r s
  | .tstart r => Sys2Proof.Machine.execTstart r s
  | .tcommit r => Sys2Proof.Machine.execTcommit r s
  | .mflg r => Sys2Proof.Machine.execMflg r s
  | .mflgC r => Sys2Proof.Machine.execMflgC r s
  | .snop r => Sys2Proof.Machine.execSnop r s
  | .cpin r => Sys2Proof.Machine.execCpin r s
  | .cpins r => Sys2Proof.Machine.execCpins r s
  | .cpout r => Sys2Proof.Machine.execCpout r s
  | .cprr r => Sys2Proof.Machine.execCprr r s
  | .cprrPull r => Sys2Proof.Machine.execCprrPull r s
  | .cpadd r => Sys2Proof.Machine.execCpadd r s
  | .cpbc r => Sys2Proof.Machine.execCpbc r s
  | .cpt r => Sys2Proof.Machine.execCpt r s
  | .cpcv r => Sys2Proof.Machine.execCpcv r s
  | .cpq r => Sys2Proof.Machine.execCpq r s
  | .cpmask r => Sys2Proof.Machine.execCpmask r s
  | .fill r => Sys2Proof.Machine.execFill r s
  | .gath r => Sys2Proof.Machine.execGath r s
  | .scat r => Sys2Proof.Machine.execScat r s
  | .scata r => Sys2Proof.Machine.execScata r s
  | .grpf r => Sys2Proof.Machine.execGrpf r s
  | .grpo r => Sys2Proof.Machine.execGrpo r s
  | .topk r => Sys2Proof.Machine.execTopk r s
  | .crds r => Sys2Proof.Machine.execCrds r s
  | .metaq r => Sys2Proof.Machine.execMetaq r s
  | .sortk r => Sys2Proof.Machine.execSortk r s
  | .cntr r => Sys2Proof.Machine.execCntr r s
  | .csnap r => Sys2Proof.Machine.execCsnap r s
  | .nsend r => Sys2Proof.Machine.execNsend r s
  | .nrecv r => Sys2Proof.Machine.execNrecv r s
  | .nput r => Sys2Proof.Machine.execNput r s
  | .nget r => Sys2Proof.Machine.execNget r s
  | .natom r => Sys2Proof.Machine.execNatom r s
  | .nflush r => Sys2Proof.Machine.execNflush r s
  | .awrm r => Sys2Proof.Machine.execAwrm r s
  | .aset r => Sys2Proof.Machine.execAset r s
  | .sfence r => Sys2Proof.Machine.execSfence r s
  | .waitc r => Sys2Proof.Machine.execWaitc r s
  | .tdld r => Sys2Proof.Machine.execTdld r s
  | .tdinv r => Sys2Proof.Machine.execTdinv r s
  | .pgdup r => Sys2Proof.Machine.execPgdup r s
  | .pgmig r => Sys2Proof.Machine.execPgmig r s
  | .pfch r => Sys2Proof.Machine.execPfch r s
  | .latq r => Sys2Proof.Machine.execLatq r s
  | .sevt r => Sys2Proof.Machine.execSevt r s
  | .sevtH r => Sys2Proof.Machine.execSevtH r s
  | .cpchk r => Sys2Proof.Machine.execCpchk r s
  | .radvx r => Sys2Proof.Machine.execRadvx r s
  | .radvxX r => Sys2Proof.Machine.execRadvxX r s
  | .swait r => Sys2Proof.Machine.execSwait r s
  | .pageDemotion asid tid tile why => Sys2Proof.Machine.execPageDemotion asid tid tile why s
  | .seRelease c => Sys2Proof.Machine.execSeRelease c s
  | .seCommandStart c uid => Sys2Proof.Machine.execSeCommandStart c uid s
  | .chunkPerformed c uid => Sys2Proof.Machine.execChunkPerformed c uid s
  | .seCommandCompletion c uid => Sys2Proof.Machine.execSeCommandCompletion c uid s
  | .resultLanding c => Sys2Proof.Machine.execResultLanding c s
  | .decisionDelivery g => Sys2Proof.Machine.execDecisionDelivery g s
  | .divergenceCheck g => Sys2Proof.Machine.execDivergenceCheck g s
  | .divisorSwitch c => Sys2Proof.Machine.execDivisorSwitch c s
  | .textPreload c off => Sys2Proof.Machine.execTextPreload c off s
  | .textCacheInvalidate c => Sys2Proof.Machine.execTextCacheInvalidate c s
  | .freezeRequestAhead c what due => Sys2Proof.Machine.execFreezeRequestAhead c what due s
  | .freezeBegin g => Sys2Proof.Machine.execFreezeBegin g s
  | .thaw g => Sys2Proof.Machine.execThaw g s
  | .recordDelivery seq => Sys2Proof.Machine.execRecordDelivery seq s
  | .faultDisposition g d => Sys2Proof.Machine.execFaultDisposition g d s
  | .forwardingTimeout g => Sys2Proof.Machine.execForwardingTimeout g s
  | .drain c => Sys2Proof.Machine.execDrain c s
  | .performAWrite uid => Sys2Proof.Machine.execPerformAWrite uid s
  | .performARead c p uid => Sys2Proof.Machine.execPerformARead c p uid s
  | .performARmw c uid => Sys2Proof.Machine.execPerformARmw c uid s
  | .release uid => Sys2Proof.Machine.execRelease uid s
  | .atomicPerform c uid => Sys2Proof.Machine.execAtomicPerform c uid s
  | .yqReturnArrival c => Sys2Proof.Machine.execYqReturnArrival c s
  | .movedReissue c uid => Sys2Proof.Machine.execMovedReissue c uid s
  | .phaserPerform c uid => Sys2Proof.Machine.execPhaserPerform c uid s
  | .yarrowRound g tick => Sys2Proof.Machine.execYarrowRound g tick s
  | .lineWriteback die line => Sys2Proof.Machine.execLineWriteback die line s
  | .parityDeltaApply parityChunk => Sys2Proof.Machine.execParityDeltaApply parityChunk s
  | .translationWalk asid tid tile => Sys2Proof.Machine.execTranslationWalk asid tid tile s
  | .cremaSpill c => Sys2Proof.Machine.execCremaSpill c s
  | .cremaFill c => Sys2Proof.Machine.execCremaFill c s
  | .parkedRegisterMove c => Sys2Proof.Machine.execParkedRegisterMove c s
  | .windowReplay c => Sys2Proof.Machine.execWindowReplay c s
  | .crdsHoldMet c uid => Sys2Proof.Machine.execCrdsHoldMet c uid s
  | .tileTaskComplete g => Sys2Proof.Machine.execTileTaskComplete g s
  | .nodeCompletion graph node => Sys2Proof.Machine.execNodeCompletion graph node s
  | .graphSubmit asid tid off => Sys2Proof.Machine.execGraphSubmit asid tid off s
  | .dispatcherRun => Sys2Proof.Machine.execDispatcherRun s
  | .quantumExpiry g => Sys2Proof.Machine.execQuantumExpiry g s
  | .tileTaskStart g => Sys2Proof.Machine.execTileTaskStart g s
  | .ballastDecay => Sys2Proof.Machine.execBallastDecay s
  | .saveRequest g why => Sys2Proof.Machine.execSaveRequest g why s
  | .preemptionStop g => Sys2Proof.Machine.execPreemptionStop g s
  | .imageWriteout g => Sys2Proof.Machine.execImageWriteout g s
  | .commitRecord g => Sys2Proof.Machine.execCommitRecord g s
  | .inboundToImage img => Sys2Proof.Machine.execInboundToImage img s
  | .resume img => Sys2Proof.Machine.execResume img s
  | .killContext g => Sys2Proof.Machine.execKillContext g s
  | .exportImage img => Sys2Proof.Machine.execExportImage img s
  | .returnTask img => Sys2Proof.Machine.execReturnTask img s
  | .killTask img => Sys2Proof.Machine.execKillTask img s
  | .pinRegion img => Sys2Proof.Machine.execPinRegion img s
  | .qcfgWrite q v => Sys2Proof.Machine.execQcfgWrite q v s
  | .pwrcfgWrite v => Sys2Proof.Machine.execPwrcfgWrite v s
  | .funcmodeWrite v => Sys2Proof.Machine.execFuncmodeWrite v s
  | .portcfgWrite p v => Sys2Proof.Machine.execPortcfgWrite p v s
  | .monitorConfigWrite m v => Sys2Proof.Machine.execMonitorConfigWrite m v s
  | .monitorSample src c asid v => Sys2Proof.Machine.execMonitorSample src c asid v s
  | .monitorRead m => Sys2Proof.Machine.execMonitorRead m s
  | .monitorReadAndClear m => Sys2Proof.Machine.execMonitorReadAndClear m s
  | .mgmtRegisterWrite w => Sys2Proof.Machine.execMgmtRegisterWrite w s
  | .faricaTranslate asid tid off => Sys2Proof.Machine.execFaricaTranslate asid tid off s
  | .debugStop sess g => Sys2Proof.Machine.execDebugStop sess g s
  | .stateRead sess g m f => Sys2Proof.Machine.execStateRead sess g m f s
  | .stateWrite sess g m f v => Sys2Proof.Machine.execStateWrite sess g m f v s
  | .setBreakpoint sess g off idx => Sys2Proof.Machine.execSetBreakpoint sess g off idx s
  | .clearBreakpoint sess g idx => Sys2Proof.Machine.execClearBreakpoint sess g idx s
  | .debugResume sess g => Sys2Proof.Machine.execDebugResume sess g s
  | .debugStep sess g n => Sys2Proof.Machine.execDebugStep sess g n s
  | .sessionEnd sess => Sys2Proof.Machine.execSessionEnd sess s
  | .getVersion => Sys2Proof.Machine.execGetVersion s
  | .getCapabilities => Sys2Proof.Machine.execGetCapabilities s
  | .negotiateAlgorithms rsa slhdsa => Sys2Proof.Machine.execNegotiateAlgorithms rsa slhdsa s
  | .getDigests => Sys2Proof.Machine.execGetDigests s
  | .getCertificate slot => Sys2Proof.Machine.execGetCertificate slot s
  | .challenge nonce => Sys2Proof.Machine.execChallenge nonce s
  | .getMeasurements idx => Sys2Proof.Machine.execGetMeasurements idx s
  | .keyExchange client mutualAuth => Sys2Proof.Machine.execKeyExchange client mutualAuth s
  | .finish sess valid => Sys2Proof.Machine.execFinish sess valid s
  | .endSession sess => Sys2Proof.Machine.execEndSession sess s
  | .telem => Sys2Proof.Machine.execTelem s
  | .setlim mw => Sys2Proof.Machine.execSetlim mw s
  | .reset => Sys2Proof.Machine.execReset s
  | .status => Sys2Proof.Machine.execStatus s
  | .mctpUnknownCommand code => Sys2Proof.Machine.execMctpUnknownCommand code s
  | .getVendorDefinedMessageSupport => Sys2Proof.Machine.execGetVendorDefinedMessageSupport s
  | .powerOn b => Sys2Proof.Machine.execPowerOn b s
  | .droopStretch c => Sys2Proof.Machine.execDroopStretch c s
  | .forcedSlowDown die => Sys2Proof.Machine.execForcedSlowDown die s
  | .slowDownReturn => Sys2Proof.Machine.execSlowDownReturn s
  | .frequencyStep => Sys2Proof.Machine.execFrequencyStep s
  | .slipDetected place => Sys2Proof.Machine.execSlipDetected place s
  | .thermalResponse95 die tj => Sys2Proof.Machine.execThermalResponse95 die tj s
  | .thermalClamp die tj => Sys2Proof.Machine.execThermalClamp die tj s
  | .boardTrip => Sys2Proof.Machine.execBoardTrip s
  | .linkDown sub => Sys2Proof.Machine.execLinkDown sub s
  | .linkUp sub => Sys2Proof.Machine.execLinkUp sub s
  | .announceTimeout => Sys2Proof.Machine.execAnnounceTimeout s
  | .ptpMeasurement offset => Sys2Proof.Machine.execPtpMeasurement offset s
  | .frameReceive f => Sys2Proof.Machine.execFrameReceive f s
  | .frameAck fid data => Sys2Proof.Machine.execFrameAck fid data s
  | .retransmitTimeout fid => Sys2Proof.Machine.execRetransmitTimeout fid s
  | .peerResetReport dev => Sys2Proof.Machine.execPeerResetReport dev s
  | .collapse frame => Sys2Proof.Machine.execCollapse frame s
  | .invalidationAck frame holder => Sys2Proof.Machine.execInvalidationAck frame holder s
  | .invalidationResend frame holder => Sys2Proof.Machine.execInvalidationResend frame holder s
  | .leaseRenewal frame holder => Sys2Proof.Machine.execLeaseRenewal frame holder s
  | .leaseLapse frame holder => Sys2Proof.Machine.execLeaseLapse frame holder s
  | .pageMigration frame die dev => Sys2Proof.Machine.execPageMigration frame die dev s
  | .handover frame newFrame => Sys2Proof.Machine.execHandover frame newFrame s
  | .migrationAbandon frame => Sys2Proof.Machine.execMigrationAbandon frame s
  | .restripeFrameCopy => Sys2Proof.Machine.execRestripeFrameCopy s
  | .bankDrop b trig => Sys2Proof.Machine.execBankDrop b trig s
  | .stackLoss stack trig => Sys2Proof.Machine.execStackLoss stack trig s
  | .restripe11Stacks => Sys2Proof.Machine.execRestripe11Stacks s
  | .chunkReconstruction chunk bad => Sys2Proof.Machine.execChunkReconstruction chunk bad s
  | .scrub stack line corrected => Sys2Proof.Machine.execScrub stack line corrected s
  | .latencyDeadline c uid => Sys2Proof.Machine.execLatencyDeadline c uid s
  | .demotionRestore asid tid tile => Sys2Proof.Machine.execDemotionRestore asid tid tile s
  | .thermalResponse95End die => Sys2Proof.Machine.execThermalResponse95End die s
  | .readDuplication frame h => Sys2Proof.Machine.execReadDuplication frame h s
  | .fabricSessionReopen dev => Sys2Proof.Machine.execFabricSessionReopen dev s
  | .nop sl => Sys2Proof.Machine.execNop sl s
  | .add sl => Sys2Proof.Machine.execAdd sl s
  | .sub sl => Sys2Proof.Machine.execSub sl s
  | .mul sl => Sys2Proof.Machine.execMul sl s
  | .mulhs sl => Sys2Proof.Machine.execMulhs sl s
  | .mulhn sl => Sys2Proof.Machine.execMulhn sl s
  | .madd sl => Sys2Proof.Machine.execMadd sl s
  | .divs sl => Sys2Proof.Machine.execDivs sl s
  | .divn sl => Sys2Proof.Machine.execDivn sl s
  | .rems sl => Sys2Proof.Machine.execRems sl s
  | .remn sl => Sys2Proof.Machine.execRemn sl s
  | .and sl => Sys2Proof.Machine.execAnd sl s
  | .or sl => Sys2Proof.Machine.execOr sl s
  | .xor sl => Sys2Proof.Machine.execXor sl s
  | .andn sl => Sys2Proof.Machine.execAndn sl s
  | .shl sl => Sys2Proof.Machine.execShl sl s
  | .shrl sl => Sys2Proof.Machine.execShrl sl s
  | .shra sl => Sys2Proof.Machine.execShra sl s
  | .rotl sl => Sys2Proof.Machine.execRotl sl s
  | .clz sl => Sys2Proof.Machine.execClz sl s
  | .ctz sl => Sys2Proof.Machine.execCtz sl s
  | .popc sl => Sys2Proof.Machine.execPopc sl s
  | .mins sl => Sys2Proof.Machine.execMins sl s
  | .maxs sl => Sys2Proof.Machine.execMaxs sl s
  | .minn sl => Sys2Proof.Machine.execMinn sl s
  | .maxn sl => Sys2Proof.Machine.execMaxn sl s
  | .abss sl => Sys2Proof.Machine.execAbss sl s
  | .sext sl => Sys2Proof.Machine.execSext sl s
  | .bfex sl => Sys2Proof.Machine.execBfex sl s
  | .bfin sl => Sys2Proof.Machine.execBfin sl s
  | .crc32 sl => Sys2Proof.Machine.execCrc32 sl s
  | .movi sl => Sys2Proof.Machine.execMovi sl s
  | .movh sl => Sys2Proof.Machine.execMovh sl s
  | .mov sl => Sys2Proof.Machine.execMov sl s
  | .sel sl => Sys2Proof.Machine.execSel sl s
  | .cmpeq sl => Sys2Proof.Machine.execCmpeq sl s
  | .cmpne sl => Sys2Proof.Machine.execCmpne sl s
  | .cmplts sl => Sys2Proof.Machine.execCmplts sl s
  | .cmples sl => Sys2Proof.Machine.execCmples sl s
  | .cmpltn sl => Sys2Proof.Machine.execCmpltn sl s
  | .cmplen sl => Sys2Proof.Machine.execCmplen sl s
  | .tstb sl => Sys2Proof.Machine.execTstb sl s
  | .pand sl => Sys2Proof.Machine.execPand sl s
  | .por sl => Sys2Proof.Machine.execPor sl s
  | .pxor sl => Sys2Proof.Machine.execPxor sl s
  | .pnot sl => Sys2Proof.Machine.execPnot sl s
  | .pmov sl => Sys2Proof.Machine.execPmov sl s
  | .ldrow sl => Sys2Proof.Machine.execLdrow sl s
  | .strow sl => Sys2Proof.Machine.execStrow sl s
  | .extl sl => Sys2Proof.Machine.execExtl sl s
  | .insl sl => Sys2Proof.Machine.execInsl sl s
  | .qld sl => Sys2Proof.Machine.execQld sl s
  | .qst sl => Sys2Proof.Machine.execQst sl s
  | .decide sl => Sys2Proof.Machine.execDecide sl s
  | .check sl => Sys2Proof.Machine.execCheck sl s
  | .trap sl => Sys2Proof.Machine.execTrap sl s
  | .rwaitf sl => Sys2Proof.Machine.execRwaitf sl s
  | .rwaite sl => Sys2Proof.Machine.execRwaite sl s
  | .radvt sl => Sys2Proof.Machine.execRadvt sl s
  | .radvh sl => Sys2Proof.Machine.execRadvh sl s
  | .rclm sl => Sys2Proof.Machine.execRclm sl s
  | .rstat sl => Sys2Proof.Machine.execRstat sl s
  | .sacq sl => Sys2Proof.Machine.execSacq sl s
  | .srel sl => Sys2Proof.Machine.execSrel sl s
  | .aarm sl => Sys2Proof.Machine.execAarm sl s
  | .await sl => Sys2Proof.Machine.execAwait sl s
  | .phreg sl => Sys2Proof.Machine.execPhreg sl s
  | .phdrg sl => Sys2Proof.Machine.execPhdrg sl s
  | .pharv sl => Sys2Proof.Machine.execPharv sl s
  | .phwait sl => Sys2Proof.Machine.execPhwait sl s
  | .phaw sl => Sys2Proof.Machine.execPhaw sl s
  | .atadd sl => Sys2Proof.Machine.execAtadd sl s
  | .atinc sl => Sys2Proof.Machine.execAtinc sl s
  | .atbadd sl => Sys2Proof.Machine.execAtbadd sl s
  | .atcas sl => Sys2Proof.Machine.execAtcas sl s
  | .atswp sl => Sys2Proof.Machine.execAtswp sl s
  | .atmin sl => Sys2Proof.Machine.execAtmin sl s
  | .atmax sl => Sys2Proof.Machine.execAtmax sl s
  | .atand sl => Sys2Proof.Machine.execAtand sl s
  | .ator sl => Sys2Proof.Machine.execAtor sl s
  | .atxor sl => Sys2Proof.Machine.execAtxor sl s
  | .atsnap sl => Sys2Proof.Machine.execAtsnap sl s
  | .ypop sl => Sys2Proof.Machine.execYpop sl s
  | .yclm sl => Sys2Proof.Machine.execYclm sl s
  | .fence sl => Sys2Proof.Machine.execFence sl s
  | .mark sl => Sys2Proof.Machine.execMark sl s
  | .rdtime sl => Sys2Proof.Machine.execRdtime sl s
  | .waitt sl => Sys2Proof.Machine.execWaitt sl s
  | .setdiv sl => Sys2Proof.Machine.execSetdiv sl s
  | .rdtick sl => Sys2Proof.Machine.execRdtick sl s
  | .sysr sl => Sys2Proof.Machine.execSysr sl s
  | .sysw sl => Sys2Proof.Machine.execSysw sl s
  | .icinv sl => Sys2Proof.Machine.execIcinv sl s
  | .tdrd sl => Sys2Proof.Machine.execTdrd sl s
  | .tdwr sl => Sys2Proof.Machine.execTdwr sl s

end Sys2Proof.Machine
end

