-- ==== Sys2Proof/Machine/Upsets.lean ====
section
/-! DEFINITION. Errors of the stores that hold a context's data (R361, R370, R371, R373, R393): their records, and what an uncorrectable
one poisons. An error comes from outside and is found where it strikes (log entry 128). -/

namespace Sys2Proof.Machine

/-- The cell in which a store lies. -/
def Struck.cell : Struck → Option CellId
  | .spRow c _ | .slotRow c _ _ | .latch c _ _ | .metadata c _ | .vLane c _ _ | .kLane c _ _ | .gReg c _ | .bPiece c _ _ | .lq c _ _
  | .sq c _ _ | .mq c _ _ | .yq c _ | .text c _ | .array c | .ballast c => some c
  | .desc _ _ | .leaf _ _ _ | .line _ _ | .counter _ _ | .phaser _ _ => none
/-- STORE, UNIT and INDEX of its records (R347, R374, log entry 128). -/
def Struck.place : Struck → Nat × Nat × Nat
  | .spRow _ r => (0, 4, r)
  | .slotRow _ k i => (1, 5, 128 * k.val + i.val)
  | .latch _ l _ => (2, 2, l.val)
  | .metadata _ k => (2, 2, k)
  | .vLane _ n _ => (3, 1, n.val)
  | .kLane _ n _ => (3, 1, n.val)
  | .gReg _ n => (3, 0, n.val)
  | .bPiece _ n _ => (3, 0, n.val)
  | .lq _ n _ => (3, 1, n.val)
  | .sq _ n _ => (3, 1, 4 + n.val)
  | .mq _ n _ => (3, 1, 6 + n.val)
  | .yq _ _ => (3, 0, 8)
  | .text _ off => (4, 6, off)
  | .desc _ tid | .leaf _ tid _ => (7, 9, tid.toNat)
  | .line n _ => (5, 8, n)
  | .counter _ n | .phaser _ n => (5, 8, n)
  | .array _ => (2, 2, 0)
  | .ballast _ => (2, 2, 0)
/-- Does anything stand where the error strikes? -/
def State.stands (s : State) : Struck → Bool
  | .spRow _ r => decide (r < spRows)
  | .metadata c k => decide (k < (s.cell c).me.metaq.length)
  | .kLane _ n _ => n != 0
  | .gReg _ n => n != 0
  | .lq c n k => decide (k < (s.cell c).q.lq[n].length)
  | .sq c n k => decide (k < (s.cell c).q.sq[n].length)
  | .mq c n k => decide (k < (s.cell c).q.mq[n].length)
  | .yq c k => decide (k < (s.cell c).q.yq.length)
  | .text c off => ((s.cell c).textAt off).isSome
  | .desc a t => s.descs.any fun d => d.asid == a && d.tid == t
  | .leaf a t tile => s.leaves.any fun l => l.asid == a && l.tid == t && decide (l.tile = tile)
  | .line n _ => (s.lineAt n).isSome
  | .counter _ n | .phaser _ n => decide (n < 256)
  | .array c => (s.cell c).me.win.isSome || (s.cell c).flight.any fun l => match l.dst with
    | .slotAdd _ _ _ _ _ => true
    | _ => false
  | .ballast c => s.ballasted c
  | .slotRow _ _ _ | .latch _ _ _ | .vLane _ _ _ | .bPiece _ _ _ => true
/-- Is the error uncorrectable: what parity alone covers always is, unless it is fetched again, as a clean line is; the array holds no
code, and a ballast pass counts as corrected (R370, R393). -/
def State.uncorrectable (s : State) (x : Struck) (bad : Bool) : Bool :=
  match x with
  | .vLane _ _ _ | .kLane _ _ _ | .gReg _ _ | .bPiece _ _ _ | .lq _ _ _ | .sq _ _ _ | .mq _ _ _ | .yq _ _ | .array _ => true
  | .text _ _ | .desc _ _ | .leaf _ _ _ | .ballast _ => false
  | .line n _ => bad && (s.lineAt n).any (·.dirty)
  | .spRow _ _ | .slotRow _ _ _ | .latch _ _ _ | .metadata _ _ | .counter _ _ | .phaser _ _ => bad
/-- The record of an error: 0x20 where it is corrected, 0x21 where data is poisoned (R345, R374). -/
def State.upsetRec (s : State) (x : Struck) (bad : Bool) : ErrRec :=
  let on := x.cell.filter fun c => (s.cell c).busy
  let asid := match x with
    | .counter a _ | .phaser a _ | .desc a _ | .leaf a _ _ => some a
    | _ => on.map fun c => (s.gangOf c).asid
  { cls := if bad then 0x21 else 0x20, sev := bad.toNat, unit := x.place.2.1, cell := x.cell.map fun c => (c, (s.cell c).sq.segid),
    asid := asid, disp := 0, tick := (on.map fun c => (s.gangOf c).tick).getD 0,
    addr := match x with
      | .line n _ => 64 * n
      | _ => 0,
    synd := x.place.1 + x.place.2.2 % 65536 * 2 ^ 16 }

/-- The 32 bytes of a latch's codeword take their poison tags. -/
def tagWord (w : Nat) (l : Latch) : Latch := { l with tags := l.tags ||| BitVec.ofNat 32768 ((2 ^ 32 - 1) * 2 ^ (32 * w)) }
/-- An entry of a queue takes the poison tag. -/
def tagEntry (k : Nat) (l : List QEntry) : List QEntry := l.modify k fun e => { e with tag := true }
/-- The newest partial on its way to a slot is poisoned. -/
def tagPartial : List Landing → List Landing
  | [] => []
  | l :: rest => match l.dst with
    | .slotAdd k r _ _ z => if rest.any fun m => match m.dst with
        | .slotAdd _ _ _ _ _ => true
        | _ => false
      then l :: tagPartial rest
      else { l with dst := .slotAdd k r (mkSlotRow fun _ => nan32) (BitVec.allOnes 256) z } :: rest
    | _ => l :: tagPartial rest
/-- What an uncorrectable error poisons, and what a refetched one loses (R370, R373); a K lane takes a free value, for a mask has no tag
(log entry 128). -/
def State.strike (s : State) (x : Struck) (bad : Bool) : State :=
  match x with
  | .text c off => s.modCell c fun y => { y with text := y.text.filter fun e => decide (e.1 ≠ off) }
  | .desc a t => s.dropDesc a t
  | .leaf a t tile => { s with leaves := s.leaves.filter fun l => !(l.asid == a && l.tid == t && decide (l.tile = tile)) }
  | .line n w =>
    if bad then { s with lines := s.lines.map fun l => if l.line = n then { l with tags := l.tags ||| BitVec.ofNat 16 (3 * 4 ^ w.val) } else l }
    else s
  | .spRow c r => if bad then s.modCell c fun y => y.putRow r (y.row r) true else s
  | .slotRow c k i =>
    if bad then s.modCell c fun y => { y with cr := y.cr.putAt k i.val (mkSlotRow fun _ => nan32) (BitVec.allOnes 256) } else s
  | .latch c l w =>
    if bad then s.modCell c fun y => { y with me := { y.me with bl := y.me.bl.set l (tagWord w.val y.me.bl[l]) } } else s
  | .metadata c k => if bad then s.modCell c fun y => { y with me := { y.me with metaq := y.me.metaq.modify k fun e => (e.1, true) } } else s
  | .vLane c n i => s.modCell c fun y => { y with ve := { y.ve with vTag := y.ve.vTag.set n (y.ve.vTag[n] ||| BitVec.ofNat 64 (2 ^ i.val)) } }
  | .kLane c n i =>
    let (w, t) := s.free 18
    t.modCell c fun y => { y with ve := { y.ve with
      k := y.ve.k.set n (BitVec.ofNat 64 (putField y.ve.k[n].toNat i.val 1 (w.toNat % 2))) } }
  | .gReg c n => s.modCell c fun y => { y with cc := { y.cc with gTag := y.cc.gTag ||| BitVec.ofNat 32 (2 ^ n.val) } }
  | .bPiece c n k => s.modCell c fun y => { y with cc := { y.cc with bTag := y.cc.bTag.set n (y.cc.bTag[n] ||| BitVec.ofNat 32 (2 ^ k.val)) } }
  | .lq c n k => s.modCell c fun y => { y with q := { y.q with lq := y.q.lq.set n (tagEntry k y.q.lq[n]) } }
  | .sq c n k => s.modCell c fun y => { y with q := { y.q with sq := y.q.sq.set n (tagEntry k y.q.sq[n]) } }
  | .mq c n k => s.modCell c fun y => { y with q := { y.q with mq := y.q.mq.set n (tagEntry k y.q.mq[n]) } }
  | .yq c k => s.modCell c fun y => { y with q := { y.q with yq := y.q.yq.modify k fun e => { e with tag := true } } }
  | .counter a n => if bad then s.putCounter a n (s.counter a n).1 true else s
  | .phaser a n => if bad then s.putPhaser { s.phaser a n with poisoned := true } else s
  | .array c => s.modCell c fun y => { y with flight := tagPartial y.flight }
  | .ballast _ => s
/-- The open window whose replay an error calls for: it struck the array, a latch that a retained pass copied, or a row of the window's
slot (R362). -/
def State.struckWindow (s : State) (x : Struck) : Option (CellId × Window) :=
  let find (c : CellId) (p : Window → Bool) : Option (CellId × Window) := ((s.cell c).me.win.filter p).map fun w => (c, w)
  match x with
  | .array c => find c fun _ => true
  | .latch c l _ => find c fun _ => (s.cell c).me.ret.any fun o => (s.cell c).me.bl[l].src = some o.src
  | .slotRow c k _ => find c fun w => (s.cell c).cr.slotOf w.key = some k
  | _ => none

/-- The next error of a store is found and recorded (R371); an uncorrectable one poisons what it struck, and inside the ME with its window
open it is replayed (R362). A device that is not up meets none. -/
def takeUpset (s : State) : Res :=
  .next <| match s.upsets with
  | [] => s
  | (x, b) :: rest =>
    let t : State := { s with upsets := rest }
    if !s.up || !s.stands x then t
    else
      let bad := s.uncorrectable x b
      let r := s.upsetRec x bad
      match if bad then s.struckWindow x else none with
      | some (c, w) => (if w.failed = 1 then t else t.strike x bad).windowError c w r
      | none => (t.strike x bad).writeRecord r

end Sys2Proof.Machine
end

