-- ==== Sys2Proof/Machine/Agenda.lean ====
section
/-! DEFINITION. What the scheduling step chooses from: the walk of a sequencer through its text (R22, R23, R47), the work that a
tick of a gang's timetable must hold (R21–R31, R43–R45, R126, R304), what follows at once or at a wall time, the work that comes in any
order (R48, R124, R125), the requests and events that reach the device, and the reference clock (R172–R175, R184). -/

namespace Sys2Proof.Machine

/-- A step of one agent. -/
abbrev Act := State → Res

/-- A step is enabled where it changes the state: every event that is not enabled leaves the state as it is. -/
def State.enabled (s : State) (a : Act) : Bool :=
  match a s with
  | .next t => decide (t ≠ s)
  | _ => true

/-- The first record that the text cache lacks from an offset to the SEGE of its segment (R47). -/
def Cell.lacks (x : Cell) : Nat → Nat → Option Nat
  | 0, _ => none
  | n + 1, off =>
    match x.textAt off with
    | none => some off
    | some v => if isSegeBits (x.behind v) then none else x.lacks n (off + 1)
/-! ## The records that are due (R22–R27) -/

/-- A gang whose timetable runs (R21, R32, R43). -/
def Gang.ticking (g : Gang) : Bool := (g.status = .running || g.status = .ending) && !g.frozen

/-- The expansion that an engine issues at this tick (R25). -/
def State.expansionDue (s : State) (c : CellId) (e : Eng) : Option Nat :=
  (((s.cell c).engine e).exp.filter fun x =>
    decide (1 ≤ x.done ∧ x.done < x.total ∧ x.t0 + x.done * x.step = (s.gangOf c).tick)).map (·.off)
/-- The record that an engine issues at this tick, from its stamp, or at the SEGE's tick because it is stamped beyond it
(R25, R26). -/
def State.recordDue (s : State) (c : CellId) (e : Eng) : Option (Nat × RecordBits) :=
  let g := s.gangOf c
  let x := s.cell c
  match s.walkOf c e with
  | .own off v =>
    let beyond := match s.segeOf c with
      | some (_, st) => decide (x.sq.start + st ≤ g.tick)
      | none => false
    if x.sq.start + stampOf g.encgen v.toNat ≤ g.tick || beyond then some (off, v) else none
  | _ => none
/-- Is a SEGE next for a cell's CC? It issues last in its tick. -/
def State.segeDue (s : State) (c : CellId) : Bool :=
  match s.recordDue c .cc with
  | some (_, v) => isSegeBits ((s.cell c).behind v)
  | none => false

/-- An engine takes its turn, its program counter at the record that is due. -/
def takeTurn (c : CellId) (e : Eng) : Act := fun s =>
  .next (if (s.cell c).sq.dead || ((s.cell c).engine e).pc.isNone then s
  else if (s.expansionDue c e).isSome then { s with turn := .record c e }
  else match s.recordDue c e with
    | none => s
    | some (off, _) => { s.modCell c (fun x => x.setEngine e { x.engine e with pc := some off }) with turn := .record c e })
/-- The CC takes its turn for any record but the SEGE. -/
def ccTurn (c : CellId) : Act := fun s => if s.segeDue c then .next s else takeTurn c .cc s
/-- The SE's turn is its event SE_RELEASE (R27). -/
def seTurn (c : CellId) : Act := fun s =>
  match takeTurn c .se s with
  | .next t => if t.turn = .record c .se then execSeRelease c t else .next s
  | r => r

/-! ## Requests ahead of need (R27, R44, R218, R304) -/

/-- The keys that an ME record writes, zeroes, releases or relabels, by its OP. -/
def touchesKey (x : Cell) (op : Nat) (r : Rec) (k : Key) : Bool :=
  let names (o : Opnd) : Bool := (List.range (nestTotal r.nest)).any fun n => match keyAt o (ixOf r.nest n) x.cc with
    | .ok j => j = k
    | .error _ => false
  match op with
  | 5 | 6 | 7 | 8 | 9 | 10 | 13 | 16 | 17 | 23 | 24 | 25 | 29 => names r.o0
  | 20 => r.o1.kind ≠ 0 && names r.o0
  | 22 => r.o1.kind = 13 && (names r.o0 || names r.o1)
  | 18 => (match r.o1 with
    | .imm w => k.label == w.extractLsb' 0 12
    | _ => false)
  | _ => false
/-- The tick of the next ME record of a cell within its look-ahead that touches a key (R304). -/
def Cell.touchTick (x : Cell) (gen : Nat) (k : Key) (last : Nat) : Nat → Nat → Option Nat
  | 0, _ => none
  | n + 1, off =>
    match x.walk gen .me textCap off with
    | .own o v =>
      let t := x.sq.start + stampOf gen v.toNat
      if last < t then none
      else match decode gen (x.behind v).toNat with
        | .ok i => (match recOf i with
          | some (_, op, r) => if touchesKey x op r k then some t else x.touchTick gen k last n (o + 1)
          | none => x.touchTick gen k last n (o + 1))
        | .error _ => x.touchTick gen k last n (o + 1)
    | _ => none
/-- The holds of CRDS commands on keys that an ME record of a cell touches within its look-ahead (R304): the command and the
record's tick. A hold whose rows are all read asks for a freeze only ahead of the record's tick. -/
def State.crdsHolds (s : State) (c : CellId) : List (Nat × Nat) :=
  let x := s.cell c
  let g := s.gangOf c
  match (x.engine .me).pc with
  | none => []
  | some off => (x.se.queue.filter fun m => m.op = 0x11).filterMap fun m =>
      match x.touchTick g.encgen m.o1.key (g.tick + g.dstall) 64 off with
      | some t => if g.tick < t then some (m.uid, t) else if m.next < m.total then some (m.uid, g.tick) else none
      | none => none

/-- The BRK records of a cell's segment, each raising its debug stop when it enters the slip window (R218). -/
def State.brks (s : State) (c : CellId) : List Act :=
  let x := s.cell c
  let last := match s.segeOf c with
    | some (o, _) => o
    | none => x.sq.segOff + textCap
  (x.text.filter fun e => x.sq.segOff ≤ e.1 && e.1 ≤ last && e.2.toNat % 2048 = 24).filterMap fun e =>
    match decode (s.gangOf c).encgen e.2.toNat with
    | .ok (.brk r) => some fun (t : State) =>
        let u := { t with curCell := c, curEng := engineOf e.2.toNat }
        .next (if brkRaises r u then brkRequest r u else t)
    | _ => none

/-- How many ticks an engine's record occupies (R24, R25). -/
def Cell.occupies (x : Cell) (gen : Nat) (e : Eng) (w : RecordBits) : Nat :=
  match e with
  | .ve | .me => nestTotal (BitVec.ofNat 64 (widened gen w.toNat / 2 ^ 64)) * engCycles e * (x.engine e).div
  | _ => 1
/-- The engines that a record starts, with their offsets (R30). -/
def forkStarts (gen : Nat) (w : RecordBits) : List (Eng × Nat) :=
  if w.toNat % 2048 ≠ 16 then []
  else match decode gen w.toNat with
    | .ok (.fork r) => [Eng.ve, .me, .se].filterMap fun e => (forkOffset r e).map fun o => (e, o)
    | _ => []
/-- The successors that a SEGE names (R33). -/
def segeSuccs (gen : Nat) (w : RecordBits) : List Nat :=
  match decode gen w.toNat with
  | .ok (.sege r) => (List.range r.nsucc.toNat).map fun k => fieldOf r.succ.toNat (32 * k) 32
  | _ => []
/-- The records that the text cache lacks and that an engine's walk needs by a tick, each with the first tick at which it can be
due: the engine is at an offset of a segment that starts at `start`, and its next record is due no earlier than `lb`. The walk goes on
through FORKs and into every successor of a SEGE (R44, R47). -/
def Cell.needs (x : Cell) (gen last : Nat) : Nat → Eng → Nat → Nat → Nat → List (Nat × Nat)
  | 0, _, _, _, _ => []
  | n + 1, e, start, off, lb =>
    if last < lb then []
    else match x.textAt off with
      | none => [(off, lb)]
      | some v =>
        let w := x.behind v
        let t := start + stampOf gen v.toNat
        if isSegeBits w then (segeSuccs gen w).flatMap fun o => x.needs gen last n e (t + 1) o (max lb (t + 1))
        else if engineOf v.toNat = e then
          (if e = .cc && t ≤ last then (forkStarts gen w).flatMap fun f => x.needs gen last n f.1 start f.2 (t + 1) else []) ++
            x.needs gen last n e start (off + 1) (max lb (t + x.occupies gen e v))
        else if rdvStops gen e w then []
        else x.needs gen last n e start (off + 1) lb
/-- The records that a cell's text cache lacks and that may be due within the next Dstall ticks, with the first tick at which each
can be (R44). -/
def State.textNeeds (s : State) (c : CellId) : List (Nat × Nat) :=
  let x := s.cell c
  let g := s.gangOf c
  [Eng.cc, .ve, .me, .se].flatMap fun e =>
    let q := x.engine e
    match q.pc with
    | none => []
    | some off => x.needs g.encgen (g.tick + g.dstall) 65536 e x.sq.start off (max g.tick (match q.last with
      | some l => l + 1
      | none => 0))
/-- The records that a cell fetches next: the first one lacking from where each sequencer stands and from each successor, and
those it needs (R47). -/
def State.preloads (s : State) (c : CellId) : List Nat :=
  ((s.textFocus c).filterMap ((s.cell c).lacks (textCap + 1)) ++ (s.textNeeds c).map (·.1)).eraseDups

/-- The requests that a cell raises ahead of need at this tick. -/
def State.aheads (s : State) (c : CellId) : List Act :=
  let text := (s.textNeeds c).map fun e => execFreezeRequestAhead c (.text e.1) e.2
  let space := (s.releaseShort c).head?.toList.map fun t => execFreezeRequestAhead c .seSpace t
  let crds := (s.crdsHolds c).map fun h => execFreezeRequestAhead c (.crds h.1) h.2
  text ++ space ++ crds ++ s.brks c

/-! ## A tick of a gang (R5, R21–R31, R37, R40, R43, R126) -/

/-- The steps of one kind on every cell of a gang. -/
def Gang.each (g : Gang) (f : CellId → List Act) : List Act := g.cells.flatMap f

/-- The reads of matrix operations that fall at this tick. -/
def State.mpReadsDue (s : State) (c : CellId) : List Act :=
  (s.cell c).me.ops.map fun o => execPerformARead c .mp o.uid
/-- CQ accesses and fenced writes whose window ends at this tick (R126, R133); an access that a MARK holds back is freed by the
other buffer's head (R128). -/
def State.windowsEnding (s : State) (c : CellId) : List Act :=
  let x := s.cell c
  let now := (s.gangOf c).tick
  let load := execPerformARead c .cq 0
  let store := execDrain c
  let heads := (x.ord.loads.any fun l => decide (l.by_ ≤ now)) || (x.ord.stores.any fun w => decide (w.by_ ≤ now) || w.fby.any fun n => decide (n ≤ now))
  (if heads then [load, store] else []) ++
    ((s.fabric.filter fun w => w.cell = c && w.by_.any fun n => decide (n ≤ now)).map fun w => execPerformAWrite w.uid)
/-- Commands with a promise, judged at their deadlines. -/
def State.deadlines (s : State) (c : CellId) : List Act := (s.cell c).se.queue.map fun m => execLatencyDeadline c m.uid

/-- What a gang's tick still holds, in order: requests raised for this tick, the stop, what lands, the records (CC, VE, ME, SE),
the reads of matrix operations, ends of windows and deadlines, and the SEGE last. -/
def State.tickWork (s : State) (g : GangId) : List Act :=
  let x := s.gang g
  if !x.ticking then []
  else
    x.each s.aheads ++ [execFreezeBegin g] ++
    x.each (fun c => [execResultLanding c, execDivisorSwitch c, execTextCacheInvalidate c]) ++
    [execDecisionDelivery g, execDivergenceCheck g] ++
    x.each (fun c => [ccTurn c, takeTurn c .ve, takeTurn c .me, seTurn c]) ++
    x.each s.mpReadsDue ++ x.each s.windowsEnding ++ x.each s.deadlines ++
    x.each (fun c => [takeTurn c .cc])

/-! ## What follows at once, or at a wall time -/

/-- The thaw, the end of a task, and the kill of a gang stopped for it (R32, R43, R346). -/
def State.follows (s : State) (g : GangId) : List Act :=
  let x := s.gang g
  [execThaw g, execTileTaskComplete g] ++
    (if x.frozen && (x.dueReqs.any fun r => match r.cond with
      | .kill _ => true
      | _ => false) then [execKillContext g] else []) ++
    [execTileTaskStart g, execQuantumExpiry g, execForwardingTimeout g]
/-- Timers of the device (R152, R157, R158, R169, R179, R191, R383, R385, R394, R395). -/
def State.timers (s : State) : List Act :=
  s.images.map (fun i => execResume i.id) ++ s.outFrames.map (fun f => execRetransmitTimeout f.fid) ++
    s.dups.flatMap (fun d => d.holders.flatMap fun h => [execInvalidationResend d.frame h.1, execLeaseLapse d.frame h.1] ++
      (if d.home.isSome && h.2.1 + usCycles 2000 ≤ s.wall then [execLeaseRenewal d.frame h.1] else [])) ++
    [execForcedSlowDown 0, execForcedSlowDown 1, execSlowDownReturn, execFrequencyStep, execBallastDecay]

/-- The work that must be done before the next reference cycle, in order. -/
def State.forced (s : State) : List Act :=
  (List.finRange 128).flatMap s.tickWork ++ (List.finRange 128).flatMap s.follows ++ s.timers

/-! ## Work that comes in any order (R48, R124, R125) -/

/-- The ordering machine, the sync engines and the stream engine of a cell. -/
def State.cellWork (s : State) (c : CellId) : List Act :=
  let x := s.cell c
  let a := (s.gangOf c).asid
  [execDrain c, execPerformARead c .cq 0, execYqReturnArrival c, execCremaSpill c, execCremaFill c, execParkedRegisterMove c] ++
    x.ord.yp.flatMap (fun o => [execPerformARmw c o.uid, execAtomicPerform c o.uid, execPhaserPerform c o.uid]) ++
    x.ord.yp.map (fun o => execYarrowRound (s.gidOf c) o.tick) ++
    x.ord.holds.map (fun h => execRelease h.uid) ++
    x.se.queue.flatMap (fun m => [execSeCommandStart c m.uid, execPerformARead c .sp m.uid, execChunkPerformed c m.uid,
      execSeCommandCompletion c m.uid, execCrdsHoldMet c m.uid]) ++
    (if x.me.win.any fun w => w.failed = 1 then [execWindowReplay c] else []) ++
    (if x.busy then (s.preloads c).map (execTextPreload c) else []) ++
    ((s.gangOf c).reqs.filterMap fun r => match r.cond with
      | .translation d tid tile _ => if d = c then some (execTranslationWalk a tid tile) else none
      | _ => none)
/-- Firmware's choices at a gang stopped by faults that were raised in an assisted mode, unless the remote host has been asked, and at one
whose image was resumed with them (R191, R352, R355). -/
def State.firmwareWork (s : State) (g : GangId) : List Act :=
  let x := s.gang g
  if x.owner.isNone && (x.dueFaults.any fun p => if p.written then p.again && x.saveFor.isNone else p.mode ≠ 0) && !(s.forwards.any fun e => e.1 = g) then
    [Choice.hardware, .resume, .preempt, .kill].map (execFaultDisposition g)
  else []
/-- Saving a gang (R162, R163). -/
def State.saveWork (g : GangId) : List Act := [execPreemptionStop g, execImageWriteout g, execCommitRecord g]

/-- The collapses under way (R92): firmware begins one that waits for it, a holder on this device acknowledges at once, and one that waits for
nobody ends. -/
def State.dupWork (s : State) : List Act :=
  s.dups.flatMap fun d =>
    (if d.waiters ≠ [] && !d.collapse then [execCollapse d.frame] else []) ++
    (if d.collapse && d.acks = [] then [fun t => .next (t.finishCollapse d)] else []) ++
    ((d.acks.filter fun a => a.1.dev = s.selfdev).map fun a => execInvalidationAck d.frame a.1)
/-- The migrations under way (R93, R384). -/
def State.migWork (s : State) : List Act :=
  ((s.migs.filter fun m => m.home = s.selfdev && !m.copied).map fun m => execPageMigration m.frame m.die m.dev) ++
    ((s.migs.filter fun m => m.home = s.selfdev).map fun m => execHandover m.frame m.newFrame) ++
    ((s.migs.filter s.migFails).map fun m => execMigrationAbandon m.frame)
/-- The layout changes: the copy of a frame, the change to eleven stacks where its function is in hardware mode, and the return of
the demoted classes whose cause has ended (R88, R380, R382). -/
def State.layoutWork (s : State) : List Act :=
  [execRestripeFrameCopy] ++ (if s.layout.mode = 1 && fieldOf s.funcmode.toNat 6 2 = 0 then [execRestripe11Stacks] else []) ++
    ((s.demoted.filter fun d => decide (1 ≤ d.why ∧ d.why ≤ 4)).map fun d => execDemotionRestore d.asid d.tid d.tile)
/-- The device's own work: fabric, parity, sync engines, pages, layout, scheduler, log, frames. -/
def State.deviceWork (s : State) : List Act :=
  s.fabric.map (fun w => execPerformAWrite w.uid) ++ s.deltas.map (fun d => execParityDeltaApply d.parity) ++
    s.moved.map (fun m => execMovedReissue m.1 m.2.uid) ++ s.lines.map (fun l => execLineWriteback l.die l.line) ++
    s.dupWork ++ s.migWork ++ s.layoutWork ++ [execDispatcherRun] ++
    s.graphs.flatMap (fun h => (List.range h.nodes.length).map fun i => execNodeCompletion h.handle i) ++
    s.images.map (fun i => execInboundToImage i.id) ++
    (if s.emergency then s.images.map fun i => execExportImage i.id else []) ++
    s.log.map (fun r => execRecordDelivery r.seq) ++ s.inbound.map (fun i => fun t => .next (t.frameOn i))

/-! ## The outside (R185–R195) -/

/-- Is an instruction an event of the device, no record and no slot operation? -/
def isEvent (i : Instr) : Bool := (encode i).isNone && (slotOf i).isNone
/-- The requests that the management protocol and the host's queue serve: each is answered. -/
def isRequest : Instr → Bool
  | .graphSubmit .. | .saveRequest .. | .killContext _ | .exportImage _ | .returnTask _ | .killTask _ | .pinRegion _
  | .qcfgWrite .. | .pwrcfgWrite _ | .funcmodeWrite _ | .portcfgWrite .. | .monitorConfigWrite .. | .monitorRead _
  | .monitorReadAndClear _ | .mgmtRegisterWrite _ | .faricaTranslate .. | .debugStop .. | .stateRead .. | .stateWrite ..
  | .setBreakpoint .. | .clearBreakpoint .. | .debugResume .. | .debugStep .. | .getVersion | .getCapabilities
  | .negotiateAlgorithms .. | .getDigests | .getCertificate .. | .challenge .. | .getMeasurements .. | .keyExchange .. | .finish ..
  | .endSession _ | .setlim _ => true
  | _ => false
/-- The requests of system software that only the management protocol carries (R182, R191). -/
def isManagement : Instr → Bool
  | .graphSubmit .. | .saveRequest .. | .killContext _ | .exportImage _ | .returnTask _ | .killTask _ | .pinRegion _
  | .qcfgWrite .. | .pwrcfgWrite _ | .funcmodeWrite _ | .portcfgWrite .. | .monitorConfigWrite .. | .monitorRead _
  | .monitorReadAndClear _ | .mgmtRegisterWrite _ | .faricaTranslate .. => true
  | _ => false
/-- Does a sub-port with a link, on a port that accepts the management protocol, carry it (R182)? -/
def State.managed (s : State) : Bool := s.upSubs.any fun k => (s.ports[Fin.ofNat 2 (k.val / 4)]).mgmt
/-- What a device that boot or a device-fatal error has halted still accepts (R188, R351), and what the board does to it. -/
def isHaltRequest : Instr → Bool
  | .telem | .status | .reset | .powerOn _ | .boardTrip => true
  | _ => false
/-- Requests that the board's own bus serves in every state (R187, R188). -/
def isBoardRequest : Instr → Bool
  | .telem | .status | .reset | .powerOn _ | .boardTrip | .mctpUnknownCommand _ | .getVendorDefinedMessageSupport => true
  | _ => false
/-- The oldest request or event from outside takes effect; while the device is not up, a request is refused and anything else
is lost. A request that no port accepts is lost too, and so is what a halted device does not accept. -/
def takeInput : Act := fun s =>
  match s.inputs with
  | [] => .next s
  | (client, i) :: rest =>
    let t := { s with inputs := rest, asker := client }
    if !isEvent i || ((s.bootHalt || s.halted) && !isHaltRequest i) || (s.up && isManagement i && !s.managed) then .next t
    else if isBoardRequest i || s.up then exec i t
    else if isRequest i then .next (t.emit .refusedRequest)
    else .next t

/-- What may come next in any order. -/
def State.options (s : State) : List Act :=
  takeInput :: takeImport :: takeUpset :: (s.boot.map execPowerOn).toList ++ if s.up then
    (List.finRange 128).flatMap s.cellWork ++ (List.finRange 128).flatMap s.firmwareWork ++ (List.finRange 128).flatMap State.saveWork ++ s.deviceWork
  else []

/-! ## The reference clock (R21, R51, R172–R175, R184, R185) -/

/-- TIME over a stretch of wall time, in its units of 2⁻¹⁶ ns: 655,360/19 a cycle of 1,900 MHz, and the slew in parts per
thousand million. -/
def timeStep (slew : Int) (w0 w1 : Nat) : Int :=
  ((w1 * 655360 / 19 : Nat) : Int) - ((w0 * 655360 / 19 : Nat) : Int) +
    (((w1 : Int) * 655360 * slew).fdiv 19000000000 - ((w0 : Int) * 655360 * slew).fdiv 19000000000)

/-- A gang's tick ends (R21). -/
def State.endGangTick (s : State) (g : GangId) : State :=
  let x := s.gang g
  if x.ticking then (x.cells.foldl (fun t c => endTick c t) s).modGang g fun y => { y with tick := y.tick + 1 } else s

/-- Wall time and TIME over one reference cycle. -/
def State.passTime (s : State) : State :=
  let p := s.power
  let acc := p.acc + 2 * 1900 * p.rootDiv
  let wall := s.wall + acc / (2 * p.freq)
  let recent (l : List Nat) : List Nat := l.filter fun n => decide (p.refs + 1 < n + 2048)
  let at_ := p.stretchAt.map recent
  { s with
    wall := wall
    clock := { s.clock with time := s.clock.time + BitVec.ofInt 80 (timeStep s.clock.slew s.wall wall) }
    power := { p with
      refs := p.refs + 1
      acc := acc % (2 * p.freq)
      stretchAt := at_
      calmSince := if at_.any (fun l => decide (16 < l.length)) then wall else p.calmSince } }

/-- One reference cycle: every gang whose timetable runs ends its tick, and time passes. -/
def State.edge (s : State) : State :=
  let t := if s.up then (List.finRange 128).foldl State.endGangTick s else s
  t.passTime.emergencyEnd

/-! ## The choice -/

/-- The scheduling step: one of the enabled steps that come in any order, or else the first that this cycle still has to hold, or
else the clock's turn. Every so many reference cycles (Config.patience), each of the steps that are then enabled gets its turn
before any other choice, so none waits for ever (R48). -/
def schedule (s : State) : Res :=
  let l := s.options.filter s.enabled
  let k := Config.pick s.pickCtr % (l.length + 1)
  let t := { s with pickCtr := s.pickCtr + 1, debt := s.debt - 1 }
  if 0 < s.debt then match l[s.debt - 1]? with
    | some a => a t
    | none => .next t
  else match l[k]? with
    | some a => a t
    | none => match (if s.up then s.forced else []).find? s.enabled with
      | some a => a t
      | none => .next { t with turn := .clock, debt := if s.power.refs % (Config.patience + 1) = 0 then l.length else 0 }

/-- A record of an engine: its expansion, or the record at its program counter. -/
def State.fetch (s : State) (c : CellId) (e : Eng) : Option RecordBits :=
  s.recordAt c ((s.expansionDue c e).getD (((s.cell c).engine e).pc.getD 0))

/-- The record that an engine issues is decoded and executed (R22, R215). -/
def issueWord (c : CellId) (e : Eng) (w : RecordBits) (s : State) : Res :=
  let gen := (s.gangOf c).encgen
  let t := { s with turn := .auto, curCell := c, curEng := e }
  match decode gen w.toNat with
  | .ok i => exec i t
  | .error r => .next (rejectRecord r (stampOf gen w.toNat) t)

/-- A one-cell gang of generation 4 on cell 0 about to issue a record, at the record's tick. -/
def State.withRecord (s : State) (w : RecordBits) : State :=
  let e := engineOf w.toNat
  let x := s.cell 0
  let cell : Cell := { x with
    gang := 0
    busy := true
    text := [(0, w)]
    inval := []
    sq := { x.sq with start := 0, segOff := 0, dead := false } }
  let q := { cell.engine e with pc := some 0, exp := none, last := none, forked := none, rdvOff := none, forkOff := none, stop := false }
  let gang : Gang := { s.gang 0 with
    status := .running
    cells := [0]
    glog := 0
    encgen := 4
    tick := stampOf 4 w.toNat
    frozen := false
    reqs := [] }
  { (s.setCell 0 (cell.setEngine e q)).setGang 0 gang with turn := .record 0 e }

end Sys2Proof.Machine
end

