-- ==== Sys2Proof/Machine/Step.lean ====
section
/-! DEFINITION. The step of the device: the record, event or clock cycle whose turn it is, or the scheduling step. -/

namespace Sys2Proof.Machine

/-- One step. A record's turn fetches, decodes and executes it, and ends where the text cache lacks the record, which its preload then
brings (R47); an event's turn executes it; the clock's turn ends a reference cycle; otherwise the scheduling step moves. -/
def step (s : State) : Host.Outcome State Fault Refusal :=
  match s.turn with
  | .record c e => match s.fetch c e with
    | none => .next { s with turn := .auto }
    | some w => issueWord c e w s
  | .event i => exec i { s with turn := .auto }
  | .clock => .next { s with turn := .auto }.edge
  | .auto => schedule s

/-- The record whose bits are w (those above nbits zero) stands where the step fetches next: in the text cache of cell 0 at the
program counter of its engine, in a one-cell gang at the record's tick. -/
def State.withFetchWord (s : State) (nbits w : Nat) : State := s.withRecord (BitVec.ofNat 512 (w % 2 ^ nbits))

end Sys2Proof.Machine
end

