-- ==== Sys2Proof/Safety.lean ====
section
/-! DEFINITION. The terms the statements use: when a record issues or a slot acts, what a step of one cell leaves alone, and
the invariant that every step keeps. -/

namespace Sys2Proof.Machine

/-- One byte of device memory at its device address. -/
def State.byte (s : State) (a : Nat) : Byte := assocGet 0 s.mem a

/-- Nothing outside one cell changes but the numbering of accesses and the name of the engine that ran: no other cell, no
gang, no byte of memory, no buffer, no register of the device. -/
structure State.OneCell (s t : State) (c : CellId) : Prop where
  rest  : { t with cells := s.cells, uid := s.uid, curEng := s.curEng } = s
  cells : ∀ d, d ≠ c → t.cell d = s.cell d
  bytes : ∀ a, t.byte a = s.byte a

/-- The executing cell becomes x, and nothing else of the device changes. -/
structure State.Becomes (s t : State) (x : Cell) : Prop where
  one  : s.OneCell t s.curCell
  cell : t.cur = x

/-- One result goes into flight on the executing cell, and nothing else of the device changes: every register, flag, row and
queue of the cell stays until the result lands. -/
def State.Lands (s t : State) (due off : Nat) (e : Eng) (d : Land) (vfl mfl : FlagBits) (cfl : BitVec 2) : Prop :=
  s.Becomes t { s.cur with flight := s.cur.flight ++ [⟨due, s.uid, e, off, d, vfl, mfl, cfl⟩] }

/-- One freeze request is raised on the executing cell's gang, due Dstall ticks later, and nothing else changes (R43). -/
structure State.Requests (s t : State) (k : Cond) : Prop where
  rest : { t with gangs := s.gangs, curEng := s.curEng } = s
  own  : t.gangOf s.curCell = { s.gangOf s.curCell with
    reqs := (s.gangOf s.curCell).reqs ++ [⟨s.now + (s.gangOf s.curCell).dstall, k⟩] }
  others : ∀ g, g ≠ s.gidOf s.curCell → t.gang g = s.gang g

/-- A fault is taken: its record is prepared with its class, unit, syndrome, address, place and tick, one freeze request for it
is raised Dstall ticks ahead, and nothing else changes (R43, R347, R354). -/
structure State.TakesFault (s t : State) (e : Eng) (off : Nat) (f : Flt) : Prop where
  rest : { t with gangs := s.gangs, curEng := s.curEng, uid := s.uid } = s
  own  : ∃ p, t.gangOf s.curCell = { s.gangOf s.curCell with
      faults := (s.gangOf s.curCell).faults ++ [p]
      reqs := (s.gangOf s.curCell).reqs ++ [⟨s.now + (s.gangOf s.curCell).dstall, .fault s.uid⟩] } ∧
    p.id = s.uid ∧ p.cls = f.cls ∧ p.unit = f.unit ∧ p.synd = BitVec.ofNat 64 f.synd ∧ p.addr = BitVec.ofNat 64 f.addr ∧
    p.cell = s.curCell ∧ p.eng = e ∧ p.off = off ∧ p.slot = f.slot ∧ p.tick = s.now ∧ p.segid = s.cur.sq.segid ∧
    p.tns = s.clock.time.extractLsb' 16 64 ∧ p.written = false
  others : ∀ g, g ≠ s.gidOf s.curCell → t.gang g = s.gang g

/-- A slot of operation op8 acts in the control core's bundle: its fields are those of its entry and its predicate holds
(R202, R215). -/
def State.SlotActs (s : State) (op8 : Nat) (sl : Slot) : Prop := slotCheck op8 sl = none ∧ evalPred s.cur.cc sl.spred = true

/-- The text offset and the divisor of the control core of the executing cell. -/
def State.ccOff (s : State) : Nat := (s.cur.engine .cc).pc.getD 0
def State.ccDiv (s : State) : Nat := (s.cur.engine .cc).div

/-- The expansions of a timed record of an engine (R25); an SE record is released once (R27). -/
def issuesOf (r : Rec) (e : Eng) : Nat := if e = .se then 1 else nestTotal r.nest

/-- A timed record of an engine issues at this tick from a text offset: it is legal, its stamp has come, no schedule miss
stands against it, and its predicate holds (R24–R28, R199, R215). -/
structure State.RecIssues (s : State) (i : Instr) (e : Eng) (r : Rec) (off : Nat) : Prop where
  free  : (s.onEngine e).expanding = none
  pc    : (s.onEngine e).engine.pc = some off
  due   : (s.onEngine e).waits r.stamp.toNat = false
  legal : recBad i (s.gangOf s.curCell).encgen = none
  time  : (s.onEngine e).missCause off r.stamp.toNat (issuesOf r e) (engCycles e) = none
  pred  : evalPred s.cur.cc r.pred = true
  range : stepBad i r e (s.gangOf s.curCell).encgen 0 = none

/-- The state whose sequencer has begun a record (R24, R25, R35): the next record, the expansions still to come, the ticks
they take, and the signature entry. -/
def State.begun (s : State) (i : Instr) (e : Eng) (r : Rec) (off : Nat) : State :=
  (s.onEngine e).beginRecord i off r.stamp.toNat (issuesOf r e) (engCycles e) true

/-- The state whose sequencer goes on with a record that is expanding (R25). -/
def State.continued (s : State) (e : Eng) (x : Expansion) : State :=
  (s.onEngine e).setEngine { (s.onEngine e).engine with
    exp := if x.done + 1 < x.total then some { x with done := x.done + 1 } else none }

/-- Expansion k of a timed record takes effect at this tick, from state u on and in the given mode: the record issues and k is
0, or it has issued, its predicate held, and expansion k falls due (R24–R28, R120, R199). -/
def State.Expands (s : State) (i : Instr) (e : Eng) (r : Rec) (off k : Nat) (mode : BitVec 4) (u : State) : Prop :=
  (k = 0 ∧ s.RecIssues i e r off ∧ mode = (s.onEngine e).engMode ∧ u = s.begun i e r off) ∨
  (stepBad i r e (s.gangOf s.curCell).encgen k = none ∧ ∃ x, (s.onEngine e).expanding = some x ∧ x.act = true ∧ x.off = off ∧
    x.done = k ∧ x.mode = mode ∧ u = s.continued e x)

/-- A record of the control core issues at this tick from a text offset: its stamp has come and no schedule miss stands against
it (R24, R26, R28). -/
structure State.CcIssues (s : State) (stamp off : Nat) : Prop where
  free : (s.onEngine .cc).expanding = none
  pc   : (s.onEngine .cc).engine.pc = some off
  due  : (s.onEngine .cc).waits stamp = false
  time : (s.onEngine .cc).missCause off stamp 1 1 = none

/-- The state whose control core has begun a record of one issue. -/
def State.ccBegun (s : State) (i : Instr) (off stamp : Nat) : State := (s.onEngine .cc).beginRecord i off stamp 1 1 true

/-- A scratchpad operand names a row at an expansion, inside the scratchpad: BASE stepped, plus the row bits of an unpoisoned
register with no bit above 22 set (R58, R200). -/
def State.NamesRow (s : State) (o : Opnd) (x : Ix) (row : Nat) : Prop :=
  row < 24576 ∧ ∃ g base st, o = .sp g base st ∧ match g with
    | none => (row : Int) = stepped base.toNat st x
    | some n => s.cur.cc.gtag n = false ∧ (s.cur.cc.greg n).toNat < 2 ^ 23 ∧
        (row : Int) = stepped (base.toNat + (s.cur.cc.greg n).toNat / 256) st x

/-! ## Operands of the vector engine -/

/-- A source operand of an expansion holds a value with its poison tags: a V register, the visible head of a queue, an
immediate in every lane, or nothing (R241, R243). -/
def State.Reads (s : State) (o : Opnd) (x : Ix) (v : VSrc) : Prop :=
  match o with
  | .v n _ _ _ st => v = ⟨s.cur.ve.v[stepNum 32 n.val st x], s.cur.ve.vTag[stepNum 32 n.val st x]⟩
  | .lq n _ => ∃ h l, s.cur.q.lq[n] = h :: l ∧ h.vis ≤ s.now ∧ v = ⟨h.row, if h.tag then BitVec.allOnes 64 else 0⟩
  | .mq n _ => ∃ h l, s.cur.q.mq[n] = h :: l ∧ h.vis ≤ s.now ∧ v = ⟨h.row, if h.tag then BitVec.allOnes 64 else 0⟩
  | .imm w => v = ⟨mkRow fun _ => w, 0⟩
  | _ => v = ⟨0, 0⟩

/-- A destination queue has room (R56). -/
def State.Room (s : State) (o : Opnd) : Prop :=
  match o with
  | .sq n => (s.cur.q.sq[n]).length < 16
  | _ => True

/-- An expansion's result is on its way: the heads it pops leave their queues, and the active lanes of its V register, or a new
entry of its queue, take the result lat engine cycles later with its flags; nothing else changes (R56, R241–R243). -/
def State.Puts (u t : State) (r : Rec) (off k lat : Nat) (act : BitVec 64) (v : VRes) : Prop :=
  let w := popHeads r u
  let due := u.now + lat * u.div
  match r.o0 with
  | .v n _ _ _ st => w.Lands t due off .ve (.v (stepNum 32 n.val st (ixOf r.nest k)) act v.row v.tags) v.fl 0 0
  | .sq n => w.Becomes t { w.cur with
      q := { w.cur.q with sq := w.cur.q.sq.set n (w.cur.q.sq[n] ++ [⟨u.uid, due, true, v.row, v.tags != 0⟩]) }
      flight := w.cur.flight ++ [⟨due, u.uid, .ve, off, .flags, v.fl, 0, 0⟩] }
  | _ => t = w

/-- A result lands in a mask register lat engine cycles later (R52, R259). -/
def State.PutsMask (u t : State) (r : Rec) (off k lat : Nat) (m : BitVec 64) (fl : FlagBits) : Prop :=
  match r.o0 with
  | .k n st => u.Lands t (u.now + lat * u.div) off .ve (.k (stepNum 8 n.val st (ixOf r.nest k)) m) fl 0 0
  | _ => t = u

/-- A result whose lanes come from the lanes of the same number: poison is the OR of the sources', a poisoned lane holds pv and
raises no flag, and the flags are those of the active lanes (R121, R242, R243). -/
structure VRes.Lanes (v : VRes) (act : BitVec 64) (tag : Nat → Bool) (pv : Nat → Lane) (f : Nat → Lane × FlagBits) : Prop where
  tags  : ∀ i < 64, v.tags.getLsbD i = tag i
  row   : ∀ i < 64, lane v.row i = if tag i then pv i else (f i).1
  flags : ∀ j < 6, v.fl.getLsbD j = true ↔ ∃ i < 64, act.getLsbD i = true ∧ tag i = false ∧ (f i).2.getLsbD j = true

/-! ## Operands and results of the matrix engine -/

/-- A scratchpad operand names n rows from a row on, all inside the scratchpad (R58, R269). -/
def State.NamesRows (s : State) (o : Opnd) (n : Nat) (x : Ix) (row : Nat) : Prop := s.NamesRow o x row ∧ row + n ≤ 24576

/-- An operand names a half-row, inside the scratchpad (R200). -/
def State.NamesHalf (s : State) (o : Opnd) (x : Ix) (h : Nat) : Prop :=
  h < 49152 ∧ ∃ g base st, o = .hr g base st ∧ match g with
    | none => (h : Int) = stepped base.toNat st x
    | some n => s.cur.cc.gtag n = false ∧ (s.cur.cc.greg n).toNat < 2 ^ 23 ∧
        (h : Int) = stepped (base.toNat + (s.cur.cc.greg n).toNat / 128) st x

/-- An operand names a Crema key: TILE, plus the low bits of an unpoisoned register, stepped modulo 2^16 (R200). -/
def State.NamesKey (s : State) (o : Opnd) (x : Ix) (k : Key) : Prop :=
  ∃ g tile st, o = .ck g tile k.label st ∧ match g with
    | none => k.tile = BitVec.ofInt 16 (stepped tile.toNat st x)
    | some n => s.cur.cc.gtag n = false ∧
        k.tile = BitVec.ofInt 16 (stepped (tile.toNat + (s.cur.cc.greg n).toNat % 65536) st x)

/-- A record that writes a key takes its slot: the one the key holds, or the head of the free list, whose elements become +0.0; the
last write is at this tick (R66, R269). A spilled key and a free list that is empty are excluded. -/
structure State.WritesKey (s : State) (k : Key) (slot : Fin 16) (w : State) : Prop where
  here  : s.cur.cr.spilledOf k = none
  place : (s.cur.cr.slotOf k = some slot ∧
      w = s.setCur { s.cur with cr := s.cur.cr.setSlot slot { s.cur.cr.slots[slot] with lastWrite := s.now } }) ∨
    (s.cur.cr.slotOf k = none ∧ s.cur.cr.free.head? = some slot ∧ (∀ e ∈ s.cur.cr.parked, e.2 ≠ .slot slot) ∧
      w = s.setCur { s.cur with
        cr := (({ s.cur.cr with free := s.cur.cr.free.tail }).clearSlot slot).setSlot slot ⟨some k, false, s.now⟩ })

/-- Where a record's n output rows go: an MQ tail, or rows of the scratchpad that no open window has registered (R269, R284). -/
def State.Dest (s : State) (o : Opnd) (n : Nat) (x : Ix) (d : RowDst) : Prop :=
  (∃ q p, o = .mq q p ∧ d = .mq q) ∨
  (∃ b, s.NamesRows o n x b ∧ (∀ i < n, s.cur.windowFlt .me (b + i) = none) ∧ d = .sp b)

/-- n results of the matrix engine are on their way, result i at issue + lat + i, and nothing else changes (R269). -/
def State.LandsEach (s t : State) (off lat n : Nat) (d : Nat → Land) (fl : Nat → FlagBits) : Prop :=
  let l : List Landing := (List.range n).map fun i => ⟨s.now + (lat + i) * s.div, s.uid + i, .me, off, d i, 0, fl i, 0⟩
  s.Becomes t { s.cur with flight := s.cur.flight ++ l }

/-- The timed reads of a list of rows fit the banks at this tick (R59). -/
def State.CanRead (s : State) (rows : List Nat) : Prop :=
  ∀ r ∈ rows, assocGet 0 s.cur.ord.banks (r % 32) + rows.countP (fun q => q % 32 = r % 32) ≤ 4
/-- The state after timed reads of a list of rows: their banks are counted. -/
def State.reading (s : State) (rows : List Nat) : State :=
  rows.foldl (fun t r => t.setCur { t.cur with ord := { t.cur.ord with
    banks := assocPut 0 t.cur.ord.banks (r % 32) (assocGet 0 t.cur.ord.banks (r % 32) + 1) } }) s
/-- A scratchpad row as the executing cell's MP path sees it, with its poison (R124, R126). -/
def State.mpRow (s : State) (row : Nat) : Row × Bool := s.visible s.curCell .mp (.sp s.curCell row)

/-- Work is left to the freeze that a record requests: one entry of Crema's work with the tick of that freeze and the record's number, one
request (R44, R279). -/
structure State.Asks (s t : State) (off : Nat) (m : CremaMove) (k : Cond) : Prop where
  rest : { t with cells := s.cells, gangs := s.gangs, uid := s.uid } = s
  cell : t.cur = { s.cur with cr := { s.cur.cr with moving := s.cur.cr.moving ++ [⟨off, s.moveDue (s.gidOf s.curCell), s.uid, m⟩] } }
  cells : ∀ d, d ≠ s.curCell → t.cell d = s.cell d
  own  : t.gangOf s.curCell =
    { s.gangOf s.curCell with reqs := (s.gangOf s.curCell).reqs ++ [⟨s.moveDue (s.gidOf s.curCell), k⟩] }
  others : ∀ g, g ≠ s.gidOf s.curCell → t.gang g = s.gang g

/-- The OR of the flags of n lanes that are not poisoned. -/
def lanesFlags (n : Nat) (tag : Nat → Bool) (f : Nat → FlagBits) : FlagBits :=
  (List.range n).foldl (fun a i => if tag i then a else a ||| f i) 0

/-- What an SE record captures of an operand at its release: immediates and locations as they stand, the numbers of rows,
half-rows, coordinates and keys with the registers they name, none of them poisoned (R27, R200, R285). A row address with a bit above
22 set is excluded. -/
def State.Captures (s : State) (o : Opnd) (q : ROp) : Prop :=
  let r := s.cur.cc
  match o with
  | .imm w => q = .imm w
  | .ring b => q = .ring b
  | .sp none row st => q = .sp row.toNat st
  | .sp (some n) row st => r.gtag n = false ∧ (r.greg n).toNat < 2 ^ 23 ∧ q = .sp (row.toNat + (r.greg n).toNat / 256) st
  | .hr none h st => q = .hr h.toNat st
  | .hr (some n) h st => r.gtag n = false ∧ (r.greg n).toNat < 2 ^ 23 ∧ q = .hr (h.toNat + (r.greg n).toNat / 128) st
  | .tensor tid sdim c0 c1 c2 c3 st => (∀ c ∈ [c0, c1, c2, c3], r.gtag c = false) ∧
      ∃ set, q = .tensor tid sdim #v[r.greg c0, r.greg c1, r.greg c2, r.greg c3] set st ∧
        ∀ d < 4, set.getLsbD d = decide ([c0, c1, c2, c3].getD d 0 ≠ 0)
  | .ck none tile label st => q = .ck ⟨tile, label⟩ st
  | .ck (some n) tile label st => r.gtag n = false ∧ q = .ck ⟨tile + (r.greg n).setWidth 16, label⟩ st
  | _ => q = .absent

/-- The rows of a cell's scratchpad and of its Crema are in canonical form. -/
def Cell.canonical (x : Cell) : Bool := assocWf 0 x.sp && assocWf 0 x.cr.rows

/-- Every store of bytes or rows is in canonical form: device memory, and the rows of every cell and of every saved member. -/
def State.canonical (s : State) : Bool :=
  Memory.wf s.mem && s.cells.toList.all Cell.canonical && s.images.all fun i => i.members.all Cell.canonical

end Sys2Proof.Machine
end

