-- ==== Sys2Proof/Certificates/Slice0/Obligations.lean ====
section
/-! DEFINITION. The statements. Each says for which instructions, states and operands a step completes and with what, or
what a rule of the manual promises of the whole machine. -/

section
open Sys2Proof Sys2Proof.Machine

namespace Sys2Proof.Machine

/-! ## Integer slots of the control core -/

/-- An integer slot as R220 gives it: its constructor, OP8, latency, whether the result is sign-extended, whether it reads B and
G[DST], whether it can set IDZ, and its result on w-bit values of A, B and G[DST]. -/
structure IntSlot where
  ctor : Slot → Instr
  op8  : Nat
  lat  : Nat
  sgn  : Bool
  useB : Bool
  useD : Bool
  idz  : Bool
  f    : (w : Nat) → BitVec w → BitVec w → BitVec w → BitVec w

noncomputable def intSlots : List IntSlot := [
  ⟨.add,   0x01, 1, false, true, false, false, fun _ a b _ => a + b⟩,
  ⟨.sub,   0x02, 1, false, true, false, false, fun _ a b _ => a - b⟩,
  ⟨.mul,   0x03, 3, false, true, false, false, fun _ a b _ => a * b⟩,
  ⟨.mulhs, 0x04, 3, true,  true, false, false, fun w a b _ => (a.signExtend (2 * w) * b.signExtend (2 * w)).extractLsb' w w⟩,
  ⟨.mulhn, 0x05, 3, false, true, false, false, fun w a b _ => (a.zeroExtend (2 * w) * b.zeroExtend (2 * w)).extractLsb' w w⟩,
  ⟨.madd,  0x06, 3, false, true, true,  false, fun _ a b d => d + a * b⟩,
  ⟨.divs,  0x07, 18, true,  true, false, true, fun w a b _ => if b = 0 then BitVec.allOnes w else a.sdiv b⟩,
  ⟨.divn,  0x08, 18, false, true, false, true, fun w a b _ => if b = 0 then BitVec.allOnes w else a / b⟩,
  ⟨.rems,  0x09, 18, true,  true, false, true, fun _ a b _ => if b = 0 then a else a.srem b⟩,
  ⟨.remn,  0x0A, 18, false, true, false, true, fun _ a b _ => if b = 0 then a else a % b⟩,
  ⟨.and,   0x0B, 1, false, true, false, false, fun _ a b _ => a &&& b⟩,
  ⟨.or,    0x0C, 1, false, true, false, false, fun _ a b _ => a ||| b⟩,
  ⟨.xor,   0x0D, 1, false, true, false, false, fun _ a b _ => a ^^^ b⟩,
  ⟨.andn,  0x0E, 1, false, true, false, false, fun _ a b _ => a &&& ~~~b⟩,
  ⟨.shl,   0x0F, 1, false, true, false, false, fun w a b _ => a <<< (b.toNat % w)⟩,
  ⟨.shrl,  0x10, 1, false, true, false, false, fun w a b _ => a >>> (b.toNat % w)⟩,
  ⟨.shra,  0x11, 1, true,  true, false, false, fun w a b _ => a.sshiftRight (b.toNat % w)⟩,
  ⟨.rotl,  0x12, 1, false, true, false, false, fun w a b _ => a.rotateLeft (b.toNat % w)⟩,
  ⟨.clz,   0x13, 1, false, false, false, false, fun _ a _ _ => a.clz⟩,
  ⟨.ctz,   0x14, 1, false, false, false, false, fun _ a _ _ => a.ctz⟩,
  ⟨.popc,  0x15, 1, false, false, false, false, fun _ a _ _ => a.cpop⟩,
  ⟨.mins,  0x16, 1, true,  true, false, false, fun _ a b _ => if b.slt a then b else a⟩,
  ⟨.maxs,  0x17, 1, true,  true, false, false, fun _ a b _ => if a.slt b then b else a⟩,
  ⟨.minn,  0x18, 1, false, true, false, false, fun _ a b _ => if b.ult a then b else a⟩,
  ⟨.maxn,  0x19, 1, false, true, false, false, fun _ a b _ => if a.ult b then b else a⟩,
  ⟨.abss,  0x1A, 1, true,  false, false, false, fun _ a _ _ => if a.msb then -a else a⟩]

end Sys2Proof.Machine

/-- Every integer slot ADD to ABSS completes: its result, computed on w bits, extended to 64 and marked with the OR of its
sources' tags, goes into flight to G[DST]; a poisoned result holds zero; nothing else changes (R215, R220, R221). -/
def Obligations.IntegerSlotsComplete : Prop :=
  ∀ e ∈ intSlots, ∀ (sl : Slot) (s : State), s.SlotActs e.op8 sl →
    let r := s.cur.cc
    let w := szBits sl.sz
    let b : BitVec w := (srcB sl r).setWidth w
    let v := e.f w ((r.greg sl.sa).setWidth w) b ((r.greg sl.dst).setWidth w)
    let tag := r.gtag sl.sa || (e.useB && srcBTag sl r) || (e.useD && r.gtag sl.dst)
    ∃ t, exec (e.ctor sl) s = .next t ∧
      s.Lands t (s.now + e.lat * s.ccDiv) s.ccOff .cc
        (.g sl.dst (if tag then 0 else if e.sgn then v.signExtend 64 else v.setWidth 64) tag) 0 0
        (if tag then 2 else if e.idz && b = 0 then 1 else 0)

namespace Sys2Proof.Machine

/-! ## Field, move, compare and predicate slots -/

/-- A slot that writes G[DST] one cycle after issue: constructor, OP8, value and poison tag from the slot and the registers. -/
structure MoveSlot where
  ctor : Slot → Instr
  op8  : Nat
  val  : Slot → Cc → Word
  tag  : Slot → Cc → Bool

noncomputable def moveSlots : List MoveSlot := [
  ⟨.sext, 0x1B, fun sl r => ((r.greg sl.sa).setWidth (szBits sl.sz)).signExtend 64, fun sl r => r.gtag sl.sa⟩,
  ⟨.bfex, 0x1C, fun sl r =>
      let x : BitVec (sl.imm32.toNat / 64 % 64 + 1) := ((r.greg sl.sa) >>> (sl.imm32.toNat % 64)).setWidth _
      if sl.imm32.getLsbD 12 then x.signExtend 64 else x.setWidth 64,
    fun sl r => r.gtag sl.sa⟩,
  ⟨.bfin, 0x1D, fun sl r =>
      let lo := sl.imm32.toNat % 64
      let m := (BitVec.allOnes 64 >>> (63 - sl.imm32.toNat / 64 % 64)) <<< lo
      (r.greg sl.dst &&& ~~~m) ||| ((r.greg sl.sa <<< lo) &&& m),
    fun sl r => r.gtag sl.sa || r.gtag sl.dst⟩,
  ⟨.crc32, 0x1E, fun sl r => (crcBytes ((r.greg sl.sa).setWidth 32)
      ((List.range (szBits sl.sz / 8)).map fun k => (srcB sl r).extractLsb' (8 * k) 8)).setWidth 64,
    fun sl r => r.gtag sl.sa || srcBTag sl r⟩,
  ⟨.movi, 0x1F, fun sl _ => sl.imm32.signExtend 64, fun _ _ => false⟩,
  ⟨.movh, 0x20, fun sl r => (sl.imm32.setWidth 64 <<< 32) ||| ((r.greg sl.sa).setWidth 32).setWidth 64, fun sl r => r.gtag sl.sa⟩,
  ⟨.mov,  0x21, fun sl r =>
      if sl.imm32.toNat % 4 = 0 then r.greg sl.sa
      else if sl.imm32.toNat % 4 = 1 then (if r.pred sl.sa.val then 1 else 0)
      else r.d[sl.sa.val % 4].setWidth 64,
    fun sl r => sl.imm32.toNat % 4 = 0 && r.gtag sl.sa⟩,
  ⟨.sel,  0x22, fun sl r =>
      ((if r.pred (sl.imm32.toNat % 16) then r.greg sl.sa else r.greg sl.sb).setWidth (szBits sl.sz)).setWidth 64,
    fun sl r => r.gtag sl.sa || r.gtag sl.sb⟩]

end Sys2Proof.Machine

/-- SEXT to SEL complete: the value and its tag land in G[DST] one control-core cycle after issue, and nothing else changes
(R215, R222, R223). -/
def Obligations.MoveSlotsComplete : Prop :=
  ∀ e ∈ moveSlots, ∀ (sl : Slot) (s : State), s.SlotActs e.op8 sl →
    let tag := e.tag sl s.cur.cc
    ∃ t, exec (e.ctor sl) s = .next t ∧
      s.Lands t (s.now + s.ccDiv) s.ccOff .cc (.g sl.dst (if tag then 0 else e.val sl s.cur.cc) tag) 0 0 (if tag then 2 else 0)

namespace Sys2Proof.Machine

/-- A slot that writes a P register: constructor, OP8, value, and whether a source is poisoned. -/
structure PredSlot where
  ctor : Slot → Instr
  op8  : Nat
  val  : Slot → Cc → Bool
  tag  : Slot → Cc → Bool

/-- A compare of A and B on the slot's width. -/
def comparing (f : (w : Nat) → BitVec w → BitVec w → Bool) (sl : Slot) (r : Cc) : Bool :=
  f (szBits sl.sz) ((r.greg sl.sa).setWidth _) ((srcB sl r).setWidth _)
def comparedTag (sl : Slot) (r : Cc) : Bool := r.gtag sl.sa || srcBTag sl r

noncomputable def predSlots : List PredSlot := [
  ⟨.cmpeq,  0x23, comparing fun _ a b => a == b, comparedTag⟩,
  ⟨.cmpne,  0x24, comparing fun _ a b => a != b, comparedTag⟩,
  ⟨.cmplts, 0x25, comparing fun _ a b => a.slt b, comparedTag⟩,
  ⟨.cmples, 0x26, comparing fun _ a b => a.sle b, comparedTag⟩,
  ⟨.cmpltn, 0x27, comparing fun _ a b => a.ult b, comparedTag⟩,
  ⟨.cmplen, 0x28, comparing fun _ a b => a.ule b, comparedTag⟩,
  ⟨.tstb,   0x29, comparing fun w a b => a.getLsbD (b.toNat % w), comparedTag⟩,
  ⟨.pand,   0x2A, fun sl r => r.pred sl.sa.val && r.pred sl.sb.val, fun _ _ => false⟩,
  ⟨.por,    0x2B, fun sl r => r.pred sl.sa.val || r.pred sl.sb.val, fun _ _ => false⟩,
  ⟨.pxor,   0x2C, fun sl r => r.pred sl.sa.val ^^ r.pred sl.sb.val, fun _ _ => false⟩,
  ⟨.pnot,   0x2D, fun sl r => !r.pred sl.sa.val, fun _ _ => false⟩,
  ⟨.pmov,   0x2E, fun sl r => if sl.imm then sl.imm32.getLsbD 0 else r.pred sl.sa.val, fun _ _ => false⟩]

end Sys2Proof.Machine

/-- The compares CMPEQ to TSTB and the predicate operations PAND to PMOV complete: the truth value lands in P[DST] one cycle
after issue, a compare that reads poison writes false, and nothing else changes (R215, R224). -/
def Obligations.PredicateSlotsComplete : Prop :=
  ∀ e ∈ predSlots, ∀ (sl : Slot) (s : State), s.SlotActs e.op8 sl →
    let tag := e.tag sl s.cur.cc
    ∃ t, exec (e.ctor sl) s = .next t ∧
      s.Lands t (s.now + s.ccDiv) s.ccOff .cc (.p (Fin.ofNat 16 sl.dst.val) (e.val sl s.cur.cc && !tag)) 0 0 (if tag then 2 else 0)

namespace Sys2Proof.Machine

/-! ## Slots that read the device or the schedule -/

end Sys2Proof.Machine

/-- RDTIME, RDTICK and SYSR complete: TIME in nanoseconds at +3, the schedule counter at +1, a system register at +2; SYSR of
TIMEL also captures TIMEH (R51, R237, R238). -/
def Obligations.ReadSlotsComplete : Prop :=
  ∀ (sl : Slot) (s : State),
    (s.SlotActs 0x56 sl → ∃ t, exec (.rdtime sl) s = .next t ∧
      s.Lands t (s.now + 3 * s.ccDiv) s.ccOff .cc (.g sl.dst (s.clock.time.extractLsb' 16 64) false) 0 0 0) ∧
    (s.SlotActs 0x59 sl → ∃ t, exec (.rdtick sl) s = .next t ∧
      s.Lands t (s.now + s.ccDiv) s.ccOff .cc (.g sl.dst (BitVec.ofNat 64 s.now) false) 0 0 0) ∧
    (s.SlotActs 0x5A sl → sl.imm32.toNat % 256 < 16 → sl.imm32.toNat % 256 ≠ 13 → ∃ t, exec (.sysr sl) s = .next t ∧
      s.Lands t (s.now + 2 * s.ccDiv) s.ccOff .cc (.g sl.dst (sysValue (sl.imm32.toNat % 256) s) false) 0 0 0) ∧
    (s.SlotActs 0x5A sl → sl.imm32.toNat % 256 = 13 → ∃ t, exec (.sysr sl) s = .next t ∧
      s.Becomes t { s.cur with
        flight := s.cur.flight ++ [⟨s.now + 2 * s.ccDiv, s.uid, .cc, s.ccOff, .g sl.dst (s.clock.time.setWidth 64) false, 0, 0, 0⟩]
        cc := { s.cur.cc with timeh := some (s.clock.time.extractLsb' 64 16) } })

namespace Sys2Proof.Machine

/-- SYSW completes for SLIPW, SPILLBASE, SPILLLEN and CFLAGS: the write takes place at +1, a poisoned source as zero; the two
spill registers only while nothing is spilled (R50, R238). -/
def SystemWriteCompletes : Prop :=
  ∀ (sl : Slot) (s : State), s.SlotActs 0x5B sl → 7 ≤ sl.imm32.toNat % 256 → sl.imm32.toNat % 256 ≤ 10 →
    (sl.imm32.toNat % 256 = 8 ∨ sl.imm32.toNat % 256 = 9 → s.cur.spilledOut = false) →
    let tag := s.cur.cc.gtag sl.sa
    ∃ t, exec (.sysw sl) s = .next t ∧
      s.Lands t (s.now + s.ccDiv) s.ccOff .cc (.sysw (sl.imm32.toNat % 256) (if tag then 0 else s.cur.cc.greg sl.sa)) 0 0
        (if tag then 2 else 0)

/-- A SYSW of a read-only index is a privilege fault; SYSR or SYSW of an index from 16 up, and SYSW of a spill register while a key
is spilled or a register parked outside Crema, are illegal-slot faults, whether or not the predicate holds; none writes anything
(R50, R215). -/
def SystemRegisterFaults : Prop :=
  ∀ (sl : Slot) (s : State), let i := sl.imm32.toNat % 256
    (slotCheck 0x5A { sl with imm32 := 0 } = none → 16 ≤ i → ∃ t f, exec (.sysr sl) s = .next t ∧ s.TakesFault t .cc s.ccOff f ∧ f.cls = 5) ∧
    (slotCheck 0x5B { sl with imm32 := 0 } = none → 16 ≤ i → ∃ t f, exec (.sysw sl) s = .next t ∧ s.TakesFault t .cc s.ccOff f ∧ f.cls = 5) ∧
    (slotCheck 0x5B sl = none → i ≤ 6 ∨ 11 ≤ i →
      ∃ t f, exec (.sysw sl) s = .next t ∧ s.TakesFault t .cc s.ccOff f ∧ f.cls = 6) ∧
    (slotCheck 0x5B sl = none → i = 8 ∨ i = 9 → s.cur.spilledOut = true →
      ∃ t f, exec (.sysw sl) s = .next t ∧ s.TakesFault t .cc s.ccOff f ∧ f.cls = 5)

end Sys2Proof.Machine

/-- The system registers: the writes that complete, and the indices that fault (R50, R215, R238). -/
def Obligations.SystemRegisterSlots : Prop := SystemWriteCompletes ∧ SystemRegisterFaults

namespace Sys2Proof.Machine

/-! ## Rows, queues and markers -/

/-- The row of SP[Ga+row] exists and the register that gives it is not poisoned (R58, R225). -/
structure State.SlotRow (s : State) (sl : Slot) (row : Nat) : Prop where
  tag   : s.cur.cc.gtag sl.sa = false
  small : (s.cur.cc.greg sl.sa).toNat < 2 ^ 23
  isRow : row = sl.imm32.toNat % 32768 + (s.cur.cc.greg sl.sa).toNat / 256
  have_ : row < 24576

/-- The timed accesses to the bank of a row at this tick (R59). -/
def State.bankUse (s : State) (row : Nat) : Nat := assocGet 0 s.cur.ord.banks (row % 32)
/-- The executing cell's ordering state after one more timed access to a row. -/
def State.ordUsing (s : State) (row : Nat) : Ord :=
  { s.cur.ord with banks := assocPut 0 s.cur.ord.banks (row % 32) (s.bankUse row + 1) }

end Sys2Proof.Machine

/-- LDROW and QLD complete: the read enters the load buffer, to be performed in its window, and QLD also pushes its entry;
STROW and QST complete: the row enters the store buffer with the value B or the queue head has at issue, and QST takes the head.
A row beyond the scratchpad, a poisoned address and a fifth access to a bank are excluded, and no registered row is written
(R56, R58, R59, R126, R225, R284). -/
def Obligations.RowSlotsComplete : Prop :=
  ∀ (sl : Slot) (s : State) (row : Nat), s.SlotRow sl row → s.bankUse row < 4 →
    let o := s.ordUsing row
    let load (win : Nat) (b : Option (Fin 4)) : Ord :=
      { o with loads := o.loads ++ [⟨s.uid, s.now, s.now + win * s.ccDiv, o.mark, row, s.ccOff, b, s.ccDiv⟩] }
    let store (win : Nat) (v : Row) (tag : Bool) : Ord :=
      { o with stores := o.stores ++ [⟨s.uid, s.now, s.now + win * s.ccDiv, o.mark, row, v, tag, none, s.ccOff⟩] }
    (s.SlotActs 0x2F sl → ∃ t, exec (.ldrow sl) s = .next t ∧
      s.Becomes t { s.cur with ord := load 3 (some (Fin.ofNat 4 sl.dst.val)) }) ∧
    (s.SlotActs 0x33 sl → (s.cur.q.lq[Fin.ofNat 4 sl.dst.val]).length < 16 → ∃ t, exec (.qld sl) s = .next t ∧
      let n := Fin.ofNat 4 sl.dst.val
      let entry : QEntry := ⟨s.uid, s.now + 6 * s.ccDiv, false, 0, false⟩
      s.Becomes t { s.cur with ord := load 5 none, q := { s.cur.q with lq := s.cur.q.lq.set n (s.cur.q.lq[n] ++ [entry]) } }) ∧
    (s.SlotActs 0x30 sl → s.cur.windowFlt .cc row = none → ∃ t, exec (.strow sl) s = .next t ∧
      let n := Fin.ofNat 4 sl.dst.val
      let tag := s.cur.cc.bTag[n] != 0
      s.Becomes t { s.cur with
        ord := store 2 s.cur.cc.b[n] tag
        flight := s.cur.flight ++ if tag then [⟨s.now + s.ccDiv, s.uid + 1, .cc, s.ccOff, .flags, 0, 0, 2⟩] else [] }) ∧
    (s.SlotActs 0x34 sl → s.cur.windowFlt .cc row = none →
      ∀ h rest, s.cur.q.sq[Fin.ofNat 2 sl.dst.val] = h :: rest → h.vis ≤ s.now → ∃ t, exec (.qst sl) s = .next t ∧
      s.Becomes t { s.cur with
        ord := store 3 h.row h.tag
        q := { s.cur.q with sq := s.cur.q.sq.set (Fin.ofNat 2 sl.dst.val) rest } })

/-- EXTL and INSL complete with the piece that IMM32 or an unpoisoned register numbers; MARK sets the marker before which
earlier CQ accesses perform; NOP changes nothing (R128, R202, R225). -/
def Obligations.PieceSlotsComplete : Prop :=
  ∀ (sl : Slot) (s : State),
    let k : Fin 32 := if sl.imm then Fin.ofNat 32 sl.imm32.toNat else Fin.ofNat 32 (s.cur.cc.greg sl.sb).toNat
    let n := Fin.ofNat 4 sl.sa.val
    let ptag := s.cur.cc.bTag[n].getLsbD k.val
    let gtag := s.cur.cc.gtag sl.sa
    (s.SlotActs 0x31 sl → srcBTag sl s.cur.cc = false → ∃ t, exec (.extl sl) s = .next t ∧
      s.Lands t (s.now + s.ccDiv) s.ccOff .cc
        (.g sl.dst (if ptag then 0 else s.cur.cc.b[n].extractLsb' (64 * k.val) 64) ptag) 0 0 (if ptag then 2 else 0)) ∧
    (s.SlotActs 0x32 sl → srcBTag sl s.cur.cc = false → ∃ t, exec (.insl sl) s = .next t ∧
      s.Lands t (s.now + s.ccDiv) s.ccOff .cc
        (.bPiece (Fin.ofNat 4 sl.dst.val) k (if gtag then 0 else s.cur.cc.greg sl.sa) gtag) 0 0 (if gtag then 2 else 0)) ∧
    (s.SlotActs 0x55 sl → ∃ t, exec (.mark sl) s = .next t ∧
      s.Becomes t { s.cur with ord := { s.cur.ord with mark := s.now + 1 } }) ∧
    (s.SlotActs 0x00 sl → ∃ t, exec (.nop sl) s = .next t ∧ s.Becomes t s.cur)

namespace Sys2Proof.Machine

/-! ## Decisions, checks and traps -/

end Sys2Proof.Machine

/-- DECIDE completes: the cell contributes CV, the low bits of its G register, or 0 for a poisoned one, to the reduction that
ROP, DST and K name; with its predicate false it contributes the identity, 7 for AND and MIN and 0 otherwise (R37, R38, R226). -/
def Obligations.DecideCompletes : Prop :=
  ∀ (sl : Slot) (s : State), slotCheck 0x35 sl = none → ruleDecide sl s = none →
    let w := sl.imm32.toNat
    let rop := w / 4 % 8
    let r := s.cur.cc
    let tag := sl.sa != 0 && r.gtag sl.sa
    let v : BitVec 3 := if evalPred r sl.spred then
        (if sl.sa = 0 then BitVec.ofNat 3 (w / 4096) else if tag then 0 else (r.greg sl.sa).setWidth 3)
      else if rop = 1 || rop = 3 then 7 else 0
    ∃ t, exec (.decide sl) s = .next t ∧
      { t with cells := s.cells, gangs := s.gangs, uid := s.uid, curEng := s.curEng } = s ∧
      t.gangOf s.curCell = { s.gangOf s.curCell with
        decisions := (s.gangOf s.curCell).decisions ++ [⟨s.now, s.curCell, Fin.ofNat 4 w, rop, w / 32 % 128, v, none, s.uid⟩] } ∧
      (∀ g, g ≠ s.gidOf s.curCell → t.gang g = s.gang g) ∧
      t.cur = { s.cur with
        flight := s.cur.flight ++
          if evalPred r sl.spred && tag then [⟨s.now + s.ccDiv, s.uid, .cc, s.ccOff, .flags, 0, 0, 2⟩] else [] }

/-- CHECK of an unpoisoned register completes and changes nothing; of a poisoned one, or with STICKY while PSN is set, it takes
the poison fault 0x11. TRAP takes the software trap 0x10 with the code of its IMM32 (R227, R356, R366). -/
def Obligations.CheckAndTrap : Prop :=
  ∀ (sl : Slot) (s : State),
    let isB := sl.imm32.getLsbD 0
    let bad := (if isB then s.cur.cc.bTag[Fin.ofNat 4 sl.sa.val] != 0 else s.cur.cc.gtag sl.sa) ||
      (sl.imm32.getLsbD 1 && s.cur.cc.cflags.getLsbD 1)
    (s.SlotActs 0x36 sl → bad = false → ∃ t, exec (.check sl) s = .next t ∧ s.Becomes t s.cur) ∧
    (s.SlotActs 0x36 sl → bad = true → ∃ t f, exec (.check sl) s = .next t ∧ s.TakesFault t .cc s.ccOff f ∧ f.cls = 0x11) ∧
    (s.SlotActs 0x37 sl → ∃ t f, exec (.trap sl) s = .next t ∧ s.TakesFault t .cc s.ccOff f ∧
      f.cls = 0x10 ∧ f.unit = 0 ∧ f.synd = sl.imm32.toNat % 65536)

namespace Sys2Proof.Machine

/-! ## Rings and stages -/

/-- A ring operation finds its ring: the location is in the scratchpad, the control block is legal and is no stage, and the
count register is not poisoned; m is the count (R61, R228). -/
structure State.OnRing (s : State) (sl : Slot) (q : Rcb) (m : BitVec 32) : Prop where
  place : sl.imm32.toNat % 2 ^ 17 / 4 < 24576
  rcb   : s.cur.rcb (sl.imm32.toNat % 2 ^ 17) = .ok q
  ring  : q.stage = false
  tag   : s.cur.cc.gtag sl.sa = false
  count : m = (s.cur.cc.greg sl.sa).setWidth 32 + BitVec.ofNat 32 (sl.imm32.toNat / 2 ^ 17)

/-- An operation of the control core enters the store buffer of path YP. -/
def State.ypWith (s : State) (k : YKind) (cover : List Cov) (scope : Nat) : Ord :=
  { s.cur.ord with yp := s.cur.ord.yp ++ [⟨s.uid, s.ccOff, 0, s.now, k, cover, scope, .cc, 0, false⟩] }
/-- The queues with one more YQ entry reserved. -/
def State.yqWith (s : State) : Queues := { s.cur.q with yq := s.cur.q.yq ++ [⟨s.uid, false, false, 0, false, false, none⟩] }

end Sys2Proof.Machine

/-- RWAITF and RWAITE complete: a wait that is satisfied, or for 0, changes nothing; any other raises one freeze request that
stands until the ring holds or can take m elements. RADVT and RADVH complete: the advance enters path YP behind the accesses it
covers. RCLM and RSTAT complete: they reserve a YQ entry and enter path YP (R62, R135, R136, R228). -/
def Obligations.RingSlotsComplete : Prop :=
  ∀ (sl : Slot) (s : State) (q : Rcb) (m : BitVec 32), s.OnRing sl q m →
    let loc := sl.imm32.toNat % 2 ^ 17
    let filled := (q.tail - q.head).toNat
    let free := (BitVec.ofNat 32 q.depth - (q.claimed - q.head)).toNat
    (s.SlotActs 0x38 sl → m.toNat ≤ q.depth → ∃ t, exec (.rwaitf sl) s = .next t ∧
      if m.toNat ≤ filled then s.Becomes t s.cur else s.Requests t (.ringFilled s.curCell loc m.toNat)) ∧
    (s.SlotActs 0x39 sl → m.toNat ≤ q.depth → ∃ t, exec (.rwaite sl) s = .next t ∧
      if m.toNat ≤ free then s.Becomes t s.cur else s.Requests t (.ringFree s.curCell loc m.toNat)) ∧
    (s.SlotActs 0x3A sl → ∃ t, exec (.radvt sl) s = .next t ∧
      s.Becomes t { s.cur with ord := s.ypWith (.tail loc m.toNat) (s.covers s.curCell false q.pushp false true) 0 }) ∧
    (s.SlotActs 0x3B sl → ∃ t, exec (.radvh sl) s = .next t ∧
      s.Becomes t { s.cur with ord := s.ypWith (.head loc m.toNat) (s.covers s.curCell false q.popp true false) 4 }) ∧
    (s.SlotActs 0x3C sl → s.cur.q.yq.length < 16 → ∃ t, exec (.rclm sl) s = .next t ∧
      s.Becomes t { s.cur with ord := s.ypWith (.claim loc m.toNat) [] 4, q := s.yqWith }) ∧
    (s.SlotActs 0x3D sl → s.cur.q.yq.length < 16 → ∃ t, exec (.rstat sl) s = .next t ∧
      s.Becomes t { s.cur with ord := s.ypWith (.stat loc) [] 4, q := s.yqWith })

namespace Sys2Proof.Machine

/-- A stage operation finds its stage and element (R63, R229). -/
structure State.OnStage (s : State) (sl : Slot) (q : Rcb) (e : Nat) : Prop where
  place : sl.imm32.toNat % 2 ^ 17 / 4 < 24576
  rcb   : s.cur.rcb (sl.imm32.toNat % 2 ^ 17) = .ok q
  stage : q.stage = true
  tag   : s.cur.cc.gtag sl.sa = false
  elem  : e = ((s.cur.cc.greg sl.sa).toNat + sl.imm32.toNat / 2 ^ 17) % 16
  deep  : e < q.depth

end Sys2Proof.Machine

/-- SACQ completes: with the element in the state it asks for nothing changes, otherwise a freeze request stands until it is.
SREL completes: the release enters path YP behind every earlier access on the stage's paths (R63, R137, R229). -/
def Obligations.StageSlotsComplete : Prop :=
  ∀ (sl : Slot) (s : State) (q : Rcb) (e : Nat), s.OnStage sl q e →
    let loc := sl.imm32.toNat % 2 ^ 17
    let own := sl.imm32.toNat / 2 ^ 21 % 4
    let full := sl.imm32.getLsbD 23
    (s.SlotActs 0x3E sl → ∃ t, exec (.sacq sl) s = .next t ∧
      if q.state.getLsbD (4 * e) = full ∧ q.state.toNat / 2 ^ (4 * e + 1) % 4 = own then s.Becomes t s.cur
      else s.Requests t (.stage s.curCell loc e own full)) ∧
    (s.SlotActs 0x3F sl → ∃ t, exec (.srel sl) s = .next t ∧
      let paths := q.pushp ||| q.popp
      s.Becomes t { s.cur with
        ord := s.ypWith (.srel loc e (sl.imm32.toNat / 2 ^ 24 % 4) own)
          (s.covers s.curCell false paths true true) 4 })

namespace Sys2Proof.Machine

/-! ## Arrival words and phasers -/

/-- An arrival-word operation finds its word: the registers are not poisoned, the address lies in the scratchpad, and the word
is legal; a is the address rounded down to 16, v the value register (R64, R230). -/
structure State.OnArrival (s : State) (sl : Slot) (w : Arrival) (a : Nat) (v : Word) : Prop where
  atag  : sl.imm = true ∨ s.cur.cc.gtag sl.sa = false
  vtag  : s.cur.cc.gtag (if sl.imm then sl.sa else sl.sb) = false
  value : v = s.cur.cc.greg (if sl.imm then sl.sa else sl.sb)
  addr  : a = (if sl.imm then sl.imm32.setWidth 64 else s.cur.cc.greg sl.sa).toNat / 16 * 16
  have_ : (if sl.imm then sl.imm32.setWidth 64 else s.cur.cc.greg sl.sa).toNat < 24576 * 256
  word  : s.cur.arrival a = .ok w

end Sys2Proof.Machine

/-- AARM with a target other than 0 completes: the arming enters path YP. AWAIT completes: once the word has reached the
generation nothing changes, otherwise a freeze request stands until it has (R64, R230). -/
def Obligations.ArrivalSlotsComplete : Prop :=
  ∀ (sl : Slot) (s : State) (w : Arrival) (a : Nat) (v : Word), s.OnArrival sl w a v →
    (s.SlotActs 0x40 sl → v.toNat % 2 ^ 40 ≠ 0 → ∃ t, exec (.aarm sl) s = .next t ∧
      s.Becomes t { s.cur with ord := s.ypWith (.aarm a (v.setWidth 40)) [] 0 }) ∧
    (s.SlotActs 0x41 sl → ∃ t, exec (.await sl) s = .next t ∧
      if (w.gen - v.setWidth 16).toNat < 2 ^ 15 then s.Becomes t s.cur
      else s.Requests t (.arrival s.curCell a (v.setWidth 16)))

/-- PHREG, PHDRG and PHARV complete: the registration returns through YQ, the deregistration and the arrival enter path YP, the
arrival behind every earlier write of the cell. PHWAIT completes: a phase that has passed changes nothing, any other raises a
freeze request. PHAW completes: it arrives and raises a freeze request at once (R139, R231, R232). -/
def Obligations.PhaserSlotsComplete : Prop :=
  ∀ (sl : Slot) (s : State),
    let n := sl.imm32.toNat % 256
    let asid := (s.gangOf s.curCell).asid
    let v := (s.cur.cc.greg sl.sa).setWidth 32
    let d := (s.phaser asid n).phase - v
    let arrived := s.ypWith (.pharv n) (s.covers s.curCell false 0x1F false true) 3
    (s.SlotActs 0x42 sl → s.cur.q.yq.length < 16 → ∃ t, exec (.phreg sl) s = .next t ∧
      s.Becomes t { s.cur with ord := s.ypWith (.phreg n) [] 4, q := s.yqWith }) ∧
    (s.SlotActs 0x43 sl → ∃ t, exec (.phdrg sl) s = .next t ∧ s.Becomes t { s.cur with ord := s.ypWith (.phdrg n) [] 3 }) ∧
    (s.SlotActs 0x44 sl → ∃ t, exec (.pharv sl) s = .next t ∧ s.Becomes t { s.cur with ord := arrived }) ∧
    (s.SlotActs 0x45 sl → s.cur.cc.gtag sl.sa = false → (s.phaser asid n).poisoned = false →
      ∃ t, exec (.phwait sl) s = .next t ∧
        if 1 ≤ d.toNat ∧ d.toNat < 2 ^ 31 then s.Becomes t s.cur else s.Requests t (.phase asid n v)) ∧
    (s.SlotActs 0x46 sl → ∃ t, exec (.phaw sl) s = .next t ∧
      { t with cells := s.cells, gangs := s.gangs, uid := s.uid, curEng := s.curEng } = s ∧
      t.cur = { s.cur with ord := arrived } ∧
      t.gangOf s.curCell = { s.gangOf s.curCell with
        reqs := (s.gangOf s.curCell).reqs ++ [⟨s.now + (s.gangOf s.curCell).dstall, .phaw s.curCell (s.uid + 1)⟩] })

namespace Sys2Proof.Machine

/-! ## Atomics and YQ -/

noncomputable def atomSlots : List ((Slot → Instr) × Nat × AtOp) := [
  (.atadd, 0x47, .add), (.atinc, 0x48, .inc), (.atbadd, 0x49, .badd), (.atcas, 0x4A, .cas), (.atswp, 0x4B, .swp),
  (.atmin, 0x4C, .min), (.atmax, 0x4D, .max), (.atand, 0x4E, .and), (.ator, 0x4F, .or), (.atxor, 0x50, .xor),
  (.atsnap, 0x51, .snap)]

end Sys2Proof.Machine

/-- The eleven atomics ATADD to ATSNAP complete: with their variable found they reserve a YQ entry and enter path YP with their
operands as read at issue; where the translation was not cached a freeze request stands until it is (R44, R57, R233, R234). -/
def Obligations.AtomicSlotsComplete : Prop :=
  ∀ e ∈ atomSlots, ∀ (sl : Slot) (s : State) (v : SyncVar) (hit : Bool), s.SlotActs e.2.1 sl →
    atomVar sl s = .ok (v, hit) → s.cur.q.yq.length < 16 →
    let r := s.cur.cc
    let tid := sl.imm32.extractLsb' 0 12
    let tag := r.gtag sl.sb || r.gtag sl.dst
    let op : YKind := .atom e.2.2 v (sl.sz = 1) (sl.imm32.getLsbD 12) (if r.gtag sl.sb then 0 else r.greg sl.sb)
      (if r.gtag sl.dst then 0 else r.greg sl.dst) tag tid (r.greg sl.sa)
    ∃ t, exec (e.1 sl) s = .next t ∧
      { t with cells := s.cells, gangs := s.gangs, uid := s.uid, curEng := s.curEng } = s ∧
      t.cur = { s.cur with
        ord := s.ypWith op [] 4
        q := s.yqWith
        flight := s.cur.flight ++ if tag then [⟨s.now + s.ccDiv, s.uid + 1, .cc, s.ccOff, .flags, 0, 0, 2⟩] else [] } ∧
      t.gangOf s.curCell = { s.gangOf s.curCell with
        reqs := (s.gangOf s.curCell).reqs ++ if hit then [] else
          [⟨s.now + (s.gangOf s.curCell).dstall, .translation s.curCell tid ((r.greg sl.sa).toNat / 65536) true⟩] }

/-- YPOP completes: the oldest YQ entry leaves YQ; an arrived value lands at +1, any other once the gang thaws. YCLM completes
where no count in use, and on member 0 no entry in use of the ring table, is poisoned: it reserves a YQ entry and enters its part of the claim round (R57, R235, R236). -/
def Obligations.ReturnSlotsComplete : Prop :=
  ∀ (sl : Slot) (s : State),
    (s.SlotActs 0x52 sl → ∀ e rest, s.cur.q.yq = e :: rest → e.arrived = true → ∃ t, exec (.ypop sl) s = .next t ∧
      s.Becomes t { s.cur with
        q := { s.cur.q with yq := rest, yRet := s.cur.q.yRet ++ [e] }
        flight := s.cur.flight ++
          [⟨s.now + s.ccDiv, s.uid, .cc, s.ccOff, .ypop sl.dst (Fin.ofNat 16 sl.imm32.toNat) e.uid, 0, 0, 0⟩] }) ∧
    (s.SlotActs 0x52 sl → ∀ e rest, s.cur.q.yq = e :: rest → e.arrived = false → ∃ t, exec (.ypop sl) s = .next t ∧
      t.cur = { s.cur with
        q := { s.cur.q with yq := rest, yRet := s.cur.q.yRet ++ [e] }
        flight := s.cur.flight ++ [⟨s.now + (s.gangOf s.curCell).dstall + s.ccDiv, s.uid, .cc, s.ccOff,
          .ypop sl.dst (Fin.ofNat 16 sl.imm32.toNat) e.uid, 0, 0, 0⟩] } ∧
      t.gangOf s.curCell = { s.gangOf s.curCell with
        reqs := (s.gangOf s.curCell).reqs ++ [⟨s.now + (s.gangOf s.curCell).dstall, .yq s.curCell⟩] }) ∧
    (s.SlotActs 0x53 sl → (∀ k < sl.imm32.toNat % 128, s.cur.cc.bTag[Fin.ofNat 4 sl.sa.val].getLsbD (k / 2) = false) →
      ((s.gangOf s.curCell).member s.curCell = 0 →
        ∀ k < sl.imm32.toNat % 128, s.cur.cc.bTag[Fin.ofNat 4 sl.sb.val].getLsbD (k / 2) = false) →
      s.cur.q.yq.length < 16 → ∃ t, exec (.yclm sl) s = .next t ∧
      s.Becomes t { s.cur with
        ord := s.ypWith (.yclm (sl.imm32.toNat % 128) (Fin.ofNat 4 sl.dst.val) s.cur.cc.b[Fin.ofNat 4 sl.sa.val]
          s.cur.cc.b[Fin.ofNat 4 sl.sb.val] true) [] 4
        q := s.yqWith })

namespace Sys2Proof.Machine

/-! ## Fences, time, divisors and descriptors -/

/-- FENCE completes: an AFT set that names SP, YP or NP leaves a hold over the accesses that BEF covers, and one that names CQ or
MP brings every covered timed access forward to five ticks from now; it changes no register, row or byte of memory (R132, R133). -/
def FenceCompletes : Prop :=
  ∀ (sl : Slot) (s : State), s.SlotActs 0x54 sl →
    let bef := sl.imm32.extractLsb' 0 5
    let aft := sl.imm32.extractLsb' 5 5
    let prot := sl.imm32.getLsbD 13
    let bare := (s.deltas.filter fun d => d.own && d.cell == s.curCell && pathIn bef d.path).map fun d => (⟨d.uid, false, true, bef⟩ : Cov)
    let cover := s.covers s.curCell true bef true true ++ if prot then bare else []
    ∃ t, exec (.fence sl) s = .next t ∧
      t.cur.ord.holds = s.cur.ord.holds ++ (if aft &&& 0x1C = 0 then [] else
        [⟨s.uid, s.now, bef, aft, sl.imm32.toNat / 1024 % 8, prot, cover⟩]) ∧
      (aft &&& 3 ≠ 0 → ∀ l ∈ t.cur.ord.loads, (∃ v ∈ cover, v.uid = l.uid) → l.by_ ≤ s.now + 5) ∧
      (aft &&& 3 ≠ 0 → ∀ w ∈ t.cur.ord.stores, (∃ v ∈ cover, v.uid = w.uid) → w.by_ ≤ s.now + 5) ∧
      (aft &&& 3 = 0 → t.cur.ord.loads = s.cur.ord.loads ∧ t.cur.ord.stores = s.cur.ord.stores) ∧
      { t.cur with ord := s.cur.ord } = s.cur ∧
      (∀ d, d ≠ s.curCell → t.cell d = s.cell d) ∧ (∀ a, t.byte a = s.byte a) ∧ t.gangs = s.gangs

/-- WAITT of an unpoisoned register completes: a freeze request stands until TIME reaches it. SETDIV completes where no record of
the engine straddles the switch: the divisor switches two ticks later (R177, R186, R237). -/
def TimeSlotsComplete : Prop :=
  ∀ (sl : Slot) (s : State),
    (s.SlotActs 0x57 sl → s.cur.cc.gtag sl.sa = false → ∃ t, exec (.waitt sl) s = .next t ∧
      s.Requests t (.time (s.cur.cc.greg sl.sa))) ∧
    (s.SlotActs 0x58 sl → s.straddles (engOf (sl.imm32.toNat % 4)) (s.now + 2) = false → ∃ t, exec (.setdiv sl) s = .next t ∧
      let sw : DivSwitch := ⟨s.now + 2, engOf (sl.imm32.toNat % 4), sl.imm32.toNat / 4 % 4 + 1⟩
      s.Becomes t { s.cur with sq := { s.cur.sq with switches := s.cur.sq.switches ++ [sw] } })

end Sys2Proof.Machine

/-- FENCE, WAITT and SETDIV complete (R132, R133, R177, R186, R237). -/
def Obligations.FenceTimeSlotsComplete : Prop := FenceCompletes ∧ TimeSlotsComplete

namespace Sys2Proof.Machine

/-- ICINV in ASID 0 completes: the gang's text caches are to be cleared Dstall ticks later, every other cell's before its next
fetch. TDRD completes: it reserves a YQ entry and enters path YP; TDWR completes: it enters path YP with the register's value,
a poisoned one as zero. A TDWR of word 4 completes in ASID 0 only (R239, R240). -/
def DescriptorSlotsComplete : Prop :=
  ∀ (sl : Slot) (s : State),
    let g := s.gidOf s.curCell
    let tid := BitVec.ofNat 12 ((s.cur.cc.greg sl.sa).toNat + sl.imm32.toNat)
    let w := sl.imm32.toNat / 4096 % 8
    let tag := s.cur.cc.gtag sl.dst
    (s.SlotActs 0x5C sl → (s.gangOf s.curCell).asid = 0 → ∃ t, exec (.icinv sl) s = .next t ∧
      { t with cells := s.cells, curEng := s.curEng } = s ∧
      ∀ d, t.cell d = { s.cell d with inval := (s.cell d).inval ++
        [if (s.cell d).gang = g && (s.cell d).busy then some (s.now + (s.gang g).dstall) else none] }) ∧
    (s.SlotActs 0x5D sl → s.cur.cc.gtag sl.sa = false → s.cur.q.yq.length < 16 → ∃ t, exec (.tdrd sl) s = .next t ∧
      s.Becomes t { s.cur with ord := s.ypWith (.tdrd tid w) [] 4, q := s.yqWith }) ∧
    (s.SlotActs 0x5E sl → s.cur.cc.gtag sl.sa = false → w ≠ 4 ∨ (s.gangOf s.curCell).asid = 0 →
      ∃ t, exec (.tdwr sl) s = .next t ∧
      s.Becomes t { s.cur with
        ord := s.ypWith (.tdwr tid w (if tag then 0 else s.cur.cc.greg sl.dst)) [] 3
        flight := s.cur.flight ++ if tag then [⟨s.now + s.ccDiv, s.uid + 1, .cc, s.ccOff, .flags, 0, 0, 2⟩] else [] })

/-- ICINV, and TDWR of word 4, in an ASID other than 0 take the privilege fault 0x06, whether or not their predicate holds, and
do nothing else (R215, R239, R240). -/
def PrivilegedSlotsFault : Prop :=
  ∀ (sl : Slot) (s : State), (s.gangOf s.curCell).asid ≠ 0 →
    (slotCheck 0x5C sl = none → ∃ t f, exec (.icinv sl) s = .next t ∧ s.TakesFault t .cc s.ccOff f ∧ f.cls = 6) ∧
    (slotCheck 0x5E sl = none → sl.imm32.toNat / 4096 % 8 = 4 →
      ∃ t f, exec (.tdwr sl) s = .next t ∧ s.TakesFault t .cc s.ccOff f ∧ f.cls = 6)

end Sys2Proof.Machine

/-- ICINV, TDRD and TDWR: where they complete, and where they take the privilege fault (R215, R239, R240). -/
def Obligations.DescriptorSlots : Prop := DescriptorSlotsComplete ∧ PrivilegedSlotsFault

namespace Sys2Proof.Machine

/-! ## Lane arithmetic of the vector engine -/

/-- A lane operation: its constructor, OP, latency, the value of a lane from the mode, MOD and the lanes a, b, c and the old
contents of its destination, the value of a poisoned lane, and whether MOD makes it merge into the old contents. -/
structure LaneOp where
  ctor : Rec → Instr
  lat  : Nat
  f    : FMode → BitVec 5 → Lane → Lane → Lane → Lane → Lane × FlagBits
  pv   : BitVec 5 → Lane → Lane
  mrg  : BitVec 5 → Bool := fun _ => false

def lane1 (ctor : Rec → Instr) (lat : Nat) (f : FMode → Lane → Lane × FlagBits) : LaneOp :=
  ⟨ctor, lat, fun md _ a _ _ _ => f md a, fun _ _ => 0x7FC00000, fun _ => false⟩
def lane2 (ctor : Rec → Instr) (lat : Nat) (f : FMode → Lane → Lane → Lane × FlagBits) : LaneOp :=
  ⟨ctor, lat, fun md _ a b _ _ => f md a b, fun _ _ => 0x7FC00000, fun _ => false⟩
def lane3 (ctor : Rec → Instr) (lat : Nat) (f : FMode → Lane → Lane → Lane → Lane × FlagBits) : LaneOp :=
  ⟨ctor, lat, fun md _ a b c _ => f md a b c, fun _ _ => 0x7FC00000, fun _ => false⟩
/-- Two BF16 elements of a lane, the low one first. -/
def halves (f : Nat → Nat × FlagBits) : Lane × FlagBits :=
  (BitVec.ofNat 16 (f 1).1 ++ BitVec.ofNat 16 (f 0).1, (f 0).2 ||| (f 1).2)
def half (a : Lane) (k : Nat) : Nat := (a.extractLsb' (16 * k) 16).toNat
def laneH (ctor : Rec → Instr) (lat : Nat) (f : FMode → Nat → Nat → Nat → Nat × FlagBits) : LaneOp :=
  ⟨ctor, lat, fun md _ a b c _ => halves fun k => f md (half a k) (half b k) (half c k), fun _ _ => 0x7FC07FC0, fun _ => false⟩
def laneI (ctor : Rec → Instr) (lat : Nat) (f : BitVec 5 → Lane → Lane → Lane → Lane) : LaneOp :=
  ⟨ctor, lat, fun _ m a b c _ => (f m a b c, 0), fun _ _ => 0, fun _ => false⟩

/-- The FP32 operations (R245, R246), on the exact operations and the one rounding of R101 to R118. -/
noncomputable def fpOps : List LaneOp := [
  lane2 .fadd 4 fAdd, lane2 .fsub 4 fSub, lane2 .fmul 5 fMul, lane3 .ffma 5 fFma, lane3 .ffms 5 fFms, lane3 .fnma 5 fNma,
  lane2 .fmin 4 (fMinMax false), lane2 .fmax 4 (fMinMax true),
  lane1 .fabs 4 fun _ a => (if isNaN32 a then 0x7FC00000 else a &&& 0x7FFFFFFF, 0),
  lane1 .fneg 4 fun _ a => (if isNaN32 a then 0x7FC00000 else a ^^^ 0x80000000, 0),
  lane2 .fcps 4 fun _ a b => (if isNaN32 a || isNaN32 b then 0x7FC00000 else (a &&& 0x7FFFFFFF) ||| (b &&& 0x80000000), 0),
  lane2 .fdiv 14 fDiv, lane1 .fsqrt 14 fSqrt, lane1 .frcp 10 fRcp, lane1 .frsq 10 fRsq,
  lane1 .fexp2 12 fun md a => laneOf (fExp2 md a.toNat), lane1 .flog2 12 fun md a => laneOf (fLog2 md a.toNat),
  lane1 .ftanh 12 fun md a => laneOf (fTanh md a.toNat), lane1 .ffloor 4 fFloor, lane1 .frint 4 fRint, lane2 .fscal 4 fScal,
  lane1 .ffrac 4 fFrac,
  ⟨.fcvtr, 4, fun md m a _ _ _ => fCvtr (if m.toNat % 4 = 0 then bf16 else if m.toNat % 4 = 1 then e4m3 else e5m2) md a,
    fun _ _ => 0x7FC00000, fun _ => false⟩,
  ⟨.qsc, 4, fun md m a _ _ _ => fQsc (if m.toNat % 4 = 0 then 448 else if m.toNat % 4 = 1 then 57344 else 127) md a,
    fun _ _ => 0x7FC00000, fun _ => false⟩]

/-- The BF16 pair operations (R248): the two elements of a lane independently. -/
noncomputable def bf16Ops : List LaneOp := [
  laneH .hadd 4 fun md a b _ => hAdd md a b, laneH .hmul 5 fun md a b _ => hMul md a b, laneH .hfma 5 hFma,
  laneH .hmax 4 fun md a b _ => hMinMax true md a b, laneH .hmin 4 fun md a b _ => hMinMax false md a b]

/-- Byte k of a lane. -/
def byteIn (a : Lane) (k : Nat) : BitVec 8 := a.extractLsb' (8 * k) 8
/-- Field q of 8 or 16 bits, with its sign or with zeros (R250). -/
def fieldIn (sgn : Bool) (m : BitVec 5) (a : Lane) : Lane :=
  let q := m.toNat / 2 % 4
  if m.getLsbD 0 then
    (if sgn then (a.extractLsb' (16 * q) 16).signExtend 32 else (a.extractLsb' (16 * q) 16).setWidth 32)
  else if sgn then (byteIn a q).signExtend 32 else (byteIn a q).setWidth 32
/-- The four bytes added and clamped; SAT where a byte is clamped (R250). -/
def bytesAdded (sgn : Bool) (a b : Lane) : Lane × FlagBits :=
  let clip (k : Nat) : Bool := if sgn then
      (byteIn a k).toInt + (byteIn b k).toInt < -128 || 127 < (byteIn a k).toInt + (byteIn b k).toInt
    else 255 < (byteIn a k).toNat + (byteIn b k).toNat
  let sum (k : Nat) : BitVec 8 :=
    if clip k then (if sgn then (if (byteIn a k).msb then 0x80 else 0x7F) else 0xFF) else byteIn a k + byteIn b k
  (sum 3 ++ sum 2 ++ sum 1 ++ sum 0, if clip 0 || clip 1 || clip 2 || clip 3 then flSAT else 0)

/-- The 32-bit integer operations (R249, R250). -/
noncomputable def intOps : List LaneOp := [
  laneI .iadd 4 fun _ a b _ => a + b, laneI .isub 4 fun _ a b _ => a - b, laneI .imul 5 fun _ a b _ => a * b,
  laneI .imulhs 5 fun _ a b _ => (a.signExtend 64 * b.signExtend 64).extractLsb' 32 32,
  laneI .imulhn 5 fun _ a b _ => (a.zeroExtend 64 * b.zeroExtend 64).extractLsb' 32 32,
  laneI .imins 4 fun _ a b _ => if b.slt a then b else a, laneI .imaxs 4 fun _ a b _ => if a.slt b then b else a,
  laneI .iminn 4 fun _ a b _ => if b.ult a then b else a, laneI .imaxn 4 fun _ a b _ => if a.ult b then b else a,
  laneI .iand 4 fun _ a b _ => a &&& b, laneI .ior 4 fun _ a b _ => a ||| b, laneI .ixor 4 fun _ a b _ => a ^^^ b,
  laneI .iandn 4 fun _ a b _ => a &&& ~~~b, laneI .ishl 4 fun _ a b _ => a <<< (b.toNat % 32),
  laneI .ishrl 4 fun _ a b _ => a >>> (b.toNat % 32), laneI .ishra 4 fun _ a b _ => a.sshiftRight (b.toNat % 32),
  laneI .iabs 4 fun _ a _ _ => if a.msb then -a else a, laneI .iclz 4 fun _ a _ _ => a.clz, laneI .ipopc 4 fun _ a _ _ => a.cpop,
  laneI .bitrev 4 fun _ a _ _ => a.reverse, laneI .imad 5 fun _ a b c => a * b + c,
  laneI .isxt 4 fun m a _ _ => fieldIn true m a, laneI .izxt 4 fun m a _ _ => fieldIn false m a,
  laneI .fcls 4 fun _ a _ _ => fCls a,
  ⟨.badds, 4, fun _ _ a b _ _ => bytesAdded true a b, fun _ _ => 0, fun _ => false⟩,
  ⟨.baddn, 4, fun _ _ a b _ _ => bytesAdded false a b, fun _ _ => 0, fun _ => false⟩]

/-- A value of w bits at field q of a lane: of zeros, or of the old contents (R252). -/
def placed (w q : Nat) (mrg : Bool) (old : Lane) (v : BitVec 32) : Lane :=
  let m : Lane := (BitVec.ofNat 32 (2 ^ w - 1)) <<< (w * q)
  ((if mrg then old else 0) &&& ~~~m) ||| ((v <<< (w * q)) &&& m)
/-- A narrowing conversion to w bits, at the position and with the merge bit that MOD gives. -/
def laneN (ctor : Rec → Instr) (w : Nat) (pos : BitVec 5 → Nat) (bit : Nat) (pv : BitVec 5 → Nat)
    (f : FMode → BitVec 5 → Lane → Nat × FlagBits) : LaneOp :=
  ⟨ctor, 4, fun md m a _ _ old => (placed w (pos m) (m.getLsbD bit) old (BitVec.ofNat 32 (f md m a).1), (f md m a).2),
    fun m old => placed w (pos m) (m.getLsbD bit) old (BitVec.ofNat 32 (pv m)), fun m => m.getLsbD bit⟩
def fmt8 (m : BitVec 5) : Fmt := if m.getLsbD 0 then e5m2 else e4m3

/-- The conversions (R108–R110, R251, R252). -/
noncomputable def convOps : List LaneOp := [
  ⟨.cvtfi, 4, fun md _ a _ _ _ => toInt32 true md a, fun _ _ => 0, fun _ => false⟩,
  ⟨.cvtfn, 4, fun md _ a _ _ _ => toInt32 false md a, fun _ _ => 0, fun _ => false⟩,
  lane1 .cvtif 4 (ofInt32 true), lane1 .cvtnf 4 (ofInt32 false),
  laneN .cvtfh 16 (fun m => m.toNat % 2) 1 (fun _ => 0x7FC0) fun md _ a => convert fp32 bf16 md a.toNat,
  ⟨.cvthf, 4, fun md m a _ _ _ => widen bf16 md.ftz (half a (m.toNat % 2)), fun _ _ => 0x7FC00000, fun _ => false⟩,
  laneN .cvtf8 8 (fun m => m.toNat / 2 % 4) 3 (fun m => if m.getLsbD 0 then 0x7E else 0x7F)
    fun md m a => convert fp32 (fmt8 m) md a.toNat,
  ⟨.cvt8f, 4, fun md m a _ _ _ => widen (fmt8 m) md.ftz (byteIn a (m.toNat / 2 % 4)).toNat, fun _ _ => 0x7FC00000,
    fun _ => false⟩,
  laneN .cvti8 8 (fun m => m.toNat / 2 % 4) 3 (fun _ => 0) fun md m a =>
    let lo : Int := if m.getLsbD 0 then 0 else -128
    let hi : Int := if m.getLsbD 0 then 255 else 127
    if md.sat && (a.toInt < lo || hi < a.toInt) then ((BitVec.ofInt 8 (if a.toInt < lo then lo else hi)).toNat, flSAT ||| flNX)
    else ((a.setWidth 8).toNat, 0),
  laneI .cvt8i 4 fun m a _ _ =>
    if m.getLsbD 0 then (byteIn a (m.toNat / 2 % 4)).setWidth 32 else (byteIn a (m.toNat / 2 % 4)).signExtend 32]

/-- The statement for a list of lane operations: at every expansion whose sources can be read and whose destination has room, the
record completes; each lane of the result is the operation on the lanes of the same number, with R121's poison and R242's
flags; the result lands after the operation's latency and nothing else changes. -/
def LanesComplete (ops : List LaneOp) : Prop :=
  ∀ e ∈ ops, ∀ (r : Rec) (s u : State) (off k : Nat) (mode : BitVec 4) (a b : VSrc),
    s.Expands (e.ctor r) .ve r off k mode u → u.Reads r.o1 (ixOf r.nest k) a → u.Reads r.o2 (ixOf r.nest k) b → u.Room r.o0 →
    let c := vThird r.o0 (ixOf r.nest k) u
    let old := vOld r.o0 (ixOf r.nest k) u
    let act := activeOf r.o0 u
    ∃ t v, exec (e.ctor r) s = .next t ∧ u.Puts t r off k e.lat act v ∧
      v.Lanes act (fun i => a.tags.getLsbD i || b.tags.getLsbD i || c.tags.getLsbD i || (e.mrg r.mod && old.tags.getLsbD i))
        (fun i => e.pv r.mod (lane old.row i))
        fun i => e.f (modeOf mode) r.mod (lane a.row i) (lane b.row i) (lane c.row i) (lane old.row i)

end Sys2Proof.Machine

/-- The lane operations complete: FADD to FCVTR and QSC, HADD to HMIN on both elements of a lane, IADD to BADDN and FCLS, and the
conversions CVTFI to CVT8I, the narrowing ones at their position in the lane (R108–R110, R245–R252, R254). -/
def Obligations.LaneOperationsComplete : Prop := LanesComplete (fpOps ++ bf16Ops ++ intOps ++ convOps)

namespace Sys2Proof.Machine

/-! ## Compares, moves and masks of the vector engine -/

/-- The compares: constructor, and truth and flags of a lane (R247, R249). -/
noncomputable def cmpOps : List ((Rec → Instr) × (FMode → Lane → Lane → Bool × FlagBits)) := [
  (.fcmpeq, fCmp .eq), (.fcmplt, fCmp .lt), (.fcmple, fCmp .le), (.fcmpun, fCmp .un),
  (.icmpeq, fun _ a b => (a == b, 0)), (.icmplts, fun _ a b => (a.slt b, 0)), (.icmpltn, fun _ a b => (a.ult b, 0))]

/-- FCMPEQ to FCMPUN and ICMPEQ to ICMPLTN complete: a lane that KS excludes, or that is poisoned, gives false; a K destination
takes one bit a lane, a V or SQ destination all ones or zero with the poison of the included lanes (R247, R249). -/
def ComparesComplete : Prop :=
  ∀ e ∈ cmpOps, ∀ (r : Rec) (s u : State) (off k : Nat) (mode : BitVec 4) (a b : VSrc),
    s.Expands (e.1 r) .ve r off k mode u → u.Reads r.o1 (ixOf r.nest k) a → u.Reads r.o2 (ixOf r.nest k) b →
    let ks := u.cur.ve.kmask (Fin.ofNat 8 (r.mod.toNat % 8))
    let tag (i : Nat) : Bool := ks.getLsbD i && (a.tags.getLsbD i || b.tags.getLsbD i)
    let c (i : Nat) : Bool × FlagBits := if ks.getLsbD i then e.2 (modeOf mode) (lane a.row i) (lane b.row i) else (false, 0)
    (∀ n st, r.o0 = .k n st → ∃ t m fl, exec (e.1 r) s = .next t ∧ (popHeads r u).PutsMask t r off k 4 m fl ∧
      (∀ i < 64, m.getLsbD i = ((c i).1 && !tag i)) ∧
      ∀ j < 6, fl.getLsbD j = true ↔ ∃ i < 64, tag i = false ∧ (c i).2.getLsbD j = true) ∧
    (r.o0.kind = 1 ∨ r.o0.kind = 3 → u.Room r.o0 → ∃ t v, exec (e.1 r) s = .next t ∧
      u.Puts t r off k 4 (activeOf r.o0 u) v ∧
      v.Lanes (activeOf r.o0 u) tag (fun _ => 0) fun i => (if (c i).1 then 0xFFFFFFFF else 0, (c i).2))

/-- A move of whole lanes: constructor, latency, and the lane and tag that lane i takes, from MOD, the sources, whether there is a
third one, and the included lanes. -/
structure MoveOp where
  ctor : Rec → Instr
  lat  : Nat
  src  : BitVec 5 → VSrc → VSrc → VSrc → Bool → BitVec 64 → Nat → Lane × Bool

def laneOfSrc (v : VSrc) (i : Nat) : Lane × Bool := (lane v.row i, v.tags.getLsbD i)
/-- The numbers of the included lanes below n. -/
def lanesBelow (m : BitVec 64) (n : Nat) : List Nat := (List.range n).filter fun i => m.getLsbD i

/-- The moves (R255–R258). -/
noncomputable def moveOps : List MoveOp := [
  ⟨.movv, 4, fun _ a _ _ _ _ i => laneOfSrc a i⟩,
  ⟨.vmovi, 4, fun m a _ _ _ _ i => (if m.getLsbD 0 then lane a.row i + BitVec.ofNat 32 i else lane a.row i, false)⟩,
  ⟨.vsel, 4, fun _ a b _ _ ks i => if ks.getLsbD i then laneOfSrc a i else laneOfSrc b i⟩,
  ⟨.perm, 3, fun _ a b c _ _ i =>
    let x := lane c.row i
    let y := if x.getLsbD 7 then (0, false) else if x.getLsbD 6 then laneOfSrc b (x.toNat % 64) else laneOfSrc a (x.toNat % 64)
    (y.1, y.2 || c.tags.getLsbD i)⟩,
  ⟨.rotm, 3, fun m a b c xen _ i =>
    let k := if xen then (lane c.row 0).toNat % 512 else 8 * m.toNat
    let both : BitVec 4096 := b.row ++ a.row
    let tags : BitVec 128 := b.tags ++ a.tags
    ((both.rotateRight (8 * k)).extractLsb' (32 * i) 32,
      (xen && c.tags.getLsbD 0) || tags.getLsbD ((4 * i + k) / 4 % 128) || (k % 4 != 0 && tags.getLsbD (((4 * i + k) / 4 + 1) % 128)))⟩,
  ⟨.bcln, 3, fun _ a b _ _ _ _ => laneOfSrc a ((lane b.row 0).toNat % 64)⟩,
  ⟨.comp, 3, fun _ a _ _ _ ks i => ((lanesBelow ks 64)[i]?.map (laneOfSrc a)).getD (0, false)⟩,
  ⟨.expd, 3, fun _ a _ _ _ ks i => if ks.getLsbD i then laneOfSrc a (lanesBelow ks i).length else (0, false)⟩,
  ⟨.lut16, 4, fun m a b _ _ _ i =>
    let y := laneOfSrc b ((lane a.row i) >>> (4 * (m.toNat % 8)) &&& 15).toNat
    (y.1, y.2 || a.tags.getLsbD i)⟩]

/-- Is there a third source? -/
def hasThird (o : Opnd) : Bool :=
  match o with
  | .v _ _ xen _ _ => xen
  | _ => false

end Sys2Proof.Machine

/-- MOVV to LUT16 complete: every active lane takes the lane that the operation names, bit for bit and with its tag (R255–R258). -/
def Obligations.LaneMovesComplete : Prop :=
  ∀ e ∈ moveOps, ∀ (r : Rec) (s u : State) (off k : Nat) (mode : BitVec 4) (a b : VSrc),
    s.Expands (e.ctor r) .ve r off k mode u → u.Reads r.o1 (ixOf r.nest k) a → u.Reads r.o2 (ixOf r.nest k) b → u.Room r.o0 →
    let ks := u.cur.ve.kmask (Fin.ofNat 8 (r.mod.toNat % 8))
    let src := e.src r.mod a b (vThird r.o0 (ixOf r.nest k) u) (hasThird r.o0) ks
    ∃ t v, exec (e.ctor r) s = .next t ∧ u.Puts t r off k e.lat (activeOf r.o0 u) v ∧ v.fl = 0 ∧
      ∀ i < 64, lane v.row i = (src i).1 ∧ v.tags.getLsbD i = (src i).2

namespace Sys2Proof.Machine

/-- The mask a K operand holds at an expansion; K0 reads all ones (R52). -/
def State.Mask (s : State) (o : Opnd) (x : Ix) (m : BitVec 64) : Prop :=
  match o with
  | .k n st => m = if stepNum 8 n.val st x = 0 then BitVec.allOnes 64 else s.cur.ve.k[stepNum 8 n.val st x]
  | _ => m = BitVec.allOnes 64

/-- KAND to KNOT, KFIRST and the mask form of KMOV (R259). -/
noncomputable def maskOps : List ((Rec → Instr) × (BitVec 64 → BitVec 64 → BitVec 64)) := [
  (.kand, fun a b => a &&& b), (.kor, fun a b => a ||| b), (.kxor, fun a b => a ^^^ b), (.knot, fun a _ => ~~~a),
  (.kfirst, fun a _ => a &&& -a)]

/-- The mask operations complete two cycles after issue, with no flag: KAND to KFIRST, KPOPC, the four forms of KMOV, and KMOV.HI,
which keeps the low half of its destination (R52, R259). -/
def MasksComplete : Prop :=
  ∀ (r : Rec) (s u : State) (off k : Nat) (mode : BitVec 4) (a b : BitVec 64),
    let x := ixOf r.nest k
    u.Mask r.o1 x a → u.Mask r.o2 x b →
    (∀ e ∈ maskOps, s.Expands (e.1 r) .ve r off k mode u → ∃ t, exec (e.1 r) s = .next t ∧ u.PutsMask t r off k 2 (e.2 a b) 0) ∧
    (s.Expands (.kpopc r) .ve r off k mode u → u.Room r.o0 → r.o2 = .absent → (∀ w p, r.o1 ≠ .lq w p) → (∀ w p, r.o1 ≠ .mq w p) →
      ∃ t v, exec (.kpopc r) s = .next t ∧ u.Puts t r off k 2 (activeOf r.o0 u) v ∧ v.tags = 0 ∧ v.fl = 0 ∧
        ∀ i < 64, lane v.row i = a.cpop.setWidth 32) ∧
    (s.Expands (.kmov r) .ve r off k mode u → ∀ n st, r.o0 = .k n st →
      (∀ m st', r.o1 = .k m st' → ∃ t, exec (.kmov r) s = .next t ∧ u.PutsMask t r off k 2 a 0) ∧
      (∀ w, r.o1 = .imm w → ∃ t, exec (.kmov r) s = .next t ∧ u.PutsMask t r off k 2 (w.setWidth 64) 0) ∧
      ∀ m km xen xn st', r.o1 = .v m km xen xn st' → ∀ v, u.Reads r.o1 x v → ∃ t z, exec (.kmov r) s = .next t ∧
        u.PutsMask t r off k 2 z 0 ∧ ∀ i < 64, z.getLsbD i = (!v.tags.getLsbD i && lane v.row i != 0)) ∧
    (s.Expands (.kmov r) .ve r off k mode u → ∀ m st', r.o0.kind = 1 ∨ r.o0.kind = 3 → u.Room r.o0 → r.o1 = .k m st' → r.o2 = .absent →
      ∃ t v, exec (.kmov r) s = .next t ∧ u.Puts t r off k 2 (activeOf r.o0 u) v ∧ v.tags = 0 ∧ v.fl = 0 ∧
        ∀ i < 64, lane v.row i = if a.getLsbD i then 0xFFFFFFFF else 0) ∧
    (s.Expands (.kmovHi r) .ve r off k mode u → ∀ w d, r.o1 = .imm w → u.Mask r.o0 x d →
      ∃ t, exec (.kmovHi r) s = .next t ∧ u.PutsMask t r off k 2 (w ++ d.setWidth 32) 0)

end Sys2Proof.Machine

/-- The compares and the mask operations complete (R52, R247, R249, R259). -/
def Obligations.CompareMaskComplete : Prop := ComparesComplete ∧ MasksComplete

namespace Sys2Proof.Machine

/-! ## Reductions, scans and routing helpers -/

/-- The result is one value in every lane, poisoned when an included lane is (R242, R260). -/
def VRes.Same (v : VRes) (bad : Bool) (x : Lane) (fl : FlagBits) : Prop :=
  v.tags = (if bad then BitVec.allOnes 64 else 0) ∧ v.fl = (if bad then 0 else fl) ∧ ∀ i < 64, lane v.row i = x

/-- An order on lanes, as one integer a lane: FMAX order, or signed (R103, R260). -/
def orderOf (int : Bool) (a : Lane) : Int := if int then a.toInt else ordKey a
/-- An included lane may be selected: in FMAX order no NaN is (R103). -/
def Selectable (int : Bool) (md : FMode) (v : Row) (ks : BitVec 64) (i : Nat) : Prop :=
  i < 64 ∧ ks.getLsbD i = true ∧ (int = false → isNaN32 (flush32 md (lane v i)) = false)
/-- Lane i is the first of the largest selectable lanes (of the smallest, with neg). -/
def Best (neg int : Bool) (md : FMode) (v : Row) (ks : BitVec 64) (i : Nat) : Prop :=
  let key (j : Nat) : Int := let x := orderOf int (if int then lane v j else flush32 md (lane v j)); if neg then -x else x
  Selectable int md v ks i ∧ ∀ j, Selectable int md v ks j → key j ≤ key i ∧ (key j = key i → i ≤ j)
/-- IV of an ordering reduction: some included lane holds a signalling NaN. -/
def signals (int : Bool) (v : Row) (ks : BitVec 64) : FlagBits :=
  if !int && (List.range 64).any fun i => ks.getLsbD i && isSNaN32 (lane v i) then flIV else 0

end Sys2Proof.Machine

/-- RMAX, RMIN, RARGMX and QMAX complete: they select the first largest (smallest) included lane, NaNs passed over, or the value
R253 and R260 give where there is none; IV only for a signalling NaN; poison where an included lane is poisoned. -/
def Obligations.OrderReductionsComplete : Prop :=
  ∀ (r : Rec) (s u : State) (off k : Nat) (mode : BitVec 4) (a : VSrc), u.Reads r.o1 (ixOf r.nest k) a → u.Room r.o0 → r.o2 = .absent →
    let md := modeOf mode
    let int := r.mod.getLsbD 3
    let ks := u.cur.ve.kmask (Fin.ofNat 8 (r.mod.toNat % 8))
    let bad := a.tags &&& ks != 0
    let act := activeOf r.o0 u
    let fl (f : FlagBits) : FlagBits := if act = 0 then 0 else f
    let shown (i : Nat) : Lane := if int then lane a.row i else flush32 md (lane a.row i)
    let extreme (i : Instr) (neg : Bool) (none_ : Lane) : Prop := s.Expands i .ve r off k mode u →
      ∃ t v x, exec i s = .next t ∧ u.Puts t r off k 8 act v ∧ v.Same bad x (fl (signals int a.row ks)) ∧
        (bad = true → x = if int then 0 else 0x7FC00000) ∧
        (bad = false → (∀ j, Best neg int md a.row ks j → x = shown j) ∧
          ((∀ j, ¬ Selectable int md a.row ks j) →
            x = if int = false ∧ ks ≠ 0 then 0x7FC00000 else none_))
    extreme (.rmax r) false (if int then 0x80000000 else 0xFF800000) ∧
    extreme (.rmin r) true (if int then 0x7FFFFFFF else 0x7F800000) ∧
    (s.Expands (.rargmx r) .ve r off k mode u → ∃ t v x, exec (.rargmx r) s = .next t ∧ u.Puts t r off k 8 act v ∧
      v.Same bad x (fl (signals int a.row ks)) ∧ (bad = true → x = 0) ∧
      (bad = false → (∀ j, Best false int md a.row ks j → x = BitVec.ofNat 32 j) ∧
        ((∀ j, ¬ Selectable int md a.row ks j) → x = 64))) ∧
    (s.Expands (.qmax r) .ve r off k mode u → ∃ t v x, exec (.qmax r) s = .next t ∧ u.Puts t r off k 8 act v ∧
      let mag := mkRow fun i => lane a.row i &&& 0x7FFFFFFF
      v.Same bad x (fl (signals false mag ks)) ∧ (bad = true → x = 0x7FC00000) ∧
      (bad = false → (∀ j, Best false false md mag ks j → x = flush32 md (lane mag j)) ∧
        ((∀ j, ¬ Selectable false md mag ks j) → x = if ks = 0 then 0 else 0x7FC00000)))

namespace Sys2Proof.Machine

/-- One level of the sum tree: adjacent pairs, with their flags. -/
def level (md : FMode) (x : Nat → Lane × FlagBits) (i : Nat) : Lane × FlagBits :=
  let y := fAdd md (x (2 * i)).1 (x (2 * i + 1)).1
  (y.1, y.2 ||| (x (2 * i)).2 ||| (x (2 * i + 1)).2)

/-- A scan's running state before lane i: its value, whether a lane so far was poisoned, the flags (R261). -/
def running (f : Lane → Lane → Lane × FlagBits) (ks tags : BitVec 64) (v : Row) (init : Lane) : Nat → Lane × Bool × FlagBits
  | 0 => (init, false, 0)
  | i + 1 =>
    let y := running f ks tags v init i
    if ks.getLsbD i then
      (if y.2.1 || tags.getLsbD i then (y.1, true, y.2.2) else ((f y.1 (lane v i)).1, false, y.2.2 ||| (f y.1 (lane v i)).2))
    else y

end Sys2Proof.Machine

/-- RSUM, SCANA, SCANM, HISTB and TOPKV complete: the tree of six levels with −0 in excluded lanes, or the wrapping sum; the
running sum or maximum in lane order; the count of each bin added to a third source; and the k best lanes with their numbers
(R260–R263). -/
def Obligations.SumsScansComplete : Prop :=
  ∀ (r : Rec) (s u : State) (off k : Nat) (mode : BitVec 4) (a : VSrc), u.Reads r.o1 (ixOf r.nest k) a → u.Room r.o0 →
    (∀ w p, r.o2 ≠ .lq w p) → (∀ w p, r.o2 ≠ .mq w p) →
    let md := modeOf mode
    let int := r.mod.getLsbD 3
    let ks := u.cur.ve.kmask (Fin.ofNat 8 (r.mod.toNat % 8))
    let act := activeOf r.o0 u
    let fl (f : FlagBits) : FlagBits := if act = 0 then 0 else f
    let leaf (i : Nat) : Lane × FlagBits := (if ks.getLsbD i then lane a.row i else 0x80000000, 0)
    let tree := level md (level md (level md (level md (level md (level md leaf))))) 0
    let scan (i : Instr) (f : Lane → Lane → Lane × FlagBits) (init : Lane) : Prop := s.Expands i .ve r off k mode u →
      ∃ t v, exec i s = .next t ∧ u.Puts t r off k 8 act v ∧ v.fl = fl (running f ks a.tags a.row init 64).2.2 ∧
        ∀ i < 64, let y := running f ks a.tags a.row init (i + 1)
          v.tags.getLsbD i = y.2.1 ∧ lane v.row i = if y.2.1 then (if int then 0 else 0x7FC00000) else y.1
    (s.Expands (.rsum r) .ve r off k mode u → ∃ t v, exec (.rsum r) s = .next t ∧ u.Puts t r off k 8 act v ∧
      let bad := a.tags &&& ks != 0
      v.Same bad (if bad then (if int then 0 else 0x7FC00000)
        else if int then (lanesBelow ks 64).foldl (fun x i => x + lane a.row i) 0 else tree.1) (if int then 0 else fl tree.2)) ∧
    scan (.scana r) (if int then fun x y => (x + y, 0) else fAdd md) (if int then 0 else 0x80000000) ∧
    scan (.scanm r) (if int then fun x y => (if x.slt y then y else x, 0) else fMinMax true md)
      (if int then 0x80000000 else 0xFF800000) ∧
    (s.Expands (.histb r) .ve r off k mode u → ∃ t v, exec (.histb r) s = .next t ∧ u.Puts t r off k 8 act v ∧ v.fl = 0 ∧
      let c := vThird r.o0 (ixOf r.nest k) u
      let bad := a.tags &&& ks != 0
      ∀ i < 64, v.tags.getLsbD i = (bad || c.tags.getLsbD i) ∧
        lane v.row i = if bad || c.tags.getLsbD i then 0 else
          lane c.row i + BitVec.ofNat 32 ((lanesBelow ks 64).countP fun j => (lane a.row j).toNat = i)) ∧
    (s.Expands (.topkv r) .ve r off k mode u → ∀ kb, u.Mask r.o2 (ixOf r.nest k) kb → ∃ t v, exec (.topkv r) s = .next t ∧
      u.Puts t r off k 12 act v ∧
      let n := r.mod.toNat % 8 + 1
      if a.tags &&& kb != 0 then v.tags = BitVec.allOnes 64 ∧ v.fl = 0 ∧
        ∀ i < 64, lane v.row i = if i < n ∧ int = false then 0x7FC00000 else 0
      else v.tags = 0 ∧ v.fl = fl (signals int a.row kb) ∧
        (∀ i < n, ∀ j, Best false int md a.row (kb &&& ~~~mkTags 64 fun q => (List.range i).any fun p =>
            lane v.row (8 + p) == BitVec.ofNat 32 q) j →
          lane v.row (8 + i) = BitVec.ofNat 32 j ∧ lane v.row i = if int then lane a.row j else flush32 md (lane a.row j)) ∧
        (∀ i < n, (∀ j, ¬ Best false int md a.row (kb &&& ~~~mkTags 64 fun q => (List.range i).any fun p =>
            lane v.row (8 + p) == BitVec.ofNat 32 q) j) →
          lane v.row (8 + i) = 0xFFFFFFFF ∧ lane v.row i = if int then 0x80000000 else 0xFF800000) ∧
        ∀ i < 64, n ≤ i → (i < 8 ∨ 8 + n ≤ i) → lane v.row i = 0)

namespace Sys2Proof.Machine

/-! ## Tiles, mode, flags and parking -/

/-- A tile operand is usable at an expansion: the tile is configured, and its row or column i lies in its shape (R54, R55). -/
def State.OnTile (s : State) (o : Opnd) (x : Ix) (n : Fin 4) (i : Nat) : Prop :=
  s.cur.ve.z[n].shape.getLsbD 9 = true ∧
  ((∃ b st, o = .zrow n b st ∧ i = (stepped b.toNat st x).toNat ∧ i ≤ s.cur.ve.z[n].shape.toNat % 16) ∨
   (∃ b st, o = .zcol n b st ∧ i = (stepped b.toNat st x).toNat ∧ i ≤ s.cur.ve.z[n].shape.toNat / 16 % 16))

/-- Element (i, j) of a tile: word i of bank (i + j) mod 16, of 32 or, with ESZ, 16 bits; zero beyond the shape (R54). -/
def tileValue (z : Tile) (i j : Nat) : Lane :=
  if i ≤ z.shape.toNat % 16 ∧ j ≤ z.shape.toNat / 16 % 16 then
    (if z.shape.getLsbD 8 then (z.body.extractLsb' ((i + j) % 16 * 512 + i * 16) 16).setWidth 32
      else z.body.extractLsb' ((i + j) % 16 * 512 + i * 32) 32)
  else 0
def tilePoison (z : Tile) (i j : Nat) : Bool :=
  decide (i ≤ z.shape.toNat % 16 ∧ j ≤ z.shape.toNat / 16 % 16) && z.tags.getLsbD (16 * i + j)

end Sys2Proof.Machine

/-- The tile records complete: TCFG, TWRR, TWRC, TZERO and TREL land their change of a configured tile three cycles later; TRDR
reads a row, two 16-bit elements a lane under ESZ, TRDC a column, and TRDS the shape (R54, R55, R264, R265). -/
def Obligations.TilesComplete : Prop :=
  ∀ (r : Rec) (s u : State) (off k : Nat) (mode : BitVec 4) (n : Fin 4) (i : Nat),
    let x := ixOf r.nest k
    let due := u.now + 3 * u.div
    let z := u.cur.ve.z[n]
    (s.Expands (.tcfg r) .ve r off k mode u → ∀ b st w, r.o0 = .zrow n b st → r.o1 = .imm w →
      ∃ t, exec (.tcfg r) s = .next t ∧ u.Lands t due off .ve (.tcfg n (w.setWidth 9)) 0 0 0) ∧
    (u.OnTile r.o0 x n i → ∀ a, u.Reads r.o1 x a → r.o2 = .absent →
      (s.Expands (.twrr r) .ve r off k mode u → (∃ b st, r.o0 = .zrow n b st) →
        ∃ t, exec (.twrr r) s = .next t ∧ (popHeads r u).Lands t due off .ve (.tileRow n i a.row a.tags) 0 0 0) ∧
      (s.Expands (.twrc r) .ve r off k mode u → (∃ b st, r.o0 = .zcol n b st) →
        ∃ t, exec (.twrc r) s = .next t ∧ (popHeads r u).Lands t due off .ve (.tileCol n i a.row a.tags) 0 0 0)) ∧
    (z.shape.getLsbD 9 = true → (∃ b st, r.o0 = .zrow n b st) →
      (s.Expands (.tzero r) .ve r off k mode u → ∃ t, exec (.tzero r) s = .next t ∧ u.Lands t due off .ve (.tzero n) 0 0 0) ∧
      (s.Expands (.trel r) .ve r off k mode u → ∃ t, exec (.trel r) s = .next t ∧ u.Lands t due off .ve (.trel n) 0 0 0)) ∧
    (u.OnTile r.o1 x n i → u.Room r.o0 → r.o2 = .absent →
      (s.Expands (.trdr r) .ve r off k mode u → (∃ b st, r.o1 = .zrow n b st) → ∃ t v, exec (.trdr r) s = .next t ∧
        u.Puts t r off k 3 (activeOf r.o0 u) v ∧ v.fl = 0 ∧ ∀ j < 64,
          if z.shape.getLsbD 8 then
            lane v.row j = (if j < 8 then tileValue z i (2 * j) ||| (tileValue z i (2 * j + 1) <<< 16) else 0) ∧
            v.tags.getLsbD j = (decide (j < 8) && (tilePoison z i (2 * j) || tilePoison z i (2 * j + 1)))
          else lane v.row j = tileValue z i j ∧ v.tags.getLsbD j = tilePoison z i j) ∧
      (s.Expands (.trdc r) .ve r off k mode u → (∃ b st, r.o1 = .zcol n b st) → ∃ t v, exec (.trdc r) s = .next t ∧
        u.Puts t r off k 3 (activeOf r.o0 u) v ∧ v.fl = 0 ∧ ∀ j < 64,
          lane v.row j = tileValue z j i ∧ v.tags.getLsbD j = tilePoison z j i)) ∧
    (s.Expands (.trds r) .ve r off k mode u → z.shape.getLsbD 9 = true → (∃ b st, r.o1 = .zrow n b st) → u.Room r.o0 →
      r.o2 = .absent → ∃ t v, exec (.trds r) s = .next t ∧ u.Puts t r off k 3 (activeOf r.o0 u) v ∧ v.fl = 0 ∧ v.tags = 0 ∧
        ∀ j < 64, lane v.row j = z.shape.setWidth 32)

/-- VNOP changes nothing. VMODE changes the mode. VFLG gives the flags in every active lane four cycles later, VFLG.C also clears
those of its mask at issue, and so does VCLRF all of them. VSPL parks a register in the slot at the tail of the free list, VFIL
reads a parked one, zeros where none is parked (R70, R244, R266–R268, R330). -/
def Obligations.VectorStateComplete : Prop :=
  ∀ (r : Rec) (s u : State) (off k : Nat) (mode : BitVec 4),
    let x := ixOf r.nest k
    let act := activeOf r.o0 u
    (s.Expands (.vnop r) .ve r off k mode u → exec (.vnop r) s = .next u) ∧
    (s.Expands (.vmode r) .ve r off k mode u → ∀ w, r.o1 = .imm w → ∃ t, exec (.vmode r) s = .next t ∧
      u.Becomes t { u.cur with ve := { u.cur.ve with mode := w.setWidth 4 } }) ∧
    (s.Expands (.vflg r) .ve r off k mode u → u.Room r.o0 → r.o1 = .absent → r.o2 = .absent → ∃ t v, exec (.vflg r) s = .next t ∧
      u.Puts t r off k 4 act v ∧ v.fl = 0 ∧ v.tags = 0 ∧ ∀ i < 64, lane v.row i = u.cur.ve.flags.setWidth 32) ∧
    (s.Expands (.vflgC r) .ve r off k mode u → ∀ w, r.o1 = .imm w → r.o2 = .absent → u.Room r.o0 →
      ∃ t t' v, exec (.vflgC r) s = .next t ∧ u.Puts t' r off k 4 act v ∧ v.fl = 0 ∧ v.tags = 0 ∧
        (∀ i < 64, lane v.row i = u.cur.ve.flags.setWidth 32) ∧
        t'.Becomes t { t'.cur with ve := { t'.cur.ve with flags := t'.cur.ve.flags &&& ~~~(w.setWidth 6) } }) ∧
    (s.Expands (.vclrf r) .ve r off k mode u → ∃ t, exec (.vclrf r) s = .next t ∧
      u.Becomes t { u.cur with ve := { u.cur.ve with flags := 0 } }) ∧
    (s.Expands (.vspl r) .ve r off k mode u → ∀ a p st slot, u.Reads r.o1 x a → r.o0 = .park p st →
      u.cur.cr.free.getLast? = some slot → ∃ t, exec (.vspl r) s = .next t ∧
      u.Lands t (u.now + 3 * u.div) off .ve (.park (stepped p.toNat st x).toNat slot a.row a.tags) 0 0 0) ∧
    (s.Expands (.vfil r) .ve r off k mode u → ∀ p st, r.o1 = .park p st → r.o2 = .absent → u.Room r.o0 →
      let q := (stepped p.toNat st x).toNat
      (∀ e ∈ u.cur.cr.parked, e.1 = q → ∃ slot, e.2 = .slot slot) → ∃ t v, exec (.vfil r) s = .next t ∧
        u.Puts t r off k 3 act v ∧ v.fl = 0 ∧
        ((∀ e ∈ u.cur.cr.parked, e.1 ≠ q) → v.tags = 0 ∧ ∀ i < 64, lane v.row i = 0) ∧
        ∀ slot, u.cur.cr.parked.find? (fun e => e.1 = q) = some (q, .slot slot) → ∀ i < 64,
          lane v.row i = slotLane (u.cur.cr.rowAt slot i) q ∧ v.tags.getLsbD i = (u.cur.cr.tagsAt slot i).getLsbD q)

namespace Sys2Proof.Machine

/-! ## Records of the control core -/

end Sys2Proof.Machine

/-- NOPR changes nothing beyond its issue. PHAS puts its legal band in force from the next tick. FORK starts the engines it
enables at their offsets, RDV stops the engines it names at the end of its tick (R30, R31, R178, R219). -/
def Obligations.ControlRecordsComplete : Prop :=
  ∀ (s : State) (off : Nat),
    (∀ stamp, s.CcIssues stamp.toNat off →
      exec (.nopr stamp) s = .next (s.ccBegun (.nopr stamp) off stamp.toNat)) ∧
    (∀ r : PhasRec, s.CcIssues r.stamp.toNat off → bandBad r.fmin.toNat r.fmax.toNat = none →
      let u := s.ccBegun (.phas r) off r.stamp.toNat
      ∃ t, exec (.phas r) s = .next t ∧ u.Lands t (u.now + 1) off .cc (.band r.fmin r.fmax) 0 0 0) ∧
    (∀ (r : ForkRec) last stamp, s.CcIssues r.stamp.toNat off →
      let u := s.ccBegun (.fork r) off r.stamp.toNat
      forkField r = none → u.segeOf u.curCell = some (last, stamp) →
      (∀ e o, forkOffset r e = some o → off ≤ o ∧ o ≤ last ∧ (u.cur.engine e).pc = none) →
      ∃ t, exec (.fork r) s = .next t ∧ u.OneCell t s.curCell ∧ { t.cur with sq := { t.cur.sq with eng := u.cur.sq.eng } } = u.cur ∧
        ∀ e, t.cur.engine e = match forkOffset r e with
          | some o => { u.cur.engine e with
              pc := some o, exp := none, forked := some u.now, forkOff := some off, stop := false }
          | none => u.cur.engine e) ∧
    (∀ r : RdvRec, s.CcIssues r.stamp.toNat off → r.jen ≠ 0 →
      let u := s.ccBegun (.rdv r) off r.stamp.toNat
      let named (e : Eng) : Bool := match e with
        | .cc => false
        | .ve => r.jen.getLsbD 0
        | .me => r.jen.getLsbD 1
        | .se => r.jen.getLsbD 2
      (∀ e, named e = true → (u.cur.engine e).pc.isSome = true) →
      ∃ t, exec (.rdv r) s = .next t ∧ u.OneCell t s.curCell ∧ { t.cur with sq := { t.cur.sq with eng := u.cur.sq.eng } } = u.cur ∧
        ∀ e, t.cur.engine e =
          if named e then { u.cur.engine e with rdvOff := some off, forkOff := none, stop := true } else u.cur.engine e)

namespace Sys2Proof.Machine

/-- The segment's signature once a SEGE has issued: its entry and those of its tick are folded in, and the sum is inverted (R35). -/
def closingSig (r : SegeRec) (s : State) : BitVec 32 :=
  (sigFold s.cur.sq.sig (sigPut 0 (sigEntry (.sege r) r.stamp.toNat) s.cur.sq.sigPend)) ^^^ 0xFFFFFFFF

end Sys2Proof.Machine

/-- A legal SEGE whose LEN and SIG are those of its segment completes: with successors, every running engine enters the one that
its decision register or default names at the next tick; without, and with no other engine running, the cell's sequencers end and the
gang's task ends; a divergence token is sent either way, and the monitors count the segment (R32–R36, R40, R42, R194). -/
def Obligations.SegeCompletes : Prop :=
  ∀ (r : SegeRec) (s : State) (off : Nat), (s.cur.engine .cc).pc = some off → s.cur.sq.start + r.stamp.toNat ≤ s.now →
    segeBad r (s.gangOf s.curCell).tlen = none → (s.onEngine .cc).missCause off r.stamp.toNat 1 1 = none →
    r.len.toNat = s.now - s.cur.sq.start + 1 → r.sig = closingSig r (s.onEngine .cc) →
    let g := s.gidOf s.curCell
    let v := if r.dsel = 0 then r.dflt.toNat else (s.cur.cc.d[Fin.ofNat 4 (r.dsel.toNat - 1)]).toNat
    let entry := r.succ.toNat / 2 ^ (32 * v) % 2 ^ 32
    let counted := (s.sampleSege r).monitors
    (r.nsucc ≠ 0 → v < r.nsucc.toNat → ∃ t, exec (.sege r) s = .next t ∧
      { t with cells := s.cells, gangs := s.gangs, curEng := s.curEng, monitors := s.monitors } = s ∧ t.monitors = counted ∧
      (∀ d, d ≠ s.curCell → t.cell d = s.cell d) ∧ (∀ h, h ≠ g → t.gang h = s.gang h) ∧
      t.gang g = { s.gang g with tokens := (s.gang g).tokens ++ [⟨s.now, s.curCell, r.segid, v, off, entry, s.uid⟩] } ∧
      { t.cur with sq := s.cur.sq, cc := s.cur.cc } = s.cur ∧ t.cur.cc = { s.cur.cc with timeh := none } ∧
      t.cur.sq.segOff = entry ∧ t.cur.sq.start = s.now + 1 ∧ t.cur.sq.sig = 0xFFFFFFFF ∧ t.cur.sq.sigPend = [] ∧
      t.cur.sq.slip = s.cur.cc.slipw ∧
      ∀ e, (t.cur.engine e).pc = (s.cur.engine e).pc.map fun _ => entry) ∧
    (r.nsucc = 0 → (∀ e, e ≠ .cc → (s.cur.engine e).pc = none) → ∃ t, exec (.sege r) s = .next t ∧
      { t with cells := s.cells, gangs := s.gangs, curEng := s.curEng, monitors := s.monitors } = s ∧ t.monitors = counted ∧
      (∀ d, d ≠ s.curCell → t.cell d = s.cell d) ∧ (∀ h, h ≠ g → t.gang h = s.gang h) ∧
      t.gang g = { s.gang g with
        status := .ending, tokens := (s.gang g).tokens ++ [⟨s.now, s.curCell, r.segid, 0, off, 0, s.uid⟩] } ∧
      { t.cur with sq := s.cur.sq } = s.cur ∧ ∀ e, (t.cur.engine e).pc = none)

/-- BRK completes: ahead of its stamp it raises one debug stop on its gang; at its stamp the record that it displaced takes its
turn (R43, R218). -/
def Obligations.BrkCompletes : Prop :=
  ∀ (r : BrkRec) (s : State) (o : Nat) (w : RecordBits), s.cur.sq.brk[r.idx] = some (o, w) →
    let g := s.gangOf s.curCell
    stampOf g.encgen w.toNat = r.stamp.toNat →
    let q : Req := ⟨max (s.cur.sq.start + max r.stamp.toNat g.dstall) (s.now + g.dstall), .debug⟩
    (s.cur.sq.brkDone.getLsbD r.idx.val = false → s.cur.sq.start + max r.stamp.toNat g.dstall ≤ s.now + g.dstall →
      ∃ t, exec (.brk r) s = .next t ∧ { t with cells := s.cells, gangs := s.gangs } = s ∧
        (∀ d, d ≠ s.curCell → t.cell d = s.cell d) ∧ (∀ h, h ≠ s.gidOf s.curCell → t.gang h = s.gang h) ∧
        t.gangOf s.curCell = { g with reqs := if g.reqs.contains q then g.reqs else g.reqs ++ [q] } ∧
        t.cur = { s.cur with sq := { s.cur.sq with brkDone := s.cur.sq.brkDone ||| BitVec.ofNat 8 (2 ^ r.idx.val) } }) ∧
    (s.cur.sq.brkDone.getLsbD r.idx.val = true → s.waits r.stamp.toNat = false → ∀ i, decode g.encgen w.toNat = .ok i →
      exec (.brk r) s = .next { s with turn := .event i })

namespace Sys2Proof.Machine

/-- The slots of a bundle take effect one after another on the state, each with its own number. -/
def SlotsRun (off : Nat) : List (Nat × Nat × Slot) → State → State → Prop
  | [], s, t => t = s
  | (k, op8, sl) :: l, s, t => ∃ m u, slotSems[op8]? = some m ∧ m.run ⟨off, 0, k, 0⟩ sl s = .ok u ∧ SlotsRun off l u t

/-- BNDL completes: its slots take effect in their order, MARK and FENCE last, each as it would alone (R202, R203, R215). -/
def BundleCompletes : Prop :=
  ∀ (b : Bundle) (l : List (Nat × Slot)) (s t : State) (off : Nat), s.CcIssues b.stamp.toNat off → evalPred s.cur.cc b.pred = true →
    decodeBundle b = .ok l → bundleRule (s.onEngine .cc) (numbered 0 l) = none →
    SlotsRun off (slotOrder (numbered 0 l)) (s.ccBegun (.bndl b) off b.stamp.toNat) t → exec (.bndl b) s = .next t

/-- The result of an integer slot in flight, from the registers as they stand. -/
def IntSlot.landing (e : IntSlot) (sl : Slot) (off n : Nat) (s : State) : Landing :=
  let r := s.cur.cc
  let w := szBits sl.sz
  let b : BitVec w := (srcB sl r).setWidth w
  let v := e.f w ((r.greg sl.sa).setWidth w) b ((r.greg sl.dst).setWidth w)
  let tag := r.gtag sl.sa || (e.useB && srcBTag sl r) || (e.useD && r.gtag sl.dst)
  ⟨s.now + e.lat * s.ccDiv, s.uid + n, .cc, off, .g sl.dst (if tag then 0 else if e.sgn then v.signExtend 64 else v.setWidth 64) tag,
    0, 0, if tag then 2 else if e.idz && b = 0 then 1 else 0⟩

/-- The slots of a bundle work in parallel: a bundle of integer and NOP slots computes every result from the registers as they stand at
issue, and the results go into flight in slot order (R203, R220). -/
def BundleReadsAtIssue : Prop :=
  ∀ (b : Bundle) (d : List (Nat × Slot)) (l : List (IntSlot × Slot)) (s : State) (off : Nat), s.CcIssues b.stamp.toNat off →
    evalPred s.cur.cc b.pred = true → (∀ e ∈ l, e.1 ∈ intSlots ∧ evalPred s.cur.cc e.2.spred = true) →
    decodeBundle b = .ok d → d.filter (fun e => e.1 ≠ 0) = l.map (fun e => (e.1.op8, e.2)) →
    let u := s.ccBegun (.bndl b) off b.stamp.toNat
    ∃ t, exec (.bndl b) s = .next t ∧ u.Becomes t { u.cur with
      flight := u.cur.flight ++ l.mapIdx fun n e => e.1.landing e.2 off n u }

end Sys2Proof.Machine

/-- BNDL completes: its slots run in order, and every slot reads the registers as they stand at issue (R202, R203, R215). -/
def Obligations.BundlesComplete : Prop := BundleCompletes ∧ BundleReadsAtIssue

/-- QLDS and QSTS complete at every expansion: a row is read into LQ, or the head of SQ is written to a row, as QLD and QST do
(R126, R217). -/
def Obligations.QueueStreamsComplete : Prop :=
  ∀ (r : Rec) (s u : State) (off k : Nat) (mode : BitVec 4) (row : Nat),
    let x := ixOf r.nest k
    let o := u.ordUsing row
    u.bankUse row < 4 →
    (s.Expands (.qlds r) .cc r off k mode u → u.NamesRow r.o1 x row → (u.cur.q.lq[Fin.ofNat 4 r.mod.toNat]).length < 16 →
      ∃ t, exec (.qlds r) s = .next t ∧
        let n := Fin.ofNat 4 r.mod.toNat
        let entry : QEntry := ⟨u.uid, u.now + 6 * u.div, false, 0, false⟩
        u.Becomes t { u.cur with
          ord := { o with loads := o.loads ++ [⟨u.uid, u.now, u.now + 5 * u.div, o.mark, row, off, none, u.div⟩] }
          q := { u.cur.q with lq := u.cur.q.lq.set n (u.cur.q.lq[n] ++ [entry]) } }) ∧
    (s.Expands (.qsts r) .cc r off k mode u → u.NamesRow r.o0 x row → u.cur.windowFlt .cc row = none →
      ∀ h rest, u.cur.q.sq[Fin.ofNat 2 r.mod.toNat] = h :: rest → h.vis ≤ u.now → ∃ t, exec (.qsts r) s = .next t ∧
        u.Becomes t { u.cur with
          ord := { o with stores := o.stores ++ [⟨u.uid, u.now, u.now + 3 * u.div, o.mark, row, h.row, h.tag, none, off⟩] }
          q := { u.cur.q with sq := u.cur.q.sq.set (Fin.ofNat 2 r.mod.toNat) rest } })

namespace Sys2Proof.Machine

/-! ## Latch loads and passes of the matrix engine -/

/-- The latch loads with their OP. -/
noncomputable def loadOps : List ((Rec → Instr) × Nat) := [(.ldb, 1), (.ldbh, 2), (.ldbs, 3), (.ldbt, 4), (.ldbw, 0x20)]

/-- The scales that a load takes from its scale row, in the order of the latch's four (R271, R330). -/
def scalesOf (op : Nat) (v : Row) : Vector Lane 4 :=
  if op = 3 then #v[lane v 0, lane v 1, lane v 2, lane v 3]
  else if op = 0x20 then #v[lane v 0, lane v 0, 0x3F800000, 0x3F800000]
  else #v[lane v 0, lane v 1, 0x3F800000, 0x3F800000]

end Sys2Proof.Machine

/-- LDB, LDBH, LDBS, LDBT and LDBW complete: the scale row is read, the rows are registered in an open window, and the load begins
to read one row, or one pair of half-rows, each cycle (R126, R271, R284, R330). MNOP changes nothing (R270). -/
def Obligations.LatchLoadsComplete : Prop :=
  ∀ (r : Rec) (s u v : State) (off k : Nat) (mode : BitVec 4),
    (s.Expands (.mnop r) .me r off k mode u → exec (.mnop r) s = .next u) ∧
    ∀ e ∈ loadOps, ∀ (a : Nat) (sc : Option Nat), s.Expands (e.1 r) .me r off k mode u →
      let x := ixOf r.nest k
      (if e.2 = 4 then u.NamesHalf r.o1 x a ∧ a + 256 ≤ 49152 else u.NamesRows r.o1 128 x a) →
      (match sc with
        | none => r.o2 = .absent
        | some row => u.NamesRow r.o2 x row) →
      u.CanRead sc.toList →
      registerRows (LatchSrc.ranges ⟨e.2, a, sc⟩) (u.reading sc.toList) = .ok v →
      let row : Row × Bool := match sc with
        | some q => u.mpRow q
        | none => (0, false)
      let src : LatchSrc := ⟨e.2, a, sc⟩
      let latch : Latch := { Latch.reset with
        scale := if sc.isSome then scalesOf e.2 row.1 else Vector.replicate 4 0x3F800000
        sTag := if sc.isSome && row.2 then (if e.2 = 3 then 15 else 3) else 0
        src := some src }
      ∃ t o, exec (e.1 r) s = .next t ∧
        v.Becomes t { v.cur with me := { v.cur.me with
          ops := v.cur.me.ops ++ [o]
          lastLoad := v.cur.me.lastLoad.set (Fin.ofNat 2 (r.mod.toNat % 2)) (some src) } } ∧
        o.uid = u.uid ∧ o.off = off ∧ o.op = e.2 ∧ o.mode = r.mod ∧ o.t0 = u.now ∧ o.div = u.div ∧ o.next = 0 ∧ o.a = a ∧
        o.latch = latch ∧ o.metaIn = true

namespace Sys2Proof.Machine

/-- The passes with their OP, whether they gather, and whether they are sparse. -/
noncomputable def passOps : List ((Rec → Instr) × Nat × Bool × Bool) := [
  (.mma, 5, false, false), (.mmah, 6, false, false), (.mmag, 7, true, false), (.mmagh, 8, true, false),
  (.mmas, 9, false, true), (.mmasg, 10, true, true)]

end Sys2Proof.Machine

/-- MMA, MMAH, MMAG, MMAGH, MMAS and MMASG complete: the index and scale rows are read at issue, an open window retains the pass,
the key's slot is taken, a sparse pass takes the head of the metadata queue or requests a freeze for it, and the pass begins to read
one source row each cycle with its latch, scales, mode and metadata. It notes a poisoned index row, for
which it will end by poisoning its whole slot (R72, R73, R272–R274, R284). -/
def Obligations.PassesComplete : Prop :=
  ∀ e ∈ passOps, ∀ (r : Rec) (s u v w : State) (off k : Nat) (mode : BitVec 4) (a : Nat) (sc : Option Nat) (key : Key)
      (slot : Fin 16), s.Expands (e.1 r) .me r off k mode u →
    let op := e.2.1
    let gather := e.2.2.1
    let sparse := e.2.2.2
    let x := ixOf r.nest k
    let nsc := if sparse then 4 else 2
    let idx := if gather then [a, a + 1] else []
    let scs := match sc with
      | some q => (List.range nsc).map (q + ·)
      | none => []
    (if gather then u.NamesRows r.o1 2 x a
      else u.NamesHalf r.o1 x a ∧ (if sparse then a / 2 * 2 + 256 else a + 128) ≤ 49152) →
    (match sc with
      | none => r.o2 = .absent
      | some q => u.NamesRows r.o2 nsc x q) →
    u.NamesKey r.o0 x key → u.CanRead (idx ++ scs) →
    let index := if gather then (List.range 128).map fun i =>
        let row := u.mpRow (a + i / 64)
        if row.2 || (lane row.1 (i % 64)).getLsbD 31 then none else some (lane row.1 (i % 64))
      else []
    (∀ i w, some w = index.getD i none → w.toNat % 65536 < 49152) →
    retain key (passRanges op a sc) (u.reading (idx ++ scs)) = .ok v → v.WritesKey key slot w →
    ∃ t o m, exec (e.1 r) s = .next t ∧
      o.uid = u.uid ∧ o.off = off ∧ o.op = op ∧ o.mode = r.mod ∧ o.t0 = u.now ∧ o.div = u.div ∧ o.next = 0 ∧ o.a = a ∧
      o.slot = slot ∧ o.key = key ∧ o.ftz = mode.getLsbD 3 ∧ o.latch = u.cur.me.bl[Fin.ofNat 2 (r.mod.toNat % 2)] ∧
      o.index = index ∧ o.scales = scs.flatMap (fun q => (List.range 64).map (lane (u.mpRow q).1)) ∧
      o.scTags = scs.flatMap (fun q => List.replicate 64 (u.mpRow q).2) ∧
      t.cur.me = { w.cur.me with
        ops := w.cur.me.ops ++ [o]
        ret := if w.cur.me.win.isSome then w.cur.me.ret ++ [{ o with latch := .reset }] else w.cur.me.ret
        metaq := m } ∧
      (sparse = false → m = w.cur.me.metaq ∧ o.metaIn = true ∧ t.gangs = w.gangs) ∧
      (sparse = true → ∀ y rest, w.cur.me.metaq = y :: rest →
        m = rest ∧ o.metaIn = true ∧ o.metadata = y.1 ∧ o.metaTag = y.2 ∧ t.gangs = w.gangs) ∧
      (sparse = true → w.cur.me.metaq = [] → m = [] ∧ o.metaIn = false ∧ t.gangOf u.curCell = { w.gangOf u.curCell with
        reqs := (w.gangOf u.curCell).reqs ++ [⟨w.now + (w.gangOf u.curCell).dstall, .metadata u.curCell⟩] }) ∧
      o.idxBad = idx.any (fun q => (u.mpRow q).2) ∧ { t.cur with me := w.cur.me } = w.cur ∧
      (∀ d, d ≠ u.curCell → t.cell d = w.cell d) ∧ (∀ b, t.byte b = w.byte b)

namespace Sys2Proof.Machine

/-! ## Binds and reads of slots -/

/-- A bind reads its bind row, the rows of per-row coefficients when it has them, and its keys (R67, R275, R276). -/
structure State.Binds (s : State) (o1 o2 : Opnd) (x : Ix) (perRow : Bool) (b : BindArgs) (t : State) : Prop where
  args : ∃ r0 key, s.NamesRow o2 x r0 ∧ s.NamesKey o1 x key ∧
    let v := s.mpRow r0
    let n := (byteAt v.1 48).toNat % 8 + 1
    let extra := if perRow then (List.range (2 * n)).map (r0 + 1 + ·) else []
    (perRow = true → r0 + 1 + 2 * n ≤ 24576) ∧ s.CanRead (r0 :: extra) ∧ t = s.reading (r0 :: extra) ∧
    (∀ i < n, s.cur.cr.spilledOf ⟨key.tile, v.1.extractLsb' (256 + 16 * i) 12⟩ = none) ∧
    b.views = (List.range n).map (fun i => s.cur.keyView ⟨key.tile, v.1.extractLsb' (256 + 16 * i) 12⟩) ∧
    (∀ i < n, ∀ j < 128, b.coef i j = if perRow then lane (s.mpRow (r0 + 1 + (2 * i + j / 64))).1 (j % 64) else lane v.1 i) ∧
    ∀ j < 128, b.bad j = (v.2 || (perRow && (List.range n).any fun i => (s.mpRow (r0 + 1 + (2 * i + j / 64))).2))

/-- Element (i, j) of a bind: the fused chain c × S + acc in label order, each step rounded once, NaNs by R117; and whether it is
poisoned. -/
def bindElem (ftz : Bool) (b : BindArgs) (i j : Nat) : Lane × FlagBits :=
  bindSum ftz (b.views.mapIdx fun k v => (b.coef k i, slotLane (v i).1 j)) none 0
def bindPoison (b : BindArgs) (i j : Nat) : Bool := b.bad i || b.views.any fun v => (v i).2.getLsbD j

end Sys2Proof.Machine

/-- BIND and BINDA complete: row i of columns 64 Q on lands at issue + 12 + i. BINDM completes: the 128 rows of its destination slot
are replaced (R117, R275, R276). -/
def Obligations.BindsComplete : Prop :=
  ∀ (r : Rec) (s u : State) (off k : Nat) (mode : BitVec 4) (b : BindArgs) (w : State),
    let x := ixOf r.nest k
    let ftz := mode.getLsbD 3
    let rows (i : Instr) (perRow : Bool) : Prop := s.Expands i .me r off k mode u → u.Binds r.o1 r.o2 x perRow b w →
      ∀ d, u.Dest r.o0 128 x d → ∃ t f fl, exec i s = .next t ∧ w.LandsEach t off 12 128 f fl ∧ ∀ i < 128,
        let tag (j : Nat) := bindPoison b i (64 * (r.mod.toNat % 4) + j)
        let e (j : Nat) := bindElem ftz b i (64 * (r.mod.toNat % 4) + j)
        ∃ v, f i = d.land i v ((List.range 64).any tag) ∧ fl i = lanesFlags 64 tag (fun j => (e j).2) ∧
          ∀ j < 64, lane v j = if tag j then 0x7FC00000 else (e j).1
    rows (.bind r) false ∧ rows (.binda r) true ∧
    (s.Expands (.bindm r) .me r off k mode u → u.Binds r.o1 r.o2 x (r.mod.getLsbD 0) b w →
      ∀ key slot z, u.NamesKey r.o0 x key → w.WritesKey key slot z →
      ∃ t f fl, exec (.bindm r) s = .next t ∧ z.LandsEach t off 12 128 f fl ∧ ∀ i < 128,
        ∃ v tags, f i = .slotSet slot i v tags ∧ fl i = lanesFlags 256 (bindPoison b i) (fun j => (bindElem ftz b i j).2) ∧
          ∀ j < 256, tags.getLsbD j = bindPoison b i j ∧
            slotLane v j = if bindPoison b i j then 0x7FC00000 else (bindElem ftz b i j).1)

namespace Sys2Proof.Machine

/-- The slot row and column of element e of output row i of CRD and CRDT, by format and panel (R277). -/
def crdPlace (trans : Bool) (f p i e : Nat) : Nat × Nat :=
  if trans then
    (if f = 0 then (64 * (i % 2) + e, 64 * p + i / 2) else if f = 1 then (e, 128 * (p % 2) + i) else (e % 128, 2 * i + e / 128))
  else if f = 0 then (i, 64 * p + e) else if f = 1 then (i, 128 * (p % 2) + e) else (i, e)

end Sys2Proof.Machine

/-- CRD and CRDT complete: output row i holds 64 FP32 elements, or 128 or 256 elements rounded to the narrower format, and lands at
issue + 4 + i; an absent key reads as +0.0 (R269, R277). -/
def Obligations.SlotReadsComplete : Prop :=
  ∀ (r : Rec) (s u : State) (off k : Nat) (mode : BitVec 4) (key : Key) (d : RowDst),
    let x := ixOf r.nest k
    let f := r.mod.toNat % 4
    let n := if f = 0 then 64 else if f = 1 then 128 else 256
    let fmt := if f = 1 then bf16 else if f = 2 then e4m3 else e5m2
    let read (i : Instr) (trans : Bool) : Prop := s.Expands i .me r off k mode u → u.Dest r.o0 128 x d →
      u.NamesKey r.o1 x key → u.cur.cr.spilledOf key = none →
      ∃ t g fl, exec i s = .next t ∧ u.LandsEach t off 4 128 g fl ∧ ∀ i < 128,
        let at_ (e : Nat) := crdPlace trans f (r.mod.toNat / 4) i e
        let val (e : Nat) : Lane := slotLane (u.cur.keyView key (at_ e).1).1 (at_ e).2
        let tag (e : Nat) : Bool := (u.cur.keyView key (at_ e).1).2.getLsbD (at_ e).2
        ∃ v, g i = d.land i v ((List.range n).any tag) ∧
          (f = 0 → fl i = 0 ∧ ∀ e < 64, lane v e = val e) ∧
          (f ≠ 0 → fl i = lanesFlags n tag (fun e => (convert fp32 fmt (modeOf mode) (val e).toNat).2) ∧
            ∀ e < n, (v.extractLsb' (2048 / n * e) (2048 / n)).toNat =
              if tag e then canonNaN fmt else (convert fp32 fmt (modeOf mode) (val e).toNat).1)
    read (.crd r) false ∧ read (.crdt r) true

namespace Sys2Proof.Machine

/-! ## Slot maintenance, arithmetic, mode and windows -/

end Sys2Proof.Machine

/-- CZERO, CREL, CRELL, CLBL and CLBL.R complete one cycle after issue; a release or a relabelling of a key whose writes are still due
is excluded. CSPL and CFIL leave their work to the freeze that they request; of a key in no slot, or not spilled, they change nothing.
CFIL.F32 and CFIL.BF16 take their slot and leave the reading of the rows to the freeze. CSTAT sends its row (R66, R68, R278–R280). -/
def Obligations.SlotMaintenanceComplete : Prop :=
  ∀ (r : Rec) (s u : State) (off k : Nat) (mode : BitVec 4) (key : Key),
    let x := ixOf r.nest k
    let due := u.now + u.div
    (s.Expands (.crell r) .me r off k mode u → ∀ w, r.o1 = .imm w →
      (∀ q, q.label = w.setWidth 12 → u.cur.keyDue q = false) → ∃ t ks, exec (.crell r) s = .next t ∧
      u.Lands t due off .me (.crel ks) 0 0 0 ∧ ∀ q, q ∈ ks ↔ q.label = w.setWidth 12 ∧
        ((∃ i : Fin 16, u.cur.cr.slots[i].key = some q) ∨ ∃ e ∈ u.cur.cr.spilled, e.key = q)) ∧
    (s.Expands (.cstat r) .me r off k mode u → ∀ d, u.Dest r.o0 1 x d → ∃ t f fl, exec (.cstat r) s = .next t ∧
      u.LandsEach t off 4 1 f fl ∧ fl 0 = 0 ∧ ∃ v, f 0 = d.land 0 v false ∧
        (∀ i : Fin 16,
          let park := u.cur.cr.parked.any fun e => e.2 = .slot i
          (u.cur.cr.slots[i].key = none → lane v i.val = if park then 0x40000000 else 0) ∧
          ∀ q, u.cur.cr.slots[i].key = some q → lane v i.val =
            q.tile.setWidth 32 ||| (q.label.setWidth 32 <<< 16) ||| 0x10000000 |||
              (if u.cur.cr.slots[i].spillable then 0x20000000 else 0) ||| if park then 0x40000000 else 0) ∧
        lane v 16 = BitVec.ofNat 32 u.cur.cr.free.length ∧ lane v 17 = BitVec.ofNat 32 u.cur.cr.spilled.length ∧
        lane v 18 = BitVec.ofNat 32 (u.cur.cc.spillLen - u.cur.cr.spilled.length) ∧
        lane v 19 = BitVec.ofNat 32 u.cur.me.ret.length ∧ lane v 20 = (if u.cur.me.win.isSome then 1 else 0) ∧
        lane v 21 = BitVec.ofNat 32 u.cur.me.metaq.length ∧ ∀ i < 64, 22 ≤ i → lane v i = 0) ∧
    (u.NamesKey r.o0 x key →
      (s.Expands (.czero r) .me r off k mode u → ∀ slot w, u.WritesKey key slot w → ∃ t, exec (.czero r) s = .next t ∧
        w.Lands t due off .me (.czero slot) 0 0 0) ∧
      (s.Expands (.crel r) .me r off k mode u → u.cur.keyDue key = false → ∃ t, exec (.crel r) s = .next t ∧
        u.Lands t due off .me (.crel [key]) 0 0 0) ∧
      (s.Expands (.clbl r) .me r off k mode u → ∀ w, r.o1 = .imm w → u.cur.cr.spilledOf key = none →
        ∃ t, exec (.clbl r) s = .next t ∧ u.Lands t due off .me (.clbl key (w.getLsbD 0)) 0 0 0) ∧
      (s.Expands (.clblR r) .me r off k mode u → ∀ old, u.NamesKey r.o1 x old → (key = old ∨ u.cur.keyDue key = false) →
        ∃ t, exec (.clblR r) s = .next t ∧ u.Lands t due off .me (.relabel key old) 0 0 0) ∧
      (s.Expands (.cspl r) .me r off k mode u →
        (u.cur.cr.slotOf key = none → exec (.cspl r) s = .next u) ∧
        (u.cur.cr.slotOf key ≠ none → u.cur.freeEntry ≠ none → ∃ t, exec (.cspl r) s = .next t ∧
          u.Asks t off (.cspl key) (.spill u.curCell key))) ∧
      (s.Expands (.cfil r) .me r off k mode u →
        (u.cur.cr.spilledOf key = none → exec (.cfil r) s = .next u) ∧
        (u.cur.cr.spilledOf key ≠ none → ∃ t, exec (.cfil r) s = .next t ∧ u.Asks t off (.cfil key) (.crema u.curCell key))) ∧
      (∀ b slot w, u.WritesKey key slot w →
        (s.Expands (.cfilF32 r) .me r off k mode u → u.NamesRows r.o1 512 x b → ∃ t, exec (.cfilF32 r) s = .next t ∧
          w.Asks t off (.load key b false u.now (mode.getLsbD 3)) (.scratchFill u.curCell key b false)) ∧
        (s.Expands (.cfilBf16 r) .me r off k mode u → u.NamesRows r.o1 256 x b → ∃ t, exec (.cfilBf16 r) s = .next t ∧
          w.Asks t off (.load key b true u.now (mode.getLsbD 3)) (.scratchFill u.curCell key b true))))

namespace Sys2Proof.Machine

/-- The rows of a slot are to be replaced four cycles after issue on: elements, poison and flags by row and column. -/
def State.Replaces (w t : State) (off : Nat) (slot : Fin 16) (tag : Nat → Nat → Bool) (f : Nat → Nat → Lane × FlagBits)
    (keep : Bool) : Prop :=
  ∃ g fl, w.LandsEach t off 4 128 g fl ∧ ∀ i < 128, ∃ v tags, g i = .slotSet slot i v tags ∧
    fl i = lanesFlags 256 (tag i) (fun j => (f i j).2) ∧
    ∀ j < 256, tags.getLsbD j = tag i j ∧ slotLane v j = if tag i j && !keep then 0x7FC00000 else (f i j).1

/-- The largest of a row's 256 columns in FMAX order, NaNs passed over; and their sum in a tree of eight levels (R103, R282). -/
def rowMax (md : FMode) (f : Nat → Lane) : Lane × FlagBits := colMax md ((List.range 256).map f)
def rowSum (md : FMode) (f : Nat → Lane) : Lane × FlagBits :=
  level md (level md (level md (level md (level md (level md (level md (level md fun i => (f i, 0)))))))) 0

end Sys2Proof.Machine

/-- CCPY, CSCAL and CADD complete on all 128 rows of their destination slot, CMAXR and CSUMR send one row of 64 reductions 136 cycles
after issue (R103, R260, R281, R282). -/
def Obligations.SlotArithmeticComplete : Prop :=
  ∀ (r : Rec) (s u : State) (off k : Nat) (mode : BitVec 4) (key : Key) (w : State),
    let x := ixOf r.nest k
    let md : FMode := { modeOf mode with sat := false }
    u.NamesKey r.o1 x key → u.cur.cr.spilledOf key = none →
    let a (i j : Nat) : Lane := slotLane (u.cur.keyView key i).1 j
    let at_ (i j : Nat) : Bool := (u.cur.keyView key i).2.getLsbD j
    (∀ dst slot, u.NamesKey r.o0 x dst →
      (s.Expands (.ccpy r) .me r off k mode u → u.WritesKey dst slot w → ∃ t, exec (.ccpy r) s = .next t ∧
        w.Replaces t off slot at_ (fun i j => (a i j, 0)) true) ∧
      (s.Expands (.cscal r) .me r off k mode u → ∀ q, r.o2 = .imm q → u.WritesKey dst slot w → ∃ t, exec (.cscal r) s = .next t ∧
        w.Replaces t off slot at_ (fun i j => fMul md (a i j) q) false) ∧
      (s.Expands (.cscal r) .me r off k mode u → ∀ b, u.NamesRows r.o2 2 x b → u.CanRead [b, b + 1] →
        (u.reading [b, b + 1]).WritesKey dst slot w → ∃ t, exec (.cscal r) s = .next t ∧
        w.Replaces t off slot (fun i j => (u.mpRow (b + i / 64)).2 || at_ i j)
          (fun i j => fMul md (a i j) (lane (u.mpRow (b + i / 64)).1 (i % 64))) false) ∧
      (s.Expands (.cadd r) .me r off k mode u → ∀ b, u.NamesKey r.o2 x b → u.cur.cr.spilledOf b = none → u.WritesKey dst slot w →
        ∃ t, exec (.cadd r) s = .next t ∧
        w.Replaces t off slot (fun i j => at_ i j || (u.cur.keyView b i).2.getLsbD j)
          (fun i j => fAdd md (a i j) (slotLane (u.cur.keyView b i).1 j)) false)) ∧
    (∀ d, u.Dest r.o0 1 x d →
      let reduces (i : Instr) (f : FMode → (Nat → Lane) → Lane × FlagBits) : Prop := s.Expands i .me r off k mode u →
        ∃ t g fl, exec i s = .next t ∧ u.LandsEach t off 136 1 g fl ∧
          let row (i : Nat) : Nat := 64 * (r.mod.toNat % 2) + i
          let tag (i : Nat) : Bool := (u.cur.keyView key (row i)).2 != 0
          ∃ v, g 0 = d.land 0 v ((List.range 64).any tag) ∧ fl 0 = lanesFlags 64 tag (fun i => (f md (a (row i))).2) ∧
            ∀ i < 64, lane v i = if tag i then 0x7FC00000 else (f md (a (row i))).1
      reduces (.cmaxr r) rowMax ∧ reduces (.csumr r) rowSum)

/-- CMODE changes the mode of the records after it. MFLG sends the flags, MFLG.C also clears those of its mask at issue. TSTART takes
its key's slot, zeroes it and opens the window; TCOMMIT closes it (R283, R284). -/
def Obligations.MatrixStateComplete : Prop :=
  ∀ (r : Rec) (s u : State) (off k : Nat) (mode : BitVec 4),
    let x := ixOf r.nest k
    let due := u.now + u.div
    let flagsSent (v : State) : Prop := ∀ d, u.Dest r.o0 1 x d → ∃ f fl, u.LandsEach v off 1 1 f fl ∧ fl 0 = 0 ∧
      ∃ row, f 0 = d.land 0 row false ∧ ∀ i < 64, lane row i = u.cur.me.flags.setWidth 32
    (s.Expands (.cmode r) .me r off k mode u → ∀ w, r.o1 = .imm w → ∃ t, exec (.cmode r) s = .next t ∧
      u.Becomes t { u.cur with me := { u.cur.me with mode := w.setWidth 4 } }) ∧
    (s.Expands (.mflg r) .me r off k mode u → ∀ d, u.Dest r.o0 1 x d → ∃ t, exec (.mflg r) s = .next t ∧ flagsSent t) ∧
    (s.Expands (.mflgC r) .me r off k mode u → ∀ w, r.o1 = .imm w → (r.o0 = .absent ∨ ∃ d, u.Dest r.o0 1 x d) →
      ∃ t v, exec (.mflgC r) s = .next t ∧ (r.o0 = .absent → v = u) ∧ (r.o0 ≠ .absent → flagsSent v) ∧
        v.Becomes t { v.cur with me := { v.cur.me with flags := v.cur.me.flags &&& ~~~(w.setWidth 6) } }) ∧
    (s.Expands (.tstart r) .me r off k mode u → ∀ key slot w, u.NamesKey r.o0 x key → u.WritesKey key slot w →
      let l : List Landing := [⟨due, u.uid, .me, off, .czero slot, 0, 0, 0⟩, ⟨due, u.uid + 1, .me, off, .winOpen key slot, 0, 0, 0⟩]
      ∃ t, exec (.tstart r) s = .next t ∧ w.Becomes t { w.cur with flight := w.cur.flight ++ l }) ∧
    (s.Expands (.tcommit r) .me r off k mode u → ∃ t, exec (.tcommit r) s = .next t ∧
      u.Lands t due off .me .winClose 0 0 0)

namespace Sys2Proof.Machine

/-! ## Release of stream engine commands -/

/-- The SE records: constructor, OP, and whether MOD[4] is PROM (R285, R288). -/
noncomputable def seOps : List ((Rec → Instr) × Nat × Bool) := [
  (.snop, 0x00, false), (.cpin, 0x01, true), (.cpout, 0x02, true), (.cprr, 0x03, false), (.cprrPull, 0x03, false),
  (.cpadd, 0x04, true), (.cpbc, 0x05, true), (.cpt, 0x06, true), (.cpcv, 0x07, true), (.cpq, 0x08, true), (.cpmask, 0x09, true),
  (.fill, 0x0A, true), (.gath, 0x0B, true), (.scat, 0x0C, true), (.scata, 0x0D, true), (.grpf, 0x0E, false), (.grpo, 0x0F, true)] ++ [
  (.topk, 0x10, true), (.crds, 0x11, true), (.metaq, 0x12, true), (.sortk, 0x13, false), (.cntr, 0x14, false), (.csnap, 0x15, false),
  (.nsend, 0x16, false), (.nrecv, 0x17, false), (.nput, 0x18, true), (.nget, 0x19, true), (.natom, 0x1A, true),
  (.nflush, 0x1B, false), (.awrm, 0x1C, false), (.aset, 0x1D, false), (.sfence, 0x1E, false), (.waitc, 0x1F, false)] ++ [
  (.tdld, 0x20, false), (.tdinv, 0x21, false), (.pgdup, 0x22, true), (.pgmig, 0x23, true), (.pfch, 0x24, true), (.latq, 0x25, false),
  (.sevt, 0x26, false), (.sevtH, 0x26, false), (.cpchk, 0x27, true), (.radvx, 0x28, false), (.radvxX, 0x28, false),
  (.swait, 0x29, false), (.cpins, 0x2A, true)]

end Sys2Proof.Machine

/-- Every SE record that names no page of a peer that is down (R385) completes its release: a command with its operands as captured, its record, the tick, the FENCEs that hold it,
the contexts on the cells it may touch, and its promise enters the tail of the queue, and nothing else changes, but for the fault and
the wait of a promise that is broken at release (R27, R74, R87, R133, R285, R288, R293). -/
def Obligations.StreamReleasesComplete : Prop :=
  ∀ e ∈ seOps, ∀ (r : Rec) (s : State) (off : Nat) (a b d : ROp), s.RecIssues (e.1 r) .se r off →
    let op := e.2.1
    let u := s.begun (e.1 r) .se r off
    promBad (e.1 r) op r (s.onEngine .se) = none → u.Captures r.o0 a → u.Captures r.o1 b → u.Captures r.o2 d →
    awBeyond a = false → awBeyond b = false → awBeyond d = false → (∀ m, newCmd op r off u = .ok m → downPage u u.curCell m = none) →
    ∃ t m, exec (e.1 r) s = .next t ∧
      m.uid = u.uid ∧ m.off = off ∧ m.op = op ∧ m.r = r ∧ m.o0 = a ∧ m.o1 = b ∧ m.o2 = d ∧ m.rel = u.now ∧ m.next = 0 ∧
      m.phase = .queued ∧ m.cw = [] ∧ m.cb = 0 ∧ m.out = [] ∧ m.data = [] ∧
      m.prom = (if e.2.2 && r.mod.getLsbD 4 then promiseOf m u else none) ∧
      m.holds = ((u.cur.ord.holds.filter (fenceHolds op (namesPeer u u.curCell m))).map (·.uid)) ∧
      m.target = (targetCells op r).map (fun c => (c, u.taskOn c)) ∧
      { t with cells := u.cells, gangs := u.gangs, uid := u.uid } = u ∧ (∀ c, c ≠ u.curCell → t.cell c = u.cell c) ∧
      t.cur = { u.cur with
        se := { u.cur.se with queue := u.cur.se.queue ++ [m] }
        sq := { u.cur.sq with seTick := some u.now } } ∧
      ((∀ p, m.prom = some p → p.cls ≠ 0) → t.gangs = u.gangs) ∧
      ∀ p, m.prom = some p → p.cls = 0 → ∃ f, (t.gangOf u.curCell).faults = (u.gangOf u.curCell).faults ++ [f] ∧
        f.cls = 0x0F ∧ f.unit = 3 ∧ f.cell = u.curCell ∧ f.off = off ∧ f.tick = u.now ∧
        (t.gangOf u.curCell).reqs = (u.gangOf u.curCell).reqs ++
          [⟨u.now + (u.gangOf u.curCell).dstall, .fault f.id⟩, ⟨u.now + (u.gangOf u.curCell).dstall, .command u.curCell m.uid⟩]

namespace Sys2Proof.Machine

/-! ## Events of the stream engine, the tick and the freeze -/

end Sys2Proof.Machine

/-- The stream engine's steps: the SE record that is due takes its turn; a queued command that nothing holds starts; the oldest chunk whose
writes are performed leaves, its bytes counted where the command names an arrival word, and not where it was refused; an illegal word stops
the command with a descriptor fault; a finished command leaves the queue, DONE counts it and a ring advance enters YP; a promise past its
deadline is a fault of class 0x0F while the command goes on; a CRDS that has read its rows meets its holds (R27, R87, R286, R287, R289,
R304, R309). -/
def Obligations.StreamStepsComplete : Prop :=
  (∀ (s : State) (c : CellId), ((s.cell c).engine .se).pc.isSome → (s.gangOf c).frozen = false →
    exec (.seRelease c) s = .next { s with turn := .record c .se }) ∧
  ∀ (s : State) (c : CellId) (uid : Nat) (m : SeCmd), (s.cell c).seCmd uid = some m →
    (m.phase = .queued → s.seReady c m = true → ((s.gangOf c).status = .running ∨ (s.gangOf c).status = .ending) →
      exec (.seCommandStart c uid) s = .next (s.setCell c ((s.cell c).putCmd { m with phase := .running }))) ∧
    (∀ us b rest, m.out = (us, b) :: rest → (∀ u ∈ us, s.writeDone u = true) →
      (m.counts = false → exec (.chunkPerformed c uid) s = .next (s.setCell c ((s.cell c).putCmd { m with out := rest }))) ∧
      (∀ a, m.counts = true → (s.cell c).arrival m.o2.awAddr = .ok a → (a.armed && decide (a.target = 0)) = false →
        exec (.chunkPerformed c uid) s = .next (s.setCell c
          (((s.cell c).putArrival m.o2.awAddr (a.add (if m.nref then 0 else b))).putCmd { m with out := rest }))) ∧
      (m.counts = true → (∀ a, (s.cell c).arrival m.o2.awAddr = .ok a → (a.armed && decide (a.target = 0)) = true) →
        ∃ t f, exec (.chunkPerformed c uid) s = .next t ∧
          t.cell c = (s.cell c).putCmd { m with out := rest, phase := .stopped } ∧
          (t.gangOf c).faults = (s.gangOf c).faults ++ [f] ∧ f.cls = 0x0E ∧ f.unit = 3 ∧ f.off = m.off)) ∧
    (s.cmdDone c m = true → ∃ t, exec (.seCommandCompletion c uid) s = .next t ∧
      (t.cell c).se.queue = (s.cell c).se.queue.filter (fun e => decide (e.uid ≠ uid)) ∧
      fieldOf (t.cell c).se.sestat.toNat 16 32 = (fieldOf (s.cell c).se.sestat.toNat 16 32 + 1) % 2 ^ 32 ∧
      (∀ d, d ≠ c → t.cell d = s.cell d) ∧ (∀ a, t.byte a = s.byte a) ∧ t.gangs = s.gangs ∧
      (m.ringAdvance = none → (t.cell c).ord = (s.cell c).ord) ∧
      (∀ loc, m.ringAdvance = some loc → ∃ op, (t.cell c).ord.yp = (s.cell c).ord.yp ++ [op] ∧ op.kind = .tail loc 1)) ∧
    (∀ p, m.prom = some p → p.cls ≠ 0 → p.deadline ≤ (s.gangOf c).tick →
      ∃ t f, exec (.latencyDeadline c uid) s = .next t ∧ t.cell c = (s.cell c).putCmd { m with prom := none } ∧
        (t.gangOf c).faults = (s.gangOf c).faults ++ [f] ∧ f.cls = 0x0F ∧ f.unit = 3 ∧ f.off = m.off ∧
        (t.gangOf c).reqs = (s.gangOf c).reqs ++ [⟨(s.gangOf c).tick + (s.gangOf c).dstall, .fault f.id⟩,
          ⟨(s.gangOf c).tick + (s.gangOf c).dstall, .command c uid⟩]) ∧
    (m.total ≤ m.next → exec (.crdsHoldMet c uid) s = .next (s.setGang (s.gidOf c)
      { s.gangOf c with reqs := (s.gangOf c).reqs.filter fun r => decide (r.cond ≠ .crds c uid) }))

namespace Sys2Proof.Machine

/-- What a result makes of the executing engine's state: registers of the control core and the vector engine take their values
and poison tags, register 0 of G, P and K nothing (R5, R6, R52, R215). -/
def landed (x : Cell) : Land → Option Cell
  | .g n v tag =>
    let tags := BitVec.ofNat 32 (putField x.cc.gTag.toNat n.val 1 tag.toNat)
    some (if n = 0 then x else { x with cc := { x.cc with g := x.cc.g.set n v, gTag := tags } })
  | .p n v => some (if n = 0 then x else { x with cc := { x.cc with p := BitVec.ofNat 16 (putField x.cc.p.toNat n.val 1 v.toNat) } })
  | .v n act v tags =>
    let tag := (tags &&& act) ||| (x.ve.vTag[n] &&& ~~~act)
    some { x with ve := { x.ve with v := x.ve.v.set n (mergeLanes act x.ve.v[n] v), vTag := x.ve.vTag.set n tag } }
  | .k n v => some (if n = 0 then x else { x with ve := { x.ve with k := x.ve.k.set n v } })
  | .latch n v => some { x with me := { x.me with bl := x.me.bl.set n v } }
  | .flags => some x
  | _ => none

end Sys2Proof.Machine

/-- At a tick, the result that is due first, in order of due tick and then of issue, takes effect with its flags and leaves the
flight; a decision reaches its D register Ddec ticks after it was issued; tokens that agree raise nothing; a divisor switches at
its tick; text and translations arrive; and an invalidation that is due empties the text cache (R5, R6, R37, R40, R47, R80,
R177, R239). -/
def Obligations.TickEventsComplete : Prop :=
  (∀ (s : State) (c : CellId) (l : Landing) (x : Cell), (s.gangOf c).frozen = false → l ∈ (s.cell c).flight →
    l.due ≤ (s.gangOf c).tick →
    (∀ m ∈ (s.cell c).flight, m.due ≤ (s.gangOf c).tick → m ≠ l → l.due < m.due ∨ l.due = m.due ∧ l.seq < m.seq) →
    landed { s.cell c with flight := (s.cell c).flight.filter fun m => decide (m.seq ≠ l.seq) } l.dst = some x →
    exec (.resultLanding c) s = .next (s.setCell c { x with
      cc := { x.cc with cflags := x.cc.cflags ||| l.cfl }
      ve := { x.ve with flags := x.ve.flags ||| l.vfl }
      me := { x.me with flags := x.me.flags ||| l.mfl } })) ∧
  (∀ (s : State) (g : GangId) (h : Decision) (rest : List Decision), (s.gang g).frozen = false →
    (s.gang g).decisions = h :: rest → h.tick + ddecOf (s.gang g).glog ≤ (s.gang g).tick →
    let mine := (h :: rest).filter fun d => decide (d.tick = h.tick)
    mine.Pairwise (fun d e => d.cell ≠ e.cell) →
    let put (x : Cell) (d : Decision) : Cell := { x with cc := { x.cc with
      d := x.cc.d.set d.dn (decisionValue (s.gang g) mine d), dLand := x.cc.dLand.set d.dn (s.gang g).tick } }
    ∃ t, exec (.decisionDelivery g) s = .next t ∧
      (t.gang g).decisions = rest.filter (fun d => decide (d.tick ≠ h.tick)) ∧
      (∀ c, c ∉ mine.map (·.cell) → t.cell c = s.cell c) ∧ ∀ d ∈ mine, t.cell d.cell = put (s.cell d.cell) d) ∧
  (∀ (s : State) (g : GangId) (h m0 : Token) (rest : List Token), (s.gang g).frozen = false →
    (s.gang g).tokens = h :: rest → h.tick + ddecOf (s.gang g).glog ≤ (s.gang g).tick →
    m0 ∈ h :: rest → m0.tick = h.tick → (s.gang g).member m0.cell = 0 →
    (∀ k ∈ h :: rest, k.tick = h.tick → k.segid = m0.segid ∧ k.succ = m0.succ) →
    exec (.divergenceCheck g) s = .next (s.setGang g { s.gang g with
      tokens := (s.gang g).tokens.filter fun k => decide (k.tick ≠ h.tick) })) ∧
  (∀ (s : State) (c : CellId) (w : DivSwitch) (rest : List DivSwitch), (s.gangOf c).frozen = false → (s.cell c).sq.switches = w :: rest →
    w.due ≤ (s.gangOf c).tick →
    let x : Cell := { s.cell c with sq := { (s.cell c).sq with switches := rest } }
    exec (.divisorSwitch c) s = .next (s.setCell c (x.setEngine w.eng { x.engine w.eng with div := w.d, base := w.due }))) ∧
  (∀ (s : State) (c : CellId) (off : Nat) (w : RecordBits), s.textWord (s.gidOf c) off = some w → (s.cell c).busy = true →
    (s.cell c).text.length < 4096 →
    ∃ t, exec (.textPreload c off) s = .next t ∧ s.OneCell t c ∧ (off, w) ∈ (t.cell c).text ∧
      (∀ v, (off, v) ∈ (t.cell c).text → v = w)) ∧
  (∀ (s : State) (c : CellId) (d : Nat), some d ∈ (s.cell c).inval → d ≤ (s.gangOf c).tick →
    ∃ t, exec (.textCacheInvalidate c) s = .next t ∧ s.OneCell t c ∧ (t.cell c).text = []) ∧
  (∀ (s : State) (asid : BitVec 10) (tid : BitVec 12) (tile : Nat) (d : Desc) (p : Page),
    (s.descs.any fun e => e.asid == asid && e.tid == tid) = true → s.desc asid tid = .ok d → s.page asid tid d false tile = .ok p →
    s.cached asid tid tile = false → exec (.translationWalk asid tid tile) s = .next (s.cacheLeaf asid tid tile))

namespace Sys2Proof.Machine

/-- A gang stopped at one fault alone, which has no record yet, with room in the log. -/
structure StoppedAt (s : State) (g : GangId) (p : PFault) : Prop where
  runs   : (s.gang g).runs = true
  free   : (s.gang g).owner = none
  fault  : (s.gang g).faults = [p]
  fresh  : p.written = false
  due    : (s.gang g).reqs = [⟨(s.gang g).tick, .fault p.id⟩]
  room   : s.log.length < 65280

/-- The record of a fault is the next of the log. -/
def Recorded (s t : State) (p : PFault) (sev disp : Nat) : Prop :=
  t.log = s.log ++ [⟨s.logSeq, (s.faultRec p sev disp).bits p.tns s.drop s.logSeq, false⟩]

end Sys2Proof.Machine

/-- Freezes: a request ahead of need is noted; a running gang stops where a request is due, with nothing else changed where no fault is,
and a fatal fault raised in hardware mode is recorded with severity 2 and DISP 4 and kills; it thaws a reference cycle later once no
condition due there is unmet, and the monitors sample the freeze; firmware kills, or saves, a gang stopped at a fault raised in an assisted
mode, with DISP 4 or 3; a forwarded request that the host leaves past its time is firmware's, and the host is told; the first uncorrectable
error of an open window is recorded as class 0x21 and its freeze requested, and under that freeze the window is replayed and recorded as
class 0x22; and a delivered record leaves the log (R43, R44, R191, R194, R345, R351, R352, R362, R363). -/
def Obligations.FreezeEventsComplete : Prop :=
  (∀ (s : State) (c : CellId) (what : Ahead) (due : Nat) (k : Cond), (s.gangOf c).frozen = false → (s.gangOf c).tick ≤ due →
    k = (match what with
      | .text off => .text c off
      | .seSpace => .seSpace c (s.releaseShort c).length
      | .crds uid => .crds c uid) →
    ((s.gangOf c).reqs.any fun r => decide (r.cond = k)) = false →
    exec (.freezeRequestAhead c what due) s = .next (s.setGang (s.gidOf c)
      { s.gangOf c with reqs := (s.gangOf c).reqs ++ [⟨due, k⟩] })) ∧
  (∀ (s : State) (g : GangId) (r : Req), (s.gang g).frozen = false → (s.gang g).runs = true → r ∈ (s.gang g).reqs →
    r.due ≤ (s.gang g).tick → (s.gang g).faults = [] →
    (∀ c ∈ (s.gang g).cells, (s.cell c).sq.brkGone = 0) →
    exec (.freezeBegin g) s = .next (s.setGang g { s.gang g with frozen := true, frozenAt := s.wall })) ∧
  (∀ (s : State) (g : GangId) (p : PFault), StoppedAt s g p → (s.gang g).frozen = false → p.cls ≠ 0x0F → p.mode = 0 →
    ∃ t, exec (.freezeBegin g) s = .next t ∧ Recorded s t p 2 4 ∧ (t.gang g).frozen = true ∧
      (t.gang g).reqs = [⟨(s.gang g).tick, .fault p.id⟩, ⟨(s.gang g).tick, .kill s.logSeq⟩]) ∧
  (∀ (s : State) (g : GangId), (s.gang g).frozen = true → ((s.gang g).status = .running ∨ (s.gang g).status = .ending) →
    (s.gang g).frozenAt < s.wall → (s.gang g).writes = [] →
    (∀ r ∈ (s.gang g).reqs, r.due ≤ (s.gang g).tick → s.met r.cond = true) →
    ∃ t, exec (.thaw g) s = .next t ∧ t.gang g = { s.gang g with
        frozen := false, reqs := (s.gang g).reqs.filter fun r => decide ((s.gang g).tick < r.due) } ∧
      (∀ h, h ≠ g → t.gang h = s.gang h) ∧ { t with cells := s.cells, gangs := s.gangs, monitors := s.monitors } = s ∧
      ∀ c, { t.cell c with sq := { (t.cell c).sq with textWait := (s.cell c).sq.textWait } } = s.cell c) ∧
  (∀ (s : State) (g : GangId) (p : PFault), StoppedAt s g p → (s.gang g).frozen = true → p.mode ≠ 0 →
    (∃ t, exec (.faultDisposition g .kill) s = .next t ∧ Recorded s t p 2 4 ∧ (t.gang g).frozen = true ∧
      (t.gang g).reqs = [⟨(s.gang g).tick, .fault p.id⟩, ⟨(s.gang g).tick, .kill s.logSeq⟩]) ∧
    ((s.gang g).saveFor = none → ∃ t, exec (.faultDisposition g .preempt) s = .next t ∧ Recorded s t p 1 3 ∧
      (t.gang g).frozen = true ∧ (t.gang g).saveFor = some .firmware ∧
      (t.gang g).reqs = [⟨(s.gang g).tick, .fault p.id⟩, ⟨(s.gang g).tick, .preempt⟩])) ∧
  (∀ (s : State) (g : GangId) (e : GangId × Nat), (s.forwards.find? fun x => decide (x.1 = g)) = some e → e.2 ≤ s.wall →
    exec (.forwardingTimeout g) s = .next { s with
      forwards := s.forwards.filter (fun x => decide (x.1 ≠ g)), outbox := s.outbox ++ [.notified g] }) ∧
  (∀ (s : State) (c : CellId) (w : Window), (s.cell c).me.win = some w → s.log.length < 65280 →
    let rec_ (cls sev disp : Nat) : LogRec :=
      ⟨s.logSeq, (windowRec s c w cls sev disp).bits ((w.err.map (·.tns)).getD (s.clock.time.extractLsb' 16 64)) s.drop s.logSeq, false⟩
    (w.failed = 0 → w.err = none → ∃ t, exec (.windowReplay c) s = .next t ∧ t.log = s.log ++ [rec_ 0x21 1 0] ∧
      (t.cell c).me.win = some { w with failed := 1, err := some (s.winErr c) } ∧
      (t.gangOf c).reqs = (s.gangOf c).reqs ++ [⟨(s.gangOf c).tick + (s.gangOf c).dstall, .replay c⟩]) ∧
    (w.failed = 1 → (s.gangOf c).frozen = true → (s.gangOf c).killSeq = none → ⟨(s.gangOf c).tick, .replay c⟩ ∈ (s.gangOf c).reqs →
      (s.cell c).cr.slotOf w.key ≠ none → ∃ t, exec (.windowReplay c) s = .next t ∧ t.log = s.log ++ [rec_ 0x22 1 2] ∧
        (t.cell c).me.win = some { w with failed := 2 } ∧ t.gangs = s.gangs)) ∧
  (∀ (s : State) (seq : Nat) (r : LogRec), (s.log.find? fun e => decide (e.seq = seq)) = some r → r.delivered = false → s.staged = [] →
    ∃ t, exec (.recordDelivery seq) s = .next t ∧ t.log = s.log.filter (fun e => decide (e.seq ≠ seq)) ∧
      t.outbox = s.outbox ++ (s.sessions.filter fun x => x.takes r.bits).map fun x => .record (some x.id) seq r.bits)

namespace Sys2Proof.Machine

/-! ## Events of the ordering machine and the home agents -/

/-- Is a scratchpad row registered in an open accumulator window (R284)? -/
def Registered (x : Cell) (row : Nat) : Prop := ∃ w, x.me.win = some w ∧ ∃ g ∈ w.ranges, g.hits x row = true

/-- Nothing that was issued before a timed write can still drain to its row at its tick (R6, R59). -/
def State.NoTie (s : State) (w : FWrite) (row : Nat) : Prop :=
  w.tick = some (s.gangOf w.cell).tick → (∀ q ∈ (s.cell w.cell).ord.stores, q.row ≠ row) ∧
    ∀ l ∈ (s.cell w.cell).flight, ∀ v tag, l.dst ≠ .sp row v tag

end Sys2Proof.Machine

/-- The ordering machine: the head of the CQ store buffer drains, or is a retention violation where its row has been registered since;
the load at the head of the CQ load buffer reads its row and lands in its B register; a whole-row write reaches its scratchpad row, and a
write to device memory its bytes with a parity delta, neither changing any other row or byte; a ring advance performed at its home moves
the tail; a FENCE that waits for nothing stops holding; a parity delta is applied, and the parity of a full-stripe write that has ended is
written with none (R62, R65, R91, R124–R126, R128, R133, R284). -/
def Obligations.OrderingEventsComplete : Prop :=
  (∀ (s : State) (c : CellId) (w : CqStore) (rest : List CqStore), (s.cell c).ord.stores = w :: rest →
    (∀ l ∈ (s.cell c).ord.loads, w.mark ≤ l.tick) →
    let x : Cell := { s.cell c with ord := { (s.cell c).ord with stores := rest } }
    (¬ Registered (s.cell c) w.row → exec (.drain c) s = .next { s.setCell c x with
      fabric := s.fabric ++
        [⟨w.uid, c, .cq, 0, w.fby, .sp c w.row, .set, w.v, BitVec.allOnes 256, w.tag, false, some (s.gangOf c).tick, none⟩] }) ∧
    (Registered (s.cell c) w.row → ∃ t f, exec (.drain c) s = .next t ∧ t.cell c = x ∧ t.fabric = s.fabric ∧
      (t.gangOf c).faults = (s.gangOf c).faults ++ [f] ∧ f.cls = 0x0B ∧ f.unit = 0 ∧ f.off = w.off)) ∧
  (∀ (s : State) (c : CellId) (uid n : Nat) (l : CqLoad) (rest : List CqLoad) (b : Fin 4), (s.cell c).ord.loads = l :: rest →
    (∀ w ∈ (s.cell c).ord.stores, l.mark ≤ w.tick) → l.toB = some b → n = l.row →
    (∀ w ∈ s.fabric, ¬ (w.cell = c ∧ w.path = .cq ∧ w.loc = .sp c n)) →
    let x := s.cell c
    let land : Landing := ⟨l.tick + 4 * l.div, l.uid, .cc, l.off, .b b (x.row n) (allTags 32 (x.rowTag n)), 0, 0, 0⟩
    exec (.performARead c .cq uid) s = .next (s.setCell c
      { x with ord := { x.ord with loads := rest }, flight := x.flight ++ [land] })) ∧
  (∀ (s : State) (w : FWrite), (s.fabric.find? fun x => decide (x.uid = w.uid)) = some w →
    (∀ x ∈ s.fabric, x.cell = w.cell → x.loc = w.loc → x = w) → w.op = .set →
    (∀ d r, w.loc = .sp d r → w.bytes = BitVec.allOnes 256 → s.NoTie w r → s.canonical = true →
      ∃ t, exec (.performAWrite w.uid) s = .next t ∧ t.fabric = s.fabric.filter (fun x => decide (x.uid ≠ w.uid)) ∧
        (t.cell d).row r = w.v ∧ (∀ e q, (e ≠ d ∨ q ≠ r) → (t.cell e).row q = (s.cell e).row q) ∧ ∀ a, t.byte a = s.byte a) ∧
    (∀ b, w.loc = .hbm b → s.frameHeld (b / 256) = false → s.layout.mode = 0 → s.canonical = true →
      ∃ t full, exec (.performAWrite w.uid) s = .next t ∧ t.fabric = s.fabric.filter (fun x => decide (x.uid ≠ w.uid)) ∧
        (∀ i < 256, t.byte (256 * b + i) = if w.bytes.getLsbD i then (w.v.extractLsb' (8 * i) 8) else s.byte (256 * b + i)) ∧
        (∀ a, a / 256 ≠ b → t.byte a = s.byte a) ∧
        t.deltas = s.deltas ++
          [⟨w.uid, w.cmd, w.cell, (s.gangOf w.cell).asid, b, s.layout.parityOf (b / 8), w.src.isNone, w.path, full⟩] ∧
        (w.bytes ≠ BitVec.allOnes 256 → full = false))) ∧
  (∀ (s : State) (c : CellId) (op : YOp) (loc m : Nat) (r : Rcb), (s.cell c).ypOp op.uid = some op → s.ypReady c op = true →
    op.kind = .tail loc m → loc < 98304 → (s.cell c).rcb loc = .ok r → r.stage = false →
    (r.tail - r.head).toNat + m ≤ r.depth → r.depth ≤ 2 ^ 31 → (r.claimed - r.head).toNat ≤ r.depth →
    ∃ t, exec (.performARmw c op.uid) s = .next t ∧ (t.cell c).ord.yp = (s.cell c).ord.yp.filter (fun o => decide (o.uid ≠ op.uid)) ∧
      (t.cell c).sp = ((s.cell c).putCounts loc { r with
        tail := r.tail + BitVec.ofNat 32 m
        claimed := if (r.claimed - r.head).toNat < (r.tail + BitVec.ofNat 32 m - r.head).toNat then r.tail + BitVec.ofNat 32 m
          else r.claimed }).sp ∧
      (∀ d, d ≠ c → t.cell d = s.cell d) ∧ ∀ a, t.byte a = s.byte a) ∧
  (∀ (s : State) (c : CellId) (h : Hold), ((s.cell c).ord.holds.find? fun k => decide (k.uid = h.uid)) = some h →
    (∀ d, d ≠ c → ∀ k ∈ (s.cell d).ord.holds, k.uid ≠ h.uid) → s.holds c h = false →
    exec (.release h.uid) s = .next (s.setCell c { s.cell c with
      ord := { (s.cell c).ord with holds := (s.cell c).ord.holds.filter fun k => decide (k.uid ≠ h.uid) } })) ∧
  (∀ (s : State) (d : Delta), (s.deltas.find? fun e => decide (e.parity = d.parity)) = some d → s.layout.moving = false →
    (d.full = false → exec (.parityDeltaApply d.parity) s = .next { s with
      deltas := s.deltas.filter fun e => decide (e.uid ≠ d.uid ∨ e.blk ≠ d.blk) }) ∧
    (d.full = true → (∀ m ∈ (s.cell d.cell).se.queue, m.uid ≠ d.cmd) → exec (.parityDeltaApply d.parity) s = .next { s with
      deltas := s.deltas.filter fun e => decide (¬ (e.full = true ∧ e.cmd = d.cmd ∧ e.parity = d.parity)) }))

namespace Sys2Proof.Machine

/-- An atomic on w bits: the new value and ST (R234). -/
def atomRule {w : Nat} (o : AtOp) (sgn : Bool) (old v x : BitVec w) : BitVec w × Bool :=
  match o with
  | .add => (old + v, true)
  | .inc => (if v ≤ old then 0 else old + 1, true)
  | .badd => if old ≤ x ∧ v ≤ x - old then (old + v, true) else (old, false)
  | .cas => if old = x then (v, true) else (old, false)
  | .swp => (v, true)
  | .min => (if (if sgn then v.slt old else v.ult old) then v else old, true)
  | .max => (if (if sgn then old.slt v else old.ult v) then v else old, true)
  | .and => (old &&& v, true)
  | .or => (old ||| v, true)
  | .xor => (old ^^^ v, true)
  | .snap => (0, true)

/-- The members' shares of a claim round: lane k is the ring's CLAIMED before the round and the counts of the members below
(R236). -/
def claimShare (g : Gang) (parts : List (CellId × YOp)) (old : List (BitVec 32)) (n : Nat) (c : CellId) : Row :=
  mkRow fun k =>
    let below := parts.filter fun q => decide (g.member q.1 < g.member c)
    if k < n then old.getD k 0 + BitVec.ofNat 32 (below.map fun q => (lane (roundCounts q.2) k).toNat).sum else 0

end Sys2Proof.Machine

/-- At the home agents: an atomic on a routing counter gives the counter R234's new value and returns the old one with ST; a
phaser is registered with and arrived at, the last arrival completing the phase; a claim round gives every member its share;
returns arrive in order of issue; an atomic whose page moved goes to the new home; a line of the sync engine is written back; and, under
the freeze that covers them, Crema's spills, refills and parked registers move (R57, R68, R70, R93–R95, R231, R234, R236). -/
def Obligations.HomeEventsComplete : Prop :=
  (∀ (s : State) (c : CellId) (op : YOp) (o : AtOp) (n : Nat) (sgn : Bool) (val x off : Word) (tid : BitVec 12),
    (s.cell c).ypOp op.uid = some op → s.ypReady c op = true →
    op.kind = .atom o (.ctr (s.gangOf c).asid n) false sgn val x false tid off → (s.counter (s.gangOf c).asid n).2 = false →
    let old := (s.counter (s.gangOf c).asid n).1
    ∃ t, exec (.atomicPerform c op.uid) s = .next t ∧ t.counter (s.gangOf c).asid n = ((atomRule o sgn old val x).1, false) ∧
      (∀ a k, (a ≠ (s.gangOf c).asid ∨ k ≠ n) → t.counter a k = s.counter a k) ∧
      (t.cell c).ord.yp = (s.cell c).ord.yp.filter (fun p => decide (p.uid ≠ op.uid)) ∧
      (t.cell c).q.yq = (s.cell c).q.yq.map (fun e => if e.uid = op.uid then
        { e with performed := true, data := old, st := (atomRule o sgn old val x).2, tag := false, claim := none } else e) ∧
      ∀ a, t.byte a = s.byte a) ∧
  (∀ (s : State) (c : CellId) (op : YOp) (n : Nat), (s.cell c).ypOp op.uid = some op → s.ypReady c op = true →
    let p := s.phaser (s.gangOf c).asid n
    p.poisoned = false →
    (op.kind = .phreg n → (p.parties.any fun e => e.1 == c) = false →
      ∃ t, exec (.phaserPerform c op.uid) s = .next t ∧
        t.phaser (s.gangOf c).asid n = { p with parties := p.parties ++ [(c, false)] } ∧
        (t.cell c).ord.yp = (s.cell c).ord.yp.filter (fun o => decide (o.uid ≠ op.uid))) ∧
    (op.kind = .pharv n → (c, false) ∈ p.parties → (∀ e ∈ p.parties, e.1 ≠ c → e.2 = true) →
      ∃ t, exec (.phaserPerform c op.uid) s = .next t ∧
        t.phaser (s.gangOf c).asid n = { p with phase := p.phase + 1, parties := p.parties.map fun e => (e.1, false) } ∧
        (t.cell c).ord.yp = (s.cell c).ord.yp.filter (fun o => decide (o.uid ≠ op.uid)))) ∧
  (∀ (s u : State) (g : GangId) (tick n : Nat) (p0 : CellId × YOp) (parts : List (CellId × YOp)) (d : Fin 4) (cs table : Row)
      (act : Bool) (old : List (BitVec 32)),
    s.roundParts g tick = some (p0 :: parts) → p0.2.kind = .yclm n d cs table act →
    claimLanes (s.gang g) (p0 :: parts) table n 0 s = .ok (u, old) →
    let give (v : State) (p : CellId × YOp) : State := match p.2.kind with
      | .yclm _ e counts _ true => v.yqReturn p.1 p.2.uid (BitVec.ofNat 64 ((List.range n).map fun k => (lane counts k).toNat).sum)
          true false (some (e, claimShare (s.gang g) (p0 :: parts) old n p.1))
      | _ => v
    exec (.yarrowRound g tick) s = .next ((p0 :: parts).foldl give ((p0 :: parts).foldl (fun v p => v.dropYp p.1 p.2.uid) u))) ∧
  (∀ (s : State) (c : CellId) (pre post : List YEntry) (e : YEntry), (∀ r ∈ (s.cell c).q.yRet, r.arrived = true) →
    (s.cell c).q.yq = pre ++ e :: post → (∀ r ∈ pre, r.arrived = true) → e.arrived = false → e.performed = true →
    exec (.yqReturnArrival c) s = .next (s.setCell c { s.cell c with
      q := { (s.cell c).q with yq := pre ++ { e with arrived := true } :: post } })) ∧
  (∀ (s : State) (c : CellId) (op : YOp) (o : AtOp) (v : SyncVar) (w32 sgn : Bool) (val x off : Word) (tag : Bool)
      (tid : BitVec 12) (p : Page) (a : Nat),
    (s.moved.find? fun m => m.1 == c && decide (m.2.uid = op.uid)) = some (c, op) → op.kind = .atom o v w32 sgn val x tag tid off →
    s.freshVar c tid off.toNat (if w32 then 4 else 8) = .ok (p, a) →
    let again : YOp := { op with kind := .atom o (.mem (p.addr a)) w32 sgn val x tag tid off, again := true }
    exec (.movedReissue c op.uid) s = .next { s.setCell c { s.cell c with
        ord := { (s.cell c).ord with yp := again :: (s.cell c).ord.yp } } with
      moved := s.moved.filter fun m => decide (m.2.uid ≠ op.uid) }) ∧
  (∀ (s : State) (l : SyncLine), s.lineAt l.line = some l → l.dirty = true → s.canonical = true →
    ∃ t, exec (.lineWriteback l.die l.line) s = .next t ∧ t.lines = s.lines.filter (fun m => decide (m.line ≠ l.line)) ∧
      (∀ i < 64, t.byte (64 * l.line + i) = l.bits.extractLsb' (8 * i) 8) ∧ ∀ a, a / 64 ≠ l.line → t.byte a = s.byte a) ∧
  (∀ (s t : State) (c : CellId) (w : CremaWork) (e : Nat) (rows : SlotRows) (tags : SlotTags),
    (s.gangOf c).frozen = true → w.due ≤ (s.gangOf c).tick → s.spillHeld c true = none →
    (s.cell c).work CremaMove.isSpill = some w → w.move = .spill e rows tags → State.spillWrite c e rows tags 512 s = .ok t →
    ∃ u, exec (.cremaSpill c) s = .next u ∧ u.mem = t.mem ∧ (∀ d, d ≠ c → u.cell d = t.cell d) ∧
      (u.cell c).cr.moving.length + 1 = (t.cell c).cr.moving.length) ∧
  (∀ (s : State) (c : CellId) (w : CremaWork) (k : Key), (s.gangOf c).frozen = true → w.due ≤ (s.gangOf c).tick →
    s.spillHeld c false = none → (s.cell c).work CremaMove.isFill = some w → w.move = .fill k →
    ∃ u, exec (.cremaFill c) s = .next u ∧ s.OneCell u c ∧ (u.cell c).cr.moving.length + 1 = (s.cell c).cr.moving.length) ∧
  (∀ (s t : State) (c : CellId) (w : CremaWork) (p : Nat) (v : Row) (tags : BitVec 64),
    (s.gangOf c).frozen = true → w.due ≤ (s.gangOf c).tick → s.spillHeld c true = none →
    (s.cell c).work CremaMove.isPark = some w → w.move = .park p v tags → s.spillPut c (256 * p) v (tags != 0) = .ok t →
    ∃ u, exec (.parkedRegisterMove c) s = .next u ∧ u.mem = t.mem ∧ (∀ d, d ≠ c → u.cell d = t.cell d))

namespace Sys2Proof.Machine

/-! ## Events of the scheduler and of saves -/

/-- A cell that its gang has left: free, its last ASID noted, its scratchpad kept (R17). -/
def Freed (x y : Cell) (asid : BitVec 10) : Prop :=
  y.busy = false ∧ y.lastAsid = some asid ∧ y.sp = x.sp ∧ y.spTag = x.spTag ∧ y.flight = [] ∧ y.cc = Cc.reset

end Sys2Proof.Machine

/-- The scheduler: a finished tile task is counted and frees its cells; a completed node is released and gives its event; an
accepted graph is copied under a new handle; the dispatcher places the candidate's head on the first rectangle that fits and
charges its queue; a started task stands at its entry with its indices and arguments; a quantum that nobody presses runs on
charged; and ballast goes after 20 µs (R17, R32, R146, R148, R150–R152, R157–R159). -/
def Obligations.SchedulerEventsComplete : Prop :=
  (∀ (s : State) (g : GangId), s.taskDone g = true →
    let x := s.gang g
    let count (n : Node) : Node := { n with doneCount := n.doneCount + 1, completing := decide (n.doneCount + 1 = n.total), mark := s.uid }
    ∃ t, exec (.tileTaskComplete g) s = .next t ∧ (t.gang g).status = .idle ∧
      (∀ c ∈ x.cells, Freed (s.cell c) (t.cell c) x.asid) ∧ (∀ c, c ∉ x.cells → t.cell c = s.cell c) ∧
      t.nodeAt x.graph x.node = (s.nodeAt x.graph x.node).map count ∧ ∀ a, t.byte a = s.byte a) ∧
  (∀ (s : State) (h : Graph) (i : Nat) (n : Node), (s.graphs.find? fun g => decide (g.handle = h.handle)) = some h →
    h.nodes[i]? = some n → n.completing = true → n.done = false → n.sent = none → s.released n = true → n.awen = false → n.succ = [] →
    ∃ t, exec (.nodeCompletion h.handle i) s = .next t ∧ t.nodeAt h.handle i = some { n with done := true } ∧
      t.outbox = s.outbox ++ (if n.even then [.nodeEvent h.handle i n.evcode] else []) ∧ ∀ a, t.byte a = s.byte a) ∧
  (∀ (s : State) (asid : BitVec 10) (tid : BitVec 12) (off hd : Nat) (ws : List Nat), s.graphWords asid tid off = .ok (hd, ws) →
    hd % 65536 ≠ 0 → hd / 65536 = 0 →
    (∀ i < ws.length, s.nodeRefusal asid (ws.map nodeOf) ws i = none) → (∀ n ∈ ws.map nodeOf, n.total ≠ 0) →
    (∀ g ∈ s.graphs, g.handle ≠ s.uid) →
    ∃ t, exec (.graphSubmit asid tid off) s = .next t ∧ t.outbox = s.outbox ++ [.accepted s.uid] ∧
      t.graphs = s.graphs ++ [⟨s.uid, asid, (ws.map nodeOf).mapIdx fun i n => { n with indeg := indegree (ws.map nodeOf) i }⟩] ∧
      ∀ a, t.byte a = s.byte a) ∧
  (∀ (s : State) (q : Fin 64) (r : Ready) (rest : List Ready) (x : Head) (o : CellId) (cells : List CellId), s.emergency = false →
    let u := s.returnDeferred
    u.cand = some q → u.queues[q].ready = r :: rest → u.headOf r = some x → u.eligible x = true →
    u.place r x.glog = some (o, cells) → (u.dispatch q r x o cells).cand = none →
    ∃ t, exec .dispatcherRun s = .next t ∧ (t.gang o).status = .starting ∧ (t.gang o).cells = cells ∧
      (∀ c ∈ cells, (t.cell c).busy = true ∧ (t.cell c).gang = o) ∧ (∀ c, c ∉ cells → t.cell c = s.cell c) ∧
      (t.queues[q]).pass =
        ((u.queues[q]).pass + 2 ^ 20 / u.queues[q].tickets * ((u.queues[q].quant * 2 ^ x.glog + 127) / 128)) % 2 ^ 64) ∧
  (∀ (s : State) (g : GangId), ((s.gang g).status = .running ∨ (s.gang g).status = .ending) → (s.gang g).saveFor = none →
    (s.gang g).startAt + 1900 * (s.queues[(s.gang g).queue]).quant ≤ s.wall → s.pressed (s.classOf (s.gang g)) = false →
    let q := s.queues[(s.gang g).queue]
    let more := q.charge (s.gang g).size
    let charged : SQueue := if q.deferred then { q with owed := q.owed + more } else { q with pass := (q.pass + more) % 2 ^ 64 }
    exec (.quantumExpiry g) s = .next ({ s with queues := s.queues.set (s.gang g).queue charged }.setGang g
      { s.gang g with quantum := (s.gang g).quantum + more, startAt := (s.gang g).startAt + 1900 * q.quant })) ∧
  (∀ (s : State) (g : GangId) (n : Node) (p : Binary × Nat × Variant × List InitEntry), (s.gang g).status = .starting →
    (s.gang g).image = 0 → s.tooLate g = false → s.rampAllows (s.gang g).cells ((s.gang g).avg * (s.gang g).size) = true →
    s.nodeAt (s.gang g).graph (s.gang g).node = some n → s.startCheck (s.gang g).asid n = .ok p →
    ∃ t, exec (.tileTaskStart g) s = .next t ∧ (t.gang g).status = .running ∧ (t.gang g).tick = (s.gang g).tick ∧
      (∀ c ∈ (s.gang g).cells,
        let y := t.cell c
        y.busy = true ∧ y.gang = g ∧ (y.engine .cc).pc = some p.1.k.entry ∧
        y.cc.greg 13 = BitVec.ofNat 64 ((s.gang g).inst % n.n0) ∧
        y.cc.greg 14 = BitVec.ofNat 64 ((s.gang g).inst / n.n0 % n.n1) ∧
        y.cc.greg 15 = BitVec.ofNat 64 ((s.gang g).inst / (n.n0 * n.n1)) ∧
        ∀ k : Fin 16, y.cc.greg (Fin.ofNat 32 (16 + k.val)) = n.arg[k]) ∧
      ∀ a, t.byte a = s.byte a) ∧
  (∀ (s : State) (b : CellId × Nat × Nat), b ∈ s.power.ballast → b.2.2 + 38000 ≤ s.wall → s.power.noBallast = false →
    ∃ t, exec .ballastDecay s = .next t ∧ t.power.ballast = s.power.ballast.filter fun e => decide (s.wall < e.2.2 + 38000))

/-- Saves: a request asks for the pre-emption freeze; at the stop the gang is being saved and its image open; the write-out holds
every member, the header after them; the commit record is written, and once it is protected the cells are free; a committed image resumes at the stopped tick on its new cells, or leaves for
another device, returns to its queue, is killed, or is pinned; a write held for it is performed; and a killed context's cells are
free and the host is told (R161–R170, R346, R390–R392). -/
def Obligations.SaveEventsComplete : Prop :=
  (∀ (s : State) (g : GangId) (why : SaveCause), ((s.gang g).status = .running ∨ (s.gang g).status = .ending) →
    (s.gang g).saveFor = none → (s.gang g).frozen = false →
    exec (.saveRequest g why) s = .next (s.setGang g { s.gang g with
      saveFor := some why, reqs := (s.gang g).reqs ++ [⟨(s.gang g).tick + 1 + (s.gang g).dstall, .preempt⟩] })) ∧
  (∀ (s : State) (g : GangId), s.stopDue g = true →
    ∃ t, exec (.preemptionStop g) s = .next t ∧ (t.gang g).status = .saving 1 ∧ (t.gang g).savecnt = (s.gang g).savecnt + 1 ∧
      ∃ i ∈ t.images, i.id = (t.gang g).image ∧ i.active = true ∧ i.committed = false) ∧
  (∀ (s : State) (g : GangId) (i : Image), (s.images.find? fun j => decide (j.id = (s.gang g).image)) = some i →
    ((s.gang g).status = .saving 1 → (∀ c ∈ (s.gang g).cells, s.quietCell g c = true) →
      ∃ t, exec (.imageWriteout g) s = .next t ∧ (t.gang g).status = .saving 2 ∧ (∀ d, t.cell d = s.cell d) ∧
        ∃ j ∈ t.images, j.id = i.id ∧ j.committed = i.committed ∧
          ∀ m < (s.gang g).size, ∀ c, (s.gang g).cellAt m = some c → j.members[m]? = some (s.cell c).cleanTiles) ∧
    ((s.gang g).status = .saving 2 →
      ∃ t, exec (.imageWriteout g) s = .next t ∧ (t.gang g).status = .saving 3 ∧ (∀ d, t.cell d = s.cell d) ∧
        ∃ j ∈ t.images, j.id = i.id ∧ j.later = [] ∧ j.blocks = i.later ++ i.blocks ∧ j.members = i.members) ∧
    ((s.gang g).status = .saving 3 → badControl i.marks = none →
      ∃ t, exec (.commitRecord g) s = .next t ∧ (t.gang g).status = .saving 4 ∧ (∀ d, t.cell d = s.cell d) ∧
        ∃ j ∈ t.images, j.id = i.id ∧ j.committed = i.committed ∧ j.members = i.members) ∧
    ((s.gang g).status = .saving 4 → (∀ d ∈ s.deltas, d.blk ≠ i.commitBlock) → i.lost = false → (s.gang g).killSeq = none →
      ∃ t, exec (.commitRecord g) s = .next t ∧ (t.gang g).status = .idle ∧ (∀ c ∈ (s.gang g).cells, (t.cell c).busy = false) ∧
        ∃ j ∈ t.images, j.id = i.id ∧ j.committed = true ∧ j.members = i.members)) ∧
  (∀ (s : State) (img : Nat) (w : FWrite) (i : Image), (∃ m r, w.loc = .img img m r) →
    (s.fabric.find? fun v => match v.loc with
      | .img id _ _ => decide (id = img)
      | _ => false) = some w → s.images = [i] → i.id = img → i.committed = true →
    exec (.inboundToImage img) s = .next (s.performWrite w)) ∧
  (∀ (s : State) (g : GangId) (i : Image) (v : Nat × Variant), s.placedFor i.id = some g →
    (s.images.find? fun j => decide (j.id = i.id)) = some i → i.committed = true →
    s.imageBusy i.id = false → s.rampAllows (s.gang g).cells ((s.gang g).avg * (s.gang g).size) = true → s.resumeCheck i = .ok v →
    ∃ t, exec (.resume i.id) s = .next t ∧ (t.gang g).cells = (s.gang g).cells ∧ (t.gang g).tick = i.gang.tick ∧
      (t.gang g).status = i.gang.status ∧ (t.gang g).frozen = true) ∧
  (∀ (s : State) (i : Image), s.image i.id = some i → i.committed = true → i.active = true → s.placedFor i.id = none →
    s.emergency = false → i.pinned = false →
    exec (.exportImage i.id) s = .next ((s.emit (.imageSent i.id true)).discardImage i.id)) ∧
  (∀ (s : State) (i : Image), s.image i.id = some i → i.committed = true → i.hostHeld = true →
    ∃ t, exec (.returnTask i.id) s = .next t ∧ (t.queues[i.gang.queue]).ready = .saved i.id :: (s.queues[i.gang.queue]).ready ∧
      t.image i.id = some { i with hostHeld := false, active := true } ∧ ∀ d, t.cell d = s.cell d) ∧
  (∀ (s : State) (i : Image), s.image i.id = some i → i.active = true → (i.hostHeld = true ∨ i.refused = true) →
    (∀ p ∈ i.gang.faults, p.written = true) → ∃ t, exec (.killTask i.id) s = .next t ∧ t.image i.id = none ∧
      t.outbox = s.outbox ++ [.killedTask i.gang.graph i.gang.node s.logSeq] ∧ ∀ d, t.cell d = s.cell d) ∧
  (∀ (s : State) (i : Image), s.image i.id = some i →
    ∃ t, exec (.pinRegion i.id) s = .next t ∧ t.image i.id = some { i with pinned := true } ∧ ∀ d, t.cell d = s.cell d) ∧
  (∀ (s : State) (g : GangId) (n : Nat), ((s.gang g).status = .running ∨ (s.gang g).status = .ending) → (s.gang g).frozen = true →
    (s.gang g).killSeq = some n →
    ∃ t, exec (.killContext g) s = .next t ∧ (t.gang g).status = .idle ∧
      ((∀ c ∈ (s.gang g).cells, (s.cell c).se.queue = []) → ∀ c ∈ (s.gang g).cells, (t.cell c).busy = false) ∧
      t.outbox.getLast? = some (.killedTask (s.gang g).graph (s.gang g).node n))

namespace Sys2Proof.Machine

/-! ## Requests from outside -/

end Sys2Proof.Machine

/-- Registers of system software: QCFG, PWRCFG, FUNCMODE, PORTCFG and the board limit take their fields clamped as the manual
says; a monitor unit is configured, counts a sample once with its extremes, sum and bin, is read, and is read and cleared in one
step; and a management write takes effect or is refused (R149, R155, R182, R187, R191, R194, R195). -/
def Obligations.RegisterWritesComplete : Prop :=
  (∀ (s : State) (q : Fin 64) (v : BitVec 64), ∃ t, exec (.qcfgWrite q v) s = .next t ∧
    t.queues[q] = { s.queues[q] with
      tickets := (v.extractLsb' 0 16).toNat
      quant := max 100 (min (v.extractLsb' 16 20).toNat 1000000)
      cls := (v.extractLsb' 36 2).toNat
      en := v.getLsbD 38 } ∧
    (∀ p, p ≠ q → t.queues[p] = s.queues[p]) ∧ (∀ c, t.cell c = s.cell c) ∧ ∀ a, t.byte a = s.byte a) ∧
  (∀ (s : State) (v : BitVec 64), ∃ t, exec (.pwrcfgWrite v) s = .next t ∧
    t.power = { s.power with budget := min (v.extractLsb' 0 24).toNat 2600000, rampup := max 1 (v.extractLsb' 24 16).toNat } ∧
    (∀ c, t.cell c = s.cell c) ∧ ∀ a, t.byte a = s.byte a) ∧
  (∀ (s : State) (v : BitVec 64), ∃ w, exec (.funcmodeWrite v) s = .next { s with funcmode := w } ∧
    (∀ i < 6, w.extractLsb' (2 * i) 2 = if v.extractLsb' (2 * i) 2 = 3 then 0 else v.extractLsb' (2 * i) 2) ∧
    (∀ i, 6 ≤ i → i < 8 → w.extractLsb' (2 * i) 2 = if (v.extractLsb' (2 * i) 2).toNat < 2 then v.extractLsb' (2 * i) 2 else 1) ∧
    w.extractLsb' 16 48 = 0) ∧
  (∀ (s : State) (p : Fin 2) (v : BitVec 64), (v.extractLsb' 0 2).toNat = s.ports[p].split → (v.extractLsb' 0 2).toNat ≠ 3 →
    exec (.portcfgWrite p v) s = .next { s with
      ports := s.ports.set p { split := s.ports[p].split, ptpen := v.getLsbD 2, mgmt := v.getLsbD 3 } }) ∧
  (∀ (s : State) (mw : Nat), ∃ t, exec (.setlim mw) s = .next t ∧ t.power = { s.power with blim := min mw 2600000 } ∧
    t.outbox.getLast? = some .done ∧ (∀ c, t.cell c = s.cell c) ∧ ∀ a, t.byte a = s.byte a) ∧
  (∀ (s : State) (m : Fin 64) (v : BitVec 64), exec (.monitorConfigWrite m v) s = .next { s with
    monitors := s.monitors.set m { s.monitors[m] with
      src := (v.extractLsb' 0 4).toNat
      shift := (v.extractLsb' 4 5).toNat
      cell := (v.extractLsb' 9 7).toNat
      allc := v.getLsbD 16
      asid := v.extractLsb' 17 10
      alla := v.getLsbD 27
      en := v.getLsbD 28 } }) ∧
  (∀ (s : State) (src : BitVec 4) (c : CellId) (asid : BitVec 10) (v : Nat) (m : Fin 64), ∃ t,
    exec (.monitorSample src c asid v) s = .next t ∧ { t with monitors := s.monitors } = s ∧
    let u := s.monitors[m]
    let counts := u.en = true ∧ u.src = src.toNat ∧ src.toNat < 10 ∧ (u.allc = true ∨ u.cell = c.val) ∧ (u.alla = true ∨ u.asid = asid)
    (¬ counts → t.monitors[m] = u) ∧
    (counts → t.monitors[m].min = min u.min (min v (2 ^ 32 - 1)) ∧ t.monitors[m].max = max u.max (min v (2 ^ 32 - 1)) ∧
      t.monitors[m].count = (u.count + 1) % 2 ^ 48 ∧ t.monitors[m].sum = min (u.sum + v) (2 ^ 64 - 1) ∧
      ∀ b : Fin 32, t.monitors[m].bins[b] = if (b.val = 0 ∧ v < 2 ^ u.shift) ∨
          (1 ≤ b.val ∧ b.val < 31 ∧ 2 ^ (u.shift + b.val - 1) ≤ v ∧ v < 2 ^ (u.shift + b.val)) ∨ (b.val = 31 ∧ 2 ^ (u.shift + 30) ≤ v)
        then min (u.bins[b] + 1) (2 ^ 32 - 1) else u.bins[b])) ∧
  (∀ (s : State) (m : Fin 64), exec (.monitorRead m) s = .next (s.emit (.monitor m.val s.monitors[m]))) ∧
  (∀ (s : State) (m : Fin 64), exec (.monitorReadAndClear m) s = .next (({ s with monitors := s.monitors.set m { s.monitors[m] with
      min := 2 ^ 32 - 1, max := 0, count := 0, sum := 0, bins := Vector.replicate 32 0 } } : State).emit (.monitor m.val s.monitors[m]))) ∧
  (∀ (s : State) (d : BitVec 12), exec (.mgmtRegisterWrite (.selfdev d)) s = .next (({ s with selfdev := d } : State).emit .done)) ∧
  (∀ (s : State) (ms : Nat), exec (.mgmtRegisterWrite (.forwardingTimeout ms)) s =
    .next (if 1 ≤ ms ∧ ms ≤ 1000 then ({ s with fwdMs := ms } : State).emit .done else s.emit .refusedRequest))

/-- Sessions, SPDM and the board link: what each request answers, and the sessions it leaves (R187, R190, R193). -/
def Obligations.SessionEventsComplete : Prop :=
  (∀ s : State, exec .getVersion s = .next (s.emit .versions) ∧ exec .getCapabilities s = .next (s.emit .capabilities) ∧
    (∀ a b, ∃ t, exec (.negotiateAlgorithms a b) s = .next t ∧
      t.outbox = s.outbox ++ [if a && b then .algorithms else .refusedRequest] ∧ (∀ c, t.cell c = s.cell c) ∧
      (∀ k, (s.asker, k) ∈ t.spdm ↔ k = if a && b then 1 else 2) ∧ ∀ d k, d ≠ s.asker → ((d, k) ∈ t.spdm ↔ (d, k) ∈ s.spdm)) ∧
    ((s.asker, 2) ∉ s.spdm →
      (exec .getDigests s = .next ((s.emit (.crypto 0 0 (Config.crypto 0 0))).emit (.crypto 0 1 (Config.crypto 0 1)))) ∧
      (∀ k < 2, exec (.getCertificate k) s = .next (s.emit (.crypto 1 k (Config.crypto 1 k)))) ∧
      (∀ x, exec (.challenge x) s = .next (s.emit (.crypto 2 x.toNat (Config.crypto 2 x.toNat)))) ∧
      (∀ i, 1 ≤ i → i ≤ 6 → ∃ v, exec (.getMeasurements i) s = .next (s.emit (.crypto (2 + i) v (Config.crypto (2 + i) v))))) ∧
    ((s.asker, 2) ∈ s.spdm →
      ∀ i ∈ [.getDigests, .getCertificate 0, .challenge 0, .getMeasurements 1],
        exec i s = .next (s.emit .refusedRequest)) ∧
    (∀ client, (client, 1) ∈ s.spdm → ∃ t sub, exec (.keyExchange client true) s = .next t ∧
      t.sessions = s.sessions ++ [⟨s.uid, client, false, sub, []⟩] ∧ t.outbox = s.outbox ++ [.sessionOpen s.uid]) ∧
    (∀ x ∈ s.sessions, x.secured = false →
      exec (.finish x.id true) s = .next (({ s with
        sessions := s.sessions.map fun y => if y.id = x.id then { y with secured := true } else y } : State).emit .done)) ∧
    (∀ x ∈ s.sessions, (∀ g, (s.gang g).owner ≠ some x.id) →
      exec (.endSession x.id) s = .next (({ s with sessions := s.sessions.filter fun y => decide (y.id ≠ x.id) } : State).emit .done)) ∧
    (∀ id g, (∀ h, (s.gang h).owner = some id ↔ h = g) → (s.gang g).frozen = false →
      ∃ t, exec (.sessionEnd id) s = .next t ∧ t.sessions = s.sessions.filter (fun y => decide (y.id ≠ id)) ∧
        t.gang g = { s.gang g with owner := none, reqs := (s.gang g).reqs.filter fun r => decide (r.cond ≠ .debug) }) ∧
    (∃ t a b p, exec .telem s = .next t ∧ t.outbox = s.outbox ++ [.telem a b p s.stage] ∧ ∀ c, t.cell c = s.cell c) ∧
    exec .status s = .next (s.emit (.status s.stage s.clock.locked s.layout.mode
      (if s.power.clamp then 2 else if s.power.hot95.any id then 1 else 0))) ∧
    (s.powered = true → exec .reset s = .next { State.reset with
      pickCtr := s.pickCtr, freeCtr := s.freeCtr, inputs := s.inputs, imports := s.imports, upsets := s.upsets, outbox := s.outbox, boot := s.boot,
      stage := if s.boot.isSome then 1 else 0 }) ∧
    (∀ code : BitVec 8, code.toNat = 0 ∨ 5 ≤ code.toNat → exec (.mctpUnknownCommand code) s = .next (s.emit (.errorCompletion code))) ∧
    exec .getVendorDefinedMessageSupport s = .next (s.emit (.vendor Config.enterpriseNumber)))

/-- The debug server: a stop request; a read of a stopped gang's register; a write that waits for the release; a breakpoint set
and cleared in the text and in every cell's table; and releases, a step stopping again max(n, Dstall) ticks on
(R192, R218, R367, R368). -/
def Obligations.DebugEventsComplete : Prop :=
  (∀ (s : State) (sess : Nat) (g : GangId), s.mayChange sess g = true → ((s.gang g).status = .running ∨ (s.gang g).status = .ending) →
    (s.gang g).frozen = false →
    exec (.debugStop sess g) s = .next ((s.setGang g { s.gang g with
      owner := some sess, reqs := (s.gang g).reqs ++ [⟨(s.gang g).tick + 1 + (s.gang g).dstall, .debug⟩] }).emit .done)) ∧
  (∀ (s : State) (sess m : Nat) (g : GangId) (c : CellId), s.serves sess g = true → (s.gang g).stopped = true →
    (s.gang g).cellAt m = some c →
    (∀ n, exec (.stateRead sess g m (.g n)) s = .next (s.emit (.stateValue ((s.cell c).cc.greg n).toNat))) ∧
    (∀ a < 6291456, exec (.stateRead sess g m (.spByte a)) s = .next (s.emit (.stateValue
      (((s.cell c).row (a / 256)).extractLsb' (8 * (a % 256)) 8).toNat))) ∧
    (∀ n v, s.mayChange sess g = true → (s.gang g).owner = some sess →
      exec (.stateWrite sess g m (.g n) v) s = .next ((s.setGang g { s.gang g with
        writes := (s.gang g).writes ++ [(m, .g n, v)] }).emit .done)) ∧
    (∀ e v, exec (.stateWrite sess g m (.pc e) v) s = .next (s.emit .refusedRequest))) ∧
  (∀ (s : State) (sess off : Nat) (g : GangId) (idx : Fin 8) (w : RecordBits) (a : Nat), s.textWord g off = some w →
    s.textAddr (s.gang g) off = some a → s.mayChange sess g = true → s.brkOf g idx = none → w.toNat % 2048 ≠ 24 →
    ∃ t, exec (.setBreakpoint sess g off idx) s = .next t ∧ (t.gang g).owner = some sess ∧ t.outbox = s.outbox ++ [.done] ∧
      (∀ c ∈ (s.gang g).cells, (t.cell c).sq.brk[idx] = some (off, w)) ∧
      t.mem = (s.devWriteIn a (recSize (s.gang g).encgen) (brkBits (s.gang g).encgen w idx)).mem) ∧
  (∀ (s : State) (sess off : Nat) (g : GangId) (idx : Fin 8) (w : RecordBits) (a : Nat), s.brkOf g idx = some (off, w) →
    s.textAddr (s.gang g) off = some a → s.mayChange sess g = true →
    ∃ t, exec (.clearBreakpoint sess g idx) s = .next t ∧ t.outbox = s.outbox ++ [.done] ∧
      t.mem = (s.devWriteIn a (recSize (s.gang g).encgen) w.toNat).mem ∧
      ∀ c ∈ (s.gang g).cells, if (s.gang g).frozen then (t.cell c).sq.brk[idx] = none
        else (t.cell c).sq.brkGone.getLsbD idx.val = true) ∧
  (∀ (s : State) (sess : Nat) (g : GangId), s.mayRelease sess g = true → (s.gang g).faults = [] →
    let left := (s.gang g).reqs.filter fun r => decide (r.cond ≠ .debug ∨ (s.gang g).tick < r.due)
    exec (.debugResume sess g) s = .next ((s.setGang g { s.gang g with reqs := left }).emit .done) ∧
    ∀ n, let stop := (s.gang g).tick + max n (s.gang g).dstall
      exec (.debugStep sess g n) s = .next ((s.setGang g { s.gang g with reqs := left ++ [⟨stop, .debug⟩] }).emit (.stepped stop)))

namespace Sys2Proof.Machine

/-! ## Events of the board, the fabric and the memories -/

/-- Does exactly one record enter the log, of a class and severity? -/
def State.Logs (s t : State) (cls sev : Nat) : Prop :=
  ∃ r : ErrRec, r.cls = cls ∧ r.sev = sev ∧ t.logSeq = s.logSeq + 1 ∧
    t.log = s.log ++ [⟨s.logSeq, r.bits (r.tns.getD (s.clock.time.extractLsb' 16 64)) s.drop s.logSeq, decide (sev = 3)⟩]

end Sys2Proof.Machine

/-- The board: boot goes stage by stage, leaving the signature at stage 4 and the layout state at stage 5, or halts where it fails; a droop
stretch counts twice and lengthens the cycle; the 65th
stretch of a window doubles the root divider, and a calm one halves it; the frequency steps by 25 MHz toward its goal; slip
withholds the far cell, and on the bridge halts the device; the thermal responses are recorded once, the clamp dividing by 4 and
starting the emergency save; power lost keeps nothing; a link's change is recorded; and TIME's input and lock follow their
measurements (R174, R175, R179, R181, R184, R185, R188, R394, R395, R397–R401). -/
def Obligations.BoardEventsComplete : Prop :=
  (∀ (s : State) (b : BootInput), s.bootHalt = false →
    (s.boot = none → s.stage = 0 → exec (.powerOn b) s = .next { s.coldReset with boot := some b, stage := 1 }) ∧
    ∀ k, s.boot = some k → 1 ≤ s.stage → s.stage ≤ 6 →
      let fails := k.failStage = s.stage ∨ (s.stage = 1 ∧ (badSignature k.signature = true ∨ objectVerifies k.record k.revoked = false)) ∨
        (s.stage = 3 ∧ objectVerifies k.image k.revoked = false)
      (fails → exec (.powerOn b) s = .next { s with bootHalt := true }) ∧
      (¬ fails → ∃ t, exec (.powerOn b) s = .next t ∧ t.stage = s.stage + 1 ∧ t.bootHalt = false ∧
        (s.stage < 6 → { t with signature := s.signature, layout := s.layout, stage := s.stage } = s) ∧
        (s.stage = 4 → t.signature = bootSigns k) ∧ (s.stage ≠ 4 → t.signature = s.signature) ∧
        (s.stage = 5 → ∀ lost, k.lost = some lost → t.layout = { s.layout with mode := 1, lost := lost }) ∧
        (s.stage ≠ 5 ∨ k.lost = none → t.layout = s.layout))) ∧
  (∀ (s : State) (c : CellId), s.ballasted c = false →
    let p := s.power
    let l := ((p.stretchAt.get (dieOf c)).filter fun n => decide (p.refs < n + 2048)) ++ [p.refs, p.refs]
    ∃ t, exec (.droopStretch c) s = .next t ∧ { t with monitors := s.monitors } =
      { s with power := { p with stretchAt := p.stretchAt.set (dieOf c) l, acc := p.acc + 1900 * p.rootDiv } }) ∧
  (∀ (s : State) (d : Fin 2), 65 ≤ (s.power.stretches d).length → s.power.rootDiv < 4 → s.log.length < 65280 →
    ∃ t, exec (.forcedSlowDown d) s = .next t ∧ t.power.rootDiv = 2 * s.power.rootDiv ∧
      t.power.stretchAt.get d = (s.power.stretches d).drop 65 ∧
      s.Logs t 0x30 0) ∧
  (∀ s : State, 1 < s.power.rootDiv → s.power.clamp = false → s.power.calmSince + 950000 ≤ s.wall → s.log.length < 65280 →
    ∃ t, exec .slowDownReturn s = .next t ∧ t.power.rootDiv = s.power.rootDiv / 2 ∧ s.Logs t 0x30 0) ∧
  (∀ s : State, s.heading ≠ s.power.freq → s.power.lastStep + 1900 ≤ s.wall →
    exec .frequencyStep s = .next { s with power := { s.power with
      freq := if s.power.freq < s.heading then s.power.freq + 25 else s.power.freq - 25, lastStep := s.wall } }) ∧
  (∀ s : State, s.log.length < 65280 →
    (∃ t, exec (.slipDetected .bridge) s = .next t ∧ s.Logs t 0x3F 3 ∧ t.halted = true) ∧
    ∀ c, (s.cell c).busy = false → ∃ t, exec (.slipDetected (.hop c)) s = .next t ∧ s.Logs t 0x31 2 ∧ c ∈ t.withheld ∧
      ∀ d, t.cell d = s.cell d) ∧
  (∀ (s : State) (d : Fin 2) (tj : Nat), s.log.length < 65280 →
    (95 * 16 ≤ tj → s.power.hot95.get d = false →
      ∃ t, exec (.thermalResponse95 d tj) s = .next t ∧ t.power.hot95 = s.power.hot95.set d true ∧ s.Logs t 0x32 0) ∧
    (s.power.hot95.get d = true →
      ∃ t, exec (.thermalResponse95End d) s = .next t ∧ t.power.hot95 = s.power.hot95.set d false ∧ s.Logs t 0x32 0) ∧
    (100 * 16 ≤ tj → s.power.clamp = false →
      ∃ t, exec (.thermalClamp d tj) s = .next t ∧ t.power.rootDiv = 4 ∧ t.power.clamp = true ∧ t.emergency = true)) ∧
  (∀ s : State, exec .boardTrip s = .next { s.coldReset with powered := false }) ∧
  (∀ (s : State) (k : Fin 8), s.subExists k = true → s.log.length < 65280 →
    (s.links.getLsbD k.val = true → ∃ t, exec (.linkDown k) s = .next t ∧
      ((∀ x ∈ s.sessions, x.sub ≠ k) → s.Logs t 0x34 0) ∧ t.links.getLsbD k.val = false ∧
      (∀ j : Fin 8, j ≠ k → t.links.getLsbD j.val = s.links.getLsbD j.val) ∧ ∀ x ∈ t.sessions, x.sub ≠ k) ∧
    (s.links.getLsbD k.val = false → ∃ t, exec (.linkUp k) s = .next t ∧ s.Logs t 0x34 0 ∧ t.links.getLsbD k.val = true ∧
      (∀ j : Fin 8, j ≠ k → t.links.getLsbD j.val = s.links.getLsbD j.val))) ∧
  (∀ s : State, (∃ k ∈ s.upSubs, k ≠ s.clock.input ∧ (s.ports[Fin.ofNat 2 (k.val / 4)]).ptpen = true) →
    ∃ t k, exec .announceTimeout s = .next t ∧ t.clock = { s.clock with input := k } ∧ k ∈ s.upSubs ∧ k ≠ s.clock.input ∧
      (s.ports[Fin.ofNat 2 (k.val / 4)]).ptpen = true) ∧
  (∀ (s : State) (offset : Int), ∃ t, exec (.ptpMeasurement offset) s = .next t ∧ t.clock.offset = offset ∧
    t.clock.good = (if offset.natAbs < 25 then s.clock.good + 1 else 0) ∧
    t.clock.bad = (if 25 < offset.natAbs then s.clock.bad + 1 else 0) ∧
    t.clock.locked = (if s.clock.locked then decide (t.clock.bad < 4) else decide (16 ≤ t.clock.good)) ∧
    t.clock.time = s.clock.time + BitVec.ofNat 80 (if offset < -1000000 then offset.natAbs * 65536 else 0) ∧
    -500000 ≤ t.clock.slew ∧ t.clock.slew ≤ 500000)

/-- The fabric: the writes of a frame from a known peer enter the fabric once, each byte and nothing else, and it is acknowledged once they
are performed and protected, and again when it comes again; an acknowledged write leaves, and what another peer's frame was passed on as
keeps its answer; an unacknowledged frame goes out again with its wait doubled, and
after the seventh wait, or at its report of a reset, the peer is down; a duplicated page collapses when every holder has
acknowledged or lapsed; a migration is copied, handed over, or abandoned; and a broken promise demotes its page until its cause
ends (R92, R93, R96, R382–R386). -/
def Obligations.FabricEventsComplete : Prop :=
  (∀ (s : State) (f : Frame), s.peerUp f.dev = true →
    (∀ data, (s.seen.find? fun e => e.1 == f.dev && decide (e.2.1 = f.fid)) = some (f.dev, f.fid, data) →
      exec (.frameReceive f) s = .next (s.emit (.ack f.dev f.fid data))) ∧
    (∀ a l tag, (∀ e ∈ s.seen, ¬ (e.1 = f.dev ∧ e.2.1 = f.fid)) → f.body = .write a l tag none → s.frameBeyond a = false →
      ((∀ i ∈ s.inbound, ¬ (i.frame.dev = f.dev ∧ i.frame.fid = f.fid)) → s.handed = [] →
        ∃ t ws i, exec (.frameReceive f) s = .next t ∧ t.fabric = s.fabric ++ ws ∧ t.inbound = s.inbound ++ [i] ∧ i.frame = f ∧
          i.uids = ws.map (·.uid) ∧ t.outbox = s.outbox ∧ (∀ b, t.byte b = s.byte b) ∧
          (∀ w ∈ ws, w.path = .np ∧ w.op = .set ∧ w.tag = tag ∧ w.src = some (f.dev, f.fid)) ∧
          (∀ j (h : j < l.length), ∃ w ∈ ws, w.loc = .hbm ((a + j) / 256) ∧ w.bytes.getLsbD ((a + j) % 256) = true ∧
            w.v.extractLsb' (8 * ((a + j) % 256)) 8 = l[j]) ∧
          (∀ w ∈ ws, ∀ b k, w.loc = .hbm b → w.bytes.getLsbD k = true → a ≤ 256 * b + k ∧ 256 * b + k < a + l.length)) ∧
      ∀ i, (s.inbound.find? fun x => decide (x.frame.dev = f.dev) && decide (x.frame.fid = f.fid)) = some i → i.frame = f → i.flags = 0 →
        (∀ u ∈ i.uids, s.writeDone u = true) → (∀ g ∈ s.outFrames, g.fid ∉ i.uids) → (∀ d ∈ s.deltas, d.uid ∉ i.uids) →
        ∃ t, exec (.frameReceive f) s = .next t ∧ t.outbox = s.outbox ++ [.ack f.dev f.fid []] ∧
          t.seen = s.seen ++ [(f.dev, f.fid, [])] ∧
          t.inbound = s.inbound.filter (fun x => decide (x.frame.dev ≠ f.dev ∨ x.frame.fid ≠ f.fid)) ∧ ∀ b, t.byte b = s.byte b)) ∧
  (∀ (s : State) (f : OutFrame) (a : Nat) (v : Row) (m : BitVec 256) (tag : Bool) (ch : Option (BitVec 10)),
    (s.outFrames.find? fun g => decide (g.fid = f.fid) && g.reply.isNone) = some f →
    (f.own = true → f.body = .write a v m tag ch →
      exec (.frameAck f.fid []) s = .next { s with outFrames := s.outFrames.filter fun g => decide (g.fid ≠ f.fid) }) ∧
    (f.own = false → (∃ i ∈ s.inbound, f.fid ∈ i.uids) → ∀ data, exec (.frameAck f.fid data) s = .next { s with
      outFrames := s.outFrames.map fun g => if g.fid = f.fid then { g with reply := some data } else g })) ∧
  (∀ (s : State) (f : OutFrame), (s.outFrames.find? fun g => decide (g.fid = f.fid) && g.reply.isNone && !g.held) = some f →
    f.wait ≤ s.wall → f.sends < 7 →
    let p := s.peer f.dev
    let g : OutFrame :=
      { f with sends := f.sends + 1, wait := s.wall + 95000 * 2 ^ f.sends, ip := p.ip, port := p.port, sub := p.sub }
    exec (.retransmitTimeout f.fid) s = .next (({ s with
      outFrames := s.outFrames.map fun h => if h.fid = f.fid then g else h } : State).emit (.frame g))) ∧
  (∀ (s : State) (dev : BitVec 12), s.peerUp dev = true → (∀ f ∈ s.outFrames, f.dev ≠ dev) → s.log.length < 65280 →
    ∃ t, exec (.peerResetReport dev) s = .next t ∧ t.peerUp dev = false ∧ s.Logs t 0x28 2) ∧
  (∀ (s : State) (d : Dup) (h : Holder), s.dupOf d.frame = some d →
    (d.collapse = false → ∃ t, exec (.collapse d.frame) s = .next t ∧
      t.dupOf d.frame = some { d with collapse := true, acks := d.holders } ∧
      t.outbox = s.outbox ++ d.holders.map fun a => .invalidate d.frame a.1) ∧
    (d.collapse = true → (d.acks.any fun a => decide (a.1 = h)) = true →
      ∃ t, exec (.invalidationAck d.frame h) s = .next t ∧
        if (∀ a ∈ d.acks, a.1 = h) then t.dupOf d.frame = none
        else t.dupOf d.frame = some { d with
          acks := d.acks.filter fun a => decide (a.1 ≠ h), holders := d.holders.filter fun a => decide (a.1 ≠ h) }) ∧
    (∀ n w, d.acks = [(h, n, w)] → n < 3 → w + 19000000 ≤ s.wall →
      ∃ t, exec (.invalidationResend d.frame h) s = .next t ∧ t.dupOf d.frame = some { d with acks := [(h, n + 1, s.wall)] } ∧
        t.outbox = s.outbox ++ [.invalidate d.frame h]) ∧
    ((∀ x, d.home = some x → s.peerUp x.1 = true) → ∃ t, exec (.leaseRenewal d.frame h) s = .next t ∧ t.dupOf d.frame = some { d with
      holders := d.holders.map fun a => if a.1 = h then (a.1, s.wall, a.2.2) else a }) ∧
    (∀ w n x, d.home = some x → (d.holders.find? fun a => decide (a.1 = h)) = some (h, w, n) → w + 19000000 ≤ s.wall →
      ∃ t, exec (.leaseLapse d.frame h) s = .next t ∧ t.dupOf d.frame = none)) ∧
  (∀ (s : State) (frame : Nat) (h : Holder), s.dupOf frame = none → (∀ m ∈ s.migs, m.frame ≠ frame) → frame < s.frames →
    ∃ t d, exec (.readDuplication frame h) s = .next t ∧ t.dupOf frame = some d ∧ d.holders = [(h, s.wall, 0)] ∧
      d.collapse = false ∧ d.home = none) ∧
  (∀ (s : State) (dev : BitVec 12), ∃ t, exec (.fabricSessionReopen dev) s = .next t ∧
    ∀ d ∈ t.dups, ∀ v f k, d.home = some (v, f, k) → v ≠ dev) ∧
  (∀ (s : State) (frame : Nat) (die : Fin 2) (dev : BitVec 12), s.dupOf frame = none → (∀ m ∈ s.migs, m.frame ≠ frame) →
    frame < s.frames → ∃ t n, exec (.pageMigration frame die dev) s = .next t ∧
      t.migs = s.migs ++ [⟨frame, die, dev, n, false, s.selfdev, false, [], 0⟩]) ∧
  (∀ (s : State) (m : Migration), s.migOf m.frame = some m → m.copied = true → s.migFails m = false →
    (∀ f ∈ s.outFrames, f.fid ∉ m.uids) → (m.dev = s.selfdev ∨ m.sealed_ = true) →
    ∃ t, exec (.handover m.frame m.newFrame) s = .next t ∧ t.handed = s.handed ++ [(m.frame, m.dev, m.newFrame)] ∧
      t.migs = s.migs.filter (fun x => !(x.home == s.selfdev && decide (x.frame = m.frame)))) ∧
  (∀ (s : State) (m : Migration), (s.migs.find? fun x => decide (x.frame = m.frame)) = some m →
    ∃ t, exec (.migrationAbandon m.frame) s = .next t ∧
      t.migs = s.migs.filter (fun x => !(x.home == m.home && decide (x.frame = m.frame)))) ∧
  (∀ (s : State) (asid : BitVec 10) (tid : BitVec 12) (tile : Nat) (l : LeafAt),
    ((s.leavesOfTensor asid tid).find? fun x => decide (x.tile = tile)) = some l →
    let w := (s.devRead l.addr 8).1
    (∀ why, fieldOf w 38 1 = 1 → (∀ d ∈ s.demoted, ¬ (d.asid = asid ∧ d.tid = tid ∧ d.tile = tile)) →
      ∃ t, exec (.pageDemotion asid tid tile why) s = .next t ∧
        t.demoted = s.demoted ++ [⟨asid, tid, tile, fieldOf w 36 2, why.toNat⟩]) ∧
    (∀ d, (s.demoted.find? fun x => x.asid == asid && x.tid == tid && decide (x.tile = tile)) = some d → s.whyEnded d w = true →
      ∃ t, exec (.demotionRestore asid tid tile) s = .next t ∧ t.demoted = s.demoted.erase d))

/-- Failures of the memories and the translator: a dropped bank is recorded and its copy starts; the first lost stack leads to
degraded mode; the change to eleven stacks starts once no frame above its bound is allocated; a copied frame advances the
watermark; a chunk that can be rebuilt is, and the eighth bank of a stack that is struck within a second loses the stack; a scrub counts its row's errors and repairs the row at 16; and a correct module is
answered with a binary or with FRES; an error in a scratchpad row is recorded, and poisons the row where it cannot be corrected
(R88, R323, R370, R371, R372, R375, R377, R378, R380; that an error is found where it strikes is the model's, log entry 128). -/
def Obligations.MemoryEventsComplete : Prop :=
  (∀ (s : State) (b : BankId) (trig : BitVec 2), s.layout.mode = 0 → s.layout.dropped = [] → s.layout.dropping = none →
    s.layout.waiting = [] → s.layout.moving = false → s.bankMode = 0 → s.log.length < 65280 →
    ∃ t, exec (.bankDrop b trig) s = .next t ∧ s.Logs t 0x24 1 ∧
      t.layout = { s.layout with
        moving := true
        wmark := 0
        change := 1
        dropping := some b
        failed := if trig = 2 then s.layout.failed ++ [b] else s.layout.failed }) ∧
  (∀ (s : State) (k : Fin 12) (trig : BitVec 2), s.layout = Layout.reset → s.deltas = [] → s.log.length < 65280 →
    ∃ t, exec (.stackLoss k trig) s = .next t ∧ s.Logs t 0x25 1 ∧ t.layout = { s.layout with mode := 1, lost := k } ∧
      ∀ a, t.byte a = s.byte a) ∧
  (∀ s : State, s.layout.mode = 1 → s.layout.moving = false → (∀ f ∈ s.allocated, f < 10321920) → s.log.length < 65280 →
    ∃ t, exec .restripe11Stacks s = .next t ∧ s.Logs t 0x27 1 ∧ t.layout = { s.layout with moving := true, wmark := 0, change := 2 }) ∧
  (∀ s : State, s.layout.moving = true → s.layout.wmark / 65536 + 1 < 10321920 → s.layout.wmark / 65536 + 1 < s.frames →
    ∃ t, exec .restripeFrameCopy s = .next t ∧ t.layout = { s.layout with wmark := s.layout.wmark + 65536 } ∧
      ∀ a, t.byte a = s.byte a) ∧
  (∀ (s : State) (chunk : Nat), (∀ k < 8, s.rebuildFails chunk [] k = none) → s.log.length < 65280 →
    ∃ t, exec (.chunkReconstruction chunk []) s = .next t ∧ t.badReads = s.struck chunk ∧
      (s.banksStruck chunk < 8 → s.Logs t 0x20 0 ∧ ∀ a, t.byte a = s.byte a) ∧
      (8 ≤ s.banksStruck chunk → s.layout.mode = 0 → t.layout.mode = 1 ∧ t.layout.lost.val = (s.layout.place chunk).1 % 12)) ∧
  (∀ (s : State) (k : Fin 12) (line : Nat), let key := k.val * 2 ^ 40 + line
    exec (.scrub k line 0) s = .next (if 16 ≤ assocGet 0 s.rowErrs key then
      ({ s with rowErrs := assocPut 0 s.rowErrs key 0 } : State).writeRecord (hbmRec 0x20 0 0 (hbmSynd false true true 0 line))
      else { s with rowErrs := assocPut 0 s.rowErrs key (assocGet 0 s.rowErrs key) })) ∧
  (∀ (s : State) (k : Fin 12) (line : Nat), s.log.length < 65280 → assocGet 0 s.rowErrs (k.val * 2 ^ 40 + line) < 15 →
    ∃ t, exec (.scrub k line 1) s = .next t ∧ s.Logs t 0x20 0 ∧
      t.rowErrs = assocPut 0 s.rowErrs (k.val * 2 ^ 40 + line) (assocGet 0 s.rowErrs (k.val * 2 ^ 40 + line) + 1)) ∧
  (∀ (s : State) (asid : BitVec 10) (tid : BitVec 12) (off h : Nat) (ws : List Nat), s.flatNat asid tid off 64 = some h →
    fHeadBad h = false → s.fWords asid tid off (fieldOf h 96 32) = some ws → fList ws 0 [] [] = none → ws ≠ [] →
    ∃ t o, exec (.faricaTranslate asid tid off) s = .next t ∧ t.outbox = s.outbox ++ [o] ∧ (∀ c, t.cell c = s.cell c) ∧
      (∀ a, t.byte a = s.byte a) ∧ ((∃ i < ws.length, o = .faricaCode 5 i) ∨ ∃ l, o = .faricaBinary l ∧ 256 ≤ l.length)) ∧
  (∀ (s : State) (c : CellId) (row : Nat) (bad : Bool) (rest : List (Struck × Bool)), s.canonical = true → s.up = true →
    s.upsets = (.spRow c row, bad) :: rest → row < 24576 → s.log.length < 65280 →
    ∃ t, takeUpset s = .next t ∧ t.upsets = rest ∧ s.Logs t (if bad then 0x21 else 0x20) (if bad then 1 else 0) ∧
      (∀ r, (t.cell c).row r = (s.cell c).row r) ∧
      (∀ r, (t.cell c).rowTag r = if bad ∧ r = row then true else (s.cell c).rowTag r) ∧ ∀ d, d ≠ c → t.cell d = s.cell d)

namespace Sys2Proof.Machine

/-! ## Rules stated whole -/

end Sys2Proof.Machine

/-- R83: with all twelve stacks present, a chunk's parity lies on stack s mod 12 and its data on the stack 1 + j further round, at
in-stack index s for its stripe s; the eleven data chunks and the parity chunk of a stripe lie on twelve different stacks; and
693 GiB hold stripes 0 to 33,030,143. -/
def Obligations.ChunkPlacement : Prop :=
  ∀ (l : Layout), l.mode = 0 → l.change ≠ 2 →
    (∀ a, let c := a / 2048
      let s := c / 11
      let j := c % 11
      l.place c = ((s % 12 + 1 + j) % 12, s % 12, s) ∧ (a < 693 * 2 ^ 30 → s ≤ 33030143)) ∧
    (∃ a < 693 * 2 ^ 30, (l.place (a / 2048)).2.2 = 33030143) ∧
    ∀ c d, c / 11 = d / 11 → (l.place c).1 ≠ (l.place d).2.1 ∧ (c ≠ d → (l.place c).1 ≠ (l.place d).1)

/-- R197: with EN the predicate of a record is P[n], or its complement with INV, P0 reading true; without EN it is true. A record
whose predicate is false, as under ?!P0, takes its issue slots and enters the signature, and does nothing else (R28). -/
def Obligations.PredicatesGovern : Prop :=
  (∀ (c : Cc) (n : Fin 16), evalPred c .always = true ∧ evalPred c (.p false n) = (decide (n = 0) || c.p.getLsbD n.val) ∧
    evalPred c (.p true n) = !(decide (n = 0) || c.p.getLsbD n.val)) ∧
  (∀ n < 16, ∀ inv < 2, decodePred n inv 1 = some (.p (decide (inv = 1)) (Fin.ofNat 16 n)) ∧
    ∀ p, decodePred n inv 0 = some p → p = .always) ∧
  ∀ (i : Instr) (e : Eng) (op : Nat) (r : Rec) (s : State) (off : Nat), recOf i = some (e, op, r) →
    let u := s.onEngine e
    u.expanding = none → u.engine.pc = some off → u.waits r.stamp.toNat = false → evalPred s.cur.cc r.pred = false →
    recBad i (s.gangOf s.curCell).encgen = none → u.missCause off r.stamp.toNat (issuesOf r e) (engCycles e) = none →
    stepBad i r e (s.gangOf s.curCell).encgen 0 = none → (e = .se → promBad i op r u = none) →
    exec i s = .next (u.beginRecord i off r.stamp.toNat (issuesOf r e) (engCycles e) false)

/-- R219: NOPR moves past itself in one CC issue slot and enters the signature, with no other effect; a word of NOPR's engine and OP
with a bit set in MOD, in PRED or in W1 to W7 is not decoded, and its issue is an illegal-record fault. -/
def Obligations.NoprRule : Prop :=
  (∀ (s : State) (stamp : BitVec 24) (off : Nat), s.CcIssues stamp.toNat off →
    let q := s.cur.engine .cc
    let x := s.cur.setEngine .cc { q with pc := some (off + 1), exp := none, last := some (s.now + max q.div 1 - 1) }
    exec (.nopr stamp) s = .next ({ s with curEng := .cc }.setCell s.curCell { x with
      sq := { x.sq with sigPend := sigPut 0 (sigEntry (.nopr stamp) stamp.toNat) x.sq.sigPend } })) ∧
  ∀ (w : RecordBits), w.toNat % 2048 = 28 → w.extractLsb' 11 5 ≠ 0 ∨ w.extractLsb' 40 6 ≠ 0 ∨ w.toNat / 2 ^ 64 ≠ 0 →
    (∀ i, decode 4 w.toNat ≠ .ok i) ∧
    ∀ (s : State) (c : CellId) (off : Nat), s.turn = .record c .cc → s.fetch c .cc = some w → (s.gangOf c).encgen = 4 →
      let u : State := { s with turn := .auto, curCell := c, curEng := .cc }
      u.engine.pc = some off → u.waits (w.toNat / 2 ^ 16 % 2 ^ 24) = false →
      ∃ t f, step s = .next t ∧ (u.skipRecord off).TakesFault t .cc off f ∧ f.cls = 4

/-- R244 and R270: VNOP and MNOP have MOD 0 and every operand KIND 0; each expansion takes one issue slot of its engine, the record
enters the signature, and nothing else changes. -/
def Obligations.NopRules : Prop :=
  ∀ (r : Rec),
    ((recCheck (.vnop r) = none ↔ r.mod = 0 ∧ r.o0 = .absent ∧ r.o1 = .absent ∧ r.o2 = .absent) ∧
      ∀ (s u : State) (off k : Nat) (mode : BitVec 4), s.Expands (.vnop r) .ve r off k mode u → exec (.vnop r) s = .next u) ∧
    ((recCheck (.mnop r) = none ↔ r.mod = 0 ∧ r.o0 = .absent ∧ r.o1 = .absent ∧ r.o2 = .absent) ∧
      ∀ (s u : State) (off k : Nat) (mode : BitVec 4), s.Expands (.mnop r) .me r off k mode u → exec (.mnop r) s = .next u)

namespace Sys2Proof.Machine

/-! ## Reset, the step, the encodings and the stores -/

end Sys2Proof.Machine

/-- After reset: boot has not begun and nothing runs; no cell is held, memory lists nothing, the log and the queues are empty;
BUDGET and BLIM are 2,600,000 mW, every queue is disabled with PASS 0 and QUANT 5,000, both ports have SPLIT 0, PTPEN and MGMT,
FUNCMODE reads 0, the forwarding timeout is 10 ms, TIME is 0 and SEQ is 0 (R149, R155, R182, R185, R187, R188, R191, R347). -/
def Obligations.ResetValues : Prop :=
  let s := State.reset
  s.stage = 0 ∧ s.halted = false ∧ s.mem = [] ∧ s.log = [] ∧ s.logSeq = 0 ∧ s.clock.time = 0 ∧ s.funcmode = 0 ∧ s.fwdMs = 10 ∧
  s.power.budget = 2600000 ∧ s.power.blim = 2600000 ∧
  (∀ c : CellId, (s.cell c).busy = false ∧ ∀ e, ((s.cell c).engine e).pc = none) ∧ (∀ g : GangId, (s.gang g).status = .idle) ∧
  (∀ q : Fin 64, s.queues[q].en = false ∧ s.queues[q].pass = 0 ∧ s.queues[q].quant = 5000 ∧ s.queues[q].ready = []) ∧
  ∀ p : Fin 2, s.ports[p] = { split := 0, ptpen := true, mgmt := true }

/-- A step runs the record at the program counter: when it is an engine's turn, the record that the text cache holds at its
program counter, or that continues to expand, is decoded in the gang's generation and executed on that cell and engine; when it is
an event's turn, that event is executed (R22, R206, R215). -/
def Obligations.StepRunsTheInstruction : Prop :=
  (∀ (s : State) (c : CellId) (e : Eng) (off : Nat) (w : RecordBits) (i : Instr), s.turn = .record c e →
    s.expansionDue c e = none → ((s.cell c).engine e).pc = some off → (s.cell c).textAt off = some w →
    decode (s.gangOf c).encgen w.toNat = .ok i → step s = exec i { s with turn := .auto, curCell := c, curEng := e }) ∧
  (∀ (s : State) (c : CellId) (e : Eng) (off : Nat) (w : RecordBits) (i : Instr), s.turn = .record c e →
    s.expansionDue c e = some off → (s.cell c).textAt off = some w →
    decode (s.gangOf c).encgen w.toNat = .ok i → step s = exec i { s with turn := .auto, curCell := c, curEng := e }) ∧
  ∀ (s : State) (i : Instr), s.turn = .event i → step s = exec i { s with turn := .auto }

namespace Sys2Proof.Machine

/-- The number whose 64-bit words are W0 to W7. -/
def recordNat (ws : List Nat) : Nat := ws.foldr (fun w n => w + 2 ^ 64 * n) 0

end Sys2Proof.Machine

/-- Words that the manual writes out decode to the instructions it gives them for: a bundle with ADD, FADD, FFMA, TWRR, MMA, CRD,
CPIN, PHAS, and the slots ADD, FENCE, DECIDE and ATBADD (R132, R178, R211, R214, R220, R243, R274, R293). -/
def Obligations.KnownWordsDecode : Prop :=
  decode 4 (recordNat [0, 0x0000000100004301]) = .ok (.bndl ⟨0, .always, 0x0000000100004301, 0, 0, 0, 0, 0, 0⟩) ∧
  decode 4 (recordNat [0x00000000000A0005, 0, 3, 0, 0x202, 0, 0x3F80000000000004]) =
    .ok (.fadd ⟨10, .always, 0, 0, .sq 0, .lq 0 true, .imm 0x3F800000⟩) ∧
  decode 4 (recordNat [0x0000000000140011, 3, 0x0000000000021081, 1, 1, 1, 0x1E1, 0]) =
    .ok (.ffma ⟨20, .always, 0, 3, .v 8 0 true 16 ⟨1, 0, 0, 0⟩, .v 0 0 false 0 ⟨1, 0, 0, 0⟩, .v 30 0 false 0 .zero⟩) ∧
  decode 4 (recordNat [0x00000000001E018D, 15, 5, 1, 0x202]) =
    .ok (.twrr ⟨30, .always, 0, 15, .zrow 0 0 ⟨1, 0, 0, 0⟩, .lq 0 true, .absent⟩) ∧
  decode 4 (recordNat [0x0000000000800816, 0, 0x000500030000000D, 0, 0x000010000000000A, 0, 0x0000038400000009]) =
    .ok (.mma ⟨128, .always, 1, 0, .ck none 3 5 .zero, .hr none 4096 .zero, .sp none 900 .zero⟩) ∧
  decode 4 (recordNat [0x000000000100003A, 0, 0x000004B000000009, 0, 0x000500030000000D]) =
    .ok (.crd ⟨256, .always, 0, 0, .sp none 1200 .zero, .ck none 3 5 .zero, .absent⟩) ∧
  decode 4 (recordNat [7, 0, 0x0000100000000009, 0, 0x0000000400000A0C, 0, 0x00003FFC0000000B]) =
    .ok (.cpin ⟨0, .always, 0, 0, .sp none 4096 .zero, .tensor 5 0 4 0 0 0 .zero, .ring 0x3FFC⟩) ∧
  decode 4 (recordNat [0x20, 0, 0x00000000076C0578]) = .ok (.phas ⟨0, 1400, 1900⟩) ∧
  decodeSlotRaw 0x0000000100004301 = .ok (1, ⟨true, 1, 1, 0, .always, 0, 1⟩) ∧
  decodeSlotRaw 0x00000D0400000154 = .ok (0x54, ⟨true, 0, 0, 0, .always, 0, 0xD04⟩) ∧
  decodeSlotRaw 0x0000100021000135 = .ok (0x35, ⟨true, 0, 0, 0, .p false 1, 0, 0x1000⟩) ∧
  decodeSlotRaw 0x0000000940290C49 = .ok (0x49, ⟨false, 6, 4, 5, .always, 1, 9⟩)

/-- Decoding and encoding agree: every well-formed record, with every operand, stride, predicate and immediate at every value its
encoding admits, decodes from its own bits to itself, and so does every well-formed slot operation (R196–R205, R215). -/
def Obligations.DecodeEncode : Prop :=
  (∀ (i : Instr) (w : RecordBits), i.wf = true → encode i = some w → decode 4 w.toNat = .ok i) ∧
  ∀ (i : Instr) (op8 : Nat) (sl : Slot) (w : Word), slotOf i = some (op8, sl) → i.wf = true → encodeSlot i = some w →
    decodeSlotRaw w = .ok (op8, sl)

/-- Every store is in canonical form after reset. The form of the stores is the model's own (log entry 10). -/
def Obligations.ResetCanonical : Prop := State.reset.canonical = true

/-- Every step keeps every store in canonical form: device memory, and the scratchpad and Crema rows of every cell and of every
saved member. The form of the stores is the model's own (log entry 10). -/
def Obligations.StepKeepsCanonical : Prop := ∀ s t : State, s.canonical = true → step s = .next t → t.canonical = true

end
end

