-- ==== Sys2Proof/Laws/Stores.lean ====
section
/-! SUPPORT. The stores: a read after a write, and that every write keeps the canonical form. Rows and lanes: what a row built
from its lanes reads as. -/

namespace Sys2Proof.Machine

variable {α : Type} [DecidableEq α]

/-! ## Canonical form -/

theorem assocWfFrom_le {d : α} {l : List (Nat × α)} : ∀ {lo hi : Nat}, lo ≤ hi → assocWfFrom d hi l = true → assocWfFrom d lo l = true := by
  intro lo hi h w
  cases l with
  | nil => rfl
  | cons e l =>
    simp only [assocWfFrom, Bool.and_eq_true, decide_eq_true_eq] at w ⊢
    exact ⟨⟨by omega, w.1.2⟩, w.2⟩

/-- Below the first address of a canonical store nothing is listed. -/
theorem assocGet_below {d : α} {l : List (Nat × α)} : ∀ {lo a : Nat}, assocWfFrom d lo l = true → a < lo → assocGet d l a = d := by
  induction l with
  | nil => intros; rfl
  | cons e l ih =>
    intro lo a w h
    simp only [assocWfFrom, Bool.and_eq_true, decide_eq_true_eq] at w
    simp only [assocGet]
    rw [if_neg (by omega)]
    exact ih w.2 (by omega)

theorem assocPut_wfFrom {d : α} {l : List (Nat × α)} {a : Nat} {v : α} :
    ∀ {lo : Nat}, lo ≤ a → assocWfFrom d lo l = true → assocWfFrom d lo (assocPut d l a v) = true := by
  induction l with
  | nil =>
    intro lo h _
    simp only [assocPut]
    split <;> simp_all [assocWfFrom]
  | cons e l ih =>
    intro lo h w
    simp only [assocWfFrom, Bool.and_eq_true, decide_eq_true_eq] at w
    simp only [assocPut]
    split
    · split <;> simp_all [assocWfFrom]
    · split
      · split
        · exact assocWfFrom_le (by omega) w.2
        · simp_all [assocWfFrom]
      · simp only [assocWfFrom, Bool.and_eq_true, decide_eq_true_eq]
        exact ⟨w.1, ih (by omega) w.2⟩

/-- A write keeps the canonical form. -/
theorem assocPut_wf {d : α} {l : List (Nat × α)} (a : Nat) (v : α) (w : assocWf d l = true) : assocWf d (assocPut d l a v) = true :=
  assocPut_wfFrom (Nat.zero_le a) w

/-- A read at the written address gives the value. -/
theorem assocGet_assocPut_self {d : α} {l : List (Nat × α)} {a : Nat} {v : α} :
    ∀ {lo : Nat}, assocWfFrom d lo l = true → assocGet d (assocPut d l a v) a = v := by
  induction l with
  | nil =>
    intro lo _
    simp only [assocPut]
    split <;> simp_all [assocGet]
  | cons e l ih =>
    intro lo w
    simp only [assocWfFrom, Bool.and_eq_true, decide_eq_true_eq] at w
    simp only [assocPut]
    split
    · split
      · rename_i h hv
        simp only [assocGet]
        rw [if_neg (by omega), hv]
        exact assocGet_below w.2 (by omega)
      · simp [assocGet]
    · split
      · split
        · rename_i h1 h2 hv
          rw [hv, h2]
          exact assocGet_below w.2 (by omega)
        · simp [assocGet]
      · rename_i h1 h2
        simp only [assocGet]
        rw [if_neg h2]
        exact ih w.2

/-- A read at another address gives what it gave. -/
theorem assocGet_assocPut_ne {d : α} {l : List (Nat × α)} {a b : Nat} {v : α} (h : b ≠ a) :
    ∀ {lo : Nat}, assocWfFrom d lo l = true → assocGet d (assocPut d l a v) b = assocGet d l b := by
  induction l with
  | nil =>
    intro lo _
    simp only [assocPut]
    split <;> simp_all [assocGet]
  | cons e l ih =>
    intro lo w
    simp only [assocWfFrom, Bool.and_eq_true, decide_eq_true_eq] at w
    simp only [assocPut]
    split
    · split <;> simp [assocGet, h]
    · split
      · split
        · rename_i h1 h2 hv
          simp only [assocGet]
          rw [if_neg (by omega)]
        · rename_i h1 h2 hv
          simp only [assocGet]
          rw [if_neg h, if_neg (by omega)]
      · simp only [assocGet]
        split
        · rfl
        · exact ih w.2

/-! ## Device memory -/

theorem memPut_wf (n : Nat) : ∀ (m : Memory) (a v : Nat), Memory.wf m = true → Memory.wf (memPut m a v n) = true := by
  induction n with
  | zero => intro m a v h; exact h
  | succ n ih => intro m a v h; exact ih _ _ _ (assocPut_wf _ _ h)

theorem memPutMasked_wf (n : Nat) : ∀ (m : Memory) (a v k : Nat), Memory.wf m = true → Memory.wf (memPutMasked m a v k n) = true := by
  induction n with
  | zero => intro m a v k h; exact h
  | succ n ih =>
    intro m a v k h
    refine ih _ _ _ _ ?_
    split
    · exact assocPut_wf _ _ h
    · exact h

/-- A store of n bytes leaves every other byte alone. -/
theorem memPut_other (n : Nat) : ∀ (m : Memory) (a v b : Nat), Memory.wf m = true → (b < a ∨ a + n ≤ b) →
    assocGet 0 (memPut m a v n) b = assocGet 0 m b := by
  induction n with
  | zero => intros; rfl
  | succ n ih =>
    intro m a v b w h
    simp only [memPut]
    rw [ih _ _ _ _ (assocPut_wf _ _ w) (by omega)]
    exact assocGet_assocPut_ne (by omega) w

theorem memPutMasked_other (n : Nat) : ∀ (m : Memory) (a v k b : Nat), Memory.wf m = true → (b < a ∨ a + n ≤ b) →
    assocGet 0 (memPutMasked m a v k n) b = assocGet 0 m b := by
  induction n with
  | zero => intros; rfl
  | succ n ih =>
    intro m a v k b w h
    simp only [memPutMasked]
    have w' : Memory.wf (if k % 2 = 1 then assocPut 0 m a (BitVec.ofNat 8 v) else m) = true := by
      split
      · exact assocPut_wf _ _ w
      · exact w
    rw [ih _ _ _ _ _ w' (by omega)]
    split
    · exact assocGet_assocPut_ne (by omega) w
    · rfl

/-! ## Fields -/

theorem fieldOf_lt (x lo w : Nat) : fieldOf x lo w < 2 ^ w := Nat.mod_lt _ (Nat.two_pow_pos w)

theorem packNat_lt (w : Nat) (f : Nat → Nat) : ∀ n, packNat w f n < 2 ^ (w * n)
  | 0 => by simp [packNat]
  | n + 1 => by
    have h1 := packNat_lt w f n
    have h2 : f n % 2 ^ w < 2 ^ w := Nat.mod_lt _ (Nat.two_pow_pos w)
    have h3 : (f n % 2 ^ w + 1) * 2 ^ (w * n) ≤ 2 ^ w * 2 ^ (w * n) := Nat.mul_le_mul_right _ h2
    simp only [packNat, Nat.mul_succ, Nat.pow_add]
    rw [Nat.mul_comm (2 ^ (w * n)) (2 ^ w)]
    rw [Nat.add_mul, Nat.one_mul] at h3
    omega

/-- Field i of a packed number is the i-th value. -/
theorem fieldOf_packNat (w : Nat) (f : Nat → Nat) (i : Nat) : ∀ n, i < n → fieldOf (packNat w f n) (w * i) w = f i % 2 ^ w := by
  intro n
  induction n with
  | zero => intro h; omega
  | succ n ih =>
    intro h
    by_cases hn : i = n
    · subst hn
      simp only [fieldOf, packNat]
      rw [Nat.add_mul_div_right _ _ (Nat.two_pow_pos _), Nat.div_eq_of_lt (packNat_lt w f i), Nat.zero_add, Nat.mod_mod]
    · have hi : i < n := by omega
      rw [← ih hi]
      simp only [fieldOf, packNat]
      have hw : w * n = w * i + (w + w * (n - i - 1)) := by
        have : n = i + (1 + (n - i - 1)) := by omega
        conv => lhs; rw [this]
        rw [Nat.mul_add, Nat.mul_add, Nat.mul_one]
      rw [hw, Nat.pow_add, ← Nat.mul_assoc, Nat.mul_comm _ (2 ^ (w * i)), Nat.mul_assoc, Nat.add_mul_div_left _ _ (Nat.two_pow_pos _),
        Nat.pow_add, Nat.mul_left_comm, Nat.add_mul_mod_self_left]

/-! ## Rows -/

theorem toNat_extract_ofNat (n lo w p : Nat) (h : p < 2 ^ n) : ((BitVec.ofNat n p).extractLsb' lo w).toNat = fieldOf p lo w := by
  rw [BitVec.extractLsb'_toNat, BitVec.toNat_ofNat, Nat.mod_eq_of_lt h, Nat.shiftRight_eq_div_pow]
  rfl

theorem packNat_lt_of {w k n : Nat} (f : Nat → Nat) (h : w * k = n) : packNat w f k < 2 ^ n := h ▸ packNat_lt w f k

@[simp] theorem lane_mkRow (f : Nat → Lane) (i : Nat) (h : i < 64) : lane (mkRow f) i = f i := by
  apply BitVec.eq_of_toNat_eq
  unfold lane mkRow
  rw [toNat_extract_ofNat _ _ _ _ (packNat_lt_of _ (by decide)), fieldOf_packNat 32 _ i 64 h, Nat.mod_eq_of_lt (f i).isLt]

@[simp] theorem slotLane_mkSlotRow (f : Nat → Lane) (i : Nat) (h : i < 256) : slotLane (mkSlotRow f) i = f i := by
  apply BitVec.eq_of_toNat_eq
  unfold slotLane mkSlotRow
  rw [toNat_extract_ofNat _ _ _ _ (packNat_lt_of _ (by decide)), fieldOf_packNat 32 _ i 256 h, Nat.mod_eq_of_lt (f i).isLt]

@[simp] theorem getLsbD_mkTags (n : Nat) (f : Nat → Bool) (i : Nat) (h : i < n) : (mkTags n f).getLsbD i = f i := by
  have hl : packNat 1 (fun i => (f i).toNat) n < 2 ^ n := by simpa using packNat_lt 1 (fun i => (f i).toNat) n
  have := fieldOf_packNat 1 (fun i => (f i).toNat) i n h
  simp only [mkTags, BitVec.getLsbD, BitVec.toNat_ofNat, Nat.mod_eq_of_lt hl, Nat.testBit, Nat.shiftRight_eq_div_pow]
  simp only [fieldOf, Nat.one_mul, Nat.pow_one] at this
  cases hf : f i <;> simp_all

/-- The lanes that a mask selects are the new ones. -/
theorem lane_mergeLanes (m : BitVec 64) (a b : Row) (i : Nat) (h : i < 64) :
    lane (mergeLanes m a b) i = if m.getLsbD i then lane b i else lane a i := by
  rw [mergeLanes, lane_mkRow _ _ h]

end Sys2Proof.Machine
end

