-- ==== Sys2Proof/Laws/Image.lean ====
section
/-! SUPPORT. The commit record of a context image: it lies outside the bytes that its CRC covers, and the record that a save writes is
the one that a resumption asks for (R163, R166, R169). -/

namespace Sys2Proof.Machine

theorem crcNat_high : ∀ (n k : Nat) (c : BitVec 32) (v : Nat), n ≤ k → crcNat c (v * 2 ^ (8 * k)) n = crcNat c 0 n
  | 0, _, _, _, _ => rfl
  | n + 1, k + 1, c, v, h => by
    have hv : v * 2 ^ (8 * (k + 1)) = v * 2 ^ (8 * k) * 256 := by rw [Nat.mul_add, Nat.pow_add, Nat.mul_assoc]
    have hb : BitVec.ofNat 8 (v * 2 ^ (8 * (k + 1))) = BitVec.ofNat 8 0 := by
      rw [hv]; apply BitVec.eq_of_toNat_eq; simp only [BitVec.toNat_ofNat]; omega
    have hd : v * 2 ^ (8 * (k + 1)) / 256 = v * 2 ^ (8 * k) := by rw [hv, Nat.mul_div_cancel _ (by decide)]
    simp only [crcNat, hb, hd, Nat.zero_div]
    exact crcNat_high n k _ v (by omega)

theorem toNat_high {w m n : Nat} (x : Nat) (h : w = m + n) : (BitVec.ofNat w (x * 2 ^ n)).toNat = x % 2 ^ m * 2 ^ n := by
  rw [h, BitVec.toNat_ofNat, Nat.pow_add, Nat.mul_mod_mul_right]

theorem crcNat_record (m : Nat) {w n k : Nat} (c : BitVec 32) (x : Nat) (hw : w = m + 8 * k) (hn : n = k) :
    crcNat c (BitVec.ofNat w (x * 2 ^ (8 * k))).toNat n = crcNat c 0 n := by
  rw [toNat_high x hw, crcNat_high n k c _ (Nat.le_of_eq hn)]

theorem headerCrc_lt (r : Rows) : headerCrc r < 2 ^ 32 := BitVec.isLt _

/-- The commit record is not among the bytes that the header's CRC covers. -/
theorem headerCrc_commit {q r : Rows} (x : Nat) (h : ∀ b, b ≠ 255 → assocGet 0 q b = assocGet 0 r b) (hr : assocGet 0 r 255 = 0)
    (hq : assocGet 0 q 255 = BitVec.ofNat 2048 (x * 2 ^ (8 * 192))) : headerCrc q = headerCrc r := by
  have at255 (c : BitVec 32) (n : Nat) (hn : n = 192) :
      crcNat c (assocGet 0 q 255).toNat n = crcNat c (assocGet 0 r 255).toNat n := by
    have e := crcNat_record 512 c x (show 2048 = 512 + 8 * 192 by decide) hn
    rw [hq, e, hr]
    exact congrArg (crcNat c · n) BitVec.toNat_zero.symm
  have same : (fun (c : BitVec 32) b => crcNat c (assocGet 0 q b).toNat (if b = 255 then 192 else 256)) =
      fun c b => crcNat c (assocGet 0 r b).toNat (if b = 255 then 192 else 256) := by
    funext c b
    by_cases hb : b = 255
    · subst hb
      exact at255 c _ (if_pos rfl)
    · rw [h b hb]
  unfold headerCrc
  rw [same]

/-- Rows with the commit record that belongs to their header pass its check. -/
theorem commitBad_record {q r : Rows} {n : Nat} (h : ∀ b, b ≠ 255 → assocGet 0 q b = assocGet 0 r b) (hr : assocGet 0 r 255 = 0)
    (hn : fieldOf (assocGet 0 r 0).toNat (8 * 96) 64 = n % 2 ^ 64)
    (hq : assocGet 0 q 255 = BitVec.ofNat 2048 ((0x0054494D4D4F43 + headerCrc r * 2 ^ 64 + n % 2 ^ 64 * 2 ^ 128) * 2 ^ (8 * 192))) :
    commitBad q = false := by
  unfold commitBad
  simp only [decide_eq_false_iff_not, ne_eq, not_not]
  rw [headerCrc_commit _ h hr hq, hq, h 0 (by decide), hn]
  have lt := headerCrc_lt r
  have m : n % 2 ^ 64 < 2 ^ 64 := Nat.mod_lt _ (by decide)
  generalize headerCrc r = c at *
  generalize n % 2 ^ 64 = k at *
  refine (toNat_high (m := 512) _ (by decide)).trans ?_
  rw [Nat.mod_eq_of_lt]
  exact Nat.lt_of_lt_of_le (m := 2 ^ 192) (by omega) (Nat.pow_le_pow_right Nat.two_pos (show 192 ≤ 512 by omega))

/-- The commit record that a save writes is the one that a resumption asks for. -/
theorem commitBad_commitRegion {r : Rows} {n : Nat} (w : assocWf 0 r = true) (h : assocGet 0 r 255 = 0)
    (hn : fieldOf (assocGet 0 r 0).toNat (8 * 96) 64 = n % 2 ^ 64) : commitBad (commitRegion r n) = false :=
  commitBad_record (fun _ hb => assocGet_assocPut_ne hb w) h hn (assocGet_assocPut_self w)

end Sys2Proof.Machine
end

