-- ==== Sys2Proof/Laws/State.lean ====
section
/-! SUPPORT. One lemma for each field of the state under each of the updates the meanings share, and what a cell, a gang
and an engine read as after an update. -/

namespace Sys2Proof.Machine

@[simp] theorem State.setCell_gangs (s : State) (c : CellId) (x : Cell) : (s.setCell c x).gangs = s.gangs := (rfl)
@[simp] theorem State.setCell_mem (s : State) (c : CellId) (x : Cell) : (s.setCell c x).mem = s.mem := (rfl)
@[simp] theorem State.setCell_memTag (s : State) (c : CellId) (x : Cell) : (s.setCell c x).memTag = s.memTag := (rfl)
@[simp] theorem State.setCell_fabric (s : State) (c : CellId) (x : Cell) : (s.setCell c x).fabric = s.fabric := (rfl)
@[simp] theorem State.setCell_deltas (s : State) (c : CellId) (x : Cell) : (s.setCell c x).deltas = s.deltas := (rfl)
@[simp] theorem State.setCell_layout (s : State) (c : CellId) (x : Cell) : (s.setCell c x).layout = s.layout := (rfl)
@[simp] theorem State.setCell_tables (s : State) (c : CellId) (x : Cell) : (s.setCell c x).tables = s.tables := (rfl)
@[simp] theorem State.setCell_descs (s : State) (c : CellId) (x : Cell) : (s.setCell c x).descs = s.descs := (rfl)
@[simp] theorem State.setCell_leaves (s : State) (c : CellId) (x : Cell) : (s.setCell c x).leaves = s.leaves := (rfl)
@[simp] theorem State.setCell_dups (s : State) (c : CellId) (x : Cell) : (s.setCell c x).dups = s.dups := (rfl)
@[simp] theorem State.setCell_migs (s : State) (c : CellId) (x : Cell) : (s.setCell c x).migs = s.migs := (rfl)
@[simp] theorem State.setCell_handed (s : State) (c : CellId) (x : Cell) : (s.setCell c x).handed = s.handed := (rfl)
@[simp] theorem State.setCell_demoted (s : State) (c : CellId) (x : Cell) : (s.setCell c x).demoted = s.demoted := (rfl)
@[simp] theorem State.setCell_lines (s : State) (c : CellId) (x : Cell) : (s.setCell c x).lines = s.lines := (rfl)
@[simp] theorem State.setCell_ctrs (s : State) (c : CellId) (x : Cell) : (s.setCell c x).ctrs = s.ctrs := (rfl)
@[simp] theorem State.setCell_phasers (s : State) (c : CellId) (x : Cell) : (s.setCell c x).phasers = s.phasers := (rfl)
@[simp] theorem State.setCell_moved (s : State) (c : CellId) (x : Cell) : (s.setCell c x).moved = s.moved := (rfl)
@[simp] theorem State.setCell_graphs (s : State) (c : CellId) (x : Cell) : (s.setCell c x).graphs = s.graphs := (rfl)
@[simp] theorem State.setCell_queues (s : State) (c : CellId) (x : Cell) : (s.setCell c x).queues = s.queues := (rfl)
@[simp] theorem State.setCell_kept (s : State) (c : CellId) (x : Cell) : (s.setCell c x).kept = s.kept := (rfl)
@[simp] theorem State.setCell_refused (s : State) (c : CellId) (x : Cell) : (s.setCell c x).refused = s.refused := (rfl)
@[simp] theorem State.setCell_images (s : State) (c : CellId) (x : Cell) : (s.setCell c x).images = s.images := (rfl)
@[simp] theorem State.setCell_withheld (s : State) (c : CellId) (x : Cell) : (s.setCell c x).withheld = s.withheld := (rfl)
@[simp] theorem State.setCell_power (s : State) (c : CellId) (x : Cell) : (s.setCell c x).power = s.power := (rfl)
@[simp] theorem State.setCell_clock (s : State) (c : CellId) (x : Cell) : (s.setCell c x).clock = s.clock := (rfl)
@[simp] theorem State.setCell_ports (s : State) (c : CellId) (x : Cell) : (s.setCell c x).ports = s.ports := (rfl)
@[simp] theorem State.setCell_links (s : State) (c : CellId) (x : Cell) : (s.setCell c x).links = s.links := (rfl)
@[simp] theorem State.setCell_selfdev (s : State) (c : CellId) (x : Cell) : (s.setCell c x).selfdev = s.selfdev := (rfl)
@[simp] theorem State.setCell_peers (s : State) (c : CellId) (x : Cell) : (s.setCell c x).peers = s.peers := (rfl)
@[simp] theorem State.setCell_chans (s : State) (c : CellId) (x : Cell) : (s.setCell c x).chans = s.chans := (rfl)
@[simp] theorem State.setCell_outFrames (s : State) (c : CellId) (x : Cell) : (s.setCell c x).outFrames = s.outFrames := (rfl)
@[simp] theorem State.setCell_seen (s : State) (c : CellId) (x : Cell) : (s.setCell c x).seen = s.seen := (rfl)
@[simp] theorem State.setCell_inbound (s : State) (c : CellId) (x : Cell) : (s.setCell c x).inbound = s.inbound := (rfl)
@[simp] theorem State.setCell_log (s : State) (c : CellId) (x : Cell) : (s.setCell c x).log = s.log := (rfl)
@[simp] theorem State.setCell_staged (s : State) (c : CellId) (x : Cell) : (s.setCell c x).staged = s.staged := (rfl)
@[simp] theorem State.setCell_logSeq (s : State) (c : CellId) (x : Cell) : (s.setCell c x).logSeq = s.logSeq := (rfl)
@[simp] theorem State.setCell_drop (s : State) (c : CellId) (x : Cell) : (s.setCell c x).drop = s.drop := (rfl)
@[simp] theorem State.setCell_rowErrs (s : State) (c : CellId) (x : Cell) : (s.setCell c x).rowErrs = s.rowErrs := (rfl)
@[simp] theorem State.setCell_badReads (s : State) (c : CellId) (x : Cell) : (s.setCell c x).badReads = s.badReads := (rfl)
@[simp] theorem State.setCell_sessions (s : State) (c : CellId) (x : Cell) : (s.setCell c x).sessions = s.sessions := (rfl)
@[simp] theorem State.setCell_grants (s : State) (c : CellId) (x : Cell) : (s.setCell c x).grants = s.grants := (rfl)
@[simp] theorem State.setCell_advk (s : State) (c : CellId) (x : Cell) : (s.setCell c x).advk = s.advk := (rfl)
@[simp] theorem State.setCell_forwards (s : State) (c : CellId) (x : Cell) : (s.setCell c x).forwards = s.forwards := (rfl)
@[simp] theorem State.setCell_monitors (s : State) (c : CellId) (x : Cell) : (s.setCell c x).monitors = s.monitors := (rfl)
@[simp] theorem State.setCell_funcmode (s : State) (c : CellId) (x : Cell) : (s.setCell c x).funcmode = s.funcmode := (rfl)
@[simp] theorem State.setCell_fwdMs (s : State) (c : CellId) (x : Cell) : (s.setCell c x).fwdMs = s.fwdMs := (rfl)
@[simp] theorem State.setCell_saveTarget (s : State) (c : CellId) (x : Cell) : (s.setCell c x).saveTarget = s.saveTarget := (rfl)
@[simp] theorem State.setCell_remoteHost (s : State) (c : CellId) (x : Cell) : (s.setCell c x).remoteHost = s.remoteHost := (rfl)
@[simp] theorem State.setCell_emergency (s : State) (c : CellId) (x : Cell) : (s.setCell c x).emergency = s.emergency := (rfl)
@[simp] theorem State.setCell_powered (s : State) (c : CellId) (x : Cell) : (s.setCell c x).powered = s.powered := (rfl)
@[simp] theorem State.setCell_stage (s : State) (c : CellId) (x : Cell) : (s.setCell c x).stage = s.stage := (rfl)
@[simp] theorem State.setCell_bootHalt (s : State) (c : CellId) (x : Cell) : (s.setCell c x).bootHalt = s.bootHalt := (rfl)
@[simp] theorem State.setCell_halted (s : State) (c : CellId) (x : Cell) : (s.setCell c x).halted = s.halted := (rfl)
@[simp] theorem State.setCell_signature (s : State) (c : CellId) (x : Cell) : (s.setCell c x).signature = s.signature := (rfl)
@[simp] theorem State.setCell_boot (s : State) (c : CellId) (x : Cell) : (s.setCell c x).boot = s.boot := (rfl)
@[simp] theorem State.setCell_spdm (s : State) (c : CellId) (x : Cell) : (s.setCell c x).spdm = s.spdm := (rfl)
@[simp] theorem State.setCell_wall (s : State) (c : CellId) (x : Cell) : (s.setCell c x).wall = s.wall := (rfl)
@[simp] theorem State.setCell_turn (s : State) (c : CellId) (x : Cell) : (s.setCell c x).turn = s.turn := (rfl)
@[simp] theorem State.setCell_pickCtr (s : State) (c : CellId) (x : Cell) : (s.setCell c x).pickCtr = s.pickCtr := (rfl)
@[simp] theorem State.setCell_debt (s : State) (c : CellId) (x : Cell) : (s.setCell c x).debt = s.debt := (rfl)
@[simp] theorem State.setCell_freeCtr (s : State) (c : CellId) (x : Cell) : (s.setCell c x).freeCtr = s.freeCtr := (rfl)
@[simp] theorem State.setCell_uid (s : State) (c : CellId) (x : Cell) : (s.setCell c x).uid = s.uid := (rfl)
@[simp] theorem State.setCell_curCell (s : State) (c : CellId) (x : Cell) : (s.setCell c x).curCell = s.curCell := (rfl)
@[simp] theorem State.setCell_curEng (s : State) (c : CellId) (x : Cell) : (s.setCell c x).curEng = s.curEng := (rfl)
@[simp] theorem State.setCell_inputs (s : State) (c : CellId) (x : Cell) : (s.setCell c x).inputs = s.inputs := (rfl)
@[simp] theorem State.setCell_asker (s : State) (c : CellId) (x : Cell) : (s.setCell c x).asker = s.asker := (rfl)
@[simp] theorem State.setCell_imports (s : State) (c : CellId) (x : Cell) : (s.setCell c x).imports = s.imports := (rfl)
@[simp] theorem State.setCell_upsets (s : State) (c : CellId) (x : Cell) : (s.setCell c x).upsets = s.upsets := (rfl)
@[simp] theorem State.setCell_outbox (s : State) (c : CellId) (x : Cell) : (s.setCell c x).outbox = s.outbox := (rfl)

@[simp] theorem State.setGang_cells (s : State) (g : GangId) (x : Gang) : (s.setGang g x).cells = s.cells := (rfl)
@[simp] theorem State.setGang_mem (s : State) (g : GangId) (x : Gang) : (s.setGang g x).mem = s.mem := (rfl)
@[simp] theorem State.setGang_memTag (s : State) (g : GangId) (x : Gang) : (s.setGang g x).memTag = s.memTag := (rfl)
@[simp] theorem State.setGang_fabric (s : State) (g : GangId) (x : Gang) : (s.setGang g x).fabric = s.fabric := (rfl)
@[simp] theorem State.setGang_deltas (s : State) (g : GangId) (x : Gang) : (s.setGang g x).deltas = s.deltas := (rfl)
@[simp] theorem State.setGang_layout (s : State) (g : GangId) (x : Gang) : (s.setGang g x).layout = s.layout := (rfl)
@[simp] theorem State.setGang_tables (s : State) (g : GangId) (x : Gang) : (s.setGang g x).tables = s.tables := (rfl)
@[simp] theorem State.setGang_descs (s : State) (g : GangId) (x : Gang) : (s.setGang g x).descs = s.descs := (rfl)
@[simp] theorem State.setGang_leaves (s : State) (g : GangId) (x : Gang) : (s.setGang g x).leaves = s.leaves := (rfl)
@[simp] theorem State.setGang_dups (s : State) (g : GangId) (x : Gang) : (s.setGang g x).dups = s.dups := (rfl)
@[simp] theorem State.setGang_migs (s : State) (g : GangId) (x : Gang) : (s.setGang g x).migs = s.migs := (rfl)
@[simp] theorem State.setGang_handed (s : State) (g : GangId) (x : Gang) : (s.setGang g x).handed = s.handed := (rfl)
@[simp] theorem State.setGang_demoted (s : State) (g : GangId) (x : Gang) : (s.setGang g x).demoted = s.demoted := (rfl)
@[simp] theorem State.setGang_lines (s : State) (g : GangId) (x : Gang) : (s.setGang g x).lines = s.lines := (rfl)
@[simp] theorem State.setGang_ctrs (s : State) (g : GangId) (x : Gang) : (s.setGang g x).ctrs = s.ctrs := (rfl)
@[simp] theorem State.setGang_phasers (s : State) (g : GangId) (x : Gang) : (s.setGang g x).phasers = s.phasers := (rfl)
@[simp] theorem State.setGang_moved (s : State) (g : GangId) (x : Gang) : (s.setGang g x).moved = s.moved := (rfl)
@[simp] theorem State.setGang_graphs (s : State) (g : GangId) (x : Gang) : (s.setGang g x).graphs = s.graphs := (rfl)
@[simp] theorem State.setGang_queues (s : State) (g : GangId) (x : Gang) : (s.setGang g x).queues = s.queues := (rfl)
@[simp] theorem State.setGang_kept (s : State) (g : GangId) (x : Gang) : (s.setGang g x).kept = s.kept := (rfl)
@[simp] theorem State.setGang_refused (s : State) (g : GangId) (x : Gang) : (s.setGang g x).refused = s.refused := (rfl)
@[simp] theorem State.setGang_images (s : State) (g : GangId) (x : Gang) : (s.setGang g x).images = s.images := (rfl)
@[simp] theorem State.setGang_withheld (s : State) (g : GangId) (x : Gang) : (s.setGang g x).withheld = s.withheld := (rfl)
@[simp] theorem State.setGang_power (s : State) (g : GangId) (x : Gang) : (s.setGang g x).power = s.power := (rfl)
@[simp] theorem State.setGang_clock (s : State) (g : GangId) (x : Gang) : (s.setGang g x).clock = s.clock := (rfl)
@[simp] theorem State.setGang_ports (s : State) (g : GangId) (x : Gang) : (s.setGang g x).ports = s.ports := (rfl)
@[simp] theorem State.setGang_links (s : State) (g : GangId) (x : Gang) : (s.setGang g x).links = s.links := (rfl)
@[simp] theorem State.setGang_selfdev (s : State) (g : GangId) (x : Gang) : (s.setGang g x).selfdev = s.selfdev := (rfl)
@[simp] theorem State.setGang_peers (s : State) (g : GangId) (x : Gang) : (s.setGang g x).peers = s.peers := (rfl)
@[simp] theorem State.setGang_chans (s : State) (g : GangId) (x : Gang) : (s.setGang g x).chans = s.chans := (rfl)
@[simp] theorem State.setGang_outFrames (s : State) (g : GangId) (x : Gang) : (s.setGang g x).outFrames = s.outFrames := (rfl)
@[simp] theorem State.setGang_seen (s : State) (g : GangId) (x : Gang) : (s.setGang g x).seen = s.seen := (rfl)
@[simp] theorem State.setGang_inbound (s : State) (g : GangId) (x : Gang) : (s.setGang g x).inbound = s.inbound := (rfl)
@[simp] theorem State.setGang_log (s : State) (g : GangId) (x : Gang) : (s.setGang g x).log = s.log := (rfl)
@[simp] theorem State.setGang_staged (s : State) (g : GangId) (x : Gang) : (s.setGang g x).staged = s.staged := (rfl)
@[simp] theorem State.setGang_logSeq (s : State) (g : GangId) (x : Gang) : (s.setGang g x).logSeq = s.logSeq := (rfl)
@[simp] theorem State.setGang_drop (s : State) (g : GangId) (x : Gang) : (s.setGang g x).drop = s.drop := (rfl)
@[simp] theorem State.setGang_rowErrs (s : State) (g : GangId) (x : Gang) : (s.setGang g x).rowErrs = s.rowErrs := (rfl)
@[simp] theorem State.setGang_badReads (s : State) (g : GangId) (x : Gang) : (s.setGang g x).badReads = s.badReads := (rfl)
@[simp] theorem State.setGang_sessions (s : State) (g : GangId) (x : Gang) : (s.setGang g x).sessions = s.sessions := (rfl)
@[simp] theorem State.setGang_grants (s : State) (g : GangId) (x : Gang) : (s.setGang g x).grants = s.grants := (rfl)
@[simp] theorem State.setGang_advk (s : State) (g : GangId) (x : Gang) : (s.setGang g x).advk = s.advk := (rfl)
@[simp] theorem State.setGang_forwards (s : State) (g : GangId) (x : Gang) : (s.setGang g x).forwards = s.forwards := (rfl)
@[simp] theorem State.setGang_monitors (s : State) (g : GangId) (x : Gang) : (s.setGang g x).monitors = s.monitors := (rfl)
@[simp] theorem State.setGang_funcmode (s : State) (g : GangId) (x : Gang) : (s.setGang g x).funcmode = s.funcmode := (rfl)
@[simp] theorem State.setGang_fwdMs (s : State) (g : GangId) (x : Gang) : (s.setGang g x).fwdMs = s.fwdMs := (rfl)
@[simp] theorem State.setGang_saveTarget (s : State) (g : GangId) (x : Gang) : (s.setGang g x).saveTarget = s.saveTarget := (rfl)
@[simp] theorem State.setGang_remoteHost (s : State) (g : GangId) (x : Gang) : (s.setGang g x).remoteHost = s.remoteHost := (rfl)
@[simp] theorem State.setGang_emergency (s : State) (g : GangId) (x : Gang) : (s.setGang g x).emergency = s.emergency := (rfl)
@[simp] theorem State.setGang_powered (s : State) (g : GangId) (x : Gang) : (s.setGang g x).powered = s.powered := (rfl)
@[simp] theorem State.setGang_stage (s : State) (g : GangId) (x : Gang) : (s.setGang g x).stage = s.stage := (rfl)
@[simp] theorem State.setGang_bootHalt (s : State) (g : GangId) (x : Gang) : (s.setGang g x).bootHalt = s.bootHalt := (rfl)
@[simp] theorem State.setGang_halted (s : State) (g : GangId) (x : Gang) : (s.setGang g x).halted = s.halted := (rfl)
@[simp] theorem State.setGang_signature (s : State) (g : GangId) (x : Gang) : (s.setGang g x).signature = s.signature := (rfl)
@[simp] theorem State.setGang_boot (s : State) (g : GangId) (x : Gang) : (s.setGang g x).boot = s.boot := (rfl)
@[simp] theorem State.setGang_spdm (s : State) (g : GangId) (x : Gang) : (s.setGang g x).spdm = s.spdm := (rfl)
@[simp] theorem State.setGang_wall (s : State) (g : GangId) (x : Gang) : (s.setGang g x).wall = s.wall := (rfl)
@[simp] theorem State.setGang_turn (s : State) (g : GangId) (x : Gang) : (s.setGang g x).turn = s.turn := (rfl)
@[simp] theorem State.setGang_pickCtr (s : State) (g : GangId) (x : Gang) : (s.setGang g x).pickCtr = s.pickCtr := (rfl)
@[simp] theorem State.setGang_debt (s : State) (g : GangId) (x : Gang) : (s.setGang g x).debt = s.debt := (rfl)
@[simp] theorem State.setGang_freeCtr (s : State) (g : GangId) (x : Gang) : (s.setGang g x).freeCtr = s.freeCtr := (rfl)
@[simp] theorem State.setGang_uid (s : State) (g : GangId) (x : Gang) : (s.setGang g x).uid = s.uid := (rfl)
@[simp] theorem State.setGang_curCell (s : State) (g : GangId) (x : Gang) : (s.setGang g x).curCell = s.curCell := (rfl)
@[simp] theorem State.setGang_curEng (s : State) (g : GangId) (x : Gang) : (s.setGang g x).curEng = s.curEng := (rfl)
@[simp] theorem State.setGang_inputs (s : State) (g : GangId) (x : Gang) : (s.setGang g x).inputs = s.inputs := (rfl)
@[simp] theorem State.setGang_asker (s : State) (g : GangId) (x : Gang) : (s.setGang g x).asker = s.asker := (rfl)
@[simp] theorem State.setGang_imports (s : State) (g : GangId) (x : Gang) : (s.setGang g x).imports = s.imports := (rfl)
@[simp] theorem State.setGang_upsets (s : State) (g : GangId) (x : Gang) : (s.setGang g x).upsets = s.upsets := (rfl)
@[simp] theorem State.setGang_outbox (s : State) (g : GangId) (x : Gang) : (s.setGang g x).outbox = s.outbox := (rfl)

@[simp] theorem State.fresh_cells (s : State) : s.fresh.cells = s.cells := (rfl)
@[simp] theorem State.fresh_gangs (s : State) : s.fresh.gangs = s.gangs := (rfl)
@[simp] theorem State.fresh_mem (s : State) : s.fresh.mem = s.mem := (rfl)
@[simp] theorem State.fresh_memTag (s : State) : s.fresh.memTag = s.memTag := (rfl)
@[simp] theorem State.fresh_fabric (s : State) : s.fresh.fabric = s.fabric := (rfl)
@[simp] theorem State.fresh_deltas (s : State) : s.fresh.deltas = s.deltas := (rfl)
@[simp] theorem State.fresh_layout (s : State) : s.fresh.layout = s.layout := (rfl)
@[simp] theorem State.fresh_tables (s : State) : s.fresh.tables = s.tables := (rfl)
@[simp] theorem State.fresh_descs (s : State) : s.fresh.descs = s.descs := (rfl)
@[simp] theorem State.fresh_leaves (s : State) : s.fresh.leaves = s.leaves := (rfl)
@[simp] theorem State.fresh_dups (s : State) : s.fresh.dups = s.dups := (rfl)
@[simp] theorem State.fresh_migs (s : State) : s.fresh.migs = s.migs := (rfl)
@[simp] theorem State.fresh_handed (s : State) : s.fresh.handed = s.handed := (rfl)
@[simp] theorem State.fresh_demoted (s : State) : s.fresh.demoted = s.demoted := (rfl)
@[simp] theorem State.fresh_lines (s : State) : s.fresh.lines = s.lines := (rfl)
@[simp] theorem State.fresh_ctrs (s : State) : s.fresh.ctrs = s.ctrs := (rfl)
@[simp] theorem State.fresh_phasers (s : State) : s.fresh.phasers = s.phasers := (rfl)
@[simp] theorem State.fresh_moved (s : State) : s.fresh.moved = s.moved := (rfl)
@[simp] theorem State.fresh_graphs (s : State) : s.fresh.graphs = s.graphs := (rfl)
@[simp] theorem State.fresh_queues (s : State) : s.fresh.queues = s.queues := (rfl)
@[simp] theorem State.fresh_kept (s : State) : s.fresh.kept = s.kept := (rfl)
@[simp] theorem State.fresh_refused (s : State) : s.fresh.refused = s.refused := (rfl)
@[simp] theorem State.fresh_images (s : State) : s.fresh.images = s.images := (rfl)
@[simp] theorem State.fresh_withheld (s : State) : s.fresh.withheld = s.withheld := (rfl)
@[simp] theorem State.fresh_power (s : State) : s.fresh.power = s.power := (rfl)
@[simp] theorem State.fresh_clock (s : State) : s.fresh.clock = s.clock := (rfl)
@[simp] theorem State.fresh_ports (s : State) : s.fresh.ports = s.ports := (rfl)
@[simp] theorem State.fresh_links (s : State) : s.fresh.links = s.links := (rfl)
@[simp] theorem State.fresh_selfdev (s : State) : s.fresh.selfdev = s.selfdev := (rfl)
@[simp] theorem State.fresh_peers (s : State) : s.fresh.peers = s.peers := (rfl)
@[simp] theorem State.fresh_chans (s : State) : s.fresh.chans = s.chans := (rfl)
@[simp] theorem State.fresh_outFrames (s : State) : s.fresh.outFrames = s.outFrames := (rfl)
@[simp] theorem State.fresh_seen (s : State) : s.fresh.seen = s.seen := (rfl)
@[simp] theorem State.fresh_inbound (s : State) : s.fresh.inbound = s.inbound := (rfl)
@[simp] theorem State.fresh_log (s : State) : s.fresh.log = s.log := (rfl)
@[simp] theorem State.fresh_staged (s : State) : s.fresh.staged = s.staged := (rfl)
@[simp] theorem State.fresh_logSeq (s : State) : s.fresh.logSeq = s.logSeq := (rfl)
@[simp] theorem State.fresh_drop (s : State) : s.fresh.drop = s.drop := (rfl)
@[simp] theorem State.fresh_rowErrs (s : State) : s.fresh.rowErrs = s.rowErrs := (rfl)
@[simp] theorem State.fresh_badReads (s : State) : s.fresh.badReads = s.badReads := (rfl)
@[simp] theorem State.fresh_sessions (s : State) : s.fresh.sessions = s.sessions := (rfl)
@[simp] theorem State.fresh_grants (s : State) : s.fresh.grants = s.grants := (rfl)
@[simp] theorem State.fresh_advk (s : State) : s.fresh.advk = s.advk := (rfl)
@[simp] theorem State.fresh_forwards (s : State) : s.fresh.forwards = s.forwards := (rfl)
@[simp] theorem State.fresh_monitors (s : State) : s.fresh.monitors = s.monitors := (rfl)
@[simp] theorem State.fresh_funcmode (s : State) : s.fresh.funcmode = s.funcmode := (rfl)
@[simp] theorem State.fresh_fwdMs (s : State) : s.fresh.fwdMs = s.fwdMs := (rfl)
@[simp] theorem State.fresh_saveTarget (s : State) : s.fresh.saveTarget = s.saveTarget := (rfl)
@[simp] theorem State.fresh_remoteHost (s : State) : s.fresh.remoteHost = s.remoteHost := (rfl)
@[simp] theorem State.fresh_emergency (s : State) : s.fresh.emergency = s.emergency := (rfl)
@[simp] theorem State.fresh_powered (s : State) : s.fresh.powered = s.powered := (rfl)
@[simp] theorem State.fresh_stage (s : State) : s.fresh.stage = s.stage := (rfl)
@[simp] theorem State.fresh_bootHalt (s : State) : s.fresh.bootHalt = s.bootHalt := (rfl)
@[simp] theorem State.fresh_halted (s : State) : s.fresh.halted = s.halted := (rfl)
@[simp] theorem State.fresh_signature (s : State) : s.fresh.signature = s.signature := (rfl)
@[simp] theorem State.fresh_boot (s : State) : s.fresh.boot = s.boot := (rfl)
@[simp] theorem State.fresh_spdm (s : State) : s.fresh.spdm = s.spdm := (rfl)
@[simp] theorem State.fresh_wall (s : State) : s.fresh.wall = s.wall := (rfl)
@[simp] theorem State.fresh_turn (s : State) : s.fresh.turn = s.turn := (rfl)
@[simp] theorem State.fresh_pickCtr (s : State) : s.fresh.pickCtr = s.pickCtr := (rfl)
@[simp] theorem State.fresh_debt (s : State) : s.fresh.debt = s.debt := (rfl)
@[simp] theorem State.fresh_freeCtr (s : State) : s.fresh.freeCtr = s.freeCtr := (rfl)
@[simp] theorem State.fresh_curCell (s : State) : s.fresh.curCell = s.curCell := (rfl)
@[simp] theorem State.fresh_curEng (s : State) : s.fresh.curEng = s.curEng := (rfl)
@[simp] theorem State.fresh_inputs (s : State) : s.fresh.inputs = s.inputs := (rfl)
@[simp] theorem State.fresh_asker (s : State) : s.fresh.asker = s.asker := (rfl)
@[simp] theorem State.fresh_imports (s : State) : s.fresh.imports = s.imports := (rfl)
@[simp] theorem State.fresh_upsets (s : State) : s.fresh.upsets = s.upsets := (rfl)
@[simp] theorem State.fresh_outbox (s : State) : s.fresh.outbox = s.outbox := (rfl)

@[simp] theorem State.emit_cells (s : State) (o : Out) : (s.emit o).cells = s.cells := (rfl)
@[simp] theorem State.emit_gangs (s : State) (o : Out) : (s.emit o).gangs = s.gangs := (rfl)
@[simp] theorem State.emit_mem (s : State) (o : Out) : (s.emit o).mem = s.mem := (rfl)
@[simp] theorem State.emit_memTag (s : State) (o : Out) : (s.emit o).memTag = s.memTag := (rfl)
@[simp] theorem State.emit_fabric (s : State) (o : Out) : (s.emit o).fabric = s.fabric := (rfl)
@[simp] theorem State.emit_deltas (s : State) (o : Out) : (s.emit o).deltas = s.deltas := (rfl)
@[simp] theorem State.emit_layout (s : State) (o : Out) : (s.emit o).layout = s.layout := (rfl)
@[simp] theorem State.emit_tables (s : State) (o : Out) : (s.emit o).tables = s.tables := (rfl)
@[simp] theorem State.emit_descs (s : State) (o : Out) : (s.emit o).descs = s.descs := (rfl)
@[simp] theorem State.emit_leaves (s : State) (o : Out) : (s.emit o).leaves = s.leaves := (rfl)
@[simp] theorem State.emit_dups (s : State) (o : Out) : (s.emit o).dups = s.dups := (rfl)
@[simp] theorem State.emit_migs (s : State) (o : Out) : (s.emit o).migs = s.migs := (rfl)
@[simp] theorem State.emit_handed (s : State) (o : Out) : (s.emit o).handed = s.handed := (rfl)
@[simp] theorem State.emit_demoted (s : State) (o : Out) : (s.emit o).demoted = s.demoted := (rfl)
@[simp] theorem State.emit_lines (s : State) (o : Out) : (s.emit o).lines = s.lines := (rfl)
@[simp] theorem State.emit_ctrs (s : State) (o : Out) : (s.emit o).ctrs = s.ctrs := (rfl)
@[simp] theorem State.emit_phasers (s : State) (o : Out) : (s.emit o).phasers = s.phasers := (rfl)
@[simp] theorem State.emit_moved (s : State) (o : Out) : (s.emit o).moved = s.moved := (rfl)
@[simp] theorem State.emit_graphs (s : State) (o : Out) : (s.emit o).graphs = s.graphs := (rfl)
@[simp] theorem State.emit_queues (s : State) (o : Out) : (s.emit o).queues = s.queues := (rfl)
@[simp] theorem State.emit_kept (s : State) (o : Out) : (s.emit o).kept = s.kept := (rfl)
@[simp] theorem State.emit_refused (s : State) (o : Out) : (s.emit o).refused = s.refused := (rfl)
@[simp] theorem State.emit_images (s : State) (o : Out) : (s.emit o).images = s.images := (rfl)
@[simp] theorem State.emit_withheld (s : State) (o : Out) : (s.emit o).withheld = s.withheld := (rfl)
@[simp] theorem State.emit_power (s : State) (o : Out) : (s.emit o).power = s.power := (rfl)
@[simp] theorem State.emit_clock (s : State) (o : Out) : (s.emit o).clock = s.clock := (rfl)
@[simp] theorem State.emit_ports (s : State) (o : Out) : (s.emit o).ports = s.ports := (rfl)
@[simp] theorem State.emit_links (s : State) (o : Out) : (s.emit o).links = s.links := (rfl)
@[simp] theorem State.emit_selfdev (s : State) (o : Out) : (s.emit o).selfdev = s.selfdev := (rfl)
@[simp] theorem State.emit_peers (s : State) (o : Out) : (s.emit o).peers = s.peers := (rfl)
@[simp] theorem State.emit_chans (s : State) (o : Out) : (s.emit o).chans = s.chans := (rfl)
@[simp] theorem State.emit_outFrames (s : State) (o : Out) : (s.emit o).outFrames = s.outFrames := (rfl)
@[simp] theorem State.emit_seen (s : State) (o : Out) : (s.emit o).seen = s.seen := (rfl)
@[simp] theorem State.emit_inbound (s : State) (o : Out) : (s.emit o).inbound = s.inbound := (rfl)
@[simp] theorem State.emit_log (s : State) (o : Out) : (s.emit o).log = s.log := (rfl)
@[simp] theorem State.emit_staged (s : State) (o : Out) : (s.emit o).staged = s.staged := (rfl)
@[simp] theorem State.emit_logSeq (s : State) (o : Out) : (s.emit o).logSeq = s.logSeq := (rfl)
@[simp] theorem State.emit_drop (s : State) (o : Out) : (s.emit o).drop = s.drop := (rfl)
@[simp] theorem State.emit_rowErrs (s : State) (o : Out) : (s.emit o).rowErrs = s.rowErrs := (rfl)
@[simp] theorem State.emit_badReads (s : State) (o : Out) : (s.emit o).badReads = s.badReads := (rfl)
@[simp] theorem State.emit_sessions (s : State) (o : Out) : (s.emit o).sessions = s.sessions := (rfl)
@[simp] theorem State.emit_grants (s : State) (o : Out) : (s.emit o).grants = s.grants := (rfl)
@[simp] theorem State.emit_advk (s : State) (o : Out) : (s.emit o).advk = s.advk := (rfl)
@[simp] theorem State.emit_forwards (s : State) (o : Out) : (s.emit o).forwards = s.forwards := (rfl)
@[simp] theorem State.emit_monitors (s : State) (o : Out) : (s.emit o).monitors = s.monitors := (rfl)
@[simp] theorem State.emit_funcmode (s : State) (o : Out) : (s.emit o).funcmode = s.funcmode := (rfl)
@[simp] theorem State.emit_fwdMs (s : State) (o : Out) : (s.emit o).fwdMs = s.fwdMs := (rfl)
@[simp] theorem State.emit_saveTarget (s : State) (o : Out) : (s.emit o).saveTarget = s.saveTarget := (rfl)
@[simp] theorem State.emit_remoteHost (s : State) (o : Out) : (s.emit o).remoteHost = s.remoteHost := (rfl)
@[simp] theorem State.emit_emergency (s : State) (o : Out) : (s.emit o).emergency = s.emergency := (rfl)
@[simp] theorem State.emit_powered (s : State) (o : Out) : (s.emit o).powered = s.powered := (rfl)
@[simp] theorem State.emit_stage (s : State) (o : Out) : (s.emit o).stage = s.stage := (rfl)
@[simp] theorem State.emit_bootHalt (s : State) (o : Out) : (s.emit o).bootHalt = s.bootHalt := (rfl)
@[simp] theorem State.emit_halted (s : State) (o : Out) : (s.emit o).halted = s.halted := (rfl)
@[simp] theorem State.emit_signature (s : State) (o : Out) : (s.emit o).signature = s.signature := (rfl)
@[simp] theorem State.emit_boot (s : State) (o : Out) : (s.emit o).boot = s.boot := (rfl)
@[simp] theorem State.emit_spdm (s : State) (o : Out) : (s.emit o).spdm = s.spdm := (rfl)
@[simp] theorem State.emit_wall (s : State) (o : Out) : (s.emit o).wall = s.wall := (rfl)
@[simp] theorem State.emit_turn (s : State) (o : Out) : (s.emit o).turn = s.turn := (rfl)
@[simp] theorem State.emit_pickCtr (s : State) (o : Out) : (s.emit o).pickCtr = s.pickCtr := (rfl)
@[simp] theorem State.emit_debt (s : State) (o : Out) : (s.emit o).debt = s.debt := (rfl)
@[simp] theorem State.emit_freeCtr (s : State) (o : Out) : (s.emit o).freeCtr = s.freeCtr := (rfl)
@[simp] theorem State.emit_uid (s : State) (o : Out) : (s.emit o).uid = s.uid := (rfl)
@[simp] theorem State.emit_curCell (s : State) (o : Out) : (s.emit o).curCell = s.curCell := (rfl)
@[simp] theorem State.emit_curEng (s : State) (o : Out) : (s.emit o).curEng = s.curEng := (rfl)
@[simp] theorem State.emit_inputs (s : State) (o : Out) : (s.emit o).inputs = s.inputs := (rfl)
@[simp] theorem State.emit_asker (s : State) (o : Out) : (s.emit o).asker = s.asker := (rfl)
@[simp] theorem State.emit_imports (s : State) (o : Out) : (s.emit o).imports = s.imports := (rfl)
@[simp] theorem State.emit_upsets (s : State) (o : Out) : (s.emit o).upsets = s.upsets := (rfl)

@[simp] theorem State.onEngine_cells (s : State) (e : Eng) : (s.onEngine e).cells = s.cells := (rfl)
@[simp] theorem State.onEngine_gangs (s : State) (e : Eng) : (s.onEngine e).gangs = s.gangs := (rfl)
@[simp] theorem State.onEngine_mem (s : State) (e : Eng) : (s.onEngine e).mem = s.mem := (rfl)
@[simp] theorem State.onEngine_memTag (s : State) (e : Eng) : (s.onEngine e).memTag = s.memTag := (rfl)
@[simp] theorem State.onEngine_fabric (s : State) (e : Eng) : (s.onEngine e).fabric = s.fabric := (rfl)
@[simp] theorem State.onEngine_deltas (s : State) (e : Eng) : (s.onEngine e).deltas = s.deltas := (rfl)
@[simp] theorem State.onEngine_layout (s : State) (e : Eng) : (s.onEngine e).layout = s.layout := (rfl)
@[simp] theorem State.onEngine_tables (s : State) (e : Eng) : (s.onEngine e).tables = s.tables := (rfl)
@[simp] theorem State.onEngine_descs (s : State) (e : Eng) : (s.onEngine e).descs = s.descs := (rfl)
@[simp] theorem State.onEngine_leaves (s : State) (e : Eng) : (s.onEngine e).leaves = s.leaves := (rfl)
@[simp] theorem State.onEngine_dups (s : State) (e : Eng) : (s.onEngine e).dups = s.dups := (rfl)
@[simp] theorem State.onEngine_migs (s : State) (e : Eng) : (s.onEngine e).migs = s.migs := (rfl)
@[simp] theorem State.onEngine_handed (s : State) (e : Eng) : (s.onEngine e).handed = s.handed := (rfl)
@[simp] theorem State.onEngine_demoted (s : State) (e : Eng) : (s.onEngine e).demoted = s.demoted := (rfl)
@[simp] theorem State.onEngine_lines (s : State) (e : Eng) : (s.onEngine e).lines = s.lines := (rfl)
@[simp] theorem State.onEngine_ctrs (s : State) (e : Eng) : (s.onEngine e).ctrs = s.ctrs := (rfl)
@[simp] theorem State.onEngine_phasers (s : State) (e : Eng) : (s.onEngine e).phasers = s.phasers := (rfl)
@[simp] theorem State.onEngine_moved (s : State) (e : Eng) : (s.onEngine e).moved = s.moved := (rfl)
@[simp] theorem State.onEngine_graphs (s : State) (e : Eng) : (s.onEngine e).graphs = s.graphs := (rfl)
@[simp] theorem State.onEngine_queues (s : State) (e : Eng) : (s.onEngine e).queues = s.queues := (rfl)
@[simp] theorem State.onEngine_kept (s : State) (e : Eng) : (s.onEngine e).kept = s.kept := (rfl)
@[simp] theorem State.onEngine_refused (s : State) (e : Eng) : (s.onEngine e).refused = s.refused := (rfl)
@[simp] theorem State.onEngine_images (s : State) (e : Eng) : (s.onEngine e).images = s.images := (rfl)
@[simp] theorem State.onEngine_withheld (s : State) (e : Eng) : (s.onEngine e).withheld = s.withheld := (rfl)
@[simp] theorem State.onEngine_power (s : State) (e : Eng) : (s.onEngine e).power = s.power := (rfl)
@[simp] theorem State.onEngine_clock (s : State) (e : Eng) : (s.onEngine e).clock = s.clock := (rfl)
@[simp] theorem State.onEngine_ports (s : State) (e : Eng) : (s.onEngine e).ports = s.ports := (rfl)
@[simp] theorem State.onEngine_links (s : State) (e : Eng) : (s.onEngine e).links = s.links := (rfl)
@[simp] theorem State.onEngine_selfdev (s : State) (e : Eng) : (s.onEngine e).selfdev = s.selfdev := (rfl)
@[simp] theorem State.onEngine_peers (s : State) (e : Eng) : (s.onEngine e).peers = s.peers := (rfl)
@[simp] theorem State.onEngine_chans (s : State) (e : Eng) : (s.onEngine e).chans = s.chans := (rfl)
@[simp] theorem State.onEngine_outFrames (s : State) (e : Eng) : (s.onEngine e).outFrames = s.outFrames := (rfl)
@[simp] theorem State.onEngine_seen (s : State) (e : Eng) : (s.onEngine e).seen = s.seen := (rfl)
@[simp] theorem State.onEngine_inbound (s : State) (e : Eng) : (s.onEngine e).inbound = s.inbound := (rfl)
@[simp] theorem State.onEngine_log (s : State) (e : Eng) : (s.onEngine e).log = s.log := (rfl)
@[simp] theorem State.onEngine_staged (s : State) (e : Eng) : (s.onEngine e).staged = s.staged := (rfl)
@[simp] theorem State.onEngine_logSeq (s : State) (e : Eng) : (s.onEngine e).logSeq = s.logSeq := (rfl)
@[simp] theorem State.onEngine_drop (s : State) (e : Eng) : (s.onEngine e).drop = s.drop := (rfl)
@[simp] theorem State.onEngine_rowErrs (s : State) (e : Eng) : (s.onEngine e).rowErrs = s.rowErrs := (rfl)
@[simp] theorem State.onEngine_badReads (s : State) (e : Eng) : (s.onEngine e).badReads = s.badReads := (rfl)
@[simp] theorem State.onEngine_sessions (s : State) (e : Eng) : (s.onEngine e).sessions = s.sessions := (rfl)
@[simp] theorem State.onEngine_grants (s : State) (e : Eng) : (s.onEngine e).grants = s.grants := (rfl)
@[simp] theorem State.onEngine_advk (s : State) (e : Eng) : (s.onEngine e).advk = s.advk := (rfl)
@[simp] theorem State.onEngine_forwards (s : State) (e : Eng) : (s.onEngine e).forwards = s.forwards := (rfl)
@[simp] theorem State.onEngine_monitors (s : State) (e : Eng) : (s.onEngine e).monitors = s.monitors := (rfl)
@[simp] theorem State.onEngine_funcmode (s : State) (e : Eng) : (s.onEngine e).funcmode = s.funcmode := (rfl)
@[simp] theorem State.onEngine_fwdMs (s : State) (e : Eng) : (s.onEngine e).fwdMs = s.fwdMs := (rfl)
@[simp] theorem State.onEngine_saveTarget (s : State) (e : Eng) : (s.onEngine e).saveTarget = s.saveTarget := (rfl)
@[simp] theorem State.onEngine_remoteHost (s : State) (e : Eng) : (s.onEngine e).remoteHost = s.remoteHost := (rfl)
@[simp] theorem State.onEngine_emergency (s : State) (e : Eng) : (s.onEngine e).emergency = s.emergency := (rfl)
@[simp] theorem State.onEngine_powered (s : State) (e : Eng) : (s.onEngine e).powered = s.powered := (rfl)
@[simp] theorem State.onEngine_stage (s : State) (e : Eng) : (s.onEngine e).stage = s.stage := (rfl)
@[simp] theorem State.onEngine_bootHalt (s : State) (e : Eng) : (s.onEngine e).bootHalt = s.bootHalt := (rfl)
@[simp] theorem State.onEngine_halted (s : State) (e : Eng) : (s.onEngine e).halted = s.halted := (rfl)
@[simp] theorem State.onEngine_signature (s : State) (e : Eng) : (s.onEngine e).signature = s.signature := (rfl)
@[simp] theorem State.onEngine_boot (s : State) (e : Eng) : (s.onEngine e).boot = s.boot := (rfl)
@[simp] theorem State.onEngine_spdm (s : State) (e : Eng) : (s.onEngine e).spdm = s.spdm := (rfl)
@[simp] theorem State.onEngine_wall (s : State) (e : Eng) : (s.onEngine e).wall = s.wall := (rfl)
@[simp] theorem State.onEngine_turn (s : State) (e : Eng) : (s.onEngine e).turn = s.turn := (rfl)
@[simp] theorem State.onEngine_pickCtr (s : State) (e : Eng) : (s.onEngine e).pickCtr = s.pickCtr := (rfl)
@[simp] theorem State.onEngine_debt (s : State) (e : Eng) : (s.onEngine e).debt = s.debt := (rfl)
@[simp] theorem State.onEngine_freeCtr (s : State) (e : Eng) : (s.onEngine e).freeCtr = s.freeCtr := (rfl)
@[simp] theorem State.onEngine_uid (s : State) (e : Eng) : (s.onEngine e).uid = s.uid := (rfl)
@[simp] theorem State.onEngine_curCell (s : State) (e : Eng) : (s.onEngine e).curCell = s.curCell := (rfl)
@[simp] theorem State.onEngine_inputs (s : State) (e : Eng) : (s.onEngine e).inputs = s.inputs := (rfl)
@[simp] theorem State.onEngine_asker (s : State) (e : Eng) : (s.onEngine e).asker = s.asker := (rfl)
@[simp] theorem State.onEngine_imports (s : State) (e : Eng) : (s.onEngine e).imports = s.imports := (rfl)
@[simp] theorem State.onEngine_upsets (s : State) (e : Eng) : (s.onEngine e).upsets = s.upsets := (rfl)
@[simp] theorem State.onEngine_outbox (s : State) (e : Eng) : (s.onEngine e).outbox = s.outbox := (rfl)

@[simp] theorem State.fresh_uid (s : State) : s.fresh.uid = s.uid + 1 := (rfl)
@[simp] theorem State.onEngine_curEng (s : State) (e : Eng) : (s.onEngine e).curEng = e := (rfl)
@[simp] theorem State.cell_onEngine (s : State) (e : Eng) (c : CellId) : (s.onEngine e).cell c = s.cell c := (rfl)
@[simp] theorem State.gang_onEngine (s : State) (e : Eng) (g : GangId) : (s.onEngine e).gang g = s.gang g := (rfl)
@[simp] theorem State.now_onEngine (s : State) (e : Eng) : (s.onEngine e).now = s.now := (rfl)
@[simp] theorem State.onEngine_onEngine (s : State) (e f : Eng) : (s.onEngine e).onEngine f = s.onEngine f := (rfl)
@[simp] theorem State.emit_outbox (s : State) (o : Out) : (s.emit o).outbox = s.outbox ++ [o] := (rfl)

/-! ## Cells and gangs -/

@[simp] theorem State.modCell_eq (s : State) (c : CellId) (f : Cell → Cell) : s.modCell c f = s.setCell c (f (s.cell c)) := (rfl)
@[simp] theorem State.modCur_eq (s : State) (f : Cell → Cell) : s.modCur f = s.setCell s.curCell (f (s.cell s.curCell)) := (rfl)
@[simp] theorem State.setCur_eq (s : State) (x : Cell) : s.setCur x = s.setCell s.curCell x := (rfl)
@[simp] theorem State.modGang_eq (s : State) (g : GangId) (f : Gang → Gang) : s.modGang g f = s.setGang g (f (s.gang g)) := (rfl)
@[simp] theorem State.cur_eq (s : State) : s.cur = s.cell s.curCell := (rfl)

@[simp] theorem State.cell_setCell_self (s : State) (c : CellId) (x : Cell) : (s.setCell c x).cell c = x := by
  simp [State.cell, State.setCell]
theorem State.cell_setCell (s : State) (c d : CellId) (x : Cell) :
    (s.setCell c x).cell d = if c = d then x else s.cell d := by
  simp [State.cell, State.setCell, Vector.getElem_set, Fin.ext_iff]
theorem State.cell_setCell_ne (s : State) {c d : CellId} (x : Cell) (h : c ≠ d) : (s.setCell c x).cell d = s.cell d := by
  rw [State.cell_setCell, if_neg h]
@[simp] theorem State.gang_setCell (s : State) (c : CellId) (x : Cell) (g : GangId) : (s.setCell c x).gang g = s.gang g := (rfl)
@[simp] theorem State.cell_setGang (s : State) (g : GangId) (x : Gang) (c : CellId) : (s.setGang g x).cell c = s.cell c := (rfl)
@[simp] theorem State.gang_setGang_self (s : State) (g : GangId) (x : Gang) : (s.setGang g x).gang g = x := by
  simp [State.gang, State.setGang]
theorem State.gang_setGang (s : State) (g h : GangId) (x : Gang) :
    (s.setGang g x).gang h = if g = h then x else s.gang h := by
  simp [State.gang, State.setGang, Vector.getElem_set, Fin.ext_iff]
@[simp] theorem State.cell_fresh (s : State) (c : CellId) : s.fresh.cell c = s.cell c := (rfl)
@[simp] theorem State.gang_fresh (s : State) (g : GangId) : s.fresh.gang g = s.gang g := (rfl)
@[simp] theorem State.cell_emit (s : State) (o : Out) (c : CellId) : (s.emit o).cell c = s.cell c := (rfl)
@[simp] theorem State.gang_emit (s : State) (o : Out) (g : GangId) : (s.emit o).gang g = s.gang g := (rfl)
@[simp] theorem State.setCell_setCell (s : State) (c : CellId) (x y : Cell) : (s.setCell c x).setCell c y = s.setCell c y := by
  simp [State.setCell]

/-- Numbering and emitting commute with a write to a cell, so writes to one cell gather into one. -/
@[simp] theorem State.fresh_setCell (s : State) (c : CellId) (x : Cell) : (s.setCell c x).fresh = s.fresh.setCell c x := (rfl)
@[simp] theorem State.emit_setCell (s : State) (c : CellId) (x : Cell) (o : Out) : (s.setCell c x).emit o = (s.emit o).setCell c x := (rfl)
@[simp] theorem State.gidOf_setCell_self (s : State) (c : CellId) (x : Cell) : (s.setCell c x).gidOf c = x.gang := by
  simp [State.gidOf]
@[simp] theorem State.setGang_setCell (s : State) (c : CellId) (x : Cell) (g : GangId) (y : Gang) :
    (s.setCell c x).setGang g y = (s.setGang g y).setCell c x := (rfl)

/-- The tick and the gang of the executing cell are those of its gang, whatever else of the cell is written. -/
@[simp] theorem State.gidOf_setCell (s : State) (c d : CellId) (x : Cell) (h : x.gang = (s.cell c).gang) :
    (s.setCell c x).gidOf d = s.gidOf d := by
  unfold State.gidOf
  rw [State.cell_setCell]
  split
  · rename_i e; rw [h, ← e]
  · rfl
@[simp] theorem State.gangOf_setCell (s : State) (c d : CellId) (x : Cell) (h : x.gang = (s.cell c).gang) :
    (s.setCell c x).gangOf d = s.gangOf d := by
  unfold State.gangOf
  rw [State.gidOf_setCell _ _ _ _ h, State.gang_setCell]
@[simp] theorem State.now_setCell (s : State) (c : CellId) (x : Cell) (h : x.gang = (s.cell c).gang) : (s.setCell c x).now = s.now := by
  unfold State.now
  rw [State.gangOf_setCell _ _ _ _ h, State.setCell_curCell]
@[simp] theorem State.now_fresh (s : State) : s.fresh.now = s.now := (rfl)
@[simp] theorem State.gangOf_fresh (s : State) (c : CellId) : s.fresh.gangOf c = s.gangOf c := (rfl)
@[simp] theorem State.gidOf_fresh (s : State) (c : CellId) : s.fresh.gidOf c = s.gidOf c := (rfl)
@[simp] theorem State.gangOf_onEngine (s : State) (e : Eng) (c : CellId) : (s.onEngine e).gangOf c = s.gangOf c := (rfl)
@[simp] theorem State.gidOf_onEngine (s : State) (e : Eng) (c : CellId) : (s.onEngine e).gidOf c = s.gidOf c := (rfl)

/-! ## Engines -/

@[simp] theorem State.engine_setCell (s : State) (c : CellId) (x : Cell) (h : c = s.curCell) :
    (s.setCell c x).engine = x.engine s.curEng := by
  unfold State.engine
  rw [State.cur, State.setCell_curCell, h, State.cell_setCell_self, State.setCell_curEng]
@[simp] theorem State.engine_onEngine (s : State) (e : Eng) : (s.onEngine e).engine = (s.cell s.curCell).engine e := (rfl)
@[simp] theorem State.engine_fresh (s : State) : s.fresh.engine = s.engine := (rfl)
theorem State.div_eq (s : State) : s.div = s.engine.div := (rfl)
theorem State.ccDiv_onEngine (s : State) : (s.onEngine .cc).div = ((s.cell s.curCell).engine .cc).div := (rfl)

@[simp] theorem Cell.engine_setEngine_self (x : Cell) (e : Eng) (q : EngSeq) : (x.setEngine e q).engine e = q := by
  simp [Cell.engine, Cell.setEngine]
theorem engIx_inj {e f : Eng} (h : engIx e = engIx f) : e = f := by cases e <;> cases f <;> first | rfl | exact absurd h (by decide)
theorem Cell.engine_setEngine_ne (x : Cell) {e f : Eng} (q : EngSeq) (h : e ≠ f) :
    (x.setEngine e q).engine f = x.engine f := by
  have h' : engIx e ≠ engIx f := fun k => h (engIx_inj k)
  simp only [Cell.engine, Cell.setEngine, Fin.getElem_fin, Vector.getElem_set]
  rw [if_neg (fun k => h' (Fin.ext k))]
@[simp] theorem Cell.setEngine_gang (x : Cell) (e : Eng) (q : EngSeq) : (x.setEngine e q).gang = x.gang := (rfl)
@[simp] theorem Cell.setEngine_busy (x : Cell) (e : Eng) (q : EngSeq) : (x.setEngine e q).busy = x.busy := (rfl)
@[simp] theorem Cell.setEngine_lastAsid (x : Cell) (e : Eng) (q : EngSeq) : (x.setEngine e q).lastAsid = x.lastAsid := (rfl)
@[simp] theorem Cell.setEngine_cc (x : Cell) (e : Eng) (q : EngSeq) : (x.setEngine e q).cc = x.cc := (rfl)
@[simp] theorem Cell.setEngine_ve (x : Cell) (e : Eng) (q : EngSeq) : (x.setEngine e q).ve = x.ve := (rfl)
@[simp] theorem Cell.setEngine_q (x : Cell) (e : Eng) (q : EngSeq) : (x.setEngine e q).q = x.q := (rfl)
@[simp] theorem Cell.setEngine_sp (x : Cell) (e : Eng) (q : EngSeq) : (x.setEngine e q).sp = x.sp := (rfl)
@[simp] theorem Cell.setEngine_spTag (x : Cell) (e : Eng) (q : EngSeq) : (x.setEngine e q).spTag = x.spTag := (rfl)
@[simp] theorem Cell.setEngine_cr (x : Cell) (e : Eng) (q : EngSeq) : (x.setEngine e q).cr = x.cr := (rfl)
@[simp] theorem Cell.setEngine_me (x : Cell) (e : Eng) (q : EngSeq) : (x.setEngine e q).me = x.me := (rfl)
@[simp] theorem Cell.setEngine_se (x : Cell) (e : Eng) (q : EngSeq) : (x.setEngine e q).se = x.se := (rfl)
@[simp] theorem Cell.setEngine_ord (x : Cell) (e : Eng) (q : EngSeq) : (x.setEngine e q).ord = x.ord := (rfl)
@[simp] theorem Cell.setEngine_flight (x : Cell) (e : Eng) (q : EngSeq) : (x.setEngine e q).flight = x.flight := (rfl)
@[simp] theorem Cell.setEngine_text (x : Cell) (e : Eng) (q : EngSeq) : (x.setEngine e q).text = x.text := (rfl)
@[simp] theorem Cell.setEngine_inval (x : Cell) (e : Eng) (q : EngSeq) : (x.setEngine e q).inval = x.inval := (rfl)

end Sys2Proof.Machine
end

