-- ==== Sys2Proof/Laws/Issue.lean ====
section
/-! SUPPORT. What the issue of a slot and of a timed record answers, once, so that no later proof unfolds it. -/

namespace Sys2Proof.Machine

/-! ## Results in flight -/

@[simp] theorem State.byte_setCell (s : State) (c : CellId) (x : Cell) (a : Nat) : (s.setCell c x).byte a = s.byte a := rfl

/-- A state that differs from s in one write to the executing cell, in numbering and in the engine's name. -/
theorem State.becomes_setCell {s u : State} (x : Cell) (hc : u.cells = s.cells) (hk : u.curCell = s.curCell)
    (hr : { u with cells := s.cells, uid := s.uid, curEng := s.curEng } = s) : s.Becomes (u.setCell s.curCell x) x := by
  refine ⟨⟨hr, fun d hd => ?_, fun a => ?_⟩, ?_⟩
  · rw [State.cell_setCell_ne _ _ (Ne.symm hd), State.cell, State.cell, hc]
  · have hm := congrArg State.mem hr
    exact congrArg (fun m => assocGet 0 m a) hm
  · rw [State.cur, State.setCell_curCell, hk, State.cell_setCell_self]

/-- Landing a result changes the executing cell's results in flight and the number of the next access only. -/
theorem State.lands_land (s : State) (e : Eng) (c : Ctx) (due : Nat) (d : Land) (vfl mfl : FlagBits) (cfl : BitVec 2) :
    s.Lands ((s.onEngine e).land c due d vfl mfl cfl) due c.off e d vfl mfl cfl :=
  State.becomes_setCell (u := (s.onEngine e).fresh) _ rfl rfl rfl

/-! ## Slots -/

/-- A slot that acts answers its effect, or takes the fault its effect finds (R215, R354). -/
theorem slotAlone_acts {m : SlotSem} {sl : Slot} {s : State} (h : s.SlotActs m.op8 sl)
    (hr : m.rule sl (s.onEngine .cc) = none) :
    slotAlone m sl s = .next (match m.act ⟨s.ccOff, 0, 0, 0⟩ sl (s.onEngine .cc) with
      | .ok t => t
      | .error f => (s.onEngine .cc).fault s.curCell .cc s.ccOff s.now none f) := by
  obtain ⟨h1, h2⟩ := h
  have h2' : evalPred (s.onEngine .cc).cur.cc sl.spred = true := h2
  simp only [slotAlone, h1, hr, SlotSem.run, h2', if_true]
  rfl

/-- A slot whose predicate is false leaves all but its idle effect (R202). -/
theorem slotAlone_idle {m : SlotSem} {sl : Slot} {s : State} (h1 : slotCheck m.op8 sl = none)
    (h2 : evalPred s.cur.cc sl.spred = false) (hr : m.rule sl (s.onEngine .cc) = none) :
    slotAlone m sl s = .next (m.idle ⟨s.ccOff, 0, 0, 0⟩ sl (s.onEngine .cc)) := by
  have h2' : evalPred (s.onEngine .cc).cur.cc sl.spred = false := h2
  simp only [slotAlone, h1, hr, SlotSem.run, h2']
  rfl

/-- A slot whose fields its entry does not accept takes the illegal-slot fault (R202, R215, R360). -/
theorem slotAlone_illegal {m : SlotSem} {sl : Slot} {s : State} {b : Nat} (h : slotCheck m.op8 sl = some b) :
    slotAlone m sl s = .next ((s.onEngine .cc).fault s.curCell .cc s.ccOff s.now none
      (rejectFlt (s.gangOf s.curCell).encgen .cc ⟨.slotField, some 0, 1, b, m.op8⟩)) := by
  simp only [slotAlone, h]
  rfl

/-! ## Timed records -/

/-- A timed record that issues answers the effect of its first expansion, or takes the fault its effect finds. -/
theorem issueRec_issues {i : Instr} {e : Eng} {op : Nat} {r : Rec} {off : Nat} {s : State}
    {body : Ctx → State → Except Flt State} (hi : recOf i = some (e, op, r)) (h : s.RecIssues i e r off) :
    issueRec i r body s = match body ⟨off, 0, 0, (s.onEngine e).engMode⟩ (s.begun i e r off) with
      | .ok t => t
      | .error f => (s.begun i e r off).expFault i ⟨off, 0, 0, (s.onEngine e).engMode⟩ f := by
  obtain ⟨h1, h2, h3, h4, h5, h6, h7⟩ := h
  have h4' : recBad i ((s.onEngine e).gangOf (s.onEngine e).curCell).encgen = none := h4
  have h6' : evalPred (s.onEngine e).cur.cc r.pred = true := h6
  have h7' : stepBad i r e ((s.onEngine e).gangOf (s.onEngine e).curCell).encgen 0 = none := h7
  simp only [issueRec, hi, issue, h1, h2, Option.getD_some, h3, h4', h6', Bool.false_eq_true, if_false]
  simp only [issuesOf] at h5
  rw [h5]
  simp only [State.perform, h7', if_true]
  rfl

/-- Every expansion that takes effect answers its effect, or takes the fault its effect finds (R25, R354). -/
theorem issueRec_expands {i : Instr} {e : Eng} {op : Nat} {r : Rec} {off k : Nat} {mode : BitVec 4} {s u : State}
    {body : Ctx → State → Except Flt State} (hi : recOf i = some (e, op, r)) (h : s.Expands i e r off k mode u) :
    issueRec i r body s = match body ⟨off, k, 0, mode⟩ u with
      | .ok t => t
      | .error f => u.expFault i ⟨off, k, 0, mode⟩ f := by
  rcases h with ⟨rfl, h, rfl, rfl⟩ | ⟨h, x, h1, h2, rfl, rfl, rfl, rfl⟩
  · exact issueRec_issues hi h
  · have h' : stepBad i r e ((s.onEngine e).gangOf (s.onEngine e).curCell).encgen x.done = none := h
    simp only [issueRec, hi, issue, h1, State.perform, h', if_pos h2]
    rfl

end Sys2Proof.Machine
end

