-- ==== Sys2Proof/Laws/Slots.lean ====
section
/-! SUPPORT. What the slots of one shape answer: a slot whose effect is one result in flight, an integer slot, a compare and a
predicate operation. -/

namespace Sys2Proof.Machine

/-- A slot whose effect succeeds answers it. -/
theorem slotAlone_ok {m : SlotSem} {sl : Slot} {s t : State} (h : s.SlotActs m.op8 sl)
    (hr : m.rule sl (s.onEngine .cc) = none) (ht : m.act ⟨s.ccOff, 0, 0, 0⟩ sl (s.onEngine .cc) = .ok t) :
    slotAlone m sl s = .next t := by
  rw [slotAlone_acts h hr, ht]

/-- A slot whose effect finds a fault takes it. -/
theorem slotAlone_error {m : SlotSem} {sl : Slot} {s : State} {f : Flt} (h : s.SlotActs m.op8 sl)
    (hr : m.rule sl (s.onEngine .cc) = none) (ht : m.act ⟨s.ccOff, 0, 0, 0⟩ sl (s.onEngine .cc) = .error f) :
    slotAlone m sl s = .next ((s.onEngine .cc).fault s.curCell .cc s.ccOff s.now none f) := by
  rw [slotAlone_acts h hr, ht]

/-- A slot that a check of the state makes illegal or privileged takes that fault, whatever its predicate says (R215). -/
theorem slotAlone_rule {m : SlotSem} {sl : Slot} {s : State} {f : Flt} (h1 : slotCheck m.op8 sl = none)
    (hr : m.rule sl (s.onEngine .cc) = some f) :
    slotAlone m sl s = .next ((s.onEngine .cc).fault s.curCell .cc s.ccOff s.now none f) := by
  simp only [slotAlone, h1, hr]
  rfl

/-- A slot whose effect is one result n engine cycles later. -/
theorem slotAlone_lands {m : SlotSem} {sl : Slot} {s : State} (h : s.SlotActs m.op8 sl)
    (hr : m.rule sl (s.onEngine .cc) = none) {n : Nat} {d : Land} {vf mf : FlagBits} {k : BitVec 2}
    (ht : m.act ⟨s.ccOff, 0, 0, 0⟩ sl (s.onEngine .cc) =
      .ok (State.landAfter (s.onEngine .cc) ⟨s.ccOff, 0, 0, 0⟩ n d vf mf k)) :
    ∃ t, slotAlone m sl s = .next t ∧ s.Lands t (s.now + n * s.ccDiv) s.ccOff .cc d vf mf k :=
  ⟨_, slotAlone_ok h hr ht, State.lands_land s .cc ⟨s.ccOff, 0, 0, 0⟩ _ _ _ _ _⟩

/-- The record a fault prepares (R347, R348). -/
def State.faultRecord (s : State) (c : CellId) (e : Eng) (off tick : Nat) (redo : Option (Instr × Cc × Nat)) (f : Flt) : PFault :=
  { id := s.uid, cls := f.cls, cell := c, unit := f.unit, tick := tick, tns := s.clock.time.extractLsb' 16 64,
    segid := (s.cell c).sq.segid, off := off, slot := f.slot, eng := e, addr := BitVec.ofNat 64 f.addr, akind := f.akind,
    synd := BitVec.ofNat 64 f.synd, written := false, precise := true, mode := s.faultMode f.cls, redo := redo, yop := none, recSeq := 0,
    again := false }

theorem State.gang_request_self (s : State) (g : GangId) (k : Cond) :
    (s.request g k).gang g = { s.gang g with reqs := (s.gang g).reqs ++ [⟨(s.gang g).tick + (s.gang g).dstall, k⟩] } := by
  rw [State.request, State.modGang_eq, State.gang_setGang_self]

theorem State.gang_request_ne (s : State) {g h : GangId} (k : Cond) (n : h ≠ g) : (s.request g k).gang h = s.gang h := by
  rw [State.request, State.modGang_eq, State.gang_setGang, if_neg (Ne.symm n)]

theorem State.gang_fault_self (s : State) (c : CellId) (e : Eng) (off tick : Nat) (redo : Option (Instr × Cc × Nat)) (f : Flt) :
    (s.fault c e off tick redo f).gang (s.gidOf c) = { s.gang (s.gidOf c) with
      faults := (s.gang (s.gidOf c)).faults ++ [s.faultRecord c e off tick redo f]
      reqs := (s.gang (s.gidOf c)).reqs ++ [⟨(s.gang (s.gidOf c)).tick + (s.gang (s.gidOf c)).dstall, .fault s.uid⟩] } := by
  rw [State.fault, State.gang_fresh, State.gang_request_self, State.modGang_eq, State.gang_setGang_self]
  rfl

theorem State.gang_fault_ne (s : State) (c : CellId) (e : Eng) (off tick : Nat) (redo : Option (Instr × Cc × Nat)) (f : Flt)
    {h : GangId} (n : h ≠ s.gidOf c) : (s.fault c e off tick redo f).gang h = s.gang h := by
  rw [State.fault, State.gang_fresh, State.gang_request_ne _ _ n, State.modGang_eq, State.gang_setGang, if_neg (Ne.symm n)]

/-- Taking a fault, field by field (R43, R354). -/
theorem State.takesFault_fault (s : State) (d e : Eng) (off : Nat) (redo : Option (Instr × Cc × Nat)) (f : Flt) :
    s.TakesFault ((s.onEngine d).fault s.curCell e off s.now redo f) e off f :=
  ⟨rfl, ⟨State.faultRecord (s.onEngine d) s.curCell e off s.now redo f,
      State.gang_fault_self (s.onEngine d) s.curCell e off s.now redo f,
      rfl, rfl, rfl, rfl, rfl, rfl, rfl, rfl, rfl, rfl, rfl, rfl, rfl⟩,
    fun _ h => State.gang_fault_ne (s.onEngine d) s.curCell e off s.now redo f h⟩

/-- Raising a request, field by field (R43). -/
theorem State.requests_request (s : State) (d : Eng) (k : Cond) :
    s.Requests ((s.onEngine d).request (s.gidOf s.curCell) k) k :=
  ⟨rfl, State.gang_request_self (s.onEngine d) _ k, fun _ h => State.gang_request_ne (s.onEngine d) k h⟩

/-- An integer slot (R215, R220, R221). -/
theorem alu_lands (k : Alu) (op8 : Nat) (sl : Slot) (s : State) (h : s.SlotActs op8 sl) :
    let r := s.cur.cc
    let w := szBits sl.sz
    let b := (srcB sl r).toNat % 2 ^ w
    let tag := r.gtag sl.sa || (k.useB && srcBTag sl r) || (k.useD && r.gtag sl.dst)
    ∃ t, slotAlone { op8 := op8, act := aluAct k } sl s = .next t ∧
      s.Lands t (s.now + k.lat * s.ccDiv) s.ccOff .cc (.g sl.dst (if tag then 0 else
        extendTo64 k.sgn w (k.f w ((r.greg sl.sa).toNat % 2 ^ w) b ((r.greg sl.dst).toNat % 2 ^ w))) tag) 0 0
        (psn tag ||| (if (k.idz && b = 0) && !tag then 1 else 0)) :=
  slotAlone_lands (m := { op8 := op8, act := aluAct k }) h rfl rfl

/-- A compare (R224). -/
theorem cmp_lands (f : Nat → Nat → Nat → Bool) (op8 : Nat) (sl : Slot) (s : State) (h : s.SlotActs op8 sl) :
    let r := s.cur.cc
    let w := szBits sl.sz
    let tag := r.gtag sl.sa || srcBTag sl r
    ∃ t, slotAlone { op8 := op8, act := cmpAct f } sl s = .next t ∧
      s.Lands t (s.now + 1 * s.ccDiv) s.ccOff .cc (.p (Fin.ofNat 16 sl.dst.val)
        (f w ((r.greg sl.sa).toNat % 2 ^ w) ((srcB sl r).toNat % 2 ^ w) && !tag)) 0 0 (psn tag) :=
  slotAlone_lands (m := { op8 := op8, act := cmpAct f }) h rfl rfl

end Sys2Proof.Machine
end

