-- ==== Sys2Proof/Laws/Vector.lean ====
section
/-! SUPPORT. What the vector engine's shared operations answer: sources as they are read, results on their way, and the lanes,
tags and flags of a lane-wise result. -/

namespace Sys2Proof.Machine

/-! ## Sources and destinations -/

/-- A source that State.Reads describes is what vRead gives. -/
theorem vRead_ok {s : State} {o : Opnd} {x : Ix} {v : VSrc} (h : s.Reads o x v) : vRead o x s = .ok v := by
  cases o <;> simp only [State.Reads] at h
  case lq => obtain ⟨q, l, h1, h2, rfl⟩ := h; simp only [vRead, h1, headOf, h2, if_true]; rfl
  case mq => obtain ⟨q, l, h1, h2, rfl⟩ := h; simp only [vRead, h1, headOf, h2, if_true]; rfl
  all_goals rw [h]; rfl

/-- The arguments of an expansion whose sources can be read. -/
theorem vArgs_ok {r : Rec} {c : Ctx} {s : State} {a b : VSrc} (ha : s.Reads r.o1 (ixOf r.nest c.k) a)
    (hb : s.Reads r.o2 (ixOf r.nest c.k) b) :
    vArgs r c s = .ok (⟨a, b, vThird r.o0 (ixOf r.nest c.k) s, vOld r.o0 (ixOf r.nest c.k) s, activeOf r.o0 s,
      s.cur.ve.kmask (Fin.ofNat 8 (r.mod.toNat % 8)), kRead r.o2 (ixOf r.nest c.k) s, modeOf c.mode, r.mod⟩,
      popHeads r s) := by
  simp only [vArgs, vRead_ok ha, vRead_ok hb]

/-- Writing back what a cell holds changes nothing. -/
theorem State.setCur_self (s : State) : s.setCur s.cur = s := by
  show s.setCell s.curCell (s.cell s.curCell) = s
  simp only [State.setCell, State.cell]
  rw [show s.cells.set s.curCell s.cells[s.curCell] _ = s.cells from Vector.set_getElem_self _]

/-- Removing a head changes the executing cell's queues only. -/
theorem popQueue_eq (w : Nat) (s : State) :
    ∃ lq mq, popQueue w s = s.setCur { s.cur with q := { s.cur.q with lq := lq, mq := mq } } := by
  by_cases h : w < 4
  · have e : popQueue w s = s.setCur { s.cur with q := { s.cur.q with
        lq := s.cur.q.lq.set (Fin.ofNat 4 w) s.cur.q.lq[(Fin.ofNat 4 w)].tail, mq := s.cur.q.mq } } := by
      simp only [popQueue, State.modCur, State.modCell, if_pos h]
      rfl
    exact ⟨_, _, e⟩
  · have e : popQueue w s = s.setCur { s.cur with q := { s.cur.q with
        lq := s.cur.q.lq, mq := s.cur.q.mq.set (Fin.ofNat 2 (w - 6)) s.cur.q.mq[(Fin.ofNat 2 (w - 6))].tail } } := by
      simp only [popQueue, State.modCur, State.modCell, if_neg h]
      rfl
    exact ⟨_, _, e⟩

/-- Popping heads leaves all but the executing cell's LQ and MQ queues. -/
theorem popHeads_eq (r : Rec) (s : State) :
    ∃ lq mq, popHeads r s = s.setCur { s.cur with q := { s.cur.q with lq := lq, mq := mq } } := by
  have fold (l : List Nat) : ∀ u : State, ∃ lq mq, l.foldl (fun t w => popQueue w t) u =
      u.setCur { u.cur with q := { u.cur.q with lq := lq, mq := mq } } := by
    induction l with
    | nil =>
      intro u
      refine ⟨u.cur.q.lq, u.cur.q.mq, ?_⟩
      exact (State.setCur_self u).symm
    | cons w l ih =>
      intro u
      obtain ⟨q1, q2, h⟩ := popQueue_eq w u
      obtain ⟨q3, q4, h2⟩ := ih (popQueue w u)
      refine ⟨q3, q4, ?_⟩
      rw [List.foldl_cons, h2, h]
      simp only [State.setCur, State.cur, State.setCell_curCell, State.cell_setCell_self]
      simp only [State.setCell, Vector.set_set]
  exact fold _ s

/-- A deprecated record changes a counter of its cell and the messages to the host (R331). -/
theorem State.deprecated_rest (s : State) (off : Nat) :
    ∃ n o, s.deprecated off = { s.setCur { s.cur with cc := { s.cur.cc with depcnt := n } } with outbox := o } := by
  rw [State.deprecated]
  by_cases h : s.cur.cc.depcnt = 2 ^ 32 - 1
  · refine ⟨s.cur.cc.depcnt, s.outbox, ?_⟩
    simp only [if_pos h]
    exact (State.setCur_self s).symm
  · simp only [if_neg h]
    split <;> split
    all_goals first
      | exact ⟨s.cur.cc.depcnt + 1, s.outbox ++ [.advisory (s.gangOf s.curCell).asid s.curCell off], rfl⟩
      | exact ⟨s.cur.cc.depcnt + 1, s.outbox, rfl⟩

/-- Counting a deprecated record leaves the engine that runs. -/
theorem State.deprecated_curEng (s : State) (off : Nat) : (s.deprecated off).curEng = s.curEng := by
  obtain ⟨n, o, h⟩ := State.deprecated_rest s off
  rw [h]
  rfl

/-- The engine of a record that takes effect. -/
theorem State.Expands.curEng {s u : State} {i : Instr} {e : Eng} {r : Rec} {off k : Nat} {mode : BitVec 4}
    (h : s.Expands i e r off k mode u) : u.curEng = e := by
  rcases h with ⟨rfl, _, rfl, rfl⟩ | ⟨_, x, _, _, rfl, rfl, rfl, rfl⟩
  · simp only [State.begun, State.beginRecord]
    split
    · rw [State.deprecated_curEng]
      rfl
    · rfl
  · rfl

/-- Landing a result of the engine that runs. -/
theorem State.lands_land_of {s : State} {e : Eng} (he : s.curEng = e) (c : Ctx) (due : Nat) (d : Land) (vfl mfl : FlagBits)
    (cfl : BitVec 2) : s.Lands (s.land c due d vfl mfl cfl) due c.off e d vfl mfl cfl := by
  subst he
  exact State.becomes_setCell (u := s.fresh) _ rfl rfl rfl

/-- A change of the executing cell and then a result of the engine that runs. -/
theorem State.becomes_modCur_land {s : State} (f : Cell → Cell) (c : Ctx) (due : Nat) (d : Land) (vfl mfl : FlagBits)
    (cfl : BitVec 2) (hf : (f s.cur).flight = s.cur.flight) :
    s.Becomes ((s.modCur f).land c due d vfl mfl cfl)
      { f s.cur with flight := s.cur.flight ++ [⟨due, s.uid, s.curEng, c.off, d, vfl, mfl, cfl⟩] } := by
  have h : (s.modCur f).land c due d vfl mfl cfl = s.fresh.setCell s.curCell
      { f s.cur with flight := s.cur.flight ++ [⟨due, s.uid, s.curEng, c.off, d, vfl, mfl, cfl⟩] } := by
    simp only [State.land, State.modCur_eq, State.setCell_curCell, State.cell_setCell_self, State.setCell_uid,
      State.setCell_curEng]
    rw [show (f (s.cell s.curCell)).flight = s.cur.flight from hf]
    simp only [State.setCell, State.fresh, Vector.set_set]
    rfl
  rw [h]
  exact State.becomes_setCell (u := s.fresh) _ rfl rfl rfl

/-- A result on its way to a V register or to a queue with room. -/
theorem vPut_puts {r : Rec} {c : Ctx} {u : State} (lat : Nat) (act : BitVec 64) (v : VRes) (he : u.curEng = .ve)
    (hr : u.Room r.o0) :
    ∃ t, vPut r c lat act v (popHeads r u) = .ok t ∧ u.Puts t r c.off c.k lat act v := by
  obtain ⟨lq, mq, hp⟩ := popHeads_eq r u
  have hn : (popHeads r u).now = u.now := by
    rw [hp]; simp only [State.now, State.gangOf, State.gidOf, State.setCur, State.setCell_curCell, State.cell_setCell_self]
    rfl
  have hd : (popHeads r u).div = u.div := by
    rw [hp]; simp only [State.div, State.engine, State.cur, State.setCur, State.setCell_curCell, State.cell_setCell_self]
    rfl
  have hu : (popHeads r u).uid = u.uid := by rw [hp]; rfl
  have hc : (popHeads r u).curEng = .ve := by rw [hp]; exact he
  cases ho : r.o0 with
  | v n km xen xn st =>
    simp only [vPut, State.Puts, ho]
    refine ⟨_, rfl, ?_⟩
    rw [State.landAfter, hn, hd]
    exact State.lands_land_of hc c _ _ _ _ _
  | sq n =>
    rw [ho] at hr
    have hl : ((popHeads r u).cur.q.sq[n]).length < 16 := by
      rw [hp]; simp only [State.cur, State.setCur, State.setCell_curCell, State.cell_setCell_self]
      exact hr
    simp only [vPut, State.Puts, ho, pushOf, if_pos hl, hu, hn, hd]
    refine ⟨_, rfl, ?_⟩
    have h := State.becomes_modCur_land (s := popHeads r u)
      (fun x => { x with q := { x.q with sq := x.q.sq.set n ((popHeads r u).cur.q.sq[n] ++
        [⟨u.uid, u.now + lat * u.div, true, v.row, v.tags != 0⟩]) } }) c (u.now + lat * u.div) .flags v.fl 0 0 rfl
    rw [hu, hc] at h
    have hn' : ((popHeads r u).modCur fun x => { x with q := { x.q with sq := x.q.sq.set n ((popHeads r u).cur.q.sq[n] ++
        [⟨u.uid, u.now + lat * u.div, true, v.row, v.tags != 0⟩]) } }).now = u.now := by
      rw [← hn]
      simp only [State.now, State.gangOf, State.gidOf, State.modCur_eq, State.setCell_curCell, State.cell_setCell_self]
      rfl
    have hd' : ((popHeads r u).modCur fun x => { x with q := { x.q with sq := x.q.sq.set n ((popHeads r u).cur.q.sq[n] ++
        [⟨u.uid, u.now + lat * u.div, true, v.row, v.tags != 0⟩]) } }).div = u.div := by
      rw [← hd]
      simp only [State.div, State.engine, State.cur, State.modCur_eq, State.setCell_curCell, State.cell_setCell_self]
      rfl
    rw [State.landAfter, hn', hd']
    exact h
  | _ => simp only [vPut, State.Puts, ho]; exact ⟨_, rfl, rfl⟩

/-! ## Flags -/

/-- A flag of a lane-wise result is one that an included lane raises. -/
theorem getLsbD_orFlags (m : BitVec 64) (f : Nat → FlagBits) (j : Nat) :
    (orFlags m f).getLsbD j = true ↔ ∃ i < 64, m.getLsbD i = true ∧ (f i).getLsbD j = true := by
  have fold (n : Nat) : ∀ a : FlagBits, ((List.range n).foldl (fun a i => if m.getLsbD i then a ||| f i else a) a).getLsbD j = true ↔
      a.getLsbD j = true ∨ ∃ i < n, m.getLsbD i = true ∧ (f i).getLsbD j = true := by
    induction n with
    | zero => simp
    | succ n ih =>
      intro a
      rw [List.range_succ, List.foldl_append, List.foldl_cons, List.foldl_nil]
      by_cases h : m.getLsbD n = true
      · rw [if_pos h, BitVec.getLsbD_or, Bool.or_eq_true, ih a]
        constructor
        · rintro ((h1 | ⟨i, h1, h2⟩) | h1)
          · exact .inl h1
          · exact .inr ⟨i, by omega, h2⟩
          · exact .inr ⟨n, by omega, h, h1⟩
        · rintro (h1 | ⟨i, h1, h2, h3⟩)
          · exact .inl (.inl h1)
          · by_cases hi : i = n
            · subst hi; exact .inr h3
            · exact .inl (.inr ⟨i, by omega, h2, h3⟩)
      · rw [if_neg h, ih a]
        constructor
        · rintro (h1 | ⟨i, h1, h2⟩)
          · exact .inl h1
          · exact .inr ⟨i, by omega, h2⟩
        · rintro (h1 | ⟨i, h1, h2, h3⟩)
          · exact .inl h1
          · by_cases hi : i = n
            · subst hi; exact absurd h2 h
            · exact .inr ⟨i, by omega, h2, h3⟩
  simpa [orFlags] using fold 64 0

/-! ## Lane-wise results -/

/-- The lanes, tags and flags of a lane-wise result (R121, R242, R243). -/
theorem laneWise_lanes (mrg : Bool) (pv : VArgs → Lane → Lane) (f : VArgs → Lane → Lane → Lane → Lane → Lane × FlagBits)
    (x : VArgs) :
    (laneWise mrg pv f x).Lanes x.act
      (fun i => x.a.tags.getLsbD i || x.b.tags.getLsbD i || x.c.tags.getLsbD i || (mrg && x.old.tags.getLsbD i))
      (fun i => pv x (lane x.old.row i))
      fun i => f x (lane x.a.row i) (lane x.b.row i) (lane x.c.row i) (lane x.old.row i) := by
  have ht (i : Nat) : (laneWise mrg pv f x).tags.getLsbD i =
      (x.a.tags.getLsbD i || x.b.tags.getLsbD i || x.c.tags.getLsbD i || (mrg && x.old.tags.getLsbD i)) := by
    cases mrg <;> simp [laneWise]
  refine ⟨fun i _ => ht i, fun i hi => ?_, fun j _ => ?_⟩
  · rw [← ht i]
    simp only [laneWise, lane_mkRow _ i hi]
  · simp only [laneWise, getLsbD_orFlags]
    constructor
    · rintro ⟨i, h1, h2, h3⟩
      refine ⟨i, h1, ?_, ?_, h3⟩
      · simp only [BitVec.getLsbD_and, Bool.and_eq_true] at h2; exact h2.1
      · rw [← ht i]; simp only [BitVec.getLsbD_and, BitVec.getLsbD_not, Bool.and_eq_true, Bool.not_eq_true'] at h2
        exact h2.2.2
    · rintro ⟨i, h1, h2, h3, h4⟩
      refine ⟨i, h1, ?_, h4⟩
      rw [← ht i] at h3
      simp only [laneWise] at h3
      simp only [BitVec.getLsbD_and, BitVec.getLsbD_not, Bool.and_eq_true, h2, h3, h1, decide_true, Bool.not_false, and_self]

/-- An expansion of a lane-wise record completes (R25, R241–R243). -/
theorem vApply_lanes {i : Instr} {op lat : Nat} {mrg : Bool} {pv : VArgs → Lane → Lane}
    {f : VArgs → Lane → Lane → Lane → Lane → Lane × FlagBits} {r : Rec} {s u : State} {off k : Nat} {mode : BitVec 4}
    {a b : VSrc} (hi : recOf i = some (.ve, op, r)) (h : s.Expands i .ve r off k mode u)
    (ha : u.Reads r.o1 (ixOf r.nest k) a) (hb : u.Reads r.o2 (ixOf r.nest k) b) (hr : u.Room r.o0) :
    let x : VArgs := ⟨a, b, vThird r.o0 (ixOf r.nest k) u, vOld r.o0 (ixOf r.nest k) u, activeOf r.o0 u,
      u.cur.ve.kmask (Fin.ofNat 8 (r.mod.toNat % 8)), kRead r.o2 (ixOf r.nest k) u, modeOf mode, r.mod⟩
    ∃ t, issueRec i r (vApply lat (laneWise mrg pv f) r) s = t ∧ u.Puts t r off k lat x.act (laneWise mrg pv f x) := by
  intro x
  obtain ⟨t, h1, h2⟩ := vPut_puts (c := ⟨off, k, 0, mode⟩) lat x.act (laneWise mrg pv f x) h.curEng hr
  refine ⟨t, ?_, h2⟩
  rw [issueRec_expands hi h]
  have : vApply lat (laneWise mrg pv f) r ⟨off, k, 0, mode⟩ u = .ok t := by
    simp only [vApply, vArgs_ok (c := ⟨off, k, 0, mode⟩) ha hb]
    exact h1
  rw [this]

end Sys2Proof.Machine
end

