-- ==== Sys2Proof/Tests/Slice0.lean ====
section
/-! SUPPORT. Tests: words written out from the manual's encoding tables, ill-formed terms that the checks refuse, one step of a
few instructions, and for every statement with hypotheses a state that meets them. -/

set_option Elab.async false

namespace Sys2Proof.Tests

open Sys2Proof Sys2Proof.Machine

/-! ## Decoding: the words stand as R196–R202 lay them out, the numbers of the opcodes as R205 lists them -/

/-- Do the words with each OP and the given engine, MOD, loop nest and operand words decode to the record of each constructor? -/
def reads (eng md : Nat) (ws : List Nat) (r : Rec) (l : List (Nat × (Rec → Instr))) : Bool :=
  l.all fun x => match decode 4 (recordNat ((eng + 4 * x.1 + 2048 * md) :: ws)) with
    | .ok i => decide (i = x.2 r)
    | .error _ => false

/-- Do the slot words with each OP8 and the given upper bits decode to the operation of each constructor? -/
noncomputable def readsSlot (hi : Nat) (sl : Slot) (l : List (Nat × (Slot → Instr))) : Bool :=
  l.all fun x => match decodeSlotRaw (BitVec.ofNat 64 (hi + x.1)) with
    | .ok (op8, s) => decide (op8 = x.1 ∧ s = sl ∧ slotOf (x.2 sl) = some (op8, sl)) &&
        (match slotTable[op8]? with
          | some c => decide (c sl = x.2 sl)
          | none => false)
    | .error _ => false

theorem test_words_ve_binary : reads 1 0 [0, 0x31, 0, 0x41, 0, 0x51, 0]
    ⟨0, .always, 0, 0, .v 3 0 false 0 .zero, .v 4 0 false 0 .zero, .v 5 0 false 0 .zero⟩
    [(0x1, .fadd), (0x2, .fsub), (0x3, .fmul), (0x7, .fmin), (0x8, .fmax), (0xB, .fcps), (0xC, .fdiv), (0x1A, .fscal), (0x1D, .hadd), (0x1E, .hmul), (0x20, .hmax), (0x21, .hmin), (0x22, .iadd), (0x23, .isub), (0x24, .imul), (0x25, .imulhs), (0x26, .imulhn), (0x27, .imins), (0x28, .imaxs), (0x29, .iminn), (0x2A, .imaxn), (0x2B, .iand), (0x2C, .ior), (0x2D, .ixor), (0x2E, .iandn), (0x2F, .ishl), (0x30, .ishrl), (0x31, .ishra), (0x3C, .badds), (0x3D, .baddn)] = true := by decide +kernel

theorem test_words_ve_ternary : reads 1 0 [0, 0x19031, 2, 0x41, 0, 0x202, 0]
    ⟨0, .always, 0, 0, .v 3 0 true 12 ⟨2, 0, 0, 0⟩, .v 4 0 false 0 .zero, .lq 0 true⟩
    [(0x4, .ffma), (0x5, .ffms), (0x6, .fnma), (0x1F, .hfma), (0x38, .imad), (0x4D, .perm)] = true := by decide +kernel

theorem test_words_ve_unary : reads 1 0 [0, 0x31, 0, 0x21e, 0, 0, 0]
    ⟨0, .always, 0, 0, .v 3 0 false 0 .zero, .mq 1 true, .absent⟩
    [(0x9, .fabs), (0xA, .fneg), (0xD, .fsqrt), (0xE, .frcp), (0xF, .frsq), (0x10, .fexp2), (0x11, .flog2), (0x12, .ftanh), (0x13, .ffloor), (0x14, .frint), (0x1B, .ffrac), (0x19, .fcls), (0x32, .iabs), (0x36, .iclz), (0x37, .ipopc), (0x3B, .bitrev), (0x3E, .cvtfi), (0x3F, .cvtfn), (0x40, .cvtif), (0x41, .cvtnf), (0x4A, .movv)] = true := by decide +kernel

theorem test_words_ve_unary_mod : reads 1 1 [0, 0x31, 0, 0x41, 0, 0, 0]
    ⟨0, .always, 1, 0, .v 3 0 false 0 .zero, .v 4 0 false 0 .zero, .absent⟩
    [(0x1C, .fcvtr), (0x49, .qsc), (0x39, .isxt), (0x3A, .izxt), (0x42, .cvtfh), (0x43, .cvthf), (0x44, .cvtf8), (0x46, .cvti8), (0x45, .cvt8f), (0x47, .cvt8i), (0x48, .qmax), (0x50, .comp), (0x51, .expd), (0x5A, .rsum), (0x5B, .rmax), (0x5C, .rmin), (0x5D, .rargmx), (0x5E, .scana), (0x5F, .scanm), (0x61, .topkv), (0x60, .histb)] = true := by decide +kernel

theorem test_words_ve_compares : reads 1 5 [0, 0x27, 0, 0x41, 0, 0x300000004, 0]
    ⟨0, .always, 5, 0, .k 2 .zero, .v 4 0 false 0 .zero, .imm 3⟩
    [(0x15, .fcmpeq), (0x16, .fcmplt), (0x17, .fcmple), (0x18, .fcmpun), (0x33, .icmpeq), (0x34, .icmplts), (0x35, .icmpltn)] = true := by decide +kernel

theorem test_words_ve_masked_binary : reads 1 5 [0, 0x31, 0, 0x41, 0, 0x51, 0]
    ⟨0, .always, 5, 0, .v 3 0 false 0 .zero, .v 4 0 false 0 .zero, .v 5 0 false 0 .zero⟩
    [(0x4C, .vsel), (0x52, .lut16), (0x4E, .rotm)] = true := by decide +kernel

theorem test_words_ve_lane_broadcast : reads 1 0 [0, 0x31, 0, 0x41, 0, 0x300000004, 0]
    ⟨0, .always, 0, 0, .v 3 0 false 0 .zero, .v 4 0 false 0 .zero, .imm 3⟩
    [(0x4F, .bcln)] = true := by decide +kernel

theorem test_words_ve_immediate : reads 1 1 [0, 0x31, 0, 0x500000004, 0, 0, 0]
    ⟨0, .always, 1, 0, .v 3 0 false 0 .zero, .imm 5, .absent⟩
    [(0x4B, .vmovi)] = true := by decide +kernel

theorem test_words_ve_masks : reads 1 0 [0, 0x27, 0, 0x37, 0, 0x47, 0]
    ⟨0, .always, 0, 0, .k 2 .zero, .k 3 .zero, .k 4 .zero⟩
    [(0x53, .kand), (0x54, .kor), (0x55, .kxor)] = true := by decide +kernel

theorem test_words_ve_mask_unary : reads 1 0 [0, 0x27, 0, 0x37, 0, 0, 0]
    ⟨0, .always, 0, 0, .k 2 .zero, .k 3 .zero, .absent⟩
    [(0x56, .knot), (0x58, .kfirst), (0x59, .kmov)] = true := by decide +kernel

theorem test_words_ve_mask_count : reads 1 0 [0, 0x31, 0, 0x37, 0, 0, 0]
    ⟨0, .always, 0, 0, .v 3 0 false 0 .zero, .k 3 .zero, .absent⟩
    [(0x57, .kpopc)] = true := by decide +kernel

theorem test_words_ve_tile_config : reads 1 0 [0, 0x25, 0, 0x500000004, 0, 0, 0]
    ⟨0, .always, 0, 0, .zrow 2 0 .zero, .imm 5, .absent⟩
    [(0x62, .tcfg)] = true := by decide +kernel

theorem test_words_ve_tile_row_write : reads 1 0 [0, 0x25, 0, 0x41, 0, 0, 0]
    ⟨0, .always, 0, 0, .zrow 2 0 .zero, .v 4 0 false 0 .zero, .absent⟩
    [(0x63, .twrr)] = true := by decide +kernel

theorem test_words_ve_tile_row_read : reads 1 0 [0, 0x31, 0, 0x15, 0, 0, 0]
    ⟨0, .always, 0, 0, .v 3 0 false 0 .zero, .zrow 1 0 .zero, .absent⟩
    [(0x64, .trdr), (0x69, .trds)] = true := by decide +kernel

theorem test_words_ve_tile_col_write : reads 1 0 [0, 0x600000026, 0, 0x41, 0, 0, 0]
    ⟨0, .always, 0, 0, .zcol 2 6 .zero, .v 4 0 false 0 .zero, .absent⟩
    [(0x65, .twrc)] = true := by decide +kernel

theorem test_words_ve_tile_col_read : reads 1 0 [0, 0x31, 0, 0x700000016, 0, 0, 0]
    ⟨0, .always, 0, 0, .v 3 0 false 0 .zero, .zcol 1 7 .zero, .absent⟩
    [(0x66, .trdc)] = true := by decide +kernel

theorem test_words_ve_tile_whole : reads 1 0 [0, 0x25, 0, 0, 0, 0, 0]
    ⟨0, .always, 0, 0, .zrow 2 0 .zero, .absent, .absent⟩
    [(0x67, .tzero), (0x68, .trel)] = true := by decide +kernel

theorem test_words_ve_mode : reads 1 0 [0, 0, 0, 0x500000004, 0, 0, 0]
    ⟨0, .always, 0, 0, .absent, .imm 5, .absent⟩
    [(0x6A, .vmode)] = true := by decide +kernel

theorem test_words_ve_flags : reads 1 0 [0, 0x31, 0, 0, 0, 0, 0]
    ⟨0, .always, 0, 0, .v 3 0 false 0 .zero, .absent, .absent⟩
    [(0x6B, .vflg)] = true := by decide +kernel

theorem test_words_ve_park : reads 1 0 [0, 0x900000008, 0, 0x41, 0, 0, 0]
    ⟨0, .always, 0, 0, .park 9 .zero, .v 4 0 false 0 .zero, .absent⟩
    [(0x6C, .vspl)] = true := by decide +kernel

theorem test_words_ve_unpark : reads 1 0 [0, 0x31, 0, 0xa00000008, 0, 0, 0]
    ⟨0, .always, 0, 0, .v 3 0 false 0 .zero, .park 10 .zero, .absent⟩
    [(0x6D, .vfil)] = true := by decide +kernel

theorem test_words_ve_nop : reads 1 0 [0, 0, 0, 0, 0, 0, 0]
    ⟨0, .always, 0, 0, .absent, .absent, .absent⟩
    [(0x0, .vnop)] = true := by decide +kernel

theorem test_words_ve_mask_high : reads 1 1 [0, 0x27, 0, 0x500000004, 0, 0, 0]
    ⟨0, .always, 1, 0, .k 2 .zero, .imm 5, .absent⟩
    [(0x59, .kmovHi)] = true := by decide +kernel

theorem test_words_ve_flags_clear : reads 1 1 [0, 0x31, 0, 0x500000004, 0, 0, 0]
    ⟨0, .always, 1, 0, .v 3 0 false 0 .zero, .imm 5, .absent⟩
    [(0x6B, .vflgC)] = true := by decide +kernel

theorem test_words_me_none : reads 2 0 [0, 0, 0, 0, 0, 0, 0]
    ⟨0, .always, 0, 0, .absent, .absent, .absent⟩
    [(0x0, .mnop), (0x1E, .tcommit)] = true := by decide +kernel

theorem test_words_me_loads : reads 2 1 [0, 0, 0, 0x2000000259, 0x20000, 0x3000000009, 0xffff00000000]
    ⟨0, .always, 1, 0, .absent, .sp (some 5) 32 ⟨0, 2, 0, 0⟩, .sp none 48 ⟨0, 0, 0xFFFF, 0⟩⟩
    [(0x1, .ldb), (0x3, .ldbs)] = true := by decide +kernel

theorem test_words_me_load_half : reads 2 1 [0, 0, 0, 0x2000000259, 0x20000, 0, 0]
    ⟨0, .always, 1, 0, .absent, .sp (some 5) 32 ⟨0, 2, 0, 0⟩, .absent⟩
    [(0x2, .ldbh)] = true := by decide +kernel

theorem test_words_me_load_turned : reads 2 1 [0, 0, 0, 0x400000026a, 3, 0x3000000009, 0xffff00000000]
    ⟨0, .always, 1, 0, .absent, .hr (some 6) 64 ⟨3, 0, 0, 0⟩, .sp none 48 ⟨0, 0, 0xFFFF, 0⟩⟩
    [(0x4, .ldbt)] = true := by decide +kernel

theorem test_words_me_passes : reads 2 7 [0, 0x500030000000d, 0, 0x400000026a, 3, 0x3000000009, 0xffff00000000]
    ⟨0, .always, 7, 0, .ck none 3 5 .zero, .hr (some 6) 64 ⟨3, 0, 0, 0⟩, .sp none 48 ⟨0, 0, 0xFFFF, 0⟩⟩
    [(0x5, .mma), (0x9, .mmas)] = true := by decide +kernel

theorem test_words_me_gathered : reads 2 7 [0, 0x500030000000d, 0, 0x2000000259, 0x20000, 0, 0]
    ⟨0, .always, 7, 0, .ck none 3 5 .zero, .sp (some 5) 32 ⟨0, 2, 0, 0⟩, .absent⟩
    [(0x7, .mmag), (0xA, .mmasg)] = true := by decide +kernel

theorem test_words_me_pass_bf16 : reads 2 1 [0, 0x500030000000d, 0, 0x400000026a, 3, 0, 0]
    ⟨0, .always, 1, 0, .ck none 3 5 .zero, .hr (some 6) 64 ⟨3, 0, 0, 0⟩, .absent⟩
    [(0x6, .mmah)] = true := by decide +kernel

theorem test_words_me_gathered_bf16 : reads 2 1 [0, 0x500030000000d, 0, 0x2000000259, 0x20000, 0, 0]
    ⟨0, .always, 1, 0, .ck none 3 5 .zero, .sp (some 5) 32 ⟨0, 2, 0, 0⟩, .absent⟩
    [(0x8, .mmagh)] = true := by decide +kernel

theorem test_words_me_binds : reads 2 3 [0, 0x1e, 0, 0x40000025d, 1, 0x3000000009, 0xffff00000000]
    ⟨0, .always, 3, 0, .mq 1 false, .ck (some 5) 4 0 ⟨1, 0, 0, 0⟩, .sp none 48 ⟨0, 0, 0xFFFF, 0⟩⟩
    [(0xB, .bind), (0xC, .binda)] = true := by decide +kernel

theorem test_words_me_bind_slot : reads 2 1 [0, 0x500030000000d, 0, 0x40000025d, 1, 0x3000000009, 0xffff00000000]
    ⟨0, .always, 1, 0, .ck none 3 5 .zero, .ck (some 5) 4 0 ⟨1, 0, 0, 0⟩, .sp none 48 ⟨0, 0, 0xFFFF, 0⟩⟩
    [(0xD, .bindm)] = true := by decide +kernel

theorem test_words_me_reads : reads 2 4 [0, 0x1000000009, 1, 0x700040000025d, 1, 0, 0]
    ⟨0, .always, 4, 0, .sp none 16 ⟨1, 0, 0, 0⟩, .ck (some 5) 4 7 ⟨1, 0, 0, 0⟩, .absent⟩
    [(0xE, .crd), (0xF, .crdt)] = true := by decide +kernel

theorem test_words_me_keys : reads 2 0 [0, 0x500030000000d, 0, 0, 0, 0, 0]
    ⟨0, .always, 0, 0, .ck none 3 5 .zero, .absent, .absent⟩
    [(0x10, .czero), (0x11, .crel), (0x13, .cspl), (0x14, .cfil), (0x1D, .tstart)] = true := by decide +kernel

theorem test_words_me_label : reads 2 0 [0, 0, 0, 0x500000004, 0, 0, 0]
    ⟨0, .always, 0, 0, .absent, .imm 5, .absent⟩
    [(0x12, .crell), (0x1C, .cmode)] = true := by decide +kernel

theorem test_words_me_rows_out : reads 2 0 [0, 0x1e, 0, 0, 0, 0, 0]
    ⟨0, .always, 0, 0, .mq 1 false, .absent, .absent⟩
    [(0x15, .cstat), (0x1F, .mflg)] = true := by decide +kernel

theorem test_words_me_fill_f32 : reads 2 0 [0, 0x500030000000d, 0, 0x2000000259, 0x20000, 0, 0]
    ⟨0, .always, 0, 0, .ck none 3 5 .zero, .sp (some 5) 32 ⟨0, 2, 0, 0⟩, .absent⟩
    [(0x14, .cfilF32)] = true := by decide +kernel

theorem test_words_me_fill_bf16 : reads 2 1 [0, 0x500030000000d, 0, 0x2000000259, 0x20000, 0, 0]
    ⟨0, .always, 1, 0, .ck none 3 5 .zero, .sp (some 5) 32 ⟨0, 2, 0, 0⟩, .absent⟩
    [(0x14, .cfilBf16)] = true := by decide +kernel

theorem test_words_me_relabel : reads 2 0 [0, 0x500030000000d, 0, 0x100000004, 0, 0, 0]
    ⟨0, .always, 0, 0, .ck none 3 5 .zero, .imm 1, .absent⟩
    [(0x16, .clbl)] = true := by decide +kernel

theorem test_words_me_rename : reads 2 1 [0, 0x500030000000d, 0, 0x700040000025d, 1, 0, 0]
    ⟨0, .always, 1, 0, .ck none 3 5 .zero, .ck (some 5) 4 7 ⟨1, 0, 0, 0⟩, .absent⟩
    [(0x16, .clblR)] = true := by decide +kernel

theorem test_words_me_copy : reads 2 0 [0, 0x500030000000d, 0, 0x700040000025d, 1, 0, 0]
    ⟨0, .always, 0, 0, .ck none 3 5 .zero, .ck (some 5) 4 7 ⟨1, 0, 0, 0⟩, .absent⟩
    [(0x17, .ccpy)] = true := by decide +kernel

theorem test_words_me_scale : reads 2 0 [0, 0x500030000000d, 0, 0x700040000025d, 1, 0x300000004, 0]
    ⟨0, .always, 0, 0, .ck none 3 5 .zero, .ck (some 5) 4 7 ⟨1, 0, 0, 0⟩, .imm 3⟩
    [(0x18, .cscal)] = true := by decide +kernel

theorem test_words_me_add : reads 2 0 [0, 0x500030000000d, 0, 0x700040000025d, 1, 0x200090000000d, 0]
    ⟨0, .always, 0, 0, .ck none 3 5 .zero, .ck (some 5) 4 7 ⟨1, 0, 0, 0⟩, .ck none 9 2 .zero⟩
    [(0x19, .cadd)] = true := by decide +kernel

theorem test_words_me_reductions : reads 2 1 [0, 0x1000000009, 1, 0x700040000025d, 1, 0, 0]
    ⟨0, .always, 1, 0, .sp none 16 ⟨1, 0, 0, 0⟩, .ck (some 5) 4 7 ⟨1, 0, 0, 0⟩, .absent⟩
    [(0x1A, .cmaxr), (0x1B, .csumr)] = true := by decide +kernel

theorem test_words_me_flags_clear : reads 2 1 [0, 0x1000000009, 1, 0x500000004, 0, 0, 0]
    ⟨0, .always, 1, 0, .sp none 16 ⟨1, 0, 0, 0⟩, .imm 5, .absent⟩
    [(0x1F, .mflgC)] = true := by decide +kernel

theorem test_words_se_none : reads 3 0 [0, 0, 0, 0, 0, 0, 0]
    ⟨0, .always, 0, 0, .absent, .absent, .absent⟩
    [(0x0, .snop), (0x1B, .nflush), (0x1F, .waitc)] = true := by decide +kernel

theorem test_words_se_copy_in : reads 3 16 [0, 0x1000000009, 1, 0x188410020120c, 4, 0x600000000b, 0]
    ⟨0, .always, 16, 0, .sp none 16 ⟨1, 0, 0, 0⟩, .tensor 9 1 1 2 2 3 ⟨4, 0, 0, 0⟩, .ring 0x60⟩
    [(0x1, .cpin), (0x19, .nget)] = true := by decide +kernel

theorem test_words_se_copy_out : reads 3 16 [0, 0x188410020120c, 4, 0x2000000259, 0x20000, 0x800000600000000b, 0]
    ⟨0, .always, 16, 0, .tensor 9 1 1 2 2 3 ⟨4, 0, 0, 0⟩, .sp (some 5) 32 ⟨0, 2, 0, 0⟩, .ring 0x80000060⟩
    [(0x2, .cpout), (0x18, .nput)] = true := by decide +kernel

theorem test_words_se_copy_rows : reads 3 0 [0, 0x1000000009, 1, 0x2000000259, 0x20000, 0x300000004, 0]
    ⟨0, .always, 0, 0, .sp none 16 ⟨1, 0, 0, 0⟩, .sp (some 5) 32 ⟨0, 2, 0, 0⟩, .imm 3⟩
    [(0x3, .cprr)] = true := by decide +kernel

theorem test_words_se_copy_rows_pull : reads 3 1 [0, 0x1000000009, 1, 0x2000000259, 0x20000, 0x300000004, 0]
    ⟨0, .always, 1, 0, .sp none 16 ⟨1, 0, 0, 0⟩, .sp (some 5) 32 ⟨0, 2, 0, 0⟩, .imm 3⟩
    [(0x3, .cprrPull)] = true := by decide +kernel

theorem test_words_se_copy_add : reads 3 3 [0, 0x1000000009, 1, 0x188410020120c, 4, 0x600000000b, 0]
    ⟨0, .always, 3, 0, .sp none 16 ⟨1, 0, 0, 0⟩, .tensor 9 1 1 2 2 3 ⟨4, 0, 0, 0⟩, .ring 0x60⟩
    [(0x4, .cpadd)] = true := by decide +kernel

theorem test_words_se_broadcast : reads 3 0 [0, 0x1000000009, 1, 0x188410020120c, 4, 0x300000004, 0]
    ⟨0, .always, 0, 0, .sp none 16 ⟨1, 0, 0, 0⟩, .tensor 9 1 1 2 2 3 ⟨4, 0, 0, 0⟩, .imm 3⟩
    [(0x5, .cpbc)] = true := by decide +kernel

theorem test_words_se_transpose : reads 3 0 [0, 0x1000000009, 1, 0x188410020120c, 4, 0, 0]
    ⟨0, .always, 0, 0, .sp none 16 ⟨1, 0, 0, 0⟩, .tensor 9 1 1 2 2 3 ⟨4, 0, 0, 0⟩, .absent⟩
    [(0x6, .cpt)] = true := by decide +kernel

theorem test_words_se_convert : reads 3 0 [0, 0x1000000009, 1, 0x188410020120c, 4, 0x300000004, 0]
    ⟨0, .always, 0, 0, .sp none 16 ⟨1, 0, 0, 0⟩, .tensor 9 1 1 2 2 3 ⟨4, 0, 0, 0⟩, .imm 3⟩
    [(0x7, .cpcv)] = true := by decide +kernel

theorem test_words_se_quantise : reads 3 0 [0, 0x188410020120c, 4, 0x2000000259, 0x20000, 0x1000000004, 0]
    ⟨0, .always, 0, 0, .tensor 9 1 1 2 2 3 ⟨4, 0, 0, 0⟩, .sp (some 5) 32 ⟨0, 2, 0, 0⟩, .imm 16⟩
    [(0x8, .cpq)] = true := by decide +kernel

theorem test_words_se_masked : reads 3 0 [0, 0x1000000009, 1, 0x188410020120c, 4, 0x3000000009, 0xffff00000000]
    ⟨0, .always, 0, 0, .sp none 16 ⟨1, 0, 0, 0⟩, .tensor 9 1 1 2 2 3 ⟨4, 0, 0, 0⟩, .sp none 48 ⟨0, 0, 0xFFFF, 0⟩⟩
    [(0x9, .cpmask)] = true := by decide +kernel

theorem test_words_se_fill : reads 3 0 [0, 0x188410020120c, 4, 0x500000004, 0, 0x600000000b, 0]
    ⟨0, .always, 0, 0, .tensor 9 1 1 2 2 3 ⟨4, 0, 0, 0⟩, .imm 5, .ring 0x60⟩
    [(0xA, .fill)] = true := by decide +kernel

theorem test_words_se_gather : reads 3 2 [0, 0x1000000009, 0, 0x188410020120c, 0, 0x3000000009, 0]
    ⟨0, .always, 2, 0, .sp none 16 .zero, .tensor 9 1 1 2 2 3 .zero, .sp none 48 .zero⟩
    [(0xB, .gath)] = true := by decide +kernel

theorem test_words_se_scatter : reads 3 3 [0, 0x188410020120c, 0, 0x2000000259, 0, 0x3000000009, 0]
    ⟨0, .always, 3, 0, .tensor 9 1 1 2 2 3 .zero, .sp (some 5) 32 .zero, .sp none 48 .zero⟩
    [(0xC, .scat), (0xD, .scata)] = true := by decide +kernel

theorem test_words_se_group_in : reads 3 1 [0, 0x1000000009, 0, 0x400000026a, 0, 0x3000000009, 0]
    ⟨0, .always, 1, 0, .sp none 16 .zero, .hr (some 6) 64 .zero, .sp none 48 .zero⟩
    [(0xE, .grpf)] = true := by decide +kernel

theorem test_words_se_group_out : reads 3 0 [0, 0x188410020120c, 0, 0x2000000259, 0, 0x3000000009, 0]
    ⟨0, .always, 0, 0, .tensor 9 1 1 2 2 3 .zero, .sp (some 5) 32 .zero, .sp none 48 .zero⟩
    [(0xF, .grpo)] = true := by decide +kernel

theorem test_words_se_select : reads 3 1 [0, 0x1000000009, 1, 0x188410020120c, 4, 0x300000004, 0]
    ⟨0, .always, 1, 0, .sp none 16 ⟨1, 0, 0, 0⟩, .tensor 9 1 1 2 2 3 ⟨4, 0, 0, 0⟩, .imm 3⟩
    [(0x10, .topk)] = true := by decide +kernel

theorem test_words_se_read_slot : reads 3 1 [0, 0x1000000009, 1, 0x700040000025d, 1, 0x600000000b, 0]
    ⟨0, .always, 1, 0, .sp none 16 ⟨1, 0, 0, 0⟩, .ck (some 5) 4 7 ⟨1, 0, 0, 0⟩, .ring 0x60⟩
    [(0x11, .crds)] = true := by decide +kernel

theorem test_words_se_metadata : reads 3 0 [0, 0, 0, 0x2000000259, 0x20000, 0, 0]
    ⟨0, .always, 0, 0, .absent, .sp (some 5) 32 ⟨0, 2, 0, 0⟩, .absent⟩
    [(0x12, .metaq)] = true := by decide +kernel

theorem test_words_se_sort : reads 3 1 [0, 0x1000000009, 0, 0x2000000259, 0, 0x300000004, 0]
    ⟨0, .always, 1, 0, .sp none 16 .zero, .sp (some 5) 32 .zero, .imm 3⟩
    [(0x13, .sortk)] = true := by decide +kernel

theorem test_words_se_count : reads 3 1 [0, 0, 0, 0x2000000259, 0, 0x300000004, 0]
    ⟨0, .always, 1, 0, .absent, .sp (some 5) 32 .zero, .imm 3⟩
    [(0x14, .cntr)] = true := by decide +kernel

theorem test_words_se_snapshot : reads 3 1 [0, 0x1000000009, 1, 0, 0, 0x300000004, 0]
    ⟨0, .always, 1, 0, .sp none 16 ⟨1, 0, 0, 0⟩, .absent, .imm 3⟩
    [(0x15, .csnap)] = true := by decide +kernel

theorem test_words_se_send : reads 3 0 [0, 0x700000004, 0, 0x2000000259, 0x20000, 0x600000000b, 0]
    ⟨0, .always, 0, 0, .imm 7, .sp (some 5) 32 ⟨0, 2, 0, 0⟩, .ring 0x60⟩
    [(0x16, .nsend)] = true := by decide +kernel

theorem test_words_se_receive : reads 3 0 [0, 0x400000000b, 0, 0x800000500000000b, 0, 0x300000004, 0]
    ⟨0, .always, 0, 0, .ring 0x40, .ring 0x80000050, .imm 3⟩
    [(0x17, .nrecv)] = true := by decide +kernel

theorem test_words_se_atomic : reads 3 0 [0, 0x1000000009, 0, 0x188410020120c, 0, 0x3000000009, 0]
    ⟨0, .always, 0, 0, .sp none 16 .zero, .tensor 9 1 1 2 2 3 .zero, .sp none 48 .zero⟩
    [(0x1A, .natom)] = true := by decide +kernel

theorem test_words_se_arrival : reads 3 0 [0, 0x800000400000000b, 0, 0x500000004, 0, 0, 0]
    ⟨0, .always, 0, 0, .ring 0x80000040, .imm 5, .absent⟩
    [(0x1C, .awrm), (0x1D, .aset)] = true := by decide +kernel

theorem test_words_se_fence : reads 3 0 [0, 0, 0, 0x500000004, 0, 0, 0]
    ⟨0, .always, 0, 0, .absent, .imm 5, .absent⟩
    [(0x20, .tdld), (0x21, .tdinv)] = true := by decide +kernel

theorem test_words_se_barrier : reads 3 0 [0, 0, 0, 0xb00000004, 0, 0, 0]
    ⟨0, .always, 0, 0, .absent, .imm 11, .absent⟩
    [(0x1E, .sfence)] = true := by decide +kernel

theorem test_words_se_pages : reads 3 0 [0, 0x1000000009, 1, 0x188410020120c, 4, 0x100000004, 0]
    ⟨0, .always, 0, 0, .sp none 16 ⟨1, 0, 0, 0⟩, .tensor 9 1 1 2 2 3 ⟨4, 0, 0, 0⟩, .imm 1⟩
    [(0x22, .pgdup), (0x23, .pgmig)] = true := by decide +kernel

theorem test_words_se_prefetch : reads 3 0 [0, 0, 0, 0x188410020120c, 4, 0, 0]
    ⟨0, .always, 0, 0, .absent, .tensor 9 1 1 2 2 3 ⟨4, 0, 0, 0⟩, .absent⟩
    [(0x24, .pfch)] = true := by decide +kernel

theorem test_words_se_query : reads 3 0 [0, 0x1000000009, 1, 0x188410020120c, 4, 0, 0]
    ⟨0, .always, 0, 0, .sp none 16 ⟨1, 0, 0, 0⟩, .tensor 9 1 1 2 2 3 ⟨4, 0, 0, 0⟩, .absent⟩
    [(0x25, .latq), (0x26, .sevt)] = true := by decide +kernel

theorem test_words_se_submit_host : reads 3 1 [0, 0x1000000009, 1, 0, 0, 0x300000004, 0]
    ⟨0, .always, 1, 0, .sp none 16 ⟨1, 0, 0, 0⟩, .absent, .imm 3⟩
    [(0x26, .sevtH)] = true := by decide +kernel

theorem test_words_se_check : reads 3 0 [0, 0x1000000009, 1, 0x188410020120c, 4, 0x300000004, 0]
    ⟨0, .always, 0, 0, .sp none 16 ⟨1, 0, 0, 0⟩, .tensor 9 1 1 2 2 3 ⟨4, 0, 0, 0⟩, .imm 3⟩
    [(0x27, .cpchk)] = true := by decide +kernel

theorem test_words_se_ring : reads 3 0 [0, 0x400000000b, 0, 0x500000004, 0, 0, 0]
    ⟨0, .always, 0, 0, .ring 0x40, .imm 5, .absent⟩
    [(0x28, .radvx)] = true := by decide +kernel

theorem test_words_se_ring_far : reads 3 1 [0, 0x400000000b, 0, 0x500000004, 0, 0, 0]
    ⟨0, .always, 1, 0, .ring 0x40, .imm 5, .absent⟩
    [(0x28, .radvxX)] = true := by decide +kernel

theorem test_words_se_wait : reads 3 1 [0, 0x400000000b, 0, 0x500000004, 0, 0, 0]
    ⟨0, .always, 1, 0, .ring 0x40, .imm 5, .absent⟩
    [(0x29, .swait)] = true := by decide +kernel

theorem test_words_cc_streams : reads 0 3 [0, 0, 0, 0x0000002000000009, 1]
    ⟨0, .always, 3, 0, .absent, .sp none 32 ⟨1, 0, 0, 0⟩, .absent⟩ [(1, .qlds)] = true ∧
    reads 0 1 [0, 0x0000002000000009, 1] ⟨0, .always, 1, 0, .sp none 32 ⟨1, 0, 0, 0⟩, .absent, .absent⟩ [(2, .qsts)] = true := by
  decide +kernel

theorem test_words_cc_control :
    decode 4 (recordNat [0x000000000003000C, 0, 0xA1B2C3D400000004, 0x0920007 - 0x0800000 + 0x800000, 0x0000002000000010]) =
      .ok (.sege ⟨3, 4, 0xA1B2C3D4, 7, 2, 1, 1, 0x2000000010⟩) ∧
    decode 4 (recordNat [0x0000000000020010, 0, 0x0000000B0000000A, 0x700000000 + 12]) = .ok (.fork ⟨2, 10, 11, 12, 7⟩) ∧
    decode 4 (recordNat [0x0000000000020014, 0, 5]) = .ok (.rdv ⟨2, 5⟩) ∧
    decode 4 (recordNat [0x0000000000020018, 0, 0x13]) = .ok (.brk ⟨2, 3, .me⟩) ∧
    decode 4 (recordNat [0x000000000002001C]) = .ok (.nopr 2) := by
  decide +kernel

theorem test_words_slot_arithmetic : readsSlot 0x7941CC00 ⟨false, 6, 7, 8, .p true 9, 1, 0x0⟩
    [(0x1, .add), (0x2, .sub), (0x3, .mul), (0x4, .mulhs), (0x5, .mulhn), (0x6, .madd), (0x7, .divs), (0x8, .divn), (0x9, .rems), (0xA, .remn), (0xB, .and), (0xC, .or), (0xD, .xor), (0xE, .andn), (0xF, .shl), (0x10, .shrl), (0x11, .shra), (0x12, .rotl), (0x16, .mins), (0x17, .maxs), (0x18, .minn), (0x19, .maxn), (0x1E, .crc32), (0x22, .sel)] = true := by decide +kernel

theorem test_words_slot_unary : readsSlot 0xB901CC00 ⟨false, 6, 7, 0, .p true 9, 2, 0x0⟩
    [(0x13, .clz), (0x14, .ctz), (0x15, .popc), (0x1A, .abss), (0x1B, .sext)] = true := by decide +kernel

theorem test_words_slot_immediate : readsSlot 0xFFFFFFFE3901CD00 ⟨true, 6, 7, 0, .p true 9, 0, 0xFFFFFFFE⟩
    [(0x1, .add), (0x23, .cmpeq), (0x20, .movh)] = true := by decide +kernel

theorem test_words_slot_movi : readsSlot 0x8000000139000D00 ⟨true, 6, 0, 0, .p true 9, 0, 0x80000001⟩
    [(0x1F, .movi)] = true := by decide +kernel

theorem test_words_slot_fields : readsSlot 0xF833901CD00 ⟨true, 6, 7, 0, .p true 9, 0, 0xF83⟩
    [(0x1C, .bfex), (0x1D, .bfin)] = true := by decide +kernel

theorem test_words_slot_moves : readsSlot 0x23900CC00 ⟨false, 6, 3, 0, .p true 9, 0, 0x2⟩
    [(0x21, .mov)] = true := by decide +kernel

theorem test_words_slot_compares : readsSlot 0xF941CC00 ⟨false, 6, 7, 8, .p true 9, 3, 0x0⟩
    [(0x23, .cmpeq), (0x24, .cmpne), (0x25, .cmplts), (0x26, .cmples), (0x27, .cmpltn), (0x28, .cmplen), (0x29, .tstb)] = true := by decide +kernel

theorem test_words_slot_predicates : readsSlot 0x3941CC00 ⟨false, 6, 7, 8, .p true 9, 0, 0x0⟩
    [(0x2A, .pand), (0x2B, .por), (0x2C, .pxor)] = true := by decide +kernel

theorem test_words_slot_predicate_moves : readsSlot 0x3901CC00 ⟨false, 6, 7, 0, .p true 9, 0, 0x0⟩
    [(0x2D, .pnot), (0x2E, .pmov)] = true := by decide +kernel

theorem test_words_slot_rows : readsSlot 0x12343901C300 ⟨true, 1, 7, 0, .p true 9, 0, 0x1234⟩
    [(0x2F, .ldrow), (0x30, .strow), (0x33, .qld), (0x34, .qst)] = true := by decide +kernel

theorem test_words_slot_pieces : readsSlot 0x1F3900C500 ⟨true, 2, 3, 0, .p true 9, 0, 0x1F⟩
    [(0x31, .extl), (0x32, .insl)] = true := by decide +kernel

theorem test_words_slot_decide_check : readsSlot 0x139000100 ⟨true, 0, 0, 0, .p true 9, 0, 0x1⟩
    [(0x36, .check), (0x37, .trap), (0x35, .decide)] = true := by decide +kernel

theorem test_words_slot_rings : readsSlot 0x600033901C100 ⟨true, 0, 7, 0, .p true 9, 0, 0x60003⟩
    [(0x38, .rwaitf), (0x39, .rwaite), (0x3A, .radvt), (0x3B, .radvh), (0x3C, .rclm), (0x3D, .rstat)] = true := by decide +kernel

theorem test_words_slot_stages : readsSlot 0xF00403901C100 ⟨true, 0, 7, 0, .p true 9, 0, 0xF0040⟩
    [(0x3E, .sacq), (0x3F, .srel)] = true := by decide +kernel

theorem test_words_slot_arrivals : readsSlot 0x500403901C100 ⟨true, 0, 7, 0, .p true 9, 0, 0x50040⟩
    [(0x40, .aarm), (0x41, .await)] = true := by decide +kernel

theorem test_words_slot_phasers : readsSlot 0x8139000100 ⟨true, 0, 0, 0, .p true 9, 0, 0x81⟩
    [(0x42, .phreg), (0x43, .phdrg), (0x44, .pharv), (0x45, .phwait), (0x46, .phaw)] = true := by decide +kernel

theorem test_words_slot_atomics : readsSlot 0x979290000 ⟨false, 0, 4, 5, .p true 9, 1, 0x9⟩
    [(0x47, .atadd), (0x48, .atinc), (0x4B, .atswp), (0x4C, .atmin), (0x4D, .atmax), (0x4E, .atand), (0x4F, .ator), (0x50, .atxor)] = true := by decide +kernel

theorem test_words_slot_atomics_dst : readsSlot 0x939290C00 ⟨false, 6, 4, 5, .p true 9, 0, 0x9⟩
    [(0x49, .atbadd), (0x4A, .atcas)] = true := by decide +kernel

theorem test_words_slot_snapshot : readsSlot 0x979010000 ⟨false, 0, 4, 0, .p true 9, 1, 0x9⟩
    [(0x51, .atsnap)] = true := by decide +kernel

theorem test_words_slot_returns : readsSlot 0x339000C00 ⟨false, 6, 0, 0, .p true 9, 0, 0x3⟩
    [(0x52, .ypop)] = true := by decide +kernel

theorem test_words_slot_claims : readsSlot 0x4039188200 ⟨false, 1, 2, 3, .p true 9, 0, 0x40⟩
    [(0x53, .yclm)] = true := by decide +kernel

theorem test_words_slot_fence : readsSlot 0xD0439000100 ⟨true, 0, 0, 0, .p true 9, 0, 0xD04⟩
    [(0x54, .fence)] = true := by decide +kernel

theorem test_words_slot_plain : readsSlot 0x39000000 ⟨false, 0, 0, 0, .p true 9, 0, 0x0⟩
    [(0x55, .mark), (0x5C, .icinv)] = true := by decide +kernel

theorem test_words_slot_reads : readsSlot 0x39000C00 ⟨false, 6, 0, 0, .p true 9, 0, 0x0⟩
    [(0x56, .rdtime), (0x59, .rdtick)] = true := by decide +kernel

theorem test_words_slot_wait : readsSlot 0x3901C000 ⟨false, 0, 7, 0, .p true 9, 0, 0x0⟩
    [(0x57, .waitt)] = true := by decide +kernel

theorem test_words_slot_setdiv : readsSlot 0x639000100 ⟨true, 0, 0, 0, .p true 9, 0, 0x6⟩
    [(0x58, .setdiv)] = true := by decide +kernel

theorem test_words_slot_system : readsSlot 0xC39000D00 ⟨true, 6, 0, 0, .p true 9, 0, 0xC⟩
    [(0x5A, .sysr)] = true := by decide +kernel

theorem test_words_slot_system_write : readsSlot 0xD3901C100 ⟨true, 0, 7, 0, .p true 9, 0, 0xD⟩
    [(0x5B, .sysw)] = true := by decide +kernel

theorem test_words_slot_descriptor : readsSlot 0x30093901C100 ⟨true, 0, 7, 0, .p true 9, 0, 0x3009⟩
    [(0x5D, .tdrd)] = true := by decide +kernel

theorem test_words_slot_descriptor_write : readsSlot 0x30093901CD00 ⟨true, 6, 7, 0, .p true 9, 0, 0x3009⟩
    [(0x5E, .tdwr)] = true := by decide +kernel

/-- R325–R330: VCLRF in generation 3, LDBW and CPINS in the 32-byte records of generation 2, and a NOP slot. -/
theorem test_words_legacy :
    decode 3 (1 + 4 * 0x6E + 5 * 2 ^ 16) = .ok (.vclrf ⟨5, .always, 0, 0, .absent, .absent, .absent⟩) ∧
    decode 2 (2 + 4 * 0x20 + 5 * 2 ^ 16 + (9 + 0x5F80 * 2 ^ 32) * 2 ^ 192) =
      .ok (.ldbw ⟨5, .always, 0, 0, .absent, .sp none 0x5F80 .zero, .absent⟩) ∧
    decode 2 (3 + 4 * 0x2A + 5 * 2 ^ 16 + (9 + 16 * 2 ^ 32 + 2 ^ 48) * 2 ^ 128 + (12 + 9 * 2 ^ 9 + (1 + 2 * 2 ^ 5 + 3 * 2 ^ 10) * 2 ^ 32) * 2 ^ 192) =
      .ok (.cpins ⟨5, .always, 0, 0, .sp none 16 ⟨1, 0, 0, 0⟩, .tensor 9 0 1 2 3 0 .zero, .absent⟩) ∧
    decodeSlotRaw 0 = .ok (0, ⟨false, 0, 0, 0, .always, 0, 0⟩) := by decide +kernel

/-! ## States that meet the hypotheses of the statements -/

/-- Cell 0 with its four engines at text offset 0. -/
def cellOn : Cell :=
  { Cell.reset with busy := true, sq := { Seqs.reset with eng := Vector.replicate 4 { EngSeq.reset with pc := some 0 } } }
/-- A one-cell gang in ASID 7 at tick 5. -/
def gangOn : Gang := { Gang.reset with status := .running, cells := [0], tick := 5, asid := 7 }
/-- The device with that gang on that cell. -/
def on : State := (State.reset.setCell 0 cellOn).setGang 0 gangOn
/-- The same with another cell 0. -/
def at_ (x : Cell) : State := on.setCell 0 x
/-- A slot with nothing but its IMM bit and IMM32. -/
def bare (imm : Bool) (v : BitVec 32) : Slot := ⟨imm, 0, 0, 0, .always, 0, v⟩

theorem meets_integer_slots : ∀ e ∈ intSlots, slotCheck e.op8 ⟨false, 3, 1, 0, .always, 0, 0⟩ = none ∧
    evalPred on.cur.cc .always = true := by decide +kernel

theorem meets_move_slots :
    (∀ o ∈ [0x1B, 0x1E, 0x21, 0x22], on.SlotActs o ⟨false, 3, 1, 0, .always, 0, 0⟩) ∧
    (∀ o ∈ [0x1C, 0x1D, 0x20], on.SlotActs o ⟨true, 3, 1, 0, .always, 0, 0x3C3⟩) ∧
    on.SlotActs 0x1F ⟨true, 3, 0, 0, .always, 0, 0x80000000⟩ ∧
    on.SlotActs 0x22 ⟨false, 3, 1, 2, .p false 0, 3, 15⟩ := by unfold State.SlotActs; decide +kernel

theorem meets_predicate_slots : ∀ e ∈ predSlots, on.SlotActs e.op8 ⟨false, 15, 2, 0, .always, 0, 0⟩ := by
  unfold State.SlotActs; decide +kernel

theorem meets_read_slots : on.SlotActs 0x56 ⟨false, 3, 0, 0, .always, 0, 0⟩ ∧ on.SlotActs 0x59 ⟨false, 3, 0, 0, .always, 0, 0⟩ ∧
    on.SlotActs 0x5A (bare true 0) ∧ on.SlotActs 0x5A (bare true 15) ∧ on.SlotActs 0x5A (bare true 13) := by
  unfold State.SlotActs; decide +kernel

theorem meets_system_writes : (∀ i ∈ [7, 8, 9, 10], on.SlotActs 0x5B (bare true (BitVec.ofNat 32 i))) ∧ on.cur.spilledOut = false := by
  unfold State.SlotActs; decide +kernel

/-- R215 accepts the bits of IMM32 that name a register, so an index from 16 up is refused by the entry itself. -/
theorem meets_system_faults : (∀ i ∈ [0, 6, 11, 15], slotCheck 0x5B (bare true (BitVec.ofNat 32 i)) = none) := by decide +kernel

/-- Row 24,575 named by G1 and IMM32, and four queue heads. -/
def rowCell : Cell := { cellOn with
  cc := { Cc.reset with g := Cc.reset.g.set 1 0x100 }
  q := { Queues.reset with sq := #v[[⟨1, 5, true, 9, true⟩], []] } }
theorem meets_row_slots :
    (∀ o ∈ [0x2F, 0x33, 0x30, 0x34], (at_ rowCell).SlotActs o ⟨true, 0, 1, 0, .always, 0, 24574⟩) ∧
    (at_ rowCell).SlotRow ⟨true, 0, 1, 0, .always, 0, 24574⟩ 24575 ∧ (at_ rowCell).bankUse 24575 < 4 ∧
    ((at_ rowCell).cur.q.lq[0]).length < 16 ∧ (at_ rowCell).cur.windowFlt .cc 24575 = none ∧
    (at_ rowCell).cur.q.sq[0] = ⟨1, 5, true, 9, true⟩ :: [] ∧ 5 ≤ (at_ rowCell).now := by
  refine ⟨by unfold State.SlotActs; decide +kernel, ⟨?_, ?_, ?_, ?_⟩, ?_, ?_, ?_, ?_, ?_⟩ <;> decide +kernel

theorem meets_piece_slots : on.SlotActs 0x31 ⟨true, 3, 2, 0, .always, 0, 31⟩ ∧ on.SlotActs 0x32 ⟨false, 3, 2, 1, .always, 0, 0⟩ ∧
    on.SlotActs 0x55 (bare false 0) ∧ on.SlotActs 0x00 (bare false 0) ∧
    srcBTag ⟨true, 3, 2, 0, .always, 0, 31⟩ on.cur.cc = false ∧ srcBTag ⟨false, 3, 2, 1, .always, 0, 0⟩ on.cur.cc = false := by
  unfold State.SlotActs; decide +kernel

theorem meets_decide : slotCheck 0x35 (bare true 0x7000) = none ∧ ruleDecide (bare true 0x7000) on = none ∧
    slotCheck 0x35 ⟨true, 0, 4, 0, .p false 2, 0, 4⟩ = none ∧ ruleDecide ⟨true, 0, 4, 0, .p false 2, 0, 4⟩ on = none ∧
    evalPred on.cur.cc (.p false 2) = false := by decide +kernel

/-- G1 and a piece of B2 are poisoned. -/
def poisoned : Cell := { cellOn with cc := { Cc.reset with gTag := 2, bTag := Cc.reset.bTag.set 2 8, cflags := 2 } }
theorem meets_check_and_trap : on.SlotActs 0x36 ⟨true, 0, 1, 0, .always, 0, 0⟩ ∧ on.cur.cc.gtag 1 = false ∧
    (at_ poisoned).SlotActs 0x36 ⟨true, 0, 1, 0, .always, 0, 0⟩ ∧ (at_ poisoned).cur.cc.gtag 1 = true ∧
    (at_ poisoned).SlotActs 0x36 ⟨true, 0, 2, 0, .always, 0, 1⟩ ∧ (at_ poisoned).cur.cc.bTag[(2 : Fin 4)] ≠ 0 ∧
    (at_ poisoned).SlotActs 0x36 ⟨true, 0, 3, 0, .always, 0, 2⟩ ∧ (at_ poisoned).cur.cc.cflags.getLsbD 1 = true ∧
    on.SlotActs 0x37 (bare true 0xFFFF) := by unfold State.SlotActs; decide +kernel

/-- R61: BASE 100, DEPTH 8, ESIZE 2, PUSHP SP, POPP CQ, HEAD 3, TAIL 7, CLAIMED 8, in quarter 1 of row 10; and a stage of 2
elements, the second full and owned by VE, in quarter 0 of row 11. -/
def ringRow : Row := BitVec.ofNat 2048 ((100 + 8 * 2 ^ 16 + 2 * 2 ^ 32 + 4 * 2 ^ 40 + 1 * 2 ^ 45 + 3 * 2 ^ 64 + 7 * 2 ^ 96 + 8 * 2 ^ 128) * 2 ^ 512)
def stageRow : Row := BitVec.ofNat 2048 (100 + 2 * 2 ^ 16 + 2 ^ 32 + 4 * 2 ^ 40 + 2 ^ 45 + 2 ^ 50 + 3 * 2 ^ 196)
def ringCell : Cell := { cellOn with sp := [(10, ringRow), (11, stageRow)] }
def ring41 : Rcb := ⟨100, 8, 2, 4, 1, false, 3, 7, 8, 0⟩
theorem meets_ring_slots : (at_ ringCell).OnRing (bare true (41 + 4 * 2 ^ 17)) ring41 4 ∧ (at_ ringCell).OnRing (bare true (41 + 8 * 2 ^ 17)) ring41 8 ∧
    (∀ o ∈ [0x38, 0x39, 0x3A, 0x3B, 0x3C, 0x3D], (at_ ringCell).SlotActs o (bare true (41 + 8 * 2 ^ 17))) ∧
    (at_ ringCell).cur.q.yq.length < 16 := by
  refine ⟨⟨?_, ?_, ?_, ?_, ?_⟩, ⟨?_, ?_, ?_, ?_, ?_⟩, by unfold State.SlotActs; decide +kernel, ?_⟩ <;> decide +kernel

theorem meets_stage_slots : (at_ ringCell).OnStage (bare true (44 + 2 ^ 17 + 2 ^ 21 + 2 ^ 23)) ⟨100, 2, 1, 4, 1, true, 0, 0, 0, 3 * 16⟩ 1 ∧
    (at_ ringCell).SlotActs 0x3E (bare true (44 + 2 ^ 17 + 2 ^ 21 + 2 ^ 23)) ∧ (at_ ringCell).SlotActs 0x3F (bare true (44 + 2 ^ 17 + 2 ^ 21)) := by
  refine ⟨⟨?_, ?_, ?_, ?_, ?_, ?_⟩, by unfold State.SlotActs; decide +kernel, by unfold State.SlotActs; decide +kernel⟩ <;> decide +kernel

/-- R64: an arrival word at byte 32 of row 12: TARGET 512, COUNT 256, GEN 3, armed. G1 is 600. -/
def arrivalCell : Cell := { cellOn with
  sp := [(12, BitVec.ofNat 2048 ((512 + (256 + 3 * 2 ^ 40 + 2 ^ 56) * 2 ^ 64) * 2 ^ 256))], cc := { Cc.reset with g := Cc.reset.g.set 1 3 } }
theorem meets_arrival_slots : (at_ arrivalCell).OnArrival ⟨true, 0, 1, 0, .always, 0, 3104⟩ ⟨512, 256, 3, true⟩ 3104 3 ∧
    (at_ arrivalCell).SlotActs 0x40 ⟨true, 0, 1, 0, .always, 0, 3104⟩ ∧ (at_ arrivalCell).SlotActs 0x41 ⟨true, 0, 1, 0, .always, 0, 3104⟩ := by
  refine ⟨⟨by decide +kernel, ?_, ?_, ?_, ?_, ?_⟩, by unfold State.SlotActs; decide +kernel, by unfold State.SlotActs; decide +kernel⟩ <;> decide +kernel

theorem meets_phaser_slots : (∀ o ∈ [0x42, 0x43, 0x44, 0x46], on.SlotActs o (bare true 0x81)) ∧
    on.SlotActs 0x45 ⟨true, 0, 1, 0, .always, 0, 0x81⟩ ∧ on.cur.cc.gtag 1 = false ∧ (on.phaser 7 0x81).poisoned = false ∧
    on.cur.q.yq.length < 16 := by unfold State.SlotActs; decide +kernel

theorem meets_atomic_slots : (∀ e ∈ atomSlots, on.SlotActs e.2.1 ⟨false, 0, 1, 0, .always, 0, 0x2000⟩) ∧
    atomVar ⟨false, 0, 1, 0, .always, 0, 0x2000⟩ on = .ok (.ctr 7 0, true) ∧ on.cur.q.yq.length < 16 := by
  unfold State.SlotActs; decide +kernel

def returned (arrived : Bool) : Cell := { cellOn with q := { Queues.reset with yq := [⟨4, arrived, arrived, 77, true, false, none⟩] } }
theorem meets_return_slots : (at_ (returned true)).SlotActs 0x52 ⟨false, 3, 0, 0, .always, 0, 1⟩ ∧
    (at_ (returned true)).cur.q.yq = ⟨4, true, true, 77, true, false, none⟩ :: [] ∧
    (at_ (returned false)).SlotActs 0x52 ⟨false, 3, 0, 0, .always, 0, 1⟩ ∧
    (at_ (returned false)).cur.q.yq = ⟨4, false, false, 77, true, false, none⟩ :: [] ∧
    on.SlotActs 0x53 ⟨false, 1, 2, 3, .always, 0, 64⟩ ∧ on.cur.cc.bTag[(2 : Fin 4)] = 0 ∧ on.cur.cc.bTag[(3 : Fin 4)] = 0 := by
  unfold State.SlotActs; decide +kernel

theorem meets_fences : on.SlotActs 0x54 (bare true 0xD04) ∧ on.SlotActs 0x54 (bare true 0x21) ∧
    on.SlotActs 0x57 ⟨false, 0, 1, 0, .always, 0, 0⟩ ∧ on.SlotActs 0x58 (bare true 9) ∧ on.straddles .ve (on.now + 2) = false := by
  unfold State.SlotActs; decide +kernel

def asid0 : State := on.setGang 0 { gangOn with asid := 0 }
theorem meets_descriptor_slots : asid0.SlotActs 0x5C (bare false 0) ∧ (asid0.gangOf asid0.curCell).asid = 0 ∧
    on.SlotActs 0x5D ⟨true, 0, 1, 0, .always, 0, 0x3009⟩ ∧ on.SlotActs 0x5E ⟨true, 2, 1, 0, .always, 0, 0x3009⟩ ∧
    asid0.SlotActs 0x5E ⟨true, 2, 1, 0, .always, 0, 0x4009⟩ ∧ on.cur.cc.gtag 1 = false ∧
    (on.gangOf on.curCell).asid ≠ 0 ∧ slotCheck 0x5C (bare false 0) = none ∧ slotCheck 0x5E ⟨true, 2, 1, 0, .always, 0, 0x4009⟩ = none := by
  unfold State.SlotActs; decide +kernel

/-! ## Records of the vector engine -/

/-- Does a record issue here from a text offset (the clauses of State.RecIssues)? -/
def issuesAt (i : Instr) (e : Eng) (r : Rec) (s : State) (off : Nat) : Bool :=
  decide ((s.onEngine e).expanding = none ∧ (s.onEngine e).engine.pc = some off ∧ (s.onEngine e).waits r.stamp.toNat = false ∧
    recBad i (s.gangOf s.curCell).encgen = none ∧ (s.onEngine e).missCause off r.stamp.toNat (issuesOf r e) (engCycles e) = none ∧
    evalPred s.cur.cc r.pred = true ∧ stepBad i r e (s.gangOf s.curCell).encgen 0 = none)

theorem recIssues_of_issuesAt {i : Instr} {e : Eng} {r : Rec} {s : State} {off : Nat} (h : issuesAt i e r s off = true) :
    s.RecIssues i e r off := by
  simp only [issuesAt, decide_eq_true_eq] at h
  exact ⟨h.1, h.2.1, h.2.2.1, h.2.2.2.1, h.2.2.2.2.1, h.2.2.2.2.2.1, h.2.2.2.2.2.2⟩

theorem expands_of_issuesAt {i : Instr} {e : Eng} {r : Rec} {s : State} {off : Nat} (h : issuesAt i e r s off = true) :
    s.Expands i e r off 0 (s.onEngine e).engMode (s.begun i e r off) :=
  .inl ⟨rfl, recIssues_of_issuesAt h, rfl, rfl⟩

/-- A record at tick 5 with the given MOD and operands. -/
def rec5 (md : BitVec 5) (a b c : Opnd) : Rec := ⟨5, .always, md, 0, a, b, c⟩
def vr (n : Fin 32) : Opnd := .v n 0 false 0 .zero
def kr (n : Fin 8) : Opnd := .k n .zero

/-- V1 to V3 hold numbers, V2 poisoned in lane 3; LQ0 has a visible head, SQ0 room; Z1 is configured 16 by 16. -/
def vecCell : Cell := { cellOn with
  ve := { Ve.reset with
    v := ((Ve.reset.v.set 1 (BitVec.ofNat 2048 0x3F800000)).set 2 (BitVec.ofNat 2048 0x40000000)).set 3 (BitVec.ofNat 2048 5)
    vTag := Ve.reset.vTag.set 2 8
    z := Ve.reset.z.set 1 ⟨7, 0, 0x2FF⟩ }
  q := { Queues.reset with lq := Queues.reset.lq.set 0 [⟨1, 4, true, 9, false⟩] }
  cr := { Crema.reset with parked := [(9, .slot 15)] } }
def vec : State := at_ vecCell
def binary : Rec := rec5 0 (vr 4) (vr 1) (.lq 0 true)
def toQueue : Rec := rec5 0 (.sq 0) (vr 1) (.imm 0x3F800000)
def ternary : Rec := rec5 0 (.v 4 0 true 3 .zero) (vr 1) (vr 2)
def unary : Rec := rec5 0 (vr 4) (vr 2) .absent
def merging : Rec := rec5 15 (vr 4) (vr 1) .absent

theorem meets_lane_operations : (∀ e ∈ fpOps ++ bf16Ops ++ intOps ++ convOps, ∃ r ∈ [binary, ternary, unary],
      issuesAt (e.ctor r) .ve r vec 0 = true) ∧
    (∀ e ∈ fpOps ++ bf16Ops ++ intOps, issuesAt (e.ctor binary) .ve binary vec 0 = true → issuesAt (e.ctor toQueue) .ve toQueue vec 0 = true) ∧
    issuesAt (.cvtf8 merging) .ve merging vec 0 = true := by decide +kernel

/-- The operands of those records can be read, and their destinations have room, once the record has issued. -/
theorem meets_lane_operands : let u := vec.begun (.fadd binary) .ve binary 0
    (∃ a, u.Reads binary.o1 (ixOf 0 0) a) ∧ (∃ b, u.Reads binary.o2 (ixOf 0 0) b) ∧ u.Room binary.o0 :=
  ⟨⟨_, rfl⟩, ⟨⟨9, 0⟩, ⟨1, 4, true, 9, false⟩, [], by decide +kernel, by decide +kernel, rfl⟩, trivial⟩

theorem meets_lane_queue : let u := vec.begun (.fadd toQueue) .ve toQueue 0
    (∃ a, u.Reads toQueue.o1 (ixOf 0 0) a) ∧ (∃ b, u.Reads toQueue.o2 (ixOf 0 0) b) ∧ u.Room toQueue.o0 :=
  ⟨⟨_, rfl⟩, ⟨_, rfl⟩, (by decide +kernel : ((vec.begun (.fadd toQueue) .ve toQueue 0).cur.q.sq[0]).length < 16)⟩

/-- The second expansion of a record that has issued. -/
def later : State := at_ { vecCell with
  sq := { cellOn.sq with
    eng := cellOn.sq.eng.set 1 { EngSeq.reset with
      pc := some 1
      exp := some ⟨0, 4, 1, 2, 1, true, 0⟩ } } }
theorem meets_later_expansions : let r : Rec := ⟨4, .always, 0, 1, vr 4, vr 1, vr 2⟩
    later.Expands (.fadd r) .ve r 0 1 0 (later.continued .ve ⟨0, 4, 1, 2, 1, true, 0⟩) :=
  .inr ⟨by decide +kernel, ⟨0, 4, 1, 2, 1, true, 0⟩, by decide +kernel, rfl, rfl, rfl, rfl, rfl⟩

theorem meets_compares : (∀ e ∈ cmpOps, ∀ o ∈ [kr 3, vr 4, .sq 1], issuesAt (e.1 (rec5 1 o (vr 1) (vr 2))) .ve (rec5 1 o (vr 1) (vr 2)) vec 0 = true) := by
  decide +kernel

theorem meets_lane_moves : ∀ e ∈ moveOps, ∃ r ∈ [unary, rec5 1 (vr 4) (.imm 7) .absent, binary, ternary, rec5 0 (vr 4) (vr 1) (.imm 63)],
    issuesAt (e.ctor r) .ve r vec 0 = true := by decide +kernel

theorem meets_masks : (∀ e ∈ maskOps, ∃ r ∈ [rec5 0 (kr 3) (kr 1) (kr 2), rec5 0 (kr 3) (kr 0) .absent], issuesAt (e.1 r) .ve r vec 0 = true) ∧
    (∀ r ∈ [rec5 0 (vr 4) (kr 1) .absent, rec5 0 (.sq 1) (kr 1) .absent],
      issuesAt (.kpopc r) .ve r vec 0 = true ∧ issuesAt (.kmov r) .ve r vec 0 = true) ∧
    (∀ o ∈ [kr 1, .imm 0x80000001, vr 2], issuesAt (.kmov (rec5 0 (kr 3) o .absent)) .ve (rec5 0 (kr 3) o .absent) vec 0 = true) ∧
    issuesAt (.kmovHi (rec5 1 (kr 3) (.imm 1) .absent)) .ve (rec5 1 (kr 3) (.imm 1) .absent) vec 0 = true := by decide +kernel

theorem meets_order_reductions : (∀ m ∈ ([0, 8, 7] : List (BitVec 5)), let r := rec5 m (vr 4) (vr 1) .absent
      issuesAt (.rmax r) .ve r vec 0 = true ∧ issuesAt (.rmin r) .ve r vec 0 = true ∧ issuesAt (.rargmx r) .ve r vec 0 = true) ∧
    issuesAt (.qmax (rec5 0 (.sq 1) (vr 1) .absent)) .ve (rec5 0 (.sq 1) (vr 1) .absent) vec 0 = true := by decide +kernel

theorem best_of_greatest {md : FMode} {v : Row} {ks : BitVec 64} (h0 : Selectable false md v ks 0)
    (h : ∀ j : Fin 64, orderOf false (flush32 md (lane v j.val)) ≤ orderOf false (flush32 md (lane v 0))) :
    Best false false md v ks 0 := ⟨h0, fun j hj => ⟨h ⟨j, hj.1⟩, fun _ => Nat.zero_le _⟩⟩
/-- Lane 0 of V1 is its first greatest lane, and K7 includes no lane: both clauses of a selection have their case. -/
theorem meets_best : Best false false (modeOf 0) vec.cur.ve.v[1] (BitVec.allOnes 64) 0 :=
  best_of_greatest (by unfold Selectable; decide +kernel) (by decide +kernel)
theorem meets_no_selection : ∀ j, ¬ Selectable false (modeOf 0) vec.cur.ve.v[1] (vec.cur.ve.kmask 7) j := by
  intro j hj
  have h : vec.cur.ve.kmask 7 = 0 := by decide +kernel
  have h2 := hj.2.1
  rw [h] at h2
  simp at h2

theorem meets_sums_and_scans : (∀ m ∈ ([0, 8] : List (BitVec 5)), let r := rec5 m (vr 4) (vr 1) .absent
      issuesAt (.rsum r) .ve r vec 0 = true ∧ issuesAt (.scana r) .ve r vec 0 = true ∧ issuesAt (.scanm r) .ve r vec 0 = true ∧
      issuesAt (.topkv (rec5 m (vr 4) (vr 1) (kr 2))) .ve (rec5 m (vr 4) (vr 1) (kr 2)) vec 0 = true) ∧
    issuesAt (.histb (rec5 0 (.v 4 0 true 3 .zero) (vr 1) .absent)) .ve (rec5 0 (.v 4 0 true 3 .zero) (vr 1) .absent) vec 0 = true := by
  decide +kernel

theorem meets_tiles : (∀ r ∈ [rec5 0 (.zrow 1 0 .zero) (.imm 0x1FF) .absent], issuesAt (.tcfg r) .ve r vec 0 = true) ∧
    (∀ r ∈ [rec5 0 (.zrow 1 15 .zero) (vr 1) .absent], issuesAt (.twrr r) .ve r vec 0 = true) ∧
    (∀ r ∈ [rec5 0 (.zcol 1 15 .zero) (vr 1) .absent], issuesAt (.twrc r) .ve r vec 0 = true) ∧
    (∀ r ∈ [rec5 0 (.zrow 1 0 .zero) .absent .absent], issuesAt (.tzero r) .ve r vec 0 = true ∧ issuesAt (.trel r) .ve r vec 0 = true) ∧
    (∀ r ∈ [rec5 0 (vr 4) (.zrow 1 0 .zero) .absent], issuesAt (.trdr r) .ve r vec 0 = true ∧ issuesAt (.trds r) .ve r vec 0 = true) ∧
    (∀ r ∈ [rec5 0 (.sq 0) (.zcol 1 15 .zero) .absent], issuesAt (.trdc r) .ve r vec 0 = true) ∧
    vec.cur.ve.z[1].shape.getLsbD 9 = true := by decide +kernel
theorem meets_tile_rows : vec.OnTile (.zrow 1 15 .zero) (ixOf 0 0) 1 15 ∧ vec.OnTile (.zcol 1 15 .zero) (ixOf 0 0) 1 15 :=
  ⟨⟨by decide +kernel, .inl ⟨15, .zero, rfl, by decide +kernel, by decide +kernel⟩⟩,
    ⟨by decide +kernel, .inr ⟨15, .zero, rfl, by decide +kernel, by decide +kernel⟩⟩⟩

theorem meets_vector_state : issuesAt (.vnop (rec5 0 .absent .absent .absent)) .ve (rec5 0 .absent .absent .absent) vec 0 = true ∧
    (∀ r ∈ [rec5 0 .absent (.imm 15) .absent], issuesAt (.vmode r) .ve r vec 0 = true) ∧
    (∀ r ∈ [rec5 0 (vr 4) .absent .absent, rec5 0 (.sq 0) .absent .absent], issuesAt (.vflg r) .ve r vec 0 = true) ∧
    (∀ r ∈ [rec5 1 (vr 4) (.imm 63) .absent, rec5 1 .absent (.imm 1) .absent], issuesAt (.vflgC r) .ve r vec 0 = true) ∧
    (∀ r ∈ [rec5 0 (.park 63 .zero) (vr 1) .absent], issuesAt (.vspl r) .ve r vec 0 = true) ∧
    (∀ r ∈ [rec5 0 (vr 4) (.park 9 .zero) .absent, rec5 0 (vr 4) (.park 8 .zero) .absent], issuesAt (.vfil r) .ve r vec 0 = true) ∧
    vec.cur.cr.free.getLast? = some 15 ∧ vec.cur.cr.parked.find? (fun e => e.1 = 9) = some (9, .slot 15) := by decide +kernel
/-- VCLRF is a record of generations 2 and 3. -/
def vec3 : State := vec.setGang 0 { gangOn with encgen := 3 }
theorem meets_vclrf : issuesAt (.vclrf (rec5 0 .absent .absent .absent)) .ve (rec5 0 .absent .absent .absent) vec3 0 = true := by decide +kernel

/-! ## Records of the control core -/

def ccIssuesAt (s : State) (stamp off : Nat) : Bool :=
  decide ((s.onEngine .cc).expanding = none ∧ (s.onEngine .cc).engine.pc = some off ∧ (s.onEngine .cc).waits stamp = false ∧
    (s.onEngine .cc).missCause off stamp 1 1 = none)
theorem ccIssues_of_ccIssuesAt {s : State} {stamp off : Nat} (h : ccIssuesAt s stamp off = true) : s.CcIssues stamp off := by
  simp only [ccIssuesAt, decide_eq_true_eq] at h
  exact ⟨h.1, h.2.1, h.2.2.1, h.2.2.2⟩

/-- R35's segment end at stamp 9 in text offset 3, with the control core alone running at offset 0. -/
def endRecord : RecordBits := BitVec.ofNat 512 (recordNat [0x9000C, 0, 10, 0])
def ccOnly : Cell := { cellOn with
  text := [(0, BitVec.ofNat 512 (recordNat [0x5001C])), (1, BitVec.ofNat 512 (recordNat [0x6001C])), (2, BitVec.ofNat 512 (recordNat [0x7001C])),
    (3, endRecord)]
  sq := { Seqs.reset with eng := Vector.replicate 4 EngSeq.reset |>.set 0 { EngSeq.reset with pc := some 0 } } }
theorem meets_control_records : on.CcIssues 5 0 ∧ bandBad 475 1900 = none ∧ bandBad 1900 1900 = none ∧
    (at_ ccOnly).CcIssues 5 0 ∧ forkField ⟨5, 1, 2, 3, 7⟩ = none ∧
    ((at_ ccOnly).ccBegun (.fork ⟨5, 1, 2, 3, 7⟩) 0 5).segeOf 0 = some (3, 9) ∧
    (∀ e ∈ [Eng.ve, .me, .se], (((at_ ccOnly).ccBegun (.fork ⟨5, 1, 2, 3, 7⟩) 0 5).cur.engine e).pc = none) ∧
    (∀ e ∈ [Eng.ve, .me, .se], ((on.ccBegun (.rdv ⟨5, 7⟩) 0 5).cur.engine e).pc.isSome = true) :=
  ⟨ccIssues_of_ccIssuesAt (by decide +kernel), by decide +kernel, by decide +kernel, ccIssues_of_ccIssuesAt (by decide +kernel),
    by decide +kernel, by decide +kernel, by decide +kernel, by decide +kernel⟩

/-- A segment end at tick 5 with one or with no successor, with the signature that the segment has. -/
def sege0 (n : BitVec 4) : SegeRec := ⟨5, 6, 0, 1, n, 0, 0, 0⟩
def sege (n : BitVec 4) (s : State) : SegeRec := { sege0 n with sig := closingSig (sege0 n) (s.onEngine .cc) }
def inText (x : Cell) : State := (at_ x).setGang 0 { gangOn with tlen := 4 }
theorem meets_sege : (∀ n ∈ ([0, 1] : List (BitVec 4)), let s := inText { ccOnly with text := [] }
    (s.cur.engine .cc).pc = some 0 ∧ s.cur.sq.start + (sege n s).stamp.toNat ≤ s.now ∧ segeBad (sege n s) (s.gangOf s.curCell).tlen = none ∧
    (s.onEngine .cc).missCause 0 5 1 1 = none ∧ (sege n s).len.toNat = s.now - s.cur.sq.start + 1 ∧
    (sege n s).sig = closingSig (sege n s) (s.onEngine .cc) ∧ ∀ e ∈ [Eng.ve, .me, .se], (s.cur.engine e).pc = none) := by decide +kernel

/-- A BRK of index 3 stands for a NOPR of stamp 40; its stop is raised ahead of the stamp, or has been. -/
def brkCell (done : Bool) (start : Nat) : Cell := { cellOn with
  sq := { cellOn.sq with
    start := start
    brk := cellOn.sq.brk.set 3 (some (0, BitVec.ofNat 512 (recordNat [0x28001C])))
    brkDone := if done then 8 else 0 } }
def brkAt (tick : Nat) (x : Cell) : State := (at_ x).setGang 0 { gangOn with tick := tick }
theorem meets_brk : (∀ s ∈ [brkAt 36 (brkCell false 0), brkAt 40 (brkCell true 0)],
      s.cur.sq.brk[3] = some (0, BitVec.ofNat 512 (recordNat [0x28001C])) ∧
      stampOf (s.gangOf s.curCell).encgen (recordNat [0x28001C]) = 40) ∧
    (brkAt 36 (brkCell false 0)).cur.sq.brkDone.getLsbD 3 = false ∧ max 40 gangOn.dstall ≤ 36 + gangOn.dstall ∧
    (brkAt 40 (brkCell true 0)).cur.sq.brkDone.getLsbD 3 = true ∧ (brkAt 40 (brkCell true 0)).waits 40 = false ∧
    decode 4 (recordNat [0x28001C]) = .ok (.nopr 40) := by decide +kernel

/-- A bundle of two integer slots that read each other's destination. -/
def swap : Bundle := ⟨5, .always, 0x40004401, 0x40008201, 0, 0, 0, 0, 0⟩
theorem meets_bundles : on.CcIssues swap.stamp.toNat 0 ∧ evalPred on.cur.cc swap.pred = true ∧
    (∃ d, decodeBundle swap = .ok d ∧ bundleRule (on.onEngine .cc) (numbered 0 d) = none ∧
      (d.filter fun e => e.1 ≠ 0) = [(1, ⟨false, 2, 1, 0, .always, 1, 0⟩), (1, ⟨false, 1, 2, 0, .always, 1, 0⟩)]) ∧
    (∃ e ∈ intSlots, e.op8 = 1) :=
  ⟨ccIssues_of_ccIssuesAt (by decide +kernel), by decide +kernel,
    ⟨[(1, ⟨false, 2, 1, 0, .always, 1, 0⟩), (1, ⟨false, 1, 2, 0, .always, 1, 0⟩), (0, bare false 0), (0, bare false 0), (0, bare false 0),
      (0, bare false 0), (0, bare false 0)], by decide +kernel, by decide +kernel, by decide +kernel⟩, by decide +kernel⟩

def stream (md : BitVec 5) (a b : Opnd) : Rec := rec5 md a b .absent
theorem meets_queue_streams : (let r := stream 3 .absent (.sp none 24575 .zero); issuesAt (.qlds r) .cc r on 0 = true) ∧
    (let r := stream 0 (.sp none 0 .zero) .absent; issuesAt (.qsts r) .cc r (at_ rowCell) 0 = true) ∧
    on.NamesRow (.sp none 24575 .zero) (ixOf 0 0) 24575 ∧ (at_ rowCell).NamesRow (.sp (some 1) 5 .zero) (ixOf 0 0) 6 ∧
    (at_ rowCell).cur.windowFlt .cc 0 = none :=
  ⟨by decide +kernel, by decide +kernel, ⟨by decide, none, 24575, .zero, rfl, by decide +kernel⟩,
    ⟨by decide, some 1, 5, .zero, rfl, by decide +kernel, by decide +kernel, by decide +kernel⟩, by decide +kernel⟩

/-! ## Records of the matrix engine -/

def ck (t : BitVec 16) (l : BitVec 12) : Opnd := .ck none t l .zero
def spr (r : BitVec 15) : Opnd := .sp none r .zero
/-- Key (3, 5) holds slot 0, key (4, 0) is spilled to entry 0 of two, a window of key (3, 5) is open, and a metadata entry waits. -/
def matCell : Cell := { cellOn with
  cc := { Cc.reset with spillLen := 2 }
  cr := { Crema.reset with
    slots := Crema.reset.slots.set 0 ⟨some ⟨3, 5⟩, true, 0⟩
    free := (List.finRange 16).tail
    spilled := [⟨⟨4, 0⟩, 0, true, 0⟩] }
  me := { Me.reset with
    win := some ⟨⟨3, 5⟩, 0, [], none, 0, none⟩
    metaq := [(0, false)] } }
def mat : State := at_ matCell

theorem meets_latch_loads : issuesAt (.mnop (rec5 0 .absent .absent .absent)) .me (rec5 0 .absent .absent .absent) mat 0 = true ∧
    (∀ e ∈ loadOps, ∃ r ∈ [rec5 1 .absent (spr 24448) .absent, rec5 1 .absent (.hr none 48896 .zero) (spr 9)],
      issuesAt (e.1 r) .me r mat 0 = true) ∧
    mat.NamesRows (spr 24448) 128 (ixOf 0 0) 24448 ∧ mat.NamesHalf (.hr none 48896 .zero) (ixOf 0 0) 48896 ∧
    mat.NamesRow (spr 9) (ixOf 0 0) 9 ∧ (∀ r ∈ [9], assocGet 0 mat.cur.ord.banks (r % 32) + 1 ≤ 4) ∧
    (∃ v, registerRows (LatchSrc.ranges ⟨4, 48896, some 9⟩) mat = .ok v) ∧ ∃ v, registerRows (LatchSrc.ranges ⟨1, 24448, none⟩) mat = .ok v :=
  ⟨by decide +kernel, by decide +kernel, ⟨⟨by decide, none, 24448, .zero, rfl, by decide +kernel⟩, by decide⟩,
    ⟨by decide, none, 48896, .zero, rfl, by decide +kernel⟩, ⟨by decide, none, 9, .zero, rfl, by decide +kernel⟩, by decide +kernel,
    ⟨_, rfl⟩, ⟨_, rfl⟩⟩

theorem meets_passes : (∀ e ∈ passOps, ∃ r ∈ [rec5 1 (ck 3 5) (.hr none 256 .zero) .absent, rec5 1 (ck 3 5) (spr 7) .absent],
      issuesAt (e.1 r) .me r mat 0 = true) ∧
    mat.NamesHalf (.hr none 256 .zero) (ixOf 0 0) 256 ∧ mat.NamesRows (spr 7) 2 (ixOf 0 0) 7 ∧
    mat.NamesKey (ck 3 5) (ixOf 0 0) ⟨3, 5⟩ ∧ mat.CanRead [7, 8] ∧
    (∃ v, retain ⟨3, 5⟩ (passRanges 7 7 none) (mat.reading [7, 8]) = .ok v) ∧ (∃ v, retain ⟨3, 5⟩ (passRanges 9 256 none) mat = .ok v) ∧
    (∃ w, mat.WritesKey ⟨3, 5⟩ 0 w) ∧ (∃ w, mat.WritesKey ⟨9, 9⟩ 1 w) ∧ mat.cur.me.metaq = (0, false) :: [] ∧ on.cur.me.metaq = [] :=
  ⟨by decide +kernel, ⟨by decide, none, 256, .zero, rfl, by decide +kernel⟩, ⟨⟨by decide, none, 7, .zero, rfl, by decide +kernel⟩, by decide⟩,
    ⟨none, 3, .zero, rfl, by decide +kernel⟩, by unfold State.CanRead; decide +kernel, ⟨_, rfl⟩, ⟨_, rfl⟩,
    ⟨_, by decide +kernel, .inl ⟨by decide +kernel, rfl⟩⟩,
    ⟨_, by decide +kernel, .inr ⟨by decide +kernel, by decide +kernel, by decide +kernel, rfl⟩⟩, rfl, rfl⟩

/-- A bind finds its arguments wherever its bind row, its key, its labels and the banks allow. -/
theorem binds_of {s : State} {o1 o2 : Opnd} {x : Ix} {r0 : Nat} {key : Key} (p : Bool) (h1 : s.NamesRow o2 x r0) (h2 : s.NamesKey o1 x key)
    (h3 : p = true → r0 + 1 + 2 * ((byteAt (s.mpRow r0).1 48).toNat % 8 + 1) ≤ 24576)
    (h4 : s.CanRead (r0 :: if p then (List.range (2 * ((byteAt (s.mpRow r0).1 48).toNat % 8 + 1))).map (r0 + 1 + ·) else []))
    (h5 : ∀ i < (byteAt (s.mpRow r0).1 48).toNat % 8 + 1,
      s.cur.cr.spilledOf ⟨key.tile, (s.mpRow r0).1.extractLsb' (256 + 16 * i) 12⟩ = none) : ∃ b t, s.Binds o1 o2 x p b t :=
  ⟨⟨fun i j => if p then lane (s.mpRow (r0 + 1 + (2 * i + j / 64))).1 (j % 64) else lane (s.mpRow r0).1 i,
      fun j => (s.mpRow r0).2 || (p && (List.range ((byteAt (s.mpRow r0).1 48).toNat % 8 + 1)).any fun i => (s.mpRow (r0 + 1 + (2 * i + j / 64))).2),
      (List.range ((byteAt (s.mpRow r0).1 48).toNat % 8 + 1)).map fun i => s.cur.keyView ⟨key.tile, (s.mpRow r0).1.extractLsb' (256 + 16 * i) 12⟩⟩, _,
    ⟨r0, key, h1, h2, h3, h4, rfl, h5, rfl, fun _ _ _ _ => rfl, fun _ _ => rfl⟩⟩
/-- One product of label 0 (a bind row of zeros), without and with coefficients of each row. -/
theorem meets_binds : (∀ r ∈ [rec5 3 (.mq 1 false) (ck 3 0) (spr 30), rec5 0 (spr 200) (ck 3 0) (spr 30)],
      issuesAt (.bind r) .me r mat 0 = true ∧ issuesAt (.binda r) .me r mat 0 = true) ∧
    (let r := rec5 1 (ck 7 7) (ck 3 0) (spr 30); issuesAt (.bindm r) .me r mat 0 = true) := by decide +kernel
theorem meets_bind_arguments : (∃ b t, mat.Binds (ck 3 0) (spr 30) (ixOf 0 0) false b t) ∧ (∃ b t, mat.Binds (ck 3 0) (spr 30) (ixOf 0 0) true b t) := by
  have key : mat.NamesKey (ck 3 0) (ixOf 0 0) ⟨3, 0⟩ := ⟨none, 3, .zero, rfl, by decide +kernel⟩
  have row : mat.NamesRow (spr 30) (ixOf 0 0) 30 := ⟨by decide, none, 30, .zero, rfl, by decide +kernel⟩
  exact ⟨binds_of false row key (by decide) (by unfold State.CanRead; decide +kernel) (by decide +kernel),
    binds_of true row key (by decide +kernel) (by unfold State.CanRead; decide +kernel) (by decide +kernel)⟩
theorem meets_destinations : mat.Dest (.mq 1 false) 128 (ixOf 0 0) (.mq 1) ∧ mat.Dest (spr 200) 128 (ixOf 0 0) (.sp 200) :=
  ⟨.inl ⟨1, false, rfl, rfl⟩, .inr ⟨200, ⟨⟨by decide, none, 200, .zero, rfl, by decide +kernel⟩, by decide⟩, by decide +kernel, rfl⟩⟩

theorem meets_slot_reads : (∀ m ∈ ([0, 4, 8, 12, 1, 5, 2, 3] : List (BitVec 5)), ∀ o ∈ [.mq 0 false, spr 24448], let r := rec5 m o (ck 3 5) .absent
      issuesAt (.crd r) .me r mat 0 = true ∧ issuesAt (.crdt r) .me r mat 0 = true) ∧
    mat.Dest (spr 24448) 128 (ixOf 0 0) (.sp 24448) ∧ mat.cur.cr.spilledOf ⟨3, 5⟩ = none :=
  ⟨by decide +kernel, .inr ⟨24448, ⟨⟨by decide, none, 24448, .zero, rfl, by decide +kernel⟩, by decide⟩, by decide +kernel, rfl⟩, by decide +kernel⟩

theorem meets_slot_maintenance :
    (let r := rec5 0 .absent (.imm 0xFFF) .absent; issuesAt (.crell r) .me r mat 0 = true) ∧
    (let r := rec5 0 (.mq 0 false) .absent .absent; issuesAt (.cstat r) .me r mat 0 = true) ∧
    (∀ o ∈ [ck 3 5, ck 4 0, ck 9 9], let r := rec5 0 o .absent .absent
      issuesAt (.czero r) .me r mat 0 = true ∧ issuesAt (.crel r) .me r mat 0 = true ∧ issuesAt (.cspl r) .me r mat 0 = true ∧
      issuesAt (.cfil r) .me r mat 0 = true) := by decide +kernel
theorem meets_slot_labels :
    (let r := rec5 0 (ck 3 5) (.imm 1) .absent; issuesAt (.clbl r) .me r mat 0 = true) ∧
    (let r := rec5 1 (ck 9 9) (ck 3 5) .absent; issuesAt (.clblR r) .me r mat 0 = true) ∧
    (let r := rec5 0 (ck 9 9) (spr 24064) .absent; issuesAt (.cfilF32 r) .me r mat 0 = true) ∧
    (let r := rec5 1 (ck 9 9) (spr 24320) .absent; issuesAt (.cfilBf16 r) .me r mat 0 = true) := by decide +kernel
theorem meets_slot_states :
    mat.cur.keyDue ⟨3, 5⟩ = false ∧ mat.cur.cr.slotOf ⟨9, 9⟩ = none ∧ mat.cur.cr.slotOf ⟨3, 5⟩ ≠ none ∧ mat.cur.freeEntry ≠ none ∧
    mat.cur.cr.spilledOf ⟨4, 0⟩ ≠ none ∧ mat.cur.cr.spilledOf ⟨3, 5⟩ = none ∧ mat.cur.keyDue ⟨9, 9⟩ = false := by decide +kernel

theorem meets_slot_arithmetic : (let r := rec5 0 (ck 9 9) (ck 3 5) .absent; issuesAt (.ccpy r) .me r mat 0 = true) ∧
    (∀ o ∈ [.imm 0x40000000, spr 24574], let r := rec5 0 (ck 9 9) (ck 3 5) o; issuesAt (.cscal r) .me r mat 0 = true) ∧
    (let r := rec5 0 (ck 3 5) (ck 3 5) (ck 7 7); issuesAt (.cadd r) .me r mat 0 = true) ∧
    (∀ m ∈ ([0, 1] : List (BitVec 5)), let r := rec5 m (.mq 1 false) (ck 3 5) .absent
      issuesAt (.cmaxr r) .me r mat 0 = true ∧ issuesAt (.csumr r) .me r mat 0 = true) ∧ mat.CanRead [24574, 24575] := by
  unfold State.CanRead; decide +kernel

theorem meets_matrix_state : (let r := rec5 0 .absent (.imm 15) .absent; issuesAt (.cmode r) .me r mat 0 = true) ∧
    (let r := rec5 0 (.mq 1 false) .absent .absent; issuesAt (.mflg r) .me r mat 0 = true) ∧
    (∀ o ∈ [.absent, .mq 1 false, spr 0], let r := rec5 1 o (.imm 63) .absent; issuesAt (.mflgC r) .me r mat 0 = true) ∧
    (let r := rec5 0 (ck 3 5) .absent .absent; issuesAt (.tstart r) .me r on 0 = true) ∧
    (let r := rec5 0 .absent .absent .absent; issuesAt (.tcommit r) .me r mat 0 = true) := by decide +kernel

/-! ## Records of the stream engine -/

def tens : Opnd := .tensor 9 1 1 2 2 3 .zero
/-- One record of the stream engine for each shape of operands, at tick 5. -/
def seRecs : List Rec := [rec5 0 .absent .absent .absent, rec5 0 (spr 16) tens .absent, rec5 0 tens (spr 16) (.ring 0x40), rec5 0 (spr 16) (spr 32) (.imm 3),
  rec5 1 (spr 16) (spr 32) (.imm 3), rec5 0 (spr 16) (spr 32) (.imm 0), rec5 0 (spr 16) tens (.imm 1), rec5 0 tens (spr 16) (.imm 16),
  rec5 0 (spr 16) tens (spr 32), rec5 0 tens (.imm 7) .absent, rec5 0 tens (spr 16) (spr 32), rec5 0 (spr 16) (.hr none 64 .zero) (spr 32),
  rec5 0 (spr 16) (ck 3 5) .absent, rec5 0 .absent (spr 16) .absent, rec5 0 .absent (spr 16) (.imm 3), rec5 0 (spr 16) .absent (.imm 3),
  rec5 0 (.imm 3) (spr 16) .absent, rec5 0 .absent .absent (.imm 3), rec5 0 (.ring 0x80000040) (.imm 3) .absent,
  rec5 0 .absent (.imm 3) .absent, rec5 0 .absent tens .absent, rec5 1 (spr 16) .absent (.imm 3), rec5 0 (.ring 0x40) (.imm 3) .absent,
  rec5 1 (.ring 0x40) (.imm 3) .absent]
theorem meets_stream_releases : (∀ e ∈ seOps, ∃ r ∈ seRecs, issuesAt (e.1 r) .se r on 0 = true ∧ promBad (e.1 r) e.2.1 r (on.onEngine .se) = none) ∧
    awBeyond (.ring 0x80000040) = false := by decide +kernel
theorem meets_no_page_down : ∀ e ∈ seOps, ∀ r ∈ seRecs, ∀ m, newCmd e.2.1 r 0 (on.begun (e.1 r) .se r 0) = .ok m →
    downPage (on.begun (e.1 r) .se r 0) (on.begun (e.1 r) .se r 0).curCell m = none :=
  fun _ _ _ _ _ _ => by
    unfold downPage
    have h : ∀ i r, (on.begun i .se r 0).peers = on.peers := fun i r => by
      simp only [State.begun, State.beginRecord]
      cases isDeprecated i <;> rfl
    exact if_neg (by rw [h]; decide +kernel)
theorem meets_captures : (∃ a, on.Captures (spr 16) a) ∧ (∃ a, on.Captures (.imm 3) a) ∧ (∃ a, on.Captures (.ring 0x40) a) ∧
    (∃ a, on.Captures (ck 3 5) a) ∧ (∃ a, on.Captures (.hr (some 1) 64 .zero) a) ∧ (∃ a, on.Captures .absent a) ∧
    ∃ a, on.Captures tens a :=
  ⟨⟨_, rfl⟩, ⟨_, rfl⟩, ⟨_, rfl⟩, ⟨_, rfl⟩, ⟨_, by decide +kernel, by decide +kernel, rfl⟩, ⟨_, rfl⟩,
    ⟨_, by decide +kernel, 15, rfl, by decide +kernel⟩⟩

theorem meets_predicates : let r : Rec := ⟨5, .p true 0, 0, 0, vr 4, vr 1, vr 2⟩
    recOf (.fadd r) = some (.ve, 1, r) ∧ (vec.onEngine .ve).expanding = none ∧ (vec.onEngine .ve).engine.pc = some 0 ∧
    (vec.onEngine .ve).waits 5 = false ∧ evalPred vec.cur.cc r.pred = false ∧ recBad (.fadd r) (vec.gangOf vec.curCell).encgen = none ∧
    (vec.onEngine .ve).missCause 0 5 (issuesOf r .ve) (engCycles .ve) = none ∧ stepBad (.fadd r) r .ve 4 0 = none := by decide +kernel

theorem meets_nop_rules : on.CcIssues 5 0 ∧ (let r := rec5 0 .absent .absent .absent
      issuesAt (.vnop r) .ve r on 0 = true ∧ issuesAt (.mnop r) .me r on 0 = true) :=
  ⟨ccIssues_of_ccIssuesAt (by decide +kernel), by decide +kernel⟩
def badNop (w : RecordBits) : State := { at_ { cellOn with text := [(0, w)] } with turn := .record 0 .cc }
def wrongNop (w : RecordBits) : Bool :=
  decide (w.toNat % 2048 = 28) && (decide (w.extractLsb' 11 5 ≠ 0) || decide (w.extractLsb' 40 6 ≠ 0) || decide (w.toNat / 2 ^ 64 ≠ 0))
theorem meets_bad_nops : wrongNop 0x5081C = true ∧ wrongNop 0x1000005001C = true ∧ wrongNop 0x1000000000005001C = true := by decide +kernel
theorem meets_bad_nop_fetch : (badNop 0x5081C).fetch 0 .cc = some 0x5081C := by decide +kernel

/-! ## Events -/

/-- CPIN without operands, released at tick 5 as number 9. -/
def cmd0 : SeCmd := ⟨9, 0, 1, rec5 0 .absent .absent .absent, .absent, .absent, .absent, 5, 0, 0, .queued, [], none, [], [], 0, [], [], false, [],
  0, false, false⟩
def withCmd (m : SeCmd) (x : Cell) : State := at_ { x with se := { x.se with queue := [m] } }

theorem meets_stream_steps :
    (((on.cell 0).engine .se).pc.isSome = true ∧ (on.gangOf 0).frozen = false) ∧
    ((withCmd cmd0 cellOn).cell 0).seCmd 9 = some cmd0 ∧ (withCmd cmd0 cellOn).seReady 0 cmd0 = true ∧
    ((withCmd cmd0 cellOn).gangOf 0).status = .running ∧
    (let m : SeCmd := { cmd0 with phase := .running, out := [([4], 512)] }
     ((withCmd m cellOn).cell 0).seCmd 9 = some m ∧ (withCmd m cellOn).writeDone 4 = true) ∧
    (let m : SeCmd := { cmd0 with phase := .running, out := [([4], 512)], o2 := .ring 0x800000C2 }
     ((withCmd m arrivalCell).cell 0).seCmd 9 = some m ∧ m.counts = true ∧
      ((withCmd m arrivalCell).cell 0).arrival m.o2.awAddr = .ok ⟨512, 256, 3, true⟩ ∧ m.nref = false) ∧
    -- an armed word whose TARGET is 0
    ({ cellOn with sp := [(12, BitVec.ofNat 2048 (2 ^ 376))] } : Cell).arrival (ROp.ring 0x800000C2).awAddr = .ok ⟨0, 0, 0, true⟩ ∧
    (let m : SeCmd := { cmd0 with phase := .ending }
     ((withCmd m cellOn).cell 0).seCmd 9 = some m ∧ (withCmd m cellOn).cmdDone 0 m = true) ∧
    (let m : SeCmd := { cmd0 with phase := .running, prom := some ⟨5, 1, 3, 0, 0⟩ }
     ((withCmd m cellOn).cell 0).seCmd 9 = some m ∧ 5 ≤ ((withCmd m cellOn).gangOf 0).tick) ∧
    (let m : SeCmd := { cmd0 with op := 9, next := 64 }
     ((withCmd m cellOn).cell 0).seCmd 9 = some m ∧ m.total ≤ m.next) := by decide +kernel

/-- Two results in flight, both due at tick 5. -/
def due (a b : Land) : State := at_ { cellOn with flight := [⟨5, 8, .cc, 0, b, 0, 0, 0⟩, ⟨5, 7, .ve, 0, a, 0, 0, 1⟩] }
def lands : List Land :=
  [.g 3 7 true, .g 0 7 true, .p 3 true, .v 4 7 9 5, .k 2 6, .latch 1 Latch.reset, .flags]
theorem meets_landing : lands.all fun a =>
    let s := due a .flags
    decide ((s.gangOf 0).frozen = false ∧ (∀ m ∈ (s.cell 0).flight, m.due ≤ (s.gangOf 0).tick →
      m = ⟨5, 7, .ve, 0, a, 0, 0, 1⟩ ∨ 5 < m.due ∨ 5 = m.due ∧ 7 < m.seq)) && (landed (s.cell 0) a).isSome := by decide +kernel

def onGang (g : Gang) : State := on.setGang 0 g
theorem meets_tick_events :
    (let s := onGang { gangOn with tick := 60, decisions := [⟨5, 0, 1, 0, 0, 1, none, 8⟩, ⟨5, 1, 1, 0, 0, 0, none, 9⟩] }
     (s.gang 0).decisions ≠ [] ∧ (s.gang 0).frozen = false ∧ 5 + ddecOf (s.gang 0).glog ≤ (s.gang 0).tick ∧
      ((s.gang 0).decisions.filter fun d => decide (d.tick = 5)).Pairwise (fun d e => d.cell ≠ e.cell)) ∧
    (let s := onGang { gangOn with tick := 60, tokens := [⟨5, 0, 1, 8, 0, 0, 3⟩, ⟨5, 1, 1, 8, 0, 0, 4⟩, ⟨6, 0, 2, 9, 0, 0, 5⟩] }
     5 + ddecOf (s.gang 0).glog ≤ (s.gang 0).tick ∧ ∀ k ∈ (s.gang 0).tokens, k.tick = 5 → k.segid = 1 ∧ k.succ = 8) ∧
    gangOn.member 0 = 0 ∧
    (let s := at_ { cellOn with sq := { cellOn.sq with switches := [⟨5, .ve, 2⟩] } }
     (s.gangOf 0).frozen = false ∧ 5 ≤ (s.gangOf 0).tick) ∧
    (let s := at_ { cellOn with inval := [none, some 4], text := [(0, 7)] }
     some 4 ∈ (s.cell 0).inval ∧ 4 ≤ (s.gangOf 0).tick) := by decide +kernel

/-- Device memory as R76–R80 and R207–R209 lay it out: ASID 7's tensor table at frame 256; in it tensor 9, flat, of one page at
frame 258 through the table of frame 257; and at its start the header of a kernel binary (one variant, a band of 1,000 to 1,900
MHz), the variant's entry at byte 256, and its one SEGE at byte 320. The descriptor and the leaf are cached. -/
def worldMem : Memory := [
  (0x1000242, 0xC0), (0x100024A, 0x1), (0x1000258, 0x10), (0x1000260, 0x1), (0x1000261, 0x1), (0x1010000, 0x2), (0x1010001, 0x1),
  (0x1010004, 0xD0), (0x1020000, 0x43), (0x1020001, 0x4F), (0x1020002, 0x4C), (0x1020003, 0x4B), (0x1020004, 0x45), (0x1020005, 0x52),
  (0x1020006, 0x4E), (0x1020007, 0x34), (0x1020008, 0x4), (0x102000B, 0x6), (0x102000C, 0x1), (0x1020018, 0xE8), (0x1020019, 0x3),
  (0x102001A, 0x6C), (0x102001B, 0x7), (0x1020021, 0x1), (0x1020028, 0x40), (0x1020029, 0x1), (0x1020110, 0x40), (0x1020111, 0x1),
  (0x1020118, 0x1), (0x1020140, 0xC), (0x1020142, 0x9), (0x1020150, 0xA)]
def flatDesc (pages root : Nat) : Nat := 0xC00000 + pages * 65536 * 2 ^ 64 + 16 * 2 ^ 192 + root * 2 ^ 256
def worldGang : Gang := { gangOn with ktid := 9, toff := 320, tlen := 1, fmin := 1000, fmax := 1900, queue := 3 }
def worldQueue : SQueue := { SQueue.reset with tickets := 16, en := true, asids := BitVec.allOnes 1024 }
def worldWith (m : Memory) : State := { onGang worldGang with
  mem := m
  tables := [⟨7, 256 * 65536⟩]
  descs := [⟨7, 9, BitVec.ofNat 512 (flatDesc 1 257)⟩]
  leaves := [⟨7, 9, 0, BitVec.ofNat 64 (258 + 2 ^ 36 + 2 ^ 38 + 2 ^ 39)⟩]
  queues := State.reset.queues.set 3 worldQueue }
def world : State := worldWith worldMem
/-- R145: a node of one instance that runs the binary in queue 3, its 32 successor entries empty; with it a graph object at byte
4,096. -/
def nodeWord : Nat := 9 * 2 ^ 40 + 3 * 2 ^ 52 + (1 + 2 ^ 16 + 2 ^ 32) * 2 ^ 64 + (400 + 500 * 2 ^ 16) * 2 ^ 128 + (2 ^ 512 - 1) * 2 ^ 512
def graphWorld : State := worldWith [
  (0x1000242, 0xC0), (0x100024A, 0x1), (0x1000258, 0x10), (0x1000260, 0x1), (0x1000261, 0x1), (0x1010000, 0x2), (0x1010001, 0x1),
  (0x1010004, 0xD0), (0x1020000, 0x43), (0x1020001, 0x4F), (0x1020002, 0x4C), (0x1020003, 0x4B), (0x1020004, 0x45), (0x1020005, 0x52),
  (0x1020006, 0x4E), (0x1020007, 0x34), (0x1020008, 0x4), (0x102000B, 0x6), (0x102000C, 0x1), (0x1020018, 0xE8), (0x1020019, 0x3),
  (0x102001A, 0x6C), (0x102001B, 0x7), (0x1020021, 0x1), (0x1020028, 0x40), (0x1020029, 0x1), (0x1020110, 0x40), (0x1020111, 0x1),
  (0x1020118, 0x1), (0x1020140, 0xC), (0x1020142, 0x9), (0x1020150, 0xA), (0x1021000, 0x1), (0x1021105, 0x9), (0x1021106, 0x30),
  (0x1021108, 0x1), (0x102110A, 0x1), (0x102110C, 0x1), (0x1021110, 0x90), (0x1021111, 0x1), (0x1021112, 0xF4), (0x1021113, 0x1),
  (0x1021140, 0xFF), (0x1021141, 0xFF), (0x1021142, 0xFF), (0x1021143, 0xFF), (0x1021144, 0xFF), (0x1021145, 0xFF), (0x1021146, 0xFF),
  (0x1021147, 0xFF), (0x1021148, 0xFF), (0x1021149, 0xFF), (0x102114A, 0xFF), (0x102114B, 0xFF), (0x102114C, 0xFF), (0x102114D, 0xFF),
  (0x102114E, 0xFF), (0x102114F, 0xFF), (0x1021150, 0xFF), (0x1021151, 0xFF), (0x1021152, 0xFF), (0x1021153, 0xFF), (0x1021154, 0xFF),
  (0x1021155, 0xFF), (0x1021156, 0xFF), (0x1021157, 0xFF), (0x1021158, 0xFF), (0x1021159, 0xFF), (0x102115A, 0xFF), (0x102115B, 0xFF),
  (0x102115C, 0xFF), (0x102115D, 0xFF), (0x102115E, 0xFF), (0x102115F, 0xFF), (0x1021160, 0xFF), (0x1021161, 0xFF), (0x1021162, 0xFF),
  (0x1021163, 0xFF), (0x1021164, 0xFF), (0x1021165, 0xFF), (0x1021166, 0xFF), (0x1021167, 0xFF), (0x1021168, 0xFF), (0x1021169, 0xFF),
  (0x102116A, 0xFF), (0x102116B, 0xFF), (0x102116C, 0xFF), (0x102116D, 0xFF), (0x102116E, 0xFF), (0x102116F, 0xFF), (0x1021170, 0xFF),
  (0x1021171, 0xFF), (0x1021172, 0xFF), (0x1021173, 0xFF), (0x1021174, 0xFF), (0x1021175, 0xFF), (0x1021176, 0xFF), (0x1021177, 0xFF),
  (0x1021178, 0xFF), (0x1021179, 0xFF), (0x102117A, 0xFF), (0x102117B, 0xFF), (0x102117C, 0xFF), (0x102117D, 0xFF), (0x102117E, 0xFF),
  (0x102117F, 0xFF)]
/-- R318: a Farica module of one literal at byte 0 of the same page. -/
def faricaWorld : State := worldWith [
  (0x1000242, 0xC0), (0x100024A, 0x1), (0x1000258, 0x10), (0x1000260, 0x1), (0x1000261, 0x1), (0x1010000, 0x2), (0x1010001, 0x1),
  (0x1010004, 0xD0), (0x1020000, 0x46), (0x1020001, 0x41), (0x1020002, 0x52), (0x1020003, 0x49), (0x1020004, 0x43), (0x1020005, 0x41),
  (0x1020006, 0x31), (0x102000C, 0x1), (0x1020010, 0xE8), (0x1020011, 0x3), (0x1020012, 0x6C), (0x1020013, 0x7), (0x1020014, 0x90),
  (0x1020015, 0x1), (0x1020016, 0xF4), (0x1020017, 0x1), (0x1020042, 0x10), (0x1020043, 0x50)]
def okay {ε α : Type} (x : Except ε α) : Bool := match x with
  | .ok _ => true
  | .error _ => false

theorem test_world_canonical : world.canonical = true := by decide +kernel
theorem meets_text_preload : world.textWord (world.gidOf 0) 0 = some endRecord ∧ (world.cell 0).busy = true ∧ (world.cell 0).text.length < 4096 := by decide +kernel
theorem meets_walk :
    let s : State := { world with leaves := [] }
    (s.descs.any fun e => e.asid == 7 && e.tid == 9) = true ∧
    s.desc 7 9 = .ok ⟨0, 1, true, [65536], [16], 257, 1, 0, 0⟩ ∧
    s.page 7 9 ⟨0, 1, true, [65536], [16], 257, 1, 0, 0⟩ false 0 = .ok ⟨258, 1, true, false, false, 0, 0, 0⟩ ∧
    s.cached 7 9 0 = false := by decide +kernel

def faultOn (written : Bool) : PFault := ⟨3, 0x0A, 0, 1, 5, 0, 0, 0, 0, .cc, 0, false, 0, written, false, 1, none, none, 0, false⟩
def faulty : Gang := { gangOn with frozen := true, faults := [faultOn false], reqs := [⟨5, .fault 3⟩] }
theorem meets_stopped_at : StoppedAt (onGang faulty) 0 (faultOn false) ∧
    StoppedAt (onGang { faulty with frozen := false, faults := [{ faultOn false with mode := 0 }] }) 0 { faultOn false with mode := 0 } :=
  ⟨⟨by decide +kernel, by decide +kernel, by decide +kernel, by decide +kernel, by decide +kernel, by decide +kernel⟩,
    ⟨by decide +kernel, by decide +kernel, by decide +kernel, by decide +kernel, by decide +kernel, by decide +kernel⟩⟩
theorem meets_freeze_events :
    ((on.gangOf 0).frozen = false ∧ (on.gangOf 0).tick ≤ 7 ∧ ((on.gangOf 0).reqs.any fun r => decide (r.cond = .text 0 2)) = false) ∧
    (let s := onGang { gangOn with reqs := [⟨4, .debug⟩] }
     (s.gang 0).frozen = false ∧ (s.gang 0).runs = true ∧ 4 ≤ (s.gang 0).tick ∧ (s.gang 0).faults = [] ∧
      ∀ c ∈ (s.gang 0).cells, (s.cell c).sq.brkGone = 0) ∧
    (let s : State := { onGang { gangOn with frozen := true, frozenAt := 10, reqs := [⟨4, .seSpace 0 1⟩, ⟨9, .debug⟩] } with wall := 11 }
     (s.gang 0).frozen = true ∧ (s.gang 0).status = .running ∧ (s.gang 0).frozenAt < s.wall ∧ (s.gang 0).writes = [] ∧
      ∀ r ∈ (s.gang 0).reqs, r.due ≤ (s.gang 0).tick → s.met r.cond = true) ∧
    (let s := onGang faulty
     (s.gang 0).frozen = true ∧ (faultOn false).mode ≠ 0 ∧ (s.gang 0).saveFor = none) ∧
    (let s := onGang { faulty with frozen := false, faults := [{ faultOn false with mode := 0 }] }
     (s.gang 0).frozen = false ∧ ({ faultOn false with mode := 0 } : PFault).cls ≠ 0x0F) ∧
    (let s : State := { onGang faulty with forwards := [(0, 4)], wall := 11 }
     (s.forwards.find? fun x => decide (x.1 = 0)) = some (0, 4) ∧ 4 ≤ s.wall) ∧
    (let w : Window := ⟨⟨3, 5⟩, 2, [], none, 1, none⟩
     let s : State := { at_ { cellOn with
      me := { Me.reset with win := some w }
      cr := Crema.reset.setSlot 1 { Crema.reset.slots[1] with key := some ⟨3, 5⟩ } } with
      gangs := on.gangs.set 0 { gangOn with frozen := true, reqs := [⟨5, .replay 0⟩] } }
     (s.cell 0).me.win = some w ∧ (s.gangOf 0).frozen = true ∧ ⟨(s.gangOf 0).tick, .replay 0⟩ ∈ (s.gangOf 0).reqs ∧
      (s.gangOf 0).killSeq = none ∧ (s.cell 0).cr.slotOf w.key ≠ none) ∧
    (let s := at_ { cellOn with me := { Me.reset with win := some ⟨⟨3, 5⟩, 2, [⟨100, 4, false, false⟩], none, 0, none⟩ } }
     (s.cell 0).me.win = some ⟨⟨3, 5⟩, 2, [⟨100, 4, false, false⟩], none, 0, none⟩ ∧ s.log.length < 65280) ∧
    (let s : State := { on with log := [⟨0, 9, false⟩] }
     (s.log.find? fun e => decide (e.seq = 0)) = some ⟨0, 9, false⟩ ∧ s.staged = []) := by decide +kernel

/-! ### The ordering machine and the home agents -/

def fw (l : Loc) (m : BitVec 256) : FWrite := ⟨9, 0, .sp, 0, none, l, .set, 0x55, m, false, false, none, none⟩
def yop (k : YKind) : YOp := ⟨9, 0, 0, 5, k, [], 0, .cc, 0, false⟩
def yped (x : Cell) (k : YKind) : State := at_ { x with ord := { Ord.reset with yp := [yop k] } }
def yready (s : State) : Bool := match (s.cell 0).ypOp 9 with
  | some op => s.ypReady 0 op
  | none => false
theorem meets_ordering_events :
    (let s := at_ { cellOn with ord := { Ord.reset with stores := [⟨9, 4, 8, 1, 100, 7, false, none, 0⟩], loads := [⟨10, 5, 9, 1, 100, 0, some 2, 1⟩] } }
     (∀ l ∈ (s.cell 0).ord.loads, 1 ≤ l.tick) ∧ (s.cell 0).windowFlt .cc 100 = none ∧
      (⟨100, 4, false, false⟩ : WinRange).hits (s.cell 0) 103 = true) ∧
    (let s := at_ { cellOn with ord := { Ord.reset with loads := [⟨10, 5, 9, 1, 100, 0, some 2, 1⟩] } }
     (∀ w ∈ (s.cell 0).ord.stores, 1 ≤ w.tick) ∧ ∀ w ∈ s.fabric, ¬ (w.cell = 0 ∧ w.path = .cq ∧ w.loc = .sp 0 100)) ∧
    (let w := fw (.sp 0 24575) (BitVec.allOnes 256)
     let s : State := { on with fabric := [w, { w with uid := 10, loc := .sp 0 1 }] }
     (s.fabric.find? fun x => decide (x.uid = w.uid)) = some w ∧ s.canonical = true ∧
      (∀ x ∈ s.fabric, x.cell = w.cell → x.loc = w.loc → x = w) ∧ w.tick ≠ some (s.gangOf w.cell).tick) ∧
    (let w := fw (.hbm 66048) 0xFF
     let s : State := { on with fabric := [w] }
     (s.fabric.find? fun x => decide (x.uid = w.uid)) = some w ∧ s.frameHeld (66048 / 256) = false ∧ s.layout.mode = 0) ∧
    (let s := yped ringCell (.tail 41 4)
     yready s = true ∧ (s.cell 0).rcb 41 = .ok ring41 ∧ ring41.stage = false ∧ (ring41.tail - ring41.head).toNat + 4 ≤ ring41.depth ∧
      ring41.depth ≤ 2 ^ 31 ∧ (ring41.claimed - ring41.head).toNat ≤ ring41.depth) ∧
    (let s := at_ { cellOn with ord := { Ord.reset with holds := [⟨9, 4, 1, 2, 0, false, []⟩] } }
     ((s.cell 0).ord.holds.find? fun k => decide (k.uid = 9)) = some ⟨9, 4, 1, 2, 0, false, []⟩ ∧
      (∀ d : CellId, d ≠ 0 → ∀ k ∈ (s.cell d).ord.holds, k.uid ≠ 9) ∧ s.holds 0 ⟨9, 4, 1, 2, 0, false, []⟩ = false) ∧
    ∀ full : Bool, let d : Delta := ⟨9, 0, 0, 7, 66048, 3, true, .sp, full⟩
     let s : State := { on with deltas := [d] }
     (s.deltas.find? fun e => decide (e.parity = 3)) = some d ∧ s.layout.moving = false ∧ ∀ m ∈ (s.cell d.cell).se.queue, m.uid ≠ d.cmd := by
  decide +kernel

def phased (led : List (CellId × Bool)) (k : YKind) : State := { yped cellOn k with phasers := [⟨7, 4, 2, led, false⟩] }
def claimTable : Row := BitVec.ofNat 2048 41
def claimer (x : Cell) : State := yped x (.yclm 1 2 2 claimTable true)
def zeroLine : SyncLine := ⟨0, 264192, 0x1234, 0, true⟩
def spillCell (m : CremaMove) : Cell := { cellOn with
  cc := { Cc.reset with spillBase := 10, spillLen := 1 }, cr := { Crema.reset with moving := [⟨0, 5, 8, m⟩] } }
theorem meets_home_events :
    (let s := yped cellOn (.atom .add (.ctr 7 0x81) false false 3 0 false 0 0)
     yready s = true ∧ (s.counter (s.gangOf 0).asid 0x81).2 = false ∧ (s.gangOf 0).asid = 7) ∧
    (let s := phased [(5, true)] (.phreg 4)
     yready s = true ∧ (s.phaser 7 4).poisoned = false ∧ ((s.phaser 7 4).parties.any fun e => e.1 == 0) = false) ∧
    (let s := phased [(5, true), (0, false)] (.pharv 4)
     yready s = true ∧ (0, false) ∈ (s.phaser 7 4).parties ∧ ∀ e ∈ (s.phaser 7 4).parties, e.1 ≠ 0 → e.2 = true) ∧
    (let s := claimer ringCell
     s.roundParts 0 5 = some [(0, yop (.yclm 1 2 2 claimTable true))] ∧
      okay (claimLanes (s.gang 0) [(0, yop (.yclm 1 2 2 claimTable true))] claimTable 1 0 s) = true) ∧
    (let s := at_ { cellOn with q := { Queues.reset with yq := [⟨4, true, true, 7, true, false, none⟩, ⟨5, true, false, 7, true, false, none⟩] } }
     ∀ r ∈ (s.cell 0).q.yRet, r.arrived = true) ∧
    (let s : State := { on with lines := [zeroLine] }
     s.lineAt 264192 = some zeroLine ∧ s.canonical = true) ∧
    (∀ m ∈ ([.spill 0 [] [], .fill ⟨3, 5⟩, .park 3 7 1] : List CremaMove), ((at_ (spillCell m)).cell 0).work (fun n => n = m) = some ⟨0, 5, 8, m⟩) ∧
    ((on.setGang 0 { gangOn with frozen := true }).gangOf 0).frozen = true ∧ 5 ≤ (on.gangOf 0).tick ∧ on.spillHeld 0 true = none ∧
    CremaMove.isSpill (.spill 0 [] []) = true ∧ CremaMove.isFill (.fill ⟨3, 5⟩) = true ∧ CremaMove.isPark (.park 3 7 1) = true := by
  decide +kernel

theorem meets_moved :
    let op := yop (.atom .add (.mem 77) false false 3 0 false 9 64)
    let s : State := { world with moved := [(0, op)] }
    (s.moved.find? fun m => m.1 == 0 && decide (m.2.uid = op.uid)) = some (0, op) ∧
      okay (s.freshVar 0 9 64 8) = true := by decide +kernel
/-- The spill area is tensor 10, of three pages, its translations cached. -/
def spilling (m : CremaMove) : State := { at_ (spillCell m) with
  descs := [⟨7, 10, BitVec.ofNat 512 (flatDesc 3 260)⟩]
  leaves := [⟨7, 10, 0, BitVec.ofNat 64 (261 + 2 ^ 38 + 2 ^ 39)⟩, ⟨7, 10, 1, BitVec.ofNat 64 (262 + 2 ^ 38 + 2 ^ 39)⟩,
    ⟨7, 10, 2, BitVec.ofNat 64 (263 + 2 ^ 38 + 2 ^ 39)⟩] }
theorem meets_parked : okay ((spilling (.park 3 7 1)).spillPut 0 768 7 true) = true := by decide +kernel
theorem meets_spilled : okay (State.spillWrite 0 0 [] [] 512 (spilling (.spill 0 [] []))) = true := by decide +kernel

/-! ### The scheduler and saves -/

def worldNode : Node := nodeOf nodeWord
def ended : State := { onGang { gangOn with status := .ending, graph := 50, tlen := 1 } with graphs := [⟨50, 7, [worldNode]⟩] }
theorem meets_task_done :
    ({ ended with cells := ended.cells.set 0 { cellOn with sq := Seqs.reset } } : State).taskDone 0 = true := by decide +kernel
theorem meets_node_done :
    let n : Node := { worldNode with completing := true, doneCount := 1, even := true, evcode := 9 }
    let h : Graph := ⟨50, 7, [n]⟩
    let s : State := { on with graphs := [h] }
    (s.graphs.find? fun g => decide (g.handle = h.handle)) = some h ∧ h.nodes[0]? = some n ∧ n.done = false ∧ s.released n = true ∧
      n.awen = false ∧ n.sent = none ∧ n.succ = [] := by decide +kernel
theorem meets_submit : graphWorld.graphWords 7 9 4096 = .ok (1, [nodeWord]) ∧ graphWorld.nodeRefusal 7 [nodeOf nodeWord] [nodeWord] 0 = none ∧
    (nodeOf nodeWord).total ≠ 0 ∧ graphWorld.graphs = [] := by decide +kernel
/-- The node ready at the head of queue 3. -/
def ready : State := { world with graphs := [⟨50, 7, [worldNode]⟩], queues := world.queues.set 3 { worldQueue with ready := [.inst 50 0 0 1] } }
def figures : Head := ⟨0, 400, 500, 1000, 1900⟩
theorem meets_dispatch : ready.emergency = false ∧ ready.returnDeferred.cand = some 3 ∧
    ready.returnDeferred.queues[(3 : Fin 64)].ready = [.inst 50 0 0 1] ∧ ready.returnDeferred.headOf (.inst 50 0 0 1) = some figures ∧
    ready.returnDeferred.eligible figures = true ∧ ready.returnDeferred.place (.inst 50 0 0 1) 0 = some (1, [1]) ∧
    (ready.returnDeferred.dispatch 3 (.inst 50 0 0 1) figures 1 [1]).cand = none := by decide +kernel
theorem meets_quantum :
    let s : State := { world with wall := 1900 * 5000 }
    (s.gang 0).status = .running ∧ (s.gang 0).saveFor = none ∧
      (s.gang 0).startAt + 1900 * (s.queues[(s.gang 0).queue]).quant ≤ s.wall ∧ s.pressed (s.classOf (s.gang 0)) = false := by decide +kernel
def placed (img : Nat) : State := ready.setGang 0 { worldGang with status := .starting, tick := 0, graph := 50, image := img }
theorem meets_start : ((placed 0).gang 0).status = .starting ∧ ((placed 0).gang 0).image = 0 ∧ (placed 0).tooLate 0 = false ∧
    (placed 0).rampAllows ((placed 0).gang 0).cells (((placed 0).gang 0).avg * ((placed 0).gang 0).size) = true ∧
    (placed 0).nodeAt ((placed 0).gang 0).graph ((placed 0).gang 0).node = some worldNode ∧
    okay ((placed 0).startCheck ((placed 0).gang 0).asid worldNode) = true := by decide +kernel
theorem meets_ballast :
    let s : State := { on with power := { Power.reset with ballast := [(3, 400, 0)] }, wall := 38000 }
    (3, 400, 0) ∈ s.power.ballast ∧ 0 + 38000 ≤ s.wall ∧ s.power.noBallast = false := by decide +kernel

def image0 (g : Gang) : Image := ⟨30, 0, g, [Cell.reset], [], [], [], [], true, false, false, false, false, false, false, []⟩
def saving (n : Nat) : Gang := { gangOn with status := .saving n, image := 30, frozen := true, saveFor := some .quantum }
theorem meets_save_events :
    ((on.gang 0).status = .running ∧ (on.gang 0).saveFor = none ∧ (on.gang 0).frozen = false) ∧
    (onGang { gangOn with frozen := true, saveFor := some .quantum, reqs := [⟨5, .preempt⟩] }).stopDue 0 = true ∧
    (let s : State := { onGang (saving 1) with images := [image0 (saving 1)] }
     (s.gang 0).status = .saving 1 ∧ (∀ c ∈ (s.gang 0).cells, s.quietCell 0 c = true) ∧
      (s.images.find? fun j => decide (j.id = (s.gang 0).image)) = some (image0 (saving 1))) ∧
    (let s : State := { onGang (saving 4) with images := [image0 (saving 4)] }
     let i := image0 (saving 4)
     badControl i.marks = none ∧ i.lost = false ∧ (s.gang 0).killSeq = none ∧ ∀ d ∈ s.deltas, d.blk ≠ i.commitBlock) ∧
    (let s : State := { on with fabric := [fw (.img 30 0 100) 0xFF], images := [{ image0 gangOn with committed := true }] }
     (s.fabric.find? fun v => match v.loc with
      | .img id _ _ => decide (id = 30)
      | _ => false) = some (fw (.img 30 0 100) 0xFF)) ∧
    (let i : Image := { image0 gangOn with committed := true }
     let s : State := { on with images := [i] }
     s.image i.id = some i ∧ i.active = true ∧ s.placedFor i.id = none ∧ s.emergency = false ∧ i.pinned = false) ∧
    (let i : Image := { image0 gangOn with committed := true, hostHeld := true }
     let s : State := { on with images := [i] }
     s.image i.id = some i ∧ i.active = true) ∧
    (let s := onGang { gangOn with frozen := true, reqs := [⟨5, .kill 8⟩] }
     (s.gang 0).status = .running ∧ (s.gang 0).killSeq = some 8 ∧ ∀ c ∈ (s.gang 0).cells, (s.cell c).se.queue = []) := by decide +kernel

/-- A committed image of the world's gang: its header names the binary by its digest (R165, R166). -/
def savedHeader : Row := BitVec.ofNat 2048 (0x00004D49344C4F43 + 2 ^ 64 + 4 * 2 ^ 80 + spanOf 0 * 2 ^ 96 + binId world worldGang * 2 ^ 192)
def savedRows (crc : Nat) : Rows :=
  [(0, savedHeader), (255, BitVec.ofNat 2048 ((0x0054494D4D4F43 + crc * 2 ^ 64 + 0 % 2 ^ 64 * 2 ^ 128) * 2 ^ (8 * 192)))]
def savedWith (chans : List Chan) : Image :=
  { image0 worldGang with committed := true, blocks := savedRows (headerCrc [(0, savedHeader)]), chans := chans }
def saved : Image := savedWith []
theorem saved_commits (chans : List Chan) : commitBad (savedWith chans).blocks = false :=
  commitBad_record (r := [(0, savedHeader)]) (n := 0)
    (fun b hb => by unfold savedWith savedRows; simp only [assocGet]; split <;> simp_all)
    rfl (by decide +kernel) rfl
def resuming (chans : List Chan) : State := { placed 30 with images := [saved], chans := chans }
theorem saved_resumes : okay ((resuming []).resumeCheck saved) = true := by
  unfold saved State.resumeCheck headerBad
  rw [saved_commits]
  decide +kernel
theorem saved_found : ((resuming []).images.find? fun j => decide (j.id = saved.id)) = some saved := rfl
theorem saved_committed : saved.committed = true := rfl
theorem resuming_placed : (resuming []).placedFor saved.id = some 0 := by decide +kernel
theorem resuming_free : (resuming []).imageBusy 30 = false := by decide +kernel
theorem resuming_ramp :
    (resuming []).rampAllows ((resuming []).gang 0).cells (((resuming []).gang 0).avg * ((resuming []).gang 0).size) = true := by
  decide +kernel
theorem meets_resume : (resuming []).placedFor saved.id = some 0 ∧
    ((resuming []).images.find? fun j => decide (j.id = saved.id)) = some saved ∧ saved.committed = true ∧
    (resuming []).imageBusy 30 = false ∧
    (resuming []).rampAllows ((resuming []).gang 0).cells (((resuming []).gang 0).avg * ((resuming []).gang 0).size) = true ∧
    okay ((resuming []).resumeCheck saved) = true :=
  ⟨resuming_placed, saved_found, saved_committed, resuming_free, resuming_ramp, saved_resumes⟩

/-- R170, R390: an exported image is stored and held. R391: a channel that is bound here refuses its resumption. -/
theorem test_import :
    (let i : Image := { image0 gangOn with committed := true }
     (match takeImport { ready with stage := 7, uid := 5, imports := [⟨i, 5, 9⟩] } with
      | .next t => decide (t.uid = 10) && t.imports.isEmpty && decide (t.images.map (fun j => (j.id, j.hostHeld, j.foreign)) = [(9, true, true)])
      | _ => false) = true) := by decide +kernel
def bound : Chan := ⟨5, 0, 0, 7, some 0, none, none⟩
def refusedWith {α : Type} (k : Nat) (x : Except Nat α) : Bool := match x with
  | .error j => decide (j = k)
  | .ok _ => false
theorem test_bound_channel : refusedWith Refused.chanBusy.code ((resuming [bound]).resumeCheck (savedWith [bound])) = true := by
  unfold State.resumeCheck headerBad
  rw [saved_commits]
  decide +kernel

/-! ### Requests from outside, the board, the fabric, the memories -/

def debugged (g : Gang) : State := { onGang g with sessions := [⟨1, 2, true, 0, []⟩], grants := [(2, 7)] }
def held (g : Gang) : Gang := { g with frozen := true, owner := some 1, reqs := [⟨5, .debug⟩] }
theorem meets_registers :
    ((0xD : BitVec 64).extractLsb' 0 2).toNat = ({ on with ports := on.ports.set 0 ⟨1, true, true⟩ } : State).ports[(0 : Fin 2)].split ∧
    ((0xC : BitVec 64).extractLsb' 0 2).toNat = on.ports[(1 : Fin 2)].split ∧ ((0xD : BitVec 64).extractLsb' 0 2).toNat ≠ 3 := by
  decide +kernel
theorem meets_sessions :
    (on.asker, 2) ∉ on.spdm ∧
    (let s : State := { on with spdm := [(4, 1), (5, 2)], asker := 5 }
     (4, 1) ∈ s.spdm ∧ (s.asker, 2) ∈ s.spdm) ∧
    (let s : State := { on with sessions := [⟨1, 2, false, 0, []⟩] }
     ∀ x ∈ s.sessions, x.secured = false ∧ ∀ g, (s.gang g).owner ≠ some x.id) ∧
    (let s := debugged { gangOn with owner := some 1 }
     (∀ h, (s.gang h).owner = some 1 ↔ h = 0) ∧ (s.gang 0).frozen = false) := by decide +kernel
theorem meets_debug :
    ((debugged gangOn).mayChange 1 0 = true ∧ ((debugged gangOn).gang 0).status = .running ∧ ((debugged gangOn).gang 0).frozen = false) ∧
    (let s := debugged (held gangOn)
     s.serves 1 0 = true ∧ (s.gang 0).stopped = true ∧ (s.gang 0).cellAt 0 = some 0 ∧ s.mayChange 1 0 = true ∧ (s.gang 0).owner = some 1 ∧
      s.mayRelease 1 0 = true ∧ (s.gang 0).faults = []) := by decide +kernel
theorem meets_breakpoints :
    let s : State := { world with sessions := [⟨1, 2, true, 0, []⟩], grants := [(2, 7)] }
    s.textWord 0 0 = some endRecord ∧ s.textAddr (s.gang 0) 0 = some (258 * 65536 + 320) ∧ s.mayChange 1 0 = true ∧ s.brkOf 0 7 = none ∧
      endRecord.toNat % 2048 ≠ 24 ∧
      (s.setCell 0 { cellOn with sq := { cellOn.sq with brk := cellOn.sq.brk.set 7 (some (0, endRecord)) } }).brkOf 0 7 = some (0, endRecord) := by
  decide +kernel

/-- R189: an object whose signatures verify under root slots 1 and 2. -/
def signed : SignedObject := ⟨1, 2, some 1, some 2, true, true, 3⟩
def booting (b : BootInput) (stage : Nat) : State := { State.reset with boot := some b, stage := stage }
theorem meets_boot : State.reset.stage = 0 ∧ State.reset.bootHalt = false ∧ State.reset.boot = none ∧
    ((booting ⟨0, 0x70, [], signed, 0, signed, some 3⟩ 3).bootHalt = false ∧ badSignature 0x70 = false ∧ objectVerifies signed 0 = true) ∧
    badSignature 0x9 = true ∧ objectVerifies signed 0xFF = false := by decide +kernel
def powered (p : Power) : State := { onGang worldGang with power := p, wall := 950000 }
theorem meets_board_events : on.ballasted 3 = false ∧
    (let s := powered { Power.reset with stretchAt := #v[List.replicate 65 0, []] }
     65 ≤ (s.power.stretches 0).length ∧ s.power.rootDiv < 4 ∧ s.log.length < 65280) ∧
    (let s := powered { Power.reset with rootDiv := 4 }
     1 < s.power.rootDiv ∧ s.power.clamp = false ∧ s.power.calmSince + 950000 ≤ s.wall) ∧
    (let s := powered { Power.reset with freq := 1700 }
     s.heading ≠ s.power.freq ∧ s.power.lastStep + 1900 ≤ s.wall) ∧
    (on.cell 3).busy = false ∧ on.power.hot95.get 1 = false ∧ on.power.clamp = false ∧
    (powered { Power.reset with hot95 := #v[true, false] }).power.hot95.get 0 = true ∧
    (let s : State := { on with ports := on.ports.set 0 ⟨1, true, true⟩ }
     s.subExists 1 = true ∧ s.links.getLsbD 1 = true ∧ s.log.length < 65280) ∧
    (let s : State := { on with links := 0xFE }
     s.subExists 0 = true ∧ s.links.getLsbD 0 = false) ∧
    (∃ k ∈ on.upSubs, k ≠ on.clock.input ∧ (on.ports[Fin.ofNat 2 (k.val / 4)]).ptpen = true) := by decide +kernel

def peered : State := { on with peers := [⟨1, 0, 0, true, false, 0, 0⟩] }
def frameOut : OutFrame := ⟨40, 1, 0, 0, 7, .write 0x1020000 7 0xFF false none, 1, 100, none, false, .np, 4, true, 0, 49210, 0⟩
def dup0 : Dup := ⟨258, 7, [(⟨0, 1⟩, 0, 0)], false, [], [], [], none, []⟩
def dups (d : Dup) : State := { on with dups := [d], wall := 19000000 }
theorem meets_fabric_events :
    (peered.peerUp 1 = true ∧ (({ peered with seen := [(1, 3, [])] } : State).seen.find? fun e => e.1 == 1 && decide (e.2.1 = 3)) = some (1, 3, [])) ∧
    (peered.seen = [] ∧ peered.inbound = [] ∧ peered.frameBeyond 0x10200FE = false ∧ peered.handed = []) ∧
    (let f : Frame := ⟨3, 1, .write 0x10200FE [1, 2, 3] false none⟩
     let i : Inbound := ⟨f, [8, 9], false, 0, [], false⟩
     let s : State := { peered with inbound := [i] }
     (s.inbound.find? fun x => decide (x.frame.dev = f.dev) && decide (x.frame.fid = f.fid)) = some i ∧
      (∀ u ∈ i.uids, s.writeDone u = true) ∧ (∀ g ∈ s.outFrames, g.fid ∉ i.uids) ∧ ∀ d ∈ s.deltas, d.uid ∉ i.uids) ∧
    (let s : State := { peered with
      inbound := [⟨⟨3, 1, .count 0x1020000 1⟩, [40], false, 0, [], false⟩], outFrames := [{ frameOut with own := false }] }
     ∃ i ∈ s.inbound, frameOut.fid ∈ i.uids) ∧
    (let s : State := { peered with outFrames := [frameOut], wall := 100 }
     (s.outFrames.find? fun g => decide (g.fid = 40) && g.reply.isNone) = some frameOut ∧
     (s.outFrames.find? fun g => decide (g.fid = 40) && g.reply.isNone && !g.held) = some frameOut ∧ frameOut.wait ≤ s.wall ∧ frameOut.sends < 7) ∧
    (∀ f ∈ peered.outFrames, f.dev ≠ 1) ∧
    ((dups dup0).dupOf 258 = some dup0 ∧ dup0.collapse = false) ∧
    (let d : Dup := { dup0 with collapse := true, acks := [(⟨0, 1⟩, 2, 0)] }
     (dups d).dupOf 258 = some d ∧ (d.acks.any fun a => decide (a.1 = ⟨0, 1⟩)) = true ∧ 0 + 19000000 ≤ (dups d).wall) ∧
    (let d : Dup := { dup0 with home := some (1, 300, 0) }
     (dups d).dupOf 258 = some d ∧ (d.holders.find? fun a => decide (a.1 = ⟨0, 1⟩)) = some (⟨0, 1⟩, 0, 0)) ∧
    (on.dupOf 258 = none ∧ (∀ m ∈ on.migs, m.frame ≠ 258) ∧ 258 < on.frames) ∧
    (let m : Migration := ⟨258, 1, 0, 400, true, 0, false, [], 0⟩
     let s : State := { on with migs := [m] }
     (s.migs.find? fun x => decide (x.frame = m.frame)) = some m ∧ s.migOf 258 = some m ∧ s.migFails m = false ∧ m.dev = s.selfdev ∧
      s.carried m = true) := by
  decide +kernel
theorem meets_demotion :
    let l : LeafAt := ⟨7, 9, 0, 257 * 65536⟩
    ((world.leavesOfTensor 7 9).find? fun x => decide (x.tile = 0)) = some l ∧ fieldOf (world.devRead l.addr 8).1 38 1 = 1 ∧
    (∀ d ∈ world.demoted, ¬ (d.asid = 7 ∧ d.tid = 9 ∧ d.tile = 0)) ∧
    (let s : State := { world with demoted := [⟨7, 9, 0, 1, 5⟩] }
     (s.demoted.find? fun x => x.asid == 7 && x.tid == 9 && decide (x.tile = 0)) = some ⟨7, 9, 0, 1, 5⟩ ∧
      s.whyEnded ⟨7, 9, 0, 1, 5⟩ (s.devRead l.addr 8).1 = true) := by decide +kernel

/-- Seven banks of the stack of chunk 5 have been struck. -/
def sevenStruck : State := { on with badReads := (List.range 7).map fun k => (0, (on.layout.place 5).1 * 4096 + 4000 + k) }
theorem meets_memory_events :
    (on.layout.mode = 0 ∧ on.layout.dropped = [] ∧ on.layout.dropping = none ∧ on.layout.waiting = [] ∧ on.layout.moving = false ∧
      on.bankMode = 0 ∧ on.log.length < 65280) ∧
    (on.layout = Layout.reset ∧ on.deltas = []) ∧
    (let s : State := { on with layout := { Layout.reset with mode := 1 } }
     s.layout.mode = 1 ∧ s.layout.moving = false ∧ ∀ f ∈ s.allocated, f < 10321920) ∧
    (let s : State := { on with layout := { Layout.reset with moving := true, change := 1 } }
     s.layout.moving = true ∧ s.layout.wmark / 65536 + 1 < 10321920 ∧ s.layout.wmark / 65536 + 1 < s.frames) ∧
    on.banksStruck 5 < 8 ∧ (8 ≤ sevenStruck.banksStruck 5 ∧ sevenStruck.layout.mode = 0) ∧
    (∀ k < 8, on.rebuildFails 5 [] k = none) ∧ assocGet 0 on.rowErrs (3 * 2 ^ 40 + 7) < 15 ∧
    (let s : State := { ready with stage := 7, upsets := [(.spRow 0 24575, true)] }
     s.canonical = true ∧ s.up = true ∧ s.upsets = [(.spRow 0 24575, true)] ∧ s.log.length < 65280) := by decide +kernel
/-- The hypotheses on a module, judged at once. -/
def translates (s : State) (asid : BitVec 10) (tid : BitVec 12) (off : Nat) : Bool := match s.flatNat asid tid off 64 with
  | some h => !fHeadBad h && (match s.fWords asid tid off (fieldOf h 96 32) with
    | some ws => (fList ws 0 [] []).isNone && ws ≠ []
    | none => false)
  | none => false
theorem meets_farica : translates faricaWorld 7 9 0 = true := by decide +kernel

theorem meets_step :
    (let s : State := { at_ { cellOn with text := [(0, endRecord)] } with turn := .record 0 .cc }
     s.expansionDue 0 .cc = none ∧ ((s.cell 0).engine .cc).pc = some 0 ∧ (s.cell 0).textAt 0 = some endRecord ∧
      okay (decode (s.gangOf 0).encgen endRecord.toNat) = true) ∧
    (let s : State := { at_ later.cur with turn := .record 0 .ve }
     (s.expansionDue 0 .ve).isSome = true) := by decide +kernel
theorem meets_placement : Layout.reset.mode = 0 ∧ Layout.reset.change ≠ 2 := by decide
theorem meets_canonical : ({ State.reset with turn := .clock } : State).canonical = true ∧
    ∃ t, step { State.reset with turn := .clock } = .next t := ⟨by decide +kernel, _, rfl⟩
theorem meets_round_trip : Instr.wf (.fadd (rec5 0 (.sq 0) (vr 1) (.imm 0x3F800000))) = true ∧
    (encode (.fadd (rec5 0 (.sq 0) (vr 1) (.imm 0x3F800000)))).isSome = true ∧ Instr.wf (.add ⟨true, 1, 1, 0, .always, 0, 1⟩) = true ∧
    encodeSlot (.add ⟨true, 1, 1, 0, .always, 0, 1⟩) = some 0x0000000100004301 := by decide +kernel

/-! ## Ill-formed terms, one for each check, and words refused by name -/

def opn (a b c : Opnd) : Rec := rec5 0 a b c
def ill (l : List Instr) : Bool := l.all fun i => !i.wf
def v0 : Opnd := vr 0
def kmd (km : Fin 8) (x : Bool) : Opnd := .v 1 km x 2 .zero
def step1 : Strides := ⟨1, 0, 0, 0⟩
def im (w : BitVec 32) : Opnd := .imm w

/-- Forms of other generations, and modified forms without MOD 1. -/
theorem test_ill_forms : ill [.vclrf (opn .absent .absent .absent), .ldbw (opn .absent (spr 0) .absent), .cpins (opn (spr 0) tens .absent),
    .kmovHi (opn (kr 1) (im 1) .absent), .vflgC (opn .absent (im 1) .absent), .cfilBf16 (opn (ck 1 1) (spr 0) .absent),
    .clblR (opn (ck 1 1) (ck 1 2) .absent), .mflgC (opn .absent (im 1) .absent), .cprrPull (opn (spr 0) (spr 1) (im 1)),
    .radvxX (opn (.ring 1) (im 1) .absent), .sevtH (opn (spr 0) .absent (im 1))] = true := by decide +kernel

/-- SEGE, FORK, RDV and PHAS (R178, R204): a length that is not the stamp plus 1, nine successors, DSEL 5, DSEL and DFLT without
successors, DFLT beyond them, a successor word beyond NSUCC; no engine, an offset without its engine; no engine; and bands. -/
theorem test_ill_control : ill [.sege ⟨5, 7, 0, 1, 0, 0, 0, 0⟩, .sege ⟨5, 6, 0, 1, 9, 0, 0, 0⟩, .sege ⟨5, 6, 0, 1, 1, 5, 0, 3⟩,
    .sege ⟨5, 6, 0, 1, 0, 1, 0, 0⟩, .sege ⟨5, 6, 0, 1, 0, 0, 1, 0⟩, .sege ⟨5, 6, 0, 1, 2, 0, 2, 3⟩, .sege ⟨5, 6, 0, 1, 1, 0, 0, 2 ^ 32⟩,
    .fork ⟨0, 0, 0, 0, 0⟩, .fork ⟨0, 1, 0, 0, 2⟩, .fork ⟨0, 0, 1, 0, 1⟩, .fork ⟨0, 0, 0, 1, 1⟩, .rdv ⟨0, 0⟩,
    .phas ⟨0, 450, 1900⟩, .phas ⟨0, 480, 1900⟩, .phas ⟨0, 1000, 975⟩, .phas ⟨0, 475, 1925⟩, .phas ⟨0, 475, 490⟩] = true := by decide +kernel

/-- Three row operations, two synchronisations, two SETDIVs of one engine, and an illegal slot, in a bundle (R177, R203). -/
theorem test_ill_bundles : ill [.bndl ⟨0, .always, 0x12F, 0x12F, 0x12F, 0, 0, 0, 0⟩, .bndl ⟨0, .always, 0x135, 0x157, 0, 0, 0, 0, 0⟩,
    .bndl ⟨0, .always, 0x900000158, 0x100000158, 0, 0, 0, 0, 0⟩, .bndl ⟨0, .always, 0xFF, 0, 0, 0, 0, 0, 0⟩] = true := by decide +kernel

/-- MOD beyond the entry, PROM without a tensor, kinds of each operand, the third source, KM and XEN out of place (R196, R200, R241). -/
theorem test_ill_operands : ill [.fadd (rec5 1 v0 v0 v0), .cpadd (rec5 16 (spr 1) (spr 2) .absent),
    .fadd (opn (im 0) v0 v0), .fadd (opn v0 (kr 1) v0), .fadd (opn v0 v0 .absent), .fabs (opn v0 v0 v0), .ffma (opn v0 v0 v0),
    .fadd (opn (kmd 0 true) v0 v0), .fadd (opn v0 (kmd 1 false) v0), .fadd (opn v0 v0 (kmd 0 true))] = true := by decide +kernel

/-- Values of immediates, rings, labels, strides and nests that entries exclude. -/
theorem test_ill_vector : ill [.isxt (rec5 5 v0 v0 .absent), .cvtfh (rec5 2 (.sq 0) v0 .absent), .cvtf8 (rec5 8 (.sq 0) v0 .absent),
    .cvti8 (rec5 8 (.sq 0) v0 .absent), .rotm (rec5 1 (kmd 0 true) v0 v0), .bcln (opn v0 v0 (im 64)), .kmov (opn v0 v0 .absent),
    .tcfg (opn (.zrow 0 1 .zero) (im 1) .absent), .tcfg (opn (.zrow 0 0 .zero) (im 512) .absent), .tzero (opn (.zrow 0 1 .zero) .absent .absent),
    .trel (opn (.zrow 0 1 .zero) .absent .absent), .trds (opn v0 (.zrow 0 1 .zero) .absent), .vmode (opn .absent (im 16) .absent),
    .vflgC (rec5 1 .absent (im 64) .absent)] = true := by decide +kernel

theorem test_ill_matrix : ill [.bind (opn (.mq 0 true) (ck 1 0) (spr 0)), .bind (opn (spr 1) (ck 1 1) (spr 0)), .bindm (opn (ck 1 1) (ck 1 1) (spr 0)),
    .crd (rec5 9 (spr 0) (ck 1 1) .absent), .crdt (rec5 6 (spr 0) (ck 1 1) .absent), .crell (opn .absent (im 4096) .absent),
    .cstat (opn (.mq 0 true) .absent .absent), .clbl (opn (ck 1 1) (im 2) .absent), .cmaxr (opn (.mq 1 true) (ck 1 1) .absent),
    .mflg (opn (.mq 1 true) .absent .absent), .mflgC (rec5 1 (spr 0) (im 64) .absent), .cmode (opn .absent (im 16) .absent)] = true := by
  decide +kernel

theorem test_ill_stream : ill [.cpin (opn (spr 0) tens (.ring 0x20000)), .cpout (opn tens (spr 0) (.ring 0x80080000)), .cprr (opn (spr 0) (spr 1) (im 128)),
    .cprrPull (rec5 1 (spr 0) (spr 1) (im 128)), .cpadd (opn tens tens .absent), .cpadd (opn tens (spr 0) (.ring 0x20000)),
    .cpbc (opn (spr 0) (spr 1) (im 0x2000)), .cpbc (opn (spr 0) (spr 1) (im 0x187)), .cpt (opn (spr 0) (spr 1) .absent),
    .cpcv (opn (spr 0) (spr 1) (im 1)), .cpcv (opn (spr 0) tens (im 0x101)), .cpcv (opn (spr 0) tens (im 0)), .cpq (opn tens (spr 0) (im 0x100)),
    .cpq (opn tens (spr 0) (im 1)), .cpmask (opn tens tens (spr 0)), .fill (opn (spr 0) (im 1) (.ring 0x20000)),
    .gath (opn (spr 0) (.sp none 1 step1) (spr 0)), .scat (opn (.sp none 1 step1) (spr 0) (spr 0)), .scata (opn (spr 0) (spr 0) (.sp none 1 step1)),
    .grpf ⟨5, .always, 0, 1, spr 0, .hr none 0 .zero, spr 1⟩, .grpo ⟨5, .always, 0, 1, spr 0, spr 1, spr 2⟩, .topk (opn (spr 0) (spr 1) (im 0)),
    .topk (opn (spr 0) (spr 1) (im 257)), .crds (opn (spr 0) (ck 1 1) (.ring 0x20000)), .crds (rec5 2 (spr 0) (ck 1 1) .absent),
    .crds ⟨5, .always, 0, 512, spr 0, ck 1 1, .absent⟩] = true := by decide +kernel

theorem test_ill_stream_more : ill [.sortk ⟨5, .always, 0, 1, spr 0, spr 1, im 1⟩, .sortk (opn (spr 0) (spr 1) (im 0)), .sortk (opn (spr 0) (spr 1) (im 8193)),
    .cntr (opn .absent (.sp none 1 step1) (im 1)), .cntr (opn .absent (spr 1) (im 0)), .cntr (opn .absent (spr 1) (im 0x1000000)),
    .csnap (opn (spr 0) .absent (im 0x10000)), .csnap (opn (spr 0) .absent (im 0xFF01)), .nsend (opn (im 0x400000) (spr 0) .absent),
    .nsend (opn (im 1) (spr 0) (.ring 0x20000)), .nsend ⟨5, .always, 0, 127, im 1, spr 0, .absent⟩, .nrecv (opn (.ring 0x80000001) .absent (im 1)),
    .nrecv (opn (.ring 1) (.ring 1) (im 1)), .nrecv (opn (.ring 1) .absent (im 1024)), .nput (opn tens (spr 0) (im 1024)),
    .natom ⟨5, .always, 0, 1, spr 0, tens, spr 1⟩, .nflush (opn .absent .absent (.ring 0x20000)), .awrm (opn (.ring 1) (im 1) .absent),
    .aset (opn (.ring 1) (im 1) .absent), .aset (opn (.ring 0x80000001) (im 0x10000) .absent), .sfence (opn .absent (im 16) .absent),
    .sfence (opn .absent (im 5) .absent), .sfence (opn .absent (im 10) .absent), .tdld (opn .absent (im 4096) .absent),
    .tdinv (opn .absent (im 4096) .absent), .pgdup (opn .absent tens (im 0x4000)), .pgdup (opn .absent tens (im 2)),
    .pgmig (opn .absent tens (im 3)), .sevtH (rec5 1 (spr 0) .absent (im 0x10000)), .radvx (opn (.ring 0x80000001) (im 1) .absent),
    .radvx (opn (.ring 1) (im 0x80) .absent), .radvxX (rec5 1 (.ring 1) (im 0x80) .absent), .swait (opn (.ring 0x20000) (im 1) .absent),
    .swait (rec5 1 (.ring 0x80000001) (im 1) .absent)] = true := by decide +kernel

/-- IMM, DST, SA, SB and SZ that an entry does not take, IMM32 where none is named, and each further check of IMM32 (R202, R215, R233). -/
theorem test_ill_slots : ill [
    .add ⟨false, 1, 1, 1, .always, 0, 1⟩, .add ⟨true, 1, 1, 1, .always, 0, 1⟩, .clz ⟨false, 1, 1, 1, .always, 0, 0⟩,
    .clz ⟨true, 1, 1, 0, .always, 0, 0⟩, .movi ⟨false, 1, 0, 0, .always, 0, 0⟩, .movi ⟨true, 1, 1, 0, .always, 0, 0⟩,
    .cmpeq ⟨false, 16, 1, 1, .always, 0, 0⟩, .pand ⟨false, 1, 16, 1, .always, 0, 0⟩, .pand ⟨false, 1, 1, 1, .always, 1, 0⟩,
    .bfex ⟨true, 1, 1, 0, .always, 0, 0x2000⟩, .bfin ⟨true, 1, 1, 0, .always, 0, 0x1000⟩, .mov ⟨false, 1, 16, 0, .always, 0, 1⟩,
    .mov ⟨false, 1, 4, 0, .always, 0, 2⟩, .mov ⟨false, 1, 0, 0, .always, 0, 3⟩, .mov ⟨false, 1, 0, 0, .always, 0, 4⟩,
    .sel ⟨false, 1, 1, 1, .always, 0, 16⟩, .pmov ⟨true, 1, 1, 0, .always, 0, 0⟩, .pmov ⟨true, 1, 0, 0, .always, 0, 2⟩,
    .ldrow ⟨true, 4, 1, 0, .always, 0, 0⟩, .ldrow ⟨true, 1, 1, 0, .always, 0, 0x8000⟩, .extl ⟨true, 1, 4, 0, .always, 0, 0⟩,
    .extl ⟨true, 1, 1, 0, .always, 0, 32⟩, .qst ⟨true, 2, 1, 0, .always, 0, 0⟩, .decide ⟨true, 0, 0, 0, .always, 0, 0x1C⟩,
    .decide ⟨true, 0, 0, 0, .always, 0, 0x20⟩, .decide ⟨true, 0, 1, 0, .always, 0, 0x1000⟩,
    .decide ⟨true, 0, 0, 0, .always, 0, 0x8000⟩, .check ⟨true, 0, 4, 0, .always, 0, 1⟩, .check ⟨true, 0, 0, 0, .always, 0, 4⟩,
    .trap ⟨true, 0, 0, 0, .always, 0, 0x10000⟩, .sacq ⟨true, 0, 0, 0, .always, 0, 0x1000000⟩,
    .sacq ⟨true, 0, 0, 0, .always, 0, 0x4000000⟩, .srel ⟨true, 0, 0, 0, .always, 0, 0x800000⟩,
    .srel ⟨true, 0, 0, 0, .always, 0, 0x4000000⟩, .phreg ⟨true, 0, 1, 0, .always, 0, 0⟩,
    .phwait ⟨true, 0, 1, 0, .always, 0, 0x100⟩] = true := by decide +kernel
theorem test_ill_slots_more : ill [
    .atadd ⟨false, 1, 1, 1, .always, 0, 0⟩, .atadd ⟨false, 0, 1, 1, .always, 2, 0⟩, .atadd ⟨false, 0, 1, 1, .always, 0, 0x2001⟩,
    .atadd ⟨false, 0, 1, 1, .always, 0, 0x1000⟩, .atadd ⟨false, 0, 1, 1, .always, 1, 0x2000⟩,
    .atadd ⟨false, 0, 1, 1, .always, 0, 0x4000⟩, .atsnap ⟨false, 0, 1, 1, .always, 0, 0⟩, .ypop ⟨false, 1, 0, 0, .always, 0, 16⟩,
    .yclm ⟨false, 1, 1, 1, .always, 0, 0⟩, .yclm ⟨false, 1, 1, 1, .always, 0, 65⟩, .yclm ⟨false, 1, 1, 1, .always, 0, 129⟩,
    .fence ⟨true, 0, 0, 0, .always, 0, 0x20⟩, .fence ⟨true, 0, 0, 0, .always, 0, 1⟩, .fence ⟨true, 0, 0, 0, .always, 0, 0x24⟩,
    .fence ⟨true, 0, 0, 0, .always, 0, 0x1421⟩, .fence ⟨true, 0, 0, 0, .always, 0, 0x2421⟩,
    .fence ⟨true, 0, 0, 0, .always, 0, 0x4021⟩, .setdiv ⟨true, 0, 0, 0, .always, 0, 16⟩, .sysr ⟨true, 1, 0, 0, .always, 0, 16⟩,
    .sysr ⟨true, 1, 0, 0, .always, 0, 0x100⟩, .sysw ⟨true, 0, 1, 0, .always, 0, 16⟩, .tdrd ⟨true, 0, 1, 0, .always, 0, 0x8000⟩,
    .tdwr ⟨true, 1, 1, 0, .always, 0, 0x8000⟩, .nop ⟨false, 0, 0, 0, .p true 0, 0, 0⟩] = true := by decide +kernel

/-- R356: WORD, BIT and OPC of words that the decoder refuses, each with its name. -/
theorem test_refused_words :
    decode 4 (0x10 * 4 + 1 + 2 ^ 46) = .error ⟨.header, none, 0, 46, 0x10⟩ ∧
    decode 4 (0x1FF * 4 + 1) = .error ⟨.opcode, none, 0, 2, 0x1FF⟩ ∧
    decode 4 (2 ^ 40) = .error ⟨.predicate, none, 0, 40, 0⟩ ∧
    decode 4 (2 ^ 11) = .error ⟨.modifier, none, 0, 11, 0⟩ ∧
    decode 4 (7 * 4 + 2 ^ 64) = .error ⟨.nest, none, 1, 0, 7⟩ ∧
    decode 4 (7 * 4 + 2 ^ 128) = .error ⟨.control, none, 2, 0, 7⟩ ∧
    decode 4 (1 + 2 ^ 128 * 15) = .error ⟨.operand, none, 2, 0, 0⟩ ∧
    decode 4 (1 + 4 * 1 + 2 ^ 128 * 4) = .error ⟨.kind, none, 2, 0, 1⟩ ∧
    decode 4 (0xFF * 2 ^ 64) = .error ⟨.opcode, some 0, 1, 0, 0xFF⟩ ∧
    decode 4 (0x201 * 2 ^ 128) = .ok (.bndl ⟨0, .always, 0, 0x201, 0, 0, 0, 0, 0⟩) ∧
    decode 4 ((0x12F + 0x12F * 2 ^ 64 + 0x12F * 2 ^ 128) * 2 ^ 64) = .error ⟨.bundleLimit, none, 0, 2, 0⟩ ∧
    decode 4 ((0x900000158 + 0x100000158 * 2 ^ 64) * 2 ^ 64) = .error ⟨.setdivTwice, some 0, 1, 32, 0x58⟩ := by decide +kernel

/-! ## One step -/

def nextOf (r : Res) : State := match r with
  | .next t => t
  | _ => State.reset
/-- The results in flight on cell 0 after a step from reset that runs the words. -/
def landsOf (ws : List Nat) : List (Nat × Land) := (((nextOf (step (State.reset.withFetchWord 512 (recordNat ws)))).cell 0).flight).map fun l => (l.due, l.dst)
/-- A bundle at segment tick 5 whose slot 0 is the word. -/
def slotAt5 (w : Nat) : List (Nat × Land) := landsOf [0x50000, w]

/-- R214, R220, R229: ADD G1 ← G1 + 1; SUB G2 ← G0 − 1 wraps; MOVI sign-extends; CMPLTN P1 ← 0 < 16; P0 and G0 take nothing but land. -/
theorem test_add : slotAt5 0x0000000100004301 = [(6, .g 1 1 false)] := by decide +kernel
theorem test_sub_wraps : slotAt5 (0x02 + 0x100 + 2 * 2 ^ 9 + 2 ^ 32) = [(6, .g 2 0xFFFFFFFFFFFFFFFF false)] := by decide +kernel
theorem test_movi_sign : slotAt5 (0x1F + 0x100 + 3 * 2 ^ 9 + 0x80000000 * 2 ^ 32) = [(6, .g 3 0xFFFFFFFF80000000 false)] := by decide +kernel
theorem test_cmpltn : slotAt5 0x0000001000000327 = [(6, .p 1 true)] := by decide +kernel
/-- R29, R221: −7 / 2 is −3, 18 ticks later; G0 / 0 is all ones. -/
theorem test_divs : (nextOf (execDivs ⟨true, 2, 1, 0, .always, 0, 2⟩ (at_ { cellOn with cc := { Cc.reset with g := Cc.reset.g.set 1 0xFFFFFFFFFFFFFFF9 } }))).cur.flight.map
    (fun l => (l.due, l.dst)) = [(23, .g 2 0xFFFFFFFFFFFFFFFD false)] ∧
    slotAt5 (0x07 + 0x100 + 2 * 2 ^ 9) = [(23, .g 2 0xFFFFFFFFFFFFFFFF false)] := by decide +kernel
/-- 1.0 + 1.0 in lane 0 and 0 + 1.0 in lane 1, into SQ (R243). -/
theorem test_fadd : (((nextOf (execFadd toQueue { vec with curEng := .ve })).cell 0).q.sq[(0 : Fin 2)]).map (fun e => (lane e.row 0, lane e.row 1)) =
    [(0x40000000, 0x3F800000)] := by decide +kernel

/-- R353, R365, R379: W0 of the error records that the manual works out. -/
theorem test_error_words :
    ({ cls := 0x22, sev := 1, unit := 2, cell := some (5, 2), asid := some 17, akind := true, disp := 2 } : ErrRec).body 0 0 0 % 2 ^ 64 = 0x0002002C11850922 ∧
    ({ cls := 0x26, sev := 2, unit := 9, cell := some (9, 3), asid := some 40, disp := 4 } : ErrRec).body 0 0 0 % 2 ^ 64 = 0x0003004428892626 ∧
    ({ cls := 0x08, sev := 2, unit := 1, cell := some (0, 0), asid := some 3, disp := 4 } : ErrRec).body 0 0 0 % 2 ^ 64 = 0x0000004403800608 ∧
    ({ cls := 0x08, sev := 2, unit := 1, disp := 4, at_ := some (24, 0, 1) } : ErrRec).body 0 0 0 / 2 ^ 256 % 2 ^ 64 = 0x0000002800000018 := by decide +kernel

/-- R353, R363: W1, W3 and W4 of the record of a replayed window, whose pass at offset 42 met the error at tick 8,000. -/
theorem test_window_record :
    let w : Window := ⟨⟨35, 3⟩, 1, [], none, 1, some ⟨8000, 0, some 42⟩⟩
    let b := (windowRec on 0 w 0x22 1 2).body 0 0 0
    b / 2 ^ 64 % 2 ^ 64 = 0x1F40 ∧ b / 2 ^ 192 % 2 ^ 64 = 0x23003 ∧ b / 2 ^ 256 % 2 ^ 64 = 0x000000300000002A := by decide +kernel
/-- R370: an uncorrectable error sets the poison bit of its row, a correctable one nothing; a record of the text leaves its cache. -/
theorem test_upset_rows : let s : State := { ready with stage := 7, upsets := [(.spRow 0 7, true), (.spRow 0 8, false)] }
    let t := nextOf (takeUpset s)
    let u := nextOf (takeUpset t)
    (t.cell 0).spTag = [7] ∧ t.log.length = 1 ∧ (u.cell 0).spTag = [7] ∧ u.log.length = 2 ∧ u.upsets = [] := by decide +kernel
/-- R362: an error of the array asks for the replay of the open window, and a second one kills the context (R363). -/
theorem test_upset_window : let s : State := { at_ { cellOn with me := { Me.reset with win := some ⟨⟨3, 5⟩, 2, [], none, 0, none⟩ } } with
      stage := 7, upsets := [(.array 0, true), (.array 0, true)] }
    let t := nextOf (takeUpset s)
    let u := nextOf (takeUpset t)
    ((t.cell 0).me.win.map (·.failed)) = some 1 ∧ (t.gang 0).reqs.map (·.cond) = [.replay 0] ∧ u.log.length = 3 ∧
      (u.gang 0).killSeq = some 2 := by decide +kernel
/-- R351: a halted device takes no request but TELEM, STATUS and RESET. -/
theorem test_halted : let s : State := { ready with stage := 7, halted := true, inputs := [(0, .mctpUnknownCommand 9), (0, .status)] }
    (nextOf (takeInput s)).outbox = [] ∧ (nextOf (takeInput (nextOf (takeInput s)))).outbox.length = 1 := by decide +kernel

/-- R84: the chunk 2,386,091 belongs to stripe 216,917, on stack 10, its parity on stack 5. -/
theorem test_placement : Layout.reset.place 2386091 = (10, 5, 216917) := by decide

/-- An illegal record takes fault class 4 at its tick, and the gang's stop is asked for Dstall ticks later (R43, R345). -/
theorem test_illegal_record : let t := nextOf (step (State.reset.withFetchWord 512 (recordNat [0x7FD + 5 * 2 ^ 16])))
    ((t.gang 0).faults.map fun f => (f.cls, f.tick)) = [(4, 5)] ∧ (t.gang 0).reqs.map (·.due) = [11] := by decide +kernel

/-- Bytes are stored with the low byte at the lowest address (R2). -/
theorem test_byte_order : (on.devWrite 2 0x1FE 4 0x44332211 : State).mem = [(0x1FE, 0x11), (0x1FF, 0x22), (0x200, 0x33), (0x201, 0x44)] := by decide +kernel
/-- R377: the read of an eighth bank within a second loses the stack. -/
theorem test_eighth_bank : let t := nextOf (exec (.chunkReconstruction 5 []) sevenStruck)
    t.layout.mode = 1 ∧ t.layout.lost.val = (on.layout.place 5).1 ∧ t.log.length = 2 := by decide +kernel

end Sys2Proof.Tests
end

section
/-! SUPPORT. What falls due at a tick (Landings.lean), one lemma for each event and the functions it is made of; they settle O39. -/

namespace Sys2Proof.Machine

/-- An event of a gang that is not stopped, at its due tick or after it, waits for nothing. -/
theorem notWaiting {frozen : Bool} {now due : Nat} (hz : frozen = false) (hdue : due ≤ now) :
    (frozen || decide (now < due)) = false := by
  simp [hz, hdue]

/-! ## Results (R5, R6) -/

theorem Landing.before_iff (a b : Landing) : a.before b = true ↔ a.due < b.due ∨ a.due = b.due ∧ a.seq < b.seq := by
  simp [Landing.before]

theorem Landing.before_asymm {a b : Landing} (h : a.before b = true) : b.before a = false := by
  rw [Landing.before_iff] at h
  rw [Bool.eq_false_iff, ne_eq, Landing.before_iff]
  omega

theorem firstDue_spec {now : Nat} {m : Landing} : ∀ {ls : List Landing}, firstDue now ls = some m → m ∈ ls ∧ m.due ≤ now
  | l :: ls, h => by
    have tail (hr : firstDue now ls = some m) : m ∈ l :: ls ∧ m.due ≤ now := (firstDue_spec hr).imp_left (List.mem_cons_of_mem l)
    simp only [firstDue] at h
    split at h
    next => exact tail h
    next hl =>
      have head (hm : l = m) : m ∈ l :: ls ∧ m.due ≤ now := hm ▸ ⟨List.mem_cons_self, Nat.le_of_not_lt hl⟩
      split at h
      next k hr =>
        split at h
        next => exact tail (hr.trans h)
        next => exact head (Option.some.inj h)
      next => exact head (Option.some.inj h)

/-- A due result that comes before every other due one is the first. -/
theorem firstDue_eq_some {now : Nat} {l : Landing} (hl : l.due ≤ now) : ∀ {ls : List Landing}, l ∈ ls →
    (∀ m ∈ ls, m.due ≤ now → m ≠ l → l.before m = true) → firstDue now ls = some l
  | a :: ls, hmem, hmin => by
    simp only [firstDue]
    by_cases ha : a = l
    · subst ha
      rw [if_neg (Nat.not_lt.mpr hl)]
      cases hr : firstDue now ls with
      | none => rfl
      | some m =>
        obtain ⟨hm, hdue⟩ := firstDue_spec hr
        by_cases hma : m = a
        · simp [hma]
        · simp [Landing.before_asymm (hmin m (List.mem_cons_of_mem a hm) hdue hma)]
    · have hls : l ∈ ls := (List.mem_cons.mp hmem).resolve_left (Ne.symm ha)
      rw [firstDue_eq_some hl hls fun m hm => hmin m (List.mem_cons_of_mem a hm)]
      by_cases hdue : now < a.due
      · simp [hdue]
      · simp [hdue, hmin a List.mem_cons_self (Nat.le_of_not_lt hdue) ha]

theorem State.landingDue_eq_some {s : State} {c : CellId} {l : Landing} (hz : (s.gangOf c).frozen = false)
    (hl : l ∈ (s.cell c).flight) (hdue : l.due ≤ (s.gangOf c).tick)
    (hmin : ∀ m ∈ (s.cell c).flight, m.due ≤ (s.gangOf c).tick → m ≠ l → l.due < m.due ∨ l.due = m.due ∧ l.seq < m.seq) :
    s.landingDue c = some l := by
  rw [State.landingDue, hz]
  exact firstDue_eq_some hdue hl fun m hm hd hne => (Landing.before_iff l m).mpr (hmin m hm hd hne)

@[simp] theorem Cell.raise_zero (x : Cell) : x.raise 0#6 0#6 0#2 = x := by
  simp [Cell.raise]

/-- A result that `landed` speaks of changes its cell and nothing else; whether it writes register 0 is the one case split. -/
theorem State.landIn_of_landed {s : State} {c : CellId} {l : Landing} {x : Cell} (h : landed (s.cell c) l.dst = some x) :
    s.landIn c l = s.setCell c x := by
  obtain ⟨due, seq, eng, off, dst, vfl, mfl, cfl⟩ := l
  cases dst with
  | g n | p n | k n =>
    obtain rfl := Option.some.inj h
    by_cases hn : n = 0 <;> simp [State.landIn, Cell.landMe, Land.slotRow, Cc.land, Ve.land, hn]
  | v | latch | flags =>
    obtain rfl := Option.some.inj h
    simp [State.landIn, Cell.landMe, Land.slotRow, Cc.land, Ve.land]
  | _ => cases h

theorem exec_resultLanding_landed {s : State} {c : CellId} {l : Landing} {x : Cell} (hd : s.landingDue c = some l)
    (hx : landed { s.cell c with flight := (s.cell c).flight.filter fun m => decide (m.seq ≠ l.seq) } l.dst = some x) :
    exec (.resultLanding c) s = .next (s.setCell c (x.raise l.vfl l.mfl l.cfl)) := by
  change execResultLanding c s = _
  rw [execResultLanding, hd]
  simp only [State.modCell_eq]
  rw [State.landIn_of_landed (by rw [State.cell_setCell_self]; exact hx), State.cell_setCell_self, State.setCell_setCell,
    State.setCell_setCell]

/-! ## Decisions (R37) -/

section FoldCells
variable {α : Type} (place : α → CellId) (f : α → Cell → Cell)

@[simp] theorem State.gang_foldl_modCell (l : List α) (s : State) (g : GangId) :
    (l.foldl (fun t a => t.modCell (place a) (f a)) s).gang g = s.gang g := by
  induction l generalizing s with
  | nil => rfl
  | cons a l ih => rw [List.foldl_cons, ih, State.modCell_eq, State.gang_setCell]

theorem State.cell_foldl_modCell_of_notMem (l : List α) (s : State) {c : CellId} (h : c ∉ l.map place) :
    (l.foldl (fun t a => t.modCell (place a) (f a)) s).cell c = s.cell c := by
  induction l generalizing s with
  | nil => rfl
  | cons a l ih =>
    obtain ⟨hne, hl⟩ := not_or.mp (mt List.mem_cons.mpr h)
    rw [List.foldl_cons, ih _ hl, State.modCell_eq, State.cell_setCell_ne _ _ (Ne.symm hne)]

/-- Of updates to distinct cells, each finds its cell as it was and leaves it for good. -/
theorem State.cell_foldl_modCell_of_mem (l : List α) (s : State) (hp : l.Pairwise fun a b => place a ≠ place b) {a : α} (ha : a ∈ l) :
    (l.foldl (fun t a => t.modCell (place a) (f a)) s).cell (place a) = f a (s.cell (place a)) := by
  induction l generalizing s with
  | nil => cases ha
  | cons b l ih =>
    obtain ⟨hb, hl⟩ := List.pairwise_cons.mp hp
    rw [List.foldl_cons]
    rcases List.mem_cons.mp ha with rfl | hal
    · have hnot : place a ∉ l.map place := by
        simpa using fun e he => Ne.symm (hb e he)
      rw [State.cell_foldl_modCell_of_notMem place f l _ hnot, State.modCell_eq, State.cell_setCell_self]
    · rw [ih _ hl hal, State.modCell_eq, State.cell_setCell_ne _ _ (hb a hal)]

end FoldCells

/-- A decision's value reaches its D register, at the tick of the delivery. -/
def Cell.takeDecision (x : Gang) (all : List Decision) (d : Decision) (y : Cell) : Cell :=
  { y with cc := { y.cc with d := y.cc.d.set d.dn (decisionValue x all d), dLand := y.cc.dLand.set d.dn x.tick } }

theorem exec_decisionDelivery_due {s : State} {g : GangId} {h : Decision} {rest : List Decision} (hz : (s.gang g).frozen = false)
    (hd : (s.gang g).decisions = h :: rest) (hdue : h.tick + ddecOf (s.gang g).glog ≤ (s.gang g).tick) :
    let mine := (h :: rest).filter fun d => decide (d.tick = h.tick)
    exec (.decisionDelivery g) s =
      .next ((mine.foldl (fun t d => t.modCell d.cell (Cell.takeDecision (s.gang g) mine d)) s).setGang g
        { s.gang g with decisions := rest.filter fun d => decide (d.tick ≠ h.tick) }) := by
  intro mine
  have hnow := notWaiting hz hdue
  have hgang := State.gang_foldl_modCell (·.cell) (Cell.takeDecision (s.gang g) mine) mine s g
  have hkeep : (h :: rest).filter (fun d => decide (d.tick ≠ h.tick)) = rest.filter fun d => decide (d.tick ≠ h.tick) := by simp
  change execDecisionDelivery g s = _
  rw [execDecisionDelivery, hd, List.head?_cons]
  simp only [hnow, Bool.false_eq_true, if_false]
  change Host.Outcome.next (State.modGang (mine.foldl (fun t d => t.modCell d.cell (Cell.takeDecision (s.gang g) mine d)) s) g _) = _
  rw [State.modGang_eq, hgang, hd, hkeep]

/-! ## Divergence (R40) -/

/-- Tokens that agree with member 0's raise nothing. -/
theorem exec_divergenceCheck_agree {s : State} {g : GangId} {h m0 : Token} {rest : List Token} (hz : (s.gang g).frozen = false)
    (ht : (s.gang g).tokens = h :: rest) (hdue : h.tick + ddecOf (s.gang g).glog ≤ (s.gang g).tick)
    (hmem : m0 ∈ h :: rest) (htick : m0.tick = h.tick) (hzero : (s.gang g).member m0.cell = 0)
    (hagree : ∀ k ∈ h :: rest, k.tick = h.tick → k.segid = m0.segid ∧ k.succ = m0.succ) :
    exec (.divergenceCheck g) s = .next (s.setGang g { s.gang g with
      tokens := (s.gang g).tokens.filter fun k => decide (k.tick ≠ h.tick) }) := by
  have hnow := notWaiting hz hdue
  have hmine {k : Token} (hk : k ∈ (h :: rest).filter fun k => decide (k.tick = h.tick)) : k.segid = m0.segid ∧ k.succ = m0.succ := by
    obtain ⟨hmem, hk⟩ := List.mem_filter.mp hk
    exact hagree k hmem (of_decide_eq_true hk)
  change execDivergenceCheck g s = _
  rw [execDivergenceCheck, ht, List.head?_cons]
  simp only [hnow, Bool.false_eq_true, if_false, State.modGang_eq, ht]
  split
  next hnone =>
    have := List.find?_eq_none.mp hnone m0 (List.mem_filter.mpr ⟨hmem, decide_eq_true htick⟩)
    exact absurd (decide_eq_true hzero) this
  next m hsome =>
    obtain ⟨hseg, hsucc⟩ := hmine (List.mem_of_find?_eq_some hsome)
    refine congrArg Host.Outcome.next ((List.foldl_ext _ (fun t _ => t) _ fun t k hk => ?_).trans (List.foldl_fixed _))
    obtain ⟨kseg, ksucc⟩ := hmine hk
    exact if_pos ⟨kseg.trans hseg.symm, ksucc.trans hsucc.symm⟩

/-! ## Divisors (R177) -/

theorem exec_divisorSwitch_due {s : State} {c : CellId} {w : DivSwitch} {rest : List DivSwitch} (hz : (s.gangOf c).frozen = false)
    (hw : (s.cell c).sq.switches = w :: rest) (hdue : w.due ≤ (s.gangOf c).tick) :
    let x : Cell := { s.cell c with sq := { (s.cell c).sq with switches := rest } }
    exec (.divisorSwitch c) s = .next (s.setCell c (x.setEngine w.eng { x.engine w.eng with div := w.d, base := w.due })) := by
  have hnow := notWaiting hz hdue
  change execDivisorSwitch c s = _
  rw [execDivisorSwitch, hw]
  simp only [hnow, Bool.false_eq_true, if_false]

/-! ## Text (R47, R239) -/

theorem State.oneCell_setCell (s : State) (c : CellId) (x : Cell) : s.OneCell (s.setCell c x) c where
  rest := rfl
  cells _ hd := State.cell_setCell_ne s x (Ne.symm hd)
  bytes := State.byte_setCell s c x

/-- A text cache with room takes the record as the one record at its offset. -/
theorem Cell.putText_text {x : Cell} (focus : List Nat) (off : Nat) (w : RecordBits) (h : x.text.length < textCap) :
    (x.putText focus off w).text =
      ((if x.inval.contains none then [] else x.text).filter fun e => decide (e.1 ≠ off)) ++ [(off, w)] := by
  have hroom : ((if x.inval.contains none then [] else x.text).filter fun e => decide (e.1 ≠ off)).length < textCap := by
    refine (List.length_filter_le _ _).trans_lt ?_
    split
    · exact Nat.zero_lt_of_lt h
    · exact h
  rw [Cell.putText, if_pos hroom]

theorem exec_textPreload_busy {s : State} {c : CellId} {off : Nat} {w : RecordBits} (hw : s.textWord (s.gidOf c) off = some w)
    (hb : (s.cell c).busy = true) :
    exec (.textPreload c off) s = .next (s.setCell c ((s.cell c).putText (s.textFocus c) off w)) := by
  change execTextPreload c off s = _
  rw [execTextPreload, hw]
  simp only [hb, if_true, State.modCell_eq]

theorem exec_textCacheInvalidate_due {s : State} {c : CellId} {d : Nat} (hd : some d ∈ (s.cell c).inval)
    (hdue : d ≤ (s.gangOf c).tick) :
    ∃ e, exec (.textCacheInvalidate c) s =
      .next (s.setCell c { s.cell c with text := [], inval := (s.cell c).inval.erase e }) := by
  obtain ⟨e, he⟩ := Option.isSome_iff_exists.mp
    (List.find?_isSome (p := fun e => e.any fun d => decide (d ≤ (s.gangOf c).tick)).mpr ⟨some d, hd, decide_eq_true hdue⟩)
  refine ⟨e, ?_⟩
  change execTextCacheInvalidate c s = _
  simp only [execTextCacheInvalidate, he, State.modCell_eq]

/-! ## Translations (R80) -/

theorem exec_translationWalk_miss {s : State} {asid : BitVec 10} {tid : BitVec 12} {tile : Nat} {d : Desc} {p : Page}
    (hc : (s.descs.any fun e => e.asid == asid && e.tid == tid) = true) (hd : s.desc asid tid = .ok d)
    (hp : s.page asid tid d false tile = .ok p) (hm : s.cached asid tid tile = false) :
    exec (.translationWalk asid tid tile) s = .next (s.cacheLeaf asid tid tile) := by
  change execTranslationWalk asid tid tile s = _
  simp [execTranslationWalk, hc, hd, hp, hm]

/-- Settles O39: each clause is its event's lemma; the landing goes through the first due result, the decisions through updates of
distinct cells. -/
theorem tickEventsComplete : Obligations.TickEventsComplete := by
  refine ⟨?landing, ?decision, ?divergence, ?divisor, ?text, ?invalidate, ?walk⟩
  case landing =>
    intro s c l x hz hl hdue hmin hx
    exact exec_resultLanding_landed (State.landingDue_eq_some hz hl hdue hmin) hx
  case decision =>
    intro s g h rest hz hd hdue mine hp put
    refine ⟨_, exec_decisionDelivery_due hz hd hdue, ?_, fun c hc => ?_, fun d hdm => ?_⟩
    · rw [State.gang_setGang_self]
    · rw [State.cell_setGang]
      exact State.cell_foldl_modCell_of_notMem (·.cell) _ mine s hc
    · rw [State.cell_setGang]
      exact State.cell_foldl_modCell_of_mem (·.cell) _ mine s hp hdm
  case divergence =>
    intro s g h m0 rest hz ht hdue hmem htick hzero hagree
    exact exec_divergenceCheck_agree hz ht hdue hmem htick hzero hagree
  case divisor =>
    intro s c w rest hz hw hdue
    exact exec_divisorSwitch_due hz hw hdue
  case text =>
    intro s c off w hw hb hroom
    refine ⟨_, exec_textPreload_busy hw hb, State.oneCell_setCell s c _, ?_, fun v hv => ?_⟩
    · rw [State.cell_setCell_self, Cell.putText_text _ _ _ hroom]
      simp
    · rw [State.cell_setCell_self, Cell.putText_text _ _ _ hroom] at hv
      simpa using hv
  case invalidate =>
    intro s c d hd hdue
    obtain ⟨e, he⟩ := exec_textCacheInvalidate_due hd hdue
    exact ⟨_, he, State.oneCell_setCell s c _, by rw [State.cell_setCell_self]⟩
  case walk =>
    intro s asid tid tile d p hc hd hp hm
    exact exec_translationWalk_miss hc hd hp hm

end Sys2Proof.Machine
end

section
/-! SUPPORT. The step of a record's turn (Step.lean): fetch, decode, execute; it settles O56. -/

namespace Sys2Proof.Machine

/-! ## The step (R22, R206, R215) -/

/-- A record in the text cache is what the cell fetches from its offset, whatever device memory holds there. -/
theorem State.recordAt_of_textAt {s : State} {c : CellId} {off : Nat} {w : RecordBits} (h : (s.cell c).textAt off = some w) :
    s.recordAt c off = some w := by
  simp only [State.recordAt, h]

theorem issueWord_of_decode {s : State} {c : CellId} {e : Eng} {w : RecordBits} {i : Instr}
    (h : decode (s.gangOf c).encgen w.toNat = .ok i) :
    issueWord c e w s = exec i { s with turn := .auto, curCell := c, curEng := e } := by
  simp only [issueWord, h]

theorem step_record_of_fetch {s : State} {c : CellId} {e : Eng} {w : RecordBits} (ht : s.turn = .record c e)
    (hf : s.fetch c e = some w) : step s = issueWord c e w s := by
  simp only [step, ht, hf]

/-- Settles O56: the fetch finds the cached record, and the step issues what it decodes to. -/
theorem stepRunsTheInstruction : Obligations.StepRunsTheInstruction := by
  refine ⟨?record, ?expansion, ?event⟩
  case record =>
    intro s c e off w i ht hexp hpc hw hi
    have hf : s.fetch c e = some w := by
      rw [State.fetch, hexp, hpc]
      exact State.recordAt_of_textAt hw
    rw [step_record_of_fetch ht hf, issueWord_of_decode hi]
  case expansion =>
    intro s c e off w i ht hexp hw hi
    have hf : s.fetch c e = some w := by
      rw [State.fetch, hexp]
      exact State.recordAt_of_textAt hw
    rw [step_record_of_fetch ht hf, issueWord_of_decode hi]
  case event =>
    intro s i ht
    simp only [step, ht]

end Sys2Proof.Machine
end

section
/-! SUPPORT. DECIDE and the atomics (Sync.lean): what a slot sends to its gang and to path YP, and the poison flag it raises; they
settle O8 and O14. -/

namespace Sys2Proof.Machine

/-! ## Results and gangs -/

@[simp] theorem State.gang_land (s : State) (c : Ctx) (due : Nat) (d : Land) (vf mf : FlagBits) (k : BitVec 2) (g : GangId) :
    (s.land c due d vf mf k).gang g = s.gang g := rfl

@[simp] theorem State.gidOf_land (s : State) (c : Ctx) (due : Nat) (d : Land) (vf mf : FlagBits) (k : BitVec 2) (e : CellId) :
    (s.land c due d vf mf k).gidOf e = s.gidOf e :=
  State.gidOf_setCell s s.curCell e _ rfl

theorem State.cur_land (s : State) (c : Ctx) (due : Nat) (d : Land) (vf mf : FlagBits) (k : BitVec 2) :
    (s.land c due d vf mf k).cur = { s.cur with flight := s.cur.flight ++ [⟨due, s.uid, s.curEng, c.off, d, vf, mf, k⟩] } :=
  State.cell_setCell_self s s.curCell _

/-- A write to a gang that keeps its tick keeps the tick of the executing cell. -/
theorem State.now_setGang (s : State) (g : GangId) (x : Gang) (h : x.tick = (s.gang g).tick) : (s.setGang g x).now = s.now := by
  change ((s.setGang g x).gang (s.gidOf s.curCell)).tick = (s.gang (s.gidOf s.curCell)).tick
  rw [State.gang_setGang]
  split
  next hg => rw [h, hg]
  next => rfl

theorem State.gang_setGang_ne (s : State) {g h : GangId} (x : Gang) (n : g ≠ h) : (s.setGang g x).gang h = s.gang h := by
  rw [State.gang_setGang, if_neg n]

theorem State.now_request (s : State) (g : GangId) (k : Cond) : (s.request g k).now = s.now :=
  State.now_setGang s g _ rfl

/-- The poison flag that a slot raises an engine cycle after it has read a poisoned register (R215). -/
def State.flagPoison (s : State) (off : Nat) (b : Bool) : State :=
  if b then s.landAfter ⟨off, 0, 0, 0⟩ 1 .flags 0 0 2 else s

theorem State.rest_flagPoison (s : State) (off : Nat) (b : Bool) : { s.flagPoison off b with cells := s.cells, uid := s.uid } = s := by
  cases b <;> rfl

theorem State.gang_flagPoison (s : State) (off : Nat) (b : Bool) (g : GangId) : (s.flagPoison off b).gang g = s.gang g := by
  cases b <;> rfl

theorem State.gidOf_flagPoison (s : State) (off : Nat) (b : Bool) (c : CellId) : (s.flagPoison off b).gidOf c = s.gidOf c := by
  cases b
  · rfl
  · exact State.gidOf_land s _ _ _ _ _ _ c

theorem State.gangOf_flagPoison (s : State) (off : Nat) (b : Bool) (c : CellId) : (s.flagPoison off b).gangOf c = s.gangOf c := by
  rw [State.gangOf, State.gidOf_flagPoison, State.gang_flagPoison, State.gangOf]

theorem State.cur_flagPoison (s : State) (off : Nat) (b : Bool) : (s.flagPoison off b).cur = { s.cur with
    flight := s.cur.flight ++ if b then [⟨s.now + s.div, s.uid, s.curEng, off, .flags, 0, 0, 2⟩] else [] } := by
  cases b
  · simp only [Bool.false_eq_true, if_false, List.append_nil]
    rfl
  · simp only [State.flagPoison, if_true, State.landAfter, Nat.one_mul]
    exact State.cur_land _ _ _ _ _ _ _

/-! ## DECIDE (R37, R38, R226) -/

/-- A slot whose fields and state checks pass answers its effect, or with its predicate false what it still does then. -/
theorem slotAlone_checked {m : SlotSem} {sl : Slot} {s t : State} (h : slotCheck m.op8 sl = none)
    (hr : m.rule sl (s.onEngine .cc) = none) (ht : m.run ⟨s.ccOff, 0, 0, 0⟩ sl (s.onEngine .cc) = .ok t) :
    slotAlone m sl s = .next t := by
  have ht' : m.run ⟨(s.onEngine .cc).engine.pc.getD 0, 0, 0, 0⟩ sl (s.onEngine .cc) = .ok t := ht
  simp only [slotAlone, h, hr, ht']

/-- What a DECIDE contributes to its reduction. -/
def decideValue (sl : Slot) (r : Cc) : BitVec 3 :=
  if evalPred r sl.spred then
    (if sl.sa = 0 then BitVec.ofNat 3 (sl.imm32.toNat / 4096) else if sl.sa != 0 && r.gtag sl.sa then 0 else (r.greg sl.sa).setWidth 3)
  else if sl.imm32.toNat / 4 % 8 = 1 || sl.imm32.toNat / 4 % 8 = 3 then 7 else 0

/-- Does a DECIDE read a poisoned register? -/
def decidePoisoned (sl : Slot) (r : Cc) : Bool := evalPred r sl.spred && (sl.sa != 0 && r.gtag sl.sa)

/-- The effect of a DECIDE: its contribution, and the poison flag of a register it read. -/
def decideEffect (sl : Slot) (s : State) : State :=
  (contribute sl (decideValue sl s.cur.cc) s).flagPoison s.ccOff (decidePoisoned sl s.cur.cc)

theorem semDecide_run (sl : Slot) (s : State) :
    semDecide.run ⟨s.ccOff, 0, 0, 0⟩ sl (s.onEngine .cc) = .ok (decideEffect sl (s.onEngine .cc)) := by
  have hcur : (s.onEngine .cc).cur.cc = s.cur.cc := rfl
  unfold SlotSem.run decideEffect decideValue decidePoisoned
  rw [hcur]
  by_cases hp : evalPred s.cur.cc sl.spred = true
  · rw [if_pos hp]
    by_cases ha : sl.sa = 0
    · simp only [semDecide, actDecide, ha, hp, bne_self_eq_false, Bool.false_and, Bool.and_false, if_true]
      rfl
    · have hne : (sl.sa != 0) = true := bne_iff_ne.mpr ha
      simp only [semDecide, actDecide, ha, hp, hne, hcur, Bool.true_and, if_true, if_false]
      rfl
  · simp only [semDecide, idleDecide, hp, Bool.false_and, Bool.false_eq_true, if_false]
    rfl

theorem contribute_eq (sl : Slot) (v : BitVec 3) (s : State) :
    contribute sl v s = s.setGang (s.gidOf s.curCell) { s.gangOf s.curCell with
      decisions := (s.gangOf s.curCell).decisions ++ [⟨s.now, s.curCell, Fin.ofNat 4 sl.imm32.toNat, sl.imm32.toNat / 4 % 8,
        sl.imm32.toNat / 32 % 128, v, none, s.uid⟩] } := rfl

theorem now_contribute (sl : Slot) (v : BitVec 3) (s : State) : (contribute sl v s).now = s.now :=
  State.now_setGang s _ _ rfl

/-- Settles O8: the slot contributes to its gang's reduction and may raise the poison flag; each clause is a field of that. -/
theorem decideCompletes : Obligations.DecideCompletes := by
  intro sl s hc hr w rop r tag v
  refine ⟨_, slotAlone_checked (m := semDecide) hc hr (semDecide_run sl s), ?rest, ?own, ?others, ?cell⟩
  case rest =>
    unfold decideEffect
    cases decidePoisoned sl (s.onEngine .cc).cur.cc <;> rfl
  case own =>
    rw [decideEffect, State.gangOf_flagPoison, contribute_eq]
    exact State.gang_setGang_self (s.onEngine .cc) _ _
  case others =>
    intro g hg
    rw [decideEffect, State.gang_flagPoison, contribute_eq]
    exact State.gang_setGang_ne (s.onEngine .cc) _ (Ne.symm hg)
  case cell =>
    rw [decideEffect, State.cur_flagPoison, now_contribute]
    rfl

/-! ## Atomics (R44, R57, R233, R234) -/

/-- Translation asks device memory and the caches, and not which engine runs. -/
theorem walk_onEngine (s : State) (e : Eng) (levels tile k frame : Nat) :
    walk (s.onEngine e) levels tile k frame = walk s levels tile k frame := by
  induction k generalizing frame with
  | zero => rfl
  | succ k ih =>
    simp only [walk, ih]
    rfl

theorem State.page_onEngine (s : State) (e : Eng) (asid : BitVec 10) (tid : BitVec 12) (d : Desc) (write : Bool) (tile : Nat) :
    (s.onEngine e).page asid tid d write tile = s.page asid tid d write tile := by
  simp only [State.page, State.leaf, walk_onEngine]
  rfl

theorem atomVar_onEngine (sl : Slot) (s : State) (e : Eng) : atomVar sl (s.onEngine e) = atomVar sl s := by
  simp only [atomVar, State.flatByte, State.page_onEngine]
  rfl

/-- The operation an atomic slot sends on path YP, with its operands as they are read at issue. -/
def atomKind (op : AtOp) (v : SyncVar) (sl : Slot) (r : Cc) : YKind :=
  .atom op v (sl.sz = 1) (sl.imm32.getLsbD 12) (if r.gtag sl.sb then 0 else r.greg sl.sb)
    (if r.gtag sl.dst then 0 else r.greg sl.dst) (r.gtag sl.sb || r.gtag sl.dst) (sl.imm32.extractLsb' 0 12) (r.greg sl.sa)

/-- With room in YQ, its entry and the YP operation that returns through it are one write to the cell. -/
theorem ypReturn_room {k : YKind} {s : State} (h : s.cur.q.yq.length < 16) :
    ypReturn ⟨s.ccOff, 0, 0, 0⟩ k s = .ok (s.fresh.setCell s.curCell { s.cur with ord := s.ypWith k [] 4, q := s.yqWith }) := by
  simp only [ypReturn, reserveYq, if_pos h, ypPush, State.modCur_eq, State.setCell_curCell, State.cell_setCell_self,
    State.setCell_setCell, State.fresh_setCell, State.setCell_uid, State.now_setCell]
  rfl

/-- The translation that an atomic's freeze request waits for. -/
def atomMiss (sl : Slot) (s : State) : Cond :=
  .translation s.curCell (sl.imm32.extractLsb' 0 12) ((s.cur.cc.greg sl.sa).toNat / 65536) true

/-- The cell of an atomic that has entered path YP. -/
def atomCell (op : AtOp) (v : SyncVar) (sl : Slot) (s : State) : Cell :=
  { s.cur with ord := s.ypWith (atomKind op v sl s.cur.cc) [] 4, q := s.yqWith }

/-- The YP operation of an atomic, and the freeze request of one whose translation was not cached. -/
def atomSent (op : AtOp) (v : SyncVar) (hit : Bool) (sl : Slot) (s : State) : State :=
  let t := s.fresh.setCell s.curCell (atomCell op v sl s)
  if hit then t else t.request (s.gidOf s.curCell) (atomMiss sl s)

theorem atomAct_found {op : AtOp} {v : SyncVar} {hit : Bool} {sl : Slot} {s : State} (hv : atomVar sl s = .ok (v, hit))
    (hq : s.cur.q.yq.length < 16) :
    atomAct op ⟨s.ccOff, 0, 0, 0⟩ sl s =
      .ok ((atomSent op v hit sl s).flagPoison s.ccOff (s.cur.cc.gtag sl.sb || s.cur.cc.gtag sl.dst)) := by
  simp only [atomAct, hv, ypReturn_room hq]
  rfl

theorem rest_atomSent (op : AtOp) (v : SyncVar) (hit : Bool) (sl : Slot) (s : State) :
    { atomSent op v hit sl s with cells := s.cells, gangs := s.gangs, uid := s.uid } = s := by
  cases hit <;> rfl

theorem cur_atomSent (op : AtOp) (v : SyncVar) (hit : Bool) (sl : Slot) (s : State) :
    (atomSent op v hit sl s).cur = atomCell op v sl s := by
  cases hit <;> exact State.cell_setCell_self s.fresh s.curCell _

theorem div_atomSent (op : AtOp) (v : SyncVar) (hit : Bool) (sl : Slot) (s : State) : (atomSent op v hit sl s).div = s.div := by
  rw [State.div_eq, State.engine, cur_atomSent]
  cases hit <;> rfl

theorem now_atomSent (op : AtOp) (v : SyncVar) (hit : Bool) (sl : Slot) (s : State) : (atomSent op v hit sl s).now = s.now := by
  have hcell : (s.fresh.setCell s.curCell (atomCell op v sl s)).now = s.now := State.now_setCell s.fresh s.curCell _ rfl
  cases hit
  · exact (State.now_request _ _ _).trans hcell
  · exact hcell

theorem gangOf_atomSent (op : AtOp) (v : SyncVar) (hit : Bool) (sl : Slot) (s : State) :
    (atomSent op v hit sl s).gangOf s.curCell = { s.gangOf s.curCell with
      reqs := (s.gangOf s.curCell).reqs ++ if hit then [] else [⟨s.now + (s.gangOf s.curCell).dstall, atomMiss sl s⟩] } := by
  have hgid : (s.fresh.setCell s.curCell (atomCell op v sl s)).gidOf s.curCell = s.gidOf s.curCell :=
    State.gidOf_setCell s.fresh s.curCell s.curCell _ rfl
  cases hit
  · change (State.request _ _ _).gang ((s.fresh.setCell s.curCell (atomCell op v sl s)).gidOf s.curCell) = _
    rw [hgid]
    exact State.gang_request_self _ _ _
  · change (s.fresh.setCell s.curCell (atomCell op v sl s)).gang ((s.fresh.setCell s.curCell (atomCell op v sl s)).gidOf s.curCell) = _
    rw [hgid]
    simp only [if_true, List.append_nil]
    rfl

/-- An atomic that finds its variable and room in YQ, field by field. -/
theorem atomAct_completes (op : AtOp) {op8 : Nat} {sl : Slot} {s : State} {v : SyncVar} {hit : Bool} (h : s.SlotActs op8 sl)
    (hv : atomVar sl s = .ok (v, hit)) (hq : s.cur.q.yq.length < 16) :
    let tag := s.cur.cc.gtag sl.sb || s.cur.cc.gtag sl.dst
    ∃ t, slotAlone { op8 := op8, act := atomAct op } sl s = .next t ∧
      { t with cells := s.cells, gangs := s.gangs, uid := s.uid, curEng := s.curEng } = s ∧
      t.cur = { s.cur with
        ord := s.ypWith (atomKind op v sl s.cur.cc) [] 4
        q := s.yqWith
        flight := s.cur.flight ++ if tag then [⟨s.now + s.ccDiv, s.uid + 1, .cc, s.ccOff, .flags, 0, 0, 2⟩] else [] } ∧
      t.gangOf s.curCell = { s.gangOf s.curCell with
        reqs := (s.gangOf s.curCell).reqs ++ if hit then [] else [⟨s.now + (s.gangOf s.curCell).dstall, atomMiss sl s⟩] } := by
  intro tag
  have hv' : atomVar sl (s.onEngine .cc) = .ok (v, hit) := (atomVar_onEngine sl s .cc).trans hv
  refine ⟨_, slotAlone_ok (m := { op8 := op8, act := atomAct op }) h rfl (atomAct_found hv' hq), ?rest, ?cell, ?own⟩
  case rest =>
    have hflag := congrArg (fun u : State => { u with cells := s.cells, gangs := s.gangs, uid := s.uid, curEng := s.curEng })
      (State.rest_flagPoison (atomSent op v hit sl (s.onEngine .cc)) s.ccOff tag)
    have hsent := congrArg (fun u : State => { u with curEng := s.curEng }) (rest_atomSent op v hit sl (s.onEngine .cc))
    exact hflag.trans hsent
  case cell =>
    rw [State.cur_flagPoison, cur_atomSent, now_atomSent, div_atomSent]
    cases hit <;> rfl
  case own =>
    exact (State.gangOf_flagPoison _ _ _ _).trans (gangOf_atomSent op v hit sl (s.onEngine .cc))

/-- Settles O14: the eleven slots are one meaning at eleven operations. -/
theorem atomicSlotsComplete : Obligations.AtomicSlotsComplete := by
  intro e he sl s v hit h hv hq r tid tag op
  simp only [atomSlots, List.mem_cons, List.not_mem_nil, or_false] at he
  rcases he with rfl | rfl | rfl | rfl | rfl | rfl | rfl | rfl | rfl | rfl | rfl <;>
    exact atomAct_completes _ h hv hq

end Sys2Proof.Machine
end

section
/-! SUPPORT. Records of the control core that issue (Control.lean): NOPR, PHAS, and FORK and RDV as updates of the cell's engines; they
settle O25. -/

namespace Sys2Proof.Machine

/-! ## Records of the control core (R30, R31, R178, R219) -/

/-- A legal record of the control core that issues begins, and its effect is that of its one expansion. -/
theorem issue_ccIssues {i : Instr} {stamp off : Nat} {s : State} (h : s.CcIssues stamp off) (body : Ctx → State → Except Flt State) :
    issue i none stamp .always 1 1 noChk body (s.onEngine .cc) =
      match body ⟨off, 0, 0, 0⟩ (s.ccBegun i off stamp) with
      | .ok t => t
      | .error f => (s.ccBegun i off stamp).expFault i ⟨off, 0, 0, 0⟩ f := by
  obtain ⟨hfree, hpc, hdue, htime⟩ := h
  simp only [issue, hfree, hpc, Option.getD_some, hdue, Bool.false_eq_true, if_false, htime]
  rfl

theorem issue_ccIssues_ok {i : Instr} {stamp off : Nat} {s t : State} {body : Ctx → State → Except Flt State} (h : s.CcIssues stamp off)
    (hb : body ⟨off, 0, 0, 0⟩ (s.ccBegun i off stamp) = .ok t) :
    issue i none stamp .always 1 1 noChk body (s.onEngine .cc) = t := by
  rw [issue_ccIssues h, hb]

theorem exec_nopr_issues {stamp : BitVec 24} {s : State} {off : Nat} (h : s.CcIssues stamp.toNat off) :
    exec (.nopr stamp) s = .next (s.ccBegun (.nopr stamp) off stamp.toNat) :=
  congrArg Host.Outcome.next (issue_ccIssues_ok h rfl)

theorem exec_phas_issues {r : PhasRec} {s : State} {off : Nat} (h : s.CcIssues r.stamp.toNat off)
    (hb : bandBad r.fmin.toNat r.fmax.toNat = none) :
    let u := s.ccBegun (.phas r) off r.stamp.toNat
    exec (.phas r) s = .next (u.land ⟨off, 0, 0, 0⟩ (u.now + 1) (.band r.fmin r.fmax)) := by
  intro u
  change execPhas r s = _
  simp only [execPhas, hb, Option.map_none]
  exact congrArg Host.Outcome.next (issue_ccIssues_ok h rfl)

/-! ### Starting and stopping engines -/

section Engines
variable (f : Eng → EngSeq → EngSeq)

/-- Each engine of a list takes its update. -/
def Cell.updateEngines (x : Cell) (l : List Eng) : Cell := l.foldl (fun x e => x.setEngine e (f e (x.engine e))) x

theorem Cell.engine_updateEngines (l : List Eng) (hl : l.Nodup) (x : Cell) (e : Eng) :
    (x.updateEngines f l).engine e = if e ∈ l then f e (x.engine e) else x.engine e := by
  induction l generalizing x with
  | nil => rfl
  | cons a l ih =>
    obtain ⟨ha, hl⟩ := List.nodup_cons.mp hl
    rw [Cell.updateEngines, List.foldl_cons]
    refine (ih hl _).trans ?_
    by_cases he : e = a
    · subst he
      rw [if_neg ha, if_pos List.mem_cons_self, Cell.engine_setEngine_self]
    · rw [Cell.engine_setEngine_ne _ _ (Ne.symm he)]
      simp only [List.mem_cons, he, false_or]

/-- Nothing of the cell but its engines' sequencers changes. -/
theorem Cell.rest_updateEngines (l : List Eng) (x : Cell) :
    { x.updateEngines f l with sq := { (x.updateEngines f l).sq with eng := x.sq.eng } } = x := by
  induction l generalizing x with
  | nil => rfl
  | cons a l ih =>
    have h := congrArg (fun y : Cell => { y with sq := { y.sq with eng := x.sq.eng } }) (ih (x.setEngine a (f a (x.engine a))))
    exact h

end Engines

theorem Cell.setEngine_engine (x : Cell) (e : Eng) : x.setEngine e (x.engine e) = x := by
  simp [Cell.setEngine, Cell.engine]

/-- What a FORK makes of an engine's sequencer (R30). -/
def forkStart (r : ForkRec) (off t : Nat) (e : Eng) (q : EngSeq) : EngSeq :=
  match forkOffset r e with
  | some o => startEngine off o t q
  | none => q

theorem forkBad_eq_none {r : ForkRec} {off last stamp : Nat} {s : State} (hs : s.segeOf s.curCell = some (last, stamp))
    (h : ∀ e o, forkOffset r e = some o → off ≤ o ∧ o ≤ last ∧ (s.cur.engine e).pc = none) : forkBad r off s = none := by
  simp only [forkBad, hs, Option.map_eq_none_iff, List.find?_eq_none]
  intro e _
  cases ho : forkOffset r e.1 with
  | none => simp
  | some o =>
    obtain ⟨hlo, hhi, hpc⟩ := h e.1 o ho
    simp only [hpc, Option.isSome_none, Bool.or_false, Bool.or_eq_true, decide_eq_true_eq]
    omega

theorem bodyFork_ok {r : ForkRec} {c : Ctx} {s : State} (h : forkBad r c.off s = none) :
    bodyFork r c s = .ok (s.setCell s.curCell (s.cur.updateEngines (forkStart r c.off s.now) [.ve, .me, .se])) := by
  have hgo (x : Cell) (e : Eng) : x.setEngine e (forkStart r c.off s.now e (x.engine e)) =
      match forkOffset r e with
      | some o => x.setEngine e (startEngine c.off o s.now (x.engine e))
      | none => x := by
    unfold forkStart
    cases forkOffset r e with
    | none => exact Cell.setEngine_engine x e
    | some o => rfl
  simp only [bodyFork, h, Cell.updateEngines, hgo]
  rfl

theorem exec_fork_issues {r : ForkRec} {s : State} {off last stamp : Nat} (h : s.CcIssues r.stamp.toNat off)
    (hf : forkField r = none) :
    let u := s.ccBegun (.fork r) off r.stamp.toNat
    u.segeOf u.curCell = some (last, stamp) →
    (∀ e o, forkOffset r e = some o → off ≤ o ∧ o ≤ last ∧ (u.cur.engine e).pc = none) →
    exec (.fork r) s = .next (u.setCell u.curCell (u.cur.updateEngines (forkStart r off u.now) [.ve, .me, .se])) := by
  intro u hs ho
  change execFork r s = _
  simp only [execFork, hf, Option.map_none]
  exact congrArg Host.Outcome.next (issue_ccIssues_ok h (bodyFork_ok (forkBad_eq_none hs ho)))

/-- What an RDV that names an engine makes of its sequencer (R31). -/
def rdvStop (off : Nat) (q : EngSeq) : EngSeq := { q with rdvOff := some off, forkOff := none, stop := true }

theorem bodyRdv_ok {r : RdvRec} {c : Ctx} {s : State} (h : ∀ e ∈ (rdvNames r).map (·.2), (s.cur.engine e).pc.isSome = true) :
    bodyRdv r c s = .ok (s.setCell s.curCell (s.cur.updateEngines (fun _ => rdvStop c.off) ((rdvNames r).map (·.2)))) := by
  have hnone : (rdvNames r).find? (fun e => (s.cur.engine e.2).pc.isNone) = none := by
    refine List.find?_eq_none.mpr fun e he => ?_
    rw [Option.isNone_eq_false_iff.mpr (h e.2 (List.mem_map_of_mem he))]
    decide
  simp only [bodyRdv, hnone, Cell.updateEngines, List.foldl_map]
  rfl

theorem exec_rdv_issues {r : RdvRec} {s : State} {off : Nat} (h : s.CcIssues r.stamp.toNat off) (hj : r.jen ≠ 0) :
    let u := s.ccBegun (.rdv r) off r.stamp.toNat
    (∀ e ∈ (rdvNames r).map (·.2), (u.cur.engine e).pc.isSome = true) →
    exec (.rdv r) s =
      .next (u.setCell u.curCell (u.cur.updateEngines (fun _ => rdvStop off) ((rdvNames r).map (·.2)))) := by
  intro u hn
  change execRdv r s = _
  simp only [execRdv, if_neg hj]
  exact congrArg Host.Outcome.next (issue_ccIssues_ok h (bodyRdv_ok hn))

theorem rdvNames_nodup (r : RdvRec) : ((rdvNames r).map (·.2)).Nodup :=
  List.Nodup.sublist (List.filter_sublist.map _) (by decide : (List.map Prod.snd [(0, Eng.ve), (1, .me), (2, .se)]).Nodup)

/-- Is an engine named by an RDV? -/
def rdvNamed (r : RdvRec) : Eng → Bool
  | .cc => false
  | .ve => r.jen.getLsbD 0
  | .me => r.jen.getLsbD 1
  | .se => r.jen.getLsbD 2

theorem mem_rdvNames (r : RdvRec) (e : Eng) : e ∈ (rdvNames r).map (·.2) ↔ rdvNamed r e = true := by
  cases e <;> simp [rdvNames, rdvNamed]

/-- Settles O25: a record that issues has the effect of its one expansion; FORK and RDV update engines of the cell one by one. -/
theorem controlRecordsComplete : Obligations.ControlRecordsComplete := by
  intro s off
  refine ⟨?nopr, ?phas, ?fork, ?rdv⟩
  case nopr =>
    intro stamp h
    exact exec_nopr_issues h
  case phas =>
    intro r h hb u
    exact ⟨_, exec_phas_issues h hb, State.lands_land u .cc ⟨off, 0, 0, 0⟩ _ _ _ _ _⟩
  case fork =>
    intro r last stamp h u hf hs ho
    refine ⟨_, exec_fork_issues h hf hs ho, State.oneCell_setCell u u.curCell _, ?rest, fun e => ?eng⟩
    case rest =>
      rw [State.cur, State.setCell_curCell, State.cell_setCell_self]
      exact Cell.rest_updateEngines _ _ u.cur
    case eng =>
      rw [State.cur, State.setCell_curCell, State.cell_setCell_self, Cell.engine_updateEngines _ _ (by decide)]
      cases e <;> rfl
  case rdv =>
    intro r h hj u named hn
    have hnamed (e : Eng) : e ∈ (rdvNames r).map (·.2) ↔ named e = true := mem_rdvNames r e
    refine ⟨_, exec_rdv_issues h hj fun e he => hn e ((hnamed e).mp he), State.oneCell_setCell u u.curCell _, ?rest, fun e => ?eng⟩
    case rest =>
      rw [State.cur, State.setCell_curCell, State.cell_setCell_self]
      exact Cell.rest_updateEngines _ _ u.cur
    case eng =>
      rw [State.cur, State.setCell_curCell, State.cell_setCell_self, Cell.engine_updateEngines _ _ (rdvNames_nodup r)]
      simp only [hnamed]
      rfl

end Sys2Proof.Machine
end

section
/-! SUPPORT. BRK and SEGE (Control.lean): the debug stop and the displaced record; the end of a segment and of a tile task. They settle
O27 and O26. -/

namespace Sys2Proof.Machine

/-! ## BRK (R43, R218) -/

theorem brkRaises_iff {r : BrkRec} {s : State} {o : Nat} {w : RecordBits} (hw : s.cur.sq.brk[r.idx] = some (o, w))
    (hst : stampOf (s.gangOf s.curCell).encgen w.toNat = r.stamp.toNat) :
    brkRaises r s = true ↔ s.cur.sq.brkDone.getLsbD r.idx.val = false ∧
      s.cur.sq.start + max r.stamp.toNat (s.gangOf s.curCell).dstall ≤ s.now + (s.gangOf s.curCell).dstall := by
  simp only [brkRaises, hw, Option.any_some, hst, decide_true, Bool.and_true, Bool.and_eq_true, Bool.not_eq_true', decide_eq_true_eq]

theorem exec_brk_raises {r : BrkRec} {s : State} (h : brkRaises r s = true) : exec (.brk r) s = .next (brkRequest r s) := by
  change execBrk r s = _
  simp only [execBrk, h, if_true]

/-- At its stamp a BRK whose debug stop has been raised gives its turn to the record that it displaced. -/
theorem exec_brk_displaced {r : BrkRec} {s : State} {o : Nat} {w : RecordBits} {i : Instr} (h : brkRaises r s = false)
    (hwait : s.waits r.stamp.toNat = false) (hw : s.cur.sq.brk[r.idx] = some (o, w))
    (hst : stampOf (s.gangOf s.curCell).encgen w.toNat = r.stamp.toNat) (hi : decode (s.gangOf s.curCell).encgen w.toNat = .ok i) :
    exec (.brk r) s = .next { s with turn := .event i } := by
  change execBrk r s = _
  simp only [execBrk, h, hwait, hw, hst, hi, Bool.false_eq_true, if_false, ne_eq, not_true]

/-- The cell of a BRK that has raised its debug stop. -/
def brkCell (r : BrkRec) (x : Cell) : Cell :=
  { x with sq := { x.sq with brkDone := x.sq.brkDone ||| BitVec.ofNat 8 (2 ^ r.idx.val) } }

/-- The debug stop that a BRK raises at the state's tick. -/
def brkStop (r : BrkRec) (s : State) : Req :=
  ⟨max (s.cur.sq.start + max r.stamp.toNat (s.gangOf s.curCell).dstall) (s.now + (s.gangOf s.curCell).dstall), .debug⟩

theorem Gang.request_once (y : Gang) (q : Req) : (if y.reqs.contains q then y else { y with reqs := y.reqs ++ [q] }) =
    { y with reqs := if y.reqs.contains q then y.reqs else y.reqs ++ [q] } := by
  cases y.reqs.contains q <;> rfl

theorem brkRequest_eq (r : BrkRec) (s : State) :
    brkRequest r s = (s.setGang (s.gidOf s.curCell) { s.gangOf s.curCell with
      reqs := if (s.gangOf s.curCell).reqs.contains (brkStop r s) then (s.gangOf s.curCell).reqs
        else (s.gangOf s.curCell).reqs ++ [brkStop r s] }).setCell s.curCell (brkCell r s.cur) := by
  simp only [brkRequest, State.modCur_eq, State.modGang_eq, State.gang_setCell, State.setGang_setCell,
    Gang.request_once]
  rfl

/-- Settles O27: a BRK whose stop is still to raise raises it, and any other at its stamp hands its turn on. -/
theorem brkCompletes : Obligations.BrkCompletes := by
  intro r s o w hw g hst q
  refine ⟨fun hdone hnear => ?raises, fun hdone hwait i hi => ?displaced⟩
  case raises =>
    have hgid (x : Gang) : ((s.setGang (s.gidOf s.curCell) x).setCell s.curCell (brkCell r s.cur)).gidOf s.curCell = s.gidOf s.curCell :=
      State.gidOf_setCell _ s.curCell s.curCell _ rfl
    refine ⟨_, exec_brk_raises ((brkRaises_iff hw hst).mpr ⟨hdone, hnear⟩), ?_⟩
    rw [brkRequest_eq]
    refine ⟨rfl, fun d hd => ?cells, fun h hh => ?gangs, ?own, State.cell_setCell_self _ s.curCell _⟩
    case cells => rw [State.cell_setCell_ne _ _ (Ne.symm hd), State.cell_setGang]
    case gangs => rw [State.gang_setCell, State.gang_setGang_ne _ _ (Ne.symm hh)]
    case own => rw [State.gangOf, hgid, State.gang_setCell, State.gang_setGang_self]; rfl
  case displaced =>
    have hno : brkRaises r s = false := by
      rw [Bool.eq_false_iff, ne_eq, brkRaises_iff hw hst, hdone]
      exact fun h => Bool.noConfusion h.1
    exact exec_brk_displaced hno hwait hw hst hi

/-! ## SEGE (R32–R36, R40, R42, R194) -/

/-- A SEGE's step: the samples of its segment, one write to the cell and one to its gang. -/
def State.afterSege (s : State) (m : Vector Monitor 64) (y : Gang) (x : Cell) : State :=
  { (s.setGang (s.gidOf s.curCell) y).setCell s.curCell x with curEng := .cc, monitors := m }

section AfterSege
variable (s : State) (m : Vector Monitor 64) (y : Gang) (x : Cell)

theorem State.rest_afterSege : { s.afterSege m y x with
    cells := s.cells, gangs := s.gangs, curEng := s.curEng, monitors := s.monitors } = s := rfl
theorem State.cell_afterSege_ne {d : CellId} (h : d ≠ s.curCell) : (s.afterSege m y x).cell d = s.cell d :=
  State.cell_setCell_ne (s.setGang (s.gidOf s.curCell) y) x (Ne.symm h)
theorem State.gang_afterSege_ne {g : GangId} (h : g ≠ s.gidOf s.curCell) : (s.afterSege m y x).gang g = s.gang g :=
  State.gang_setGang_ne s y (Ne.symm h)
theorem State.gang_afterSege : (s.afterSege m y x).gang (s.gidOf s.curCell) = y := State.gang_setGang_self s _ y
theorem State.cur_afterSege : (s.afterSege m y x).cur = x := State.cell_setCell_self (s.setGang (s.gidOf s.curCell) y) s.curCell x

end AfterSege

/-- The samples of a segment's end change monitors alone. -/
theorem State.sampleSege_onEngine (s : State) (r : SegeRec) :
    (s.onEngine .cc).sampleSege r = { s with curEng := .cc, monitors := (s.sampleSege r).monitors } := by
  by_cases h : (r.dsel = 0 || s.cur.cc.dLand[Fin.ofNat 4 (r.dsel.toNat - 1)] = 0) = true
  · have h' : (r.dsel = 0 || (s.onEngine .cc).cur.cc.dLand[Fin.ofNat 4 (r.dsel.toNat - 1)] = 0) = true := h
    simp only [State.sampleSege, if_pos h, if_pos h']
    rfl
  · have h' : ¬ (r.dsel = 0 || (s.onEngine .cc).cur.cc.dLand[Fin.ofNat 4 (r.dsel.toNat - 1)] = 0) = true := h
    simp only [State.sampleSege, if_neg h, if_neg h']
    rfl

theorem segeCheck_agrees {r : SegeRec} {s : State} (hl : r.len.toNat = s.now - s.cur.sq.start + 1) (hs : r.sig = closingSig r s) :
    segeCheck r s = none := by
  have hs' : r.sig = (sigFold s.cur.sq.sig (sigPut 0 (sigEntry (.sege r) r.stamp.toNat) s.cur.sq.sigPend)) ^^^ 0xFFFFFFFF := hs
  simp only [segeCheck, ← hl, ← hs', ne_eq, not_true, decide_false, Bool.or_false, Bool.false_eq_true, if_false]

/-- A SEGE that is due, legal and no schedule miss, from a text offset, whose LEN and SIG are those of its segment. -/
structure SegeCloses (r : SegeRec) (s : State) (off : Nat) : Prop where
  pc   : (s.cur.engine .cc).pc = some off
  due  : s.cur.sq.start + r.stamp.toNat ≤ s.now
  legal : segeBad r (s.gangOf s.curCell).tlen = none
  time : (s.onEngine .cc).missCause off r.stamp.toNat 1 1 = none
  len  : r.len.toNat = s.now - s.cur.sq.start + 1
  sig  : r.sig = closingSig r (s.onEngine .cc)

/-- The cell of a SEGE that ends the tile task: no sequencer runs any more. -/
def Cell.endTask (x : Cell) : Cell :=
  { x with sq := { x.sq with eng := x.sq.eng.map fun q => { q with pc := none, exp := none }, sigPend := [] } }

theorem Cell.running_eq_nil {x : Cell} (h : ∀ e, e ≠ .cc → (x.engine e).pc = none) : x.running = [] := by
  refine List.filter_eq_nil_iff.mpr fun e he => ?_
  have hne : e ≠ .cc := by rintro rfl; simp at he
  rw [h e hne]
  decide

section SegeSteps
variable {r : SegeRec} {s : State} {off : Nat} (h : SegeCloses r s off)
include h

theorem exec_sege_due : exec (.sege r) s = .next (segeEffect r off ((s.onEngine .cc).sampleSege r)) := by
  have hpc' : (s.onEngine .cc).engine.pc = some off := h.pc
  have hdue' : ¬ (s.onEngine .cc).now < (s.onEngine .cc).cur.sq.start + r.stamp.toNat := Nat.not_lt.mpr h.due
  have hbad' : segeBad r ((s.onEngine .cc).gangOf (s.onEngine .cc).curCell).tlen = none := h.legal
  change execSege r s = _
  simp only [execSege, hpc', Option.getD_some, if_neg hdue', hbad', h.time]

theorem SegeCloses.check (m : Vector Monitor 64) : segeCheck r { s with curEng := .cc, monitors := m } = none :=
  segeCheck_agrees (s := { s with curEng := .cc, monitors := m }) h.len h.sig

theorem exec_sege_enters (hn : r.nsucc ≠ 0) (hv : segeChoice r s < r.nsucc.toNat) :
    let v := segeChoice r s
    let entry := r.succ.toNat / 2 ^ (32 * v) % 2 ^ 32
    let y := s.gangOf s.curCell
    ∃ seg, exec (.sege r) s = .next (s.afterSege (s.sampleSege r).monitors
      { y with tokens := y.tokens ++ [⟨s.now, s.curCell, r.segid, v, off, entry, s.uid⟩] } (s.cur.enterSegment seg entry (s.now + 1))) := by
  intro v entry y
  have hv' : ¬ r.nsucc.toNat ≤ segeChoice r { s with curEng := .cc, monitors := (s.sampleSege r).monitors } := Nat.not_le.mpr hv
  refine ⟨State.segmentAt { s with curEng := .cc, monitors := (s.sampleSege r).monitors } s.curCell y.encgen entry, ?_⟩
  rw [exec_sege_due h, State.sampleSege_onEngine]
  simp only [segeEffect, if_neg hn, if_neg hv', h.check]
  rfl

theorem exec_sege_ends (hn : r.nsucc = 0) (hstop : ∀ e, e ≠ .cc → (s.cur.engine e).pc = none) :
    let y := s.gangOf s.curCell
    exec (.sege r) s = .next (s.afterSege (s.sampleSege r).monitors { y with
      status := .ending, tokens := y.tokens ++ [⟨s.now, s.curCell, r.segid, 0, off, 0, s.uid⟩] } s.cur.endTask) := by
  intro y
  have hrun : (State.cur { s with curEng := .cc, monitors := (s.sampleSege r).monitors }).running = [] := Cell.running_eq_nil hstop
  rw [exec_sege_due h, State.sampleSege_onEngine]
  simp only [segeEffect, if_pos hn, hrun, h.check]
  rfl

end SegeSteps

theorem Cell.pc_enterSegment (x : Cell) (seg : Option (Nat × Nat) × Option (BitVec 16)) (off t : Nat) (e : Eng) :
    ((x.enterSegment seg off t).engine e).pc = (x.engine e).pc.map fun _ => off := by
  simp only [Cell.enterSegment, Cell.engine, Fin.getElem_fin, Vector.getElem_map]
  split
  next h => rw [h]; rfl
  next h => rw [h]; rfl

theorem Cell.pc_endTask (x : Cell) (e : Eng) : (x.endTask.engine e).pc = none := by
  simp only [Cell.endTask, Cell.engine, Fin.getElem_fin, Vector.getElem_map]

/-- Settles O26: both outcomes are one write to the cell and one to its gang, beside the samples. -/
theorem segeCompletes : Obligations.SegeCompletes := by
  intro r s off hpc hdue hbad hmiss hlen hsig g v entry counted
  have h : SegeCloses r s off := ⟨hpc, hdue, hbad, hmiss, hlen, hsig⟩
  refine ⟨fun hn hv => ?enters, fun hn hstop => ?ends⟩
  case enters =>
    obtain ⟨seg, hexec⟩ := exec_sege_enters h hn hv
    refine ⟨_, hexec, State.rest_afterSege _ _ _ _, rfl, fun d => State.cell_afterSege_ne _ _ _ _, fun k => State.gang_afterSege_ne _ _ _ _,
      State.gang_afterSege _ _ _ _, ?_⟩
    rw [State.cur_afterSege]
    exact ⟨rfl, rfl, rfl, rfl, rfl, rfl, rfl, Cell.pc_enterSegment _ _ _ _⟩
  case ends =>
    refine ⟨_, exec_sege_ends h hn hstop, State.rest_afterSege _ _ _ _, rfl, fun d => State.cell_afterSege_ne _ _ _ _,
      fun k => State.gang_afterSege_ne _ _ _ _, State.gang_afterSege _ _ _ _, ?_⟩
    rw [State.cur_afterSege]
    exact ⟨rfl, Cell.pc_endTask _⟩

end Sys2Proof.Machine
end

section
/-! SUPPORT. The stream engine's steps (StreamRun.lean), one lemma for each; they settle O38. -/

namespace Sys2Proof.Machine

/-! ## Release and start (R27, R286) -/

theorem exec_seRelease_running {s : State} {c : CellId} (hpc : ((s.cell c).engine .se).pc.isSome = true)
    (hz : (s.gangOf c).frozen = false) : exec (.seRelease c) s = .next { s with turn := .record c .se } := by
  change execSeRelease c s = _
  simp only [execSeRelease, hpc, hz, Bool.not_false, Bool.and_self, if_true]

theorem exec_seCommandStart_ready {s : State} {c : CellId} {uid : Nat} {m : SeCmd} (hm : (s.cell c).seCmd uid = some m)
    (hq : m.phase = .queued) (hr : s.seReady c m = true) (hg : (s.gangOf c).status = .running ∨ (s.gangOf c).status = .ending) :
    exec (.seCommandStart c uid) s = .next (s.setCell c ((s.cell c).putCmd { m with phase := .running })) := by
  have hstatus : ((s.gangOf c).status = .running || (s.gangOf c).status = .ending) = true := by simpa using hg
  change execSeCommandStart c uid s = _
  simp only [execSeCommandStart, hm, hq, hr, hstatus, decide_true, Bool.and_self, if_true, State.modCell_eq]

/-! ## Chunks (R286, R287, R309) -/

section Chunk
variable {s t : State} {c : CellId} {uid : Nat} {m : SeCmd} {us : List Nat} {b : Nat} {rest : List (List Nat × Nat)} {f : Flt}

theorem exec_chunkPerformed_counted (hm : (s.cell c).seCmd uid = some m) (hout : m.out = (us, b) :: rest)
    (hdone : ∀ u ∈ us, s.writeDone u = true) (hb : countBytes c m (if m.nref then 0 else b) s = .ok t) :
    exec (.chunkPerformed c uid) s = .next (t.setCell c ((t.cell c).putCmd { m with out := rest })) := by
  have hall : us.all s.writeDone = true := List.all_eq_true.mpr hdone
  change execChunkPerformed c uid s = _
  simp only [execChunkPerformed, hm, hout, hall, if_true, hb, State.modCell_eq]

theorem exec_chunkPerformed_stopped (hm : (s.cell c).seCmd uid = some m) (hout : m.out = (us, b) :: rest)
    (hdone : ∀ u ∈ us, s.writeDone u = true) (hb : countBytes c m (if m.nref then 0 else b) s = .error f) :
    exec (.chunkPerformed c uid) s = .next (stopCmd c { m with out := rest } f s) := by
  have hall : us.all s.writeDone = true := List.all_eq_true.mpr hdone
  change execChunkPerformed c uid s = _
  simp only [execChunkPerformed, hm, hout, hall, if_true, hb]

theorem SeCmd.ring_of_counts (h : m.counts = true) : ∃ r, m.o2 = .ring r ∧ (r.msb && !isBarrier m.op) = true := by
  cases hr : m.o2 with
  | ring r => exact ⟨r, rfl, by rw [← h, SeCmd.counts, hr]⟩
  | _ => simp [SeCmd.counts, hr] at h

theorem countBytes_of_not_counts (b : Nat) (h : m.counts = false) : countBytes c m b s = .ok s := by
  cases hr : m.o2 with
  | ring r =>
    have hr' : (r.msb && !isBarrier m.op) = false := by rw [← h, SeCmd.counts, hr]
    simp only [countBytes, hr, hr', Bool.false_eq_true, if_false]
  | _ => simp only [countBytes, hr]

theorem countBytes_of_counts {a : Arrival} (b : Nat) (h : m.counts = true) (ha : (s.cell c).arrival m.o2.awAddr = .ok a)
    (hok : (a.armed && decide (a.target = 0)) = false) :
    countBytes c m b s = .ok (s.setCell c ((s.cell c).putArrival m.o2.awAddr (a.add b))) := by
  obtain ⟨r, ho, hr⟩ := SeCmd.ring_of_counts h
  rw [ho] at ha
  simp only [countBytes, ho, hr, if_true, ha, hok, Bool.false_eq_true, if_false, State.modCell_eq]

/-- An arrival word that is illegal, or armed with target 0, is a descriptor fault (R64). -/
theorem countBytes_illegal (b : Nat) (h : m.counts = true)
    (hbad : ∀ a, (s.cell c).arrival m.o2.awAddr = .ok a → (a.armed && decide (a.target = 0)) = true) :
    ∃ k, countBytes c m b s = .error (descFlt .se k) := by
  obtain ⟨r, ho, hr⟩ := SeCmd.ring_of_counts h
  rw [ho] at hbad
  cases ha : (s.cell c).arrival (ROp.ring r).awAddr with
  | error k => exact ⟨k, by simp only [countBytes, ho, hr, if_true, ha]⟩
  | ok a => exact ⟨12, by simp only [countBytes, ho, hr, if_true, ha, hbad a ha]⟩

end Chunk

theorem State.cell_fault (s : State) (c d : CellId) (e : Eng) (off tick : Nat) (redo : Option (Instr × Cc × Nat)) (f : Flt) :
    (s.fault c e off tick redo f).cell d = s.cell d := rfl

theorem State.gangOf_fault (s : State) (c : CellId) (e : Eng) (off tick : Nat) (redo : Option (Instr × Cc × Nat)) (f : Flt) :
    (s.fault c e off tick redo f).gangOf c = { s.gangOf c with
      faults := (s.gangOf c).faults ++ [s.faultRecord c e off tick redo f]
      reqs := (s.gangOf c).reqs ++ [⟨(s.gangOf c).tick + (s.gangOf c).dstall, .fault s.uid⟩] } :=
  State.gang_fault_self s c e off tick redo f

theorem State.gangOf_putCmd (s : State) (c : CellId) (m : SeCmd) : (s.setCell c ((s.cell c).putCmd m)).gangOf c = s.gangOf c :=
  State.gangOf_setCell s c c _ rfl

/-- A command that stops at a descriptor fault leaves its entry stopped and its gang with the fault (R291, R354). -/
theorem stopCmd_descFlt (s : State) (c : CellId) (m : SeCmd) (k : Nat) :
    (stopCmd c m (descFlt .se k) s).cell c = (s.cell c).putCmd { m with phase := .stopped } ∧
    ∃ p, ((stopCmd c m (descFlt .se k) s).gangOf c).faults = (s.gangOf c).faults ++ [p] ∧
      p.cls = 0x0E ∧ p.unit = 3 ∧ p.off = m.off := by
  refine ⟨State.cell_setCell_self s c _,
    (s.setCell c ((s.cell c).putCmd { m with phase := .stopped })).faultRecord c .se m.off (s.gangOf c).tick none (m.flt (descFlt .se k)),
    ?_, rfl, rfl, rfl⟩
  rw [stopCmd, State.modCell_eq, State.gangOf_fault, State.gangOf_putCmd]

/-! ## Completion (R287, R289, R291) -/

/-- One more in DONE, modulo its 32 bits. -/
theorem Cell.done_countDone (x : Cell) :
    fieldOf x.countDone.se.sestat.toNat 16 32 = (fieldOf x.se.sestat.toNat 16 32 + 1) % 2 ^ 32 := by
  have hlt := x.se.sestat.isLt
  simp only [Cell.countDone, BitVec.toNat_ofNat, putField, fieldOf]
  omega

/-- The samples of a command's completion change monitors alone. -/
theorem State.sampleCmd_eq (s : State) (c : CellId) (m : SeCmd) :
    s.sampleCmd c m = { s with monitors := (s.sampleCmd c m).monitors } := by
  unfold State.sampleCmd
  cases m.prom with
  | none => rfl
  | some p =>
    dsimp only
    split <;> rfl

/-- The cell of a completed command: its entry has left the queue and DONE counts it. -/
def Cell.finishCmd (x : Cell) (uid : Nat) : Cell := (x.dropCmd uid).countDone

/-- The state of a completed command: its cell, its frames to peers, and the samples. -/
def State.finishCmd (s : State) (c : CellId) (m : SeCmd) (x : Cell) : State :=
  { s.setCell c x with
    outFrames := s.outFrames.filter (fun f => decide (f.cmd ≠ m.uid)), monitors := (s.sampleCmd c m).monitors }

theorem State.cell_finishCmd_self (s : State) (c : CellId) (m : SeCmd) (x : Cell) : (s.finishCmd c m x).cell c = x :=
  State.cell_setCell_self s c x
theorem State.cell_finishCmd_ne (s : State) {c d : CellId} (m : SeCmd) (x : Cell) (h : d ≠ c) :
    (s.finishCmd c m x).cell d = s.cell d :=
  State.cell_setCell_ne s x (Ne.symm h)

theorem Cell.uid_of_seCmd {x : Cell} {uid : Nat} {m : SeCmd} (h : x.seCmd uid = some m) : m.uid = uid := by
  simpa using List.find?_some h

theorem exec_seCommandCompletion_plain {s : State} {c : CellId} {uid : Nat} {m : SeCmd} (hm : (s.cell c).seCmd uid = some m)
    (hd : s.cmdDone c m = true) (hr : m.ringAdvance = none) :
    exec (.seCommandCompletion c uid) s = .next (s.finishCmd c m ((s.cell c).finishCmd uid)) := by
  obtain rfl := Cell.uid_of_seCmd hm
  change execSeCommandCompletion c m.uid s = _
  simp only [execSeCommandCompletion, hm, hd, if_true, hr]
  rw [State.sampleCmd_eq]
  rfl

theorem State.setCell_finishCmd (s : State) (c : CellId) (m : SeCmd) (x y : Cell) :
    (s.finishCmd c m x).setCell c y = s.finishCmd c m y :=
  congrArg (fun t : State => { t with outFrames := (s.finishCmd c m x).outFrames, monitors := (s.finishCmd c m x).monitors })
    (State.setCell_setCell s c x y)

/-- The cell with one more operation on path YP. -/
def Cell.pushYp (x : Cell) (op : YOp) : Cell := { x with ord := { x.ord with yp := x.ord.yp ++ [op] } }

theorem exec_seCommandCompletion_ring {s : State} {c : CellId} {uid loc : Nat} {m : SeCmd} (hm : (s.cell c).seCmd uid = some m)
    (hd : s.cmdDone c m = true) (hr : m.ringAdvance = some loc) :
    ∃ op, op.kind = .tail loc 1 ∧
      exec (.seCommandCompletion c uid) s = .next (s.finishCmd c m (((s.cell c).finishCmd uid).pushYp op)).fresh := by
  obtain rfl := Cell.uid_of_seCmd hm
  have hstep : ∃ cover, exec (.seCommandCompletion c m.uid) s = .next ((s.finishCmd c m ((s.cell c).finishCmd m.uid)).modCell c
      (·.pushYp (m.ypOp s.uid (s.gangOf c).tick (.tail loc 1) cover 0))).fresh := by
    refine ⟨?cover, ?step⟩
    case step =>
      change execSeCommandCompletion c m.uid s = _
      simp only [execSeCommandCompletion, hm, hd, if_true, hr]
      rw [State.sampleCmd_eq]
      rfl
  obtain ⟨cover, hstep⟩ := hstep
  rw [State.modCell_eq, State.cell_finishCmd_self, State.setCell_finishCmd] at hstep
  exact ⟨_, rfl, hstep⟩

/-! ## Deadlines and holds (R87, R304, R382) -/

theorem exec_latencyDeadline_late {s : State} {c : CellId} {uid : Nat} {m : SeCmd} {p : Promise} (hm : (s.cell c).seCmd uid = some m)
    (hp : m.prom = some p) (hcls : p.cls ≠ 0) (hlate : p.deadline ≤ (s.gangOf c).tick) :
    ∃ left, exec (.latencyDeadline c uid) s = .next
      (((s.setCell c ((s.cell c).putCmd { m with prom := none })).fault c .se m.off (s.gangOf c).tick none
        (promiseFlt p true m.rel left)).request (s.gidOf c) (.command c uid)) := by
  have hgo : (decide (p.cls = 0) || decide ((s.gangOf c).tick < p.deadline)) = false := by simp [hcls, hlate]
  refine ⟨?left, ?step⟩
  case step =>
    change execLatencyDeadline c uid s = _
    simp only [execLatencyDeadline, hm, hp, hgo, Bool.false_eq_true, if_false]
    rfl

theorem State.gangOf_request_self (s : State) (c : CellId) (k : Cond) : (s.request (s.gidOf c) k).gangOf c = { s.gangOf c with
    reqs := (s.gangOf c).reqs ++ [⟨(s.gangOf c).tick + (s.gangOf c).dstall, k⟩] } :=
  State.gang_request_self s (s.gidOf c) k

/-- A broken promise takes its fault, and its gang then waits for the command too (R382). -/
theorem gangOf_latencyDeadline (s : State) (c : CellId) (uid : Nat) (m : SeCmd) (f : Flt) :
    let u := s.setCell c ((s.cell c).putCmd { m with prom := none })
    ((u.fault c .se m.off (s.gangOf c).tick none f).request (s.gidOf c) (.command c uid)).gangOf c = { s.gangOf c with
      faults := (s.gangOf c).faults ++ [u.faultRecord c .se m.off (s.gangOf c).tick none f]
      reqs := (s.gangOf c).reqs ++ [⟨(s.gangOf c).tick + (s.gangOf c).dstall, .fault s.uid⟩,
        ⟨(s.gangOf c).tick + (s.gangOf c).dstall, .command c uid⟩] } := by
  intro u
  have hgid : (u.fault c .se m.off (s.gangOf c).tick none f).gidOf c = s.gidOf c := State.gidOf_setCell s c c _ rfl
  rw [← hgid, State.gangOf_request_self, State.gangOf_fault, State.gangOf_putCmd]
  simp only [List.append_assoc, List.cons_append, List.nil_append]
  rfl

theorem exec_crdsHoldMet_read {s : State} {c : CellId} {uid : Nat} {m : SeCmd} (hm : (s.cell c).seCmd uid = some m)
    (hread : m.total ≤ m.next) :
    exec (.crdsHoldMet c uid) s = .next (s.setGang (s.gidOf c)
      { s.gangOf c with reqs := (s.gangOf c).reqs.filter fun r => decide (r.cond ≠ .crds c uid) }) := by
  change execCrdsHoldMet c uid s = _
  simp only [execCrdsHoldMet, hm, if_neg (Nat.not_lt.mpr hread), State.modGang_eq]
  rfl

/-- Settles O38: each clause is its step's lemma. -/
theorem streamStepsComplete : Obligations.StreamStepsComplete := by
  refine ⟨fun s c hpc hz => exec_seRelease_running hpc hz, fun s c uid m hm => ⟨?start, ?chunk, ?completion, ?deadline, ?hold⟩⟩
  case start =>
    intro hq hr hg
    exact exec_seCommandStart_ready hm hq hr hg
  case chunk =>
    intro us b rest hout hdone
    refine ⟨fun hno => ?plain, fun a hcnt ha hok => ?counted, fun hcnt hbad => ?stopped⟩
    case plain => exact exec_chunkPerformed_counted hm hout hdone (countBytes_of_not_counts _ hno)
    case counted =>
      rw [exec_chunkPerformed_counted hm hout hdone (countBytes_of_counts _ hcnt ha hok), State.cell_setCell_self, State.setCell_setCell]
    case stopped =>
      obtain ⟨k, hk⟩ := countBytes_illegal (if m.nref then 0 else b) hcnt hbad
      obtain ⟨hcell, p, hp⟩ := stopCmd_descFlt s c { m with out := rest } k
      exact ⟨_, p, exec_chunkPerformed_stopped hm hout hdone hk, hcell, hp⟩
  case completion =>
    intro hd
    cases hr : m.ringAdvance with
    | none =>
      refine ⟨_, exec_seCommandCompletion_plain hm hd hr, ?_⟩
      rw [State.cell_finishCmd_self]
      exact ⟨rfl, Cell.done_countDone _, fun d h => State.cell_finishCmd_ne s m _ h, fun _ => rfl, rfl, fun _ => rfl, nofun⟩
    | some loc =>
      obtain ⟨op, hop, hexec⟩ := exec_seCommandCompletion_ring hm hd hr
      refine ⟨_, hexec, ?_⟩
      rw [State.cell_fresh, State.cell_finishCmd_self]
      refine ⟨rfl, Cell.done_countDone _, fun d h => State.cell_finishCmd_ne s m _ h, fun _ => rfl, rfl, nofun, fun l hl => ⟨op, rfl, ?_⟩⟩
      rw [hop, Option.some.inj hl]
  case deadline =>
    intro p hp hcls hlate
    obtain ⟨left, hexec⟩ := exec_latencyDeadline_late hm hp hcls hlate
    have hgang := gangOf_latencyDeadline s c uid m (promiseFlt p true m.rel left)
    refine ⟨_, (s.setCell c ((s.cell c).putCmd { m with prom := none })).faultRecord c .se m.off (s.gangOf c).tick none
      (promiseFlt p true m.rel left), hexec, State.cell_setCell_self s c _, ?_, rfl, rfl, rfl, ?_⟩
    · rw [hgang]
    · rw [hgang]
      rfl
  case hold =>
    intro hread
    exact exec_crdsHoldMet_read hm hread

end Sys2Proof.Machine
end

section
/-! SUPPORT. Freezes, thaws, dispositions, windows and the log (Freeze.lean, Log.lean), one lemma for each event; they settle O40. -/

namespace Sys2Proof.Machine

/-! ## Requests ahead of need and the stop (R27, R43, R44) -/

/-- The condition of a request ahead of need. -/
def aheadCond (s : State) (c : CellId) : Ahead → Cond
  | .text off => .text c off
  | .seSpace => .seSpace c (s.releaseShort c).length
  | .crds uid => .crds c uid

theorem exec_freezeRequestAhead_new {s : State} {c : CellId} {what : Ahead} {due : Nat} (hz : (s.gangOf c).frozen = false)
    (hdue : (s.gangOf c).tick ≤ due) (hnew : ((s.gangOf c).reqs.any fun r => decide (r.cond = aheadCond s c what)) = false) :
    exec (.freezeRequestAhead c what due) s = .next (s.setGang (s.gidOf c)
      { s.gangOf c with reqs := (s.gangOf c).reqs ++ [⟨due, aheadCond s c what⟩] }) := by
  have hno : ((s.gangOf c).frozen || decide (due < (s.gangOf c).tick) ||
      (s.gangOf c).reqs.any fun r => decide (r.cond = aheadCond s c what)) = false := by
    rw [hz, hnew, decide_eq_false (Nat.not_lt.mpr hdue)]
    rfl
  cases what <;> exact congrArg Host.Outcome.next (if_neg (Bool.eq_false_iff.mp hno))

section FoldCells
variable {α : Type} (place : α → CellId) (f : α → Cell → Cell)

theorem State.setCell_cell (s : State) (c : CellId) : s.setCell c (s.cell c) = s := by
  simp [State.setCell, State.cell]

/-- Updates of cells change nothing else. -/
theorem State.rest_foldl_modCell (l : List α) (s : State) :
    { l.foldl (fun t a => t.modCell (place a) (f a)) s with cells := s.cells } = s := by
  induction l generalizing s with
  | nil => rfl
  | cons a l ih => exact congrArg (fun t : State => { t with cells := s.cells }) (ih (s.modCell (place a) (f a)))

theorem State.foldl_modCell_eq_self (l : List α) (s : State) (h : ∀ a ∈ l, f a (s.cell (place a)) = s.cell (place a)) :
    l.foldl (fun t a => t.modCell (place a) (f a)) s = s := by
  induction l with
  | nil => rfl
  | cons a l ih =>
    rw [List.foldl_cons, State.modCell_eq, h a List.mem_cons_self, State.setCell_cell]
    exact ih fun b hb => h b (List.mem_cons_of_mem a hb)

theorem State.gidOf_foldl_modCell (hf : ∀ a x, (f a x).gang = x.gang) (l : List α) (s : State) (c : CellId) :
    (l.foldl (fun t a => t.modCell (place a) (f a)) s).gidOf c = s.gidOf c := by
  induction l generalizing s with
  | nil => rfl
  | cons a l ih => exact (ih _).trans (State.gidOf_setCell s (place a) c _ (hf a _))

end FoldCells

/-- The breakpoints that are on their way out of a cell's table leave it at a stop (R218). -/
def Cell.dropBrks (z : Cell) : Cell := { z with sq := { z.sq with
  brk := Vector.ofFn fun (i : Fin 8) => if z.sq.brkGone.getLsbD i.val then none else z.sq.brk[i]
  brkGone := 0 } }

theorem Cell.dropBrks_eq_self {z : Cell} (h : z.sq.brkGone = 0) : z.dropBrks = z := by
  have hbrk : (Vector.ofFn fun (i : Fin 8) => if z.sq.brkGone.getLsbD i.val then none else z.sq.brk[i]) = z.sq.brk := by
    ext i hi : 1
    simp [h]
  rw [Cell.dropBrks, hbrk, ← h]

/-- A gang that stops: its cells' breakpoint tables, and the stop with its wall time. -/
def State.stopGang (s : State) (g : GangId) : State :=
  ((s.gang g).cells.foldl (fun u c => u.modCell c Cell.dropBrks) s).setGang g { s.gang g with frozen := true, frozenAt := s.wall }

theorem State.gang_stopGang (s : State) (g : GangId) : (s.stopGang g).gang g = { s.gang g with frozen := true, frozenAt := s.wall } :=
  State.gang_setGang_self _ g _

theorem State.rest_stopGang (s : State) (g : GangId) : { s.stopGang g with cells := s.cells, gangs := s.gangs } = s :=
  congrArg (fun t : State => { t with gangs := s.gangs }) (State.rest_foldl_modCell id (fun _ => Cell.dropBrks) (s.gang g).cells s)

/-- A stop writes nothing to the log. -/
theorem State.log_stopGang (s : State) (g : GangId) :
    (s.stopGang g).log = s.log ∧ (s.stopGang g).logSeq = s.logSeq ∧ (s.stopGang g).drop = s.drop := by
  have hlog := congrArg (fun t : State => (t.log, t.logSeq, t.drop)) (State.rest_stopGang s g)
  simpa only [Prod.mk.injEq] using hlog

/-- The stop as the model writes it: its gang is read after the cells' updates, which leave it alone. -/
theorem State.stopGang_eq (s : State) (g : GangId) :
    State.modGang ((s.gang g).cells.foldl (fun u c => u.modCell c Cell.dropBrks) s) g
      (fun y => { y with frozen := true, frozenAt := s.wall }) = s.stopGang g := by
  have hgang : State.gang ((s.gang g).cells.foldl (fun u c => u.modCell c Cell.dropBrks) s) g = s.gang g :=
    State.gang_foldl_modCell id (fun _ => Cell.dropBrks) _ s g
  rw [State.modGang_eq, hgang]
  rfl

/-- A running gang with a due request stops, and what follows depends on its due faults alone (R43, R354). -/
theorem exec_freezeBegin_due {s : State} {g : GangId} (hz : (s.gang g).frozen = false) (hr : (s.gang g).runs = true)
    (hq : (s.gang g).dueReqs ≠ []) :
    exec (.freezeBegin g) s = .next (
      if (s.gang g).dueFaults = [] then s.stopGang g
      else if (s.gang g).debugged (s.gang g).dueFaults then (s.stopGang g).writeFaults g (s.gang g).dueFaults 1 5
      else if s.remoteHost && (s.gang g).dueFaults.any (fun p => p.mode = 2) then (s.stopGang g).forward g
      else if (s.gang g).dueFaults.any (fun p => p.mode ≠ 0) then s.stopGang g
      else (s.stopGang g).hardwareFate g) := by
  have hgo : ((s.gang g).frozen || !(s.gang g).runs || decide ((s.gang g).dueReqs = [])) = false := by simp [hz, hr, hq]
  rw [← State.stopGang_eq]
  exact congrArg Host.Outcome.next (if_neg (Bool.eq_false_iff.mp hgo))

theorem Gang.dueReqs_ne_nil {x : Gang} {r : Req} (hr : r ∈ x.reqs) (hd : r.due ≤ x.tick) : x.dueReqs ≠ [] :=
  List.ne_nil_of_mem (List.mem_filter.mpr ⟨hr, decide_eq_true hd⟩)

/-! ## Records of the log (R345, R350) -/

/-- With room in the log a record that is not device-fatal enters it. -/
theorem State.writeRecord_room {s : State} {r : ErrRec} (hroom : s.log.length < 65280) (hsev : r.sev ≠ 3) :
    s.writeRecord r = State.emit (.record none s.logSeq (s.recordBits r))
      { s with log := s.log ++ [⟨s.logSeq, s.recordBits r, false⟩], logSeq := s.logSeq + 1, drop := 0 } := by
  have hfree : 256 < logSize - s.log.length := by simp only [logSize]; omega
  have hkeep : (decide (r.sev = 0) && decide (logSize - s.log.length < 256)) = false := by
    rw [decide_eq_false (by omega : ¬ logSize - s.log.length < 256), Bool.and_false]
  have hnz : ¬ logSize - s.log.length = 0 := by omega
  simp only [State.writeRecord, hkeep, Bool.false_eq_true, if_false, if_neg hnz, if_neg hsev, State.enterLog, decide_eq_false hsev]

theorem State.gang_writeRecord_room {s : State} {r : ErrRec} (hroom : s.log.length < 65280) (hsev : r.sev ≠ 3) (g : GangId) :
    (s.writeRecord r).gang g = s.gang g := by
  rw [State.writeRecord_room hroom hsev]
  rfl

/-! ## Faults that kill or save (R345, R352) -/

/-- A fault once its record has the number. -/
def PFault.recorded (p : PFault) (seq : Nat) : PFault := { p with written := true, recSeq := seq }

theorem State.writeFaults_single {s : State} {g : GangId} {p : PFault} (sev disp : Nat) (hw : p.written = false) :
    s.writeFaults g [p] sev disp = (s.writeRecord (s.faultRec p sev disp)).modGang g fun y =>
      { y with faults := y.faults.map fun q => if q.id = p.id then q.recorded s.logSeq else q } := by
  simp only [State.writeFaults, List.foldl_cons, List.foldl_nil, State.writeFault, hw, Bool.false_eq_true, if_false]
  rfl

/-- The one fault of a gang recorded, field by field. -/
theorem State.writeFaults_stopped {s : State} {g : GangId} {p : PFault} {sev disp : Nat} (hw : p.written = false)
    (hf : (s.gang g).faults = [p]) (hroom : s.log.length < 65280) (hsev : sev ≠ 3) :
    (s.writeFaults g [p] sev disp).log =
      s.log ++ [⟨s.logSeq, (s.faultRec p sev disp).bits p.tns s.drop s.logSeq, false⟩] ∧
    (s.writeFaults g [p] sev disp).gang g = { s.gang g with faults := [p.recorded s.logSeq] } := by
  have hgang : (s.writeRecord (s.faultRec p sev disp)).gang g = s.gang g := State.gang_writeRecord_room hroom hsev g
  rw [State.writeFaults_single sev disp hw, State.modGang_eq, State.gang_setGang_self, hgang, State.setGang_log,
    State.writeRecord_room hroom hsev, hf, List.map_singleton, if_pos rfl]
  exact ⟨rfl, rfl⟩

theorem State.killForFaults_stopped {s : State} {g : GangId} {p : PFault} (hw : p.written = false) (hf : (s.gang g).faults = [p])
    (hroom : s.log.length < 65280) :
    (s.killForFaults g).log = s.log ++ [⟨s.logSeq, (s.faultRec p 2 4).bits p.tns s.drop s.logSeq, false⟩] ∧
    (s.killForFaults g).gang g = { s.gang g with
      faults := [p.recorded s.logSeq], reqs := (s.gang g).reqs ++ [⟨(s.gang g).tick, .kill s.logSeq⟩] } := by
  obtain ⟨hlog, hgang⟩ := State.writeFaults_stopped (sev := 2) (disp := 4) hw hf hroom (by decide)
  have hseq : ((((s.gang g).faults.find? (·.written)).map (·.recSeq)).getD s.logSeq) = s.logSeq := by
    simp [hf, hw]
  simp only [State.killForFaults, hseq]
  rw [hf, State.modGang_eq]
  refine ⟨hlog, ?_⟩
  rw [State.gang_setGang_self, hgang]

section StoppedAt
variable {s : State} {g : GangId} {p : PFault} (h : StoppedAt s g p)
include h

theorem StoppedAt.dueReqs : (s.gang g).dueReqs = [⟨(s.gang g).tick, .fault p.id⟩] := by
  simp [Gang.dueReqs, h.due]

theorem StoppedAt.dueFaults : (s.gang g).dueFaults = [p] := by
  simp [Gang.dueFaults, h.dueReqs, h.fault]

theorem StoppedAt.not_debugged : (s.gang g).debugged [p] = false := by
  simp [Gang.debugged, h.free]

theorem StoppedAt.killSeq : (s.gang g).killSeq = none := by
  simp [Gang.killSeq, h.due]

end StoppedAt

/-- A stop leaves what a fault's record says of its cell (R347). -/
theorem State.faultRec_stopGang (s : State) (g : GangId) (p : PFault) (sev disp : Nat) :
    (s.stopGang g).faultRec p sev disp = s.faultRec p sev disp := by
  have hgid : (s.stopGang g).gidOf p.cell = s.gidOf p.cell :=
    State.gidOf_foldl_modCell id (fun _ => Cell.dropBrks) (fun _ _ => rfl) (s.gang g).cells s p.cell
  have hasid : ((s.stopGang g).gangOf p.cell).asid = (s.gangOf p.cell).asid := by
    rw [State.gangOf, hgid]
    by_cases hg : s.gidOf p.cell = g
    · rw [State.gangOf, hg, State.gang_stopGang]
    · rw [State.stopGang, State.gang_setGang_ne _ _ (Ne.symm hg)]
      exact congrArg Gang.asid (State.gang_foldl_modCell id (fun _ => Cell.dropBrks) _ s _)
  simp only [State.faultRec, hasid]

/-- A fatal fault in hardware mode: the stop, its record, and the kill (R345, R352). -/
theorem exec_freezeBegin_fatal {s : State} {g : GangId} {p : PFault} (h : StoppedAt s g p) (hz : (s.gang g).frozen = false)
    (hcls : p.cls ≠ 0x0F) (hmode : p.mode = 0) :
    exec (.freezeBegin g) s = .next ((s.stopGang g).killForFaults g) := by
  have hdue : ((s.stopGang g).gang g).dueFaults = [p] := by
    rw [State.gang_stopGang]
    exact h.dueFaults
  have hfate : (s.stopGang g).hardwareFate g = (s.stopGang g).killForFaults g := by
    have hfaults : ((s.stopGang g).gang g).faults = [p] := by
      rw [State.gang_stopGang]
      exact h.fault
    simp [State.hardwareFate, hdue, hfaults, hcls]
  have hq : (s.gang g).dueReqs ≠ [] := by simp [h.dueReqs]
  rw [exec_freezeBegin_due hz h.runs hq, h.dueFaults, h.not_debugged, hfate]
  simp [hmode]

/-! ## The thaw (R43, R194) -/

/-- A state that differs in its monitors and in the time its cells have waited for text alone. -/
structure State.Noted (s t : State) : Prop where
  rest : { t with cells := s.cells, monitors := s.monitors } = s
  cells : ∀ c, { t.cell c with sq := { (t.cell c).sq with textWait := (s.cell c).sq.textWait } } = s.cell c

theorem State.Noted.refl (s : State) : s.Noted s := ⟨rfl, fun _ => rfl⟩

theorem State.Noted.sample {s t : State} (h : s.Noted t) (src : Nat) (c : CellId) (asid : BitVec 10) (v : Nat) :
    s.Noted (t.sample src c asid v) := ⟨h.rest, h.cells⟩

/-- A cell notes more time that it has waited for text. -/
def Cell.waitText (d : Nat) (y : Cell) : Cell := { y with sq := { y.sq with textWait := y.sq.textWait + d } }

theorem State.Noted.waitText {s t : State} (h : s.Noted t) (c : CellId) (d : Nat) : s.Noted (t.modCell c (Cell.waitText d)) where
  rest := h.rest
  cells e := by
    rw [State.modCell_eq, State.cell_setCell]
    split
    next hc => exact hc ▸ h.cells c
    next => exact h.cells e

theorem State.noted_sampleFreeze (s : State) (x : Gang) : s.Noted (s.sampleFreeze x) := by
  refine List.foldlRecOn x.cells _ (motive := s.Noted) (State.Noted.refl s) fun t ht c _ => ?_
  have hsample : s.Noted (t.sample 2 c x.asid (nsOf (s.wall - x.frozenAt))) := ht.sample _ _ _ _
  dsimp only
  split
  · exact hsample.waitText c _
  · exact hsample

theorem State.Noted.gang {s t : State} (h : s.Noted t) (g : GangId) : t.gang g = s.gang g := by
  have hgang := congrArg (fun u : State => u.gang g) h.rest
  exact hgang

/-- A gang whose due conditions are met runs on, its past requests gone (R43). -/
theorem exec_thaw_met {s : State} {g : GangId} (hz : (s.gang g).frozen = true)
    (hst : (s.gang g).status = .running ∨ (s.gang g).status = .ending) (hwall : (s.gang g).frozenAt < s.wall)
    (hw : (s.gang g).writes = []) (hmet : ∀ r ∈ (s.gang g).reqs, r.due ≤ (s.gang g).tick → s.met r.cond = true) :
    exec (.thaw g) s = .next ((s.sampleFreeze (s.gang g)).setGang g { s.gang g with
      frozen := false, reqs := (s.gang g).reqs.filter fun r => decide ((s.gang g).tick < r.due) }) := by
  have hstatus : ((s.gang g).status = .running || (s.gang g).status = .ending) = true := by simpa using hst
  have hall : (s.gang g).dueReqs.all (s.metFor (s.gang g)) = true := by
    refine List.all_eq_true.mpr fun r hr => ?_
    obtain ⟨hmem, hdue⟩ := List.mem_filter.mp hr
    rw [State.metFor, hmet r hmem (of_decide_eq_true hdue), Bool.true_or]
  have hgang := (State.noted_sampleFreeze s (s.gang g)).gang g
  change execThaw g s = _
  simp only [execThaw, hz, hstatus, decide_eq_true hwall, hall, Bool.and_self, if_true, hw, List.foldl_nil, State.modGang_eq, hgang]

/-! ## Dispositions and forwarded requests (R191, R352) -/

theorem StoppedAt.choice {s : State} {g : GangId} {p : PFault} (h : StoppedAt s g p) (hmode : p.mode ≠ 0) {d : Choice}
    (hd : d ≠ .resume) : choiceFor (s.gang g) d = d := by
  have hmode' : ([p].all fun p => p.mode = 0 && !p.again) = false := by simp [hmode]
  simp only [choiceFor, h.dueFaults, h.not_debugged, hmode', Bool.false_eq_true, if_false]

/-- The state whose gang's request is no longer the remote host's (R191). -/
def State.answered (s : State) (g : GangId) : State := { s with forwards := s.forwards.filter fun e => decide (e.1 ≠ g) }

theorem exec_faultDisposition_chosen {s : State} {g : GangId} {p : PFault} (h : StoppedAt s g p) (hz : (s.gang g).frozen = true)
    (hmode : p.mode ≠ 0) {d : Choice} (hd : d ≠ .resume) : exec (.faultDisposition g d) s = .next ((s.answered g).dispose g d) := by
  have hgo : ((s.gang g).frozen && (s.gang g).runs && (s.gang g).killSeq.isNone && decide ((s.gang g).dueFaults ≠ [])) = true := by
    simp [hz, h.runs, h.killSeq, h.dueFaults]
  change execFaultDisposition g d s = _
  simp only [execFaultDisposition, hgo, if_true, h.choice hmode hd]
  rfl

theorem State.gang_saveHere {s : State} {g : GangId} (why : SaveCause) (h : (s.gang g).saveFor = none) :
    (s.saveHere g why).gang g = { s.gang g with
      saveFor := some why, reqs := (s.gang g).reqs ++ [⟨(s.gang g).tick, .preempt⟩] } := by
  rw [State.saveHere, State.modGang_eq, State.gang_setGang_self, h]
  rfl

theorem exec_forwardingTimeout_late {s : State} {g : GangId} {e : GangId × Nat} (he : (s.forwards.find? fun x => decide (x.1 = g)) = some e)
    (hlate : e.2 ≤ s.wall) : exec (.forwardingTimeout g) s = .next ((s.answered g).emit (.notified g)) := by
  change execForwardingTimeout g s = _
  simp only [execForwardingTimeout, he, if_neg (Nat.not_lt.mpr hlate)]
  rfl

/-! ## Delivery (R350, R351) -/

theorem State.sendRecord_eq (s : State) (seq : Nat) (b : RecordBits) : s.sendRecord seq b =
    { s with outbox := s.outbox ++ (s.sessions.filter fun x => x.takes b).map fun x => .record (some x.id) seq b } := by
  have hfold (l : List Session) (u : State) :
      l.foldl (fun u x => if x.takes b then u.emit (.record (some x.id) seq b) else u) u =
        { u with outbox := u.outbox ++ (l.filter fun x => x.takes b).map fun x => .record (some x.id) seq b } := by
    induction l generalizing u with
    | nil => simp
    | cons x l ih =>
      rw [List.foldl_cons, ih]
      cases hx : x.takes b <;> simp [State.emit, hx]
  exact hfold s.sessions s

theorem exec_recordDelivery_pending {s : State} {seq : Nat} {r : LogRec} (hr : (s.log.find? fun e => decide (e.seq = seq)) = some r)
    (hd : r.delivered = false) (hst : s.staged = []) :
    exec (.recordDelivery seq) s =
      .next (State.sendRecord { s with log := s.log.filter fun e => decide (e.seq ≠ seq) } seq r.bits) := by
  change execRecordDelivery seq s = _
  simp only [execRecordDelivery, hr, hd, Bool.false_eq_true, if_false, State.sendRecord_eq, hst]

/-! ## Windows (R362, R363) -/

/-- The first error of an open window is recorded, and its replay freeze requested. -/
theorem exec_windowReplay_first {s : State} {c : CellId} {w : Window} (hw : (s.cell c).me.win = some w) (hf : w.failed = 0)
    (he : w.err = none) :
    exec (.windowReplay c) s = .next (((s.writeRecord (windowRec s c w 0x21 1 0)).setWin c
      { w with failed := 1, err := some (s.winErr c) }).request (s.gidOf c) (.replay c)) := by
  have hsame : { w with err := none } = w := by rw [← he]
  have hne : ¬ w.failed = 1 := by omega
  change execWindowReplay c s = _
  simp only [execWindowReplay, hw, if_neg hne, State.windowError, if_pos hf, hsame]

theorem gangOf_windowReplay (s : State) (c : CellId) (w : Window) :
    ((s.setWin c w).request (s.gidOf c) (.replay c)).gangOf c = { s.gangOf c with
      reqs := (s.gangOf c).reqs ++ [⟨(s.gangOf c).tick + (s.gangOf c).dstall, .replay c⟩] } := by
  have hgid : (s.setWin c w).gidOf c = s.gidOf c := State.gidOf_setCell s c c _ rfl
  rw [← hgid, State.gangOf_request_self]
  rw [State.gangOf, hgid]
  rfl

/-- A state that differs in its cells alone. -/
def State.OnlyCells (s t : State) : Prop := { t with cells := s.cells } = s

theorem State.OnlyCells.refl (s : State) : s.OnlyCells s := rfl

theorem State.OnlyCells.modCell {s t : State} (h : s.OnlyCells t) (c : CellId) (f : Cell → Cell) : s.OnlyCells (t.modCell c f) := h

theorem State.OnlyCells.foldl {α : Type} {s t : State} {f : State → α → State} (h : s.OnlyCells t) (l : List α)
    (hf : ∀ u a, s.OnlyCells u → s.OnlyCells (f u a)) : s.OnlyCells (l.foldl f t) :=
  List.foldlRecOn l f (motive := s.OnlyCells) h fun u hu a _ => hf u a hu

theorem State.OnlyCells.replayPass {s t : State} (h : s.OnlyCells t) (c : CellId) (slot : Fin 16) (o : MeOp) :
    s.OnlyCells (replayPass c slot t o) := by
  unfold Machine.replayPass
  extract_lets o1 nan
  have hnan (u : State) (hu : s.OnlyCells u) : s.OnlyCells (nan u) := by
    unfold nan
    split
    · exact hu.modCell c _
    · exact hu
  refine hnan _ (h.foldl _ fun u i hu => ?_)
  split
  · exact hu
  · exact hu.foldl _ fun v p hv => hv.modCell c _

/-- A replay changes cells alone: the base, each retained pass and the latches are updates of them. -/
theorem State.onlyCells_rebuildWindow (s : State) (c : CellId) (w : Window) (slot : Fin 16) : s.OnlyCells (rebuildWindow c w slot s) := by
  have hbase (u : State) (hu : s.OnlyCells u) : s.OnlyCells (windowBase c w slot u) := hu.modCell c _
  have hheld (u : State) (hu : s.OnlyCells u) : s.OnlyCells (reloadHeld c u) := hu.modCell c _
  refine hheld _ ((hbase _ ((State.OnlyCells.refl s).modCell c _)).foldl _ fun u o hu => ?_)
  exact hu.replayPass c slot o

/-- Under its freeze the window is replayed, and then recorded (R363). -/
theorem exec_windowReplay_frozen {s : State} {c : CellId} {w : Window} {slot : Fin 16} (hw : (s.cell c).me.win = some w)
    (hf : w.failed = 1) (hz : (s.gangOf c).frozen = true) (hk : (s.gangOf c).killSeq = none)
    (hr : ⟨(s.gangOf c).tick, .replay c⟩ ∈ (s.gangOf c).reqs) (hs : (s.cell c).cr.slotOf w.key = some slot) :
    exec (.windowReplay c) s =
      .next (((rebuildWindow c w slot s).setWin c { w with failed := 2 }).writeRecord (windowRec s c w 0x22 1 2)) := by
  have hdue : ((s.gangOf c).dueReqs.any fun r => decide (r.cond = .replay c)) = true :=
    List.any_eq_true.mpr ⟨_, List.mem_filter.mpr ⟨hr, decide_eq_true (Nat.le_refl _)⟩, decide_eq_true rfl⟩
  change execWindowReplay c s = _
  unfold State.gangOf at hz hk hdue
  simp only [execWindowReplay, hw, if_pos hf, hs, hz, hk, hdue, Bool.not_true, Option.isSome_none, Bool.or_self, Bool.false_eq_true,
    if_false]

/-- The record of a window, as the log holds it (R350). -/
def windowLog (s : State) (c : CellId) (w : Window) (cls sev disp : Nat) : LogRec :=
  ⟨s.logSeq, (windowRec s c w cls sev disp).bits ((w.err.map (·.tns)).getD (s.clock.time.extractLsb' 16 64)) s.drop s.logSeq, false⟩

/-- A window's record written in a state that differs in its cells alone. -/
theorem State.OnlyCells.windowLog {s t : State} (h : s.OnlyCells t) (hroom : s.log.length < 65280) (c : CellId) (w : Window)
    {cls sev disp : Nat} (hsev : sev ≠ 3) :
    (t.writeRecord (windowRec s c w cls sev disp)).log = s.log ++ [windowLog s c w cls sev disp] ∧
    (t.writeRecord (windowRec s c w cls sev disp)).cells = t.cells ∧ (t.writeRecord (windowRec s c w cls sev disp)).gangs = s.gangs := by
  obtain ⟨cells, rfl⟩ : ∃ cells, t = { s with cells := cells } := ⟨t.cells, by rw [← h]⟩
  rw [State.writeRecord_room (s := { s with cells := cells }) hroom hsev]
  exact ⟨rfl, rfl, rfl⟩

/-- Settles O40: each clause is its event's lemma; a disposition and the stop of a fatal fault go through the records of faults. -/
theorem freezeEventsComplete : Obligations.FreezeEventsComplete := by
  refine ⟨?ahead, ?stop, ?fatal, ?thaw, ?disposition, ?timeout, ?window, ?delivery⟩
  case ahead =>
    intro s c what due k hz hdue hk hnew
    obtain rfl : k = aheadCond s c what := by cases what <;> exact hk
    exact exec_freezeRequestAhead_new hz hdue hnew
  case stop =>
    intro s g r hz hr hmem hdue hf hbrk
    have hnone : (s.gang g).dueFaults = [] := by rw [Gang.dueFaults, hf]; rfl
    have hcells : (s.gang g).cells.foldl (fun u c => u.modCell c Cell.dropBrks) s = s :=
      State.foldl_modCell_eq_self id (fun _ => Cell.dropBrks) _ s fun c hc => Cell.dropBrks_eq_self (hbrk c hc)
    rw [exec_freezeBegin_due hz hr (Gang.dueReqs_ne_nil hmem hdue), if_pos hnone, State.stopGang, hcells]
  case fatal =>
    intro s g p h hz hcls hmode
    obtain ⟨hlog, hseq, hdrop⟩ := State.log_stopGang s g
    obtain ⟨hk, hg⟩ := State.killForFaults_stopped (s := s.stopGang g) (g := g) h.fresh
      (by rw [State.gang_stopGang]; exact h.fault) (by rw [hlog]; exact h.room)
    rw [hlog, hseq, hdrop, State.faultRec_stopGang] at hk
    rw [hseq, State.gang_stopGang] at hg
    refine ⟨_, exec_freezeBegin_fatal h hz hcls hmode, hk, ?_, ?_⟩
    · rw [hg]
    · rw [hg]
      exact congrArg (· ++ _) h.due
  case thaw =>
    intro s g hz hst hwall hw hmet
    have hn := State.noted_sampleFreeze s (s.gang g)
    refine ⟨_, exec_thaw_met hz hst hwall hw hmet, State.gang_setGang_self _ g _, fun k hk => ?_, ?_, hn.cells⟩
    · rw [State.gang_setGang_ne _ _ (Ne.symm hk), hn.gang]
    · exact congrArg (fun u : State => { u with gangs := s.gangs }) hn.rest
  case disposition =>
    intro s g p h hz hmode
    refine ⟨?kill, fun hsave => ?preempt⟩
    case kill =>
      obtain ⟨hk, hg⟩ := State.killForFaults_stopped (s := s.answered g) (g := g) h.fresh h.fault h.room
      refine ⟨_, exec_faultDisposition_chosen h hz hmode (d := .kill) nofun, hk, ?_, ?_⟩
      · rw [State.dispose, hg]
        exact hz
      · rw [State.dispose, hg]
        exact congrArg (· ++ _) h.due
    case preempt =>
      obtain ⟨hk, hg⟩ := State.writeFaults_stopped (s := s.answered g) (g := g) (sev := 1) (disp := 3) h.fresh h.fault h.room (by decide)
      have hdue : ((s.answered g).gang g).dueFaults = [p] := h.dueFaults
      have hsave' : (((s.answered g).writeFaults g [p] 1 3).gang g).saveFor = none := by rw [hg]; exact hsave
      have hgang := State.gang_saveHere .firmware hsave'
      rw [hg] at hgang
      refine ⟨_, exec_faultDisposition_chosen h hz hmode (d := .preempt) nofun, ?_⟩
      simp only [State.dispose, hdue]
      refine ⟨hk, ?_, ?_, ?_⟩
      · rw [hgang]
        exact hz
      · rw [hgang]
      · rw [hgang]
        exact congrArg (· ++ _) h.due
  case timeout =>
    intro s g e he hlate
    exact exec_forwardingTimeout_late he hlate
  case window =>
    intro s c w hw hroom rec_
    refine ⟨fun hf he => ?first, fun hf hz hk hr hs => ?frozen⟩
    case first =>
      obtain ⟨hlog, hcells, hgangs⟩ := (State.OnlyCells.refl s).windowLog hroom c w (cls := 0x21) (sev := 1) (disp := 0) (by decide)
      refine ⟨_, exec_windowReplay_first hw hf he, hlog, ?_, ?_⟩
      · exact congrArg (·.me.win) (State.cell_setCell_self _ c _)
      · have hgid : (s.writeRecord (windowRec s c w 0x21 1 0)).gidOf c = s.gidOf c := by
          rw [State.gidOf, State.cell, hcells]
          rfl
        have hgang : (s.writeRecord (windowRec s c w 0x21 1 0)).gangOf c = s.gangOf c := by
          rw [State.gangOf, hgid, State.gang, hgangs]
          rfl
        rw [← hgid, gangOf_windowReplay, hgang]
    case frozen =>
      obtain ⟨slot, hslot⟩ := Option.ne_none_iff_exists'.mp hs
      have honly : s.OnlyCells ((rebuildWindow c w slot s).setWin c { w with failed := 2 }) :=
        (State.onlyCells_rebuildWindow s c w slot).modCell c _
      obtain ⟨hlog, hcells, hgangs⟩ := honly.windowLog hroom c w (cls := 0x22) (sev := 1) (disp := 2) (by decide)
      refine ⟨_, exec_windowReplay_frozen hw hf hz hk hr hslot, hlog, ?_, hgangs⟩
      rw [State.cell, hcells]
      exact congrArg (·.me.win) (State.cell_setCell_self (rebuildWindow c w slot s) c _)
  case delivery =>
    intro s seq r hr hd hst
    refine ⟨_, exec_recordDelivery_pending hr hd hst, ?_⟩
    rw [State.sendRecord_eq]
    exact ⟨rfl, rfl⟩

end Sys2Proof.Machine
end

section
/-! SUPPORT. The scheduler's events (Sched.lean), one lemma for each; they settle O43. -/

namespace Sys2Proof.Machine

/-! ## Updates of several cells, of which some may be named twice -/

/-- Where an update of a cell made twice is the update made once, the cells that a list names are updated and the others stand. -/
theorem State.cell_foldl_modCell_idem {f : CellId → Cell → Cell} (hf : ∀ c x, f c (f c x) = f c x) (l : List CellId) (s : State) (c : CellId) :
    (l.foldl (fun t d => t.modCell d (f d)) s).cell c = if c ∈ l then f c (s.cell c) else s.cell c := by
  induction l generalizing s with
  | nil => rfl
  | cons d l ih =>
    rw [List.foldl_cons, ih, State.modCell_eq, State.cell_setCell]
    by_cases hd : d = c
    · subst hd
      by_cases hl : d ∈ l <;> simp [hl, hf]
    · simp [hd, Ne.symm hd]

/-! ## A gang's cells become free (R17, R150) -/

theorem State.cell_addBallast (s : State) (cells : List CellId) (avg : Nat) (c : CellId) :
    (s.addBallast cells avg).cell c = s.cell c := by
  unfold State.addBallast
  split <;> rfl

theorem State.gang_addBallast (s : State) (cells : List CellId) (avg : Nat) (g : GangId) :
    (s.addBallast cells avg).gang g = s.gang g := by
  unfold State.addBallast
  split <;> rfl

theorem State.rest_addBallast (s : State) (cells : List CellId) (avg : Nat) :
    { s.addBallast cells avg with power := s.power } = s := by
  unfold State.addBallast
  split <;> rfl

theorem State.cell_freeGang (s : State) (g : GangId) (c : CellId) :
    (s.freeGang g).cell c = if c ∈ (s.gang g).cells then (s.cell c).leave (s.gang g) else s.cell c := by
  have h := State.cell_foldl_modCell_idem (f := fun _ x => x.leave (s.gang g)) (fun _ x => by
    unfold Cell.leave; split <;> rfl) (s.gang g).cells s.noteLoad c
  unfold State.freeGang
  extract_lets x q n t u v
  split
  · rw [State.cell_addBallast]
    exact h
  · exact h

theorem State.gang_freeGang_self (s : State) (g : GangId) : (s.freeGang g).gang g = Gang.reset := by
  unfold State.freeGang
  extract_lets x q n t u v
  split
  · rw [State.gang_addBallast]
    exact State.gang_setGang_self _ g _
  · exact State.gang_setGang_self _ g _

/-- What a gang that gives its cells back leaves as it was. -/
theorem State.rest_freeGang (s : State) (g : GangId) :
    { s.freeGang g with cells := s.cells, gangs := s.gangs, queues := s.queues, kept := s.kept, forwards := s.forwards,
                        moved := s.moved, power := s.power } = s := by
  have h := congrArg (fun t : State => { t with gangs := s.gangs, queues := s.queues, kept := s.kept, forwards := s.forwards,
                                                moved := s.moved, power := s.power })
    (State.rest_foldl_modCell (place := fun c => c) (f := fun _ x => x.leave (s.gang g)) (s.gang g).cells s.noteLoad)
  generalize ht : s.freeGang g = t
  unfold State.freeGang at ht
  extract_lets x q n r u y v at ht
  split at ht <;> subst ht
  · exact (congrArg (fun t : State => { t with cells := s.cells, gangs := s.gangs, queues := s.queues, kept := s.kept,
                                               forwards := s.forwards, moved := s.moved, power := s.power })
      (v.rest_addBallast x.cells x.avg)).trans h
  · exact h

theorem State.graphs_freeGang (s : State) (g : GangId) : (s.freeGang g).graphs = s.graphs := by
  have h := congrArg State.graphs (s.rest_freeGang g)
  exact h

theorem State.byte_freeGang (s : State) (g : GangId) (a : Nat) : (s.freeGang g).byte a = s.byte a := by
  have h := congrArg (fun t : State => t.byte a) (s.rest_freeGang g)
  exact h

theorem Cell.freed_leave (x : Cell) {g : Gang} (h : g.runs = true) : Freed x (x.leave g) g.asid := by
  unfold Cell.leave
  rw [if_pos h]
  exact ⟨rfl, rfl, rfl, rfl, rfl, rfl⟩

/-! ## Completion (R32, R148) -/

theorem State.nodeAt_modNode (s : State) (h i : Nat) (f : Node → Node) :
    (s.modNode h i f).nodeAt h i = (s.nodeAt h i).map f := by
  unfold State.nodeAt State.modNode
  rw [List.find?_map]
  have hp : ((fun x : Graph => decide (x.handle = h)) ∘ fun x : Graph =>
      if x.handle = h then { x with nodes := x.nodes.modify i f } else x) = fun x => decide (x.handle = h) := by
    funext x
    by_cases hx : x.handle = h <;> simp [hx]
  rw [hp]
  cases hg : s.graphs.find? fun x => decide (x.handle = h) with
  | none => rfl
  | some x =>
    have hx : x.handle = h := by simpa using List.find?_some hg
    simp [hx]

theorem State.runs_of_taskDone {s : State} {g : GangId} (h : s.taskDone g = true) : (s.gang g).runs = true := by
  have hst : (s.gang g).status = .ending := by
    simp only [State.taskDone, Bool.and_eq_true, decide_eq_true_eq] at h
    tauto
  rw [Gang.runs, Gang.holdsCells, hst]
  rfl

theorem exec_tileTaskComplete {s : State} {g : GangId} (h : s.taskDone g = true) :
    let x := s.gang g
    let count (n : Node) : Node := { n with doneCount := n.doneCount + 1, completing := decide (n.doneCount + 1 = n.total), mark := s.uid }
    ∃ t, exec (.tileTaskComplete g) s = .next t ∧ (t.gang g).status = .idle ∧
      (∀ c ∈ x.cells, Freed (s.cell c) (t.cell c) x.asid) ∧ (∀ c, c ∉ x.cells → t.cell c = s.cell c) ∧
      t.nodeAt x.graph x.node = (s.nodeAt x.graph x.node).map count ∧ ∀ a, t.byte a = s.byte a := by
  intro x count
  let m := (s.modNode x.graph x.node count).dropImage x.image
  let u : State := { m with chans := m.chans.filter fun (h : Chan) => decide (h.gang ≠ g) || h.img.isSome }
  have he : execTileTaskComplete g s = .next (u.freeGang g) := by
    rw [execTileTaskComplete, if_pos h]
  refine ⟨u.freeGang g, he, ?_, fun c hc => ?_, fun c hc => ?_, ?_, fun a => ?_⟩
  · rw [State.gang_freeGang_self]
    rfl
  · rw [State.cell_freeGang]
    exact (if_pos hc).symm ▸ Cell.freed_leave _ (State.runs_of_taskDone h)
  · rw [State.cell_freeGang]
    exact if_neg hc
  · rw [State.nodeAt, State.graphs_freeGang]
    exact s.nodeAt_modNode x.graph x.node count
  · exact State.byte_freeGang u g a

/-- A node without successors that completes: it is done, and its event is given where it has one. -/
theorem State.finishNode_leaf (s : State) (graph node : Nat) {n : Node} (h : n.succ = []) :
    s.finishNode graph node n =
      { s.modNode graph node fun k => { k with done := true } with
        outbox := s.outbox ++ (if n.even then [.nodeEvent graph node n.evcode] else []) } := by
  unfold State.finishNode
  rw [h, List.foldl_nil]
  cases n.even with
  | true => rfl
  | false => simp only [Bool.false_eq_true, if_false, List.append_nil]; rfl

theorem exec_nodeCompletion {s : State} {h : Graph} {i : Nat} {n : Node}
    (hg : (s.graphs.find? fun g => decide (g.handle = h.handle)) = some h) (hn : h.nodes[i]? = some n) (hc : n.completing = true)
    (hd : n.done = false) (hs : n.sent = none) (hr : s.released n = true) (ha : n.awen = false) (hsucc : n.succ = []) :
    ∃ t, exec (.nodeCompletion h.handle i) s = .next t ∧ t.nodeAt h.handle i = some { n with done := true } ∧
      t.outbox = s.outbox ++ (if n.even then [.nodeEvent h.handle i n.evcode] else []) ∧ ∀ a, t.byte a = s.byte a := by
  have hat : s.nodeAt h.handle i = some n := by
    rw [State.nodeAt, hg]
    exact hn
  have hcount : s.nodeCount h i n = some (s, none) := by
    rw [State.nodeCount, ha]
    rfl
  refine ⟨s.finishNode h.handle i n, ?_, ?_, ?_, fun a => ?_⟩
  · change execNodeCompletion h.handle i s = _
    simp [execNodeCompletion, hg, hat, hc, hd, hr, hs, hcount]
  all_goals rw [State.finishNode_leaf s _ _ hsucc]
  · exact (s.nodeAt_modNode h.handle i _).trans (congrArg (Option.map _) hat)
  · rfl

/-! ## Submission (R146) -/

/-- Nodes of a graph that are not empty join the ready lists of their queues, and nothing else changes. -/
theorem State.foldl_makeReady {h : Nat} {g : Graph} (hn : ∀ n ∈ g.nodes, n.total ≠ 0) (l : List Nat) (s : State)
    (hg : (s.graphs.find? fun x => decide (x.handle = h)) = some g) :
    { l.foldl (fun u i => u.makeReady h i) s with queues := s.queues } = s := by
  refine (List.foldlRecOn l _ (motive := fun t : State => { t with queues := s.queues } = s) rfl fun u hu i _ => ?_)
  have hgu : (u.graphs.find? fun x => decide (x.handle = h)) = some g := by
    have hug := congrArg State.graphs hu
    exact hug ▸ hg
  cases hi : g.nodes[i]? with
  | none =>
    simp only [State.makeReady, hgu, hi]
    exact hu
  | some n =>
    simp only [State.makeReady, hgu, hi, if_neg (hn n (List.mem_of_getElem? hi))]
    exact hu

theorem exec_graphSubmit {s : State} {asid : BitVec 10} {tid : BitVec 12} {off hd : Nat} {ws : List Nat}
    (hw : s.graphWords asid tid off = .ok (hd, ws)) (hne : hd % 65536 ≠ 0) (hhi : hd / 65536 = 0)
    (href : ∀ i < ws.length, s.nodeRefusal asid (ws.map nodeOf) ws i = none) (htot : ∀ n ∈ ws.map nodeOf, n.total ≠ 0)
    (hfresh : ∀ g ∈ s.graphs, g.handle ≠ s.uid) :
    ∃ t, exec (.graphSubmit asid tid off) s = .next t ∧ t.outbox = s.outbox ++ [.accepted s.uid] ∧
      t.graphs = s.graphs ++ [⟨s.uid, asid, (ws.map nodeOf).mapIdx fun i n => { n with indeg := indegree (ws.map nodeOf) i }⟩] ∧
      ∀ a, t.byte a = s.byte a := by
  let nodes := (ws.map nodeOf).mapIdx fun i n => { n with indeg := indegree (ws.map nodeOf) i }
  let u : State := { s with graphs := s.graphs ++ [⟨s.uid, asid, nodes⟩], uid := s.uid + 1 }
  let first := (List.range nodes.length).filter fun i => indegree (ws.map nodeOf) i = 0
  have hnone : ((List.range (ws.map nodeOf).length).findSome? fun i => (s.nodeRefusal asid (ws.map nodeOf) ws i).map fun e => (e, i)) = none := by
    simp only [List.findSome?_eq_none_iff, List.mem_range, List.length_map, Option.map_eq_none_iff]
    exact href
  have hsub : s.submit asid tid off = (first.foldl (fun t i => t.makeReady s.uid i) u, .ok s.uid) := by
    simp only [State.submit, hw, hne, hhi, hnone]
    rfl
  have hfind : (u.graphs.find? fun x => decide (x.handle = s.uid)) = some (⟨s.uid, asid, nodes⟩ : Graph) := by
    have hold : (s.graphs.find? fun x => decide (x.handle = s.uid)) = none := by simpa using hfresh
    change ((s.graphs ++ [(⟨s.uid, asid, nodes⟩ : Graph)]).find? fun x : Graph => decide (x.handle = s.uid)) = _
    simp [List.find?_append, hold]
  have hnodes : ∀ n ∈ nodes, n.total ≠ 0 := by
    intro n hn
    obtain ⟨i, hi, rfl⟩ := List.mem_mapIdx.mp hn
    exact htot (ws.map nodeOf)[i] (List.getElem_mem hi)
  have hrest := State.foldl_makeReady (g := ⟨s.uid, asid, nodes⟩) hnodes first u hfind
  refine ⟨(first.foldl (fun t i => t.makeReady s.uid i) u).emit (.accepted s.uid), ?_, ?_, ?_, fun a => ?_⟩
  · change execGraphSubmit asid tid off s = _
    rw [execGraphSubmit, hsub]
  · have h := congrArg (fun t : State => t.outbox ++ [Out.accepted s.uid]) hrest
    exact h
  · have h := congrArg State.graphs hrest
    exact h
  · have h := congrArg (fun t : State => t.byte a) hrest
    exact h

@[simp] theorem State.gang_modQueue (s : State) (q : Fin 64) (f : SQueue → SQueue) (g : GangId) : (s.modQueue q f).gang g = s.gang g := (rfl)

/-! ## Quanta and ballast (R150, R152, R158) -/

/-- What a charge does to a queue, deferred or not (R149, R153). -/
theorem SQueue.add_natCast (q : SQueue) (n : Nat) :
    q.add n = if q.deferred then { q with owed := q.owed + n } else { q with pass := (q.pass + n) % 2 ^ 64 } := by
  unfold SQueue.add
  split
  · rfl
  · have h : (((q.pass : Int) + (n : Int)) % 2 ^ 64).toNat = (q.pass + n) % 2 ^ 64 := by omega
    rw [h]

theorem exec_quantumExpiry {s : State} {g : GangId} (hst : (s.gang g).status = .running ∨ (s.gang g).status = .ending)
    (hsave : (s.gang g).saveFor = none) (hover : (s.gang g).startAt + 1900 * (s.queues[(s.gang g).queue]).quant ≤ s.wall)
    (hp : s.pressed (s.classOf (s.gang g)) = false) :
    let q := s.queues[(s.gang g).queue]
    let more := q.charge (s.gang g).size
    let charged : SQueue := if q.deferred then { q with owed := q.owed + more } else { q with pass := (q.pass + more) % 2 ^ 64 }
    exec (.quantumExpiry g) s = .next ({ s with queues := s.queues.set (s.gang g).queue charged }.setGang g
      { s.gang g with quantum := (s.gang g).quantum + more, startAt := (s.gang g).startAt + 1900 * q.quant }) := by
  intro q more charged
  have hcond : ((decide ((s.gang g).status = .running) || decide ((s.gang g).status = .ending)) && (s.gang g).saveFor.isNone &&
      decide ((s.gang g).startAt + usCycles q.quant ≤ s.wall)) = true := by
    have hend : (s.gang g).startAt + usCycles q.quant ≤ s.wall := hover
    rw [hsave]
    simpa using And.intro hst hend
  change execQuantumExpiry g s = _
  refine congrArg Host.Outcome.next ((if_pos hcond).trans ((if_neg (Bool.eq_false_iff.mp hp)).trans ?_))
  rw [State.modGang_eq, State.gang_modQueue, State.modQueue, SQueue.add_natCast]
  rfl

theorem exec_ballastDecay {s : State} {b : CellId × Nat × Nat} (hb : b ∈ s.power.ballast) (hover : b.2.2 + 38000 ≤ s.wall)
    (hn : s.power.noBallast = false) :
    ∃ t, exec .ballastDecay s = .next t ∧ t.power.ballast = s.power.ballast.filter fun e => decide (s.wall < e.2.2 + 38000) := by
  have hgone : (s.power.ballast.any fun e => s.power.noBallast || decide (e.2.2 + usCycles 20 ≤ s.wall)) = true :=
    List.any_eq_true.mpr ⟨b, hb, by rw [hn]; exact decide_eq_true hover⟩
  refine ⟨_, congrArg Host.Outcome.next (if_pos hgone), List.filter_congr fun e _ => ?_⟩
  change (!(s.power.noBallast || decide (e.2.2 + usCycles 20 ≤ s.wall))) = _
  rw [hn, Bool.false_or, ← decide_not]
  exact decide_eq_decide.mpr not_le

/-! ## The dispatch loop (R151, R153) -/

/-- Two states that differ in their queues and in what was sent alone. -/
def State.OnlyQueues (s t : State) : Prop := { t with queues := s.queues, outbox := s.outbox } = s

theorem State.OnlyQueues.modQueue {s t : State} (h : s.OnlyQueues t) (q : Fin 64) (f : SQueue → SQueue) : s.OnlyQueues (t.modQueue q f) := h

theorem State.OnlyQueues.emit {s t : State} (h : s.OnlyQueues t) (o : Out) : s.OnlyQueues (t.emit o) := h

theorem State.OnlyQueues.cell {s t : State} (h : s.OnlyQueues t) (c : CellId) : t.cell c = s.cell c := by
  have hc := congrArg (fun u : State => u.cell c) h
  exact hc

theorem State.OnlyQueues.gang {s t : State} (h : s.OnlyQueues t) (g : GangId) : t.gang g = s.gang g := by
  have hg := congrArg (fun u : State => u.gang g) h
  exact hg

theorem State.onlyQueues_returnDeferred (s : State) : s.OnlyQueues s.returnDeferred := by
  refine List.foldlRecOn _ _ (motive := s.OnlyQueues) rfl fun t ht q _ => ?_
  extract_lets y
  split
  · exact ht
  · split
    · exact ht.modQueue q _
    · split
      · split
        · exact ht.modQueue q _
        · exact ht
      · exact ht

theorem State.OnlyQueues.reportBlock {s t : State} (h : s.OnlyQueues t) (q : Fin 64) : s.OnlyQueues (t.reportBlock q) := by
  unfold State.reportBlock
  extract_lets y never
  split
  · exact h.modQueue q _
  · split
    · exact h
    · exact (h.modQueue q _).emit _

theorem State.onlyQueues_blocked (s : State) : s.OnlyQueues s.blocked :=
  List.foldlRecOn _ _ (motive := s.OnlyQueues) rfl fun _ ht q _ => ht.reportBlock q

theorem State.queue_modQueue (s : State) (q p : Fin 64) (f : SQueue → SQueue) :
    (s.modQueue q f).queues[p] = if q = p then f s.queues[q] else s.queues[p] := by
  simp [State.modQueue, Vector.getElem_set, Fin.ext_iff]

theorem State.pass_modQueue (s : State) (q p : Fin 64) {f : SQueue → SQueue} (hf : ∀ z, (f z).pass = z.pass) :
    ((s.modQueue q f).queues[p]).pass = (s.queues[p]).pass := by
  rw [State.queue_modQueue]
  split
  next h => rw [hf, h]
  next => rfl

theorem State.pass_reportBlock (s : State) (q p : Fin 64) : ((s.reportBlock q).queues[p]).pass = (s.queues[p]).pass := by
  unfold State.reportBlock
  extract_lets y never
  split
  · exact s.pass_modQueue q p fun _ => rfl
  · split
    · rfl
    · exact s.pass_modQueue q p (f := fun z => { z with noted := z.ready.head? }) fun _ => rfl

theorem State.pass_blocked (s : State) (p : Fin 64) : (s.blocked.queues[p]).pass = (s.queues[p]).pass :=
  List.foldlRecOn _ _ (motive := fun t : State => (t.queues[p]).pass = (s.queues[p]).pass) rfl
    fun t ht q _ => (t.pass_reportBlock q p).trans ht

theorem State.open_of_candidate {s : State} {cls : Nat} {q : Fin 64} (h : s.candidate cls = some q) : s.queues[q].open_ = true := by
  have hm : ∀ p, s.candidate cls = some p → p ∈ (List.finRange 64).filter fun q => s.queues[q].open_ && s.queues[q].cls = cls := by
    refine List.foldlRecOn _ _ (motive := fun m : Option (Fin 64) => ∀ p, m = some p → p ∈ (List.finRange 64).filter _)
      (fun p hp => by cases hp) fun m hm a ha p hp => ?_
    split at hp
    · exact Option.some.inj hp ▸ ha
    · split at hp
      · exact Option.some.inj hp ▸ ha
      · exact hm p hp
  have hq := (List.mem_filter.mp (hm q h)).2
  exact (Bool.and_eq_true_iff.mp hq).1

/-- The candidate of the dispatcher is no deferred queue. -/
theorem State.deferred_of_cand {s : State} {q : Fin 64} (h : s.cand = some q) : s.queues[q].deferred = false := by
  obtain ⟨cls, -, hc⟩ := List.exists_of_findSome?_eq_some h
  have ho := State.open_of_candidate hc
  simp only [SQueue.open_, Bool.and_eq_true, Bool.not_eq_true'] at ho
  exact ho.2

theorem State.popReady_queue (s : State) (q : Fin 64) (r : Ready) :
    ∃ l, (s.popReady q r).queues[q] = { s.queues[q] with ready := l } := by
  rw [State.popReady, State.queue_modQueue, if_pos rfl]
  exact ⟨_, rfl⟩

theorem State.placed_eq (s : State) (q : Fin 64) (r : Ready) (x : Head) (cells : List CellId) :
    (s.placed q r x cells).status = .starting ∧ (s.placed q r x cells).cells = cells ∧
      (s.placed q r x cells).quantum = s.queues[q].charge (2 ^ x.glog) := by
  unfold State.placed
  extract_lets g
  split
  · exact ⟨rfl, rfl, rfl⟩
  · split <;> exact ⟨rfl, rfl, rfl⟩

theorem State.gang_dispatch_self (s : State) (q : Fin 64) (r : Ready) (x : Head) (o : CellId) (cells : List CellId) :
    (s.dispatch q r x o cells).gang o = s.placed q r x cells :=
  State.gang_setGang_self _ o _

theorem State.cell_dispatch (s : State) (q : Fin 64) (r : Ready) (x : Head) (o : CellId) (cells : List CellId) (c : CellId) :
    (s.dispatch q r x o cells).cell c = if c ∈ cells then { s.cell c with gang := o, busy := true } else s.cell c :=
  State.cell_foldl_modCell_idem (f := fun _ y => { y with gang := o, busy := true }) (fun _ _ => rfl) cells _ c

/-- The queue of a node that starts is charged (R150). -/
theorem State.pass_dispatch {s : State} {q : Fin 64} (hd : s.queues[q].deferred = false) (r : Ready) (x : Head) (o : CellId)
    (cells : List CellId) :
    ((s.dispatch q r x o cells).queues[q]).pass = (s.queues[q].pass + s.queues[q].charge (2 ^ x.glog)) % 2 ^ 64 := by
  obtain ⟨l, hl⟩ := s.popReady_queue q r
  obtain ⟨-, -, hquantum⟩ := s.placed_eq q r x cells
  have hq : (s.dispatch q r x o cells).queues =
      ((s.popReady q r).modQueue q fun z => z.add (s.placed q r x cells).quantum).queues := by
    have h := congrArg State.queues (State.rest_foldl_modCell (place := fun c => c) (f := fun _ y => { y with gang := o, busy := true }) cells
      ((s.popReady q r).modQueue q fun z => z.add (s.placed q r x cells).quantum))
    exact h
  rw [hq, State.queue_modQueue, if_pos rfl, hl, hquantum, SQueue.add_natCast]
  exact congrArg SQueue.pass (if_neg (Bool.eq_false_iff.mp hd))

theorem exec_dispatcherRun {s : State} {q : Fin 64} {r : Ready} {rest : List Ready} {x : Head} {o : CellId} {cells : List CellId}
    (hem : s.emergency = false) (hc : s.returnDeferred.cand = some q) (hr : s.returnDeferred.queues[q].ready = r :: rest)
    (hx : s.returnDeferred.headOf r = some x) (hel : s.returnDeferred.eligible x = true)
    (hp : s.returnDeferred.place r x.glog = some (o, cells)) (hlast : (s.returnDeferred.dispatch q r x o cells).cand = none) :
    ∃ t, exec .dispatcherRun s = .next t ∧ (t.gang o).status = .starting ∧ (t.gang o).cells = cells ∧
      (∀ c ∈ cells, (t.cell c).busy = true ∧ (t.cell c).gang = o) ∧ (∀ c, c ∉ cells → t.cell c = s.cell c) ∧
      (t.queues[q]).pass = ((s.returnDeferred.queues[q]).pass + 2 ^ 20 / s.returnDeferred.queues[q].tickets *
        ((s.returnDeferred.queues[q].quant * 2 ^ x.glog + 127) / 128)) % 2 ^ 64 := by
  have hloop : State.dispatchLoop 512 s.returnDeferred = s.returnDeferred.dispatch q r x o cells := by
    rw [State.dispatchLoop]
    simp only [hc, hr, hx, hel, hp, Bool.not_true, Bool.false_eq_true, if_false]
    rw [State.dispatchLoop]
    simp only [hlast]
  obtain ⟨hst, hcells, -⟩ := s.returnDeferred.placed_eq q r x cells
  have honly := (s.returnDeferred.dispatch q r x o cells).onlyQueues_blocked
  refine ⟨(s.returnDeferred.dispatch q r x o cells).blocked, ?_, ?_, ?_, fun c hcm => ?_, fun c hcm => ?_, ?_⟩
  · change execDispatcherRun s = _
    rw [execDispatcherRun, hem, hloop]
    rfl
  · rw [honly.gang, State.gang_dispatch_self, hst]
  · rw [honly.gang, State.gang_dispatch_self, hcells]
  · rw [honly.cell, State.cell_dispatch, if_pos hcm]
    exact ⟨rfl, rfl⟩
  · rw [honly.cell, State.cell_dispatch, if_neg hcm, s.onlyQueues_returnDeferred.cell]
  · rw [State.pass_blocked, State.pass_dispatch (State.deferred_of_cand hc)]
    rfl

/-! ## The start of a tile task (R17, R157, R210) -/

theorem State.rest_initEntry (s : State) (b : Binary) (x : Cell) (e : InitEntry) :
    { s.initEntry b x e with sp := x.sp, spTag := x.spTag } = x := by
  generalize hy : s.initEntry b x e = y
  unfold State.initEntry at hy
  split at hy <;> subst hy
  · rfl
  · rfl
  · refine List.foldlRecOn _ _ (motive := fun y : Cell => { y with sp := x.sp, spTag := x.spTag } = x) rfl fun y hy k _ => ?_
    cases s.kbytes b (e.dims + 256 * k) 256 with
    | none => exact hy
    | some v => exact hy
  · rfl

/-- The initialisation table writes the scratchpad alone (R210). -/
theorem State.rest_foldl_initEntry (s : State) (b : Binary) (tab : List InitEntry) (x : Cell) :
    { tab.foldl (s.initEntry b) x with sp := x.sp, spTag := x.spTag } = x :=
  List.foldlRecOn tab _ (motive := fun y : Cell => { y with sp := x.sp, spTag := x.spTag } = x) rfl fun y hy e _ =>
    (congrArg (fun z : Cell => { z with sp := x.sp, spTag := x.spTag }) (s.rest_initEntry b y e)).trans hy

/-- A cell as a task starts on it: the scratchpad initialised, the registers and the program counter of the start (R17). -/
def State.startCell (s : State) (g : GangId) (n : Node) (b : Binary) (tab : List InitEntry) (c : CellId) : Cell :=
  let x := s.gang g
  tab.foldl (s.initEntry b) ((s.cell c).begin_ g x.asid (x.inst % n.n0) (x.inst / n.n0 % n.n1) (x.inst / (n.n0 * n.n1)) n.arg b.k.entry)

/-- A cell at the first segment of its text: where it begins, its SEGE and its identifier (R33). -/
def Cell.firstSegment (entry : Nat) (m : Option (Nat × Nat) × Option (BitVec 16)) (x : Cell) : Cell :=
  { x with sq := { x.sq with segOff := entry, sege := m.1, segid := m.2.getD 0 } }

/-- A task begins: every cell becomes its start cell, the gang runs, and every cell notes its first segment. -/
theorem State.beginTask_eq (s : State) (g : GangId) (n : Node) (b : Binary) (vi : Nat) (v : Variant) (tab : List InitEntry) :
    ∃ (pw : Power) (y : Gang) (m : CellId → Option (Nat × Nat) × Option (BitVec 16)),
      s.beginTask g n (b, vi, v, tab) =
        (s.gang g).cells.foldl (fun (z : State) c => z.modCell c (Cell.firstSegment b.k.entry (m c)))
          (((s.gang g).cells.foldl (fun (w : State) c => w.modCell c fun _ => s.startCell g n b tab c) { s with power := pw }).setGang g y) ∧
      y.status = .running ∧ y.tick = (s.gang g).tick :=
  ⟨_, _, _, rfl, rfl, rfl⟩

theorem State.cell_beginTask (s : State) (g : GangId) (n : Node) (b : Binary) (vi : Nat) (v : Variant) (tab : List InitEntry) {c : CellId}
    (hc : c ∈ (s.gang g).cells) :
    ∃ m, (s.beginTask g n (b, vi, v, tab)).cell c = (s.startCell g n b tab c).firstSegment b.k.entry m := by
  obtain ⟨pw, y, m, he, -, -⟩ := s.beginTask_eq g n b vi v tab
  refine ⟨m c, ?_⟩
  rw [he, State.cell_foldl_modCell_idem (f := fun c => Cell.firstSegment b.k.entry (m c)) (fun _ _ => rfl), if_pos hc, State.cell_setGang,
    State.cell_foldl_modCell_idem (f := fun c _ => s.startCell g n b tab c) (fun _ _ => rfl), if_pos hc]

theorem State.gang_beginTask (s : State) (g : GangId) (n : Node) (b : Binary) (vi : Nat) (v : Variant) (tab : List InitEntry) :
    ((s.beginTask g n (b, vi, v, tab)).gang g).status = .running ∧ ((s.beginTask g n (b, vi, v, tab)).gang g).tick = (s.gang g).tick := by
  obtain ⟨pw, y, m, he, hrun, htick⟩ := s.beginTask_eq g n b vi v tab
  rw [he, State.gang_foldl_modCell (place := fun c => c), State.gang_setGang_self]
  exact ⟨hrun, htick⟩

theorem State.byte_beginTask (s : State) (g : GangId) (n : Node) (b : Binary) (vi : Nat) (v : Variant) (tab : List InitEntry) (a : Nat) :
    (s.beginTask g n (b, vi, v, tab)).byte a = s.byte a := by
  obtain ⟨pw, y, m, he, -, -⟩ := s.beginTask_eq g n b vi v tab
  have hput := congrArg (fun z : State => z.byte a) (State.rest_foldl_modCell (place := fun c => c)
    (f := fun c _ => s.startCell g n b tab c) (s.gang g).cells { s with power := pw })
  have hseg := congrArg (fun z : State => z.byte a) (State.rest_foldl_modCell (place := fun c => c)
    (f := fun c => Cell.firstSegment b.k.entry (m c)) (s.gang g).cells
    (((s.gang g).cells.foldl (fun (w : State) c => w.modCell c fun _ => s.startCell g n b tab c) { s with power := pw }).setGang g y))
  rw [he]
  exact hseg.trans hput

/-- What a control core holds where a task starts: the index registers and the arguments (R17). -/
theorem Cell.greg_begin_ (x : Cell) (g : GangId) (asid : BitVec 10) (i0 i1 i2 : Nat) (arg : Vector Word 16) (entry : Nat) :
    let y := x.begin_ g asid i0 i1 i2 arg entry
    y.cc.greg 13 = BitVec.ofNat 64 i0 ∧ y.cc.greg 14 = BitVec.ofNat 64 i1 ∧ y.cc.greg 15 = BitVec.ofNat 64 i2 ∧
      ∀ k : Fin 16, y.cc.greg (Fin.ofNat 32 (16 + k.val)) = arg[k] := by
  refine ⟨?_, ?_, ?_, fun k => ?_⟩
  · simp [Cell.begin_, Cell.setEngine, Cc.greg]
  · simp [Cell.begin_, Cell.setEngine, Cc.greg]
  · simp [Cell.begin_, Cell.setEngine, Cc.greg]
  · have hk : (Fin.ofNat 32 (16 + k.val)).val = 16 + k.val := Nat.mod_eq_of_lt (by omega)
    have h0 : Fin.ofNat 32 (16 + k.val) ≠ 0 := Fin.ne_of_val_ne (by rw [hk, Fin.val_zero]; omega)
    have h13 : 16 + k.val ≠ 13 := by omega
    have h14 : 16 + k.val ≠ 14 := by omega
    have h15 : 16 + k.val ≠ 15 := by omega
    rw [Cc.greg, if_neg h0]
    simp [Cell.begin_, Cell.setEngine, Nat.mod_eq_of_lt (show 16 + k.val < 32 by omega), h13, h14, h15, Nat.mod_eq_of_lt k.isLt]

/-- A start cell is busy for its gang and stands at the entry with its indices and arguments. -/
theorem State.startCell_spec (s : State) (g : GangId) (n : Node) (b : Binary) (tab : List InitEntry) (c : CellId) :
    let y := s.startCell g n b tab c
    y.busy = true ∧ y.gang = g ∧ (y.engine .cc).pc = some b.k.entry ∧
      y.cc.greg 13 = BitVec.ofNat 64 ((s.gang g).inst % n.n0) ∧
      y.cc.greg 14 = BitVec.ofNat 64 ((s.gang g).inst / n.n0 % n.n1) ∧
      y.cc.greg 15 = BitVec.ofNat 64 ((s.gang g).inst / (n.n0 * n.n1)) ∧
      ∀ k : Fin 16, y.cc.greg (Fin.ofNat 32 (16 + k.val)) = n.arg[k] := by
  intro y
  let z := (s.cell c).begin_ g (s.gang g).asid ((s.gang g).inst % n.n0) ((s.gang g).inst / n.n0 % n.n1)
    ((s.gang g).inst / (n.n0 * n.n1)) n.arg b.k.entry
  have hy : { y with sp := z.sp, spTag := z.spTag } = z := s.rest_foldl_initEntry b tab z
  have hkeep : y.busy = z.busy ∧ y.gang = z.gang ∧ y.sq = z.sq ∧ y.cc = z.cc := by
    rw [← hy]
    exact ⟨rfl, rfl, rfl, rfl⟩
  obtain ⟨hbusy, hgang, hsq, hcc⟩ := hkeep
  rw [Cell.engine, hbusy, hgang, hsq, hcc]
  refine ⟨rfl, rfl, ?_, Cell.greg_begin_ (s.cell c) g _ _ _ _ n.arg b.k.entry⟩
  simp [z, Cell.begin_, Cell.setEngine]

theorem exec_tileTaskStart {s : State} {g : GangId} {n : Node} {p : Binary × Nat × Variant × List InitEntry}
    (hst : (s.gang g).status = .starting) (himg : (s.gang g).image = 0) (hlate : s.tooLate g = false)
    (hramp : s.rampAllows (s.gang g).cells ((s.gang g).avg * (s.gang g).size) = true)
    (hn : s.nodeAt (s.gang g).graph (s.gang g).node = some n) (hp : s.startCheck (s.gang g).asid n = .ok p) :
    ∃ t, exec (.tileTaskStart g) s = .next t ∧ (t.gang g).status = .running ∧ (t.gang g).tick = (s.gang g).tick ∧
      (∀ c ∈ (s.gang g).cells,
        let y := t.cell c
        y.busy = true ∧ y.gang = g ∧ (y.engine .cc).pc = some p.1.k.entry ∧
        y.cc.greg 13 = BitVec.ofNat 64 ((s.gang g).inst % n.n0) ∧
        y.cc.greg 14 = BitVec.ofNat 64 ((s.gang g).inst / n.n0 % n.n1) ∧
        y.cc.greg 15 = BitVec.ofNat 64 ((s.gang g).inst / (n.n0 * n.n1)) ∧
        ∀ k : Fin 16, y.cc.greg (Fin.ofNat 32 (16 + k.val)) = n.arg[k]) ∧
      ∀ a, t.byte a = s.byte a := by
  obtain ⟨b, vi, v, tab⟩ := p
  have he : execTileTaskStart g s = .next (s.beginTask g n (b, vi, v, tab)) := by
    simp [execTileTaskStart, hst, himg, hlate, hramp, hn, hp]
  obtain ⟨hrun, htick⟩ := s.gang_beginTask g n b vi v tab
  refine ⟨_, he, hrun, htick, fun c hc => ?_, s.byte_beginTask g n b vi v tab⟩
  obtain ⟨m, hcell⟩ := s.cell_beginTask g n b vi v tab hc
  rw [hcell]
  exact s.startCell_spec g n b tab c

/-- Settles O43: each event takes the branch that its hypotheses name; folds over the cells of a gang write each of them once. -/
theorem schedulerEventsComplete : Obligations.SchedulerEventsComplete := by
  unfold Obligations.SchedulerEventsComplete
  exact ⟨fun _ _ h => exec_tileTaskComplete h,
    fun _ _ _ _ hg hn hc hd hs hr ha hsucc => exec_nodeCompletion hg hn hc hd hs hr ha hsucc,
    fun _ _ _ _ _ _ hw hne hhi href htot hfresh => exec_graphSubmit hw hne hhi href htot hfresh,
    fun _ _ _ _ _ _ _ hem hc hr hx hel hp hlast => exec_dispatcherRun hem hc hr hx hel hp hlast,
    fun _ _ hst hsave hover hp => exec_quantumExpiry hst hsave hover hp,
    fun _ _ _ _ hst himg hlate hramp hn hp => exec_tileTaskStart hst himg hlate hramp hn hp,
    fun _ _ hb hover hn => exec_ballastDecay hb hover hn⟩

end Sys2Proof.Machine
end

section
/-! SUPPORT. Slots that write the executing cell once (Slots.lean, Sync.lean, Rows.lean): waits, operations on path YP, rows and queues, time and
the system registers; they settle O4, O5, O6, O10, O11, O12 and O15. -/

namespace Sys2Proof.Machine

/-! ## Time, the schedule counter and the system registers (R50, R51, R215, R237, R238) -/

/-- A SYSR of TIMEL is its result and the capture of TIMEH, one write to the cell (R51). -/
theorem actSysr_timel {c : Ctx} {sl : Slot} {s : State} (h : sl.imm32.toNat % 256 = 13) :
    actSysr c sl s = .ok (s.fresh.setCell s.curCell { s.cur with
      flight := s.cur.flight ++ [⟨s.now + 2 * s.div, s.uid, s.curEng, c.off, .g sl.dst (s.clock.time.setWidth 64) false, 0, 0, 0⟩]
      cc := { s.cur.cc with timeh := some (s.clock.time.extractLsb' 64 16) } }) := by
  have hi : sysIndex sl = 13 := h
  have hv : BitVec.ofNat 64 s.clock.time.toNat = s.clock.time.setWidth 64 := rfl
  simp only [actSysr, hi, if_true, gResult, State.landAfter, State.land, State.modCur_eq, State.fresh_setCell, State.setCell_curCell,
    State.fresh_curCell, State.cell_setCell_self, State.setCell_setCell, sysValue, hv]
  rfl

/-- Settles O4: each slot is one result in flight; a SYSR of TIMEL captures TIMEH in the same write. -/
theorem readSlotsComplete : Obligations.ReadSlotsComplete := by
  intro sl s
  refine ⟨fun h => ?time, fun h => ?tick, fun h hlt hne => ?reg, fun h heq => ?timel⟩
  case time => exact slotAlone_lands (m := semRdtime) (n := 3) h rfl rfl
  case tick =>
    rw [← Nat.one_mul s.ccDiv]
    exact slotAlone_lands (m := semRdtick) h rfl rfl
  case reg =>
    refine slotAlone_lands (m := semSysr) (n := 2) h rfl ?_
    have hi : sysIndex sl ≠ 13 := hne
    simp only [semSysr, actSysr, if_neg hi]
    rfl
  case timel =>
    exact ⟨_, slotAlone_ok (m := semSysr) h rfl (actSysr_timel heq), State.becomes_setCell (u := (s.onEngine .cc).fresh) _ rfl rfl rfl⟩

/-- A slot with a field that its entry does not accept takes the illegal-slot fault. -/
theorem slotAlone_takes_illegal {m : SlotSem} {sl : Slot} {s : State} (h : slotCheck m.op8 sl ≠ none) :
    ∃ t f, slotAlone m sl s = .next t ∧ s.TakesFault t .cc s.ccOff f ∧ f.cls = 5 := by
  obtain ⟨b, hb⟩ := Option.ne_none_iff_exists'.mp h
  exact ⟨_, _, slotAlone_illegal hb, s.takesFault_fault .cc .cc s.ccOff none _, rfl⟩

/-- A slot that a check of the state turns away takes the fault of that check. -/
theorem slotAlone_takes_rule {m : SlotSem} {sl : Slot} {s : State} {f : Flt} (hc : slotCheck m.op8 sl = none)
    (hr : m.rule sl (s.onEngine .cc) = some f) :
    ∃ t g, slotAlone m sl s = .next t ∧ s.TakesFault t .cc s.ccOff g ∧ g.cls = f.cls :=
  ⟨_, _, slotAlone_rule hc hr, s.takesFault_fault .cc .cc s.ccOff none _, rfl⟩

theorem sysBad_ne_none {sl : Slot} (h : 16 ≤ sl.imm32.toNat % 256) : sysBad sl ≠ none := by
  simp [sysBad, firstBad, h]

/-- An entry that checks its IMM32 accepts no slot whose IMM32 that check rejects. -/
theorem SlotEntry.bad_ne_none {e : SlotEntry} {op8 : Nat} {sl : Slot} (h : e.more sl ≠ none) : e.bad op8 sl ≠ none := by
  unfold SlotEntry.bad
  cases hf : firstBad _ with
  | none => exact h
  | some b => exact Option.some_ne_none b

theorem slotCheck_sysr {sl : Slot} (h : 16 ≤ sl.imm32.toNat % 256) : slotCheck 0x5A sl ≠ none :=
  SlotEntry.bad_ne_none (e := ⟨1, 32, 1, 1, [0], sysBad⟩) (sysBad_ne_none h)

theorem slotCheck_sysw {sl : Slot} (h : 16 ≤ sl.imm32.toNat % 256) : slotCheck 0x5B sl ≠ none :=
  SlotEntry.bad_ne_none (e := ⟨1, 1, 32, 1, [0], sysBad⟩) (sysBad_ne_none h)

/-- The registers that a SYSW writes are 7 to 10; 8 and 9 only while nothing is spilled (R50). -/
theorem ruleSysw_none {sl : Slot} {s : State} (hlo : 7 ≤ sl.imm32.toNat % 256) (hhi : sl.imm32.toNat % 256 ≤ 10)
    (hs : sl.imm32.toNat % 256 = 8 ∨ sl.imm32.toNat % 256 = 9 → s.cur.spilledOut = false) : ruleSysw sl s = none := by
  have hi : ¬ (sysIndex sl ≤ 6 ∨ 11 ≤ sysIndex sl) := by unfold sysIndex; omega
  have hb : ¬ ((sysIndex sl = 8 ∨ sysIndex sl = 9) ∧ s.cur.spilledOut = true) := fun ⟨h, k⟩ =>
    absurd k (by rw [hs h]; exact Bool.false_ne_true)
  simp only [ruleSysw, Bool.or_eq_true, Bool.and_eq_true, decide_eq_true_eq, if_neg hi, if_neg hb]

theorem ruleSysw_readOnly {sl : Slot} {s : State} (h : sl.imm32.toNat % 256 ≤ 6 ∨ 11 ≤ sl.imm32.toNat % 256) :
    ruleSysw sl s = some ⟨6, 0, illSynd (s.gangOf s.curCell).encgen 1 32 0x5B, 0, false, 0⟩ := by
  have hi : sysIndex sl ≤ 6 ∨ 11 ≤ sysIndex sl := h
  simp only [ruleSysw, Bool.or_eq_true, decide_eq_true_eq, if_pos hi]

theorem ruleSysw_spilled {sl : Slot} {s : State} (h : sl.imm32.toNat % 256 = 8 ∨ sl.imm32.toNat % 256 = 9)
    (hs : s.cur.spilledOut = true) :
    ruleSysw sl s = some ⟨5, 0, illSynd (s.gangOf s.curCell).encgen 1 32 0x5B, 0, false, 0⟩ := by
  have hi : ¬ (sysIndex sl ≤ 6 ∨ 11 ≤ sysIndex sl) := by unfold sysIndex; omega
  have hb : (sysIndex sl = 8 ∨ sysIndex sl = 9) ∧ s.cur.spilledOut = true := ⟨h, hs⟩
  simp only [ruleSysw, Bool.or_eq_true, Bool.and_eq_true, decide_eq_true_eq, if_neg hi, if_pos hb]

theorem systemWriteCompletes : SystemWriteCompletes := by
  intro sl s h hlo hhi hs tag
  have hr : semSysw.rule sl (s.onEngine .cc) = none := ruleSysw_none hlo hhi hs
  rw [← Nat.one_mul s.ccDiv]
  exact slotAlone_lands (m := semSysw) h hr rfl

theorem systemRegisterFaults : SystemRegisterFaults := by
  intro sl s i
  refine ⟨fun _ h => ?sysr, fun _ h => ?sysw, fun hc h => ?readOnly, fun hc h hs => ?spilled⟩
  case sysr => exact slotAlone_takes_illegal (m := semSysr) (slotCheck_sysr h)
  case sysw => exact slotAlone_takes_illegal (m := semSysw) (slotCheck_sysw h)
  case readOnly => exact slotAlone_takes_rule (m := semSysw) hc (ruleSysw_readOnly h)
  case spilled => exact slotAlone_takes_rule (m := semSysw) hc (ruleSysw_spilled h hs)

/-- Settles O5: the writes that the rule of SYSW lets pass, and the faults of those it and the entry turn away. -/
theorem systemRegisterSlots : Obligations.SystemRegisterSlots := ⟨systemWriteCompletes, systemRegisterFaults⟩

/-! ## Slots that write the executing cell once, or ask for a freeze -/

/-- A slot that changes nothing but the name of the engine that ran. -/
theorem State.becomes_onEngine (s : State) (e : Eng) : s.Becomes (s.onEngine e) s.cur := ⟨⟨rfl, fun _ _ => rfl, fun _ => rfl⟩, rfl⟩

theorem slotAlone_unchanged {m : SlotSem} {sl : Slot} {s : State} (h : s.SlotActs m.op8 sl) (hr : m.rule sl (s.onEngine .cc) = none)
    (ht : m.act ⟨s.ccOff, 0, 0, 0⟩ sl (s.onEngine .cc) = .ok (s.onEngine .cc)) :
    ∃ t, slotAlone m sl s = .next t ∧ s.Becomes t s.cur := ⟨_, slotAlone_ok h hr ht, s.becomes_onEngine .cc⟩

theorem slotAlone_requests {m : SlotSem} {sl : Slot} {s : State} {k : Cond} (h : s.SlotActs m.op8 sl)
    (hr : m.rule sl (s.onEngine .cc) = none)
    (ht : m.act ⟨s.ccOff, 0, 0, 0⟩ sl (s.onEngine .cc) = .ok ((s.onEngine .cc).request (s.gidOf s.curCell) k)) :
    ∃ t, slotAlone m sl s = .next t ∧ s.Requests t k := ⟨_, slotAlone_ok h hr ht, s.requests_request .cc k⟩

/-- A slot whose effect is one write to its cell, under the next number. -/
theorem slotAlone_becomes {m : SlotSem} {sl : Slot} {s : State} {x : Cell} (h : s.SlotActs m.op8 sl)
    (hr : m.rule sl (s.onEngine .cc) = none)
    (ht : m.act ⟨s.ccOff, 0, 0, 0⟩ sl (s.onEngine .cc) = .ok ((s.onEngine .cc).fresh.setCell s.curCell x)) :
    ∃ t, slotAlone m sl s = .next t ∧ s.Becomes t x :=
  ⟨_, slotAlone_ok h hr ht, State.becomes_setCell (u := (s.onEngine .cc).fresh) x rfl rfl rfl⟩

/-- A wait slot: satisfied, it changes nothing; otherwise it asks for a freeze until it is (R43). -/
theorem slotAlone_waits {m : SlotSem} {sl : Slot} {s : State} {p : Prop} [Decidable p] {k : Cond} (h : s.SlotActs m.op8 sl)
    (hr : m.rule sl (s.onEngine .cc) = none)
    (ht : m.act ⟨s.ccOff, 0, 0, 0⟩ sl (s.onEngine .cc) =
      .ok (if p then s.onEngine .cc else (s.onEngine .cc).request (s.gidOf s.curCell) k)) :
    ∃ t, slotAlone m sl s = .next t ∧ if p then s.Becomes t s.cur else s.Requests t k := by
  by_cases hp : p
  · simp only [if_pos hp] at ht ⊢
    exact slotAlone_unchanged h hr ht
  · simp only [if_neg hp] at ht ⊢
    exact slotAlone_requests h hr ht

/-! ## Path YP -/

/-- An operation that enters path YP is one write to its cell (R57, R124). -/
theorem ypPush_eq (k : YKind) (cover : List Cov) (scope : Nat) (s : State) :
    ypPush ⟨s.ccOff, 0, 0, 0⟩ k cover scope s = s.fresh.setCell s.curCell { s.cur with ord := s.ypWith k cover scope } := rfl

/-- A slot whose effect is an operation on path YP. -/
theorem slotAlone_sends {m : SlotSem} {sl : Slot} {s : State} {k : YKind} {cover : List Cov} {scope : Nat} (h : s.SlotActs m.op8 sl)
    (hr : m.rule sl (s.onEngine .cc) = none)
    (ht : m.act ⟨s.ccOff, 0, 0, 0⟩ sl (s.onEngine .cc) = .ok (ypPush ⟨s.ccOff, 0, 0, 0⟩ k cover scope (s.onEngine .cc))) :
    ∃ t, slotAlone m sl s = .next t ∧ s.Becomes t { s.cur with ord := s.ypWith k cover scope } :=
  slotAlone_becomes h hr ht

/-- A slot whose effect is an operation on path YP that returns through YQ, where YQ has room (R57). -/
theorem slotAlone_returns {m : SlotSem} {sl : Slot} {s : State} {k : YKind} (h : s.SlotActs m.op8 sl)
    (hr : m.rule sl (s.onEngine .cc) = none) (hq : s.cur.q.yq.length < 16)
    (ht : m.act ⟨s.ccOff, 0, 0, 0⟩ sl (s.onEngine .cc) = ypReturn ⟨s.ccOff, 0, 0, 0⟩ k (s.onEngine .cc)) :
    ∃ t, slotAlone m sl s = .next t ∧ s.Becomes t { s.cur with ord := s.ypWith k [] 4, q := s.yqWith } :=
  slotAlone_becomes h hr (ht.trans (ypReturn_room (s := s.onEngine .cc) hq))

/-! ## Rings (R62, R228) -/

section Rings

variable {sl : Slot} {s : State} {q : Rcb} {m : BitVec 32}

theorem slotRing_found {loc : Nat} (hloc : loc = sl.imm32.toNat % 2 ^ 17) (hp : loc / 4 < 24576) (hq : s.cur.rcb loc = .ok q) :
    slotRing sl s = .ok (loc, q) := by
  subst hloc
  simp only [slotRing, spRows, if_neg (Nat.not_le.mpr hp), hq]

theorem ringCount_found (h : s.OnRing sl q m) : ringCount sl s = .ok (sl.imm32.toNat % 2 ^ 17, q, m) := by
  obtain ⟨hplace, hrcb, hring, htag, hcount⟩ := h
  simp only [ringCount, htag, slotRing_found rfl hplace hrcb, hring, hcount, Bool.false_eq_true, if_false]
  rfl

/-- A wait on a ring is satisfied by a count that the ring holds, or has room for. -/
theorem ringWait_found (full : Bool) (h : s.OnRing sl q m) (hm : m.toNat ≤ q.depth) :
    ringWait full sl s = .ok (if m.toNat ≤ (if full then q.filled else q.freeCount.toNat) then s
      else s.request (s.gidOf s.curCell)
        (if full then .ringFilled s.curCell (sl.imm32.toNat % 2 ^ 17) m.toNat else .ringFree s.curCell (sl.imm32.toNat % 2 ^ 17) m.toNat)) := by
  simp only [ringWait, ringCount_found h, if_neg (Nat.not_lt.mpr hm), Bool.or_eq_true, decide_eq_true_eq]
  by_cases hle : m.toNat ≤ (if full then q.filled else q.freeCount.toNat)
  · rw [if_pos (Or.inr hle), if_pos hle]
  · have hm0 : m ≠ 0 := fun h0 => hle (by rw [h0]; exact Nat.zero_le _)
    rw [if_neg (not_or.mpr ⟨hm0, hle⟩), if_neg hle]

end Rings

/-- Settles O10: the two waits, the two advances, and the two operations that return through YQ. -/
theorem ringSlotsComplete : Obligations.RingSlotsComplete := by
  intro sl s q m h loc filled free
  have hring : (s.onEngine .cc).OnRing sl q m := ⟨h.place, h.rcb, h.ring, h.tag, h.count⟩
  have hcount := ringCount_found hring
  refine ⟨fun ha hm => ?rwaitf, fun ha hm => ?rwaite, fun ha => ?radvt, fun ha => ?radvh, fun ha hq => ?rclm, fun ha hq => ?rstat⟩
  case rwaitf => exact slotAlone_waits (m := semRwaitf) ha rfl (ringWait_found true hring hm)
  case rwaite => exact slotAlone_waits (m := semRwaite) ha rfl (ringWait_found false hring hm)
  case radvt =>
    refine slotAlone_sends (m := semRadvt) ha rfl ?_
    simp only [semRadvt, actRadvt, hcount]
    rfl
  case radvh =>
    refine slotAlone_sends (m := semRadvh) ha rfl ?_
    simp only [semRadvh, actRadvh, hcount]
    rfl
  case rclm =>
    refine slotAlone_returns (m := semRclm) ha rfl hq ?_
    simp only [semRclm, actRclm, hcount]
    rfl
  case rstat =>
    refine slotAlone_returns (m := semRstat) ha rfl hq ?_
    simp only [semRstat, actRstat, hcount]
    rfl

/-! ## Stages (R63, R229) -/

theorem stageElement_found {sl : Slot} {s : State} {q : Rcb} {e : Nat} (h : s.OnStage sl q e) :
    stageElement sl s = .ok (sl.imm32.toNat % 2 ^ 17, q, e) := by
  obtain ⟨hplace, hrcb, hstage, htag, helem, hdeep⟩ := h
  subst helem
  simp only [stageElement, htag, slotRing_found rfl hplace hrcb, hstage, Bool.false_eq_true, if_false, Bool.not_true, Bool.false_or,
    decide_eq_true_eq, if_neg (Nat.not_le.mpr hdeep)]

/-- Settles O11: SACQ is a wait on the element's two fields, SREL an operation on path YP. -/
theorem stageSlotsComplete : Obligations.StageSlotsComplete := by
  intro sl s q e h loc own full
  have hfound : stageElement sl (s.onEngine .cc) = .ok (loc, q, e) :=
    stageElement_found ⟨h.place, h.rcb, h.stage, h.tag, h.elem, h.deep⟩
  refine ⟨fun ha => ?sacq, fun ha => ?srel⟩
  case sacq =>
    refine slotAlone_waits (m := semSacq) ha rfl ?_
    simp only [semSacq, actSacq, hfound, Bool.and_eq_true, decide_eq_true_eq, ← apply_ite Except.ok]
    rfl
  case srel =>
    refine slotAlone_sends (m := semSrel) ha rfl ?_
    simp only [semSrel, actSrel, hfound]
    rfl

/-! ## Arrival words (R64, R230) -/

/-- An address inside the scratchpad names a row of it. -/
theorem rowOfAddr_ok {e : Eng} {a : Word} {base : Nat} (hs : a.toNat < 2 ^ 23) (hr : base + a.toNat / 256 < 24576) :
    rowOfAddr e a base = .ok (base + a.toNat / 256) := by
  have hz : ¬ a.toNat / 2 ^ 23 ≠ 0 := not_not.mpr (Nat.div_eq_of_lt hs)
  simp only [rowOfAddr, if_neg hz]
  exact if_pos hr

theorem arrivalOpnds_found {sl : Slot} {s : State} {w : Arrival} {a : Nat} {v : Word} (h : s.OnArrival sl w a v) :
    arrivalOpnds sl s = .ok (a, v) := by
  obtain ⟨hatag, hvtag, hvalue, haddr, hhave, _⟩ := h
  have hrow : rowOfAddr .cc (if sl.imm then sl.imm32.zeroExtend 64 else s.cur.cc.greg sl.sa) 0 = .ok _ :=
    rowOfAddr_ok (e := .cc) (base := 0) (a := if sl.imm then sl.imm32.setWidth 64 else s.cur.cc.greg sl.sa) (by omega) (by omega)
  have hsa : (!sl.imm && s.cur.cc.gtag sl.sa) = false := by
    rcases hatag with himm | htag
    · rw [himm]; rfl
    · rw [htag, Bool.and_false]
  subst hvalue haddr
  simp only [arrivalOpnds, hsa, hvtag, hrow, Bool.false_eq_true, if_false]

/-- Settles O12: AARM is an operation on path YP, AWAIT a wait on the word's generation. -/
theorem arrivalSlotsComplete : Obligations.ArrivalSlotsComplete := by
  intro sl s w a v h
  have hfound : arrivalOpnds sl (s.onEngine .cc) = .ok (a, v) :=
    arrivalOpnds_found (w := w) ⟨h.atag, h.vtag, h.value, h.addr, h.have_, h.word⟩
  have hword : (s.onEngine .cc).cur.arrival a = .ok w := h.word
  refine ⟨fun ha hv => ?aarm, fun ha => ?await⟩
  case aarm =>
    refine slotAlone_sends (m := semAarm) ha rfl ?_
    simp only [semAarm, actAarm, hfound, hword, if_neg hv]
    rfl
  case await =>
    refine slotAlone_waits (m := semAwait) ha rfl ?_
    simp only [semAwait, actAwait, hfound, hword, Arrival.reached, decide_eq_true_eq, ← apply_ite Except.ok]
    rfl

/-! ## Rows and queues (R56, R58, R59, R126, R225, R284) -/

section Rows

variable {sl : Slot} {s : State} {row : Nat}

theorem slotRow_found (h : s.SlotRow sl row) : slotRow sl s = .ok row := by
  obtain ⟨htag, hsmall, hrow, hhave⟩ := h
  subst hrow
  simp only [slotRow, htag, rowOfAddr_ok hsmall hhave, Bool.false_eq_true, if_false]

/-- A cell with its access buffers and its queues as given. -/
def Cell.using (x : Cell) (o : Ord) (q : Queues) : Cell := { x with ord := o, q := q }

/-- The state after a timed access to a row's bank, with the executing cell's queues as given (R59). -/
def State.usingBank (s : State) (row : Nat) (q : Queues) : State := s.setCell s.curCell (s.cur.using (s.ordUsing row) q)

@[simp] theorem State.cur_usingBank (q : Queues) : (s.usingBank row q).cur = s.cur.using (s.ordUsing row) q :=
  State.cell_setCell_self s s.curCell _
@[simp] theorem State.curCell_usingBank (q : Queues) : (s.usingBank row q).curCell = s.curCell := rfl
@[simp] theorem State.uid_usingBank (q : Queues) : (s.usingBank row q).uid = s.uid := rfl
@[simp] theorem State.now_usingBank (q : Queues) : (s.usingBank row q).now = s.now := State.now_setCell _ _ _ rfl
@[simp] theorem State.div_usingBank (q : Queues) : (s.usingBank row q).div = s.div := by
  rw [State.div_eq, State.usingBank, State.engine_setCell _ _ _ rfl]
  rfl
theorem State.setCell_usingBank (q : Queues) (x : Cell) : (s.usingBank row q).setCell s.curCell x = s.setCell s.curCell x :=
  State.setCell_setCell s s.curCell _ _
/-- A change of the queues after the access. -/
theorem State.modQueues_usingBank (f : Queues → Queues) (q : Queues) :
    (s.usingBank row q).modCur (fun x => { x with q := f x.q }) = s.usingBank row (f q) := by
  rw [State.modCur_eq, State.curCell_usingBank, State.setCell_usingBank, ← State.curCell_usingBank q, ← State.cur_eq, State.cur_usingBank]
  rfl

/-- A bank takes a timed access while it has had fewer than four at the tick (R59). -/
theorem State.useBank_ok (hb : s.bankUse row < 4) : s.useBank row = .ok (s.usingBank row s.cur.q) := by
  have hx : s.cur.useBank row = some (s.cur.using (s.ordUsing row) s.cur.q) := if_pos hb
  simp only [State.useBank, hx]
  rfl

theorem cqRow_read (hb : s.bankUse row < 4) : cqRow row false s = .ok (s.usingBank row s.cur.q) := State.useBank_ok hb

/-- A write also needs the row to lie outside the registered window (R284). -/
theorem cqRow_write (hb : s.bankUse row < 4) (hw : s.cur.windowFlt .cc row = none) :
    cqRow row true s = .ok (s.usingBank row s.cur.q) := by
  simp only [cqRow, if_true, hw]
  exact State.useBank_ok hb

/-- The access buffers with one more read of a row (R124, R126). -/
def State.ordLoading (s : State) (row win : Nat) (toB : Option (Fin 4)) : Ord :=
  { s.ordUsing row with loads := s.cur.ord.loads ++ [⟨s.uid, s.now, s.now + win * s.div, s.cur.ord.mark, row, s.ccOff, toB, s.div⟩] }

/-- The access buffers with one more write of a row. -/
def State.ordStoring (s : State) (row win : Nat) (v : Row) (tag : Bool) : Ord :=
  { s.ordUsing row with stores := s.cur.ord.stores ++ [⟨s.uid, s.now, s.now + win * s.div, s.cur.ord.mark, row, v, tag, none, s.ccOff⟩] }

/-- A bank access and a read that enters the load buffer are one write to the cell. -/
theorem cqLoad_usingBank (win : Nat) (toB : Option (Fin 4)) (q : Queues) :
    cqLoad ⟨s.ccOff, 0, 0, 0⟩ row win toB (s.usingBank row q) =
      s.fresh.setCell s.curCell (s.cur.using (s.ordLoading row win toB) q) := by
  simp only [cqLoad, State.now_usingBank, State.div_usingBank, State.cur_usingBank, State.uid_usingBank]
  rw [State.modCur_eq, State.curCell_usingBank, State.setCell_usingBank, ← State.curCell_usingBank q, ← State.cur_eq, State.cur_usingBank]
  rfl

/-- A bank access and a write that enters the store buffer are one write to the cell. -/
theorem cqStore_usingBank (win : Nat) (v : Row) (tag : Bool) (q : Queues) :
    cqStore ⟨s.ccOff, 0, 0, 0⟩ row win v tag (s.usingBank row q) =
      s.fresh.setCell s.curCell (s.cur.using (s.ordStoring row win v tag) q) := by
  simp only [cqStore, State.now_usingBank, State.div_usingBank, State.cur_usingBank, State.uid_usingBank]
  rw [State.modCur_eq, State.curCell_usingBank, State.setCell_usingBank, ← State.curCell_usingBank q, ← State.cur_eq, State.cur_usingBank]
  rfl

theorem actLdrow_found (h : s.SlotRow sl row) (hb : s.bankUse row < 4) :
    actLdrow ⟨s.ccOff, 0, 0, 0⟩ sl s =
      .ok (s.fresh.setCell s.curCell (s.cur.using (s.ordLoading row 3 (some (Fin.ofNat 4 sl.dst.val))) s.cur.q)) := by
  simp only [actLdrow, slotRow_found h, cqRow_read hb, cqLoad_usingBank]

/-- QLD: a queue with room takes an entry. -/
theorem actQld_found (h : s.SlotRow sl row) (hb : s.bankUse row < 4) (hq : (s.cur.q.lq[Fin.ofNat 4 sl.dst.val]).length < 16) :
    let n := Fin.ofNat 4 sl.dst.val
    let entry : QEntry := ⟨s.uid, s.now + 6 * s.div, false, 0, false⟩
    actQld ⟨s.ccOff, 0, 0, 0⟩ sl s = .ok (s.fresh.setCell s.curCell
      (s.cur.using (s.ordLoading row 5 none) { s.cur.q with lq := s.cur.q.lq.set n (s.cur.q.lq[n] ++ [entry]) })) := by
  intro n entry
  have hpush : pushOf .cc (lqWhich n) (s.usingBank row s.cur.q).segTick (s.usingBank row s.cur.q).cur.q.lq[n] entry =
      .ok (s.cur.q.lq[n] ++ [entry]) := by
    rw [State.cur_usingBank]
    exact if_pos hq
  simp only [actQld, slotRow_found h, qldRow, cqRow_read hb, State.uid_usingBank, State.now_usingBank, State.div_usingBank]
  rw [hpush]
  have hmod := State.modQueues_usingBank (s := s) (row := row) (fun q => { q with lq := q.lq.set n (s.cur.q.lq[n] ++ [entry]) }) s.cur.q
  exact congrArg Except.ok ((congrArg (cqLoad _ row 5 none) hmod).trans (cqLoad_usingBank 5 none _))

/-- STROW, with the poison flag of a B register that holds a poisoned piece. -/
theorem actStrow_found (h : s.SlotRow sl row) (hb : s.bankUse row < 4) (hw : s.cur.windowFlt .cc row = none) :
    let n := Fin.ofNat 4 sl.dst.val
    let tag := s.cur.cc.bTag[n] != 0
    actStrow ⟨s.ccOff, 0, 0, 0⟩ sl s =
      .ok ((s.fresh.setCell s.curCell (s.cur.using (s.ordStoring row 2 s.cur.cc.b[n] tag) s.cur.q)).flagPoison s.ccOff tag) := by
  intro n tag
  simp only [actStrow, slotRow_found h, cqRow_write hb hw, State.cur_usingBank, cqStore_usingBank]
  rfl

/-- QST takes the visible head of the queue. -/
theorem actQst_found (h : s.SlotRow sl row) (hb : s.bankUse row < 4) (hw : s.cur.windowFlt .cc row = none) {e : QEntry} {rest : List QEntry}
    (hq : s.cur.q.sq[Fin.ofNat 2 sl.dst.val] = e :: rest) (hv : e.vis ≤ s.now) :
    actQst ⟨s.ccOff, 0, 0, 0⟩ sl s = .ok (s.fresh.setCell s.curCell
      (s.cur.using (s.ordStoring row 3 e.row e.tag) { s.cur.q with sq := s.cur.q.sq.set (Fin.ofNat 2 sl.dst.val) rest })) := by
  have hhead (due : Nat) : headOf .cc (sqWhich (Fin.ofNat 2 sl.dst.val)) s.now due s.cur.q.sq[Fin.ofNat 2 sl.dst.val] = .ok e := by
    rw [hq]
    exact if_pos hv
  have htail : s.cur.q.sq[Fin.ofNat 2 sl.dst.val].tail = rest := congrArg List.tail hq
  simp only [actQst, slotRow_found h, qstRow, cqRow_write hb hw, State.now_usingBank, State.cur_usingBank, Cell.using, hhead]
  have hmod := State.modQueues_usingBank (s := s) (row := row)
    (fun q => { q with sq := q.sq.set (Fin.ofNat 2 sl.dst.val) q.sq[Fin.ofNat 2 sl.dst.val].tail }) s.cur.q
  simp only [htail] at hmod
  rw [hmod, cqStore_usingBank]
  rfl

end Rows

/-- A result that goes into flight after one write to the executing cell is part of that write. -/
theorem State.landAfter_setCell (s : State) (x : Cell) (c : Ctx) (n : Nat) (d : Land) (vf mf : FlagBits) (k : BitVec 2)
    (hg : x.gang = s.cur.gang) (he : x.engine s.curEng = s.engine) :
    (s.setCell s.curCell x).landAfter c n d vf mf k = s.fresh.setCell s.curCell { x with
      flight := x.flight ++ [⟨s.now + n * s.div, s.uid, s.curEng, c.off, d, vf, mf, k⟩] } := by
  have hdiv : (s.setCell s.curCell x).div = s.div := by
    rw [State.div_eq, State.engine_setCell _ _ _ rfl, he, State.div_eq]
  simp only [State.landAfter, State.now_setCell _ _ _ hg, hdiv, State.land, State.modCur_eq, State.setCell_curCell,
    State.cell_setCell_self, State.setCell_setCell, State.fresh_setCell]
  rfl

/-- So is the poison flag that the slot raises. -/
theorem State.flagPoison_setCell (s : State) (x : Cell) (off : Nat) (b : Bool) (hg : x.gang = s.cur.gang)
    (he : x.engine s.curEng = s.engine) :
    (s.setCell s.curCell x).flagPoison off b = { s.setCell s.curCell { x with
      flight := x.flight ++ if b then [⟨s.now + s.div, s.uid, s.curEng, off, .flags, 0, 0, 2⟩] else [] } with
        uid := s.uid + b.toNat } := by
  cases b with
  | false =>
    simp only [Bool.false_eq_true, if_false, List.append_nil]
    rfl
  | true =>
    simp only [State.flagPoison, if_true, State.landAfter_setCell s x _ _ _ _ _ _ hg he, Nat.one_mul]
    rfl

theorem State.becomes_flagPoison {s u : State} (x : Cell) (off : Nat) (b : Bool) (hc : u.cells = s.cells) (hk : u.curCell = s.curCell)
    (hr : { u with cells := s.cells, uid := s.uid, curEng := s.curEng } = s) (hg : x.gang = u.cur.gang)
    (he : x.engine u.curEng = u.engine) :
    s.Becomes ((u.setCell s.curCell x).flagPoison off b) { x with
      flight := x.flight ++ if b then [⟨u.now + u.div, u.uid, u.curEng, off, .flags, 0, 0, 2⟩] else [] } := by
  rw [← hk, State.flagPoison_setCell u x off b hg he, hk]
  exact State.becomes_setCell (u := { u with uid := u.uid + b.toNat }) _ hc hk hr

/-- Settles O6: two reads that enter the load buffer, and two writes that enter the store buffer. -/
theorem rowSlotsComplete : Obligations.RowSlotsComplete := by
  intro sl s row h hb o load store
  have hrow : (s.onEngine .cc).SlotRow sl row := ⟨h.tag, h.small, h.isRow, h.have_⟩
  have hbank : (s.onEngine .cc).bankUse row < 4 := hb
  refine ⟨fun ha => ?ldrow, fun ha hq => ?qld, fun ha hw => ?strow, fun ha hw e rest hq hv => ?qst⟩
  case ldrow => exact slotAlone_becomes (m := semLdrow) ha rfl (actLdrow_found hrow hbank)
  case qld => exact slotAlone_becomes (m := semQld) ha rfl (actQld_found hrow hbank hq)
  case strow =>
    exact ⟨_, slotAlone_ok (m := semStrow) ha rfl (actStrow_found hrow hbank hw),
      State.becomes_flagPoison (u := (s.onEngine .cc).fresh) _ _ _ rfl rfl rfl rfl rfl⟩
  case qst => exact slotAlone_becomes (m := semQst) ha rfl (actQst_found hrow hbank hw hq hv)

/-! ## YQ and claim rounds (R57, R235, R236) -/

/-- The cell after the oldest entry has left YQ, with the result that brings its value (R57, R235). -/
def State.yqPopped (s : State) (sl : Slot) (e : YEntry) (rest : List YEntry) (due : Nat) : Cell :=
  { s.cur with
    q := { s.cur.q with yq := rest, yRet := s.cur.q.yRet ++ [e] }
    flight := s.cur.flight ++ [⟨due, s.uid, s.curEng, s.ccOff, .ypop sl.dst (Fin.ofNat 16 sl.imm32.toNat) e.uid, 0, 0, 0⟩] }

section Pop

variable {sl : Slot} {s : State} {e : YEntry} {rest : List YEntry}

/-- A YPOP of a value that has arrived is one write to the cell. -/
theorem actYpop_arrived (hq : s.cur.q.yq = e :: rest) (ha : e.arrived = true) :
    actYpop ⟨s.ccOff, 0, 0, 0⟩ sl s = .ok (s.fresh.setCell s.curCell (s.yqPopped sl e rest (s.now + s.div))) := by
  simp only [actYpop, hq, ha, if_true, State.modCur_eq]
  rw [State.landAfter_setCell]
  · rw [Nat.one_mul]
    rfl
  · rfl
  · rfl

/-- A YPOP of a value that has not arrived asks for a freeze as well (R57). -/
theorem actYpop_waits (hq : s.cur.q.yq = e :: rest) (ha : e.arrived = false) :
    actYpop ⟨s.ccOff, 0, 0, 0⟩ sl s = .ok ((s.fresh.request (s.gidOf s.curCell) (.yq s.curCell)).setCell s.curCell
      (s.yqPopped sl e rest (s.now + (s.gangOf s.curCell).dstall + s.div))) := by
  simp only [actYpop, hq, ha, Bool.false_eq_true, if_false, State.land, State.modCur_eq, State.request, State.modGang_eq,
    State.setCell_curCell, State.setGang_curCell, State.gang_setCell, State.setGang_setCell, State.cell_setCell_self, State.setCell_setCell,
    State.fresh_setCell]
  rfl

end Pop

/-- Lanes below n of a B register without a poisoned one among them (R236). -/
theorem noLaneBad {n : Nat} {p : Nat → Bool} (h : ∀ k < n, p k = false) : (List.range n).any p = false := by
  rw [List.any_eq_false]
  intro k hk
  rw [h k (List.mem_range.mp hk)]
  exact Bool.false_ne_true

/-- A YCLM reserves its YQ entry and enters its part of the round: one write to the cell (R236). -/
theorem actYclm_found {sl : Slot} {s : State} (hc : ∀ k < sl.imm32.toNat % 128, s.cur.cc.bTag[Fin.ofNat 4 sl.sa.val].getLsbD (k / 2) = false)
    (hr : (s.gangOf s.curCell).member s.curCell = 0 →
      ∀ k < sl.imm32.toNat % 128, s.cur.cc.bTag[Fin.ofNat 4 sl.sb.val].getLsbD (k / 2) = false)
    (hq : s.cur.q.yq.length < 16) :
    actYclm ⟨s.ccOff, 0, 0, 0⟩ sl s = .ok (s.fresh.setCell s.curCell { s.cur with
      ord := s.ypWith (.yclm (sl.imm32.toNat % 128) (Fin.ofNat 4 sl.dst.val) s.cur.cc.b[Fin.ofNat 4 sl.sa.val]
        s.cur.cc.b[Fin.ofNat 4 sl.sb.val] true) [] 4
      q := s.yqWith }) := by
  have hcounts := noLaneBad hc
  have hring : (decide ((s.gangOf s.curCell).member s.curCell = 0) &&
      (List.range (sl.imm32.toNat % 128)).any fun k => s.cur.cc.bTag[Fin.ofNat 4 sl.sb.val].getLsbD (k / 2)) = false := by
    by_cases h0 : (s.gangOf s.curCell).member s.curCell = 0
    · rw [noLaneBad (hr h0), Bool.and_false]
    · rw [decide_eq_false h0, Bool.false_and]
  have hreserve : reserveYq s = .ok (s.modCur fun x => { x with q := s.yqWith }) := if_pos hq
  have hcc : (s.modCur fun x => { x with q := s.yqWith }).cur.cc = s.cur.cc := by
    rw [State.modCur_eq, State.cur, State.setCell_curCell, State.cell_setCell_self]
    rfl
  simp only [actYclm, hcounts, hring, hreserve, Bool.false_eq_true, if_false, claimPart, hcc, if_true]
  rw [← ypReturn_room hq, ypReturn, hreserve]

/-- Settles O15: a value that has arrived lands, another also asks for a freeze; a YCLM returns through YQ. -/
theorem returnSlotsComplete : Obligations.ReturnSlotsComplete := by
  intro sl s
  refine ⟨fun h e rest hq ha => ?arrived, fun h e rest hq ha => ?waits, fun h hc hr hq => ?yclm⟩
  case arrived => exact slotAlone_becomes (m := semYpop) h rfl (actYpop_arrived (s := s.onEngine .cc) hq ha)
  case waits =>
    refine ⟨_, slotAlone_ok (m := semYpop) h rfl (actYpop_waits (s := s.onEngine .cc) hq ha), ?cell, ?gang⟩
    case cell => exact State.cell_setCell_self _ s.curCell _
    case gang =>
      change (State.setCell _ s.curCell ((s.onEngine .cc).yqPopped sl e rest _)).gangOf s.curCell = _
      rw [State.gangOf, State.gidOf_setCell_self, State.gang_setCell]
      exact State.gang_request_self (s.onEngine .cc).fresh _ _
  case yclm => exact slotAlone_becomes (m := semYclm) h rfl (actYclm_found (s := s.onEngine .cc) hc hr hq)

end Sys2Proof.Machine
end

section
/-! SUPPORT. The canonical form of the stores, store by store; it settles O59. -/

namespace Sys2Proof.Machine

theorem State.canonical_iff (s : State) : s.canonical = true ↔
    Memory.wf s.mem = true ∧ (∀ c, (s.cell c).canonical = true) ∧ ∀ i ∈ s.images, ∀ x ∈ i.members, x.canonical = true := by
  simp only [State.canonical, Bool.and_eq_true, List.all_eq_true, Vector.mem_toList_iff, and_assoc]
  refine and_congr_right fun _ => and_congr_left fun _ => ⟨fun h c => h _ (Vector.getElem_mem c.isLt), fun h x hx => ?_⟩
  obtain ⟨i, hi, rfl⟩ := Vector.mem_iff_getElem.mp hx
  exact h ⟨i, hi⟩

/-- Settles O59: memory, images and every cell's rows list nothing after reset. -/
theorem resetCanonical : Obligations.ResetCanonical := by
  refine (State.canonical_iff _).mpr ⟨rfl, fun c => ?_, fun i hi => absurd hi List.not_mem_nil⟩
  have hcell : State.reset.cell c = Cell.reset := by
    simp [State.cell, State.reset]
  rw [hcell]
  rfl

end Sys2Proof.Machine
end

section
/-! SUPPORT. The ordering machine (Ordering.lean, SyncPerform.lean): buffers, writes, advances, FENCEs and parity; it settles O41. -/

namespace Sys2Proof.Machine

/-! ## The CQ buffers (R124, R126, R284) -/

/-- The window refuses a write to a registered row, and only that. -/
theorem Cell.windowFlt_none {x : Cell} {e : Eng} {row : Nat} (h : ¬ Registered x row) : x.windowFlt e row = none := by
  unfold Cell.windowFlt
  split
  next => rfl
  next w hw =>
    refine if_neg fun hany => h ⟨w, hw, ?_⟩
    simpa using hany

theorem Cell.windowFlt_some {x : Cell} {row : Nat} (h : Registered x row) :
    ∃ f, x.windowFlt .cc row = some f ∧ f.cls = 0x0B ∧ f.unit = 0 := by
  obtain ⟨w, hw, g, hg, hit⟩ := h
  have hany : (w.ranges.any (WinRange.hits x · row)) = true := List.any_eq_true.mpr ⟨g, hg, hit⟩
  refine ⟨⟨0x0B, 0, 2 + row % 32768 * 4 + w.key.tile.toNat * 2 ^ 32 + w.key.label.toNat * 2 ^ 48, 0, false, 0⟩, ?_, rfl, rfl⟩
  simp only [Cell.windowFlt, hw, hany, if_true]
  rfl

section Buffers

variable {s : State} {c : CellId}

/-- The store at the head of the buffer may drain where no earlier load waits. -/
theorem Cell.mayDrain_head {x : Cell} {w : CqStore} {rest : List CqStore} (hs : x.ord.stores = w :: rest)
    (hl : ∀ l ∈ x.ord.loads, w.mark ≤ l.tick) : x.mayDrain = true := by
  have hany : (x.ord.loads.any fun l => decide (l.tick < w.mark)) = false := List.any_eq_false.mpr fun l hm => by simpa using hl l hm
  simp only [Cell.mayDrain, hs, hany, Bool.not_false]

/-- The load at the head of the buffer may be performed where no earlier store waits. -/
theorem Cell.mayLoad_head {x : Cell} {l : CqLoad} {rest : List CqLoad} (hs : x.ord.loads = l :: rest)
    (hl : ∀ w ∈ x.ord.stores, l.mark ≤ w.tick) : x.mayLoad = true := by
  have hany : (x.ord.stores.any fun w => decide (w.tick < l.mark)) = false := List.any_eq_false.mpr fun w hm => by simpa using hl w hm
  simp only [Cell.mayLoad, hs, hany, Bool.not_false]

/-- The cell after the store at the head of its buffer has left it. -/
def Cell.drained (x : Cell) (rest : List CqStore) : Cell := { x with ord := { x.ord with stores := rest } }

theorem State.gangOf_drained (s : State) (c : CellId) (rest : List CqStore) :
    (s.setCell c ((s.cell c).drained rest)).gangOf c = s.gangOf c := State.gangOf_setCell s c c _ (by rfl)

theorem drain_free {w : CqStore} {rest : List CqStore} (hs : (s.cell c).ord.stores = w :: rest)
    (hl : ∀ l ∈ (s.cell c).ord.loads, w.mark ≤ l.tick) (hr : ¬ Registered (s.cell c) w.row) :
    exec (.drain c) s = .next { s.setCell c ((s.cell c).drained rest) with
      fabric := s.fabric ++
        [⟨w.uid, c, .cq, 0, w.fby, .sp c w.row, .set, w.v, BitVec.allOnes 256, w.tag, false, some (s.gangOf c).tick, none⟩] } := by
  change execDrain c s = _
  have hg := State.gangOf_drained s c rest
  simp only [execDrain, hs, Cell.mayDrain_head hs hl, if_true, Cell.windowFlt_none hr, State.drainTimed]
  rw [← hg]
  rfl

theorem drain_registered {w : CqStore} {rest : List CqStore} (hs : (s.cell c).ord.stores = w :: rest)
    (hl : ∀ l ∈ (s.cell c).ord.loads, w.mark ≤ l.tick) (hr : Registered (s.cell c) w.row) :
    ∃ t f, exec (.drain c) s = .next t ∧ t.cell c = ((s.cell c).drained rest) ∧
      t.fabric = s.fabric ∧ (t.gangOf c).faults = (s.gangOf c).faults ++ [f] ∧ f.cls = 0x0B ∧ f.unit = 0 ∧ f.off = w.off := by
  obtain ⟨f, hf, hcls, hunit⟩ := Cell.windowFlt_some hr
  have hexec : execDrain c s = .next ((s.setCell c ((s.cell c).drained rest)).fault c .cc w.off
      (s.gangOf c).tick none f) := by
    simp only [execDrain, hs, Cell.mayDrain_head hs hl, if_true, hf]
    rfl
  refine ⟨_, State.faultRecord (s.setCell c ((s.cell c).drained rest)) c .cc w.off
    (s.gangOf c).tick none f, hexec, State.cell_setCell_self s c _, rfl, ?_, hcls, hunit, rfl⟩
  rw [State.gangOf_fault, State.gangOf_drained]

/-- A path that has no write of its own to a row sees the row of the store. -/
theorem State.visible_stored {p : Path} {l : Loc} (h : ∀ w ∈ s.fabric, ¬ (w.cell = c ∧ w.path = p ∧ w.loc = l)) :
    s.visible c p l = s.stored l := by
  unfold State.visible
  generalize s.stored l = x
  revert h x
  induction s.fabric with
  | nil => exact fun _ _ => rfl
  | cons w f ih =>
    intro h x
    have hw := h w List.mem_cons_self
    rw [List.foldl_cons, if_neg (by simpa [and_assoc] using hw)]
    exact ih (fun v hv => h v (List.mem_cons_of_mem w hv)) x

theorem load_lands {uid : Nat} {l : CqLoad} {rest : List CqLoad} {b : Fin 4} (hs : (s.cell c).ord.loads = l :: rest)
    (hl : ∀ w ∈ (s.cell c).ord.stores, l.mark ≤ w.tick) (hb : l.toB = some b)
    (hf : ∀ w ∈ s.fabric, ¬ (w.cell = c ∧ w.path = .cq ∧ w.loc = .sp c l.row)) :
    exec (.performARead c .cq uid) s = .next (s.setCell c { s.cell c with
      ord := { (s.cell c).ord with loads := rest }
      flight := (s.cell c).flight ++ [⟨l.tick + 4 * l.div, l.uid, .cc, l.off,
        .b b ((s.cell c).row l.row) (allTags 32 ((s.cell c).rowTag l.row)), 0, 0, 0⟩] }) := by
  change Host.Outcome.next (cqPerform c s) = _
  simp only [cqPerform, hs, Cell.mayLoad_head hs hl, if_true, State.visible_stored hf, hb]
  rfl

end Buffers

/-! ## A FENCE that ends, and parity (R91, R133) -/

theorem State.holderOf_eq {s : State} {c : CellId} {uid : Nat} {h : Hold}
    (hh : (s.cell c).ord.holds.find? (fun k => decide (k.uid = uid)) = some h)
    (hd : ∀ d, d ≠ c → ∀ k ∈ (s.cell d).ord.holds, k.uid ≠ uid) : s.holderOf uid = some c := by
  have hc : ((s.cell c).ord.holds.any fun k => decide (k.uid = uid)) = true :=
    List.any_eq_true.mpr ⟨h, List.mem_of_find?_eq_some hh, List.find?_some (p := fun k : Hold => decide (k.uid = uid)) hh⟩
  cases ho : s.holderOf uid with
  | none => exact absurd hc (by simpa using List.find?_eq_none.mp ho c (List.mem_finRange c))
  | some d =>
    by_contra hne
    have hany := List.find?_some (p := fun d => (s.cell d).ord.holds.any fun k => decide (k.uid = uid)) ho
    obtain ⟨k, hk, hu⟩ := List.any_eq_true.mp hany
    exact hd d (fun e => hne (congrArg some e)) k hk (of_decide_eq_true hu)

theorem release_ends {s : State} {c : CellId} {h : Hold} (hh : ((s.cell c).ord.holds.find? fun k => decide (k.uid = h.uid)) = some h)
    (hd : ∀ d, d ≠ c → ∀ k ∈ (s.cell d).ord.holds, k.uid ≠ h.uid) (hf : s.holds c h = false) :
    exec (.release h.uid) s = .next (s.setCell c { s.cell c with
      ord := { (s.cell c).ord with holds := (s.cell c).ord.holds.filter fun k => decide (k.uid ≠ h.uid) } }) := by
  change execRelease h.uid s = _
  simp only [execRelease, State.holderOf_eq hh hd, hh, hf, Bool.false_eq_true, if_false]

section Parity

variable {s : State} {d : Delta}

/-- While no layout change runs every chunk has its parity. -/
theorem exec_parityDeltaApply (h : (s.deltas.find? fun e => decide (e.parity = d.parity)) = some d) (hm : s.layout.moving = false) :
    exec (.parityDeltaApply d.parity) s = .next (s.applyDelta d) := by
  have hp : s.layout.hasParity d.parity = true := by
    simp only [Layout.hasParity, hm, Bool.false_and, Bool.not_false, Bool.true_or]
  change execParityDeltaApply d.parity s = _
  simp only [execParityDeltaApply, h, hp, Bool.not_true, Bool.false_eq_true, if_false]

theorem State.applyDelta_single (h : d.full = false) : s.applyDelta d = { s with
    deltas := s.deltas.filter fun e => decide (e.uid ≠ d.uid ∨ e.blk ≠ d.blk) } := by
  simp only [State.applyDelta, h, Bool.false_eq_true, if_false, ← Bool.decide_or, Bool.decide_eq_true]

theorem State.applyDelta_stripe (h : d.full = true) (hq : ∀ m ∈ (s.cell d.cell).se.queue, m.uid ≠ d.cmd) : s.applyDelta d = { s with
    deltas := s.deltas.filter fun e => decide (¬ (e.full = true ∧ e.cmd = d.cmd ∧ e.parity = d.parity)) } := by
  have hover : ((s.cell d.cell).se.queue.any fun m => decide (m.uid = d.cmd) && (m.phase = .running || m.phase = .ending)) = false :=
    List.any_eq_false.mpr fun m hm => by simp [hq m hm]
  have hsame (e : Delta) : (!d.sameStripe e) = decide (¬ (e.full = true ∧ e.cmd = d.cmd ∧ e.parity = d.parity)) := by
    rw [decide_not, Bool.decide_and, Bool.decide_eq_true]
    rfl
  simp only [State.applyDelta, h, if_true, hover, Bool.false_and, Bool.false_eq_true, if_false, hsame]

end Parity

/-! ## Bytes of rows and of device memory (R2, R58, R91) -/

theorem byteAt_ofNat_packNat (f : Nat → Nat) {k : Nat} (hk : k < 256) (hf : f k < 2 ^ 8) :
    (byteAt (BitVec.ofNat 2048 (packNat 8 f 256)) k).toNat = f k := by
  rw [byteAt, toNat_extract_ofNat _ _ _ _ (packNat_lt_of f (by decide)), fieldOf_packNat 8 f k 256 hk, Nat.mod_eq_of_lt hf]

/-- The bytes that a mask selects are the new ones. -/
theorem byteAt_mergeBytes (m : BitVec 256) (a b : Row) {k : Nat} (hk : k < 256) :
    byteAt (mergeBytes m a b) k = if m.getLsbD k then byteAt b k else byteAt a k := by
  apply BitVec.eq_of_toNat_eq
  rw [mergeBytes, byteAt_ofNat_packNat _ hk (by split <;> exact BitVec.isLt _)]
  split <;> rfl

theorem Row.ext_byteAt {a b : Row} (h : ∀ k < 256, byteAt a k = byteAt b k) : a = b := by
  refine BitVec.eq_of_getLsbD_eq fun i hi => ?_
  have hbit (r : Row) : r.getLsbD i = (byteAt r (i / 8)).getLsbD (i % 8) := by
    rw [byteAt, BitVec.getLsbD_extractLsb', decide_eq_true (Nat.mod_lt i (by decide)), Bool.true_and, Nat.div_add_mod]
  rw [hbit a, hbit b, h (i / 8) (by omega)]

theorem mergeBytes_allOnes (a b : Row) : mergeBytes (BitVec.allOnes 256) a b = b := by
  refine Row.ext_byteAt fun k hk => ?_
  rw [byteAt_mergeBytes _ _ _ hk, BitVec.getLsbD_allOnes, decide_eq_true hk, if_pos rfl]

theorem ofNat_div_byteAt (v : Row) (i : Nat) : BitVec.ofNat 8 (v.toNat / 2 ^ (8 * i)) = byteAt v i := by
  apply BitVec.eq_of_toNat_eq
  rw [byteAt, BitVec.extractLsb'_toNat, Nat.shiftRight_eq_div_pow, BitVec.toNat_ofNat]

/-- A masked store reads back the bytes that the mask selects, and the old ones elsewhere. -/
theorem assocGet_memPutMasked (n : Nat) : ∀ (m : Memory) (a v k i : Nat), Memory.wf m = true → i < n →
    assocGet 0 (memPutMasked m a v k n) (a + i) = if k.testBit i then BitVec.ofNat 8 (v / 2 ^ (8 * i)) else assocGet 0 m (a + i) := by
  induction n with
  | zero => intro m a v k i _ hi; omega
  | succ n ih =>
    intro m a v k i w hi
    have w' : Memory.wf (if k % 2 = 1 then assocPut 0 m a (BitVec.ofNat 8 v) else m) = true := by
      split
      · exact assocPut_wf _ _ w
      · exact w
    cases i with
    | zero =>
      rw [memPutMasked, Nat.add_zero a, memPutMasked_other n _ _ _ _ _ w' (Or.inl (Nat.lt_add_one a)), Nat.testBit_zero]
      by_cases hk : k % 2 = 1
      · rw [if_pos hk, if_pos (decide_eq_true hk), assocGet_assocPut_self w]
        simp
      · rw [if_neg hk, if_neg (by simpa using hk)]
    | succ i =>
      have hv : v / 256 / 2 ^ (8 * i) = v / 2 ^ (8 * (i + 1)) := by
        rw [Nat.div_div_eq_div_mul, Nat.mul_succ, Nat.pow_add, Nat.mul_comm]
      have hother : assocGet 0 (if k % 2 = 1 then assocPut 0 m a (BitVec.ofNat 8 v) else m) (a + (i + 1)) = assocGet 0 m (a + (i + 1)) := by
        split
        · exact assocGet_assocPut_ne (by omega) w
        · rfl
      have hat : a + 1 + i = a + (i + 1) := by omega
      rw [memPutMasked, ← hat, ih _ _ _ _ _ w' (by omega), hv, hat, hother, Nat.testBit_succ]

/-! ## Performing a write (R91, R124, R125) -/

section Writes

variable {s : State} {w : FWrite}

/-- A write whose location has no other write of its cell comes first, unless a timed write may still drain before it. -/
theorem State.firstOfLoc_alone (h : ∀ x ∈ s.fabric, x.cell = w.cell → x.loc = w.loc → x = w) (ht : s.tieAhead w = false) :
    s.firstOfLoc w = true := by
  have hrival : ∀ x ∈ s.fabric.filter fun x => decide (x.cell = w.cell) && decide (x.loc = w.loc) && x.src.isNone, x = w := by
    intro x hx
    obtain ⟨hm, hc⟩ := List.mem_filter.mp hx
    simp only [Bool.and_eq_true, decide_eq_true_eq] at hc
    exact h x hm hc.1.1 hc.1.2
  have hany : ((s.fabric.filter fun x => decide (x.cell = w.cell) && decide (x.loc = w.loc) && x.src.isNone).any
      fun x => x.tick.isSome && x.tick == w.tick && decide (x.uid < w.uid)) = false :=
    List.any_eq_false.mpr fun x hx => by simp [hrival x hx]
  simp only [State.firstOfLoc, hany, ht, Bool.not_false, Bool.and_true]
  refine (Bool.or_eq_true _ _).mpr (Or.inr ?_)
  split
  next x hx => exact decide_eq_true (by rw [hrival x (List.mem_of_find?_eq_some hx)])
  next => rfl

theorem State.tieAhead_row {d : CellId} {r : Nat} (hl : w.loc = .sp d r) (h : s.NoTie w r) : s.tieAhead w = false := by
  by_cases ht : w.tick = some (s.gangOf w.cell).tick
  · obtain ⟨hst, hfl⟩ := h ht
    have hstores : ((s.cell w.cell).ord.stores.any fun q => decide (q.row = r) && decide (q.uid < w.uid)) = false :=
      List.any_eq_false.mpr fun q hq => by simp [hst q hq]
    simp only [State.tieAhead, hl, hstores, Bool.false_or]
    refine (Bool.and_eq_false_iff).mpr (Or.inr (List.any_eq_false.mpr fun l hm => ?_))
    have hno := hfl l hm
    split
    next k v tag hd =>
      have hne : k ≠ r := fun he => hno v tag (by rw [hd, he])
      simp [hne]
    next => simp
  · have hb : (w.tick == some (s.gangOf w.cell).tick) = false := by simpa using ht
    simp only [State.tieAhead, hb, Bool.false_and]

theorem State.tieAhead_hbm {b : Nat} (hl : w.loc = .hbm b) : s.tieAhead w = false := by
  simp only [State.tieAhead, hl, Bool.and_false]

/-- The state whose fabric a write has left. -/
def State.withoutWrite (s : State) (uid : Nat) : State := { s with fabric := s.fabric.filter fun x => decide (x.uid ≠ uid) }

/-- Flags of a write change neither rows nor memory, nor the fabric, nor the deltas. -/
theorem State.writeFlags_frame (s : State) (w : FWrite) (f : FlagBits) : (s.writeFlags w f).fabric = s.fabric ∧
    (s.writeFlags w f).mem = s.mem ∧ (s.writeFlags w f).deltas = s.deltas ∧ ∀ c, ((s.writeFlags w f).cell c).sp = (s.cell c).sp := by
  unfold State.writeFlags
  split
  · refine ⟨rfl, rfl, rfl, fun c => ?_⟩
    by_cases hc : c = w.cell
    · rw [hc, State.modCell_eq, State.cell_setCell_self]; rfl
    · rw [State.modCell_eq, State.cell_setCell_ne _ _ (Ne.symm hc)]
  · exact ⟨rfl, rfl, rfl, fun _ => rfl⟩

/-- A write that comes first of its location, to a row, reaches the row. -/
theorem exec_performAWrite {v : FWrite} (hf : (s.fabric.find? fun x => decide (x.uid = v.uid)) = some w) (h : s.firstOfLoc w = true) :
    exec (.performAWrite v.uid) s = .next (s.tryWrite w) := by
  change execPerformAWrite v.uid s = _
  simp only [execPerformAWrite, hf, h, if_true]

theorem Cell.row_putRow {x : Cell} (hx : x.canonical = true) (r q : Nat) (v : Row) (tag : Bool) :
    (x.putRow r v tag).row q = if q = r then v else x.row q := by
  have hwf : assocWf 0 x.sp = true := by
    simp only [Cell.canonical, Bool.and_eq_true] at hx
    exact hx.1
  split
  next h => rw [h]; exact assocGet_assocPut_self hwf
  next h => exact assocGet_assocPut_ne h hwf

theorem writeRow {d : CellId} {r : Nat} (hf : (s.fabric.find? fun x => decide (x.uid = w.uid)) = some w)
    (h : ∀ x ∈ s.fabric, x.cell = w.cell → x.loc = w.loc → x = w) (hop : w.op = .set) (hl : w.loc = .sp d r)
    (hb : w.bytes = BitVec.allOnes 256) (ht : s.NoTie w r) (hc : s.canonical = true) :
    ∃ t, exec (.performAWrite w.uid) s = .next t ∧ t.fabric = s.fabric.filter (fun x => decide (x.uid ≠ w.uid)) ∧
      (t.cell d).row r = w.v ∧ (∀ e q, (e ≠ d ∨ q ≠ r) → (t.cell e).row q = (s.cell e).row q) ∧ ∀ a, t.byte a = s.byte a := by
  have htry : s.tryWrite w = s.performWrite w := by simp only [State.tryWrite, hl]
  have happly (o : Row × Bool) : w.apply o = (w.v, 0) := by simp only [FWrite.apply, hop, hb, mergeBytes_allOnes]
  obtain ⟨tag, hperform⟩ : ∃ tag, s.performWrite w =
      ((s.withoutWrite w.uid).setCell d ((s.cell d).putRow r w.v tag)).writeFlags w 0 := by
    simp only [State.performWrite, hl, happly]
    exact ⟨_, rfl⟩
  refine ⟨_, exec_performAWrite hf (State.firstOfLoc_alone h (State.tieAhead_row hl ht)), ?_⟩
  rw [htry, hperform]
  obtain ⟨hfab, hmem, _, hsp⟩ := State.writeFlags_frame
    ((s.withoutWrite w.uid).setCell d ((s.cell d).putRow r w.v tag)) w 0
  have hcell := ((State.canonical_iff s).mp hc).2.1 d
  have hrow (e : CellId) (q : Nat) : ((((s.withoutWrite w.uid).setCell d
      ((s.cell d).putRow r w.v tag)).writeFlags w 0).cell e).row q = if e = d then (if q = r then w.v else (s.cell d).row q) else (s.cell e).row q := by
    rw [Cell.row, hsp e]
    split
    next he => rw [he, State.cell_setCell_self]; exact Cell.row_putRow hcell r q w.v tag
    next he => rw [State.cell_setCell_ne _ _ (Ne.symm he)]; rfl
  refine ⟨hfab, ?_, fun e q hne => ?_, fun a => congrArg (assocGet 0 · a) hmem⟩
  · rw [hrow, if_pos rfl, if_pos rfl]
  · rw [hrow]
    split
    next he => rw [if_neg (hne.resolve_left fun hn => hn he), he]
    next he => rfl

/-- In the layout of twelve stacks every delta is queued. -/
theorem State.queueDelta_eq (d : Delta) (h : s.layout.mode = 0) :
    s.queueDelta d = { s with deltas := s.deltas ++ [{ d with parity := s.layout.parityOf (d.blk / 8) }] } := by
  have hlost (b : Bool) : (decide (s.layout.mode = 1) && b) = false := by rw [h]; rfl
  simp only [State.queueDelta, hlost, Bool.false_eq_true, if_false]

/-- What a masked write of a block leaves of memory. -/
theorem State.byte_blockWrite (hm : Memory.wf s.mem = true) (b : Nat) (v : Row) (m : BitVec 256) (tag : Bool) :
    (∀ i < 256, (s.blockWrite b v m tag).byte (256 * b + i) = if m.getLsbD i then byteAt v i else s.byte (256 * b + i)) ∧
    ∀ a, a / 256 ≠ b → (s.blockWrite b v m tag).byte a = s.byte a := by
  have hmem : (s.blockWrite b v m tag).mem = memPutMasked s.mem (256 * b) v.toNat m.toNat 256 := by
    simp only [State.blockWrite]
  refine ⟨fun i hi => ?_, fun a ha => ?_⟩
  · rw [State.byte, hmem, assocGet_memPutMasked 256 _ _ _ _ i hm hi, ofNat_div_byteAt]
    rfl
  · have hor : a < 256 * b ∨ 256 * b + 256 ≤ a := by clear hmem; omega
    rw [State.byte, hmem, memPutMasked_other 256 _ _ _ _ a hm hor]
    rfl

theorem writeBlock {b : Nat} (hf : (s.fabric.find? fun x => decide (x.uid = w.uid)) = some w)
    (h : ∀ x ∈ s.fabric, x.cell = w.cell → x.loc = w.loc → x = w) (hop : w.op = .set) (hl : w.loc = .hbm b)
    (hheld : s.frameHeld (b / 256) = false) (hmode : s.layout.mode = 0) (hc : s.canonical = true) :
    ∃ t full, exec (.performAWrite w.uid) s = .next t ∧ t.fabric = s.fabric.filter (fun x => decide (x.uid ≠ w.uid)) ∧
      (∀ i < 256, t.byte (256 * b + i) = if w.bytes.getLsbD i then (w.v.extractLsb' (8 * i) 8) else s.byte (256 * b + i)) ∧
      (∀ a, a / 256 ≠ b → t.byte a = s.byte a) ∧
      t.deltas = s.deltas ++
        [⟨w.uid, w.cmd, w.cell, (s.gangOf w.cell).asid, b, s.layout.parityOf (b / 8), w.src.isNone, w.path, full⟩] ∧
      (w.bytes ≠ BitVec.allOnes 256 → full = false) := by
  have htry : s.tryWrite w = s.performWrite w := by simp only [State.tryWrite, hl, hheld, Bool.false_eq_true, if_false]
  have happly (o : Row × Bool) : w.apply o = (mergeBytes w.bytes o.1 w.v, 0) := by simp only [FWrite.apply, hop]
  obtain ⟨u, old, hu, hperform⟩ : ∃ u old, u = (s.withoutWrite w.uid).blockWrite b
      (mergeBytes w.bytes old w.v) w.bytes w.tag ∧ s.performWrite w = (u.addDelta w b).writeFlags w 0 := by
    refine ⟨_, ((s.withoutWrite w.uid).blockRead b).1, rfl, ?_⟩
    simp only [State.performWrite, hl, happly, hop, bne_self_eq_false, Bool.false_and, Bool.or_false]
    rfl
  have hdelta : u.addDelta w b = { u with deltas := u.deltas ++ [⟨w.uid, w.cmd, w.cell, (u.gangOf w.cell).asid, b, u.layout.parityOf (b / 8),
      w.src.isNone, w.path, u.fullStripe w b⟩] } := State.queueDelta_eq _ (by rw [hu]; exact hmode)
  obtain ⟨hfab, hmem, hdel, _⟩ := State.writeFlags_frame (u.addDelta w b) w 0
  have hbyte (a : Nat) : (((u.addDelta w b).writeFlags w 0)).byte a = u.byte a := by
    rw [hdelta] at hmem ⊢
    exact congrArg (assocGet 0 · a) hmem
  obtain ⟨hin, hout⟩ := State.byte_blockWrite (s := s.withoutWrite w.uid)
    ((State.canonical_iff s).mp hc).1 b (mergeBytes w.bytes old w.v) w.bytes w.tag
  refine ⟨_, u.fullStripe w b, exec_performAWrite hf (State.firstOfLoc_alone h (State.tieAhead_hbm hl)), ?_⟩
  rw [htry, hperform]
  refine ⟨?_, fun i hi => ?_, fun a ha => ?_, ?_, fun hb => ?_⟩
  · rw [hfab, hdelta, hu]; rfl
  · rw [hbyte, hu, hin i hi, byteAt_mergeBytes _ _ _ hi]
    split
    next => rfl
    next => rfl
  · rw [hbyte, hu, hout a ha]; rfl
  · rw [hdel, hdelta, hu]; rfl
  · simp only [State.fullStripe, decide_eq_false hb, Bool.and_false, Bool.false_and]

end Writes

/-! ## A ring advance at its home (R62) -/

theorem Rcb.advTail_ok {r : Rcb} {m : Nat} (hm : (r.tail - r.head).toNat + m ≤ r.depth) (hd : r.depth ≤ 2 ^ 31)
    (hc : (r.claimed - r.head).toNat ≤ r.depth) : r.advTail (BitVec.ofNat 32 m) = some { r with
      tail := r.tail + BitVec.ofNat 32 m
      claimed := if (r.claimed - r.head).toNat < (r.tail + BitVec.ofNat 32 m - r.head).toNat then r.tail + BitVec.ofNat 32 m
        else r.claimed } := by
  have hle : (r.tail + BitVec.ofNat 32 m - r.head).toNat ≤ r.depth := by
    have hcomm : r.tail + BitVec.ofNat 32 m - r.head = r.tail - r.head + BitVec.ofNat 32 m := by
      rw [BitVec.sub_eq_add_neg, BitVec.sub_eq_add_neg, BitVec.add_assoc, BitVec.add_assoc, BitVec.add_comm (-r.head)]
    rw [hcomm, BitVec.toNat_add, BitVec.toNat_ofNat]
    omega
  have hclaimed : ((if (r.claimed - r.head).toNat < (r.tail + BitVec.ofNat 32 m - r.head).toNat then r.tail + BitVec.ofNat 32 m
      else r.claimed) - r.head).toNat ≤ r.depth := by
    split
    · exact hle
    · exact hc
  refine if_neg ?_
  rw [Bool.or_eq_true, decide_eq_true_eq, decide_eq_true_eq]
  exact not_or.mpr ⟨Nat.not_lt.mpr hle, Nat.not_lt.mpr hclaimed⟩

theorem advance_performed {s : State} {c : CellId} {op : YOp} {loc m : Nat} {r : Rcb} (ho : (s.cell c).ypOp op.uid = some op)
    (hr : s.ypReady c op = true) (hk : op.kind = .tail loc m) (hloc : loc < 98304) (hrcb : (s.cell c).rcb loc = .ok r)
    (hstage : r.stage = false) {r' : Rcb} (hadv : r.advTail (BitVec.ofNat 32 m) = some r') :
    ∃ t, exec (.performARmw c op.uid) s = .next t ∧ (t.cell c).ord.yp = (s.cell c).ord.yp.filter (fun o => decide (o.uid ≠ op.uid)) ∧
      (t.cell c).sp = ((s.cell c).putCounts loc r').sp ∧ (∀ d, d ≠ c → t.cell d = s.cell d) ∧ ∀ a, t.byte a = s.byte a := by
  have hin : ¬ spRows ≤ loc / 4 := by
    have : spRows = 24576 := rfl
    omega
  have heffect : rmwEffect c op s = some (.ok (((s.modCell c fun x => x.putCounts loc r').yqReturn c op.uid (r.claimed.zeroExtend 64) true false))) := by
    simp only [rmwEffect, hk, ringUpdate, if_neg hin, hrcb, hstage, Bool.false_eq_true, if_false, hadv]
  refine ⟨(((s.modCell c fun x => x.putCounts loc r').yqReturn c op.uid (r.claimed.zeroExtend 64) true false)).dropYp c op.uid, ?_, ?_, ?_,
    fun d hd => ?_, fun a => rfl⟩
  · change execPerformARmw c op.uid s = _
    simp only [execPerformARmw, ho, hr, if_true, heffect]
  all_goals simp only [State.dropYp, State.yqReturn, State.modCell_eq, State.cell_setCell_self]
  · rfl
  · simp only [State.cell_setCell_ne _ _ (Ne.symm hd)]

/-- Settles O41, event by event: the CQ buffers, a write to a row and to a block, an advance, a FENCE, and parity. -/
theorem orderingEventsComplete : Obligations.OrderingEventsComplete := by
  refine ⟨fun s c w rest hs hl => ⟨drain_free hs hl, drain_registered hs hl⟩, fun s c uid n l rest b hs hl hb hn hf => ?load,
    fun s w hf h hop => ⟨fun d r hl hb => writeRow hf h hop hl hb, fun b hl => writeBlock hf h hop hl⟩,
    fun s c op loc m r ho hr hk hloc hrcb hstage hm hd hc => advance_performed ho hr hk hloc hrcb hstage (Rcb.advTail_ok hm hd hc),
    fun s c h hh hd hf => release_ends hh hd hf,
    fun s d hd hm => ⟨fun hs => ?single, fun hs hq => ?stripe⟩⟩
  case load =>
    subst hn
    exact load_lands hs hl hb hf
  case single => rw [exec_parityDeltaApply hd hm, State.applyDelta_single hs]
  case stripe => rw [exec_parityDeltaApply hd hm, State.applyDelta_stripe hs hq]

end Sys2Proof.Machine
end

section
/-! SUPPORT. Vector expansions (VeState.lean, Lanes.lean, Tile.lean): compares, masks, tiles, the mode, the flags and parking; they settle O20,
O23 and O24. -/

namespace Sys2Proof.Machine

/-! ## Expansions of the vector engine -/

/-- An expansion whose effect succeeds answers it. -/
theorem issueRec_ok {i : Instr} {e : Eng} {op : Nat} {r : Rec} {s u t : State} {off k : Nat} {mode : BitVec 4}
    {body : Ctx → State → Except Flt State} (hi : recOf i = some (e, op, r)) (h : s.Expands i e r off k mode u)
    (hb : body ⟨off, k, 0, mode⟩ u = .ok t) : issueRec i r body s = t := by
  rw [issueRec_expands hi h, hb]

/-- An expansion whose effect is one result in flight. -/
theorem issueRec_lands {i : Instr} {op : Nat} {r : Rec} {s u v : State} {off k n : Nat} {mode : BitVec 4} {d : Land} {fl : FlagBits}
    {body : Ctx → State → Except Flt State} (hi : recOf i = some (.ve, op, r)) (h : s.Expands i .ve r off k mode u)
    (hv : v.curEng = u.curEng) (hb : body ⟨off, k, 0, mode⟩ u = .ok (v.landAfter ⟨off, k, 0, mode⟩ n d fl)) :
    ∃ t, Host.Outcome.next (issueRec i r body s) = (.next t : Res) ∧ v.Lands t (v.now + n * v.div) off .ve d fl 0 0 :=
  ⟨_, congrArg _ (issueRec_ok hi h hb), State.lands_land_of (hv.trans h.curEng) _ _ _ _ _ _⟩

/-- Popping heads keeps the engine, the tick and the divisor. -/
theorem popHeads_frame (r : Rec) (u : State) :
    (popHeads r u).curEng = u.curEng ∧ (popHeads r u).now = u.now ∧ (popHeads r u).div = u.div := by
  obtain ⟨lq, mq, hp⟩ := popHeads_eq r u
  rw [hp]
  refine ⟨rfl, State.now_setCell u _ _ rfl, ?_⟩
  rw [State.setCur_eq, State.div_eq, State.engine_setCell _ _ _ rfl]
  rfl

/-- A record that pops no head. -/
theorem popHeads_none {r : Rec} (h1 : popOf r.o1 = none) (h2 : popOf r.o2 = none) (u : State) : popHeads r u = u := by
  simp only [popHeads, List.filterMap_cons, h1, h2, List.filterMap_nil, List.dedup_nil, List.foldl_nil]

/-- A result in a vector, of a record that pops no head. -/
theorem issueRec_puts {i : Instr} {op lat : Nat} {r : Rec} {s u : State} {off k : Nat} {mode : BitVec 4} {act : BitVec 64} {v : VRes}
    {body : Ctx → State → Except Flt State} (hi : recOf i = some (.ve, op, r)) (h : s.Expands i .ve r off k mode u)
    (h1 : popOf r.o1 = none) (h2 : popOf r.o2 = none) (hr : u.Room r.o0)
    (hb : body ⟨off, k, 0, mode⟩ u = vPut r ⟨off, k, 0, mode⟩ lat act v u) :
    ∃ t, Host.Outcome.next (issueRec i r body s) = (.next t : Res) ∧ u.Puts t r off k lat act v := by
  obtain ⟨t, ht, hputs⟩ := vPut_puts (c := ⟨off, k, 0, mode⟩) lat act v h.curEng hr
  rw [popHeads_none h1 h2] at ht
  exact ⟨t, congrArg _ (issueRec_ok hi h (hb.trans ht)), hputs⟩

/-! ## Compares (R247, R249) -/

section Compare

variable (f : FMode → Lane → Lane → Bool × FlagBits) (md : FMode) (a b : VSrc) (ks : BitVec 64)

/-- The truth and the flags of lane i of a compare; a lane that KS excludes is false. -/
def cmpLane (i : Nat) : Bool × FlagBits := if ks.getLsbD i then f md (lane a.row i) (lane b.row i) else (false, 0)
/-- Does lane i of a compare read poison? -/
def cmpTag (i : Nat) : Bool := ks.getLsbD i && (a.tags.getLsbD i || b.tags.getLsbD i)
/-- The lanes whose tags a compare's result takes. -/
def cmpTags : BitVec 64 := (a.tags ||| b.tags) &&& ks
/-- The bits of a compare. -/
def cmpBits : BitVec 64 := mkTags 64 fun i => (ks &&& ~~~cmpTags a b ks).getLsbD i && (f md (lane a.row i) (lane b.row i)).1
/-- The flags of a compare's active lanes. -/
def cmpFlags (act : BitVec 64) : FlagBits :=
  orFlags (act &&& (ks &&& ~~~cmpTags a b ks)) fun i => (f md (lane a.row i) (lane b.row i)).2

theorem getLsbD_cmpTags (i : Nat) : (cmpTags a b ks).getLsbD i = cmpTag a b ks i := by
  simp only [cmpTags, cmpTag, BitVec.getLsbD_and, BitVec.getLsbD_or, Bool.and_comm]

/-- A lane takes part when KS includes it and neither source is poisoned there. -/
theorem getLsbD_cmpOk {i : Nat} (hi : i < 64) : (ks &&& ~~~cmpTags a b ks).getLsbD i = (ks.getLsbD i && !cmpTag a b ks i) := by
  simp only [BitVec.getLsbD_and, BitVec.getLsbD_not, getLsbD_cmpTags, hi, decide_true, Bool.true_and]

theorem getLsbD_cmpBits {i : Nat} (hi : i < 64) :
    (cmpBits f md a b ks).getLsbD i = ((cmpLane f md a b ks i).1 && !cmpTag a b ks i) := by
  rw [cmpBits, getLsbD_mkTags _ _ _ hi, getLsbD_cmpOk a b ks hi, cmpLane]
  cases hk : ks.getLsbD i with
  | false => rfl
  | true =>
    rw [if_pos rfl, Bool.true_and, Bool.and_comm]

theorem getLsbD_cmpFlags (act : BitVec 64) (j : Nat) : (cmpFlags f md a b ks act).getLsbD j = true ↔
    ∃ i < 64, act.getLsbD i = true ∧ cmpTag a b ks i = false ∧ (cmpLane f md a b ks i).2.getLsbD j = true := by
  rw [cmpFlags, getLsbD_orFlags]
  refine exists_congr fun i => and_congr_right fun hi => ?_
  rw [BitVec.getLsbD_and, getLsbD_cmpOk a b ks hi, cmpLane]
  cases hk : ks.getLsbD i with
  | false => simp
  | true => simp [and_assoc]

/-- The vector form of a compare: all ones or zero, with the poison of the included lanes. -/
theorem cmp_lanes (act : BitVec 64) :
    (⟨mkRow fun i => if (cmpBits f md a b ks).getLsbD i then 0xFFFFFFFF else 0, cmpTags a b ks, cmpFlags f md a b ks act⟩ : VRes).Lanes
      act (cmpTag a b ks) (fun _ => 0)
      fun i => (if (cmpLane f md a b ks i).1 then 0xFFFFFFFF else 0, (cmpLane f md a b ks i).2) := by
  refine ⟨fun i _ => getLsbD_cmpTags a b ks i, fun i hi => ?_, fun j _ => getLsbD_cmpFlags f md a b ks act j⟩
  rw [lane_mkRow _ _ hi, getLsbD_cmpBits f md a b ks hi]
  cases cmpTag a b ks i <;> simp

end Compare

section Compares

variable {r : Rec} {s u : State} {off k : Nat} {mode : BitVec 4} {a b : VSrc} {i : Instr} {op : Nat}
  (f : FMode → Lane → Lane → Bool × FlagBits)

/-- A compare into a mask register. -/
theorem compare_mask (hi : recOf i = some (.ve, op, r)) (h : s.Expands i .ve r off k mode u)
    (ha : u.Reads r.o1 (ixOf r.nest k) a) (hb : u.Reads r.o2 (ixOf r.nest k) b) {n : Fin 8} {st : Strides} (ho : r.o0 = .k n st) :
    let ks := u.cur.ve.kmask (Fin.ofNat 8 (r.mod.toNat % 8))
    ∃ t, Host.Outcome.next (issueRec i r (compare f r) s) = (.next t : Res) ∧
      (popHeads r u).PutsMask t r off k 4 (cmpBits f (modeOf mode) a b ks) (cmpFlags f (modeOf mode) a b ks (BitVec.allOnes 64)) := by
  intro ks
  have hbody : compare f r ⟨off, k, 0, mode⟩ u = .ok ((popHeads r u).landAfter ⟨off, k, 0, mode⟩ 4
      (.k (stepNum 8 n.val st (ixOf r.nest k)) (cmpBits f (modeOf mode) a b ks))
      (cmpFlags f (modeOf mode) a b ks (BitVec.allOnes 64))) := by
    simp only [compare, vArgs_ok (c := ⟨off, k, 0, mode⟩) ha hb, ho, kPut, activeOf]
    rfl
  obtain ⟨t, ht, hl⟩ := issueRec_lands hi h (popHeads_frame r u).1 hbody
  refine ⟨t, ht, ?_⟩
  rw [State.PutsMask, ho]
  exact hl

/-- A compare into a vector. -/
theorem compare_lanes (hi : recOf i = some (.ve, op, r)) (h : s.Expands i .ve r off k mode u)
    (ha : u.Reads r.o1 (ixOf r.nest k) a) (hb : u.Reads r.o2 (ixOf r.nest k) b) (ho : ∀ n st, r.o0 ≠ .k n st)
    (hr : u.Room r.o0) :
    let ks := u.cur.ve.kmask (Fin.ofNat 8 (r.mod.toNat % 8))
    ∃ t, Host.Outcome.next (issueRec i r (compare f r) s) = (.next t : Res) ∧ u.Puts t r off k 4 (activeOf r.o0 u)
      ⟨mkRow fun j => if (cmpBits f (modeOf mode) a b ks).getLsbD j then 0xFFFFFFFF else 0, cmpTags a b ks,
        cmpFlags f (modeOf mode) a b ks (activeOf r.o0 u)⟩ := by
  intro ks
  obtain ⟨t, ht, hputs⟩ := vPut_puts (c := ⟨off, k, 0, mode⟩) 4 (activeOf r.o0 u)
    ⟨mkRow fun j => if (cmpBits f (modeOf mode) a b ks).getLsbD j then 0xFFFFFFFF else 0, cmpTags a b ks,
      cmpFlags f (modeOf mode) a b ks (activeOf r.o0 u)⟩ h.curEng hr
  refine ⟨t, congrArg _ (issueRec_ok hi h ?_), hputs⟩
  rw [← ht]
  simp only [compare, vArgs_ok (c := ⟨off, k, 0, mode⟩) ha hb]
  rfl

end Compares

/-- An operand in a V register or a queue is no mask register. -/
theorem Opnd.ne_k_of_kind {o : Opnd} (h : o.kind = 1 ∨ o.kind = 3) (n : Fin 8) (st : Strides) : o ≠ .k n st := by
  rintro rfl
  exact absurd h (by simp [Opnd.kind])

/-- The seven compares are one meaning at seven relations. -/
theorem cmpOps_exec {e : (Rec → Instr) × (FMode → Lane → Lane → Bool × FlagBits)} (he : e ∈ cmpOps) (r : Rec) :
    (∃ op, recOf (e.1 r) = some (.ve, op, r)) ∧ ∀ s, exec (e.1 r) s = .next (issueRec (e.1 r) r (compare e.2 r) s) := by
  simp only [cmpOps, List.mem_cons, List.not_mem_nil, or_false] at he
  rcases he with rfl | rfl | rfl | rfl | rfl | rfl | rfl <;> exact ⟨⟨_, rfl⟩, fun _ => rfl⟩

theorem comparesComplete : ComparesComplete := by
  intro e he r s u off k mode a b h ha hb ks tag c
  obtain ⟨⟨op, hi⟩, hexec⟩ := cmpOps_exec he r
  rw [hexec]
  refine ⟨fun n st ho => ?mask, fun ho hr => ?vector⟩
  case mask =>
    obtain ⟨t, ht, hm⟩ := compare_mask e.2 hi h ha hb ho
    refine ⟨t, _, _, ht, hm, fun i hlt => getLsbD_cmpBits e.2 _ a b _ hlt, fun j _ => ?_⟩
    rw [getLsbD_cmpFlags]
    refine exists_congr fun i => and_congr_right fun hlt => ?_
    rw [BitVec.getLsbD_allOnes, decide_eq_true hlt]
    exact and_iff_right rfl
  case vector =>
    obtain ⟨t, ht, hv⟩ := compare_lanes e.2 hi h ha hb (Opnd.ne_k_of_kind ho) hr
    exact ⟨t, _, ht, hv, cmp_lanes e.2 _ a b _ _⟩

/-! ## Masks (R52, R259) -/

/-- A mask operand reads what its register holds. -/
theorem kRead_mask {o : Opnd} {x : Ix} {u : State} {m : BitVec 64} (h : u.Mask o x m) : kRead o x u = m := by
  cases o <;> exact h.symm

/-- An expansion whose effect lands a mask. -/
theorem issueRec_putsMask {i : Instr} {op lat : Nat} {r : Rec} {s u : State} {off k : Nat} {mode : BitVec 4} {m : BitVec 64} {fl : FlagBits}
    {body : Ctx → State → Except Flt State} (hi : recOf i = some (.ve, op, r)) (h : s.Expands i .ve r off k mode u)
    (hb : body ⟨off, k, 0, mode⟩ u = .ok (kPut r ⟨off, k, 0, mode⟩ lat m fl u)) :
    ∃ t, Host.Outcome.next (issueRec i r body s) = (.next t : Res) ∧ u.PutsMask t r off k lat m fl := by
  refine ⟨_, congrArg _ (issueRec_ok hi h hb), ?_⟩
  cases ho : r.o0
  case k n st =>
    simp only [State.PutsMask, kPut, ho]
    exact State.lands_land_of h.curEng _ _ _ _ _ _
  all_goals simp only [State.PutsMask, kPut, ho]

/-- The number of included lanes below n. -/
theorem cpopNatRec_eq_length (a : BitVec 64) (n acc : Nat) :
    a.cpopNatRec n acc = acc + ((List.range n).filter fun i => a.getLsbD i).length := by
  induction n generalizing acc with
  | zero => rfl
  | succ n ih =>
    rw [BitVec.cpopNatRec_succ, ih, List.range_succ, List.filter_append, List.length_append]
    cases ha : a.getLsbD n <;> simp [ha]
    omega

theorem ofNat_included (a : BitVec 64) : BitVec.ofNat 32 (included a).length = a.cpop.setWidth 32 := by
  apply BitVec.eq_of_toNat_eq
  have h := cpopNatRec_eq_length a 64 0
  rw [BitVec.toNat_setWidth, BitVec.toNat_cpop, h, Nat.zero_add, BitVec.toNat_ofNat]
  rfl

/-- The mask operations on two K registers are one meaning at five functions. -/
theorem maskOps_exec {e : (Rec → Instr) × (BitVec 64 → BitVec 64 → BitVec 64)} (he : e ∈ maskOps) (r : Rec) :
    (∃ op, recOf (e.1 r) = some (.ve, op, r)) ∧ ∀ s, exec (e.1 r) s = .next (issueRec (e.1 r) r (kOp e.2 r) s) := by
  simp only [maskOps, List.mem_cons, List.not_mem_nil, or_false] at he
  rcases he with rfl | rfl | rfl | rfl | rfl <;> exact ⟨⟨_, rfl⟩, fun _ => rfl⟩

section Kmov

variable {r : Rec} {u : State} {n : Fin 8} {st : Strides} (c : Ctx)

theorem bodyKmov_mask (ho : r.o0 = .k n st) {m : Fin 8} {st' : Strides} (h1 : r.o1 = .k m st') :
    bodyKmov r c u = .ok (kPut r c 2 (kRead r.o1 (ixOf r.nest c.k) u) 0 u) := by
  simp only [bodyKmov, ho, h1]

theorem bodyKmov_imm (ho : r.o0 = .k n st) {w : BitVec 32} (h1 : r.o1 = .imm w) :
    bodyKmov r c u = .ok (kPut r c 2 (w.setWidth 64) 0 u) := by
  simp only [bodyKmov, ho, h1]

/-- KMOV of a vector: the lanes that are neither poisoned nor zero. -/
theorem bodyKmov_lanes (ho : r.o0 = .k n st) {m : Fin 32} {km : Fin 8} {xen : Bool} {xn : Fin 32} {st' : Strides}
    (h1 : r.o1 = .v m km xen xn st') {v : VSrc} (hv : u.Reads r.o1 (ixOf r.nest c.k) v) :
    bodyKmov r c u = .ok (kPut r c 2 (mkTags 64 fun i => !v.tags.getLsbD i && lane v.row i != 0) 0 u) := by
  have hread := vRead_ok hv
  rw [h1] at hread
  simp only [bodyKmov, ho, h1, hread]
  rfl

theorem bodyKmov_vector (ho : r.o0.kind = 1 ∨ r.o0.kind = 3) :
    bodyKmov r c u = vPut r c 2 (activeOf r.o0 u)
      ⟨mkRow fun i => if (kRead r.o1 (ixOf r.nest c.k) u).getLsbD i then 0xFFFFFFFF else 0, 0, 0⟩ u := by
  have hk := Opnd.ne_k_of_kind ho
  unfold bodyKmov
  split
  next h _ => exact absurd h (hk _ _)
  next h _ => exact absurd h (hk _ _)
  next h _ _ => exact absurd h (hk _ _)
  next => rfl

end Kmov

theorem popOf_ne_queue {o : Opnd} (h1 : ∀ w p, o ≠ .lq w p) (h2 : ∀ w p, o ≠ .mq w p) : popOf o = none := by
  unfold popOf
  split
  next n => exact absurd rfl (h1 _ _)
  next n => exact absurd rfl (h2 _ _)
  next => rfl

theorem masksComplete : MasksComplete := by
  intro r s u off k mode a b x ha hb
  refine ⟨fun e he h => ?ops, fun h hr h2 hlq hmq => ?popc, fun h n st ho => ⟨fun m st' h1 => ?mask, fun w h1 => ?imm,
    fun m km xen xn st' h1 v hv => ?lanes⟩, fun h m st' ho hr h1 h2 => ?vector, fun h w d h1 hd => ?hi⟩
  case ops =>
    obtain ⟨⟨op, hi⟩, hexec⟩ := maskOps_exec he r
    rw [hexec]
    refine issueRec_putsMask hi h ?_
    rw [← kRead_mask ha, ← kRead_mask hb]
    rfl
  case popc =>
    obtain ⟨t, ht, hputs⟩ := issueRec_puts (body := bodyKpopc r) rfl h (popOf_ne_queue hlq hmq) (by rw [h2]; rfl) hr rfl
    refine ⟨t, _, ht, hputs, rfl, rfl, fun i hlt => ?_⟩
    rw [lane_mkRow _ _ hlt, kRead_mask ha, ofNat_included]
  case mask =>
    refine issueRec_putsMask (body := bodyKmov r) rfl h ?_
    rw [bodyKmov_mask _ ho h1, kRead_mask ha]
  case imm => exact issueRec_putsMask (body := bodyKmov r) rfl h (bodyKmov_imm _ ho h1)
  case lanes =>
    obtain ⟨t, ht, hm⟩ := issueRec_putsMask (body := bodyKmov r) rfl h (bodyKmov_lanes ⟨off, k, 0, mode⟩ ho h1 hv)
    exact ⟨t, _, ht, hm, fun i hlt => getLsbD_mkTags 64 _ i hlt⟩
  case vector =>
    obtain ⟨t, ht, hputs⟩ := issueRec_puts (body := bodyKmov r) rfl h (by rw [h1]; rfl) (by rw [h2]; rfl) hr
      (bodyKmov_vector ⟨off, k, 0, mode⟩ ho)
    refine ⟨t, _, ht, hputs, rfl, rfl, fun i hlt => ?_⟩
    rw [lane_mkRow _ _ hlt, kRead_mask ha]
  case hi =>
    refine issueRec_putsMask (body := bodyKmovHi r) rfl h ?_
    simp only [bodyKmovHi, h1]
    rw [kRead_mask hd]
    rfl

/-- Settles O20: the compares by their destination, the mask operations one by one. -/
theorem compareMaskComplete : Obligations.CompareMaskComplete := ⟨comparesComplete, masksComplete⟩

/-! ## Tile elements (R54) -/

theorem ofNat_fieldOf {n : Nat} (b : BitVec n) (lo w : Nat) : BitVec.ofNat w (fieldOf b.toNat lo w) = b.extractLsb' lo w := by
  apply BitVec.eq_of_toNat_eq
  rw [BitVec.toNat_ofNat, Nat.mod_eq_of_lt (fieldOf_lt _ _ _), BitVec.extractLsb'_toNat, Nat.shiftRight_eq_div_pow]
  rfl

/-- Two 16-bit elements in one lane (R265). -/
theorem ofNat_halves {a b : Nat} (ha : a < 65536) (hb : b < 65536) :
    BitVec.ofNat 32 (a + 65536 * b) = BitVec.ofNat 32 a ||| (BitVec.ofNat 32 b <<< 16) := by
  apply BitVec.eq_of_toNat_eq
  have hor : b <<< 16 ||| a = b <<< 16 + a := (Nat.shiftLeft_add_eq_or_of_lt (i := 16) ha b).symm
  rw [BitVec.toNat_or, BitVec.toNat_shiftLeft, BitVec.toNat_ofNat, BitVec.toNat_ofNat, BitVec.toNat_ofNat,
    Nat.mod_eq_of_lt (a := b) (by omega), Nat.mod_eq_of_lt (a := a) (by omega), Nat.mod_eq_of_lt (a := b <<< 16) (by omega),
    Nat.or_comm, hor, Nat.mod_eq_of_lt (by omega)]
  omega

/-- An element as a number. -/
def tileNat (z : Tile) (i j : Nat) : Nat := if i < z.rows ∧ j < z.cols then z.elem i j else 0

theorem tileNat_lt_half {z : Tile} (h : z.shape.getLsbD 8 = true) (i j : Nat) : tileNat z i j < 65536 := by
  unfold tileNat
  split
  · have hw : z.ebits = 16 := if_pos h
    have hlt := fieldOf_lt z.body.toNat (z.bitOf i j) z.ebits
    rw [hw] at hlt
    simpa [Tile.elem, hw] using hlt
  · decide

theorem inShape_iff (z : Tile) (i j : Nat) :
    (i ≤ z.shape.toNat % 16 ∧ j ≤ z.shape.toNat / 16 % 16) ↔ (i < z.rows ∧ j < z.cols) := by
  simp only [Tile.rows, Tile.cols, Nat.lt_succ_iff]

/-- An element in a lane of its own, zero-extended. -/
theorem ofNat_tileNat (z : Tile) (i j : Nat) : BitVec.ofNat 32 (tileNat z i j) = tileValue z i j := by
  simp only [tileNat, tileValue, inShape_iff]
  split
  · by_cases hh : z.shape.getLsbD 8 = true
    · have hw : z.ebits = 16 := if_pos hh
      rw [if_pos hh, Tile.elem, Tile.bitOf, hw, ← ofNat_fieldOf]
      apply BitVec.eq_of_toNat_eq
      have hlt := fieldOf_lt z.body.toNat ((i + j) % 16 * 512 + i * 16) 16
      rw [BitVec.toNat_setWidth, BitVec.toNat_ofNat, BitVec.toNat_ofNat, Nat.mod_eq_of_lt (a := _) (b := 2 ^ 16) hlt]
    · have hw : z.ebits = 32 := if_neg hh
      rw [if_neg hh, Tile.elem, Tile.bitOf, hw, ofNat_fieldOf]
  · rfl

theorem tilePoison_eq (z : Tile) (i j : Nat) : tilePoison z i j = (decide (i < z.rows ∧ j < z.cols) && z.tagAt i j) := by
  simp only [tilePoison, inShape_iff]
  rfl

section Reads

variable {z : Tile} {i j : Nat}

/-- A row of 32-bit elements, one a lane. -/
theorem readRow_whole (hh : z.shape.getLsbD 8 = false) (hi : i < z.rows) (hj : j < 64) :
    lane (z.readRow i).row j = tileValue z i j ∧ (z.readRow i).tags.getLsbD j = tilePoison z i j := by
  have hcols : z.cols ≤ 16 := by unfold Tile.cols; omega
  have hhalf : z.half = false := hh
  simp only [Tile.readRow, hhalf, Bool.false_eq_true, if_false, lane_mkRow _ _ hj, getLsbD_mkTags _ _ _ hj, ← ofNat_tileNat, tileNat,
    tilePoison_eq, hi, true_and]
  by_cases hc : j < z.cols
  · have h16 : j < 16 := by omega
    simp [hc, h16]
  · simp [hc]

/-- A row of 16-bit elements, two a lane. -/
theorem readRow_half (hh : z.shape.getLsbD 8 = true) (hi : i < z.rows) (hj : j < 64) :
    lane (z.readRow i).row j = (if j < 8 then tileValue z i (2 * j) ||| (tileValue z i (2 * j + 1) <<< 16) else 0) ∧
      (z.readRow i).tags.getLsbD j = (decide (j < 8) && (tilePoison z i (2 * j) || tilePoison z i (2 * j + 1))) := by
  have hhalf : z.half = true := hh
  have hnat (m : Nat) : (if m < z.cols then (z.elem i m, z.tagAt i m) else (0, false)) = (tileNat z i m, tilePoison z i m) := by
    rw [tileNat, tilePoison_eq]
    by_cases hm : m < z.cols <;> simp [hi, hm]
  simp only [Tile.readRow, hhalf, if_true, lane_mkRow _ _ hj, getLsbD_mkTags _ _ _ hj, hnat]
  refine ⟨?_, trivial⟩
  split
  · rw [ofNat_halves (tileNat_lt_half hh _ _) (tileNat_lt_half hh _ _), ofNat_tileNat, ofNat_tileNat]
  · rfl

/-- A column, one element a lane. -/
theorem readCol_lane (hi : i < z.cols) (hj : j < 64) :
    lane (z.readCol i).row j = tileValue z j i ∧ (z.readCol i).tags.getLsbD j = tilePoison z j i := by
  simp only [Tile.readCol, lane_mkRow _ _ hj, getLsbD_mkTags _ _ _ hj, ← ofNat_tileNat, tileNat, tilePoison_eq, hi, and_true]
  by_cases hr : j < z.rows <;> simp [hr]

end Reads

/-! ## Tile records (R55, R264, R265) -/

section Tiles

variable {u : State} {o : Opnd} {x : Ix} {n : Fin 4} {i : Nat}

/-- A usable tile operand is found, its row or column inside the shape. -/
theorem tileAt_onTile (h : u.OnTile o x n i) : tileAt o false x u = .ok (n, i) := by
  obtain ⟨hcfg, ⟨b, st, rfl, rfl, hle⟩ | ⟨b, st, rfl, rfl, hle⟩⟩ := h
  · have hc : u.cur.ve.z[n].cfg = true := hcfg
    have hlt : ¬ u.cur.ve.z[n].rows ≤ (stepped b.toNat st x).toNat := by unfold Tile.rows; omega
    simp only [tileAt, hc, hlt, decide_false, Bool.and_false, Bool.not_true, Bool.false_eq_true, if_false]
  · have hc : u.cur.ve.z[n].cfg = true := hcfg
    have hlt : ¬ u.cur.ve.z[n].cols ≤ (stepped b.toNat st x).toNat := by unfold Tile.cols; omega
    simp only [tileAt, hc, hlt, Bool.not_true, Bool.false_eq_true, if_false]

theorem State.OnTile.row_lt (h : u.OnTile o x n i) (ho : ∃ b st, o = .zrow n b st) : i < u.cur.ve.z[n].rows := by
  obtain ⟨b, st, rfl⟩ := ho
  obtain ⟨_, ⟨b', st', _, _, hle⟩ | ⟨b', st', hno, _⟩⟩ := h
  · exact Nat.lt_succ_of_le hle
  · exact absurd hno (by simp)

theorem State.OnTile.col_lt (h : u.OnTile o x n i) (ho : ∃ b st, o = .zcol n b st) : i < u.cur.ve.z[n].cols := by
  obtain ⟨b, st, rfl⟩ := ho
  obtain ⟨_, ⟨b', st', hno, _⟩ | ⟨b', st', _, _, hle⟩⟩ := h
  · exact absurd hno (by simp)
  · exact Nat.lt_succ_of_le hle

/-- A record on a whole tile asks only for a configured tile. -/
theorem tileAt_whole (hz : u.cur.ve.z[n].shape.getLsbD 9 = true) (ho : ∃ b st, o = .zrow n b st) :
    ∃ m, tileAt o true x u = .ok (n, m) := by
  obtain ⟨b, st, rfl⟩ := ho
  have hc : u.cur.ve.z[n].cfg = true := hz
  exact ⟨(stepped b.toNat st x).toNat, by simp only [tileAt, hc, Bool.not_true, Bool.false_and, Bool.false_eq_true, if_false]⟩

variable {r : Rec} {s : State} {off k : Nat} {mode : BitVec 4} {ins : Instr} {op : Nat}

/-- A write of a row or column lands it three cycles later. -/
theorem tileWrite_lands {land : Fin 4 → Nat → VSrc → Land} {a : VSrc} (hi : recOf ins = some (.ve, op, r))
    (h : s.Expands ins .ve r off k mode u) (ht : u.OnTile r.o0 (ixOf r.nest k) n i) (ha : u.Reads r.o1 (ixOf r.nest k) a)
    (h2 : r.o2 = .absent) :
    ∃ t, Host.Outcome.next (issueRec ins r (fun c => tileWrite r c land) s) = (.next t : Res) ∧
      (popHeads r u).Lands t (u.now + 3 * u.div) off .ve (land n i a) 0 0 0 := by
  obtain ⟨heng, hnow, hdiv⟩ := popHeads_frame r u
  have hb : u.Reads r.o2 (ixOf r.nest k) ⟨0, 0⟩ := by rw [h2]; rfl
  have hbody : tileWrite r ⟨off, k, 0, mode⟩ land u = .ok ((popHeads r u).landAfter ⟨off, k, 0, mode⟩ 3 (land n i a) 0) := by
    simp only [tileWrite, tileAt_onTile ht, vArgs_ok (c := ⟨off, k, 0, mode⟩) ha hb]
  rw [← hnow, ← hdiv]
  exact issueRec_lands (body := fun c => tileWrite r c land) hi h heng hbody

/-- A record on a whole tile lands three cycles later. -/
theorem tileWhole_lands {land : Fin 4 → Land} (hi : recOf ins = some (.ve, op, r)) (h : s.Expands ins .ve r off k mode u)
    (hz : u.cur.ve.z[n].shape.getLsbD 9 = true) (ho : ∃ b st, r.o0 = .zrow n b st) :
    ∃ t, Host.Outcome.next (issueRec ins r (fun c => tileWhole r c land) s) = (.next t : Res) ∧
      u.Lands t (u.now + 3 * u.div) off .ve (land n) 0 0 0 := by
  obtain ⟨m, hm⟩ := tileAt_whole (x := ixOf r.nest k) hz ho
  refine issueRec_lands (body := fun c => tileWhole r c land) hi h rfl ?_
  simp only [tileWhole, hm]
  rfl

/-- A read of a tile is a result in a vector. -/
theorem tileRead_puts {whole : Bool} {get : Tile → Nat → VSrc} (hi : recOf ins = some (.ve, op, r))
    (h : s.Expands ins .ve r off k mode u) (ht : tileAt r.o1 whole (ixOf r.nest k) u = .ok (n, i))
    (hz : (∃ b st, r.o1 = .zrow n b st) ∨ ∃ b st, r.o1 = .zcol n b st) (h2 : r.o2 = .absent) (hr : u.Room r.o0) :
    ∃ t, Host.Outcome.next (issueRec ins r (fun c => tileRead r c whole get) s) = (.next t : Res) ∧
      u.Puts t r off k 3 (activeOf r.o0 u) ⟨(get u.cur.ve.z[n] i).row, (get u.cur.ve.z[n] i).tags, 0⟩ := by
  have hpop : popOf r.o1 = none := by
    rcases hz with ⟨b, st, h1⟩ | ⟨b, st, h1⟩ <;> rw [h1] <;> rfl
  refine issueRec_puts (body := fun c => tileRead r c whole get) hi h hpop (by rw [h2]; rfl) hr ?_
  simp only [tileRead, ht]

end Tiles

/-- Settles O23: each tile record lands one change, or puts one vector that holds the elements it reads. -/
theorem tilesComplete : Obligations.TilesComplete := by
  intro r s u off k mode n i x due z
  refine ⟨fun h b st w h0 h1 => ?tcfg, fun ht a ha h2 => ⟨fun h _ => ?twrr, fun h _ => ?twrc⟩, fun hz h0 => ⟨fun h => ?tzero, fun h => ?trel⟩,
    fun ht hr h2 => ⟨fun h h1 => ?trdr, fun h h1 => ?trdc⟩, fun h hz h1 hr h2 => ?trds⟩
  case tcfg =>
    refine issueRec_lands (body := bodyTcfg r) rfl h rfl ?_
    simp only [bodyTcfg, h0, h1]
    rfl
  case twrr => exact tileWrite_lands (land := fun n k v => .tileRow n k v.row v.tags) rfl h ht ha h2
  case twrc => exact tileWrite_lands (land := fun n k v => .tileCol n k v.row v.tags) rfl h ht ha h2
  case tzero => exact tileWhole_lands (land := .tzero) rfl h hz h0
  case trel => exact tileWhole_lands (land := .trel) rfl h hz h0
  case trdr =>
    obtain ⟨t, ht', hputs⟩ := tileRead_puts (get := Tile.readRow) rfl h (tileAt_onTile ht) (.inl h1) h2 hr
    refine ⟨t, _, ht', hputs, rfl, fun j hj => ?_⟩
    split
    next hh => exact readRow_half hh (ht.row_lt h1) hj
    next hh => exact readRow_whole (Bool.eq_false_iff.mpr hh) (ht.row_lt h1) hj
  case trdc =>
    obtain ⟨t, ht', hputs⟩ := tileRead_puts (get := Tile.readCol) rfl h (tileAt_onTile ht) (.inr h1) h2 hr
    exact ⟨t, _, ht', hputs, rfl, fun j hj => readCol_lane (ht.col_lt h1) hj⟩
  case trds =>
    obtain ⟨m, hm⟩ := tileAt_whole (x := x) hz h1
    obtain ⟨t, ht', hputs⟩ := tileRead_puts (get := fun z _ => ⟨mkRow fun _ => z.shape.zeroExtend 32, 0⟩) rfl h hm (.inl h1) h2 hr
    exact ⟨t, _, ht', hputs, rfl, rfl, fun j hj => lane_mkRow _ _ hj⟩

/-! ## Mode, flags and parked registers (R70, R266–R268, R330) -/

theorem becomes_modCur (u : State) (f : Cell → Cell) : u.Becomes (u.modCur f) (f u.cur) :=
  State.becomes_setCell (u := u) _ rfl rfl rfl

section Parked

variable {u : State} {p : Nat}

/-- No register parked under an index: zeros (R70). -/
theorem parkRead_none (h : ∀ e ∈ u.cur.cr.parked, e.1 ≠ p) : parkRead p u = .ok ⟨0, 0⟩ := by
  have hf : u.cur.cr.parked.find? (fun e => e.1 = p) = none := List.find?_eq_none.mpr fun e he => by simpa using h e he
  simp only [parkRead, hf]

/-- The newest register parked under an index is in the slot that the list names. -/
theorem parkRead_slot {slot : Fin 16} (h : u.cur.cr.parked.find? (fun e => e.1 = p) = some (p, .slot slot)) :
    parkRead p u = .ok (u.cur.cr.parkOut p slot) := by
  simp only [parkRead, h]

/-- Where every register parked under an index lies in a slot, a read of the index succeeds. -/
theorem parkRead_ok (h : ∀ e ∈ u.cur.cr.parked, e.1 = p → ∃ slot, e.2 = .slot slot) : ∃ v, parkRead p u = .ok v := by
  cases hf : u.cur.cr.parked.find? (fun e => e.1 = p) with
  | none => exact ⟨⟨0, 0⟩, by simp only [parkRead, hf]⟩
  | some e =>
    obtain ⟨slot, hs⟩ := h e (List.mem_of_find?_eq_some hf) (by simpa using List.find?_some hf)
    have he : e = (e.1, .slot slot) := by rw [← hs]
    rw [he] at hf
    exact ⟨u.cur.cr.parkOut p slot, by simp only [parkRead, hf]⟩

theorem parkOut_lane (x : Crema) (slot : Fin 16) {i : Nat} (hi : i < 64) :
    lane (x.parkOut p slot).row i = slotLane (x.rowAt slot i) p ∧ (x.parkOut p slot).tags.getLsbD i = (x.tagsAt slot i).getLsbD p :=
  ⟨lane_mkRow _ _ hi, getLsbD_mkTags _ _ _ hi⟩

end Parked

/-- Settles O24: mode and flag records are one write to the cell or one vector, VSPL lands its register, VFIL reads one. -/
theorem vectorStateComplete : Obligations.VectorStateComplete := by
  intro r s u off k mode x act
  refine ⟨fun h => ?vnop, fun h w h1 => ?vmode, fun h hr h1 h2 => ?vflg, fun h w h1 h2 hr => ?vflgC, fun h => ?vclrf,
    fun h a p st slot ha h0 hfree => ?vspl, fun h p st h1 h2 hr => ?vfil⟩
  case vnop => exact congrArg Host.Outcome.next (issueRec_ok (body := bodyVnop r) rfl h rfl)
  case vmode =>
    refine ⟨u.modCur fun y => { y with ve := { y.ve with mode := w.setWidth 4 } },
      congrArg Host.Outcome.next (issueRec_ok (body := bodyVmode r) rfl h ?_), becomes_modCur u _⟩
    simp only [bodyVmode, h1]
    rfl
  case vflg =>
    obtain ⟨t, ht, hputs⟩ := issueRec_puts (body := bodyVflg r) rfl h (by rw [h1]; rfl) (by rw [h2]; rfl) hr rfl
    exact ⟨t, _, ht, hputs, rfl, rfl, fun i hi => lane_mkRow _ _ hi⟩
  case vflgC =>
    obtain ⟨t', ht', hputs⟩ := vPut_puts (c := ⟨off, k, 0, mode⟩) 4 act ⟨mkRow fun _ => u.cur.ve.flags.setWidth 32, 0, 0⟩ h.curEng hr
    rw [popHeads_none (by rw [h1]; rfl) (by rw [h2]; rfl)] at ht'
    refine ⟨t'.clearVflags (w.setWidth 6), t', _, congrArg Host.Outcome.next (issueRec_ok (body := bodyVflgC r) rfl h ?_), hputs, rfl, rfl,
      fun i hi => lane_mkRow _ _ hi, becomes_modCur t' _⟩
    have hread : vflgRead r ⟨off, k, 0, mode⟩ u = .ok t' := ht'
    simp only [bodyVflgC, h1, hread]
    rfl
  case vclrf =>
    refine ⟨u.clearVflags 0x3F, congrArg Host.Outcome.next (issueRec_ok (body := bodyVclrf r) rfl h rfl), ?_⟩
    have hall : u.cur.ve.flags &&& ~~~(0x3F : FlagBits) = 0 := BitVec.and_zero
    rw [← hall]
    exact becomes_modCur u _
  case vspl =>
    refine issueRec_lands (body := bodyVspl r) rfl h rfl ?_
    have hread : vRead r.o1 (ixOf r.nest k) u = .ok a := vRead_ok ha
    simp only [bodyVspl, hread, hfree, h0]
    rfl
  case vfil =>
    intro q hq
    obtain ⟨v, hv⟩ := parkRead_ok hq
    have hix : parkIx r.o1 x = q := by rw [h1]; rfl
    obtain ⟨t, ht, hputs⟩ := issueRec_puts (body := bodyVfil r) (v := ⟨v.row, v.tags, 0⟩) rfl h (by rw [h1]; rfl) (by rw [h2]; rfl) hr (by
      rw [← hix] at hv
      simp only [bodyVfil]
      rw [hv])
    refine ⟨t, _, ht, hputs, rfl, fun hno => ?_, fun slot hslot i hi => ?_⟩
    · rw [parkRead_none hno] at hv
      obtain rfl := Except.ok.inj hv
      exact ⟨rfl, fun i _ => by simp [lane]⟩
    · rw [parkRead_slot hslot] at hv
      obtain rfl := Except.ok.inj hv
      exact parkOut_lane _ slot hi

end Sys2Proof.Machine
end

section
/-! SUPPORT. Matrix records (Crema.lean, Pass.lean): their operands, the slots and the passes; they settle O31 and O34. -/

namespace Sys2Proof.Machine

/-! ## Operands of the matrix engine (R58, R200, R269) -/

section Operands

variable {u : State} {o : Opnd} {x : Ix} {n : Nat}

theorem spRowAt_names {e : Eng} {row : Nat} (h : u.NamesRow o x row) :
    ∃ g base st, o = .sp g base st ∧ spRowAt e g base st x u.cur.cc = .ok row := by
  obtain ⟨hlt, g, base, st, rfl, hg⟩ := h
  have hin : (decide (0 ≤ (row : Int)) && decide ((row : Int) < spRows)) = true := by
    rw [Bool.and_eq_true, decide_eq_true_eq, decide_eq_true_eq]
    exact ⟨Int.natCast_nonneg row, Int.ofNat_lt.mpr hlt⟩
  refine ⟨g, base, st, rfl, ?_⟩
  cases g with
  | none => simp only [spRowAt, ← hg, hin, if_true, Int.toNat_natCast]
  | some m =>
    obtain ⟨htag, hsmall, hrow⟩ := hg
    have hz : ¬ (u.cur.cc.greg m).toNat / 2 ^ 23 ≠ 0 := not_not.mpr (Nat.div_eq_of_lt hsmall)
    have hmod : ((u.cur.cc.greg m).toNat : Int) / 256 % 32768 = (u.cur.cc.greg m).toNat / 256 := by omega
    simp only [spRowAt, htag, Bool.false_eq_true, if_false, if_neg hz, hmod, ← hrow, hin, if_true, Int.toNat_natCast]

/-- n rows that lie inside the scratchpad. -/
theorem rowsAt_names {row : Nat} (h : u.NamesRows o n x row) : rowsAt o n x u.cur.cc = .ok (some row) := by
  obtain ⟨hrow, hin⟩ := h
  obtain ⟨g, base, st, rfl, hat⟩ := spRowAt_names (e := .me) hrow
  have hsp : row + n ≤ spRows := hin
  simp only [rowsAt, hat, if_pos hsp]

theorem keyAt_names {k : Key} (h : u.NamesKey o x k) : keyAt o x u.cur.cc = .ok k := by
  obtain ⟨g, tile, st, rfl, hg⟩ := h
  cases g with
  | none => simp only [keyAt, ← hg]
  | some m =>
    obtain ⟨htag, htile⟩ := hg
    simp only [keyAt, htag, Bool.false_eq_true, if_false, ← htile]

/-- A key that is not spilled needs no refill. -/
theorem needKey_here {c : Ctx} {k : Key} (h : u.cur.cr.spilledOf k = none) : needKey c k u = .ok u := by
  simp only [needKey, h]

/-- No register parked in a slot: nothing has to move. -/
theorem Crema.movePark_none {cr : Crema} {off due seq : Nat} {slot : Fin 16} (h : ∀ e ∈ cr.parked, e.2 ≠ .slot slot) :
    cr.movePark off due seq slot = cr := by
  have hf : cr.parked.filter (fun e => e.2 = .slot slot) = [] := List.filter_eq_nil_iff.mpr fun e he => by simpa using h e he
  simp only [Crema.movePark, hf, List.foldl_nil]

/-- A record that writes a key takes the slot that WritesKey names (R66, R269). -/
theorem writeKey_writes {c : Ctx} {k : Key} {slot : Fin 16} {w : State} (h : u.WritesKey k slot w) : writeKey c k u = .ok (slot, w) := by
  obtain ⟨hhere, ⟨hslot, rfl⟩ | ⟨hslot, hfree, hpark, rfl⟩⟩ := h
  · simp only [writeKey, needKey_here hhere, hslot]
    rfl
  · obtain ⟨rest, hcons⟩ : ∃ rest, u.cur.cr.free = slot :: rest := by
      cases hl : u.cur.cr.free with
      | nil => rw [hl] at hfree; exact absurd hfree (by simp)
      | cons a l =>
        rw [hl] at hfree
        exact ⟨l, by rw [List.head?_cons, Option.some.injEq] at hfree; rw [hfree]⟩
    have hany : (u.cur.cr.parked.any fun e => decide (e.2 = .slot slot)) = false := by
      rw [List.any_eq_false]
      exact fun e he => by simpa using hpark e he
    have hmove : ∀ off due seq, Crema.movePark { u.cur.cr with free := rest } off due seq slot = { u.cur.cr with free := rest } :=
      fun _ _ _ => Crema.movePark_none hpark
    simp only [writeKey, needKey_here hhere, hslot, allocSlot, hcons, takeSlot, hany, Bool.false_eq_true, if_false, List.tail_cons]
    simp only [State.modCur_eq, State.setCur_eq, ← State.cur_eq, hmove]

end Operands

/-! ## Slot maintenance (R278–R280) -/

section Maintenance

variable {r : Rec} {s u w : State} {off k : Nat} {mode : BitVec 4} {i : Instr} {op : Nat} {body : Ctx → State → Except Flt State}

/-- An expansion of the matrix engine whose effect is one result in flight, an engine cycle later. -/
theorem issueRec_landsNext (hi : recOf i = some (.me, op, r)) (h : s.Expands i .me r off k mode u) {d : Land} (hw : w.curEng = u.curEng)
    (hb : body ⟨off, k, 0, mode⟩ u = .ok (w.landAfter ⟨off, k, 0, mode⟩ 1 d)) :
    ∃ t, Host.Outcome.next (issueRec i r body s) = (.next t : Res) ∧ w.Lands t (w.now + w.div) off .me d 0 0 0 := by
  rw [← Nat.one_mul w.div]
  exact ⟨_, congrArg _ (issueRec_ok hi h hb), State.lands_land_of (hw.trans h.curEng) _ _ _ _ _ _⟩

/-- Taking a slot keeps the engine, the tick and the divisor. -/
theorem State.WritesKey.frame {key : Key} {slot : Fin 16} (h : u.WritesKey key slot w) :
    w.curEng = u.curEng ∧ w.now = u.now ∧ w.div = u.div ∧ w.uid = u.uid ∧ w.curCell = u.curCell := by
  have hframe (x : Cell) (hg : x.gang = u.cur.gang) (hq : x.sq = u.cur.sq) : (u.setCur x).curEng = u.curEng ∧ (u.setCur x).now = u.now ∧
      (u.setCur x).div = u.div ∧ (u.setCur x).uid = u.uid ∧ (u.setCur x).curCell = u.curCell := by
    refine ⟨rfl, State.now_setCell u _ x hg, ?_, rfl, rfl⟩
    rw [State.setCur_eq, State.div_eq, State.engine_setCell _ _ _ rfl, Cell.engine, hq]
    rfl
  obtain ⟨_, ⟨_, rfl⟩ | ⟨_, _, _, rfl⟩⟩ := h <;> exact hframe _ rfl rfl

/-- Work left to a freeze (R44, R279). -/
theorem asks_askWork (c : Ctx) (m : CremaMove) (q : Cond) : w.Asks (askWork c m q w) c.off m q := by
  refine ⟨rfl, ?cell, ?cells, ?own, ?others⟩
  case cell => exact State.cell_setCell_self w w.curCell _
  case cells => exact fun d hd => State.cell_setCell_ne w _ (Ne.symm hd)
  case own =>
    have hgid : (askWork c m q w).gidOf w.curCell = w.gidOf w.curCell := State.gidOf_setCell w w.curCell _ _ rfl
    rw [State.gangOf, hgid]
    exact State.gang_setGang_self w _ _
  case others => exact fun g hg => State.gang_setGang_ne w _ (Ne.symm hg)

end Maintenance

/-- The keys that CRELL releases: those of the label that hold a slot or a spill entry. -/
theorem mem_labelKeys {x : Crema} {l : BitVec 12} {q : Key} : q ∈ x.labelKeys l ↔
    q.label = l ∧ ((∃ i : Fin 16, x.slots[i].key = some q) ∨ ∃ e ∈ x.spilled, e.key = q) := by
  simp only [Crema.labelKeys, List.mem_append, List.mem_filterMap, List.mem_finRange, true_and, Option.filter_eq_some_iff, beq_iff_eq,
    List.mem_map, List.mem_filter]
  constructor
  · rintro (⟨i, hi, hl⟩ | ⟨e, ⟨he, hl⟩, rfl⟩)
    · exact ⟨hl, .inl ⟨i, hi⟩⟩
    · exact ⟨hl, .inr ⟨e, he, rfl⟩⟩
  · rintro ⟨hl, ⟨i, hi⟩ | ⟨e, he, rfl⟩⟩
    · exact .inl ⟨i, hi, hl⟩
    · exact .inr ⟨e, ⟨he, hl⟩, rfl⟩

/-! ## CSTAT (R280) -/

/-- The destination that Dest describes is the one that rowDst finds. -/
theorem rowDst_dest {u : State} {o : Opnd} {n : Nat} {x : Ix} {d : RowDst} (h : u.Dest o n x d) : rowDst o n x u = .ok d := by
  rcases h with ⟨q, p, rfl, rfl⟩ | ⟨b, hrows, hwin, rfl⟩
  · rfl
  · have hat := rowsAt_names hrows
    have hfind : ((List.range n).findSome? fun i => u.cur.windowFlt .me (b + i)) = none :=
      List.findSome?_eq_none_iff.mpr fun i hi => hwin i (List.mem_range.mp hi)
    obtain ⟨⟨_, g, base, st, rfl, _⟩, _⟩ := hrows
    simp only [rowDst, hat, Option.getD_some, hfind]

/-- A number below 2^n and a multiple of 2^n share no bit. -/
theorem Nat.or_mul_two_pow {a n : Nat} (b : Nat) (h : a < 2 ^ n) : a ||| b * 2 ^ n = a + b * 2 ^ n := by
  rw [← Nat.shiftLeft_eq, Nat.or_comm, ← Nat.shiftLeft_add_eq_or_of_lt h, Nat.add_comm]

/-- The fields of CSTAT's word do not overlap. -/
theorem cstat_word (k : Key) (a b : Bool) :
    BitVec.ofNat 32 (k.tile.toNat + k.label.toNat * 2 ^ 16 + 2 ^ 28 + a.toNat * 2 ^ 29 + b.toNat * 2 ^ 30) =
      k.tile.setWidth 32 ||| (k.label.setWidth 32 <<< 16) ||| 0x10000000 ||| (if a then 0x20000000 else 0) |||
        if b then 0x40000000 else 0 := by
  have htile := k.tile.isLt
  have hlabel := k.label.isLt
  have ha : (if a then 0x20000000 else 0 : BitVec 32).toNat = a.toNat * 2 ^ 29 := by cases a <;> rfl
  have hb : (if b then 0x40000000 else 0 : BitVec 32).toNat = b.toNat * 2 ^ 30 := by cases b <;> rfl
  have hl : (k.label.setWidth 32 <<< 16).toNat = k.label.toNat * 2 ^ 16 := by
    rw [BitVec.toNat_shiftLeft, BitVec.toNat_setWidth, Nat.shiftLeft_eq, Nat.mod_eq_of_lt (a := k.label.toNat) (by omega)]
    exact Nat.mod_eq_of_lt (by omega)
  have ht : (k.tile.setWidth 32).toNat = k.tile.toNat := by
    rw [BitVec.toNat_setWidth]
    exact Nat.mod_eq_of_lt (by omega)
  have hal := Bool.toNat_le a
  have hbl := Bool.toNat_le b
  apply BitVec.eq_of_toNat_eq
  rw [BitVec.toNat_or, BitVec.toNat_or, BitVec.toNat_or, BitVec.toNat_or, ha, hb, hl, ht,
    show (0x10000000 : BitVec 32).toNat = 1 * 2 ^ 28 from rfl, Nat.or_mul_two_pow (n := 16) _ htile,
    Nat.or_mul_two_pow (n := 28) _ (by omega), Nat.or_mul_two_pow (n := 29) _ (by omega), Nat.or_mul_two_pow (n := 30) _ (by omega),
    BitVec.toNat_ofNat, Nat.one_mul]
  exact Nat.mod_eq_of_lt (by omega)

theorem cstatLane_slot (x : Cell) (i : Fin 16) :
    let park := x.cr.parked.any fun e => e.2 = .slot i
    (x.cr.slots[i].key = none → cstatLane x i.val = if park then 0x40000000 else 0) ∧
    ∀ q, x.cr.slots[i].key = some q → cstatLane x i.val = q.tile.setWidth 32 ||| (q.label.setWidth 32 <<< 16) ||| 0x10000000 |||
      (if x.cr.slots[i].spillable then 0x20000000 else 0) ||| if park then 0x40000000 else 0 := by
  intro park
  have hlane : cstatLane x i.val = match x.cr.slots[i].key with
      | some k => BitVec.ofNat 32 (k.tile.toNat + k.label.toNat * 2 ^ 16 + 2 ^ 28 + x.cr.slots[i].spillable.toNat * 2 ^ 29 + park.toNat * 2 ^ 30)
      | none => BitVec.ofNat 32 (park.toNat * 2 ^ 30) := dif_pos i.isLt
  refine ⟨fun hk => ?_, fun q hk => ?_⟩
  · rw [hlane, hk]
    cases park <;> rfl
  · rw [hlane, hk]
    exact cstat_word q _ _

theorem cstatLane_rest (x : Cell) {i : Nat} (h : 22 ≤ i) : cstatLane x i = 0 := by
  have h16 : ¬ i < 16 := by omega
  rw [cstatLane, dif_neg h16]
  split
  case h_7 => rfl
  all_goals omega

/-- One row on its way, four engine cycles after issue. -/
theorem landsEach_landRows {u : State} (he : u.curEng = .me) (c : Ctx) (lat : Nat) (d : RowDst) (o : OutRow) :
    u.LandsEach (landRows c lat d (fun _ => o) 1 u) c.off lat 1 (fun _ => d.land 0 o.v o.tag) (fun _ => o.fl) := by
  rw [State.LandsEach, ← he]
  exact State.becomes_setCell (u := u.fresh) _ rfl rfl rfl

/-- Settles O34: releases, relabellings and CZERO land next cycle, CSTAT lands its row, and the rest leave work to a freeze. -/
theorem slotMaintenanceComplete : Obligations.SlotMaintenanceComplete := by
  intro r s u off k mode key x due
  refine ⟨fun h w h1 hdue => ?crell, fun h d hd => ?cstat, fun hkey => ?keyed⟩
  case crell =>
    have hfree : ((u.cur.cr.labelKeys (w.setWidth 12)).any u.cur.keyDue) = false := by
      rw [List.any_eq_false]
      intro q hq
      rw [hdue q (mem_labelKeys.mp hq).1]
      exact Bool.false_ne_true
    obtain ⟨t, ht, hl⟩ := issueRec_landsNext (body := bodyCrell r) (d := .crel (u.cur.cr.labelKeys (w.setWidth 12))) rfl h rfl (by
      have hfree' : ((u.cur.cr.labelKeys (w.extractLsb' 0 12)).any u.cur.keyDue) = false := hfree
      simp only [bodyCrell, h1, hfree', Bool.false_eq_true, if_false]
      rfl)
    exact ⟨t, _, ht, hl, fun q => mem_labelKeys⟩
  case cstat =>
    have hbody : bodyCstat r ⟨off, k, 0, mode⟩ u =
        .ok (landRows ⟨off, k, 0, mode⟩ 4 d (fun _ => ⟨mkRow (cstatLane u.cur), false, 0⟩) 1 u) := by
      have hdst : rowDst r.o0 1 (ixOf r.nest k) u = .ok d := rowDst_dest hd
      simp only [bodyCstat, hdst]
      rfl
    refine ⟨_, _, _, congrArg Host.Outcome.next (issueRec_ok (body := bodyCstat r) rfl h hbody), landsEach_landRows h.curEng _ _ _ _, rfl, _, rfl,
      fun i => ?_, ?_⟩
    · rw [lane_mkRow _ _ (Nat.lt_trans i.isLt (by decide))]
      exact cstatLane_slot u.cur i
    · refine ⟨lane_mkRow _ _ (by decide), lane_mkRow _ _ (by decide), lane_mkRow _ _ (by decide), lane_mkRow _ _ (by decide), ?_,
        lane_mkRow _ _ (by decide), fun i hi h22 => ?_⟩
      · rw [lane_mkRow _ _ (by decide)]
        change BitVec.ofNat 32 u.cur.me.win.isSome.toNat = _
        cases u.cur.me.win.isSome <;> rfl
      · rw [lane_mkRow _ _ hi, cstatLane_rest _ h22]
  case keyed =>
    have hk : keyAt r.o0 (ixOf r.nest k) u.cur.cc = .ok key := keyAt_names hkey
    refine ⟨fun h slot w hw => ?czero, fun h hdue => ?crel, fun h w h1 hsp => ?clbl, fun h old hold hdue => ?clblR,
      fun h => ⟨fun hno => ?csplNone, fun hslot hfree => ?cspl⟩, fun h => ⟨fun hno => ?cfilNone, fun hsp => ?cfil⟩,
      fun b slot w hw => ⟨fun h hrows => ?cfilF32, fun h hrows => ?cfilBf16⟩⟩
    case czero =>
      obtain ⟨heng, hnow, hdiv, _, _⟩ := hw.frame
      have hbody : bodyCzero r ⟨off, k, 0, mode⟩ u = .ok (w.landAfter ⟨off, k, 0, mode⟩ 1 (.czero slot)) := by
        simp only [bodyCzero, hk, writeKey_writes hw]
        rfl
      have hl := issueRec_landsNext (body := bodyCzero r) rfl h heng hbody
      rwa [hnow, hdiv] at hl
    case crel =>
      refine issueRec_landsNext (body := bodyCrel r) rfl h rfl ?_
      simp only [bodyCrel, hk, hdue, Bool.false_eq_true, if_false]
    case clbl =>
      refine issueRec_landsNext (body := bodyClbl r) rfl h rfl ?_
      simp only [bodyClbl, hk, h1, needKey_here hsp]
      rfl
    case clblR =>
      have ho : keyAt r.o1 (ixOf r.nest k) u.cur.cc = .ok old := keyAt_names hold
      have hpass : (decide (key ≠ old) && u.cur.keyDue key) = false := by
        rcases hdue with rfl | hdue
        · simp
        · rw [hdue, Bool.and_false]
      refine issueRec_landsNext (body := bodyClblR r) rfl h rfl ?_
      simp only [bodyClblR, hk, ho, hpass, Bool.false_eq_true, if_false]
    case csplNone =>
      have hnone : (u.cur.cr.slotOf key).isNone = true := Option.isNone_iff_eq_none.mpr hno
      refine congrArg Host.Outcome.next (issueRec_ok (body := bodyCspl r) rfl h ?_)
      simp only [bodyCspl, hk, hnone, if_true]
    case cspl =>
      have hsome : (u.cur.cr.slotOf key).isNone = false := Option.isNone_eq_false_iff.mpr (Option.isSome_iff_ne_none.mpr hslot)
      have hentry : u.cur.freeEntry.isNone = false := Option.isNone_eq_false_iff.mpr (Option.isSome_iff_ne_none.mpr hfree)
      refine ⟨_, congrArg Host.Outcome.next (issueRec_ok (body := bodyCspl r) rfl h ?_), asks_askWork ⟨off, k, 0, mode⟩ _ _⟩
      simp only [bodyCspl, hk, hsome, hentry, Bool.false_eq_true, if_false]
    case cfilNone =>
      have hnone : (u.cur.cr.spilledOf key).isNone = true := Option.isNone_iff_eq_none.mpr hno
      refine congrArg Host.Outcome.next (issueRec_ok (body := bodyCfil r) rfl h ?_)
      simp only [bodyCfil, hk, hnone, if_true]
    case cfil =>
      have hsome : (u.cur.cr.spilledOf key).isNone = false := Option.isNone_eq_false_iff.mpr (Option.isSome_iff_ne_none.mpr hsp)
      refine ⟨_, congrArg Host.Outcome.next (issueRec_ok (body := bodyCfil r) rfl h ?_), asks_askWork ⟨off, k, 0, mode⟩ _ _⟩
      simp only [bodyCfil, hk, hsome, Bool.false_eq_true, if_false]
    case cfilF32 =>
      have hat : rowsAt r.o1 512 (ixOf r.nest k) u.cur.cc = .ok (some b) := rowsAt_names hrows
      refine ⟨_, congrArg Host.Outcome.next (issueRec_ok (body := bodyCfilF32 r) rfl h ?_), asks_askWork ⟨off, k, 0, mode⟩ _ _⟩
      simp only [bodyCfilF32, cfilRows, hk, Bool.false_eq_true, if_false, hat, writeKey_writes hw]
      rfl
    case cfilBf16 =>
      have hat : rowsAt r.o1 256 (ixOf r.nest k) u.cur.cc = .ok (some b) := rowsAt_names hrows
      refine ⟨_, congrArg Host.Outcome.next (issueRec_ok (body := bodyCfilBf16 r) rfl h ?_), asks_askWork ⟨off, k, 0, mode⟩ _ _⟩
      simp only [bodyCfilBf16, cfilRows, hk, if_true, hat, writeKey_writes hw]
      rfl

/-! ## Timed reads of several rows (R59, R126) -/

/-- A write of a value that is listed is read back, in a list of any form. -/
theorem assocGet_assocPut_listed {α : Type} [DecidableEq α] {d : α} {l : List (Nat × α)} {a : Nat} {v : α} (hv : v ≠ d) (b : Nat) :
    assocGet d (assocPut d l a v) b = if b = a then v else assocGet d l b := by
  induction l with
  | nil => simp [assocPut, assocGet, hv]
  | cons e l ih =>
    simp only [assocPut, if_neg hv]
    split
    · rfl
    · split
      next h =>
        subst h
        simp only [assocGet]
        split <;> rfl
      next h =>
        simp only [assocGet, ih]
        by_cases hb : b = e.1
        · rw [if_pos hb, if_pos hb, if_neg (by omega)]
        · rw [if_neg hb, if_neg hb]

/-- What a step of an engine takes from the state beside its cell's contents. -/
structure State.SameTurn (u w : State) : Prop where
  eng  : w.curEng = u.curEng
  now  : w.now = u.now
  div  : w.div = u.div
  uid  : w.uid = u.uid
  cell : w.curCell = u.curCell

theorem State.SameTurn.refl (u : State) : u.SameTurn u := ⟨rfl, rfl, rfl, rfl, rfl⟩

theorem State.SameTurn.trans {u v w : State} (h : u.SameTurn v) (k : v.SameTurn w) : u.SameTurn w :=
  ⟨k.eng.trans h.eng, k.now.trans h.now, k.div.trans h.div, k.uid.trans h.uid, k.cell.trans h.cell⟩

theorem State.sameTurn_setCur (u : State) (x : Cell) (hg : x.gang = u.cur.gang) (hq : x.sq = u.cur.sq) : u.SameTurn (u.setCur x) := by
  refine ⟨rfl, State.now_setCell u _ x hg, ?_, rfl, rfl⟩
  rw [State.setCur_eq, State.div_eq, State.engine_setCell _ _ _ rfl, Cell.engine, hq]
  rfl

/-- The state after one timed read of a row. -/
def State.readingRow (u : State) (r : Nat) : State := u.setCur { u.cur with ord := { u.cur.ord with
  banks := assocPut 0 u.cur.ord.banks (r % 32) (assocGet 0 u.cur.ord.banks (r % 32) + 1) } }

theorem State.reading_cons (u : State) (r : Nat) (l : List Nat) : u.reading (r :: l) = (u.readingRow r).reading l := rfl

theorem State.cur_readingRow (u : State) (r : Nat) : (u.readingRow r).cur = { u.cur with ord := { u.cur.ord with
    banks := assocPut 0 u.cur.ord.banks (r % 32) (assocGet 0 u.cur.ord.banks (r % 32) + 1) } } := State.cell_setCell_self u u.curCell _

theorem State.mpRow_readingRow (u : State) (r q : Nat) : (u.readingRow r).mpRow q = u.mpRow q := by
  have hcell : (u.readingRow r).cell u.curCell = (u.readingRow r).cur := rfl
  unfold State.mpRow State.visible State.stored
  simp only [show (u.readingRow r).curCell = u.curCell from rfl, hcell, State.cur_readingRow]
  rfl

theorem State.CanRead.tail {u : State} {r : Nat} {l : List Nat} (h : u.CanRead (r :: l)) : (u.readingRow r).CanRead l := by
  intro q hq
  have hb := h q (List.mem_cons_of_mem r hq)
  rw [State.cur_readingRow, assocGet_assocPut_listed (Nat.succ_ne_zero _)]
  by_cases he : q % 32 = r % 32
  · rw [List.countP_cons_of_pos (by simp [he])] at hb
    rw [if_pos he, ← he]
    omega
  · rw [List.countP_cons_of_neg (by simpa using Ne.symm he)] at hb
    rw [if_neg he]
    omega

/-- Timed reads that fit the banks answer the rows as they stand, and count them. -/
theorem mpReads_ok (l : List Nat) : ∀ {u : State}, u.CanRead l → mpReads l u = .ok (l.map u.mpRow, u.reading l) := by
  induction l with
  | nil => intro u _; rfl
  | cons r l ih =>
    intro u h
    have hlt : u.bankUse r < 4 := by
      have hb := h r List.mem_cons_self
      rw [List.countP_cons_of_pos (by simp)] at hb
      have : assocGet 0 u.cur.ord.banks (r % 32) = u.bankUse r := rfl
      omega
    have huse : u.useBank r = .ok (u.readingRow r) := (State.useBank_ok hlt).trans rfl
    have hrow : (u.readingRow r).visible (u.readingRow r).curCell .mp (.sp (u.readingRow r).curCell r) = u.mpRow r :=
      State.mpRow_readingRow u r r
    have hmap : l.map (u.readingRow r).mpRow = l.map u.mpRow := List.map_congr_left fun q _ => State.mpRow_readingRow u r q
    simp only [mpReads, mpRead, huse, Except.map, hrow, ih h.tail, hmap]
    rfl

theorem State.reading_frame (l : List Nat) : ∀ u : State,
    u.SameTurn (u.reading l) ∧ (u.reading l).cur.me = u.cur.me := by
  induction l with
  | nil => exact fun u => ⟨.refl u, rfl⟩
  | cons r l ih =>
    intro u
    obtain ⟨hturn, hme⟩ := ih (u.readingRow r)
    have hrow : u.SameTurn (u.readingRow r) := State.sameTurn_setCur u _ (by rfl) (by rfl)
    exact ⟨hrow.trans hturn, by rw [State.reading_cons, hme, State.cur_readingRow]⟩

/-! ## What a pass needs before it begins (R73, R274, R284) -/

/-- Registering rows changes the window only. -/
theorem registerRows_eq {l : List WinRange} {u v : State} (h : registerRows l u = .ok v) :
    ∃ win, v = u.setCur { u.cur with me := { u.cur.me with win := win } } := by
  unfold registerRows at h
  split at h
  · exact ⟨u.cur.me.win, (Except.ok.inj h).symm.trans u.setCur_self.symm⟩
  · dsimp only at h
    split at h
    · exact absurd h (by simp)
    · exact ⟨_, (Except.ok.inj h).symm⟩

/-- A pass of a window changes the window only. -/
theorem retain_eq {k : Key} {l : List WinRange} {u v : State} (h : retain k l u = .ok v) :
    ∃ win, v = u.setCur { u.cur with me := { u.cur.me with win := win } } := by
  unfold retain at h
  split at h
  · exact ⟨u.cur.me.win, (Except.ok.inj h).symm.trans u.setCur_self.symm⟩
  · split at h
    · exact absurd h (by simp)
    · split at h
      · exact absurd h (by simp)
      · obtain ⟨win, rfl⟩ := registerRows_eq h
        refine ⟨win, ?_⟩
        simp only [State.modCur_eq, State.setCur_eq, State.setCell_curCell, State.cur_eq, State.cell_setCell_self, State.setCell_setCell]

theorem halfRowAt_names {u : State} {o : Opnd} {x : Ix} {h : Nat} (hn : u.NamesHalf o x h) :
    ∃ g base st, o = .hr g base st ∧ halfRowAt g base st x u.cur.cc = .ok h := by
  obtain ⟨hlt, g, base, st, rfl, hg⟩ := hn
  have hin : (decide (0 ≤ (h : Int)) && decide ((h : Int) < 2 * spRows)) = true := by
    have : (spRows : Int) = 24576 := rfl
    rw [Bool.and_eq_true, decide_eq_true_eq, decide_eq_true_eq]
    omega
  refine ⟨g, base, st, rfl, ?_⟩
  cases g with
  | none => simp only [halfRowAt, ← hg, hin, if_true, Int.toNat_natCast]
  | some m =>
    obtain ⟨htag, hsmall, hrow⟩ := hg
    have hz : ¬ (u.cur.cc.greg m).toNat / 2 ^ 23 ≠ 0 := not_not.mpr (Nat.div_eq_of_lt hsmall)
    have hmod : ((u.cur.cc.greg m).toNat : Int) / 128 % 65536 = (u.cur.cc.greg m).toNat / 128 := by omega
    simp only [halfRowAt, htag, Bool.false_eq_true, if_false, if_neg hz, hmod, ← hrow, hin, if_true, Int.toNat_natCast]

/-- The source of a pass: an index row, or a first half-row. -/
theorem passSource_names {op : Nat} {u : State} {o : Opnd} {x : Ix} {a : Nat}
    (h : if isGather op then u.NamesRows o 2 x a else u.NamesHalf o x a ∧ (if isSparse op then a / 2 * 2 + 256 else a + 128) ≤ 49152) :
    passSource op o x u.cur.cc = .ok a := by
  split at h
  · have hat := rowsAt_names h
    obtain ⟨⟨_, g, base, st, rfl, _⟩, _⟩ := h
    simp only [passSource, hat]
    rfl
  · obtain ⟨g, base, st, rfl, hat⟩ := halfRowAt_names h.1
    have hle : (if isSparse op then a / 2 * 2 + 256 else a + 128) ≤ 2 * spRows := h.2
    simp only [passSource, hat, if_pos hle]

/-- The index entries of two rows that were read. -/
theorem indexEntries_pair (f : Nat → Row × Bool) (a : Nat) :
    indexEntries [f a, f (a + 1)] = (List.range 128).map fun i =>
      let row := f (a + i / 64)
      if row.2 || (lane row.1 (i % 64)).getLsbD 31 then none else some (lane row.1 (i % 64)) := by
  refine List.map_congr_left fun i hi => ?_
  have hlt := List.mem_range.mp hi
  have hdiv : i / 64 = 0 ∨ i / 64 = 1 := by omega
  rcases hdiv with h | h <;> simp only [h] <;> rfl

theorem indexBeyond_false {l : List (Option Lane)} (h : ∀ i w, some w = l.getD i none → w.toNat % 65536 < 49152) :
    indexBeyond l = false := by
  rw [indexBeyond, List.any_eq_false]
  intro e he
  obtain ⟨i, hi, rfl⟩ := List.mem_iff_getElem.mp he
  have hget : l.getD i none = l[i] := by rw [List.getD_eq_getElem?_getD, List.getElem?_eq_getElem hi, Option.getD_some]
  cases hl : l[i] with
  | none => exact Bool.false_ne_true
  | some w =>
    have hw := h i w (by rw [hget, hl])
    exact fun hc => absurd hw (Nat.not_lt.mpr (of_decide_eq_true hc))

/-! ## The pass (R272–R274) -/

/-- What a pass notes at its issue. -/
structure PassNote where
  op    : Nat
  a     : Nat
  slot  : Fin 16
  key   : Key
  latch : Latch
  index : List (Option Lane)
  bad   : Bool
  sr    : List (Row × Bool)

/-- The operation that a pass begins, from the state in which its metadata has been taken. -/
def PassNote.begin_ (n : PassNote) (r : Rec) (c : Ctx) (m : MetaBits × Bool × Bool) (w : State) : MeOp :=
  { uid := w.uid, off := c.off, op := n.op, mode := r.mod, t0 := w.now, div := w.div, next := 0, a := n.a, slot := n.slot, key := n.key,
    ftz := c.mode.getLsbD 3, gen2 := decide ((w.gangOf w.curCell).encgen = 2), latch := n.latch, index := n.index, idxBad := n.bad,
    scales := n.sr.flatMap fun e => (List.range 64).map (lane e.1), scTags := n.sr.flatMap fun e => List.replicate 64 e.2,
    metadata := m.1, metaTag := m.2.1, metaIn := m.2.2, rows := [], src := n.latch.src.getD ⟨0, 0, none⟩, exp := c.k }

/-- The state after a pass has begun. -/
def passBegun (w : State) (o : MeOp) : State :=
  (w.modCur fun y => { y with me := Me.keep { y.me with ops := y.me.ops ++ [o] } o }).fresh

/-- The cell of a pass that has begun. -/
theorem cur_passBegun (w : State) (o : MeOp) : (passBegun w o).cur = { w.cur with me := { w.cur.me with
    ops := w.cur.me.ops ++ [o]
    ret := if w.cur.me.win.isSome then w.cur.me.ret ++ [{ o with latch := .reset }] else w.cur.me.ret } } := by
  have hself : (passBegun w o).cur = { w.cur with me := Me.keep { w.cur.me with ops := w.cur.me.ops ++ [o] } o } :=
    State.cell_setCell_self w w.curCell _
  rw [hself]
  unfold Me.keep
  split <;> rfl

section Pass

variable {op : Nat} {r : Rec} {u v w : State} {off k : Nat} {mode : BitVec 4} {a : Nat} {sc : Option Nat} {key : Key} {slot : Fin 16}

/-- The index rows of a pass, and its scale rows. -/
def passIdx (op a : Nat) : List Nat := if isGather op then [a, a + 1] else []
def passScales (op : Nat) (sc : Option Nat) : List Nat :=
  match sc with
  | some q => (List.range (if isSparse op then 4 else 2)).map (q + ·)
  | none => []

/-- The index that a pass notes, from the rows as MP sees them. -/
def passIndex (op a : Nat) (u : State) : List (Option Lane) :=
  if isGather op then (List.range 128).map fun i =>
    let row := u.mpRow (a + i / 64)
    if row.2 || (lane row.1 (i % 64)).getLsbD 31 then none else some (lane row.1 (i % 64))
  else []

/-- What the pass notes where its operands, its index and its window are in order. -/
def passNote (op : Nat) (r : Rec) (a : Nat) (sc : Option Nat) (key : Key) (slot : Fin 16) (u : State) : PassNote :=
  { op := op, a := a, slot := slot, key := key, latch := u.cur.me.bl[Fin.ofNat 2 (r.mod.toNat % 2)], index := passIndex op a u,
    bad := (passIdx op a).any (fun q => (u.mpRow q).2), sr := (passScales op sc).map u.mpRow }

theorem passBody_ok
    (hsrc : if isGather op then u.NamesRows r.o1 2 (ixOf r.nest k) a
      else u.NamesHalf r.o1 (ixOf r.nest k) a ∧ (if isSparse op then a / 2 * 2 + 256 else a + 128) ≤ 49152)
    (hr : rowsAt r.o2 (if isSparse op then 4 else 2) (ixOf r.nest k) u.cur.cc = .ok sc)
    (hkey : u.NamesKey r.o0 (ixOf r.nest k) key) (hread : u.CanRead (passIdx op a ++ passScales op sc))
    (hidx : ∀ i w, some w = (passIndex op a u).getD i none → w.toNat % 65536 < 49152)
    (hret : retain key (passRanges op a sc) (u.reading (passIdx op a ++ passScales op sc)) = .ok v) (hw : v.WritesKey key slot w) :
    passBody op r ⟨off, k, 0, mode⟩ u =
      .ok (passBegun (takeMeta op w).2 ((passNote op r a sc key slot u).begin_ r ⟨off, k, 0, mode⟩ (takeMeta op w).1 (takeMeta op w).2)) := by
  have hs := passSource_names hsrc
  have hk := keyAt_names hkey
  have hm := mpReads_ok _ hread
  have hlatch : (u.reading (passIdx op a ++ passScales op sc)).cur.me.bl = u.cur.me.bl := congrArg Me.bl (State.reading_frame _ u).2
  have hindex : (if isGather op then indexEntries ((passIdx op a).map u.mpRow) else []) = passIndex op a u := by
    unfold passIndex passIdx
    split
    · exact indexEntries_pair u.mpRow a
    · rfl
  have htake : ((passIdx op a ++ passScales op sc).map u.mpRow).take (passIdx op a).length = (passIdx op a).map u.mpRow := by
    rw [List.map_append, List.take_left' (List.length_map _)]
  have hdrop : ((passIdx op a ++ passScales op sc).map u.mpRow).drop (passIdx op a).length = (passScales op sc).map u.mpRow := by
    rw [List.map_append, List.drop_left' (List.length_map _)]
  have hindex' : (if isGather op then indexEntries (((passIdx op a ++ passScales op sc).map u.mpRow).take (passIdx op a).length) else []) =
      passIndex op a u := by rw [htake, hindex]
  have hbeyond := indexBeyond_false hidx
  cases sc <;>
  · simp only [passIdx, passScales] at hm hret hlatch htake hdrop hindex'
    simp only [passBody, hs, hr, hk, hm, hindex', hbeyond, hret, writeKey_writes hw, Bool.false_eq_true, if_false]
    simp only [hlatch, htake, hdrop, List.any_map]
    rfl

end Pass

/-! ## Metadata (R44, R72) -/

/-- Is the metadata that a pass needs there? -/
def metaThere (op : Nat) (w : State) : Bool := !isSparse op || !w.cur.me.metaq.isEmpty

theorem takeMeta_frame (op : Nat) (w : State) :
    w.SameTurn (takeMeta op w).2 ∧
    (takeMeta op w).2.cur = { w.cur with me := { w.cur.me with metaq := if isSparse op then w.cur.me.metaq.tail else w.cur.me.metaq } } ∧
    (∀ d, d ≠ w.curCell → (takeMeta op w).2.cell d = w.cell d) ∧ (takeMeta op w).2.mem = w.mem := by
  unfold takeMeta
  split
  next hs =>
    split
    next m rest hq =>
      refine ⟨State.sameTurn_setCur w _ (by rfl) (by rfl), ?_, fun d hd => State.cell_setCell_ne w _ (Ne.symm hd), rfl⟩
      rw [hq]
      exact State.cell_setCell_self w w.curCell _
    next hq =>
      have htail : w.cur.me.metaq.tail = w.cur.me.metaq := by rw [hq]; rfl
      rw [htail]
      exact ⟨⟨rfl, State.now_request w _ _, rfl, rfl, rfl⟩, rfl, fun _ _ => rfl, rfl⟩
  next hs => exact ⟨.refl w, rfl, fun _ _ => rfl, rfl⟩

/-- A pass that needs no metadata takes none. -/
theorem takeMeta_dense {op : Nat} (h : isSparse op = false) (w : State) : takeMeta op w = ((0, false, true), w) := by
  rw [takeMeta, h, if_neg Bool.false_ne_true]

/-- A sparse pass takes the head of the metadata queue. -/
theorem takeMeta_head {op : Nat} (h : isSparse op = true) {w : State} {y : MetaBits × Bool} {rest : List (MetaBits × Bool)}
    (hq : w.cur.me.metaq = y :: rest) : takeMeta op w =
      ((y.1, y.2, true), w.modCur fun x => { x with me := { x.me with metaq := rest } }) := by
  rw [takeMeta, h, if_pos rfl, hq]

/-- A sparse pass asks for a freeze while the queue is empty. -/
theorem takeMeta_empty {op : Nat} (h : isSparse op = true) {w : State} (hq : w.cur.me.metaq = []) : takeMeta op w =
    ((0, false, false), w.request (w.gidOf w.curCell) (.metadata w.curCell)) := by
  rw [takeMeta, h, if_pos rfl, hq]

/-! ## The six passes -/

/-- Beginning a pass touches its own cell only, and no gang. -/
theorem gangOf_passBegun (w : State) (o : MeOp) (c : CellId) : (passBegun w o).gangOf c = w.gangOf c := by
  have hid : (passBegun w o).gidOf c = w.gidOf c := State.gidOf_setCell w w.curCell c _ (by rfl)
  rw [State.gangOf, hid]
  rfl

theorem passOps_exec {e : (Rec → Instr) × Nat × Bool × Bool} (he : e ∈ passOps) (r : Rec) :
    (∃ op, recOf (e.1 r) = some (.me, op, r)) ∧ (∀ s, exec (e.1 r) s = .next (issueRec (e.1 r) r (passBody e.2.1 r) s)) ∧
      isGather e.2.1 = e.2.2.1 ∧ isSparse e.2.1 = e.2.2.2 := by
  simp only [passOps, List.mem_cons, List.not_mem_nil, or_false] at he
  rcases he with rfl | rfl | rfl | rfl | rfl | rfl <;> exact ⟨⟨_, rfl⟩, fun _ => rfl, rfl, rfl⟩

/-- Settles O31: the index and scale rows are read, the window and the slot taken, then the metadata, and the pass begins. -/
theorem passesComplete : Obligations.PassesComplete := by
  intro e he r s u v w off k mode a sc key slot h op gather sparse x nsc idx scs hsrc hsc hkey hread index hidx hret hw
  obtain ⟨⟨o, hi⟩, hexec, hgather, hsparse⟩ := passOps_exec he r
  have hrows : rowsAt r.o2 (if isSparse op then 4 else 2) (ixOf r.nest k) u.cur.cc = .ok sc := by
    rw [hsparse]
    cases sc with
    | none => rw [show r.o2 = .absent from hsc]; rfl
    | some q => exact rowsAt_names hsc
  have hidxs : idx = passIdx op a := by rw [passIdx, hgather]
  have hscs : scs = passScales op sc := by
    cases sc with
    | none => rfl
    | some q => exact congrArg (fun b : Bool => (List.range (if b then 4 else 2)).map (q + ·)) hsparse.symm
  have hindex : index = passIndex op a u := by rw [passIndex, hgather]
  rw [hidxs, hscs] at hread hret
  rw [hindex] at hidx
  have hbody := passBody_ok (off := off) (mode := mode) (by rw [hgather, hsparse]; exact hsrc) hrows hkey hread hidx hret hw
  have hturn : u.SameTurn (takeMeta op w).2 := by
    obtain ⟨win, hv⟩ := retain_eq hret
    obtain ⟨heng, hnow, hdiv, huid, hcell⟩ := hw.frame
    have hvt := State.sameTurn_setCur (u.reading (passIdx op a ++ passScales op sc)) { (u.reading (passIdx op a ++ passScales op sc)).cur with
      me := { (u.reading (passIdx op a ++ passScales op sc)).cur.me with win := win } } rfl rfl
    rw [← hv] at hvt
    exact (State.reading_frame _ u).1.trans (hvt.trans (.trans ⟨heng, hnow, hdiv, huid, hcell⟩ (takeMeta_frame op w).1))
  obtain ⟨hwturn, hcur, hother, hmem⟩ := takeMeta_frame op w
  have hown : w.curCell = u.curCell := hwturn.cell.symm.trans hturn.cell
  refine ⟨_, (passNote op r a sc key slot u).begin_ r ⟨off, k, 0, mode⟩ (takeMeta op w).1 (takeMeta op w).2,
    if isSparse op then w.cur.me.metaq.tail else w.cur.me.metaq,
    (hexec s).trans (congrArg Host.Outcome.next (issueRec_ok hi h hbody)), hturn.uid, rfl, rfl, rfl, hturn.now, hturn.div, rfl, rfl, rfl, rfl,
    rfl, rfl, hindex.symm, ?scales, ?scTags, ?me, fun hs => ?dense, fun hs y rest hq => ?head, fun hs hq => ?empty, ?bad, ?rest,
    fun d hd => ?cells, fun b => congrArg (assocGet 0 · b) hmem⟩
  case scales => rw [hscs]; exact List.flatMap_map u.mpRow (fun e => (List.range 64).map (lane e.1)) _
  case scTags => rw [hscs]; exact List.flatMap_map u.mpRow (fun e => List.replicate 64 e.2) _
  case me => rw [cur_passBegun, hcur]
  case dense =>
    have hs : isSparse op = false := hsparse.trans hs
    rw [takeMeta_dense hs, hs]
    exact ⟨rfl, rfl, rfl⟩
  case head =>
    have hs : isSparse op = true := hsparse.trans hs
    rw [takeMeta_head hs hq, hs, hq]
    exact ⟨rfl, rfl, rfl, rfl, rfl⟩
  case empty =>
    have hs : isSparse op = true := hsparse.trans hs
    rw [takeMeta_empty hs hq, hs, hq, gangOf_passBegun, ← hown]
    exact ⟨rfl, rfl, State.gangOf_request_self w w.curCell _⟩
  case bad => rw [hidxs]; rfl
  case rest => rw [cur_passBegun, hcur]
  case cells => exact (State.cell_setCell_ne _ _ (by rw [hturn.cell]; exact Ne.symm hd)).trans (hother d (by rw [hown]; exact hd))

end Sys2Proof.Machine
end

section
/-! SUPPORT. The canonical form as an invariant of the step (log entry 10), used for O60: the form of a state, of a cell and of Crema's rows, and
the operations on stores. -/

-- in parallel these many small proofs need more threads than the check allows
set_option Elab.async false

namespace Sys2Proof.Machine

/-! ## The canonical form as an invariant (log entry 10) -/

/-- Every store of the state is in canonical form. -/
def State.Canon (s : State) : Prop := s.canonical = true

/-- A computation that may fault answers, where it answers, what satisfies P. -/
def Yields {ε α : Type} (r : Except ε α) (P : α → Prop) : Prop := ∀ a, r = .ok a → P a

/-- A step that goes on goes on in canonical form. -/
def StepCanon (r : Res) : Prop := ∀ t, r = .next t → t.Canon

section Yields

variable {ε δ α β : Type} {P : α → Prop} {Q : β → Prop}

theorem yields_ok {a : α} (h : P a) : Yields (.ok a : Except ε α) P := by
  rintro _ ⟨⟩
  exact h

theorem yields_error (e : ε) : Yields (.error e : Except ε α) P := nofun

theorem Yields.map {r : Except ε α} {f : α → β} (h : Yields r P) (hf : ∀ a, P a → Q (f a)) : Yields (r.map f) Q := by
  cases r with
  | error e => exact yields_error e
  | ok a => exact yields_ok (hf a (h a rfl))

theorem yields_mapAny {r : Except ε α} {f : α → β} (hf : ∀ a, Q (f a)) : Yields (r.map f) Q := by
  cases r with
  | error e => exact yields_error e
  | ok a => exact yields_ok (hf a)

end Yields

theorem stepCanon_next {t : State} (h : t.Canon) : StepCanon (.next t) := by
  rintro _ ⟨⟩
  exact h

theorem canon_foldl {α : Type} {f : State → α → State} (hf : ∀ u a, u.Canon → (f u a).Canon) (l : List α) {s : State} (h : s.Canon) :
    (l.foldl f s).Canon := List.foldlRecOn (motive := State.Canon) l f h fun u hu a _ => hf u a hu

theorem canon_fst {α β : Type} {P : α → Prop} {p : α × β} {a : α} {b : β} (h : P p.1) (e : p = (a, b)) : P a := by
  rw [e] at h
  exact h

theorem canon_snd {α β : Type} {P : β → Prop} {p : α × β} {a : α} {b : β} (h : P p.2) (e : p = (a, b)) : P b := by
  rw [e] at h
  exact h

section Stores

variable {s : State}

theorem canon_cell (h : s.Canon) (c : CellId) : (s.cell c).canonical = true := ((State.canonical_iff s).mp h).2.1 c

theorem canon_cur (h : s.Canon) : s.cur.canonical = true := canon_cell h _

theorem canon_mem (h : s.Canon) : Memory.wf s.mem = true := ((State.canonical_iff s).mp h).1

theorem canon_member {i : Image} (h : s.Canon) (hi : i ∈ s.images) {x : Cell} (hx : x ∈ i.members) : x.canonical = true :=
  ((State.canonical_iff s).mp h).2.2 i hi x hx

/-- A state with the same cells and images, and a canonical memory. -/
theorem canon_setMem {t : State} {m : Memory} (h : s.Canon) (hm : Memory.wf m = true) (ht : t.mem = m) (hc : t.cells = s.cells)
    (hi : t.images = s.images) : t.Canon := by
  rw [State.Canon, State.canonical, hc, hi, ht, hm]
  rw [State.Canon, State.canonical, canon_mem h] at h
  exact h

theorem canon_setCells {v : Vector Cell 128} (h : s.Canon) (hv : ∀ c : CellId, v[c].canonical = true) : State.Canon { s with cells := v } :=
  (State.canonical_iff _).mpr ⟨canon_mem (s := s) h, hv, ((State.canonical_iff s).mp h).2.2⟩

theorem canon_setImages {l : List Image} (h : s.Canon) (hl : ∀ i ∈ l, ∀ x ∈ i.members, x.canonical = true) : State.Canon { s with images := l } :=
  (State.canonical_iff _).mpr ⟨canon_mem (s := s) h, ((State.canonical_iff s).mp h).2.1, hl⟩

theorem canon_setCell {c : CellId} {x : Cell} (h : s.Canon) (hx : x.canonical = true) : (s.setCell c x).Canon := by
  refine canon_setCells h fun d => ?_
  have hd : (s.cells.set c x)[d] = (s.setCell c x).cell d := rfl
  rw [hd, State.cell_setCell]
  split
  · exact hx
  · exact canon_cell h d

/-- A change of one cell keeps the form; most changes touch neither the rows of the scratchpad nor those of Crema. -/
theorem canon_modCell {c : CellId} {f : Cell → Cell} (h : s.Canon)
    (hf : ∀ x, x.canonical = true → (f x).canonical = true := by exact fun _ hx => hx) : (s.modCell c f).Canon :=
  canon_setCell h (hf _ (canon_cell h c))

theorem canon_modCur {f : Cell → Cell} (h : s.Canon) (hf : ∀ x, x.canonical = true → (f x).canonical = true := by exact fun _ hx => hx) :
    (s.modCur f).Canon := canon_modCell h hf

theorem canon_setCur {x : Cell} (h : s.Canon) (hx : x.canonical = true) : (s.setCur x).Canon := canon_setCell h hx

theorem canon_setEngine {q : EngSeq} (h : s.Canon) : (s.setEngine q).Canon := canon_modCur h

theorem canon_fresh (h : s.Canon) : s.fresh.Canon := h
theorem canon_onEngine {e : Eng} (h : s.Canon) : (s.onEngine e).Canon := h
theorem canon_emit {o : Out} (h : s.Canon) : (s.emit o).Canon := h
theorem canon_free {k : Nat} (h : s.Canon) : (State.free k s).2.Canon := h
theorem canon_setGang {g : GangId} {y : Gang} (h : s.Canon) : (s.setGang g y).Canon := h
theorem canon_modGang {g : GangId} {f : Gang → Gang} (h : s.Canon) : (s.modGang g f).Canon := h
theorem canon_request {g : GangId} {k : Cond} (h : s.Canon) : (s.request g k).Canon := h

theorem canon_fault {c : CellId} {e : Eng} {off tick : Nat} {redo : Option (Instr × Cc × Nat)} {f : Flt} (h : s.Canon) :
    (s.fault c e off tick redo f).Canon := h

theorem canon_land {c : Ctx} {due : Nat} {d : Land} {vfl mfl : FlagBits} {cfl : BitVec 2} (h : s.Canon) : (s.land c due d vfl mfl cfl).Canon :=
  canon_fresh (canon_modCur h)

theorem canon_landAfter {c : Ctx} {n : Nat} {d : Land} {vfl mfl : FlagBits} {cfl : BitVec 2} (h : s.Canon) :
    (s.landAfter c n d vfl mfl cfl).Canon := canon_land h

end Stores

/-- The rows of a Crema are in canonical form. -/
def Crema.Canon (x : Crema) : Prop := assocWf 0 x.rows = true

section Cells

theorem Cell.canonical_iff {x : Cell} : x.canonical = true ↔ assocWf 0 x.sp = true ∧ x.cr.Canon := by
  rw [Cell.canonical, Bool.and_eq_true]
  rfl

theorem canonical_cr {x : Cell} (hx : x.canonical = true) : x.cr.Canon := (Cell.canonical_iff.mp hx).2

theorem canonical_setCr {x : Cell} {y : Crema} (hx : x.canonical = true) (hy : y.Canon) : Cell.canonical { x with cr := y } = true :=
  Cell.canonical_iff.mpr ⟨(Cell.canonical_iff.mp hx).1, hy⟩

theorem canonical_putRow {x : Cell} {r : Nat} {v : Row} {tag : Bool} (hx : x.canonical = true) : (x.putRow r v tag).canonical = true :=
  Cell.canonical_iff.mpr ⟨assocPut_wf r v (Cell.canonical_iff.mp hx).1, canonical_cr (x := x) hx⟩

theorem canonical_putQuarter {x : Cell} {loc v : Nat} (hx : x.canonical = true) : (x.putQuarter loc v).canonical = true := canonical_putRow hx

theorem canonical_putCounts {x : Cell} {loc : Nat} {r : Rcb} (hx : x.canonical = true) : (x.putCounts loc r).canonical = true :=
  canonical_putQuarter hx

theorem canonical_putArrival {x : Cell} {addr : Nat} {a : Arrival} (hx : x.canonical = true) : (x.putArrival addr a).canonical = true :=
  canonical_putRow hx

/-- A cell with the scratchpad and the Crema rows of one in canonical form. -/
theorem canonical_congr {x y : Cell} (hx : x.canonical = true) (hs : y.sp = x.sp) (hr : y.cr.rows = x.cr.rows) : y.canonical = true := by
  rw [Cell.canonical, hs, hr]
  exact hx

theorem canonical_ite {p : Prop} [Decidable p] {x y : Cell} (hx : x.canonical = true) (hy : y.canonical = true) :
    (if p then x else y).canonical = true := by
  split
  · exact hx
  · exact hy

end Cells

/-! ## Crema (R69) -/

section Cremas

variable {x : Crema}

theorem assocWfFrom_filter {α : Type} [DecidableEq α] {d : α} (p : Nat × α → Bool) (l : List (Nat × α)) :
    ∀ {lo : Nat}, assocWfFrom d lo l = true → assocWfFrom d lo (l.filter p) = true := by
  induction l with
  | nil => exact fun h => h
  | cons e l ih =>
    intro lo h
    simp only [assocWfFrom, Bool.and_eq_true, decide_eq_true_eq] at h
    rw [List.filter_cons]
    split
    · simp only [assocWfFrom, Bool.and_eq_true, decide_eq_true_eq]
      exact ⟨h.1, ih h.2⟩
    · exact assocWfFrom_le (Nat.le_succ_of_le h.1.1) (ih h.2)

theorem Crema.canon_putAt {i : Fin 16} {r : Nat} {v : SlotRow} {tags : BitVec 256} (hx : x.Canon) : (x.putAt i r v tags).Canon :=
  assocPut_wf _ _ hx

theorem Crema.canon_setSlot {i : Fin 16} {v : SlotInfo} (hx : x.Canon) : (x.setSlot i v).Canon := hx

theorem Crema.canon_clearSlot {i : Fin 16} (hx : x.Canon) : (x.clearSlot i).Canon := assocWfFrom_filter _ _ hx

theorem Crema.canon_setParked {l : List (Nat × ParkPlace)} (hx : x.Canon) : Crema.Canon { x with parked := l } := hx

theorem Crema.canon_parkIn {p : Nat} {slot : Fin 16} {v : Row} {tags : BitVec 64} (hx : x.Canon) : (x.parkIn p slot v tags).Canon := by
  unfold Crema.parkIn
  exact canon_setParked (List.foldlRecOn (motive := Crema.Canon) _ _ hx fun _ h _ _ => canon_putAt h)

theorem Crema.canon_putRows {slot : Fin 16} {rows : SlotRows} {tags : SlotTags} (hx : x.Canon) : (x.putRows slot rows tags).Canon :=
  List.foldlRecOn (motive := Crema.Canon) _ _ hx fun _ h _ _ => canon_putAt h

theorem Crema.canon_movePark {off due seq : Nat} {slot : Fin 16} (hx : x.Canon) : (x.movePark off due seq slot).Canon := by
  refine List.foldlRecOn (motive := Crema.Canon) _ _ hx fun y h e _ => ?_
  dsimp only
  split
  · exact canon_parkIn h
  · exact h

theorem Crema.canon_applyLand {d : Land} (hx : x.Canon) : (x.applyLand d).1.Canon := by
  unfold Crema.applyLand
  split
  · exact canon_putAt hx
  · exact canon_putAt hx
  · exact List.foldlRecOn (motive := Crema.Canon) _ _ hx fun _ h _ _ => canon_putAt h
  · exact canon_clearSlot hx
  · exact hx

theorem Crema.canon_release {k : Key} (hx : x.Canon) : (x.release k).Canon := by
  simp only [Crema.release]
  split <;> exact hx

theorem Crema.canon_relabel {new old : Key} (hx : x.Canon) : (x.relabel new old).Canon := by
  simp only [Crema.relabel]
  split
  · exact hx
  · split
    · exact (canon_release hx :)
    · exact (canon_release hx :)

theorem Crema.canon_setSpillable {k : Key} {on : Bool} (hx : x.Canon) : (x.setSpillable k on).Canon := by
  unfold Crema.setSpillable
  split <;> exact hx

theorem Crema.canon_parkLand {off due seq p : Nat} {slot : Fin 16} {v : Row} {tags : BitVec 64} (hx : x.Canon) :
    (x.parkLand off due seq p slot v tags).1.Canon := by
  unfold Crema.parkLand
  split
  · exact canon_parkIn hx
  · split
    · exact canon_parkIn hx
    · exact hx

theorem canon_settleList {slot : Fin 16} {row : Option Nat} {before : Nat} (l : List Landing) :
    ∀ {x : Crema}, x.Canon → (settleList slot row before l x).2.Canon := by
  induction l with
  | nil => exact fun h => h
  | cons d l ih =>
    intro x hx
    simp only [settleList]
    split
    · exact ih (Crema.canon_applyLand hx)
    · exact ih hx

end Cremas

section Cells

variable {x : Cell}

theorem canonical_settle {slot : Fin 16} {row : Option Nat} {before : Nat} (hx : x.canonical = true) : (x.settle slot row before).canonical = true :=
  canonical_setCr hx (canon_settleList _ (canonical_cr hx))

theorem canonical_spillSlot {off due : Nat} {slot : Fin 16} {entry seq : Nat} (hx : x.canonical = true) :
    (x.spillSlot off due slot entry seq).canonical = true := by
  simp only [Cell.spillSlot]
  split
  · exact hx
  · exact canonical_setCr (canonical_settle hx) (canonical_cr (canonical_settle hx))

theorem canonical_dropWork {p : CremaMove → Bool} (hx : x.canonical = true) : (x.dropWork p).canonical = true := hx

theorem canonical_landMe {l : Landing} (hx : x.canonical = true) : (x.landMe l).1.canonical = true := by
  unfold Cell.landMe
  split
  · exact hx
  · exact canonical_setCr hx (List.foldlRecOn (motive := Crema.Canon) _ _ (canonical_cr hx) fun _ h _ _ => Crema.canon_release h)
  · exact canonical_setCr hx (Crema.canon_setSpillable (canonical_cr hx))
  · exact canonical_setCr hx (Crema.canon_relabel (canonical_cr hx))
  · exact hx
  · exact hx
  · split
    · exact canonical_setCr (canonical_settle hx) (Crema.canon_applyLand (canonical_cr (canonical_settle hx)))
    · exact hx

theorem canonical_putText {focus : List Nat} {off : Nat} {w : RecordBits} (hx : x.canonical = true) : (x.putText focus off w).canonical = true := by
  exact canonical_ite (canonical_congr hx rfl rfl) (canonical_ite hx (canonical_congr hx rfl rfl))

theorem canonical_foldl {α : Type} {f : Cell → α → Cell} (hf : ∀ y a, y.canonical = true → (f y a).canonical = true) (l : List α)
    (hx : x.canonical = true) : (l.foldl f x).canonical = true :=
  List.foldlRecOn (motive := fun y => y.canonical = true) l f hx fun y hy a _ => hf y a hy

theorem canonical_reset : Cell.reset.canonical = true := rfl

/-- What a member keeps of its scratchpad when it leaves is what it had. -/
theorem canonical_leave {g : Gang} (hx : x.canonical = true) : (x.leave g).canonical = true :=
  Cell.canonical_iff.mpr ⟨(Cell.canonical_iff.mp hx).1, rfl⟩

theorem canonical_begin_ {g : GangId} {asid : BitVec 10} {i0 i1 i2 : Nat} {arg : Vector Word 16} {entry : Nat} (hx : x.canonical = true) :
    (x.begin_ g asid i0 i1 i2 arg entry).canonical = true := by
  refine Cell.canonical_iff.mpr ⟨?_, rfl⟩
  simp only [Cell.begin_, Cell.setEngine]
  split
  · exact (Cell.canonical_iff.mp hx).1
  · rfl

theorem canonical_initEntry {s : State} {b : Binary} {e : InitEntry} (hx : x.canonical = true) : (s.initEntry b x e).canonical = true := by
  unfold State.initEntry
  split
  · exact canonical_putQuarter hx
  · exact canonical_putArrival hx
  · refine List.foldlRecOn (motive := fun y : Cell => y.canonical = true) _ _ hx fun y h k _ => ?_
    split
    · exact canonical_putRow h
    · exact h
  · exact hx

theorem canonical_ccLoad {v : Nat} (hx : x.canonical = true) : (x.ccLoad v).canonical = true := by
  unfold Cell.ccLoad
  exact canonical_congr hx rfl rfl

/-- A byte of an image falls into the scratchpad, into Crema, or into what is no store. -/
theorem canonical_imageWrite {areas : MemberAreas} {o v : Nat} (hx : x.canonical = true) : (x.imageWrite areas o v).canonical = true := by
  delta Cell.imageWrite
  refine canonical_ite (canonical_putRow hx) (canonical_ite (canonical_setCr hx (Crema.canon_putAt (canonical_cr hx))) ?_)
  iterate 6 refine canonical_ite (canonical_congr hx rfl rfl) ?_
  refine canonical_ite (canonical_ccLoad hx) ?_
  iterate 3 refine canonical_ite (canonical_congr hx rfl rfl) ?_
  exact hx

theorem canonical_debugWrite {f : ImageField} {v : Nat} (hx : x.canonical = true) : (x.debugWrite f v).canonical = true := by
  unfold Cell.debugWrite
  cases f
  case spByte => exact canonical_putRow hx
  case cremaByte => exact canonical_setCr hx (Crema.canon_putAt (canonical_cr hx))
  all_goals exact hx

theorem canonical_poisonAt {o : Nat} (hx : x.canonical = true) : (x.poisonAt o).canonical = true := by
  refine canonical_ite (canonical_putRow hx) (canonical_ite (canonical_setCr hx (Crema.canon_putAt (canonical_cr hx))) ?_)
  iterate 5 refine canonical_ite (canonical_congr hx rfl rfl) ?_
  exact hx

end Cells

/-! ## Issue (R26, R28, R29) -/

/-- What a record does at one of its expansions keeps the stores canonical. -/
def KeepsBody (body : Ctx → State → Except Flt State) : Prop := ∀ c s, s.Canon → Yields (body c s) State.Canon

/-- What a slot does keeps the stores canonical, whether or not its predicate holds. -/
structure SlotSem.Keeps (m : SlotSem) : Prop where
  act  : ∀ c sl s, s.Canon → Yields (m.act c sl s) State.Canon
  idle : ∀ c sl s, s.Canon → (m.idle c sl s).Canon

/-- Where there is an answer, it satisfies P. -/
def Gives {α : Type} (r : Option α) (P : α → Prop) : Prop := ∀ a, r = some a → P a

theorem gives_some {α : Type} {P : α → Prop} {a : α} (h : P a) : Gives (some a) P := by
  rintro _ ⟨⟩
  exact h

theorem gives_none {α : Type} {P : α → Prop} : Gives (none : Option α) P := nofun

theorem gives_useBank {x : Cell} {row : Nat} (hx : x.canonical = true) : Gives (x.useBank row) fun y => y.canonical = true := by
  intro y hy
  simp only [Cell.useBank] at hy
  split at hy
  · exact Option.some.inj hy ▸ hx
  · exact absurd hy (by simp)

section Issue

variable {s : State}

theorem canon_skipRecord {off : Nat} (h : s.Canon) : (s.skipRecord off).Canon := canon_setEngine h

theorem canon_deprecated {off : Nat} (h : s.Canon) : (s.deprecated off).Canon := by
  have hcount : (s.modCur fun x => { x with cc := { x.cc with depcnt := s.cur.cc.depcnt + 1 } }).Canon := canon_modCur h
  simp only [State.deprecated]
  split
  · exact h
  · split <;> split
    · exact canon_emit hcount
    · exact hcount
    · exact canon_emit hcount
    · exact hcount

theorem canon_expFault {i : Instr} {c : Ctx} {f : Flt} (h : s.Canon) : (s.expFault i c f).Canon := canon_fault (canon_setEngine h)

theorem canon_perform {i : Instr} {c : Ctx} {act : Bool} {chk : Nat → Option Flt} {body : Ctx → State → Except Flt State} (h : s.Canon)
    (hb : KeepsBody body) : (s.perform i c act chk body).Canon := by
  unfold State.perform
  split
  · exact canon_expFault h
  · split
    · split
      next ht => exact hb _ _ h _ ht
      next => exact canon_expFault h
    · exact h

theorem canon_beginRecord {i : Instr} {off stamp n cyc : Nat} {act : Bool} (h : s.Canon) : (s.beginRecord i off stamp n cyc act).Canon := by
  simp only [State.beginRecord]
  split
  · exact canon_deprecated (canon_modCur (canon_setEngine h))
  · exact canon_modCur (canon_setEngine h)

theorem canon_issue {i : Instr} {bad : Option Flt} {stamp : Nat} {p : Pred} {n cyc : Nat} {chk : Nat → Option Flt}
    {body : Ctx → State → Except Flt State} (h : s.Canon) (hb : KeepsBody body) : (issue i bad stamp p n cyc chk body s).Canon := by
  simp only [issue]
  split
  · exact canon_perform (canon_setEngine h) hb
  · split
    · exact h
    · split
      · exact canon_fault (canon_skipRecord h)
      · split
        · exact canon_fault (canon_skipRecord h)
        · exact canon_perform (canon_beginRecord h) hb

theorem canon_issueRec {i : Instr} {r : Rec} {body : Ctx → State → Except Flt State} (h : s.Canon) (hb : KeepsBody body) :
    (issueRec i r body s).Canon := canon_issue (canon_onEngine h) hb

theorem canon_rejectRecord {r : Reject} {stamp : Nat} (h : s.Canon) : (rejectRecord r stamp s).Canon := by
  simp only [rejectRecord]
  split
  · exact h
  · exact canon_fault (canon_skipRecord h)

theorem yields_run {m : SlotSem} (hm : m.Keeps) {c : Ctx} {sl : Slot} (h : s.Canon) : Yields (m.run c sl s) State.Canon := by
  unfold SlotSem.run
  split
  · exact hm.act c sl s h
  · exact yields_ok (hm.idle c sl s h)

theorem stepCanon_slotAlone {m : SlotSem} (hm : m.Keeps) {sl : Slot} (h : s.Canon) : StepCanon (slotAlone m sl s) := by
  have hcc : (s.onEngine .cc).Canon := canon_onEngine h
  simp only [slotAlone]
  refine stepCanon_next ?_
  split
  · exact canon_fault hcc
  · split
    · exact canon_fault hcc
    · split
      next ht => exact yields_run hm hcc _ ht
      next => exact canon_fault hcc

end Issue

/-! ## Device memory and the sync engines' lines (R91, R94) -/

section Memory

variable {s : State}

theorem canon_blockWrite {b : Nat} {v : Row} {m : BitVec 256} {tag : Bool} (h : s.Canon) : (s.blockWrite b v m tag).Canon := by
  unfold State.blockWrite
  exact canon_setMem h (memPutMasked_wf 256 s.mem (256 * b) v.toNat m.toNat (canon_mem h)) (by dsimp only) rfl rfl

theorem canon_devWriteIn {a n v : Nat} {tag : Bool} (h : s.Canon) : (s.devWriteIn a n v tag).Canon := canon_blockWrite h

theorem canon_queueDelta {d : Delta} (h : s.Canon) : (s.queueDelta d).Canon := by
  simp only [State.queueDelta]
  split <;> exact h

theorem canon_engineDelta {b : Nat} (h : s.Canon) : (s.engineDelta b).Canon := canon_queueDelta (s := s.fresh) h

theorem canon_dropLine {n : Nat} (h : s.Canon) : (s.dropLine n).Canon := by
  simp only [State.dropLine]
  split
  · exact h
  · split
    next l _ _ =>
      have hmem := memPut_wf 64 s.mem (64 * n) l.bits.toNat (canon_mem h)
      refine canon_engineDelta ?_
      split
      · exact canon_setMem h hmem (by dsimp only) rfl rfl
      · exact canon_setMem h hmem (by dsimp only) rfl rfl
    · exact h

/-- A change of one member's row in its image keeps the members canonical. -/
theorem canonical_setRow {i : Image} (hi : ∀ x ∈ i.members, x.canonical = true) {m r : Nat} {f : Cell → Cell}
    (hf : ∀ x, x.canonical = true → (f x).canonical = true) : ∀ x ∈ (i.setRow m r f).members, x.canonical = true := by
  have hmap : ∀ x ∈ i.members.mapIdx fun k x => if k = m then f x else x, x.canonical = true := by
    intro x hx
    obtain ⟨k, hk, rfl⟩ := List.mem_mapIdx.mp hx
    exact canonical_ite (hf _ (hi _ (List.getElem_mem hk))) (hi _ (List.getElem_mem hk))
  simp only [Image.setRow]
  split
  · exact hi
  · exact hmap

theorem canon_mapImages {f : Image → Image} (h : s.Canon)
    (hf : ∀ i, (∀ x ∈ i.members, x.canonical = true) → ∀ x ∈ (f i).members, x.canonical = true) :
    State.Canon { s with images := s.images.map f } := by
  refine canon_setImages h fun j hj => ?_
  obtain ⟨i, hi, rfl⟩ := List.mem_map.mp hj
  exact hf i fun x hx => canon_member h hi hx

theorem canon_setImageRow {id m r : Nat} {f : Cell → Cell} (h : s.Canon) (hf : ∀ x, x.canonical = true → (f x).canonical = true) :
    State.Canon { s with images := s.images.map fun i => if i.id = id then i.setRow m r f else i } := by
  refine canon_mapImages h fun i hi => ?_
  split
  · exact canonical_setRow hi hf
  · exact hi

theorem canon_modHolder {l : Loc} {f : Cell → Cell} (h : s.Canon) (hf : ∀ x, x.canonical = true → (f x).canonical = true) :
    (s.modHolder l f).Canon := by
  unfold State.modHolder
  split
  · exact canon_modCell h hf
  · exact canon_setImageRow h hf
  · exact h

theorem canon_writeFlags {w : FWrite} {f : FlagBits} (h : s.Canon) : (s.writeFlags w f).Canon := by
  unfold State.writeFlags
  split
  · exact canon_modCell h
  · exact h

theorem canon_performWrite {w : FWrite} (h : s.Canon) : (s.performWrite w).Canon := by
  have hout : State.Canon { s with fabric := s.fabric.filter fun x => decide (x.uid ≠ w.uid) } := h
  unfold State.performWrite
  dsimp only
  split
  · exact canon_writeFlags (canon_setCell hout (canonical_putRow (canon_cell hout _)))
  · exact canon_writeFlags (canon_queueDelta (canon_blockWrite hout))
  · exact canon_setImageRow hout fun _ hx => canonical_putRow hx
  · exact hout

end Memory

end Sys2Proof.Machine
end

section
/-! SUPPORT. The canonical form under slots, bundles and the records of the VE and the ME. -/

-- in parallel these many small proofs need more threads than the check allows
set_option Elab.async false

namespace Sys2Proof.Machine

section

variable {s : State}

/-! ## Machine/Ops.lean -/

theorem canonical_setEngine {x : Cell} {e : Eng} {q : EngSeq} (hx : x.canonical = true) : (x.setEngine e q).canonical = true := hx

theorem yields_useBank {row : Nat} (h : s.Canon) : Yields (s.useBank row) State.Canon := by
  simp only [State.useBank]
  split
  next he => exact yields_ok (canon_setCur h ((gives_useBank (canon_cur h)) _ he))
  · exact yields_error _

/-! ## Machine/Translate.lean -/

theorem canon_cacheDesc {asid : BitVec 10} {tid : BitVec 12} (h : s.Canon) : (s.cacheDesc asid tid).Canon := by
  simp only [State.cacheDesc]
  split <;> exact h

theorem canon_dropLeaves {asid : BitVec 10} {tid : BitVec 12} (h : s.Canon) : (s.dropLeaves asid tid).Canon := h

theorem canon_dropDesc {asid : BitVec 10} {tid : BitVec 12} (h : s.Canon) : (s.dropDesc asid tid).Canon := h

theorem canon_cacheLeaf {asid : BitVec 10} {tid : BitVec 12} {tile : Nat} (h : s.Canon) : (s.cacheLeaf asid tid tile).Canon := by
  simp only [State.cacheLeaf]
  split
  · exact h
  · split <;> exact h

theorem canon_lineWrite {a w v : Nat} {tag : Bool} (h : s.Canon) : (s.lineWrite a w v tag).Canon := h

theorem canon_takeLine {die : Fin 2} {a : Nat} (h : s.Canon) : (s.takeLine die a).Canon := by
  simp only [State.takeLine]
  split
  · exact h
  · split
    · split
      · exact (canon_dropLine h :)
      · exact h
    · exact h

/-! ## Machine/Graph.lean -/

theorem canon_makeReady {h' i : Nat} (h : s.Canon) : (s.makeReady h' i).Canon := by
  simp only [State.makeReady]
  split
  · exact h
  · split
    · exact h
    · split <;> exact h

theorem canon_submit {asid : BitVec 10} {tid : BitVec 12} {off : Nat} (h : s.Canon) : (s.submit asid tid off).1.Canon := by
  simp only [State.submit]
  split
  · exact h
  · split
    · exact h
    · split
      · exact h
      · exact canon_foldl (fun _ _ hu => canon_makeReady hu) _ h

theorem stepCanon_execGraphSubmit {asid : BitVec 10} {tid : BitVec 12} {off : Nat} (h : s.Canon) : StepCanon (execGraphSubmit asid tid off s) := by
  simp only [execGraphSubmit]
  refine stepCanon_next ?_
  split
  next he => exact canon_emit (canon_fst (canon_submit h) he)
  next he => exact canon_emit (canon_fst (canon_submit h) he)
  next he => exact canon_emit (canon_fst (canon_submit h) he)

/-! ## Machine/Slots.lean -/

theorem canon_gResult {c : Ctx} {n : Nat} {dst : Fin 32} {v : Word} {tag idz : Bool} (h : s.Canon) : (gResult c n dst v tag idz s).Canon :=
  canon_landAfter h

theorem canon_pResult {c : Ctx} {dst : Fin 32} {v tag : Bool} (h : s.Canon) : (pResult c dst v tag s).Canon := canon_landAfter h

theorem yields_aluAct {k : Alu} {c : Ctx} {sl : Slot} (h : s.Canon) : Yields (aluAct k c sl s) State.Canon :=
  yields_ok (canon_gResult h)

theorem yields_cmpAct {f : Nat → Nat → Nat → Bool} {c : Ctx} {sl : Slot} (h : s.Canon) : Yields (cmpAct f c sl s) State.Canon :=
  yields_ok (canon_pResult h)

theorem yields_predAct {f : Bool → Bool → Bool} {c : Ctx} {sl : Slot} (h : s.Canon) : Yields (predAct f c sl s) State.Canon :=
  yields_ok (canon_pResult h)

/-! ## Machine/Slots.lean -/

theorem yields_actSext {c : Ctx} {sl : Slot} (h : s.Canon) : Yields (actSext c sl s) State.Canon := yields_ok (canon_gResult h)

theorem yields_actBfex {c : Ctx} {sl : Slot} (h : s.Canon) : Yields (actBfex c sl s) State.Canon := yields_ok (canon_gResult h)

theorem yields_actBfin {c : Ctx} {sl : Slot} (h : s.Canon) : Yields (actBfin c sl s) State.Canon := yields_ok (canon_gResult h)

theorem yields_actCrc32 {c : Ctx} {sl : Slot} (h : s.Canon) : Yields (actCrc32 c sl s) State.Canon := yields_ok (canon_gResult h)

theorem yields_actMovi {c : Ctx} {sl : Slot} (h : s.Canon) : Yields (actMovi c sl s) State.Canon := yields_ok (canon_gResult h)

theorem yields_actMovh {c : Ctx} {sl : Slot} (h : s.Canon) : Yields (actMovh c sl s) State.Canon := yields_ok (canon_gResult h)

theorem yields_actMov {c : Ctx} {sl : Slot} (h : s.Canon) : Yields (actMov c sl s) State.Canon := by
  simp only [actMov]
  refine yields_ok ?_
  split <;> exact canon_gResult h

theorem yields_actSel {c : Ctx} {sl : Slot} (h : s.Canon) : Yields (actSel c sl s) State.Canon := yields_ok (canon_gResult h)

theorem yields_actPmov {c : Ctx} {sl : Slot} (h : s.Canon) : Yields (actPmov c sl s) State.Canon := yields_ok (canon_pResult h)

/-! ## Machine/Rows.lean -/

theorem canon_cqLoad {c : Ctx} {row win : Nat} {toB : Option (Fin 4)} (h : s.Canon) : (cqLoad c row win toB s).Canon :=
  canon_fresh (canon_modCur h)

theorem canon_cqStore {c : Ctx} {row win : Nat} {v : Row} {tag : Bool} (h : s.Canon) : (cqStore c row win v tag s).Canon :=
  canon_fresh (canon_modCur h)

theorem yields_cqRow {row : Nat} {write : Bool} (h : s.Canon) : Yields (cqRow row write s) State.Canon := by
  simp only [cqRow]
  split
  · exact yields_error _
  · exact yields_useBank h

theorem yields_qldRow {c : Ctx} {n : Fin 4} {row : Nat} (h : s.Canon) : Yields (qldRow c n row s) State.Canon := by
  simp only [qldRow]
  split
  · exact yields_error _
  next he =>
    split
    · exact yields_error _
    · exact yields_ok (canon_cqLoad (canon_modCur (yields_cqRow h _ he)))

theorem yields_qstRow {c : Ctx} {n : Fin 2} {row : Nat} (h : s.Canon) : Yields (qstRow c n row s) State.Canon := by
  simp only [qstRow]
  split
  · exact yields_error _
  next he =>
    split
    · exact yields_error _
    · exact yields_ok (canon_cqStore (canon_modCur (yields_cqRow h _ he)))

theorem yields_actLdrow {c : Ctx} {sl : Slot} (h : s.Canon) : Yields (actLdrow c sl s) State.Canon := by
  simp only [actLdrow]
  split
  · exact yields_error _
  · split
    · exact yields_error _
    next he' => exact yields_ok (canon_cqLoad (yields_cqRow h _ he'))

theorem yields_actStrow {c : Ctx} {sl : Slot} (h : s.Canon) : Yields (actStrow c sl s) State.Canon := by
  simp only [actStrow]
  split
  · exact yields_error _
  · split
    · exact yields_error _
    next he' =>
      refine yields_ok ?_
      split
      · exact canon_landAfter (canon_cqStore (yields_cqRow h _ he'))
      · exact canon_cqStore (yields_cqRow h _ he')

theorem yields_actExtl {c : Ctx} {sl : Slot} (h : s.Canon) : Yields (actExtl c sl s) State.Canon := by
  simp only [actExtl]
  split
  · exact yields_error _
  · exact yields_ok (canon_gResult h)

theorem yields_actInsl {c : Ctx} {sl : Slot} (h : s.Canon) : Yields (actInsl c sl s) State.Canon := by
  simp only [actInsl]
  split
  · exact yields_error _
  · exact yields_ok (canon_landAfter h)

theorem yields_actQld {c : Ctx} {sl : Slot} (h : s.Canon) : Yields (actQld c sl s) State.Canon := by
  simp only [actQld]
  split
  · exact yields_error _
  · exact yields_qldRow h

theorem yields_actQst {c : Ctx} {sl : Slot} (h : s.Canon) : Yields (actQst c sl s) State.Canon := by
  simp only [actQst]
  split
  · exact yields_error _
  · exact yields_qstRow h

theorem yields_actMark {c : Ctx} {sl : Slot} (h : s.Canon) : Yields (actMark c sl s) State.Canon := yields_ok (canon_modCur h)

theorem yields_bodyQlds {r : Rec} {c : Ctx} (h : s.Canon) : Yields (bodyQlds r c s) State.Canon := by
  simp only [bodyQlds]
  split
  · split
    · exact yields_error _
    · exact yields_qldRow h
  · exact yields_ok h

theorem yields_bodyQsts {r : Rec} {c : Ctx} (h : s.Canon) : Yields (bodyQsts r c s) State.Canon := by
  simp only [bodyQsts]
  split
  · split
    · exact yields_error _
    · exact yields_qstRow h
  · exact yields_ok h

/-! ## Machine/Sync.lean -/

theorem canon_ypPush {c : Ctx} {k : YKind} {cover : List Cov} {scope : Nat} (h : s.Canon) : (ypPush c k cover scope s).Canon :=
  canon_fresh (canon_modCur h)

theorem yields_reserveYq (h : s.Canon) : Yields (reserveYq s) State.Canon := by
  simp only [reserveYq]
  split
  · exact yields_ok (canon_modCur h)
  · exact yields_error _

theorem yields_ypReturn {c : Ctx} {k : YKind} (h : s.Canon) : Yields (ypReturn c k s) State.Canon := by
  simp only [ypReturn]
  split
  · exact yields_error _
  next he => exact yields_ok (canon_ypPush (yields_reserveYq h _ he))

theorem canon_contribute {sl : Slot} {v : BitVec 3} (h : s.Canon) : (contribute sl v s).Canon := h

theorem yields_actDecide {c : Ctx} {sl : Slot} (h : s.Canon) : Yields (actDecide c sl s) State.Canon := by
  simp only [actDecide]
  split
  · exact yields_ok (canon_contribute h)
  · refine yields_ok ?_
    split
    · exact canon_landAfter (canon_contribute h)
    · exact canon_contribute h

/-! ## Machine/Sync.lean -/

theorem canon_idleDecide {c : Ctx} {sl : Slot} (h : s.Canon) : (idleDecide c sl s).Canon := h

theorem yields_actCheck {c : Ctx} {sl : Slot} (h : s.Canon) : Yields (actCheck c sl s) State.Canon := by
  simp only [actCheck]
  split
  · split
    · exact yields_error _
    · split
      · exact yields_error _
      · exact yields_ok h
  · split
    · exact yields_error _
    · split
      · exact yields_error _
      · exact yields_ok h

theorem yields_ringWait {full : Bool} {sl : Slot} (h : s.Canon) : Yields (ringWait full sl s) State.Canon := by
  simp only [ringWait]
  split
  · exact yields_error _
  · split
    · exact yields_error _
    · split
      · split
        · exact yields_ok h
        · exact yields_ok (canon_request h)
      · split
        · exact yields_ok h
        · exact yields_ok (canon_request h)

theorem yields_actRadvt {c : Ctx} {sl : Slot} (h : s.Canon) : Yields (actRadvt c sl s) State.Canon := by
  simp only [actRadvt]
  split
  · exact yields_error _
  · exact yields_ok (canon_ypPush h)

theorem yields_actRadvh {c : Ctx} {sl : Slot} (h : s.Canon) : Yields (actRadvh c sl s) State.Canon := by
  simp only [actRadvh]
  split
  · exact yields_error _
  · exact yields_ok (canon_ypPush h)

theorem yields_actRclm {c : Ctx} {sl : Slot} (h : s.Canon) : Yields (actRclm c sl s) State.Canon := by
  simp only [actRclm]
  split
  · exact yields_error _
  · exact yields_ypReturn h

theorem yields_actRstat {c : Ctx} {sl : Slot} (h : s.Canon) : Yields (actRstat c sl s) State.Canon := by
  simp only [actRstat]
  split
  · exact yields_error _
  · exact yields_ypReturn h

theorem yields_actSacq {c : Ctx} {sl : Slot} (h : s.Canon) : Yields (actSacq c sl s) State.Canon := by
  simp only [actSacq]
  split
  · exact yields_error _
  · split
    · exact yields_ok h
    · exact yields_ok (canon_request h)

theorem yields_actSrel {c : Ctx} {sl : Slot} (h : s.Canon) : Yields (actSrel c sl s) State.Canon := by
  simp only [actSrel]
  split
  · exact yields_error _
  · exact yields_ok (canon_ypPush h)

theorem yields_actAarm {c : Ctx} {sl : Slot} (h : s.Canon) : Yields (actAarm c sl s) State.Canon := by
  simp only [actAarm]
  split
  · exact yields_error _
  · split
    · exact yields_error _
    · split
      · exact yields_error _
      · exact yields_ok (canon_ypPush h)

theorem yields_actAwait {c : Ctx} {sl : Slot} (h : s.Canon) : Yields (actAwait c sl s) State.Canon := by
  simp only [actAwait]
  split
  · exact yields_error _
  · split
    · exact yields_error _
    · split
      · exact yields_ok h
      · exact yields_ok (canon_request h)

theorem canon_putPhaser {p : Phaser} (h : s.Canon) : (s.putPhaser p).Canon := h

theorem yields_actPhdrg {c : Ctx} {sl : Slot} (h : s.Canon) : Yields (actPhdrg c sl s) State.Canon := yields_ok (canon_ypPush h)

theorem canon_phArrive {c : Ctx} {sl : Slot} (h : s.Canon) : (phArrive c sl s).Canon := canon_ypPush h

theorem yields_actPharv {c : Ctx} {sl : Slot} (h : s.Canon) : Yields (actPharv c sl s) State.Canon := yields_ok (canon_phArrive h)

theorem yields_actPhwait {c : Ctx} {sl : Slot} (h : s.Canon) : Yields (actPhwait c sl s) State.Canon := by
  simp only [actPhwait]
  split
  · exact yields_error _
  · split
    · exact yields_error _
    · split
      · exact yields_ok h
      · exact yields_ok (canon_request h)

theorem yields_actPhaw {c : Ctx} {sl : Slot} (h : s.Canon) : Yields (actPhaw c sl s) State.Canon :=
  yields_ok (canon_request (canon_phArrive h))

theorem yields_atomAct {op : AtOp} {c : Ctx} {sl : Slot} (h : s.Canon) : Yields (atomAct op c sl s) State.Canon := by
  simp only [atomAct]
  split
  · exact yields_error _
  · split
    · exact yields_error _
    next he' =>
      refine yields_ok ?_
      split
      · refine canon_landAfter ?_
        split
        · exact yields_ypReturn h _ he'
        · exact canon_request (yields_ypReturn h _ he')
      · split
        · exact yields_ypReturn h _ he'
        · exact canon_request (yields_ypReturn h _ he')

theorem yields_actYpop {c : Ctx} {sl : Slot} (h : s.Canon) : Yields (actYpop c sl s) State.Canon := by
  simp only [actYpop]
  split
  · exact yields_error _
  · split
    · exact yields_ok (canon_landAfter (canon_modCur h))
    · exact yields_ok (canon_land (canon_request (canon_modCur h)))

theorem canon_claimPart {c : Ctx} {sl : Slot} {act : Bool} (h : s.Canon) : (claimPart c sl act s).Canon := canon_ypPush h

theorem yields_actYclm {c : Ctx} {sl : Slot} (h : s.Canon) : Yields (actYclm c sl s) State.Canon := by
  simp only [actYclm]
  split
  · exact yields_error _
  · split
    · exact yields_error _
    · split
      · exact yields_error _
      next he'' => exact yields_ok (canon_claimPart (yields_reserveYq h _ he''))

theorem canon_idleYclm {c : Ctx} {sl : Slot} (h : s.Canon) : (idleYclm c sl s).Canon := canon_claimPart h

theorem yields_actRdtime {c : Ctx} {sl : Slot} (h : s.Canon) : Yields (actRdtime c sl s) State.Canon := yields_ok (canon_gResult h)

theorem yields_actWaitt {c : Ctx} {sl : Slot} (h : s.Canon) : Yields (actWaitt c sl s) State.Canon := by
  simp only [actWaitt]
  split
  · exact yields_error _
  · exact yields_ok (canon_request h)

theorem yields_actSetdiv {c : Ctx} {sl : Slot} (h : s.Canon) : Yields (actSetdiv c sl s) State.Canon := by
  simp only [actSetdiv]
  split
  · exact yields_error _
  · exact yields_ok (canon_modCur h)

theorem yields_actRdtick {c : Ctx} {sl : Slot} (h : s.Canon) : Yields (actRdtick c sl s) State.Canon := yields_ok (canon_gResult h)

theorem yields_actSysr {c : Ctx} {sl : Slot} (h : s.Canon) : Yields (actSysr c sl s) State.Canon := by
  simp only [actSysr]
  refine yields_ok ?_
  split
  · exact canon_modCur (canon_gResult h)
  · exact canon_gResult h

theorem yields_actSysw {c : Ctx} {sl : Slot} (h : s.Canon) : Yields (actSysw c sl s) State.Canon := yields_ok (canon_landAfter h)

theorem yields_actTdrd {c : Ctx} {sl : Slot} (h : s.Canon) : Yields (actTdrd c sl s) State.Canon := by
  simp only [actTdrd]
  split
  · exact yields_error _
  · exact yields_ypReturn h

theorem yields_actTdwr {c : Ctx} {sl : Slot} (h : s.Canon) : Yields (actTdwr c sl s) State.Canon := by
  simp only [actTdwr]
  split
  · exact yields_error _
  · refine yields_ok ?_
    split
    · exact canon_landAfter (canon_ypPush h)
    · exact canon_ypPush h

/-! ## Machine/Fabric.lean -/

theorem canon_noteSeen {c : CellId} {p : Path} {reader : Nat} {x4 : Loc} (h : s.Canon) : (s.noteSeen c p reader x4).Canon := by
  simp only [State.noteSeen]
  split
  · split
    · exact h
    · exact canon_modCell h
  · exact h

theorem canon_drainWrite {c : CellId} {p : Path} {cmd : Nat} {by_ : Option Nat} {l : Loc} {op : WOp} {v : Row} {bytes : BitVec 256} {tag : Bool}
    (h : s.Canon) : (s.drainWrite c p cmd by_ l op v bytes tag).Canon := h

theorem canon_drainTimed {c : CellId} {p : Path} {uid : Nat} {by_ : Option Nat} {row : Nat} {v : Row} {tag : Bool} (h : s.Canon) :
    (s.drainTimed c p uid by_ row v tag).Canon := h

theorem canon_setFabric {l : List FWrite} (h : s.Canon) : State.Canon { s with fabric := l } := h

theorem canon_forceCovered {cover : List Cov} {scope : Nat} (h : s.Canon) : (forceCovered cover scope s).Canon :=
  canon_setFabric (canon_modCur h)

theorem yields_actFence {c : Ctx} {sl : Slot} (h : s.Canon) : Yields (actFence c sl s) State.Canon := by
  have hforced {p : Prop} [Decidable p] {v : List Cov} {n : Nat} : (if p then forceCovered v n s else s).Canon := by
    split
    · exact canon_forceCovered h
    · exact h
  simp only [actFence]
  split
  · exact yields_ok (canon_fresh (canon_modCur hforced))
  · exact yields_ok hforced

/-- A change of every cell keeps the form. -/
theorem canon_mapCells {f : Cell → Cell} (h : s.Canon) (hf : ∀ x, x.canonical = true → (f x).canonical = true) :
    State.Canon { s with cells := s.cells.map f } := by
  refine canon_setCells h fun c => ?_
  have hget : (s.cells.map f)[c] = f (s.cell c) := Vector.getElem_map f c.isLt
  rw [hget]
  exact hf _ (canon_cell h c)

theorem yields_actIcinv {c : Ctx} {sl : Slot} (h : s.Canon) : Yields (actIcinv c sl s) State.Canon := by
  refine yields_ok (canon_mapCells h fun x hx => ?_)
  split <;> exact hx

end

/-! ## Slots and bundles (R202, R215) -/

/-- A slot that does nothing under a false predicate. -/
theorem SlotSem.Keeps.ofAct {m : SlotSem} (ha : ∀ c sl s, s.Canon → Yields (m.act c sl s) State.Canon)
    (hi : ∀ c sl s, m.idle c sl s = s := by exact fun _ _ _ => rfl) : m.Keeps :=
  ⟨ha, fun c sl s h => (hi c sl s).symm ▸ h⟩

theorem keeps_slotSems0 : ∀ m ∈ slotSems0, m.Keeps := by
  simp only [slotSems0, List.forall_mem_cons]
  exact
    ⟨.ofAct fun _ _ _ => yields_ok, .ofAct fun _ _ _ => yields_aluAct, .ofAct fun _ _ _ => yields_aluAct,
    .ofAct fun _ _ _ => yields_aluAct, .ofAct fun _ _ _ => yields_aluAct, .ofAct fun _ _ _ => yields_aluAct,
    .ofAct fun _ _ _ => yields_aluAct, .ofAct fun _ _ _ => yields_aluAct, .ofAct fun _ _ _ => yields_aluAct,
    .ofAct fun _ _ _ => yields_aluAct, .ofAct fun _ _ _ => yields_aluAct, .ofAct fun _ _ _ => yields_aluAct,
    .ofAct fun _ _ _ => yields_aluAct, .ofAct fun _ _ _ => yields_aluAct, .ofAct fun _ _ _ => yields_aluAct,
    .ofAct fun _ _ _ => yields_aluAct, List.forall_mem_nil _⟩

theorem keeps_slotSems1 : ∀ m ∈ slotSems1, m.Keeps := by
  simp only [slotSems1, List.forall_mem_cons]
  exact
    ⟨.ofAct fun _ _ _ => yields_aluAct, .ofAct fun _ _ _ => yields_aluAct, .ofAct fun _ _ _ => yields_aluAct,
    .ofAct fun _ _ _ => yields_aluAct, .ofAct fun _ _ _ => yields_aluAct, .ofAct fun _ _ _ => yields_aluAct,
    .ofAct fun _ _ _ => yields_aluAct, .ofAct fun _ _ _ => yields_aluAct, .ofAct fun _ _ _ => yields_aluAct,
    .ofAct fun _ _ _ => yields_aluAct, .ofAct fun _ _ _ => yields_aluAct, .ofAct fun _ _ _ => yields_actSext,
    .ofAct fun _ _ _ => yields_actBfex, .ofAct fun _ _ _ => yields_actBfin, .ofAct fun _ _ _ => yields_actCrc32,
    .ofAct fun _ _ _ => yields_actMovi, List.forall_mem_nil _⟩

theorem keeps_slotSems2 : ∀ m ∈ slotSems2, m.Keeps := by
  simp only [slotSems2, List.forall_mem_cons]
  exact
    ⟨.ofAct fun _ _ _ => yields_actMovh, .ofAct fun _ _ _ => yields_actMov, .ofAct fun _ _ _ => yields_actSel,
    .ofAct fun _ _ _ => yields_cmpAct, .ofAct fun _ _ _ => yields_cmpAct, .ofAct fun _ _ _ => yields_cmpAct,
    .ofAct fun _ _ _ => yields_cmpAct, .ofAct fun _ _ _ => yields_cmpAct, .ofAct fun _ _ _ => yields_cmpAct,
    .ofAct fun _ _ _ => yields_cmpAct, .ofAct fun _ _ _ => yields_predAct, .ofAct fun _ _ _ => yields_predAct,
    .ofAct fun _ _ _ => yields_predAct, .ofAct fun _ _ _ => yields_predAct (f := fun a _ => !a), .ofAct fun _ _ _ => yields_actPmov,
    .ofAct fun _ _ _ => yields_actLdrow, List.forall_mem_nil _⟩

theorem keeps_slotSems3 : ∀ m ∈ slotSems3, m.Keeps := by
  simp only [slotSems3, List.forall_mem_cons]
  exact
    ⟨.ofAct fun _ _ _ => yields_actStrow, .ofAct fun _ _ _ => yields_actExtl, .ofAct fun _ _ _ => yields_actInsl,
    .ofAct fun _ _ _ => yields_actQld, .ofAct fun _ _ _ => yields_actQst,
    ⟨fun _ _ _ => yields_actDecide, fun c _ _ => canon_idleDecide (c := c)⟩,
    .ofAct fun c sl _ => yields_actCheck (c := c) (sl := sl), .ofAct fun _ _ _ _ => yields_error _,
    .ofAct fun _ _ _ => yields_ringWait, .ofAct fun _ _ _ => yields_ringWait, .ofAct fun _ _ _ => yields_actRadvt,
    .ofAct fun _ _ _ => yields_actRadvh, .ofAct fun _ _ _ => yields_actRclm, .ofAct fun _ _ _ => yields_actRstat,
    .ofAct fun c sl _ => yields_actSacq (c := c) (sl := sl), .ofAct fun _ _ _ => yields_actSrel, List.forall_mem_nil _⟩

theorem keeps_slotSems4 : ∀ m ∈ slotSems4, m.Keeps := by
  simp only [slotSems4, List.forall_mem_cons]
  exact
    ⟨.ofAct fun _ _ _ => yields_actAarm, .ofAct fun c sl _ => yields_actAwait (c := c) (sl := sl),
    .ofAct fun _ _ _ => yields_ypReturn, .ofAct fun _ _ _ => yields_actPhdrg, .ofAct fun _ _ _ => yields_actPharv,
    .ofAct fun c sl _ => yields_actPhwait (c := c) (sl := sl), .ofAct fun _ _ _ => yields_actPhaw,
    .ofAct fun _ _ _ => yields_atomAct, .ofAct fun _ _ _ => yields_atomAct, .ofAct fun _ _ _ => yields_atomAct,
    .ofAct fun _ _ _ => yields_atomAct, .ofAct fun _ _ _ => yields_atomAct, .ofAct fun _ _ _ => yields_atomAct,
    .ofAct fun _ _ _ => yields_atomAct, .ofAct fun _ _ _ => yields_atomAct, .ofAct fun _ _ _ => yields_atomAct, List.forall_mem_nil _⟩

theorem keeps_slotSems5 : ∀ m ∈ slotSems5, m.Keeps := by
  simp only [slotSems5, List.forall_mem_cons]
  exact
    ⟨.ofAct fun _ _ _ => yields_atomAct, .ofAct fun _ _ _ => yields_atomAct, .ofAct fun _ _ _ => yields_actYpop,
    ⟨fun _ _ _ => yields_actYclm, fun c _ _ => canon_idleYclm (c := c)⟩, .ofAct fun c sl _ => yields_actFence (c := c) (sl := sl),
    .ofAct fun c sl _ => yields_actMark (c := c) (sl := sl), .ofAct fun _ _ _ => yields_actRdtime,
    .ofAct fun c sl _ => yields_actWaitt (c := c) (sl := sl), .ofAct fun c sl _ => yields_actSetdiv (c := c) (sl := sl),
    .ofAct fun _ _ _ => yields_actRdtick, .ofAct fun _ _ _ => yields_actSysr, .ofAct fun _ _ _ => yields_actSysw,
    .ofAct fun c sl _ => yields_actIcinv (c := c) (sl := sl), .ofAct fun _ _ _ => yields_actTdrd,
    .ofAct fun _ _ _ => yields_actTdwr, List.forall_mem_nil _⟩

theorem keeps_slotSems : ∀ m ∈ slotSems, m.Keeps := by
  simp only [slotSems, List.forall_mem_append]
  exact ⟨⟨⟨⟨⟨keeps_slotSems0, keeps_slotSems1⟩, keeps_slotSems2⟩, keeps_slotSems3⟩, keeps_slotSems4⟩, keeps_slotSems5⟩

theorem keeps_slotSem {op8 : Nat} {m : SlotSem} (h : slotSems[op8]? = some m) : m.Keeps := keeps_slotSems m (List.mem_of_getElem? h)

section

variable {s : State}

/-! ## Machine/Fabric.lean -/

theorem stepCanon_execDrain {c : CellId} (h : s.Canon) : StepCanon (execDrain c s) := by
  simp only [execDrain]
  refine stepCanon_next ?_
  split
  · exact h
  · split
    · split
      · exact canon_fault (canon_setCell h (canon_cell h _))
      · exact canon_drainTimed (canon_setCell h (canon_cell h _))
    · exact h

theorem canon_cqPerform {c : CellId} (h : s.Canon) : (cqPerform c s).Canon := by
  simp only [cqPerform]
  split
  · exact h
  · split
    · split <;> exact canon_setCell h (canon_cell h _)
    · exact h

theorem canon_startCollapse {frame writer : Nat} (h : s.Canon) : (s.startCollapse frame writer).Canon := by
  simp only [State.startCollapse]
  split
  · exact h
  · split
    · exact h
    · exact canon_foldl (fun _ _ hu => canon_emit hu) _ h

theorem canon_joinCollapse {frame writer : Nat} (h : s.Canon) : (s.joinCollapse frame writer).Canon := by
  simp only [State.joinCollapse]
  split
  · exact h
  · exact canon_startCollapse h

theorem canonical_seFlags {x : Cell} {f : FlagBits} (hx : x.canonical = true) : (x.seFlags f).canonical = true := hx

theorem canon_addDelta {w : FWrite} {blk : Nat} (h : s.Canon) : (s.addDelta w blk).Canon := canon_queueDelta h

theorem canon_tryWrite {w : FWrite} (h : s.Canon) : (s.tryWrite w).Canon := by
  simp only [State.tryWrite]
  split
  · split
    · split
      · exact h
      · exact canon_joinCollapse h
    · exact canon_performWrite h
  · split
    · exact h
    · exact canon_performWrite h
  · exact canon_performWrite h

theorem stepCanon_execPerformAWrite {uid : Nat} (h : s.Canon) : StepCanon (execPerformAWrite uid s) := by
  simp only [execPerformAWrite]
  refine stepCanon_next ?_
  split
  · exact h
  · split
    · exact canon_tryWrite h
    · exact h

theorem canon_applyDelta {d : Delta} (h : s.Canon) : (s.applyDelta d).Canon := by
  simp only [State.applyDelta]
  split
  · split <;> exact h
  · exact h

theorem stepCanon_execParityDeltaApply {parityChunk : Nat} (h : s.Canon) : StepCanon (execParityDeltaApply parityChunk s) := by
  simp only [execParityDeltaApply]
  refine stepCanon_next ?_
  split
  · exact h
  · split
    · exact h
    · exact canon_applyDelta h

theorem stepCanon_execRelease {uid : Nat} (h : s.Canon) : StepCanon (execRelease uid s) := by
  simp only [execRelease]
  refine stepCanon_next ?_
  split
  · exact h
  · split
    · exact h
    · split
      · exact h
      · exact canon_setCell h (canon_cell h _)

/-! ## Machine/SyncPerform.lean -/

theorem canon_dropYp {c : CellId} {uid : Nat} (h : s.Canon) : (s.dropYp c uid).Canon := canon_modCell h

theorem canon_yqReturn {c : CellId} {uid : Nat} {v : Word} {st tag : Bool} {claim : Option (Fin 4 × Row)} (h : s.Canon) :
    (s.yqReturn c uid v st tag claim).Canon :=
  canon_modCell h

theorem canon_ypFault {c : CellId} {op : YOp} {f : Flt} (h : s.Canon) : (s.ypFault c op f).Canon := h

theorem yields_farTail {c : CellId} {t : Option TaskRef} {loc m : Nat} (h : s.Canon) : Yields (farTail c t loc m s) State.Canon := by
  simp only [farTail]
  split
  · exact yields_error _
  · split
    · exact yields_error _
    · split
      · exact yields_error _
      · split
        · exact yields_error _
        · split
          · exact yields_error _
          · split
            · exact yields_error _
            · exact yields_ok (canon_modHolder h (fun _ hx => canonical_putCounts hx))

theorem yields_ringUpdate {c : CellId} {op : YOp} {loc : Nat} {f : Rcb → Option Rcb} (h : s.Canon) :
    Yields (ringUpdate c op loc f s) State.Canon := by
  simp only [ringUpdate]
  split
  · exact yields_error _
  · split
    · exact yields_error _
    · split
      · exact yields_error _
      · split
        · exact yields_error _
        · exact yields_ok (canon_yqReturn (canon_modCell h (fun _ hx => canonical_putCounts hx)))

theorem canon_putCounter {asid : BitVec 10} {n : Nat} {v : Word} {tag : Bool} (h : s.Canon) : (s.putCounter asid n v tag).Canon := h

theorem canon_syncRead {die : Fin 2} {v : SyncVar} {w : Nat} (h : s.Canon) : (s.syncRead die v w).1.Canon := by
  simp only [State.syncRead]
  split
  · exact h
  · exact canon_takeLine h

theorem canon_syncWrite {v : SyncVar} {w x : Nat} {tag : Bool} (h : s.Canon) : (s.syncWrite v w x tag).Canon := by
  simp only [State.syncWrite]
  split
  · exact canon_putCounter h
  · exact canon_lineWrite h

theorem canon_seReturn {c : CellId} {uid : Nat} {v : Word} {tag : Bool} (h : s.Canon) : (s.seReturn c uid v tag).Canon :=
  canon_modCell h

theorem stepCanon_execMovedReissue {c : CellId} {uid : Nat} (h : s.Canon) : StepCanon (execMovedReissue c uid s) := by
  simp only [execMovedReissue]
  refine stepCanon_next ?_
  split
  · exact h
  · split
    · split
      · exact canon_ypFault h
      · exact canon_modCell h
    · exact h

theorem stepCanon_execPhaserPerform {c : CellId} {uid : Nat} (h : s.Canon) : StepCanon (execPhaserPerform c uid s) := by
  simp only [execPhaserPerform]
  refine stepCanon_next ?_
  split
  · exact h
  · split
    · exact h
    · split
      · split
        · exact canon_ypFault (canon_dropYp h)
        · exact canon_yqReturn (canon_putPhaser (canon_dropYp h))
      · split
        · exact canon_ypFault (canon_dropYp h)
        · split
          · exact canon_putPhaser (canon_dropYp h)
          · exact canon_dropYp h
      · split
        · exact canon_ypFault (canon_dropYp h)
        · split
          · exact canon_modGang (canon_putPhaser (canon_dropYp h))
          · exact canon_ypFault (canon_dropYp h)
      · exact h

theorem yields_claimLane {g : Gang} {parts : List (CellId × YOp)} {table : Row} {k : Nat} (h : s.Canon) :
    Yields (claimLane g parts table k s) fun p => p.1.Canon := by
  simp only [claimLane]
  split
  · exact yields_error _
  · split
    · exact yields_error _
    · split
      · exact yields_error _
      · split
        · exact yields_error _
        · split
          · exact yields_error _
          · split
            · exact yields_error _
            · exact yields_ok (canon_modCell h (fun _ hx => canonical_putCounts hx))

theorem stepCanon_execYqReturnArrival {c : CellId} (h : s.Canon) : StepCanon (execYqReturnArrival c s) := by
  simp only [execYqReturnArrival]
  refine stepCanon_next (canon_modCell h (fun x hx => ?_))
  split <;> exact hx

theorem stepCanon_execLineWriteback {die : Fin 2} {line : Nat} (h : s.Canon) : StepCanon (execLineWriteback die line s) := by
  simp only [execLineWriteback]
  refine stepCanon_next ?_
  split
  · split
    · exact canon_dropLine h
    · exact h
  · exact h

/-! ## Machine/Log.lean -/

theorem canon_halt (h : s.Canon) : s.halt.Canon := h

theorem canon_sendRecord {seq : Nat} {b : RecordBits} (h : s.Canon) : (s.sendRecord seq b).Canon := by
  simp only [State.sendRecord]
  refine canon_foldl (fun u a hu => ?_) _ h
  split
  · exact canon_emit hu
  · exact hu

theorem canon_enterLog {r : ErrRec} (h : s.Canon) : (s.enterLog r).Canon := by
  simp only [State.enterLog]
  split
  · exact canon_sendRecord (canon_emit h)
  · exact canon_emit h

theorem canon_stageRecord {r : ErrRec} (h : s.Canon) : (s.stageRecord r).Canon := by
  simp only [State.stageRecord]
  split
  · split
    · exact canon_sendRecord h
    · exact h
  · exact canon_halt (canon_sendRecord h)

theorem gives_rmwEffect {c : CellId} {op : YOp} (h : s.Canon) : Gives (rmwEffect c op s) fun r => Yields r State.Canon := by
  have hseen {a : Option Nat} : (match a with
      | some a => s.noteSeen c .yp op.uid (.hbm (a / 256))
      | none => s).Canon := by
    split
    · exact canon_noteSeen h
    · exact h
  simp only [rmwEffect]
  split
  · exact gives_some (yields_ringUpdate h)
  · exact gives_some (yields_ringUpdate h)
  · exact gives_some (yields_ringUpdate h)
  · refine gives_some ?_
    split
    · exact yields_error _
    · exact yields_ok (canon_yqReturn h)
  · refine gives_some ?_
    split
    · exact yields_error _
    · split
      · exact yields_error _
      · exact yields_ok (canon_setCell h (canonical_putQuarter (canon_cell h c)))
  · refine gives_some ?_
    split
    · exact yields_error _
    · exact yields_ok (canon_setCell h (canonical_putArrival (canon_cell h c)))
  · exact gives_some (yields_farTail h)
  · refine gives_some ?_
    split
    · exact yields_error _
    · exact yields_ok (canon_setCell h (canonical_putArrival (canon_cell h c)))
  · exact gives_some (yields_ok (canon_yqReturn hseen))
  · refine gives_some ?_
    split
    · exact yields_error _
    · exact yields_ok (canon_drainWrite h)
  · exact gives_none

theorem stepCanon_execPerformARmw {c : CellId} {uid : Nat} (h : s.Canon) : StepCanon (execPerformARmw c uid s) := by
  simp only [execPerformARmw]
  refine stepCanon_next ?_
  split
  · exact h
  · split
    · split
      · exact h
      next he => exact canon_dropYp (gives_rmwEffect h _ he _ rfl)
      · exact canon_ypFault (canon_dropYp h)
    · exact h

theorem canon_atomPerform {die : Fin 2} {op : AtOp} {v : SyncVar} {w32 sgn : Bool} {val x : Word} {tag : Bool} (h : s.Canon) :
    (s.atomPerform die op v w32 sgn val x tag).1.Canon := by
  have hread (w : Nat) : (s.syncRead die v w).1.Canon := canon_syncRead h
  unfold State.atomPerform
  dsimp only
  generalize (if w32 = true then 32 else 64) = w
  split
  · split
    · exact canon_syncWrite (hread w)
    · split
      · split
        · exact canon_syncWrite (hread w)
        · exact hread w
      · split
        · exact canon_syncWrite (hread w)
        · exact hread w
  · split <;> exact canon_syncWrite (hread w)

theorem stepCanon_execAtomicPerform {c : CellId} {uid : Nat} (h : s.Canon) : StepCanon (execAtomicPerform c uid s) := by
  have hdone {u : State} {die : Fin 2} {o : AtOp} {v : SyncVar} {w32 sgn tag a b d : Bool} {val x y z : Word} (hu : u.Canon) :
      ((((u.atomPerform die o v w32 sgn val x tag).1.yqReturn c uid y a b).seReturn c uid z d).dropYp c uid).Canon :=
    canon_dropYp (canon_seReturn (canon_yqReturn (canon_atomPerform hu)))
  simp only [execAtomicPerform]
  refine stepCanon_next ?_
  split
  · exact h
  · split
    · exact h
    · split
      · split
        · exact hdone h
        · split
          · exact hdone (canon_noteSeen h)
          · split
            · exact h
            · split
              · exact (canon_dropYp h :)
              · split
                · exact canon_joinCollapse h
                · exact hdone (canon_noteSeen h)
      · exact h

theorem yields_claimLanes {g : Gang} {parts : List (CellId × YOp)} {table : Row} {n k : Nat} (h : s.Canon) :
    Yields (claimLanes g parts table n k s) fun p => p.1.Canon := by
  induction n generalizing k s with
  | zero => exact yields_ok h
  | succ n ih =>
    simp only [claimLanes]
    split
    · exact yields_error _
    next he => exact (ih (yields_claimLane h _ he)).map fun _ hp => hp

theorem stepCanon_execYarrowRound {g : GangId} {tick : Nat} (h : s.Canon) : StepCanon (execYarrowRound g tick s) := by
  have hdrop {l : List (CellId × YOp)} {u : State} (hu : u.Canon) : (l.foldl (fun u p => u.dropYp p.1 p.2.uid) u).Canon :=
    canon_foldl (fun _ _ hu => canon_dropYp hu) l hu
  simp only [execYarrowRound]
  refine stepCanon_next ?_
  split
  · exact h
  · exact h
  · split
    · split
      · exact canon_foldl (fun _ _ hu => canon_ypFault hu) _ (hdrop h)
      next he =>
        refine canon_foldl (fun u p hu => ?_) _ (hdrop (yields_claimLanes h _ he))
        split
        · exact canon_yqReturn hu
        · exact hu
    · exact h

/-! ## Machine/Log.lean -/

theorem canon_writeRecord {r : ErrRec} (h : s.Canon) : (s.writeRecord r).Canon := by
  simp only [State.writeRecord]
  split
  · refine canon_halt ?_
    split
    · exact h
    · split
      · exact canon_stageRecord h
      · exact canon_enterLog h
  · split
    · exact h
    · split
      · exact canon_stageRecord h
      · exact canon_enterLog h

theorem canon_sample {src : Nat} {c : CellId} {asid : BitVec 10} {v : Nat} (h : s.Canon) : (s.sample src c asid v).Canon := h

/-! ## Machine/Control.lean -/

theorem canonical_enterSegment {x : Cell} {seg : Option (Nat × Nat) × Option (BitVec 16)} {off t : Nat} (hx : x.canonical = true) :
    (x.enterSegment seg off t).canonical = true := hx

theorem canon_segeFault {f : Flt} {off : Nat} (h : s.Canon) : (segeFault f off s).Canon := canon_modCur (canon_fault h)

theorem canon_sampleSege {r : SegeRec} (h : s.Canon) : (s.sampleSege r).Canon := by
  simp only [State.sampleSege]
  refine canon_sample ?_
  split
  · exact h
  · exact canon_sample h

theorem canon_segeEffect {r : SegeRec} {off : Nat} (h : s.Canon) : (segeEffect r off s).Canon := by
  simp only [segeEffect]
  split
  · split
    · exact canon_segeFault h
    · refine canon_modGang (canon_modCur ?_)
      split
      · exact canon_fault h
      · exact h
  · split
    · exact canon_segeFault h
    · refine canon_modGang ?_
      refine canon_modCur ?_ fun _ hx => canonical_enterSegment hx
      split
      · exact canon_fault h
      · exact h

theorem stepCanon_execSege {r : SegeRec} (h : s.Canon) : StepCanon (execSege r s) := by
  simp only [execSege]
  refine stepCanon_next ?_
  split
  · exact canon_onEngine h
  · split
    · exact canon_segeFault (canon_skipRecord (canon_onEngine h))
    · split
      · exact canon_segeFault (canon_skipRecord (canon_onEngine h))
      · exact canon_segeEffect (canon_sampleSege (canon_onEngine h))

theorem yields_bodyFork {r : ForkRec} {c : Ctx} (h : s.Canon) : Yields (bodyFork r c s) State.Canon := by
  simp only [bodyFork]
  split
  · exact yields_error _
  · refine yields_ok (canon_modCur h (fun x hx => ?_))
    refine canonical_foldl (fun y a hx' => ?_) _ hx
    split
    · exact canonical_setEngine hx'
    · exact hx'

theorem stepCanon_execFork {r : ForkRec} (h : s.Canon) : StepCanon (execFork r s) :=
  stepCanon_next (canon_issue (canon_onEngine h) (fun _ _ hu => yields_bodyFork hu))

theorem yields_bodyRdv {r : RdvRec} {c : Ctx} (h : s.Canon) : Yields (bodyRdv r c s) State.Canon := by
  simp only [bodyRdv]
  split
  · exact yields_error _
  · exact yields_ok (canon_modCur h (fun _ hx => canonical_foldl (fun _ _ hx' => canonical_setEngine hx') _ hx))

theorem stepCanon_execRdv {r : RdvRec} (h : s.Canon) : StepCanon (execRdv r s) :=
  stepCanon_next (canon_issue (canon_onEngine h) (fun _ _ hu => yields_bodyRdv hu))

theorem canon_stopEngine {c : CellId} {e : Eng} (h : s.Canon) : (stopEngine c e s).Canon := by
  simp only [stopEngine]
  split
  · exact h
  · split
    · split
      · exact canon_modCell h fun _ hx => canonical_setEngine hx
      · exact canon_request (canon_modCell h (fun _ hx => canonical_setEngine hx))
    · exact canon_foldl (fun _ _ hu => canon_fault hu) _ (canon_modCell h (fun _ hx => canonical_setEngine hx))

theorem canon_endTick {c : CellId} (h : s.Canon) : (endTick c s).Canon := by
  simp only [endTick]
  exact canon_modCell (canon_foldl (fun _ _ hu => canon_stopEngine hu) _ h)

theorem canon_brkRequest {r : BrkRec} (h : s.Canon) : (brkRequest r s).Canon := canon_modGang (canon_modCur h)

theorem stepCanon_execBrk {r : BrkRec} (h : s.Canon) : StepCanon (execBrk r s) := by
  simp only [execBrk]
  refine stepCanon_next ?_
  split
  · exact canon_brkRequest h
  · split
    · exact h
    · split
      · exact canon_fault (canon_skipRecord h)
      · split
        · exact canon_fault (canon_skipRecord h)
        · split
          · exact h
          · exact canon_rejectRecord h

theorem stepCanon_execNopr {stamp : BitVec 24} (h : s.Canon) : StepCanon (execNopr stamp s) :=
  stepCanon_next (canon_issue (canon_onEngine h) (fun _ _ hu => yields_ok hu))

theorem yields_bodyPhas {r : PhasRec} {c : Ctx} (h : s.Canon) : Yields (bodyPhas r c s) State.Canon := yields_ok (canon_land h)

theorem stepCanon_execPhas {r : PhasRec} (h : s.Canon) : StepCanon (execPhas r s) :=
  stepCanon_next (canon_issue (canon_onEngine h) (fun _ _ hu => yields_bodyPhas hu))

/-! ## Machine/Operands.lean -/

theorem canon_popQueue {w : Nat} (h : s.Canon) : (popQueue w s).Canon := by
  simp only [popQueue]
  refine canon_modCur h fun x hx => ?_
  split <;> exact hx

theorem canon_popHeads {r : Rec} (h : s.Canon) : (popHeads r s).Canon := canon_foldl (fun _ _ hu => canon_popQueue hu) _ h

theorem yields_vArgs {r : Rec} {c : Ctx} (h : s.Canon) : Yields (vArgs r c s) fun p => p.2.Canon := by
  simp only [vArgs]
  split
  · exact yields_error _
  · exact yields_error _
  · exact yields_ok (canon_popHeads h)

theorem yields_vPut {r : Rec} {c : Ctx} {lat : Nat} {act : BitVec 64} {v : VRes} (h : s.Canon) : Yields (vPut r c lat act v s) State.Canon := by
  simp only [vPut]
  split
  · exact yields_ok (canon_landAfter h)
  · split
    · exact yields_error _
    · exact yields_ok (canon_landAfter (canon_modCur h))
  · exact yields_ok h

theorem canon_kPut {r : Rec} {c : Ctx} {lat : Nat} {v : BitVec 64} {fl : FlagBits} (h : s.Canon) : (kPut r c lat v fl s).Canon := by
  simp only [kPut]
  split
  · exact canon_landAfter h
  · exact h

theorem yields_vApply {lat : Nat} {f : VArgs → VRes} {r : Rec} {c : Ctx} (h : s.Canon) : Yields (vApply lat f r c s) State.Canon := by
  simp only [vApply]
  split
  · exact yields_error _
  next he => exact yields_vPut (yields_vArgs h _ he)

theorem yields_fp1 {lat : Nat} {f : FMode → Lane → Lane × FlagBits} {r : Rec} {c : Ctx} (h : s.Canon) : Yields (fp1 lat f r c s) State.Canon :=
  yields_vApply h

theorem yields_fp2 {lat : Nat} {f : FMode → Lane → Lane → Lane × FlagBits} {r : Rec} {c : Ctx} (h : s.Canon) : Yields (fp2 lat f r c s) State.Canon :=
  yields_vApply h

theorem yields_fp3 {lat : Nat} {f : FMode → Lane → Lane → Lane → Lane × FlagBits} {r : Rec} {c : Ctx} (h : s.Canon) :
    Yields (fp3 lat f r c s) State.Canon :=
  yields_vApply h

theorem yields_bf2 {lat : Nat} {f : FMode → Nat → Nat → Nat × FlagBits} {r : Rec} {c : Ctx} (h : s.Canon) : Yields (bf2 lat f r c s) State.Canon :=
  yields_vApply h

theorem yields_int1 {lat : Nat} {f : Lane → Lane} {r : Rec} {c : Ctx} (h : s.Canon) : Yields (int1 lat f r c s) State.Canon :=
  yields_vApply h

theorem yields_int2 {lat : Nat} {f : Lane → Lane → Lane} {r : Rec} {c : Ctx} (h : s.Canon) : Yields (int2 lat f r c s) State.Canon :=
  yields_vApply h

theorem yields_compare {f : FMode → Lane → Lane → Bool × FlagBits} {r : Rec} {c : Ctx} (h : s.Canon) : Yields (compare f r c s) State.Canon := by
  simp only [compare]
  split
  · exact yields_error _
  next he =>
    split
    · exact yields_ok (canon_kPut (yields_vArgs h _ he))
    · exact yields_vPut (yields_vArgs h _ he)

/-! ## Machine/Vector.lean -/

theorem yields_bodyVnop {r : Rec} {c : Ctx} (h : s.Canon) : Yields (bodyVnop r c s) State.Canon := yields_ok h

theorem yields_narrow {w : Nat} {pos : BitVec 5 → Nat} {mrgBit : Nat} {pv : BitVec 5 → Nat} {f : VArgs → Lane → Nat × FlagBits} {r : Rec} {c : Ctx}
    (h : s.Canon) : Yields (narrow w pos mrgBit pv f r c s) State.Canon :=
  yields_vApply h

/-! ## Machine/VectorAcross.lean -/

theorem yields_kOp {f : BitVec 64 → BitVec 64 → BitVec 64} {r : Rec} {c : Ctx} (h : s.Canon) : Yields (kOp f r c s) State.Canon :=
  yields_ok (canon_kPut h)

theorem yields_bodyKpopc {r : Rec} {c : Ctx} (h : s.Canon) : Yields (bodyKpopc r c s) State.Canon := yields_vPut h

theorem yields_bodyKmov {r : Rec} {c : Ctx} (h : s.Canon) : Yields (bodyKmov r c s) State.Canon := by
  simp only [bodyKmov]
  split
  · exact yields_ok (canon_kPut h)
  · exact yields_ok (canon_kPut h)
  · exact yields_mapAny fun _ => canon_kPut h
  · exact yields_vPut h

theorem yields_bodyKmovHi {r : Rec} {c : Ctx} (h : s.Canon) : Yields (bodyKmovHi r c s) State.Canon := by
  simp only [bodyKmovHi]
  split
  · exact yields_ok (canon_kPut h)
  · exact yields_ok h

/-! ## Machine/VectorTile.lean -/

theorem yields_bodyTcfg {r : Rec} {c : Ctx} (h : s.Canon) : Yields (bodyTcfg r c s) State.Canon := by
  simp only [bodyTcfg]
  split
  · exact yields_ok (canon_landAfter h)
  · exact yields_ok h

theorem yields_tileWrite {r : Rec} {c : Ctx} {land : Fin 4 → Nat → VSrc → Land} (h : s.Canon) : Yields (tileWrite r c land s) State.Canon := by
  simp only [tileWrite]
  split
  · exact yields_error _
  · exact yields_error _
  next he he' => exact yields_ok (canon_landAfter (yields_vArgs h _ he'))

theorem yields_tileRead {r : Rec} {c : Ctx} {whole : Bool} {get : Tile → Nat → VSrc} (h : s.Canon) :
    Yields (tileRead r c whole get s) State.Canon := by
  simp only [tileRead]
  split
  · exact yields_error _
  · exact yields_vPut h

theorem yields_tileWhole {r : Rec} {c : Ctx} {land : Fin 4 → Land} (h : s.Canon) : Yields (tileWhole r c land s) State.Canon :=
  yields_mapAny fun _ => canon_landAfter h

theorem yields_bodyVmode {r : Rec} {c : Ctx} (h : s.Canon) : Yields (bodyVmode r c s) State.Canon := by
  simp only [bodyVmode]
  split
  · exact yields_ok (canon_modCur h)
  · exact yields_ok h

theorem yields_vflgRead {r : Rec} {c : Ctx} (h : s.Canon) : Yields (vflgRead r c s) State.Canon := yields_vPut h

theorem yields_runSlots {c : Ctx} {l : List (Nat × Nat × Slot)} (h : s.Canon) : Yields (runSlots c l s) State.Canon := by
  induction l generalizing s with
  | nil => exact yields_ok h
  | cons e l ih =>
    simp only [runSlots]
    split
    · exact ih h
    next hm =>
      split
      · exact yields_error _
      next ht => exact ih (yields_run (keeps_slotSem hm) h _ ht)

theorem canon_idleSlots {c : Ctx} {l : List (Nat × Nat × Slot)} (h : s.Canon) : (idleSlots c l s).Canon := by
  induction l generalizing s with
  | nil => exact h
  | cons e l ih =>
    refine ih ?_
    split
    next hm => exact (keeps_slotSem hm).idle _ _ _ h
    · exact h

theorem yields_bodyBndl {b : Bundle} {c : Ctx} (h : s.Canon) : Yields (bodyBndl b c s) State.Canon := by
  simp only [bodyBndl]
  split
  · exact yields_ok h
  · exact yields_runSlots h

theorem yields_bundleEffect {b : Bundle} {c : Ctx} (h : s.Canon) : Yields (bundleEffect b c s) State.Canon := by
  simp only [bundleEffect]
  split
  · exact yields_bodyBndl h
  · split
    · exact yields_ok h
    · exact yields_ok (canon_idleSlots h)

theorem stepCanon_execBndl {b : Bundle} (h : s.Canon) : StepCanon (execBndl b s) :=
  stepCanon_next (canon_issue (canon_onEngine h) fun _ _ => yields_bundleEffect)

theorem stepCanon_execRecordDelivery {seq : Nat} (h : s.Canon) : StepCanon (execRecordDelivery seq s) := by
  have hsent {r : LogRec} : State.Canon (if r.delivered then { s with log := s.log.filter fun e => decide (e.seq ≠ seq) }
      else State.sendRecord { s with log := s.log.filter fun e => decide (e.seq ≠ seq) } seq r.bits) := by
    split
    · exact h
    · exact canon_sendRecord h
  simp only [execRecordDelivery]
  refine stepCanon_next ?_
  split
  · exact h
  · split
    · exact hsent
    · exact (hsent :)

/-! ## Machine/VectorTile.lean -/

theorem canon_clearVflags {m : FlagBits} (h : s.Canon) : (s.clearVflags m).Canon := canon_modCur h

theorem yields_bodyVflg {r : Rec} {c : Ctx} (h : s.Canon) : Yields (bodyVflg r c s) State.Canon := yields_vflgRead h

theorem yields_bodyVflgC {r : Rec} {c : Ctx} (h : s.Canon) : Yields (bodyVflgC r c s) State.Canon := by
  simp only [bodyVflgC]
  split
  · exact Yields.map (yields_vflgRead h) fun _ hu => canon_clearVflags hu
  · exact yields_ok h

theorem yields_bodyVclrf {r : Rec} {c : Ctx} (h : s.Canon) : Yields (bodyVclrf r c s) State.Canon := yields_ok (canon_clearVflags h)

theorem yields_bodyVspl {r : Rec} {c : Ctx} (h : s.Canon) : Yields (bodyVspl r c s) State.Canon := by
  simp only [bodyVspl]
  split
  · exact yields_error _
  · exact yields_error _
  · exact yields_ok (canon_landAfter h)

theorem yields_bodyVfil {r : Rec} {c : Ctx} (h : s.Canon) : Yields (bodyVfil r c s) State.Canon := by
  simp only [bodyVfil]
  split
  · exact yields_error _
  · exact yields_vPut h

/-! ## Machine/CremaOps.lean -/

theorem canon_askMove {g : GangId} {c : Cond} (h : s.Canon) : (s.askMove g c).Canon := h

theorem yields_spillPut {c : CellId} {off : Nat} {v : Row} {tag : Bool} (h : s.Canon) : Yields (s.spillPut c off v tag) State.Canon :=
  yields_mapAny fun _ => canon_fresh (canon_addDelta (canon_blockWrite h))

theorem canon_spillWhen {c : CellId} {write : Bool} {t : State} (h : s.Canon) (ht : t.Canon) : (s.spillWhen c write t).Canon := by
  simp only [State.spillWhen]
  split
  · exact ht
  · split
    · exact canon_joinCollapse h
    · exact h

theorem canon_faultHere {c : CellId} {off : Nat} {f : Flt} (h : s.Canon) : (s.faultHere c off f).Canon := by
  simp only [State.faultHere]
  split
  · exact h
  · exact canon_modGang (canon_fault h)

theorem stepCanon_execParkedRegisterMove {c : CellId} (h : s.Canon) : StepCanon (execParkedRegisterMove c s) := by
  simp only [execParkedRegisterMove]
  refine stepCanon_next ?_
  split
  · exact h
  · refine canon_spillWhen h ?_
    split
    · split
      · exact canon_faultHere h
      next he'' => exact canon_modCell (yields_spillPut h _ he'') fun _ hx => canonical_dropWork hx
    · exact h

/-! ## Machine/Matrix.lean -/

theorem yields_mpRead {row : Nat} (h : s.Canon) : Yields (mpRead row s) fun p => p.2.Canon :=
  Yields.map (yields_useBank h) fun _ hu => hu

theorem yields_registerRows {l : List WinRange} (h : s.Canon) : Yields (registerRows l s) State.Canon := by
  simp only [registerRows]
  split
  · exact yields_ok h
  · split
    · exact yields_error _
    · exact yields_ok (canon_modCur h)

theorem yields_bodyMnop {r : Rec} {c : Ctx} (h : s.Canon) : Yields (bodyMnop r c s) State.Canon := yields_ok h

theorem yields_retain {k : Key} {ranges : List WinRange} (h : s.Canon) : Yields (retain k ranges s) State.Canon := by
  simp only [retain]
  split
  · exact yields_ok h
  · split
    · exact yields_error _
    · split
      · exact yields_error _
      · exact yields_registerRows (canon_modCur h)

theorem canon_takeMeta {op : Nat} (h : s.Canon) : (takeMeta op s).2.Canon := by
  simp only [takeMeta]
  split
  · split
    · exact canon_modCur h
    · exact canon_request h
  · exact h

end

/-! ## Slots of Crema taken, spilled and filled (R66, R70) -/

section

variable {s : State}

theorem canon_takeSlot {c : Ctx} {slot : Fin 16} {rest : List (Fin 16)} {info : SlotInfo} (h : s.Canon) :
    (takeSlot c slot rest info s).Canon := by
  have htaken : (s.modCur fun x => { x with cr := ((({ x.cr with free := rest }.movePark c.off (s.moveDue (s.gidOf s.curCell)) s.uid
      slot).clearSlot slot).setSlot slot info) }).Canon :=
    canon_modCur h fun _ hx => canonical_setCr hx (Crema.canon_setSlot (Crema.canon_clearSlot (Crema.canon_movePark (canonical_cr hx :))))
  simp only [takeSlot]
  split
  · exact canon_askMove htaken
  · exact htaken

theorem yields_allocSlot {c : Ctx} {k : Key} {info : SlotInfo} (h : s.Canon) : Yields (allocSlot c k info s) fun p => p.2.Canon := by
  simp only [allocSlot]
  split
  · exact yields_ok (canon_takeSlot h)
  · split
    · exact yields_error _
    · exact yields_error _
    · exact yields_ok (canon_takeSlot (canon_askMove (canon_modCur h fun _ hx => canonical_spillSlot hx)))

theorem yields_spillWrite {c : CellId} {e n : Nat} {rows : SlotRows} {tags : SlotTags} (h : s.Canon) :
    Yields (State.spillWrite c e rows tags n s) State.Canon := by
  induction n with
  | zero => exact yields_ok h
  | succ n ih =>
    simp only [State.spillWrite]
    split
    · exact yields_error _
    next ht => exact yields_spillPut (ih _ ht)

theorem yields_spillLoad {c : CellId} {e n : Nat} {slot : Fin 16} (h : s.Canon) : Yields (State.spillLoad c e slot n s) Crema.Canon := by
  induction n with
  | zero => exact yields_ok (canonical_cr (canon_cell h c))
  | succ n ih =>
    simp only [State.spillLoad]
    split
    · exact yields_error _
    · exact yields_error _
    next hx _ => exact yields_ok (Crema.canon_putAt (ih _ hx))

theorem yields_spillRead {c : CellId} {e : Nat} {slot : Fin 16} (h : s.Canon) : Yields (State.spillRead c e slot s) Crema.Canon := by
  simp only [State.spillRead]
  split
  · exact yields_ok (Crema.canon_putRows (canonical_cr (canon_cell h c)))
  · exact yields_spillLoad h

theorem yields_fillKey {c : Ctx} {p : Spilled} (h : s.Canon) : Yields (fillKey c p s) State.Canon := by
  simp only [fillKey]
  split
  · exact yields_error _
  next ht =>
    have hslot := yields_allocSlot h _ ht
    split
    · exact yields_error _
    next hr =>
      have hcr := yields_spillRead hslot _ hr
      exact yields_ok (canon_setCur hslot (canonical_setCr (canon_cur hslot) (hcr :)))

theorem yields_needKey {c : Ctx} {k : Key} (h : s.Canon) : Yields (needKey c k s) State.Canon := by
  simp only [needKey]
  split
  · exact yields_ok h
  · exact (yields_fillKey h).map fun _ ht => canon_askMove (canon_modCur ht)

theorem yields_writeKey {c : Ctx} {k : Key} (h : s.Canon) : Yields (writeKey c k s) fun p => p.2.Canon := by
  simp only [writeKey]
  split
  · exact yields_error _
  next ht =>
    have hneed := yields_needKey h _ ht
    split
    · exact yields_ok (canon_modCur hneed)
    · exact yields_allocSlot hneed

theorem canon_cremaOut {c : CellId} {w : CremaWork} {e : Nat} {rows : SlotRows} {tags : SlotTags} (h : s.Canon) :
    (cremaOut c w e rows tags s).Canon := by
  unfold cremaOut
  split
  · exact canon_faultHere h
  next ht => exact canon_modCell (yields_spillWrite h _ ht) fun _ hx => canonical_dropWork hx

theorem stepCanon_execCremaSpill {c : CellId} (h : s.Canon) : StepCanon (execCremaSpill c s) := by
  unfold execCremaSpill
  dsimp only
  refine stepCanon_next ?_
  split
  · exact h
  · refine canon_spillWhen h ?_
    split
    · exact canon_cremaOut h
    · split
      · have hspilled {w : CremaWork} {i : Fin 16} {e : Nat} {p : CremaMove → Bool} :
            (s.setCell c (((s.cell c).dropWork p).spillSlot w.off w.due i e w.seq)).Canon :=
          canon_setCell h (canonical_spillSlot (canonical_dropWork (canon_cell h c)))
        split
        · split
          · exact canon_cremaOut hspilled
          · exact hspilled
        · exact hspilled
      · exact canon_faultHere (canon_setCell h (canonical_dropWork (canon_cell h c)))
      · exact canon_setCell h (canonical_dropWork (canon_cell h c))
    · exact h

theorem canon_setWho {c : CellId} {e : Eng} (h : s.Canon) : State.Canon { s with curCell := c, curEng := e } := h

theorem Crema.canon_putAll {x : Crema} {i : Fin 16} {l : List (Nat × SlotRow × BitVec 256 × FlagBits)} (hx : x.Canon) :
    (l.foldl (fun x e => x.putAt i e.1 e.2.1 e.2.2.1) x).Canon :=
  List.foldlRecOn (motive := Crema.Canon) _ _ hx fun _ h _ _ => canon_putAt h

theorem stepCanon_execCremaFill {c : CellId} (h : s.Canon) : StepCanon (execCremaFill c s) := by
  have hgone {t : State} {p : CremaMove → Bool} (ht : t.Canon) : (t.modCell c fun x => x.dropWork p).Canon :=
    canon_modCell ht fun _ hx => canonical_dropWork hx
  unfold execCremaFill
  dsimp only
  refine stepCanon_next ?_
  split
  · exact h
  · refine canon_spillWhen h ?_
    split
    · split
      · exact hgone h
      · split
        next ht => exact hgone (yields_fillKey (canon_setWho h) _ ht)
        · exact canon_faultHere h
    · split
      · exact hgone h
      · have hy {i : Fin 16} {n : Nat} : ((s.cell c).settle i none n).canonical = true := canonical_settle (canon_cell h c)
        refine hgone (canon_setCell h (Cell.canonical_iff.mpr ⟨?_, Crema.canon_setSlot (Crema.canon_putAll (canonical_cr hy))⟩))
        dsimp only
        exact (Cell.canonical_iff.mp hy).1
    · exact hgone h

/-! ## The issue of loads and passes (R271, R273) -/

theorem yields_mpReads {l : List Nat} (h : s.Canon) : Yields (mpReads l s) fun p => p.2.Canon := by
  induction l generalizing s with
  | nil => exact yields_ok h
  | cons r l ih =>
    simp only [mpReads]
    split
    · exact yields_error _
    next ht => exact (ih (yields_mpRead h _ ht)).map fun _ hp => hp

theorem yields_loadBody {op : Nat} {r : Rec} {c : Ctx} (h : s.Canon) : Yields (loadBody op r c s) State.Canon := by
  simp only [loadBody]
  split
  · exact yields_error _
  · exact yields_error _
  · split
    · exact yields_error _
    next hr =>
      split
      · exact yields_error _
      next hu => exact yields_ok (canon_fresh (canon_modCur (yields_registerRows (yields_mpReads h _ hr) _ hu)))

theorem yields_passBody {op : Nat} {r : Rec} {c : Ctx} (h : s.Canon) : Yields (passBody op r c s) State.Canon := by
  simp only [passBody]
  split
  · exact yields_error _
  · exact yields_error _
  · exact yields_error _
  · split
    · exact yields_error _
    next hr =>
      generalize (if isGather op = true then indexEntries _ else []) = index
      split
      · exact yields_error _
      · split
        · exact yields_error _
        next hu =>
          split
          · exact yields_error _
          next hw =>
            have hkey := yields_writeKey (yields_retain (yields_mpReads h _ hr) _ hu) _ hw
            exact yields_ok (canon_fresh (canon_modCur (canon_takeMeta hkey)))

/-! ## Machine/Matrix.lean -/

theorem canonical_landOp {x : Cell} {o : MeOp} {n seq : Nat} {d : Land} {mfl : FlagBits} (hx : x.canonical = true) :
    (x.landOp o n seq d mfl).canonical = true := hx

theorem canon_landPartials {c : CellId} {o : MeOp} {i now : Nat} {a : ARow} (h : s.Canon) : (s.landPartials c o i now a).Canon :=
  canon_foldl (fun _ _ hu => canon_fresh (canon_modCell hu)) _ h

theorem canon_landIndexNaN {c : CellId} {o : MeOp} {now : Nat} (h : s.Canon) : (s.landIndexNaN c o now).Canon := by
  simp only [State.landIndexNaN]
  split
  · exact canon_fresh (canon_modCell h)
  · exact h

theorem canonical_setOp {x : Cell} {o : MeOp} (hx : x.canonical = true) : (x.setOp o).canonical = true := hx

theorem canonical_dropOp {x : Cell} {u : Nat} (hx : x.canonical = true) : (x.dropOp u).canonical = true := hx

theorem canon_meStep {c : CellId} {o : MeOp} {rows : List (Row × Bool)} (h : s.Canon) : (meStep c o rows s).Canon := by
  simp only [meStep]
  split
  · split
    · refine canon_modCell ?_ fun _ hx => canonical_dropOp hx
      refine canon_landIndexNaN ?_
      split
      · split
        · exact canon_landPartials (canon_modCell h (fun _ hx => canonical_setOp hx))
        · exact canon_modCell h fun _ hx => canonical_setOp hx
      · exact canon_modCell h fun _ hx => canonical_setOp hx
    · split
      · split
        · exact canon_landPartials (canon_modCell h (fun _ hx => canonical_setOp hx))
        · exact canon_modCell h fun _ hx => canonical_setOp hx
      · exact canon_modCell h fun _ hx => canonical_setOp hx
  · split
    · exact canon_fresh (canon_modCell h (fun _ hx => canonical_landOp (canonical_dropOp hx)))
    · exact canon_modCell h fun _ hx => canonical_setOp hx

theorem canon_feedMeta {c : CellId} (h : s.Canon) : (feedMeta c s).Canon := by
  simp only [feedMeta]
  split
  · split
    · exact canon_modCell (canon_landIndexNaN (canon_foldl (fun _ _ hu => canon_landPartials hu) _ (canon_modCell h)))
        (fun _ hx => canonical_dropOp hx)
    · exact canon_modCell (canon_foldl (fun _ _ hu => canon_landPartials hu) _ (canon_modCell h)) fun _ hx => canonical_setOp hx
  · exact h

/-! ## Machine/MatrixSlots.lean -/

theorem canon_landRows {c : Ctx} {lat : Nat} {d : RowDst} {f : Nat → OutRow} {n : Nat} (h : s.Canon) : (landRows c lat d f n s).Canon :=
  canon_foldl (fun _ _ hu => canon_landAfter hu) _ h

theorem canon_landSlot {c : Ctx} {lat : Nat} {slot : Fin 16} {f : Nat → SlotOut} (h : s.Canon) : (landSlot c lat slot f s).Canon :=
  canon_foldl (fun _ _ hu => canon_landAfter hu) _ h

theorem yields_viewKey {c : Ctx} {k : Key} (h : s.Canon) : Yields (viewKey c k s) fun p => p.2.Canon :=
  Yields.map (yields_needKey h) fun _ hu => hu

theorem yields_crdBody {at_ : Nat → Nat → Nat → Nat → Nat × Nat} {r : Rec} {c : Ctx} (h : s.Canon) : Yields (crdBody at_ r c s) State.Canon := by
  simp only [crdBody]
  split
  · exact yields_error _
  · exact yields_error _
  · exact Yields.map (yields_viewKey h) fun _ hu => canon_landRows hu

theorem yields_bodyCzero {r : Rec} {c : Ctx} (h : s.Canon) : Yields (bodyCzero r c s) State.Canon := by
  simp only [bodyCzero]
  split
  · exact yields_error _
  · exact Yields.map (yields_writeKey h) fun _ hu => canon_landAfter hu

theorem yields_bodyCrel {r : Rec} {c : Ctx} (h : s.Canon) : Yields (bodyCrel r c s) State.Canon := by
  simp only [bodyCrel]
  split
  · exact yields_error _
  · split
    · exact yields_error _
    · exact yields_ok (canon_landAfter h)

theorem yields_bodyCrell {r : Rec} {c : Ctx} (h : s.Canon) : Yields (bodyCrell r c s) State.Canon := by
  simp only [bodyCrell]
  split
  · split
    · exact yields_error _
    · exact yields_ok (canon_landAfter h)
  · exact yields_ok h

theorem yields_bodyClbl {r : Rec} {c : Ctx} (h : s.Canon) : Yields (bodyClbl r c s) State.Canon := by
  simp only [bodyClbl]
  split
  · exact yields_error _
  · exact Yields.map (yields_needKey h) fun _ hu => canon_landAfter hu
  · exact yields_ok h

theorem yields_bodyClblR {r : Rec} {c : Ctx} (h : s.Canon) : Yields (bodyClblR r c s) State.Canon := by
  simp only [bodyClblR]
  split
  · exact yields_error _
  · exact yields_error _
  · split
    · exact yields_error _
    · exact yields_ok (canon_landAfter h)

theorem canon_askWork {c : Ctx} {m : CremaMove} {cond : Cond} (h : s.Canon) : (askWork c m cond s).Canon :=
  canon_fresh (canon_askMove (canon_modCur h))

theorem yields_bodyCspl {r : Rec} {c : Ctx} (h : s.Canon) : Yields (bodyCspl r c s) State.Canon := by
  simp only [bodyCspl]
  split
  · exact yields_error _
  · split
    · exact yields_ok h
    · split
      · exact yields_error _
      · exact yields_ok (canon_askWork h)

theorem yields_bodyCfil {r : Rec} {c : Ctx} (h : s.Canon) : Yields (bodyCfil r c s) State.Canon := by
  simp only [bodyCfil]
  split
  · exact yields_error _
  · split
    · exact yields_ok h
    · exact yields_ok (canon_askWork h)

theorem yields_cfilRows {half : Bool} {r : Rec} {c : Ctx} (h : s.Canon) : Yields (cfilRows half r c s) State.Canon := by
  simp only [cfilRows]
  split
  · exact yields_error _
  · exact yields_error _
  · exact Yields.map (yields_writeKey h) fun _ hu => canon_askWork hu

theorem yields_bodyCstat {r : Rec} {c : Ctx} (h : s.Canon) : Yields (bodyCstat r c s) State.Canon :=
  yields_mapAny fun _ => canon_landRows h

theorem yields_slotArith {c : Ctx} {dst : Key} {bad : Nat → Bool} {vs : List SlotView} {keep : Bool} {f : Nat → Nat → Lane × FlagBits} (h : s.Canon) :
    Yields (slotArith c dst s bad vs keep f) State.Canon :=
  Yields.map (yields_writeKey h) fun _ hu => canon_landSlot hu

theorem yields_bodyCcpy {r : Rec} {c : Ctx} (h : s.Canon) : Yields (bodyCcpy r c s) State.Canon := by
  simp only [bodyCcpy]
  split
  · exact yields_error _
  · exact yields_error _
  next he he' =>
    split
    · exact yields_error _
    next he'' => exact yields_slotArith (yields_viewKey h _ he'')

theorem yields_cscalFactor {o : Opnd} {x : Ix} (h : s.Canon) : Yields (cscalFactor o x s) fun p => p.2.Canon := by
  simp only [cscalFactor]
  split
  · exact yields_ok h
  · split
    · exact yields_error _
    · exact Yields.map (yields_mpReads h) fun _ hu => hu

theorem yields_bodyCscal {r : Rec} {c : Ctx} (h : s.Canon) : Yields (bodyCscal r c s) State.Canon := by
  simp only [bodyCscal]
  split
  · exact yields_error _
  · exact yields_error _
  · exact yields_error _
  next he he' he'' =>
    split
    · exact yields_error _
    next he''' => exact yields_slotArith ((yields_viewKey (yields_cscalFactor h _ he'')) _ he''')

theorem yields_reduceBody {f : FMode → List Lane → Lane × FlagBits} {r : Rec} {c : Ctx} (h : s.Canon) : Yields (reduceBody f r c s) State.Canon := by
  simp only [reduceBody]
  split
  · exact yields_error _
  · exact yields_error _
  · exact Yields.map (yields_viewKey h) fun _ hu => canon_landRows hu

theorem yields_bodyCmode {r : Rec} {c : Ctx} (h : s.Canon) : Yields (bodyCmode r c s) State.Canon := by
  simp only [bodyCmode]
  split
  · exact yields_ok (canon_modCur h)
  · exact yields_ok h

theorem yields_mflgRead {r : Rec} {c : Ctx} (h : s.Canon) : Yields (mflgRead r c s) State.Canon := by
  simp only [mflgRead]
  split
  · exact yields_ok h
  · exact yields_mapAny fun _ => canon_landRows h

theorem yields_bodyMflg {r : Rec} {c : Ctx} (h : s.Canon) : Yields (bodyMflg r c s) State.Canon := yields_mflgRead h

theorem yields_bodyMflgC {r : Rec} {c : Ctx} (h : s.Canon) : Yields (bodyMflgC r c s) State.Canon := by
  simp only [bodyMflgC]
  split
  · exact Yields.map (yields_mflgRead h) fun _ hu => canon_modCur hu
  · exact yields_ok h

theorem yields_bodyTstart {r : Rec} {c : Ctx} (h : s.Canon) : Yields (bodyTstart r c s) State.Canon := by
  simp only [bodyTstart]
  split
  · exact yields_error _
  · exact Yields.map (yields_writeKey h) fun _ hu => canon_landAfter (canon_landAfter hu)

theorem yields_bodyTcommit {r : Rec} {c : Ctx} (h : s.Canon) : Yields (bodyTcommit r c s) State.Canon :=
  yields_ok (canon_landAfter h)

/-! ## Machine/StreamOps.lean -/

theorem canon_sendFrameAs {fid : Nat} {path : Path} {scope : Nat} {own : Bool} {dev : BitVec 12} {c : CellId} {cmd : Nat} {body : OutBody}
    (h : s.Canon) : (s.sendFrameAs fid path scope own dev c cmd body).Canon := h

theorem canon_sendFrame {dev : BitVec 12} {c : CellId} {cmd : Nat} {body : OutBody} (h : s.Canon) : (s.sendFrame dev c cmd body).Canon := h

theorem canon_makeWrite {m : SeCmd} {c : CellId} {chan : Option (BitVec 10)} {w : Wr} (h : s.Canon) : (makeWrite m c chan w s).Canon := by
  simp only [makeWrite]
  split
  · exact canon_sendFrame h
  · exact canon_drainWrite h

end

/-! ## Row reads of passes and views of Crema (R68, R273) -/

section

variable {s : State}

theorem canon_mpRows {c : CellId} {l : List Nat} (h : s.Canon) : Gives (State.mpRows c l s).1 fun p => p.2.Canon := by
  induction l generalizing s with
  | nil => exact gives_some h
  | cons r l ih =>
    simp only [State.mpRows]
    split
    · exact gives_none
    next hx =>
      split
      next hr => exact gives_none
      next vs u _ hr => exact gives_some (ih (canon_setCell (c := c) h (gives_useBank (canon_cell h c) _ hx)) (vs, u) (congrArg Prod.fst hr))

theorem canon_mpPerform {c : CellId} {uid : Nat} (h : s.Canon) : (mpPerform c uid s).Canon := by
  simp only [mpPerform]
  split
  · exact h
  · split
    · split
      next hr => exact canon_meStep (canon_mpRows h _ (congrArg Prod.fst hr))
      · exact canon_fault (canon_modCell h fun _ hx => canonical_dropOp hx)
    · exact h

theorem yields_viewKeys {c : Ctx} {l : List Key} (h : s.Canon) : Yields (viewKeys c l s) fun p => p.2.Canon := by
  induction l generalizing s with
  | nil => exact yields_ok h
  | cons k l ih =>
    simp only [viewKeys]
    split
    · exact yields_error _
    next hv => exact (ih (yields_viewKey h _ hv)).map fun _ hp => hp

theorem yields_bindArgs {perRow : Bool} {r : Rec} {c : Ctx} (h : s.Canon) : Yields (bindArgs perRow r c s) fun p => p.2.Canon := by
  simp only [bindArgs]
  split
  · exact yields_error _
  · exact yields_error _
  · split
    · exact yields_error _
    next hb =>
      have hcoef := yields_mpRead h _ hb
      split
      · exact yields_error _
      · split
        · exact yields_error _
        next hr => exact (yields_viewKeys (yields_mpReads hcoef _ hr)).map fun _ hp => hp

theorem yields_bindRows {perRow : Bool} {r : Rec} {c : Ctx} (h : s.Canon) : Yields (bindRows perRow r c s) State.Canon := by
  simp only [bindRows]
  split
  · exact yields_error _
  · exact yields_error _
  next hb => exact yields_ok (canon_landRows (yields_bindArgs h _ hb))

theorem yields_bodyBindm {r : Rec} {c : Ctx} (h : s.Canon) : Yields (bodyBindm r c s) State.Canon := by
  simp only [bodyBindm]
  split
  · exact yields_error _
  · exact yields_error _
  next hb => exact (yields_writeKey (yields_bindArgs h _ hb)).map fun _ hp => canon_landSlot hp

theorem yields_bodyCadd {r : Rec} {c : Ctx} (h : s.Canon) : Yields (bodyCadd r c s) State.Canon := by
  simp only [bodyCadd]
  split
  · exact yields_error _
  · exact yields_error _
  · exact yields_error _
  · split
    · exact yields_error _
    next hv => exact yields_slotArith (yields_viewKeys h _ hv)

end

/-! ## The pieces of a command's work (R286) -/

/-- A piece of a command's work leaves the stores canonical, whether or not it ends. -/
def SeM.Keeps {α : Type} (m : SeM α) : Prop := ∀ s : State, s.Canon → (m.run s).2.Canon

section

variable {α β : Type}

theorem keeps_pure {a : α} : SeM.Keeps (pure a) := fun _ h => h

theorem keeps_seFail {f : Flt} : (seFail f : SeM α).Keeps := fun _ h => h

theorem keeps_seWait : (seWait : SeM α).Keeps := fun _ h => h

theorem keeps_set {t : State} (ht : t.Canon) : SeM.Keeps (set t) := fun _ _ => ht

theorem keeps_modify {f : State → State} (hf : ∀ s, s.Canon → (f s).Canon) : SeM.Keeps (modify f) := hf

theorem keeps_bind {m : SeM α} {f : α → SeM β} (hm : m.Keeps) (hf : ∀ a, (f a).Keeps) : SeM.Keeps (m >>= f) := by
  intro s h
  have hm' := hm s h
  rw [ExceptT.run_bind]
  simp only [bind, StateT.bind]
  generalize m.run s = r at hm' ⊢
  obtain ⟨a | a, t⟩ := r
  · exact hm'
  · exact hf a t hm'

/-- What is read of the state is in canonical form. -/
theorem keeps_getBind {f : State → SeM β} (hf : ∀ s, s.Canon → (f s).Keeps) : SeM.Keeps (get >>= f) := fun s h => hf s h s h

theorem keeps_mapM {f : α → SeM β} (hf : ∀ a, (f a).Keeps) {l : List α} : SeM.Keeps (l.mapM f) := by
  induction l with
  | nil => exact keeps_pure
  | cons a l ih =>
    rw [List.mapM_cons]
    exact keeps_bind (hf a) fun _ => keeps_bind ih fun _ => keeps_pure

theorem keeps_foldlM {f : β → α → SeM β} (hf : ∀ b a, (f b a).Keeps) {l : List α} {b : β} : SeM.Keeps (l.foldlM f b) := by
  induction l generalizing b with
  | nil => exact keeps_pure
  | cons a l ih => exact keeps_bind (hf b a) fun _ => ih

end

theorem keeps_itemsOf {total bytes : Nat} {item : Nat → SeM (Option (List Wr × FlagBits))} {m : SeCmd} (hi : ∀ n, (item n).Keeps) :
    (itemsOf total bytes item m).Keeps := by
  unfold itemsOf
  split
  · exact keeps_pure
  · refine keeps_bind (hi _) fun r => ?_
    split <;> exact keeps_pure

end Sys2Proof.Machine
end

section
/-! SUPPORT. The canonical form under the commands of the SE and the pages. -/

-- in parallel these many small proofs need more threads than the check allows
set_option Elab.async false

namespace Sys2Proof.Machine

section

variable {s : State}

/-! ## Machine/StreamOps.lean -/

theorem keeps_rowNo {write : Bool} {o : ROp} {x : Ix} {k : Nat} : (rowNo write o x k).Keeps := by
  simp only [rowNo]
  split
  · exact keeps_pure
  · exact keeps_seFail

theorem keeps_tensorDesc {m : SeCmd} {c : CellId} {write : Bool} {o : ROp} : (tensorDesc m c write o).Keeps := by
  simp only [tensorDesc]
  refine keeps_getBind fun s _ => ?_
  split
  · exact keeps_seFail
  · exact keeps_pure

theorem keeps_peerBlock {m : SeCmd} {c : CellId} {dev : BitVec 12} {blk : Nat} : (peerBlock m c dev blk).Keeps := by
  simp only [peerBlock]
  refine keeps_getBind fun s hu => ?_
  split
  · exact keeps_pure
  · exact keeps_bind (keeps_set (canon_sendFrame hu)) fun _ => keeps_pure

theorem keeps_readLoc {m : SeCmd} {c : CellId} {p : Path} {l : Loc} : (readLoc m c p l).Keeps := by
  simp only [readLoc]
  refine keeps_getBind fun s hu => ?_
  split
  · exact keeps_pure
  · split
    · exact keeps_pure
    · split
      · exact keeps_seWait
      · exact keeps_bind (keeps_set (canon_modCell (canon_noteSeen hu))) fun _ => keeps_pure

theorem keeps_readElem {m : SeCmd} {c : CellId} {tid : BitVec 12} {d : Desc} {x : List Nat} : (readElem m c tid d x).Keeps := by
  simp only [readElem]
  refine keeps_getBind fun s _ => ?_
  split
  · exact keeps_seFail
  · exact keeps_pure
  · split
    · split
      · exact keeps_pure
      · exact keeps_bind keeps_readLoc fun _ => keeps_pure
    · exact keeps_bind keeps_peerBlock fun _ => keeps_pure

theorem keeps_dropReplies {m : SeCmd} : (dropReplies m).Keeps := keeps_modify fun _ hu => hu

theorem keeps_readElems {m : SeCmd} {c : CellId} {o : ROp} {d : Desc} {xs : List (List Nat)} : (readElems m c o d xs).Keeps := by
  simp only [readElems]
  refine keeps_bind (keeps_mapM (fun _ => keeps_readElem)) fun a => ?_
  split
  · exact keeps_bind keeps_dropReplies fun _ => keeps_pure
  · exact keeps_pure

theorem keeps_readTensorRow {m : SeCmd} {c : CellId} {o : ROp} {d : Desc} {x : List Nat} : (readTensorRow m c o d x).Keeps :=
  keeps_bind keeps_readElems fun _ => keeps_pure

theorem keeps_elemLoc {m : SeCmd} {c : CellId} {o : ROp} {d : Desc} {x : List Nat} : (elemLoc m c o d x).Keeps := by
  simp only [elemLoc]
  refine keeps_getBind fun s _ => ?_
  split
  · exact keeps_seFail
  · exact keeps_pure
  · exact keeps_pure

theorem keeps_writeFlagged {m : SeCmd} {c : CellId} {o : ROp} {d : Desc} {op : WOp} {l : List (List Nat × Elem × FlagBits)} :
    (writeFlagged m c o d op l).Keeps := by
  simp only [writeFlagged]
  refine keeps_foldlM fun b a => ?_
  refine keeps_bind keeps_elemLoc fun a => ?_
  split <;> exact keeps_pure

theorem keeps_writeElems {m : SeCmd} {c : CellId} {o : ROp} {d : Desc} {op : WOp} {l : List (List Nat × Elem)} : (writeElems m c o d op l).Keeps :=
  keeps_bind keeps_writeFlagged fun _ => keeps_pure

theorem keeps_writeTensorRow {m : SeCmd} {c : CellId} {o : ROp} {d : Desc} {op : WOp} {x : List Nat} {r : Row × Bool} :
    (writeTensorRow m c o d op x r).Keeps :=
  keeps_writeElems

/-! ## Machine/VectorTile.lean -/

theorem keeps_readRow {m : SeCmd} {c : CellId} {o : ROp} {x : Ix} {k : Nat} : (readRow m c o x k).Keeps :=
  keeps_bind keeps_rowNo fun _ => keeps_readLoc

/-! ## Machine/StreamOps.lean -/

theorem keeps_farLoc {m : SeCmd} {c d : CellId} {write : Bool} {row : Nat} : (farLoc m c d write row).Keeps := by
  simp only [farLoc]
  refine keeps_getBind fun s _ => ?_
  split
  · exact keeps_pure
  · exact keeps_seFail

theorem keeps_readOpnd {m : SeCmd} {c : CellId} {o : ROp} {x : Ix} : (readOpnd m c o x).Keeps := by
  simp only [readOpnd]
  split
  · exact keeps_bind keeps_tensorDesc fun _ => keeps_readTensorRow
  · exact keeps_bind keeps_readRow fun _ => keeps_pure

theorem keeps_writeOpnd {m : SeCmd} {c : CellId} {o : ROp} {op : WOp} {x : Ix} {r : Row × Bool} : (writeOpnd m c o op x r).Keeps := by
  simp only [writeOpnd]
  split
  · exact keeps_bind keeps_tensorDesc fun _ => keeps_writeTensorRow
  · exact keeps_bind keeps_rowNo fun _ => keeps_pure

theorem keeps_resultRow {m : SeCmd} {c : CellId} {v : Nat} {tag : Bool} : (resultRow m c v tag).Keeps := by
  simp only [resultRow]
  split
  · exact keeps_bind keeps_rowNo fun _ => keeps_pure
  · exact keeps_pure

theorem canon_breakAtRelease {m : SeCmd} (h : s.Canon) : (breakAtRelease m s).Canon := by
  simp only [breakAtRelease]
  split
  · split
    · exact canon_request (canon_fault h)
    · exact h
  · exact h

theorem yields_releaseCmd {prom : Bool} {op : Nat} {r : Rec} {c : Ctx} (h : s.Canon) : Yields (releaseCmd prom op r c s) State.Canon := by
  simp only [releaseCmd]
  split
  · exact yields_error _
  · split
    · exact yields_error _
    · split
      · exact yields_error _
      · exact yields_ok (canon_breakAtRelease (canon_fresh (canon_setCur h (canon_cur h))))

/-! ## Machine/Pages.lean -/

theorem canon_rewriteLeaves {l : List LeafAt} {f : LeafAt → Nat → Nat} (h : s.Canon) :
    (s.rewriteLeaves l f).Canon := (canon_foldl (fun _ _ hu => canon_engineDelta (canon_devWriteIn hu)) _ h :)

theorem canon_copyBlocks {src dst : Nat} {l : List Nat} (h : s.Canon) : (s.copyBlocks src dst l).Canon :=
  canon_foldl (fun _ _ hu => canon_engineDelta (canon_blockWrite hu)) _ h

theorem canon_dropLines {frame : Nat} (h : s.Canon) : (s.dropLines frame).Canon := canon_foldl (fun _ _ hu => canon_dropLine hu) _ h

theorem canon_copyFrame {src dst : Nat} (h : s.Canon) : (s.copyFrame src dst).Canon := canon_copyBlocks h

theorem canon_putMig {m : Migration} (h : s.Canon) : (s.putMig m).Canon := h

theorem canon_unhold {frame : Nat} (h : s.Canon) : (s.unhold frame).Canon := h

theorem canon_redirect {w : FWrite} {dev : BitVec 12} {frame : Nat} (h : s.Canon) : (s.redirect w dev frame).Canon := by
  simp only [State.redirect]
  split
  · split
    · exact h
    · exact canon_sendFrameAs h
  · exact h

theorem canon_redirectAll {src : Nat} {dev : BitVec 12} {frame : Nat} (h : s.Canon) : (s.redirectAll src dev frame).Canon :=
  canon_foldl (fun _ _ hu => canon_redirect hu) _ h

theorem canon_freshFrame {dev : BitVec 12} (h : s.Canon) : (s.freshFrame dev).2.Canon := by
  simp only [State.freshFrame]
  split <;> exact h

theorem canon_setDup {d : Dup} (h : s.Canon) : (s.setDup d).Canon := h

theorem canon_dropDup {frame : Nat} (h : s.Canon) : (s.dropDup frame).Canon := h

theorem canon_giveCopy {frame : Nat} {h' : Holder} {d : Dup} (h : s.Canon) : (s.giveCopy frame h' d).Canon := by
  simp only [State.giveCopy]
  split
  · exact canon_setDup (canon_copyFrame (canon_freshFrame h))
  · exact canon_setDup h

theorem canon_duplicate {asid : BitVec 10} {frame : Nat} {h' : Holder} (h : s.Canon) : (s.duplicate asid frame h').Canon := by
  simp only [State.duplicate]
  split
  · exact canon_giveCopy h
  · exact canon_giveCopy (canon_rewriteLeaves h)

theorem canon_returnLeaves {d : Dup} (h : s.Canon) : (s.returnLeaves d).Canon := by
  simp only [State.returnLeaves]
  split
  · exact h
  · exact canon_dropDup (canon_rewriteLeaves h)

theorem stepCanon_execCollapse {frame : Nat} (h : s.Canon) : StepCanon (execCollapse frame s) := by
  simp only [execCollapse]
  refine stepCanon_next ?_
  split
  · split
    · exact h
    · exact canon_startCollapse h
  · exact h

theorem stepCanon_execInvalidationResend {frame : Nat} {h' : Holder} (h : s.Canon) : StepCanon (execInvalidationResend frame h' s) := by
  simp only [execInvalidationResend]
  refine stepCanon_next ?_
  split
  · exact h
  · split
    · exact canon_emit (canon_setDup h)
    · exact h

theorem stepCanon_execLeaseRenewal {frame : Nat} {h' : Holder} (h : s.Canon) : StepCanon (execLeaseRenewal frame h' s) := by
  simp only [execLeaseRenewal]
  refine stepCanon_next ?_
  split
  · exact h
  · split
    · split
      · exact canon_emit (canon_setDup h)
      · exact h
    · exact canon_setDup h

theorem stepCanon_execReadDuplication {frame : Nat} {h' : Holder} (h : s.Canon) : StepCanon (execReadDuplication frame h' s) := by
  simp only [execReadDuplication]
  refine stepCanon_next ?_
  split
  · split
    · exact h
    · exact canon_duplicate h
  · split
    · exact h
    · exact canon_duplicate h

theorem canon_startMigration {frame : Nat} {die : Fin 2} {dev : BitVec 12} {newFrame : Nat} (h : s.Canon) :
    (s.startMigration frame die dev newFrame).Canon := (canon_foldl (fun _ _ hu => canon_engineDelta (canon_devWriteIn hu)) _ h :)

theorem canon_startPeerMigration {home : BitVec 12} {frame : Nat} {die : Fin 2} {dev : BitVec 12} {newFrame cmd : Nat} (h : s.Canon) :
    (s.startPeerMigration home frame die dev newFrame cmd).Canon := (canon_foldl (fun _ _ hu => canon_engineDelta (canon_devWriteIn hu)) _ h :)

theorem canon_endPeerMigration {home : BitVec 12} {frame : Nat} {die : Fin 2} {dev : BitVec 12} {newFrame : Nat} (h : s.Canon) :
    (s.endPeerMigration home frame die dev newFrame).Canon := (canon_foldl (fun _ _ hu => canon_engineDelta (canon_devWriteIn hu)) _ h :)

theorem canonical_refuseMigration {x : Cell} {frame : Nat} (hx : x.canonical = true) : (x.refuseMigration frame).canonical = true := hx

theorem stepCanon_execMigrationAbandon {frame : Nat} (h : s.Canon) : StepCanon (execMigrationAbandon frame s) := by
  simp only [execMigrationAbandon]
  refine stepCanon_next ?_
  split
  · exact h
  · split
    · exact canon_foldl (fun _ _ hu => canon_performWrite hu) _ (canon_mapCells (canon_rewriteLeaves h) (fun _ hx => canonical_refuseMigration hx))
    · exact canon_mapCells (canon_rewriteLeaves h) fun _ hx => canonical_refuseMigration hx

theorem stepCanon_execPageDemotion {asid : BitVec 10} {tid : BitVec 12} {tile : Nat} {why : BitVec 3} (h : s.Canon) :
    StepCanon (execPageDemotion asid tid tile why s) := by
  simp only [execPageDemotion]
  refine stepCanon_next ?_
  split
  · exact h
  · split
    · exact h
    · exact canon_foldl (fun _ _ hu => canon_engineDelta (canon_devWriteIn hu)) _ h

theorem stepCanon_execDemotionRestore {asid : BitVec 10} {tid : BitVec 12} {tile : Nat} (h : s.Canon) :
    StepCanon (execDemotionRestore asid tid tile s) := by
  simp only [execDemotionRestore]
  refine stepCanon_next ?_
  split
  · split
    · exact canon_foldl (fun _ _ hu => canon_engineDelta (canon_devWriteIn hu)) _ h
    · exact h
  · exact h

end

theorem keeps_bcastLocs {m : SeCmd} {c : CellId} {row : Nat} {l : List CellId} : (bcastLocs m c row l).Keeps := by
  induction l with
  | nil => exact keeps_pure
  | cons d l ih =>
    simp only [bcastLocs]
    refine keeps_getBind fun s _ => ?_
    split
    · exact keeps_bind keeps_farLoc fun _ => keeps_bind ih fun _ => keeps_pure
    · exact keeps_seFail

theorem keeps_afterEarlier {m : SeCmd} {c : CellId} {w : SeM (Option Piece)} (hw : w.Keeps) : (afterEarlier m c w).Keeps := by
  refine keeps_getBind fun s _ => ?_
  split
  · exact hw
  · exact keeps_pure

theorem keeps_fetchPage {m : SeCmd} {c : CellId} {p : Page} {fresh : State → Bool} {last : State → State}
    (hl : ∀ s, s.Canon → (last s).Canon) : (fetchPage m c p fresh last).Keeps := by
  simp only [fetchPage]
  refine keeps_getBind fun s _ => ?_
  split
  · exact keeps_pure
  · split
    · exact keeps_bind keeps_dropReplies fun _ => keeps_pure
    · split
      · refine keeps_bind keeps_peerBlock fun a => ?_
        split
        · exact keeps_pure
        · exact keeps_bind keeps_dropReplies fun _ => keeps_bind (keeps_modify fun _ => canon_blockWrite) fun _ => keeps_pure
      · exact keeps_bind (keeps_modify hl) fun _ => keeps_resultRow

section

variable {s : State}

theorem canon_issueSe {i : Instr} {op : Nat} {r : Rec} {body : Ctx → State → Except Flt State} (h : s.Canon) (hb : KeepsBody body) :
    (issueSe i op r body s).Canon := canon_issue (canon_onEngine h) hb

/-! ## Pages (R92, R93) -/

theorem canon_sendBlocks {src : Nat} {dev : BitVec 12} {dst : Nat} {l : List Nat} (h : s.Canon) : (s.sendBlocks src dev dst l).2.Canon :=
  List.foldlRecOn (motive := fun r : List Nat × State => r.2.Canon) l _ h fun _ hr _ _ => canon_fresh (canon_sendFrameAs hr)

theorem canon_releaseWaiters {frame : Nat} {l : List Nat} (h : s.Canon) : (s.releaseWaiters frame l).Canon := by
  induction l generalizing s with
  | nil => exact h
  | cons u l ih =>
    refine ih ?_
    split
    · exact h
    · exact canon_foldl (fun _ _ hu => canon_performWrite hu) _ h

theorem canon_finishCollapse {d : Dup} (h : s.Canon) : (s.finishCollapse d).Canon := by
  simp only [State.finishCollapse]
  split
  · exact canon_redirectAll (canon_returnLeaves h)
  · exact canon_unhold (canon_releaseWaiters (canon_dropDup (canon_rewriteLeaves h)))

theorem canon_acked {d : Dup} {a : Holder} (h : s.Canon) : (s.acked d a).Canon := by
  simp only [State.acked]
  split
  · exact canon_finishCollapse h
  · exact canon_setDup h

theorem stepCanon_execInvalidationAck {frame : Nat} {a : Holder} (h : s.Canon) : StepCanon (execInvalidationAck frame a s) := by
  simp only [execInvalidationAck]
  refine stepCanon_next ?_
  split
  · split
    · exact canon_acked h
    · exact h
  · exact h

theorem stepCanon_execLeaseLapse {frame : Nat} {a : Holder} (h : s.Canon) : StepCanon (execLeaseLapse frame a s) := by
  simp only [execLeaseLapse]
  refine stepCanon_next ?_
  split
  · exact h
  · split
    · exact h
    · split
      · split
        · exact canon_finishCollapse h
        · exact h
      · split
        · exact canon_writeRecord (canon_acked h)
        · exact h

theorem stepCanon_execFabricSessionReopen {dev : BitVec 12} (h : s.Canon) : StepCanon (execFabricSessionReopen dev s) :=
  stepCanon_next (canon_foldl (fun _ _ hu => canon_finishCollapse hu) _ h)

theorem stepCanon_execPageMigration {frame : Nat} {die : Fin 2} {dev : BitVec 12} (h : s.Canon) : StepCanon (execPageMigration frame die dev s) := by
  unfold execPageMigration
  dsimp only
  refine stepCanon_next ?_
  split
  · split
    · exact h
    · split
      · exact canon_putMig (canon_copyFrame h)
      · exact canon_putMig (canon_sendBlocks (canon_dropLines h))
  · split
    · exact h
    · split
      · exact canon_startCollapse h
      · exact canon_startMigration (canon_freshFrame h)

theorem canon_setMigs {l : List Migration} {k : List (Nat × BitVec 12 × Nat)} (h : s.Canon) : State.Canon { s with migs := l, handed := k } := h

theorem stepCanon_execHandover {frame newFrame : Nat} (h : s.Canon) : StepCanon (execHandover frame newFrame s) := by
  simp only [execHandover]
  refine stepCanon_next ?_
  split
  · exact h
  · split
    · exact h
    · split
      · exact canon_putMig (canon_sendBlocks (canon_dropLines h))
      · refine canon_setMigs (canon_redirectAll (canon_rewriteLeaves ?_))
        split
        · exact canon_copyBlocks (canon_dropLines h)
        · exact h

/-! ## Machine/StreamCopy.lean -/

theorem keeps_copyItem {op : WOp} {m : SeCmd} {c : CellId} {q : Nat} : (copyItem op m c q).Keeps := by
  simp only [copyItem]
  refine keeps_bind keeps_readOpnd fun a => ?_
  split
  · exact keeps_pure
  · exact keeps_bind keeps_writeOpnd fun _ => keeps_pure

theorem keeps_workCopy {m : SeCmd} {c : CellId} : (workCopy m c).Keeps := keeps_itemsOf fun _ => keeps_copyItem

theorem keeps_workCprr {m : SeCmd} {c : CellId} : (workCprr m c).Keeps := by
  simp only [workCprr]
  refine keeps_itemsOf fun n => ?_
  split
  · exact keeps_bind keeps_rowNo fun _ => keeps_bind keeps_farLoc fun _ => keeps_bind keeps_readLoc fun _ =>
      keeps_bind keeps_rowNo fun _ => keeps_pure
  · exact keeps_bind keeps_readRow fun _ => keeps_bind keeps_rowNo fun _ => keeps_bind keeps_farLoc fun _ => keeps_pure

theorem keeps_workFill {m : SeCmd} {c : CellId} : (workFill m c).Keeps :=
  keeps_itemsOf fun _ => keeps_bind keeps_writeOpnd fun _ => keeps_pure

theorem keeps_addFmt {m : SeCmd} {c : CellId} : (addFmt m c).Keeps := by
  simp only [addFmt]
  split
  · refine keeps_bind keeps_tensorDesc fun a => ?_
    split
    · exact keeps_pure
    · exact keeps_seFail
  · refine keeps_bind keeps_tensorDesc fun a => ?_
    split
    · exact keeps_pure
    · exact keeps_seFail
  · exact keeps_pure

theorem keeps_workCpadd {m : SeCmd} {c : CellId} : (workCpadd m c).Keeps :=
  keeps_bind keeps_addFmt fun _ => keeps_itemsOf fun _ => keeps_copyItem

theorem keeps_spElems {m : SeCmd} {c : CellId} {o : ROp} {x : Ix} {e n : Nat} : (spElems m c o x e n).Keeps :=
  keeps_bind (keeps_mapM (fun _ => keeps_readRow)) fun _ => keeps_pure

theorem keeps_headRow {m : SeCmd} {c : CellId} {o : ROp} : (headRow m c o).Keeps := by
  simp only [headRow]
  split
  · exact keeps_pure
  · exact keeps_bind keeps_readRow fun _ => keeps_pure

theorem keeps_workCpmask {m : SeCmd} {c : CellId} : (workCpmask m c).Keeps := by
  simp only [workCpmask]
  refine keeps_bind keeps_headRow fun a => ?_
  refine keeps_itemsOf fun n => ?_
  refine keeps_bind keeps_readOpnd fun a => ?_
  split
  · exact keeps_pure
  · split
    · refine keeps_bind keeps_tensorDesc fun a => ?_
      refine keeps_bind ?_ fun _ => keeps_pure
      refine keeps_foldlM fun b a => ?_
      split
      · refine keeps_bind keeps_elemLoc fun a => ?_
        split <;> exact keeps_pure
      · exact keeps_pure
    · exact keeps_bind keeps_rowNo fun _ => keeps_pure

theorem keeps_indexEntry {m : SeCmd} {c : CellId} {o : ROp} {k : Nat} : (indexEntry m c o k).Keeps :=
  keeps_bind keeps_readRow fun _ => keeps_pure

theorem keeps_pick {m : SeCmd} {write : Bool} {o : ROp} {d : Desc} {e : Nat} : (pick m write o d e).Keeps := by
  simp only [pick]
  split
  · exact keeps_seFail
  · exact keeps_pure

theorem keeps_pickRead {m : SeCmd} {c : CellId} {o : ROp} {e : Nat} : (pickRead m c o e).Keeps := by
  simp only [pickRead]
  split
  · exact keeps_bind keeps_tensorDesc fun _ => keeps_bind keeps_pick fun _ => keeps_readTensorRow
  · exact keeps_bind keeps_readRow fun _ => keeps_pure

theorem keeps_pickWrite {m : SeCmd} {c : CellId} {o : ROp} {op : WOp} {e : Nat} {r : Row × Bool} : (pickWrite m c o op e r).Keeps := by
  simp only [pickWrite]
  split
  · exact keeps_bind keeps_tensorDesc fun _ => keeps_bind keeps_pick fun _ => keeps_writeTensorRow
  · exact keeps_bind keeps_rowNo fun _ => keeps_pure

theorem keeps_workGath {m : SeCmd} {c : CellId} : (workGath m c).Keeps := by
  simp only [workGath]
  refine keeps_itemsOf fun n => ?_
  refine keeps_bind keeps_indexEntry fun a => ?_
  refine keeps_bind keeps_rowNo fun a => ?_
  split
  · exact keeps_pure
  · refine keeps_bind keeps_pickRead fun a => ?_
    split <;> exact keeps_pure

theorem keeps_scatItem {op : WOp} {m : SeCmd} {c : CellId} {k : Nat} : (scatItem op m c k).Keeps := by
  simp only [scatItem]
  refine keeps_bind keeps_indexEntry fun a => ?_
  split
  · exact keeps_pure
  · exact keeps_bind keeps_readRow fun _ => keeps_bind keeps_pickWrite fun _ => keeps_pure

theorem keeps_workScat {m : SeCmd} {c : CellId} : (workScat m c).Keeps := keeps_itemsOf fun _ => keeps_scatItem

theorem keeps_workScata {m : SeCmd} {c : CellId} : (workScata m c).Keeps :=
  keeps_bind keeps_addFmt fun _ => keeps_itemsOf fun _ => keeps_scatItem

theorem keeps_offsetRow {m : SeCmd} {c : CellId} {out : Bool} : (offsetRow m c out).Keeps := by
  simp only [offsetRow]
  refine keeps_bind keeps_headRow fun a => ?_
  split
  · exact keeps_seFail
  · exact keeps_pure

theorem keeps_grpfIndex {g : Groups} {h0 u j : Nat} : (grpfIndex g h0 u j).Keeps := by
  simp only [grpfIndex]
  refine keeps_bind ?_ fun _ => keeps_pure
  refine keeps_mapM fun a => ?_
  split
  · split
    · exact keeps_seFail
    · exact keeps_pure
  · exact keeps_pure

theorem keeps_grpfCopy {m : SeCmd} {c : CellId} {g : Groups} {h0 u j : Nat} : (grpfCopy m c g h0 u j).Keeps := by
  simp only [grpfCopy]
  refine keeps_bind ?_ ?_
  · split
    · exact keeps_pure
    · split
      · exact keeps_seFail
      · exact keeps_bind keeps_readLoc fun _ => keeps_pure
  · intro a
    refine keeps_bind ?_ fun _ => keeps_pure
    split
    · exact keeps_pure
    · split
      · exact keeps_seFail
      · exact keeps_bind keeps_readLoc fun _ => keeps_pure

theorem keeps_workGrpf {m : SeCmd} {c : CellId} : (workGrpf m c).Keeps := by
  simp only [workGrpf]
  refine keeps_bind keeps_offsetRow fun a => ?_
  refine keeps_itemsOf fun n => ?_
  refine keeps_bind keeps_rowNo fun a => ?_
  split
  · exact keeps_bind keeps_grpfCopy fun _ => keeps_pure
  · exact keeps_bind keeps_grpfIndex fun _ => keeps_bind keeps_pure fun _ => keeps_pure

theorem keeps_workGrpo {m : SeCmd} {c : CellId} : (workGrpo m c).Keeps := by
  simp only [workGrpo]
  refine keeps_bind keeps_offsetRow fun a => ?_
  refine keeps_itemsOf fun n => ?_
  refine keeps_bind keeps_readRow fun a => ?_
  split
  · refine keeps_bind keeps_tensorDesc fun a => ?_
    split
    · exact keeps_bind keeps_seFail fun _ => keeps_bind keeps_writeTensorRow fun _ => keeps_pure
    · exact keeps_bind keeps_writeTensorRow fun _ => keeps_pure
  · exact keeps_bind keeps_rowNo fun _ => keeps_pure

theorem keeps_readRows {m : SeCmd} {c : CellId} {o : ROp} {x : Ix} {from_ n : Nat} : (readRows m c o x from_ n).Keeps := by
  simp only [readRows]
  split
  · exact keeps_bind keeps_tensorDesc fun _ => keeps_bind (keeps_mapM (fun _ => keeps_readTensorRow)) fun _ => keeps_pure
  · exact keeps_bind (keeps_mapM (fun _ => keeps_readRow)) fun _ => keeps_pure

end

theorem keeps_seFailBind {α β : Type} {f : Flt} {g : β → SeM α} : SeM.Keeps ((seFail f : SeM β) >>= g) := fun _ h => h

/-- A check of a command's operands before the rest of its work. -/
theorem keeps_failIf {α β : Type} {p : Prop} [Decidable p] {f : Flt} {m : SeM α} (hm : m.Keeps) :
    SeM.Keeps (if p then (seFail f : SeM β) >>= fun _ => m else m) := by
  split
  · exact keeps_seFailBind
  · exact hm

theorem keeps_workCpbc {m : SeCmd} {c : CellId} : (workCpbc m c).Keeps := by
  simp only [workCpbc]
  split
  · exact keeps_pure
  · refine keeps_bind ?_ fun r => ?_
    · split
      · exact keeps_pure
      · exact keeps_readOpnd
    · split
      · exact keeps_pure
      · exact keeps_bind keeps_rowNo fun _ => keeps_bind keeps_bcastLocs fun _ => keeps_pure

theorem keeps_workCpt {m : SeCmd} {c : CellId} : (workCpt m c).Keeps := by
  refine keeps_bind keeps_tensorDesc fun d => keeps_failIf (keeps_itemsOf fun n => ?_)
  dsimp only
  split
  · exact keeps_bind keeps_readRow fun _ => keeps_bind keeps_writeElems fun _ => keeps_pure
  · refine keeps_bind keeps_readElems fun r => ?_
    split
    · exact keeps_pure
    · exact keeps_bind keeps_rowNo fun _ => keeps_pure

theorem keeps_workCpcv {m : SeCmd} {c : CellId} : (workCpcv m c).Keeps := by
  refine keeps_bind keeps_tensorDesc fun d => keeps_failIf (keeps_itemsOf fun n => ?_)
  dsimp only
  split
  · exact keeps_bind keeps_spElems fun _ => keeps_bind keeps_writeFlagged fun _ => keeps_pure
  · refine keeps_bind keeps_readElems fun r => ?_
    split
    · exact keeps_pure
    · exact keeps_bind keeps_rowNo fun _ => keeps_pure

theorem keeps_workCpq {m : SeCmd} {c : CellId} : (workCpq m c).Keeps := by
  refine keeps_bind keeps_tensorDesc fun d => keeps_failIf (keeps_failIf (keeps_itemsOf fun n => ?_))
  refine keeps_failIf (keeps_getBind fun s _ => keeps_getBind fun t _ => ?_)
  dsimp only
  split
  · exact keeps_bind keeps_pure fun _ => keeps_bind keeps_readRow fun _ => keeps_bind keeps_readRow fun _ =>
      keeps_bind keeps_writeFlagged fun _ => keeps_bind keeps_writeFlagged fun _ => keeps_pure
  · exact keeps_seFailBind

section

variable {s : State}

/-! ## Machine/StreamCopy.lean -/

theorem keeps_workTopk {m : SeCmd} {c : CellId} : (workTopk m c).Keeps := by
  simp only [workTopk]
  refine keeps_itemsOf fun n => ?_
  refine keeps_bind keeps_readRows fun a => ?_
  split
  · exact keeps_pure
  · exact keeps_bind keeps_rowNo fun _ => keeps_pure

theorem keeps_workSortk {m : SeCmd} {c : CellId} : (workSortk m c).Keeps := by
  simp only [workSortk]
  split
  · exact keeps_bind (keeps_mapM fun _ => keeps_readRow) fun _ => keeps_bind keeps_pure fun _ =>
      keeps_itemsOf fun _ => keeps_bind keeps_rowNo fun _ => keeps_pure
  · exact keeps_bind keeps_pure fun _ => keeps_itemsOf fun _ => keeps_bind keeps_rowNo fun _ => keeps_pure

theorem keeps_crdsRow {m : SeCmd} {c : CellId} {k : Key} {i : Nat} : (crdsRow m c k i).Keeps := by
  simp only [crdsRow]
  refine keeps_getBind fun s _ => ?_
  split
  · exact keeps_pure
  · refine keeps_bind ?_ fun _ => keeps_pure
    refine keeps_mapM fun a => ?_
    split
    · exact keeps_seFail
    · split
      · exact keeps_seWait
      · exact keeps_readLoc
  · exact keeps_pure

theorem keeps_writeRowFlagged {m : SeCmd} {c : CellId} {o : ROp} {x : Ix} {e : Nat} {l : List (Elem × FlagBits)} :
    (writeRowFlagged m c o x e l).Keeps := by
  simp only [writeRowFlagged]
  split
  · refine keeps_bind keeps_tensorDesc fun a => ?_
    split <;> exact keeps_writeFlagged
  · exact keeps_bind keeps_rowNo fun _ => keeps_pure

theorem keeps_workCrds {m : SeCmd} {c : CellId} : (workCrds m c).Keeps := by
  simp only [workCrds]
  refine keeps_itemsOf fun n => ?_
  refine keeps_getBind fun s _ => ?_
  split
  · split
    · exact keeps_pure
    · exact keeps_bind keeps_crdsRow fun _ => keeps_bind keeps_writeRowFlagged fun _ => keeps_pure
  · split
    · exact keeps_pure
    · exact keeps_bind keeps_crdsRow fun _ => keeps_bind keeps_writeRowFlagged fun _ => keeps_pure

/-! ## Machine/StreamMisc.lean -/

theorem keeps_endWork {m : SeCmd} : (endWork m).Keeps := keeps_pure

theorem keeps_waitWork : (waitWork).Keeps := keeps_pure

theorem keeps_resultLanes {m : SeCmd} {c : CellId} {l : List Nat} {tag : Bool} : (resultLanes m c l tag).Keeps := keeps_resultRow

theorem keeps_workMeta {m : SeCmd} {c : CellId} : (workMeta m c).Keeps := by
  simp only [workMeta]
  split
  · exact keeps_endWork
  · split
    · refine keeps_bind keeps_readRows fun a => ?_
      split <;> exact keeps_pure
    · refine keeps_getBind fun s _ => ?_
      split
      · exact keeps_waitWork
      · refine keeps_bind ?_ ?_
        · split <;> exact keeps_readRows
        · intro a
          split
          · exact keeps_pure
          · exact keeps_bind (keeps_modify (fun _ hu' => canon_feedMeta (canon_modCell hu'))) fun _ => keeps_pure

theorem keeps_enterYp {m : SeCmd} {c : CellId} {k : YKind} {cover : List Cov} {scope : Nat} : (enterYp m c k cover scope).Keeps :=
  keeps_modify fun _ hu => canon_modCell hu

theorem keeps_ypWaits {m : SeCmd} {c : CellId} : (ypWaits m c).Keeps := keeps_getBind fun _ _ => keeps_pure

theorem keeps_workCntr {m : SeCmd} {c : CellId} : (workCntr m c).Keeps := by
  simp only [workCntr]
  refine keeps_getBind fun s _ => ?_
  split
  · exact keeps_waitWork
  · refine keeps_bind keeps_ypWaits fun a => ?_
    split
    · exact keeps_waitWork
    · split
      · exact keeps_endWork
      · refine keeps_bind keeps_readRow fun a => ?_
        split
        · exact keeps_seFailBind
        · split
          · exact keeps_bind keeps_enterYp fun _ => keeps_pure
          · exact keeps_pure

theorem keeps_workCsnap {m : SeCmd} {c : CellId} : (workCsnap m c).Keeps := by
  simp only [workCsnap]
  refine keeps_bind keeps_ypWaits fun a => ?_
  split
  · exact keeps_waitWork
  · split
    · exact keeps_getBind fun _ _ => keeps_bind keeps_enterYp fun _ => keeps_waitWork
    · exact keeps_bind keeps_rowNo fun _ => keeps_pure

theorem keeps_workNsend {m : SeCmd} {c : CellId} : (workNsend m c).Keeps := by
  simp only [workNsend]
  refine keeps_getBind fun s _ => ?_
  split
  · exact keeps_seFail
  · split
    · exact keeps_bind keeps_readRow fun _ => keeps_pure
    · exact keeps_getBind fun _ hu' => keeps_bind (keeps_modify (fun _ hu'' => canon_sendFrame hu'')) fun _ => keeps_pure

theorem keeps_workNrecv {m : SeCmd} {c : CellId} : (workNrecv m c).Keeps := by
  simp only [workNrecv]
  refine keeps_getBind fun s hu => ?_
  split
  · split
    · exact keeps_seFailBind
    · split <;> exact keeps_bind (keeps_set hu) fun _ => keeps_endWork
  · split <;> exact keeps_bind (keeps_set hu) fun _ => keeps_endWork

theorem keeps_workNput {m : SeCmd} {c : CellId} : (workNput m c).Keeps := by
  simp only [workNput]
  refine keeps_itemsOf fun n => ?_
  refine keeps_bind keeps_copyItem fun a => ?_
  split
  · exact keeps_pure
  · split
    · exact keeps_seFail
    · exact keeps_pure

theorem keeps_workNget {m : SeCmd} {c : CellId} : (workNget m c).Keeps := by
  simp only [workNget]
  refine keeps_itemsOf fun n => ?_
  refine keeps_bind keeps_tensorDesc fun a => ?_
  refine keeps_getBind fun s _ => ?_
  split
  · exact keeps_seFail
  · exact keeps_copyItem

theorem keeps_natomPage {m : SeCmd} {c : CellId} {w : Nat} : (natomPage m c w).Keeps := by
  simp only [natomPage]
  refine keeps_getBind fun s _ => ?_
  refine keeps_bind keeps_tensorDesc fun a => ?_
  split
  · exact keeps_seFail
  · split
    · exact keeps_seFail
    · split
      · exact keeps_seFail
      · split
        · exact keeps_seFail
        · exact keeps_pure

theorem keeps_workNatom {m : SeCmd} {c : CellId} : (workNatom m c).Keeps := by
  simp only [workNatom]
  refine keeps_getBind fun s hu => ?_
  split
  · exact keeps_waitWork
  · split
    · refine keeps_bind keeps_readRow fun a => ?_
      split
      · exact keeps_resultRow
      · exact keeps_bind keeps_natomPage fun _ => keeps_bind (keeps_modify (fun _ hu' => canon_sendFrame hu')) fun _ => keeps_pure
    · split
      · exact keeps_waitWork
      · refine keeps_bind (keeps_set hu) fun a => ?_
        split
        · exact keeps_pure
        · exact keeps_resultRow

theorem keeps_workNflush {m : SeCmd} {c : CellId} : (workNflush m c).Keeps := by
  simp only [workNflush]
  refine keeps_getBind fun s _ => ?_
  split
  · exact keeps_waitWork
  · exact keeps_endWork

theorem keeps_seYp {m : SeCmd} {c : CellId} {k : YKind} {cover : List Cov} {scope : Nat} : (seYp m c k cover scope).Keeps :=
  keeps_bind keeps_enterYp fun _ => keeps_endWork

theorem keeps_workAwrm {m : SeCmd} {c : CellId} : (workAwrm m c).Keeps := by
  simp only [workAwrm]
  split
  · exact keeps_seFail
  · exact keeps_seYp

theorem keeps_workAset {m : SeCmd} {c : CellId} : (workAset m c).Keeps := keeps_seYp

theorem keeps_workSfence {m : SeCmd} {c : CellId} : (workSfence m c).Keeps := by
  simp only [workSfence]
  refine keeps_getBind fun s _ => ?_
  split
  · exact keeps_waitWork
  · exact keeps_endWork

theorem keeps_workWaitc {m : SeCmd} {c : CellId} : (workWaitc m c).Keeps := by
  simp only [workWaitc]
  refine keeps_afterEarlier ?_
  split
  · exact keeps_getBind fun _ hu => keeps_bind keeps_resultRow fun _ =>
      keeps_bind (keeps_modify fun _ hu' => canon_modCell hu') fun _ => keeps_pure
  · exact keeps_endWork

theorem keeps_workRadvx {m : SeCmd} {c : CellId} : (workRadvx m c).Keeps := by
  simp only [workRadvx]
  refine keeps_afterEarlier (keeps_getBind (fun s hu => ?_))
  split
  · exact keeps_endWork
  · split
    · exact keeps_seFail
    · split <;> split <;> exact keeps_seYp

theorem keeps_workSwait {m : SeCmd} {c : CellId} : (workSwait m c).Keeps := by
  simp only [workSwait]
  refine keeps_getBind fun s _ => ?_
  split
  · split
    · split
      · exact keeps_seFail
      · split
        · exact keeps_endWork
        · exact keeps_waitWork
    · split
      · exact keeps_seFail
      · split
        · exact keeps_seFail
        · split
          · exact keeps_seFail
          · split
            · split
              · exact keeps_endWork
              · exact keeps_waitWork
            · split
              · exact keeps_endWork
              · exact keeps_waitWork
  · exact keeps_endWork

theorem keeps_workTdld {m : SeCmd} {c : CellId} : (workTdld m c).Keeps :=
  keeps_bind (keeps_modify (fun _ hu => canon_cacheDesc hu)) fun _ => keeps_endWork

theorem keeps_workTdinv {m : SeCmd} {c : CellId} : (workTdinv m c).Keeps :=
  keeps_bind (keeps_modify (fun _ hu => canon_dropLeaves (canon_dropDesc hu))) fun _ => keeps_endWork

theorem keeps_workPfch {m : SeCmd} {c : CellId} : (workPfch m c).Keeps := by
  simp only [workPfch]
  refine keeps_getBind fun s hu => ?_
  split
  · exact keeps_endWork
  · exact keeps_bind (keeps_set (canon_foldl (fun _ _ hu' => canon_cacheLeaf hu') _ (canon_cacheDesc hu))) fun _ => keeps_endWork

theorem keeps_firstPage {m : SeCmd} {c : CellId} {o : ROp} : (firstPage m c o).Keeps := by
  simp only [firstPage]
  refine keeps_getBind fun s _ => ?_
  refine keeps_bind keeps_tensorDesc fun a => ?_
  split
  · exact keeps_seFail
  · exact keeps_pure

theorem keeps_workLatq {m : SeCmd} {c : CellId} : (workLatq m c).Keeps := by
  simp only [workLatq]
  refine keeps_bind keeps_firstPage fun a => ?_
  split
  · exact keeps_resultLanes
  · exact keeps_getBind fun _ _ => keeps_resultLanes

theorem keeps_workSevt {m : SeCmd} {c : CellId} : (workSevt m c).Keeps := by
  simp only [workSevt]
  refine keeps_getBind fun s hu => ?_
  split
  · exact keeps_bind (keeps_set (canon_emit hu)) fun _ => keeps_resultRow
  · split
    · exact keeps_waitWork
    · refine keeps_bind keeps_tensorDesc fun a => ?_
      split
      · exact keeps_seFail
      next he'' => exact keeps_bind (keeps_set (canon_fst (canon_submit hu) he'')) fun _ => keeps_resultLanes
      next he'' => exact keeps_bind (keeps_set (canon_fst (canon_submit hu) he'')) fun _ => keeps_resultLanes

theorem keeps_workCpchk {m : SeCmd} {c : CellId} : (workCpchk m c).Keeps := by
  simp only [workCpchk]
  split
  · refine keeps_bind keeps_readOpnd fun a => ?_
    split
    · exact keeps_waitWork
    · exact keeps_pure
  · exact keeps_resultRow

theorem keeps_workSnop {m : SeCmd} {c : CellId} : (workSnop m c).Keeps := keeps_endWork

end

theorem keeps_setResult {t : State} {m : SeCmd} {c : CellId} {v : Nat} {tag : Bool} (ht : t.Canon) :
    SeM.Keeps ((set t : SeM PUnit) >>= fun _ => resultRow m c v tag) := keeps_bind (keeps_set ht) fun _ => keeps_resultRow

theorem keeps_workPgdup {m : SeCmd} {c : CellId} : (workPgdup m c).Keeps := by
  refine keeps_bind keeps_firstPage fun p => ?_
  split
  · exact keeps_resultRow
  · refine keeps_getBind fun s hs => ?_
    extract_lets t away d busy held page
    have hpage (u : Unit) : (page u).Keeps := by
      unfold page
      split
      · exact keeps_fetchPage fun _ hu => canon_setDup (canon_rewriteLeaves hu)
      · split
        · exact keeps_waitWork
        · split
          · exact keeps_resultRow
          · split
            · exact keeps_resultRow
            · dsimp only
              split
              · exact keeps_setResult (canon_free hs)
              · split
                · exact keeps_bind (keeps_set (canon_setDup (canon_freshFrame (canon_free hs)))) fun _ => keeps_pure
                · refine keeps_setResult ?_
                  split
                  · exact canon_free hs
                  · exact canon_duplicate (canon_free hs)
    split
    · split
      · exact keeps_seFailBind
      · exact hpage ()
    · exact hpage ()

theorem keeps_workPgmig {m : SeCmd} {c : CellId} : (workPgmig m c).Keeps := by
  refine keeps_getBind fun s hs => ?_
  extract_lets t
  split
  · split
    · exact keeps_waitWork
    · exact keeps_resultRow
  · refine keeps_bind keeps_firstPage fun p => ?_
    split
    · exact keeps_resultRow
    · extract_lets away page
      have hpage (u : Unit) : (page u).Keeps := by
        unfold page
        split
        · exact keeps_fetchPage fun _ hu => canon_endPeerMigration hu
        · split
          · exact keeps_resultRow
          · split
            · exact keeps_bind (keeps_set (canon_startCollapse hs)) fun _ => keeps_waitWork
            · split
              · exact keeps_waitWork
              · dsimp only
                split
                · exact keeps_setResult (canon_free hs)
                · split
                  · exact keeps_bind (keeps_set (canon_startMigration (canon_freshFrame (canon_free hs)))) fun _ => keeps_pure
                  · exact keeps_bind (keeps_set (canon_startPeerMigration (canon_freshFrame (canon_free hs)))) fun _ => keeps_pure
      split
      · split
        · exact keeps_seFailBind
        · exact hpage ()
      · exact hpage ()

/-! ## The work of every command -/

theorem keeps_seWorks : ∀ w ∈ seWorks, ∀ m c, (w m c).Keeps := by
  simp only [seWorks, List.forall_mem_cons]
  exact
    ⟨fun _ _ => keeps_workSnop, fun _ _ => keeps_workCopy, fun _ _ => keeps_workCopy, fun _ _ => keeps_workCprr,
      fun _ _ => keeps_workCpadd, fun _ _ => keeps_workCpbc, fun _ _ => keeps_workCpt, fun _ _ => keeps_workCpcv,
      fun _ _ => keeps_workCpq, fun _ _ => keeps_workCpmask, fun _ _ => keeps_workFill, fun _ _ => keeps_workGath,
      fun _ _ => keeps_workScat, fun _ _ => keeps_workScata, fun _ _ => keeps_workGrpf, fun _ _ => keeps_workGrpo,
      fun _ _ => keeps_workTopk, fun _ _ => keeps_workCrds, fun _ _ => keeps_workMeta, fun _ _ => keeps_workSortk,
      fun _ _ => keeps_workCntr, fun _ _ => keeps_workCsnap, fun _ _ => keeps_workNsend, fun _ _ => keeps_workNrecv,
      fun _ _ => keeps_workNput, fun _ _ => keeps_workNget, fun _ _ => keeps_workNatom, fun _ _ => keeps_workNflush,
      fun _ _ => keeps_workAwrm, fun _ _ => keeps_workAset, fun _ _ => keeps_workSfence, fun _ _ => keeps_workWaitc,
      fun _ _ => keeps_workTdld, fun _ _ => keeps_workTdinv, fun _ _ => keeps_workPgdup, fun _ _ => keeps_workPgmig,
      fun _ _ => keeps_workPfch, fun _ _ => keeps_workLatq, fun _ _ => keeps_workSevt, fun _ _ => keeps_workCpchk,
      fun _ _ => keeps_workRadvx, fun _ _ => keeps_workSwait, fun _ _ => keeps_workCopy, List.forall_mem_nil _⟩

theorem keeps_seWork {op : Nat} {m : SeCmd} {c : CellId} : (seWork op m c).Keeps := by
  have hmem : seWork op ∈ seWorks ∨ seWork op = workSnop := by
    unfold seWork
    rw [List.getD_eq_getElem?_getD]
    cases h : seWorks[op]? with
    | none => exact .inr rfl
    | some w => exact .inl (List.mem_of_getElem? h)
  obtain h | h := hmem
  · exact keeps_seWorks _ h m c
  · rw [h]
    exact keeps_workSnop

section

variable {s : State}

/-! ## Machine/StreamRun.lean -/

theorem canonical_putCmd {x : Cell} {m : SeCmd} (hx : x.canonical = true) : (x.putCmd m).canonical = true := hx

theorem canonical_dropCmd {x : Cell} {uid : Nat} (hx : x.canonical = true) : (x.dropCmd uid).canonical = true := hx

theorem stepCanon_execSeRelease {c : CellId} (h : s.Canon) : StepCanon (execSeRelease c s) := by
  simp only [execSeRelease]
  refine stepCanon_next ?_
  split <;> exact h

theorem stepCanon_execSeCommandStart {c : CellId} {uid : Nat} (h : s.Canon) : StepCanon (execSeCommandStart c uid s) := by
  simp only [execSeCommandStart]
  refine stepCanon_next ?_
  split
  · exact h
  · split
    · exact canon_modCell h fun _ hx => canonical_putCmd hx
    · exact h

theorem canon_stopCmd {c : CellId} {m : SeCmd} {f : Flt} (h : s.Canon) : (stopCmd c m f s).Canon :=
  canon_fault (canon_modCell h (fun _ hx => canonical_putCmd hx))

theorem canon_makeWrites {m : SeCmd} {c : CellId} {l : List Wr} (h : s.Canon) : (makeWrites m c l s).Canon :=
  canon_foldl (fun _ _ hu => canon_makeWrite hu) _ h

theorem canon_restCmd {c : CellId} {uid : Nat} (h : s.Canon) : (s.restCmd c uid).Canon := by
  simp only [State.restCmd]
  split
  · exact h
  · exact canon_modCell h fun _ hx => canonical_putCmd hx

theorem yields_countBytes {c : CellId} {m : SeCmd} {b : Nat} (h : s.Canon) : Yields (countBytes c m b s) State.Canon := by
  simp only [countBytes]
  split
  · split
    · split
      · exact yields_error _
      · split
        · exact yields_error _
        · exact yields_ok (canon_modCell h (fun _ hx => canonical_putArrival hx))
    · exact yields_ok h
  · exact yields_ok h

theorem stepCanon_execChunkPerformed {c : CellId} {uid : Nat} (h : s.Canon) : StepCanon (execChunkPerformed c uid s) := by
  simp only [execChunkPerformed]
  refine stepCanon_next ?_
  split
  · exact h
  · split
    · exact h
    · split
      · split
        next he''' => exact canon_modCell (yields_countBytes h _ he''') (fun _ hx => canonical_putCmd hx)
        · exact canon_stopCmd h
      · exact h

theorem canonical_setSe {x : Cell} {e : Se} (hx : x.canonical = true) : Cell.canonical { x with se := e } = true := hx

theorem canonical_countDone {x : Cell} (hx : x.canonical = true) : x.countDone.canonical = true := canonical_setSe hx

theorem canon_sampleCmd {c : CellId} {m : SeCmd} (h : s.Canon) : (s.sampleCmd c m).Canon := by
  simp only [State.sampleCmd]
  split
  · split
    · exact canon_sample h
    · exact canon_sample (canon_sample h)
  · exact canon_sample h

theorem stepCanon_execLatencyDeadline {c : CellId} {uid : Nat} (h : s.Canon) : StepCanon (execLatencyDeadline c uid s) := by
  simp only [execLatencyDeadline]
  refine stepCanon_next ?_
  split
  · exact h
  · split
    · exact h
    · split
      · exact h
      · exact canon_request (canon_fault (canon_modCell h (fun _ hx => canonical_putCmd hx)))

theorem stepCanon_execCrdsHoldMet {c : CellId} {uid : Nat} (h : s.Canon) : StepCanon (execCrdsHoldMet c uid s) := by
  simp only [execCrdsHoldMet]
  refine stepCanon_next ?_
  split
  · split
    · exact h
    · exact canon_modGang h
  · exact canon_modGang h

/-! ## Machine/Landings.lean -/

theorem canonical_raise {x : Cell} {vfl mfl : FlagBits} {cfl : BitVec 2} (hx : x.canonical = true) : (x.raise vfl mfl cfl).canonical = true := hx

theorem canon_landMq {c : CellId} {l : Landing} {n : Fin 2} {v : Row} {tag : Bool} (h : s.Canon) : (landMq c l n v tag s).Canon := by
  simp only [landMq]
  split
  · exact canon_fault h
  · exact canon_setCell h (canon_cell h _)

theorem canon_landSp {c : CellId} {l : Landing} {row : Nat} {v : Row} {tag : Bool} (h : s.Canon) : (landSp c l row v tag s).Canon := by
  simp only [landSp]
  split
  · exact canon_fault h
  · exact canon_fault h
  next he he' => exact canon_drainTimed (canon_setCell h ((gives_useBank (canon_cell h _)) _ he'))

theorem canon_landYpop {c : CellId} {g : Fin 32} {p : Fin 16} {uid : Nat} (h : s.Canon) : (landYpop c g p uid s).Canon := by
  simp only [landYpop]
  split
  · exact h
  · exact canon_setCell h (canon_cell h _)

theorem canon_landIn {c : CellId} {l : Landing} (h : s.Canon) : (s.landIn c l).Canon := by
  simp only [State.landIn]
  split
  · exact canon_landMq h
  · exact canon_landSp h
  · exact canon_landYpop h
  · exact canon_modGang h
  · split
    · exact canon_askMove (canon_setCell h (canonical_setCr (canon_cell h _) (Crema.canon_parkLand (canonical_cr (canon_cell h _)))))
    · exact canon_setCell h (canonical_setCr (canon_cell h _) (Crema.canon_parkLand (canonical_cr (canon_cell h _))))
  · exact canon_setCell h (canonical_raise (canonical_landMe (canon_cell h _)))

theorem stepCanon_execResultLanding {c : CellId} (h : s.Canon) : StepCanon (execResultLanding c s) := by
  simp only [execResultLanding]
  refine stepCanon_next ?_
  split
  · exact h
  · exact canon_modCell (canon_landIn (canon_modCell h)) fun _ hx => canonical_raise hx

theorem stepCanon_execDecisionDelivery {g : GangId} (h : s.Canon) : StepCanon (execDecisionDelivery g s) := by
  simp only [execDecisionDelivery]
  refine stepCanon_next ?_
  split
  · exact h
  · split
    · exact h
    · exact canon_modGang (canon_foldl (fun _ _ hu => canon_modCell hu) _ h)

theorem stepCanon_execDivergenceCheck {g : GangId} (h : s.Canon) : StepCanon (execDivergenceCheck g s) := by
  simp only [execDivergenceCheck]
  refine stepCanon_next ?_
  split
  · exact h
  · split
    · exact h
    · split
      · exact canon_foldl (fun _ _ hu => canon_fault hu) _ (canon_modGang h)
      · refine canon_foldl (fun u a hu => ?_) _ (canon_modGang h)
        split
        · exact hu
        · exact canon_fault hu

theorem stepCanon_execDivisorSwitch {c : CellId} (h : s.Canon) : StepCanon (execDivisorSwitch c s) := by
  simp only [execDivisorSwitch]
  refine stepCanon_next ?_
  split
  · exact h
  · split
    · exact h
    · exact canon_setCell h (canonical_setEngine (canon_cell h _))

theorem stepCanon_execTextPreload {c : CellId} {off : Nat} (h : s.Canon) : StepCanon (execTextPreload c off s) := by
  simp only [execTextPreload]
  refine stepCanon_next ?_
  split
  · exact h
  · split
    · exact canon_modCell h fun _ hx => canonical_putText hx
    · exact h

theorem stepCanon_execTextCacheInvalidate {c : CellId} (h : s.Canon) : StepCanon (execTextCacheInvalidate c s) := by
  simp only [execTextCacheInvalidate]
  refine stepCanon_next ?_
  split
  · exact h
  · exact canon_modCell h

theorem stepCanon_execTranslationWalk {asid : BitVec 10} {tid : BitVec 12} {tile : Nat} (h : s.Canon) :
    StepCanon (execTranslationWalk asid tid tile s) := by
  simp only [execTranslationWalk]
  refine stepCanon_next ?_
  split
  · exact h
  · split
    · exact h
    · split
      · split
        · exact h
        · exact canon_cacheLeaf h
      · split
        · exact canon_cacheDesc h
        · exact canon_cacheLeaf (canon_cacheDesc h)

/-! ## Machine/Gangs.lean -/

theorem canon_noteLoad (h : s.Canon) : s.noteLoad.Canon := h

theorem canon_addBallast {cells : List CellId} {avg : Nat} (h : s.Canon) : (s.addBallast cells avg).Canon := by
  simp only [State.addBallast]
  split <;> exact h

theorem stepCanon_execBallastDecay (h : s.Canon) : StepCanon (execBallastDecay s) := by
  simp only [execBallastDecay]
  refine stepCanon_next ?_
  split <;> exact h

theorem canon_freeGang {g : GangId} (h : s.Canon) : (s.freeGang g).Canon := by
  simp only [State.freeGang]
  split
  · exact canon_addBallast (canon_foldl (fun _ _ hu => canon_modCell hu (fun _ hx => canonical_leave hx)) _ (canon_noteLoad h))
  · exact canon_foldl (fun _ _ hu => canon_modCell hu (fun _ hx => canonical_leave hx)) _ (canon_noteLoad h)

theorem canon_writeFault {g : GangId} {sev disp : Nat} {p : PFault} (h : s.Canon) : (s.writeFault g sev disp p).Canon := by
  simp only [State.writeFault]
  split
  · exact h
  · exact canon_modGang (canon_writeRecord h)

theorem canon_writeFaults {g : GangId} {l : List PFault} {sev disp : Nat} (h : s.Canon) : (s.writeFaults g l sev disp).Canon :=
  canon_foldl (fun _ _ hu => canon_writeFault hu) _ h

theorem canon_recordKilled {g : GangId} (h : s.Canon) : (s.recordKilled g).Canon := by
  simp only [State.recordKilled]
  refine canon_foldl (fun u a hu => ?_) _ (canon_writeFaults h)
  split
  · split
    · exact canon_writeRecord hu
    · exact hu
  · exact hu

/-! ## Machine/Freeze.lean -/

theorem stepCanon_execFreezeRequestAhead {c : CellId} {what : Ahead} {due : Nat} (h : s.Canon) : StepCanon (execFreezeRequestAhead c what due s) := by
  simp only [execFreezeRequestAhead]
  refine stepCanon_next ?_
  split
  · split
    · exact h
    · exact canon_modGang h
  · split
    · exact h
    · exact canon_modGang h
  · split
    · exact h
    · exact canon_modGang h

theorem canon_dropFaults {g : GangId} {l : List PFault} (h : s.Canon) : (s.dropFaults g l).Canon := h

theorem canon_demoteLater {asid : BitVec 10} {p : PFault} (h : s.Canon) : (s.demoteLater asid p).Canon := h

theorem canon_killForFaults {g : GangId} (h : s.Canon) : (s.killForFaults g).Canon := (canon_writeFaults h :)

theorem canon_hardwareFate {g : GangId} (h : s.Canon) : (s.hardwareFate g).Canon := by
  simp only [State.hardwareFate]
  split
  · exact h
  · split
    · exact canon_killForFaults h
    · exact canon_dropFaults (canon_foldl (fun _ _ hu => canon_demoteLater hu) _ (canon_writeFaults h))

theorem canon_forward {g : GangId} (h : s.Canon) : (s.forward g).Canon := h

theorem stepCanon_execFreezeBegin {g : GangId} (h : s.Canon) : StepCanon (execFreezeBegin g s) := by
  simp only [execFreezeBegin]
  refine stepCanon_next ?_
  split
  · exact h
  · split
    · exact canon_modGang (canon_foldl (fun _ _ hu => canon_modCell hu) _ h)
    · split
      · exact canon_writeFaults (canon_modGang (canon_foldl (fun _ _ hu => canon_modCell hu) _ h))
      · split
        · exact canon_forward (canon_modGang (canon_foldl (fun _ _ hu => canon_modCell hu) _ h))
        · split
          · exact canon_modGang (canon_foldl (fun _ _ hu => canon_modCell hu) _ h)
          · exact canon_hardwareFate (canon_modGang (canon_foldl (fun _ _ hu => canon_modCell hu) _ h))

end

/-! ## The steps of a running command (R286, R291) -/

section

variable {s : State}

theorem canon_sePerform {c : CellId} {uid : Nat} (h : s.Canon) : (sePerform c uid s).Canon := by
  simp only [sePerform]
  split
  · exact h
  · split
    · exact h
    · have hrun {m : SeCmd} : ((seWork m.op m c).run s).2.Canon := keeps_seWork s h
      split
      · exact canon_stopCmd h
      next he => exact canon_restCmd (canon_snd hrun he)
      next he => exact canon_restCmd (canon_snd hrun he)
      next he =>
        split
        · exact h
        · exact canon_modCell (canon_makeWrites (canon_snd hrun he)) fun _ hx => canonical_seFlags (canonical_putCmd hx)

theorem stepCanon_execPerformARead {c : CellId} {p : Path} {uid : Nat} (h : s.Canon) : StepCanon (execPerformARead c p uid s) := by
  simp only [execPerformARead]
  refine stepCanon_next ?_
  split
  · exact canon_cqPerform h
  · exact canon_mpPerform h
  · exact canon_sePerform h
  · exact canon_sePerform h
  · exact h

theorem canon_setOutFrames {l : List OutFrame} (h : s.Canon) : State.Canon { s with outFrames := l } := h

theorem stepCanon_execSeCommandCompletion {c : CellId} {uid : Nat} (h : s.Canon) : StepCanon (execSeCommandCompletion c uid s) := by
  have hdone {m : SeCmd} : ((s.sampleCmd c m).modCell c fun x => (x.dropCmd uid).countDone).Canon :=
    canon_modCell (canon_sampleCmd h) fun _ hx => canonical_countDone (canonical_dropCmd hx)
  simp only [execSeCommandCompletion]
  refine stepCanon_next ?_
  split
  · exact h
  · split
    · split
      · exact canon_setOutFrames hdone
      · exact canon_fresh (canon_modCell (canon_setOutFrames hdone))
    · exact h

theorem canon_finishChunk {c : CellId} {uid n : Nat} (h : s.Canon) : (finishChunk c uid n s).Canon := by
  induction n generalizing s with
  | zero => exact h
  | succ n ih =>
    simp only [finishChunk]
    split
    · exact h
    · split
      · split
        · exact h
        · exact ih (canon_sePerform h)
      · exact h

theorem canon_stopStream {c : CellId} (h : s.Canon) : (stopStream c s).Canon := canon_foldl (fun _ _ hu => canon_finishChunk hu) _ h

/-! ## The end of a gang (R346) -/

theorem canon_dropImage {id : Nat} (h : s.Canon) : (s.dropImage id).Canon :=
  canon_setImages h fun _ hi _ hx => canon_member h (List.mem_of_mem_filter hi) hx

theorem canon_setChans {l : List Chan} (h : s.Canon) : State.Canon { s with chans := l } := h

theorem canon_killGang {g : GangId} {seq : Nat} (h : s.Canon) : (s.killGang g seq).Canon := by
  refine canon_emit (canon_freeGang (canon_dropImage (canon_setChans ?_)))
  split
  · exact canon_foldl (fun _ _ hu => canon_stopStream hu) _ (canon_recordKilled h)
  · exact h

theorem stepCanon_execKillContext {g : GangId} (h : s.Canon) : StepCanon (execKillContext g s) := by
  simp only [execKillContext]
  refine stepCanon_next ?_
  split
  · exact h
  · split
    · split
      · exact h
      · exact canon_modGang h
    · split
      · exact canon_killGang h
      · split
        · exact h
        · exact canon_modGang h

/-! ## The records that a fault repeats (R354) -/

theorem gives_redoBody {i : Instr} : Gives (redoBody i) KeepsBody := by
  unfold redoBody
  split
  · exact gives_some fun _ _ => yields_bodyBndl
  · exact gives_some fun _ _ => yields_bodyQlds
  · exact gives_some fun _ _ => yields_bodyQsts
  · exact gives_some fun _ _ => yields_bodyVfil
  · exact gives_some fun _ _ => yields_loadBody
  · exact gives_some fun _ _ => yields_loadBody
  · exact gives_some fun _ _ => yields_loadBody
  · exact gives_some fun _ _ => yields_loadBody
  · exact gives_some fun _ _ => yields_loadBody
  · exact gives_some fun _ _ => yields_passBody
  · exact gives_some fun _ _ => yields_passBody
  · exact gives_some fun _ _ => yields_passBody
  · exact gives_some fun _ _ => yields_passBody
  · exact gives_some fun _ _ => yields_passBody
  · exact gives_some fun _ _ => yields_passBody
  · exact gives_some fun _ _ => yields_bindRows
  · exact gives_some fun _ _ => yields_bindRows
  · exact gives_some fun _ _ => yields_bodyBindm
  · exact gives_some fun _ _ => yields_crdBody
  · exact gives_some fun _ _ => yields_crdBody
  · exact gives_some fun _ _ => yields_bodyCzero
  · exact gives_some fun _ _ => yields_bodyCrel
  · exact gives_some fun _ _ => yields_bodyCrell
  · exact gives_some fun _ _ => yields_bodyCspl
  · exact gives_some fun _ _ => yields_bodyCfil
  · exact gives_some fun _ _ => yields_cfilRows
  · exact gives_some fun _ _ => yields_cfilRows
  · exact gives_some fun _ _ => yields_bodyCstat
  · exact gives_some fun _ _ => yields_bodyClbl
  · exact gives_some fun _ _ => yields_bodyClblR
  · exact gives_some fun _ _ => yields_bodyCcpy
  · exact gives_some fun _ _ => yields_bodyCscal
  · exact gives_some fun _ _ => yields_bodyCadd
  · exact gives_some fun _ _ => yields_reduceBody
  · exact gives_some fun _ _ => yields_reduceBody
  · exact gives_some fun _ _ => yields_bodyTstart
  · exact gives_some fun _ _ => yields_bodyMflg
  · exact gives_some fun _ _ => yields_bodyMflgC
  · exact gives_none

theorem canon_redoOne {p : PFault} {i : Instr} {cc : Cc} {body : Ctx → State → Except Flt State} {k tick : Nat} (h : s.Canon)
    (hb : KeepsBody body) : (redoOne p i cc body k tick s).1.Canon := by
  have hset : (({ s with curCell := p.cell, curEng := p.eng }.modGang (s.gidOf p.cell) fun y => { y with tick := tick }).modCell p.cell fun x =>
      { x with cc := cc }).Canon := canon_modCell (canon_modGang (canon_setWho h))
  simp only [redoOne]
  split
  next ht => exact canon_modGang (canon_modCell (hb _ _ hset _ ht))
  · exact canon_modGang (canon_fault h)

theorem canon_redoFrom {p : PFault} {i : Instr} {cc : Cc} {body : Ctx → State → Except Flt State} {n step fuel k : Nat} (h : s.Canon)
    (hb : KeepsBody body) : (redoFrom p i cc body n step fuel k s).Canon := by
  induction fuel generalizing k s with
  | zero => exact h
  | succ fuel ih =>
    unfold redoFrom
    extract_lets k0 tick
    split
    · exact h
    · split
      · exact canon_modCell h fun _ hx => canonical_setEngine hx
      · split
        · exact ih (canon_redoOne h hb)
        · exact canon_redoOne h hb

theorem canon_resumeFault {p : PFault} (h : s.Canon) : (s.resumeFault p).Canon := by
  have hyop : (match p.yop with
      | some op => s.modCell p.cell fun x => { x with ord := { x.ord with yp := op :: x.ord.yp } }
      | none => s).Canon := by
    split
    · exact canon_modCell h
    · exact h
  unfold State.resumeFault
  split
  · exact h
  · dsimp only
    split
    · exact canon_modCell hyop
    · split
      next he => exact canon_redoFrom hyop (gives_redoBody _ he)
      · exact hyop
    · exact hyop

end

end Sys2Proof.Machine
end

section
/-! SUPPORT. The canonical form under the events of the device: windows, images, tasks, management, the debugger, stores and frames. -/

-- in parallel these many small proofs need more threads than the check allows
set_option Elab.async false

namespace Sys2Proof.Machine

section

variable {s : State}

/-! ## Machine/Freeze.lean -/

theorem canon_saveHere {g : GangId} {why : SaveCause} (h : s.Canon) : (s.saveHere g why).Canon := h

theorem canon_letGo {g : GangId} {l : List PFault} (h : s.Canon) : (s.letGo g l).Canon := h

theorem canon_dispose {g : GangId} {d : Choice} (h : s.Canon) : (s.dispose g d).Canon := by
  simp only [State.dispose]
  split
  · exact canon_hardwareFate h
  · refine canon_foldl (fun u a hu => ?_) _ (canon_letGo (canon_dropFaults (canon_writeFaults h)))
    refine canon_resumeFault ?_
    split
    · exact canon_demoteLater hu
    · exact hu
  · exact canon_saveHere (canon_writeFaults h)
  · exact canon_killForFaults h
  · exact canon_writeFaults h

theorem stepCanon_execFaultDisposition {g : GangId} {d : Choice} (h : s.Canon) : StepCanon (execFaultDisposition g d s) := by
  simp only [execFaultDisposition]
  refine stepCanon_next ?_
  split
  · exact canon_dispose h
  · exact h

theorem stepCanon_execForwardingTimeout {g : GangId} (h : s.Canon) : StepCanon (execForwardingTimeout g s) := by
  simp only [execForwardingTimeout]
  refine stepCanon_next ?_
  split
  · exact h
  · split
    · exact h
    · exact canon_emit h

theorem canon_replayPass {c : CellId} {slot : Fin 16} {o : MeOp} (h : s.Canon) : (replayPass c slot s o).Canon := by
  simp only [replayPass]
  split
  · refine canon_modCell (canon_foldl ?_ _ h) ?_
    · intro u a hu
      split
      · exact hu
      · refine canon_foldl (fun u a hu' => ?_) _ hu
        refine canon_modCell hu' ?_
        exact fun _ hx => canonical_setCr hx (Crema.canon_applyLand (canonical_cr hx))
    · exact fun _ hx => canonical_setCr hx (Crema.canon_applyLand (canonical_cr hx))
  · refine canon_foldl (fun u a hu => ?_) _ h
    split
    · exact hu
    · refine canon_foldl (fun u a hu' => ?_) _ hu
      refine canon_modCell hu' ?_
      exact fun _ hx => canonical_setCr hx (Crema.canon_applyLand (canonical_cr hx))

theorem canon_setWin {c : CellId} {w : Window} (h : s.Canon) : (s.setWin c w).Canon := canon_modCell h

theorem canon_windowError {c : CellId} {w : Window} {r : ErrRec} (h : s.Canon) : (s.windowError c w r).Canon := by
  simp only [State.windowError]
  split
  · exact canon_request (canon_setWin (canon_writeRecord h))
  · exact canon_modGang (canon_writeRecord (canon_writeRecord h))

theorem canon_reloadHeld {c : CellId} (h : s.Canon) : (reloadHeld c s).Canon := canon_modCell h

/-! ## Machine/Saves.lean -/

theorem canon_requestSave {g : GangId} {why : SaveCause} (h : s.Canon) : (s.requestSave g why).Canon := by
  simp only [State.requestSave]
  split
  · split
    · exact canon_saveHere h
    · exact canon_modGang h
  · exact h

theorem stepCanon_execSaveRequest {g : GangId} {why : SaveCause} (h : s.Canon) : StepCanon (execSaveRequest g why s) :=
  stepCanon_next (canon_requestSave h)

theorem canonical_unissue {x : Cell} (hx : x.canonical = true) : x.unissue.canonical = true := hx

theorem canon_freshRegion {frames members : Nat} (h : s.Canon) : (s.freshRegion frames members).2.Canon := h

theorem canonical_cleanTiles {x : Cell} (hx : x.canonical = true) : x.cleanTiles.canonical = true := hx

theorem canon_readyHead {q : Fin 64} {r : Ready} (h : s.Canon) : (s.readyHead q r).Canon := h

theorem stepCanon_execInboundToImage {img : Nat} (h : s.Canon) : StepCanon (execInboundToImage img s) := by
  simp only [execInboundToImage]
  refine stepCanon_next ?_
  split
  · exact h
  · exact canon_tryWrite h

/-! ## Windows replayed (R346) -/

theorem canon_windowBase {c : CellId} {w : Window} {slot : Fin 16} (h : s.Canon) : (windowBase c w slot s).Canon := by
  refine canon_modCell h fun x hx => ?_
  have hcleared : (x.cr.clearSlot slot).Canon := Crema.canon_clearSlot (canonical_cr hx)
  dsimp only
  split
  · exact canonical_setCr hx hcleared
  · split
    · exact canonical_setCr hx hcleared
    · exact canonical_setCr hx (List.foldlRecOn (motive := Crema.Canon) _ _ hcleared fun _ h _ _ => Crema.canon_putAt h)

theorem canon_rebuildWindow {c : CellId} {w : Window} {slot : Fin 16} (h : s.Canon) : (rebuildWindow c w slot s).Canon :=
  canon_reloadHeld (canon_foldl (fun _ _ hu => canon_replayPass hu) _ (canon_windowBase (canon_modCell h)))

theorem stepCanon_execWindowReplay {c : CellId} (h : s.Canon) : StepCanon (execWindowReplay c s) := by
  simp only [execWindowReplay]
  refine stepCanon_next ?_
  split
  · exact h
  · split
    · split
      · exact h
      · split
        · exact canon_setWin h
        · exact canon_writeRecord (canon_setWin (canon_rebuildWindow h))
    · exact canon_windowError h

/-! ## Contexts saved (R161–R168) -/

theorem canon_finishPass {c : CellId} {uid n : Nat} (h : s.Canon) : (finishPass c uid n s).Canon := by
  induction n generalizing s with
  | zero => exact h
  | succ n ih =>
    simp only [finishPass]
    split
    · exact h
    · split
      · exact ih (canon_meStep h)
      · exact h

theorem canon_finishPasses {c : CellId} (h : s.Canon) : (finishPasses c s).Canon :=
  canon_modCell (canon_foldl (fun _ _ hu => canon_finishPass hu) _ h) fun _ hx => canonical_foldl (fun _ _ hy => canonical_settle hy) _ hx

/-- Every member of an image is in canonical form. -/
def Image.Canon (i : Image) : Prop := ∀ x ∈ i.members, x.canonical = true

theorem canon_image {p : Image → Bool} {i : Image} (h : s.Canon) (hi : s.images.find? p = some i) : i.Canon :=
  fun _ hx => canon_member h (List.mem_of_find?_eq_some hi) hx

/-- A state with the same memory and cells, and canonical images. -/
theorem canon_withImages {t : State} (h : s.Canon) (hi : ∀ i ∈ t.images, i.Canon) (hm : t.mem = s.mem) (hc : t.cells = s.cells) : t.Canon := by
  refine (State.canonical_iff t).mpr ⟨?_, fun c => ?_, hi⟩
  · rw [hm]
    exact canon_mem h
  · have hcell : t.cell c = s.cell c := congrArg (·[c]) hc
    rw [hcell]
    exact canon_cell h c

theorem canon_replaceImage {id : Nat} {j : Image} (h : s.Canon) (hj : j.Canon) :
    State.Canon { s with images := s.images.map fun k => if k.id = id then j else k } :=
  canon_mapImages h fun i hi => by
    split
    · exact hj
    · exact hi

theorem canon_addImage {j : Image} {u : Nat} (h : s.Canon) (hj : j.Canon) : State.Canon { s with images := s.images ++ [j], uid := u } := by
  have himages : State.Canon { s with images := s.images ++ [j] } := canon_setImages h fun i hi => by
    obtain hi | hi := List.mem_append.mp hi
    · exact fun _ hx => canon_member h hi hx
    · rw [List.mem_singleton.mp hi]
      exact hj
  exact himages

theorem canon_modImage {id : Nat} {f : Image → Image} (h : s.Canon) (hf : ∀ i, i.Canon → (f i).Canon := by exact fun _ hi => hi) :
    (s.modImage id f).Canon :=
  canon_mapImages h fun i hi => by
    split
    · exact hf i hi
    · exact hi

theorem canon_openImage {x : Gang} (h : s.Canon) : (s.openImage x).1.Canon := by
  simp only [State.openImage]
  split
  next he => exact canon_replaceImage h (canon_image h he :)
  · exact canon_addImage (canon_freshRegion h) fun _ hx => absurd hx List.not_mem_nil

theorem canon_setSaving {l : List FWrite} {k : List Chan} (h : s.Canon) : State.Canon { s with fabric := l, chans := k } := h

theorem stepCanon_execPreemptionStop {g : GangId} (h : s.Canon) : StepCanon (execPreemptionStop g s) := by
  have hstopped {l : List CellId} : (l.foldl (fun u c => (stopStream c (finishPasses c u)).modCell c (·.unissue)) s).Canon :=
    canon_foldl (fun _ _ hu => canon_modCell (canon_stopStream (canon_finishPasses hu)) fun _ hx => canonical_unissue hx) _ h
  simp only [execPreemptionStop]
  refine stepCanon_next ?_
  split
  · exact canon_setSaving (canon_modGang (canon_openImage hstopped))
  · exact h

theorem canon_writeMembers {g : GangId} {i : Image} (h : s.Canon) : (s.writeMembers g i).Canon := by
  refine canon_withImages h (fun k hk => ?_) rfl rfl
  obtain ⟨k, hold, rfl⟩ := List.mem_map.mp hk
  split
  · intro x hx
    obtain ⟨m, _, rfl⟩ := List.mem_map.mp hx
    split
    · exact canonical_cleanTiles (canon_cell h _)
    · exact canonical_reset
  · exact fun _ hx => canon_member h hold hx

theorem canon_writeHeader {g : GangId} {i : Image} (h : s.Canon) (hi : i.Canon) : (s.writeHeader g i).Canon :=
  canon_replaceImage (canon_modGang h) hi

theorem stepCanon_execImageWriteout {g : GangId} (h : s.Canon) : StepCanon (execImageWriteout g s) := by
  simp only [execImageWriteout]
  refine stepCanon_next ?_
  split
  · split
    · exact canon_writeMembers h
    · exact h
  next he => exact canon_writeHeader h (canon_image h he)
  · exact h

theorem canon_discardImage {id : Nat} (h : s.Canon) : (s.discardImage id).Canon := by
  have himages : State.Canon { s with images := s.images.filter fun i => decide (i.id ≠ id) } :=
    canon_setImages h fun _ hi _ hx => canon_member h (List.mem_of_mem_filter hi) hx
  exact himages

theorem canon_filed {x : Gang} {id : Nat} (h : s.Canon) : (s.filed x id).Canon := by
  simp only [State.filed]
  split
  · exact canon_modImage h
  · exact h
  · exact canon_readyHead h

theorem canon_writeCommit {g : GangId} {i : Image} (h : s.Canon) : (s.writeCommit g i).Canon :=
  canon_engineDelta (canon_modImage (canon_modGang h))

theorem canon_endSave {g : GangId} {i : Image} (h : s.Canon) : (s.endSave g i).Canon := by
  simp only [State.endSave]
  split
  · exact canon_killGang (canon_discardImage (canon_writeRecord h))
  · split
    · exact canon_killGang (canon_discardImage h)
    · exact canon_filed (canon_freeGang (canon_modImage h))

theorem stepCanon_execCommitRecord {g : GangId} (h : s.Canon) : StepCanon (execCommitRecord g s) := by
  simp only [execCommitRecord]
  refine stepCanon_next ?_
  split
  · split
    · exact canon_killGang (canon_discardImage (canon_writeRecord h))
    · exact canon_writeCommit h
  · split
    · exact h
    · exact canon_endSave h
  · exact h

/-! ## Machine/Saves.lean -/

theorem canonical_restoreOn {x : Cell} {g : GangId} {last : Option (BitVec 10)} {img : Nat} (hx : x.canonical = true) :
    (x.restoreOn g last img).canonical = true := hx

theorem canon_emergencyEnd (h : s.Canon) : s.emergencyEnd.Canon := by
  simp only [State.emergencyEnd]
  split
  · exact canon_halt h
  · exact h

theorem canonical_reref {x : Cell} {old : Gang} {graph : Nat} (hx : x.canonical = true) : (x.reref old graph).canonical = true := hx

theorem stepCanon_execReturnTask {img : Nat} (h : s.Canon) : StepCanon (execReturnTask img s) := by
  simp only [execReturnTask]
  refine stepCanon_next ?_
  split
  · split
    · exact canon_readyHead (canon_modImage h)
    · exact h
  · exact h

theorem canon_killImage {i : Image} {seq : Nat} (h : s.Canon) : (s.killImage i seq).Canon := by
  simp only [State.killImage]
  refine canon_emit (canon_discardImage ?_)
  refine canon_foldl (fun u a hu => ?_) _ h
  split
  · exact hu
  · exact canon_writeRecord hu

theorem stepCanon_execKillTask {img : Nat} (h : s.Canon) : StepCanon (execKillTask img s) := by
  simp only [execKillTask]
  refine stepCanon_next ?_
  split
  · split
    · exact canon_killImage h
    · exact h
  · exact canon_emit h
  · exact h

theorem stepCanon_execPinRegion {img : Nat} (h : s.Canon) : StepCanon (execPinRegion img s) := stepCanon_next (canon_modImage h)

/-! ## Machine/Sched.lean -/

theorem canon_modNode {h' i : Nat} {f : Node → Node} (h : s.Canon) : (s.modNode h' i f).Canon := h

theorem yields_countAt {die : Fin 2} {a b : Nat} (h : s.Canon) : Yields (s.countAt die a b) State.Canon := by
  simp only [State.countAt]
  split
  · exact yields_error _
  · split
    · exact yields_error _
    · split
      · exact yields_error _
      · exact yields_ok (canon_lineWrite (canon_takeLine h))

theorem canon_succStep {h' j : Nat} (h : s.Canon) : (s.succStep h' j).Canon := by
  simp only [State.succStep]
  split
  · split
    · exact canon_makeReady (canon_modNode h)
    · exact canon_modNode h
  · exact canon_modNode h

theorem canon_collapseFor {frame : Nat} (h : s.Canon) : (s.collapseFor frame).Canon := by
  simp only [State.collapseFor]
  split
  · exact canon_startCollapse h
  · exact h

theorem canon_finishNode {graph node : Nat} {n : Node} (h : s.Canon) : (s.finishNode graph node n).Canon := by
  simp only [State.finishNode]
  refine canon_foldl (fun _ _ hu => canon_succStep hu) _ ?_
  split
  · exact canon_emit (canon_modNode h)
  · exact canon_modNode h

theorem canon_keepFor {r : Ready} {victims : List GangId} (h : s.Canon) : (s.keepFor r victims).Canon := by
  simp only [State.keepFor]
  split <;> exact h

theorem canon_modQueue {q : Fin 64} {f : SQueue → SQueue} (h : s.Canon) : (s.modQueue q f).Canon := h

theorem canon_reportBlock {q : Fin 64} (h : s.Canon) : (s.reportBlock q).Canon := by
  simp only [State.reportBlock]
  split
  · split
    · exact canon_modQueue h
    · split
      · exact h
      · exact canon_emit (canon_modQueue h)
  · split
    · exact canon_modQueue h
    · split
      · exact h
      · exact canon_emit (canon_modQueue h)

theorem canon_blocked (h : s.Canon) : s.blocked.Canon := canon_foldl (fun _ _ hu => canon_reportBlock hu) _ h

theorem canon_defer {q : Fin 64} {r : Ready} (h : s.Canon) : (s.defer q r).Canon := canon_reportBlock h

theorem canon_undefer {q : Fin 64} (h : s.Canon) : (s.undefer q).Canon := h

theorem canon_returnDeferred (h : s.Canon) : s.returnDeferred.Canon := by
  simp only [State.returnDeferred]
  refine canon_foldl (fun u a hu => ?_) _ h
  split
  · exact hu
  · split
    · exact canon_modQueue hu
    · split
      · split
        · exact canon_undefer hu
        · exact hu
      · exact hu

theorem canon_popReady {q : Fin 64} {r : Ready} (h : s.Canon) : (s.popReady q r).Canon := h

theorem canon_dispatch {q : Fin 64} {r : Ready} {x : Head} {o : CellId} {cells : List CellId} (h : s.Canon) : (s.dispatch q r x o cells).Canon := by
  simp only [State.dispatch]
  refine canon_foldl ?_ _ (canon_modQueue (canon_popReady h))
  exact fun _ _ hu => canon_modCell hu

theorem stepCanon_execQuantumExpiry {g : GangId} (h : s.Canon) : StepCanon (execQuantumExpiry g s) := by
  simp only [execQuantumExpiry]
  refine stepCanon_next ?_
  split
  · split
    · exact canon_requestSave h
    · exact canon_modGang (canon_modQueue h)
  · exact h

theorem canon_setKept {l : List Kept} (h : s.Canon) : State.Canon { s with kept := l } := h

theorem canon_putBack {g : GangId} (h : s.Canon) : (s.putBack g).Canon := by
  simp only [State.putBack]
  split
  · exact canon_modQueue (canon_freeGang h)
  · exact canon_setKept (canon_modQueue (canon_freeGang h))

theorem canon_beginTask {g : GangId} {n : Node} {p : Binary × Nat × Variant × List InitEntry} (h : s.Canon) : (s.beginTask g n p).Canon :=
  canon_foldl (fun _ _ hu => canon_modCell hu) _ (canon_setGang (canon_foldl (fun _ _ hu =>
    canon_setCell hu (canonical_foldl (fun _ _ hx => canonical_initEntry hx) _ (canonical_begin_ (canon_cell h _)))) _ h))

theorem canon_refuseLaunch {g : GangId} {code : Nat} (h : s.Canon) : (s.refuseLaunch g code).Canon := (canon_freeGang h :)

theorem stepCanon_execTileTaskStart {g : GangId} (h : s.Canon) : StepCanon (execTileTaskStart g s) := by
  simp only [execTileTaskStart]
  refine stepCanon_next ?_
  split
  · exact h
  · split
    · exact canon_putBack h
    · split
      · exact h
      · split
        · exact canon_freeGang h
        · split
          · exact canon_refuseLaunch h
          · exact canon_beginTask h

theorem stepCanon_execQcfgWrite {q : Fin 64} {v : BitVec 64} (h : s.Canon) : StepCanon (execQcfgWrite q v s) := by
  simp only [execQcfgWrite]
  refine stepCanon_next ?_
  split
  · exact h
  · exact canon_modQueue h

theorem stepCanon_execPwrcfgWrite {v : BitVec 64} (h : s.Canon) : StepCanon (execPwrcfgWrite v s) :=
  stepCanon_next (canon_blocked h)

theorem stepCanon_execSetlim {mw : Nat} (h : s.Canon) : StepCanon (execSetlim mw s) := stepCanon_next (canon_emit (canon_blocked h))

theorem canon_setFuncmode {v : BitVec 64} (h : s.Canon) : State.Canon { s with funcmode := v } := h

theorem stepCanon_execFuncmodeWrite {v : BitVec 64} (h : s.Canon) : StepCanon (execFuncmodeWrite v s) :=
  stepCanon_next (canon_setFuncmode h)

/-! ## Contexts restored and exported (R166–R168) -/

theorem canon_ownRegion {i : Image} (h : s.Canon) (hi : i.Canon) : (s.ownRegion i).1.Canon := by
  simp only [State.ownRegion]
  split
  · exact canon_addImage (canon_freshRegion h) hi
  · exact h

/-- A state with the same memory and cells, and images changed one by one. -/
theorem canon_changeImages {t : State} {f : Image → Image} (h : s.Canon) (hf : ∀ i, i.Canon → (f i).Canon) (hi : t.images = s.images.map f)
    (hm : t.mem = s.mem) (hc : t.cells = s.cells) : t.Canon := by
  refine canon_withImages h (fun k hk => ?_) hm hc
  rw [hi] at hk
  obtain ⟨j, hold, rfl⟩ := List.mem_map.mp hk
  exact hf j fun _ hx => canon_member h hold hx

theorem canon_restore {g : GangId} {i : Image} {v : Nat × Variant} (h : s.Canon) (hi : i.Canon) : (s.restore g i v).Canon := by
  unfold State.restore
  dsimp only
  refine canon_changeImages (s := List.foldl _ _ _) ?_ (fun j hj => ?_) rfl rfl rfl
  · refine List.foldlRecOn (motive := State.Canon) _ _ (canon_ownRegion h hi) fun u hu m hm => ?_
    obtain ⟨e, he, rfl⟩ := List.mem_map.mp hm
    dsimp only
    split
    · exact canon_setCell hu (canonical_restoreOn (hi _ (List.fst_mem_of_mem_zipIdx he)))
    · exact hu
  · split
    · exact hj
    · split
      · exact hj
      · exact hj

theorem canon_setPower {p : Power} (h : s.Canon) : State.Canon { s with power := p } := h

theorem stepCanon_execResume {img : Nat} (h : s.Canon) : StepCanon (execResume img s) := by
  refine stepCanon_next ?_
  split
  next hi =>
    split
    · exact h
    · split
      · exact canon_emit (canon_modImage (canon_freeGang h))
      · exact canon_restore (canon_setPower (canon_noteLoad h)) (canon_image h hi)
  · exact h

theorem canon_setChansQueues {l : List Chan} {q : Vector SQueue 64} (h : s.Canon) : State.Canon { s with chans := l, queues := q } := h

theorem stepCanon_execExportImage {img : Nat} (h : s.Canon) : StepCanon (execExportImage img s) := by
  simp only [execExportImage]
  refine stepCanon_next ?_
  split
  · split
    · refine canon_emergencyEnd ?_
      split
      · exact canon_setChansQueues (canon_modImage (canon_emit h))
      · exact canon_discardImage (canon_emit h)
    · exact h
  · exact h

/-- An image taken in is one whose stores are in canonical form (log entry 10). -/
theorem stepCanon_takeImport (h : s.Canon) : StepCanon (takeImport s) := by
  simp only [takeImport]
  refine stepCanon_next ?_
  split
  · exact h
  · split
    · exact h
    next hgood =>
      simp only [Bool.or_eq_true, not_or, Bool.not_eq_true', Bool.not_eq_false] at hgood
      obtain ⟨⟨⟨⟨_, hwf⟩, _⟩, _⟩, _⟩ := hgood
      refine canon_addImage (canon_freshRegion h) fun x hx => ?_
      obtain ⟨y, hy, rfl⟩ := List.mem_map.mp hx
      exact canonical_reref (List.all_eq_true.mp hwf y hy)

/-! ## Nodes and the dispatcher (R146–R160) -/

theorem gives_nodeCount {g : Graph} {i : Nat} {n : Node} (h : s.Canon) : Gives (s.nodeCount g i n) fun p => p.1.Canon := by
  simp only [State.nodeCount]
  split
  · exact gives_some h
  · split
    · exact gives_some (canon_emit h)
    · split
      · split
        · exact gives_some (canon_emit h)
        · exact gives_some (canon_emit h)
      · split
        · exact gives_none
        · split
          · exact gives_some (canon_emit h)
          next ht => exact gives_some (yields_countAt h _ ht)

theorem stepCanon_execNodeCompletion {graph node : Nat} (h : s.Canon) : StepCanon (execNodeCompletion graph node s) := by
  simp only [execNodeCompletion]
  refine stepCanon_next ?_
  split
  · split
    · exact h
    · split
      · split
        · exact h
        · exact canon_finishNode h
      · split
        · split
          · exact canon_collapseFor h
          · exact h
        next ht => exact canon_modNode (gives_nodeCount h _ ht)
        next ht => exact canon_finishNode (gives_nodeCount h _ ht)
  · exact h

theorem stepCanon_execTileTaskComplete {g : GangId} (h : s.Canon) : StepCanon (execTileTaskComplete g s) := by
  simp only [execTileTaskComplete]
  refine stepCanon_next ?_
  split
  · exact canon_freeGang (canon_setChans (canon_dropImage (canon_modNode h)))
  · exact h

theorem canon_dispatchLoop {fuel : Nat} (h : s.Canon) : (State.dispatchLoop fuel s).Canon := by
  induction fuel generalizing s with
  | zero => exact h
  | succ fuel ih =>
    simp only [State.dispatchLoop]
    split
    · exact h
    · split
      · exact h
      · split
        · exact ih (canon_modQueue h)
        · split
          · exact ih (canon_defer h)
          · split
            · exact ih (canon_dispatch h)
            · split
              · exact canon_foldl (fun _ _ hu => canon_requestSave hu) _ (canon_keepFor h)
              · exact canon_keepFor h

theorem stepCanon_execDispatcherRun (h : s.Canon) : StepCanon (execDispatcherRun s) := by
  refine stepCanon_next ?_
  split
  · exact h
  · exact canon_blocked (canon_dispatchLoop (canon_returnDeferred h))

/-! ## Machine/Mgmt.lean -/

theorem canon_modMonitor {m : Fin 64} {f : Monitor → Monitor} (h : s.Canon) : (s.modMonitor m f).Canon := h

theorem stepCanon_execMonitorConfigWrite {m : Fin 64} {v : BitVec 64} (h : s.Canon) : StepCanon (execMonitorConfigWrite m v s) :=
  stepCanon_next (canon_modMonitor h)

theorem stepCanon_execMonitorSample {src : BitVec 4} {c : CellId} {asid : BitVec 10} {v : Nat} (h : s.Canon) :
    StepCanon (execMonitorSample src c asid v s) :=
  stepCanon_next (canon_sample h)

theorem stepCanon_execMonitorRead {m : Fin 64} (h : s.Canon) : StepCanon (execMonitorRead m s) := stepCanon_next (canon_emit h)

theorem stepCanon_execMonitorReadAndClear {m : Fin 64} (h : s.Canon) : StepCanon (execMonitorReadAndClear m s) :=
  stepCanon_next (canon_emit (canon_modMonitor h))

theorem canon_putPeer {p : Peer} (h : s.Canon) : (s.putPeer p).Canon := h

theorem canon_disown {g : GangId} (h : s.Canon) : (s.disown g).Canon := by
  simp only [State.disown]
  split
  · exact canon_hardwareFate (canon_modGang h)
  · exact canon_modGang h

theorem canon_endSession {id : Nat} (h : s.Canon) : (s.endSession id).Canon := (canon_foldl (fun _ _ hu => canon_disown hu) _ h :)

theorem stepCanon_execSessionEnd {sess : Nat} (h : s.Canon) : StepCanon (execSessionEnd sess s) :=
  stepCanon_next (canon_endSession h)

theorem canon_cryptoAnswer {kind idx : Nat} (h : s.Canon) : (s.cryptoAnswer kind idx).Canon := h

theorem stepCanon_execGetVersion (h : s.Canon) : StepCanon (execGetVersion s) := stepCanon_next (canon_emit h)

theorem stepCanon_execGetCapabilities (h : s.Canon) : StepCanon (execGetCapabilities s) := stepCanon_next (canon_emit h)

theorem stepCanon_execNegotiateAlgorithms {rsa slhdsa : Bool} (h : s.Canon) : StepCanon (execNegotiateAlgorithms rsa slhdsa s) := by
  simp only [execNegotiateAlgorithms]
  refine stepCanon_next ?_
  split <;> exact canon_emit h

theorem stepCanon_execKeyExchange {client : Nat} {mutualAuth : Bool} (h : s.Canon) : StepCanon (execKeyExchange client mutualAuth s) := by
  simp only [execKeyExchange]
  refine stepCanon_next ?_
  split <;> exact canon_emit h

theorem stepCanon_execFinish {sess : Nat} {valid : Bool} (h : s.Canon) : StepCanon (execFinish sess valid s) := by
  simp only [execFinish]
  refine stepCanon_next ?_
  split
  · split <;> exact canon_emit h
  · exact canon_emit h

theorem stepCanon_execEndSession {sess : Nat} (h : s.Canon) : StepCanon (execEndSession sess s) := by
  simp only [execEndSession]
  refine stepCanon_next ?_
  split
  · exact canon_emit (canon_endSession h)
  · exact canon_emit h

theorem stepCanon_execTelem (h : s.Canon) : StepCanon (execTelem s) := stepCanon_next (canon_emit h)

theorem stepCanon_execStatus (h : s.Canon) : StepCanon (execStatus s) := stepCanon_next (canon_emit h)

theorem stepCanon_execMctpUnknownCommand {code : BitVec 8} (h : s.Canon) : StepCanon (execMctpUnknownCommand code s) := by
  simp only [execMctpUnknownCommand]
  refine stepCanon_next ?_
  split
  · exact h
  · exact canon_emit h

theorem stepCanon_execGetVendorDefinedMessageSupport (h : s.Canon) : StepCanon (execGetVendorDefinedMessageSupport s) :=
  stepCanon_next (canon_emit h)

/-! ## Machine/Debug.lean -/

theorem canon_writeFlight {g : GangId} {c : CellId} {f : Flight} {v : Nat} (h : s.Canon) : (s.writeFlight g c f v).Canon := by
  simp only [State.writeFlight]
  split
  · exact canon_modCell h
  · exact canon_modCell h
  · exact canon_modGang h
  · exact canon_modCell h
  · exact canon_modGang h

theorem canon_applyWrite {g : GangId} {w : Nat × ImageField × Nat} (h : s.Canon) : (s.applyWrite g w).Canon := by
  simp only [State.applyWrite]
  split
  · exact h
  · split
    · split
      · exact canon_writeFlight h
      · exact h
    · split
      · exact canon_writeFlight h
      · exact canon_modCell h fun _ hx => canonical_imageWrite hx
    · exact canon_modCell h fun _ hx => canonical_debugWrite hx

theorem canon_sampleFreeze {x : Gang} (h : s.Canon) : (s.sampleFreeze x).Canon := by
  simp only [State.sampleFreeze]
  refine canon_foldl (fun u a hu => ?_) _ h
  split
  · exact canon_modCell (canon_sample hu)
  · exact canon_sample hu

theorem stepCanon_execThaw {g : GangId} (h : s.Canon) : StepCanon (execThaw g s) := by
  simp only [execThaw]
  refine stepCanon_next ?_
  split
  · exact canon_modGang (canon_foldl (fun _ _ hu => canon_applyWrite hu) _ (canon_sampleFreeze h))
  · exact h

theorem stepCanon_execDebugStop {sess : Nat} {g : GangId} (h : s.Canon) : StepCanon (execDebugStop sess g s) := by
  simp only [execDebugStop]
  refine stepCanon_next ?_
  split
  · exact canon_emit (canon_modGang h)
  · exact canon_emit h

theorem stepCanon_execStateRead {sess : Nat} {g : GangId} {m : Nat} {f : ImageField} (h : s.Canon) : StepCanon (execStateRead sess g m f s) := by
  simp only [execStateRead]
  refine stepCanon_next ?_
  split
  · split
    · split <;> exact canon_emit h
    · exact canon_emit h
  · exact canon_emit h

theorem stepCanon_execStateWrite {sess : Nat} {g : GangId} {m : Nat} {f : ImageField} {v : Nat} (h : s.Canon) :
    StepCanon (execStateWrite sess g m f v s) := by
  simp only [execStateWrite]
  refine stepCanon_next ?_
  split
  · exact canon_emit (canon_modGang h)
  · exact canon_emit h

theorem canon_debugRelease {g : GangId} (h : s.Canon) : (s.debugRelease g).Canon := by
  simp only [State.debugRelease]
  split
  · exact canon_modGang h
  · split
    · exact canon_dispose (canon_modGang h)
    · exact canon_hardwareFate (canon_modGang h)

theorem stepCanon_execDebugResume {sess : Nat} {g : GangId} (h : s.Canon) : StepCanon (execDebugResume sess g s) := by
  simp only [execDebugResume]
  refine stepCanon_next ?_
  split
  · exact canon_emit (canon_debugRelease h)
  · exact canon_emit h

theorem stepCanon_execDebugStep {sess : Nat} {g : GangId} {n : Nat} (h : s.Canon) : StepCanon (execDebugStep sess g n s) := by
  simp only [execDebugStep]
  refine stepCanon_next ?_
  split
  · exact canon_emit (canon_modGang (canon_debugRelease h))
  · exact canon_emit h

theorem canon_icinv {g : GangId} (h : s.Canon) : (s.icinv g).Canon := by
  simp only [State.icinv]
  refine canon_mapCells h fun x hx => ?_
  split
  · split <;> exact hx
  · exact hx

theorem canon_setBrk {g : GangId} {idx : Fin 8} {e : Option (Nat × RecordBits)} (h : s.Canon) : (s.setBrk g idx e).Canon :=
  canon_foldl (fun _ _ hu => canon_modCell hu) _ h

theorem stepCanon_execSetBreakpoint {sess : Nat} {g : GangId} {off : Nat} {idx : Fin 8} (h : s.Canon) :
    StepCanon (execSetBreakpoint sess g off idx s) := by
  simp only [execSetBreakpoint]
  refine stepCanon_next ?_
  split
  · split
    · exact canon_emit (canon_icinv (canon_modGang (canon_setBrk (canon_devWriteIn h))))
    · exact canon_emit h
  · exact canon_emit h

theorem stepCanon_execClearBreakpoint {sess : Nat} {g : GangId} {idx : Fin 8} (h : s.Canon) : StepCanon (execClearBreakpoint sess g idx s) := by
  simp only [execClearBreakpoint]
  refine stepCanon_next ?_
  split
  · exact canon_emit h
  · split
    · exact canon_emit h
    · split
      · refine canon_emit (canon_icinv ?_)
        split
        · exact canon_setBrk (canon_devWriteIn h)
        · exact canon_foldl (fun _ _ hu => canon_modCell hu) _ (canon_devWriteIn h)
      · exact canon_emit h

theorem gives_map {α β : Type} {P : α → Prop} {o : Option β} {f : β → α} (hf : ∀ b, P (f b)) : Gives (o.map f) P := by
  intro a ha
  obtain ⟨b, _, rfl⟩ := Option.map_eq_some_iff.mp ha
  exact hf b

theorem gives_ite {α : Type} {P : α → Prop} {p : Prop} [Decidable p] {a : α} (h : P a) : Gives (if p then some a else none) P := by
  split
  · exact gives_some h
  · exact gives_none

/-! ## Management, measurements and the cold reset (R187, R190, R191) -/

theorem gives_mgmtWrite {w : MgmtWrite} (h : s.Canon) : Gives (s.mgmtWrite w) State.Canon := by
  unfold State.mgmtWrite
  split
  · exact gives_map fun _ => canon_emit (canon_free h)
  · exact gives_map fun _ => canon_emit h
  · exact gives_ite h
  · exact gives_some h
  · exact gives_some (canon_putPeer h)
  · exact gives_some (canon_modQueue h)
  · exact gives_some h
  · exact gives_some h
  · exact gives_ite h
  · exact gives_some h
  · exact gives_ite h
  · exact gives_some h
  · exact gives_ite h

theorem stepCanon_execMgmtRegisterWrite {w : MgmtWrite} (h : s.Canon) : StepCanon (execMgmtRegisterWrite w s) := by
  refine stepCanon_next ?_
  split
  next ht => exact canon_emit (gives_mgmtWrite h _ ht)
  · exact canon_emit h

theorem canon_spdmAnswer {f : State → State} (h : s.Canon) (hf : ∀ u, u.Canon → (f u).Canon) : (s.spdmAnswer f).Canon := by
  simp only [State.spdmAnswer]
  split
  · exact canon_emit h
  · exact hf s h

theorem stepCanon_execGetDigests (h : s.Canon) : StepCanon (execGetDigests s) :=
  stepCanon_next (canon_spdmAnswer h fun _ hu => canon_foldl (fun _ _ hv => canon_cryptoAnswer hv) _ hu)

theorem stepCanon_execGetCertificate {slot : Nat} (h : s.Canon) : StepCanon (execGetCertificate slot s) := by
  refine stepCanon_next (canon_spdmAnswer h fun u hu => ?_)
  split
  · exact canon_cryptoAnswer hu
  · exact canon_emit hu

theorem stepCanon_execChallenge {nonce : BitVec 256} (h : s.Canon) : StepCanon (execChallenge nonce s) :=
  stepCanon_next (canon_spdmAnswer h fun _ hu => canon_cryptoAnswer hu)

theorem stepCanon_execGetMeasurements {idx : Nat} (h : s.Canon) : StepCanon (execGetMeasurements idx s) := by
  refine stepCanon_next (canon_spdmAnswer h fun u hu => ?_)
  split
  · exact canon_cryptoAnswer hu
  · exact canon_emit hu

theorem canon_reset : State.reset.Canon := resetCanonical

/-- What outlives a cold reset holds no store. -/
theorem canon_setOutside {p f : Nat} {i : List (Nat × Instr)} {m : List Import} {u : List (Struck × Bool)} {o : List Out} (h : s.Canon) :
    State.Canon { s with pickCtr := p, freeCtr := f, inputs := i, imports := m, upsets := u, outbox := o } := h

theorem canon_coldReset : s.coldReset.Canon := canon_setOutside canon_reset

theorem canon_setBoot {b : Option BootInput} {k : Nat} (h : s.Canon) : State.Canon { s with boot := b, stage := k } := h

theorem stepCanon_execReset (h : s.Canon) : StepCanon (execReset s) := by
  refine stepCanon_next ?_
  split
  · exact h
  · exact canon_setBoot canon_coldReset

/-! ## Machine/Board.lean -/

theorem canon_bootLeaves {b : BootInput} {stage : Nat} (h : s.Canon) : (bootLeaves b stage s).Canon := by
  simp only [bootLeaves]
  split
  · exact h
  · split <;> exact h
  · exact canon_foldl (fun _ _ hu => canon_writeRecord hu) _ h
  · exact h

theorem canon_bootStep {b : BootInput} (h : s.Canon) : (s.bootStep b).Canon := by
  simp only [State.bootStep]
  split
  · exact h
  · split
    · exact h
    · exact canon_bootLeaves h

theorem stepCanon_execDroopStretch {c : CellId} (h : s.Canon) : StepCanon (execDroopStretch c s) := by
  simp only [execDroopStretch]
  refine stepCanon_next ?_
  split
  · exact h
  · exact canon_sample h

theorem stepCanon_execForcedSlowDown {die : Fin 2} (h : s.Canon) : StepCanon (execForcedSlowDown die s) := by
  simp only [execForcedSlowDown]
  refine stepCanon_next ?_
  split
  · exact h
  · exact canon_writeRecord h

theorem stepCanon_execSlowDownReturn (h : s.Canon) : StepCanon (execSlowDownReturn s) := by
  simp only [execSlowDownReturn]
  refine stepCanon_next ?_
  split
  · exact h
  · exact canon_writeRecord h

theorem stepCanon_execFrequencyStep (h : s.Canon) : StepCanon (execFrequencyStep s) := by
  simp only [execFrequencyStep]
  refine stepCanon_next ?_
  split <;> exact h

theorem canon_killSoon {g : GangId} {seq : Nat} (h : s.Canon) : (s.killSoon g seq).Canon := by
  simp only [State.killSoon]
  split
  · exact h
  · split
    · exact canon_killGang h
    · split
      · exact h
      · exact canon_modGang h

theorem stepCanon_execThermalResponse95 {die : Fin 2} {tj : Nat} (h : s.Canon) : StepCanon (execThermalResponse95 die tj s) := by
  simp only [execThermalResponse95]
  refine stepCanon_next ?_
  split
  · exact h
  · exact canon_writeRecord h

theorem stepCanon_execThermalResponse95End {die : Fin 2} (h : s.Canon) : StepCanon (execThermalResponse95End die s) := by
  simp only [execThermalResponse95End]
  refine stepCanon_next ?_
  split
  · exact canon_writeRecord h
  · exact h

theorem canon_unplace {g : GangId} (h : s.Canon) : (s.unplace g).Canon := by
  simp only [State.unplace]
  split
  · exact canon_putBack h
  · exact canon_readyHead (canon_freeGang h)

theorem stepCanon_execThermalClamp {die : Fin 2} {tj : Nat} (h : s.Canon) : StepCanon (execThermalClamp die tj s) := by
  simp only [execThermalClamp]
  refine stepCanon_next ?_
  split
  · exact h
  · exact canon_emergencyEnd (canon_foldl (fun _ _ hu => canon_requestSave hu) _ (canon_enterLog
      (canon_foldl (fun _ _ hu => canon_unplace hu) _ (canon_noteLoad h))))

theorem stepCanon_execLinkDown {sub : Fin 8} (h : s.Canon) : StepCanon (execLinkDown sub s) := by
  simp only [execLinkDown]
  refine stepCanon_next ?_
  split
  · exact h
  · exact canon_foldl (fun _ _ hu => canon_endSession hu) _ (canon_writeRecord h)

theorem stepCanon_execLinkUp {sub : Fin 8} (h : s.Canon) : StepCanon (execLinkUp sub s) := by
  simp only [execLinkUp]
  refine stepCanon_next ?_
  split
  · exact h
  · exact canon_writeRecord h

theorem stepCanon_execAnnounceTimeout (h : s.Canon) : StepCanon (execAnnounceTimeout s) := by
  simp only [execAnnounceTimeout]
  refine stepCanon_next ?_
  split <;> exact h

theorem stepCanon_execPtpMeasurement {offset : ℤ} (h : s.Canon) : StepCanon (execPtpMeasurement offset s) := by
  simp only [execPtpMeasurement]
  refine stepCanon_next ?_
  split
  · exact canon_writeRecord h
  · split
    · split
      · exact canon_writeRecord h
      · exact h
    · exact h

/-! ## Machine/Stores.lean -/

theorem stepCanon_execScrub {stack : Fin 12} {line corrected : Nat} (h : s.Canon) : StepCanon (execScrub stack line corrected s) := by
  simp only [execScrub]
  refine stepCanon_next ?_
  split
  · exact canon_writeRecord (canon_foldl (fun _ _ hu => canon_writeRecord hu) _ h)
  · exact canon_foldl (fun _ _ hu => canon_writeRecord hu) _ h

theorem canon_killIssuer {w : Issuer} {seq : Nat} (h : s.Canon) : (s.killIssuer w seq).Canon := by
  simp only [State.killIssuer]
  split
  · exact canon_killSoon h
  · split
    · exact canon_killImage h
    · exact h
  · exact h

theorem canon_loseWrites {stack : Nat} (h : s.Canon) : (s.loseWrites stack).Canon :=
  canon_foldl (fun _ _ hu => canon_killIssuer (canon_writeRecord hu)) _ (canon_foldl (fun _ _ hu => canon_blockWrite hu) _ h)

theorem canon_loseStack {stack : Fin 12} {trig : Nat} (h : s.Canon) : (s.loseStack stack trig).Canon := by
  simp only [State.loseStack]
  split
  · exact canon_loseWrites (canon_writeRecord h)
  · split
    · exact h
    · exact canon_writeRecord h

theorem canon_strikeBank {chunk : Nat} (h : s.Canon) : (s.strikeBank chunk).Canon := by
  simp only [State.strikeBank]
  split
  · exact canon_loseStack h
  · exact h

theorem stepCanon_execStackLoss {stack : Fin 12} {trig : BitVec 2} (h : s.Canon) : StepCanon (execStackLoss stack trig s) :=
  stepCanon_next (canon_loseStack h)

theorem stepCanon_execBankDrop {b : BankId} {trig : BitVec 2} (h : s.Canon) : StepCanon (execBankDrop b trig s) := by
  simp only [execBankDrop]
  refine stepCanon_next ?_
  split
  · exact h
  · split
    · exact canon_loseStack h
    · exact (canon_writeRecord h :)

theorem canon_settleDeltas {frame : Nat} {new : Layout} (h : s.Canon) : (s.settleDeltas frame new).Canon := h

theorem canon_finishChange (h : s.Canon) : s.finishChange.Canon := by
  simp only [State.finishChange]
  split
  · exact canon_writeRecord h
  · exact h

theorem canon_moveRegions (h : s.Canon) : s.moveRegions.Canon := by
  simp only [State.moveRegions]
  refine canon_foldl (fun u a hu => ?_) _ h
  split
  · exact hu
  · exact canon_modImage (canon_freshRegion hu)

theorem canon_moveNode {f : Nat} (h : s.Canon) : (s.moveNode f).Canon := by
  simp only [State.moveNode]
  refine canon_foldl ?_ _ (canon_copyFrame h)
  exact fun _ _ hu => canon_engineDelta (canon_devWriteIn hu)

/-! ## Boot, slip and the links (R188, R397, R399, R400) -/

theorem stepCanon_execPowerOn {b : BootInput} (h : s.Canon) : StepCanon (execPowerOn b s) := by
  refine stepCanon_next ?_
  split
  · exact canon_bootStep h
  · split
    · exact h
    · exact canon_setBoot canon_coldReset

theorem canon_setPowered {b : Bool} (h : s.Canon) : State.Canon { s with powered := b } := h

theorem stepCanon_execBoardTrip : StepCanon (execBoardTrip s) := stepCanon_next (canon_setPowered canon_coldReset)

theorem canon_setWithheld {l : List CellId} (h : s.Canon) : State.Canon { s with withheld := l } := h

theorem stepCanon_execSlipDetected {p : SlipPlace} (h : s.Canon) : StepCanon (execSlipDetected p s) := by
  refine stepCanon_next ?_
  split
  · exact canon_writeRecord h
  · refine canon_setWithheld ?_
    split
    · exact canon_killSoon (canon_writeRecord (canon_free (k := 12) h))
    · exact canon_writeRecord (canon_free (k := 12) h)

/-- The state that a step goes on to, where it goes on. -/
theorem canon_goOn {r : Res} (h : s.Canon) (hr : StepCanon r) : State.Canon (match r with | .next t => t | _ => s) := by
  cases r with
  | next t => exact hr t rfl
  | _ => exact h

theorem canon_setPorts {v : Vector Port 2} (h : s.Canon) : State.Canon { s with ports := v } := h

theorem stepCanon_execPortcfgWrite {p : Fin 2} {v : BitVec 64} (h : s.Canon) : StepCanon (execPortcfgWrite p v s) := by
  unfold execPortcfgWrite
  extract_lets f split subs thru down put
  have hdown : down.Canon := by
    unfold down
    split
    · exact h
    · exact canon_foldl (fun _ _ hu => canon_goOn hu (stepCanon_execLinkDown hu)) _ h
  have hput : put.Canon := canon_setPorts hdown
  refine stepCanon_next ?_
  split
  · exact hput
  · exact canon_foldl (fun _ _ hu => canon_goOn hu (stepCanon_execLinkUp hu)) _ hput

/-! ## Blocks lost and rebuilt (R85, R90, R371–R380) -/

theorem Image.canon_poisonBlock {i : Image} {b : Nat} (hi : i.Canon) : (i.poisonBlock b).Canon := by
  simp only [Image.poisonBlock]
  split
  · exact hi
  · intro x hx
    obtain ⟨k, hk, rfl⟩ := List.mem_mapIdx.mp hx
    exact canonical_ite (canonical_poisonAt (hi _ (List.getElem_mem hk))) (hi _ (List.getElem_mem hk))

theorem canon_poisonBlock {b : Nat} (h : s.Canon) : (s.poisonBlock b).Canon :=
  canon_mapImages (canon_blockWrite h) fun _ hi => Image.canon_poisonBlock hi

theorem canon_loseBlocks {chunk : Nat} {why : Nat → Option Nat} (h : s.Canon) : (s.loseBlocks chunk why).Canon := by
  unfold State.loseBlocks
  split
  · exact h
  · exact canon_writeRecord (canon_foldl (fun _ _ hu => canon_poisonBlock hu) _ h)

theorem canon_setDeltas {l : List Delta} (h : s.Canon) : State.Canon { s with deltas := l } := h

theorem stepCanon_execChunkReconstruction {chunk : Nat} {bad : List Nat} (h : s.Canon) : StepCanon (execChunkReconstruction chunk bad s) := by
  refine stepCanon_next (canon_strikeBank ?_)
  split
  · exact canon_writeRecord (canon_setDeltas h)
  · exact canon_loseBlocks (canon_setDeltas h)

theorem canon_copyFailed {frame : Nat} (h : s.Canon) : (s.copyFailed frame).Canon := by
  simp only [State.copyFailed]
  split
  · refine canon_foldl (fun u k hu => ?_) _ h
    split
    · exact canon_loseBlocks hu
    · exact hu
  · exact h

theorem canon_setLayout {l : Layout} (h : s.Canon) : State.Canon { s with layout := l } := h

theorem stepCanon_execRestripeFrameCopy (h : s.Canon) : StepCanon (execRestripeFrameCopy s) := by
  unfold execRestripeFrameCopy
  extract_lets l
  refine stepCanon_next ?_
  split
  · split
    · exact canon_setLayout h
    · exact h
  next f new bound src t _ =>
    have ht : t.Canon := canon_unhold (canon_setLayout (canon_copyFailed (canon_settleDeltas h)))
    split
    · exact canon_finishChange ht
    · exact ht

theorem canon_setTables {l : List TTable} (h : s.Canon) : State.Canon { s with tables := l } := h

theorem canon_moveTable {t : TTable} (h : s.Canon) : (s.moveTable t).Canon :=
  canon_setTables (canon_foldl (fun _ _ hu => canon_engineDelta (canon_devWriteIn hu)) _ (canon_free (k := 5) h))

theorem canon_moveFrame {f : Nat} (h : s.Canon) : (s.moveFrame f).Canon := by
  simp only [State.moveFrame]
  split
  · exact canon_startCollapse h
  · split
    · exact canon_startCollapse h
    · split
      · exact canon_startMigration (canon_free h)
      · split
        · exact canon_moveTable h
        · exact canon_moveNode h

theorem stepCanon_execRestripe11Stacks (h : s.Canon) : StepCanon (execRestripe11Stacks s) := by
  unfold execRestripe11Stacks
  refine stepCanon_next ?_
  split
  · exact h
  · extract_lets all src u high
    have hu : u.Canon := canon_setLayout h
    split
    · exact canon_setLayout (canon_writeRecord (canon_moveRegions h))
    · split
      · split
        · exact h
        · exact canon_writeRecord (canon_setLayout h)
      · split
        · exact hu
        · exact canon_moveFrame hu

/-! ## Machine/Frames.lean -/

theorem canon_countFault {h' : Chan} {cause : Nat} (h : s.Canon) : (s.countFault h' cause).Canon := by
  simp only [State.countFault]
  split
  · exact canon_modGang (canon_fault h)
  · split
    · exact h
    · exact canon_killImage (canon_writeRecord h)

theorem gives_chanCount {n : BitVec 10} {bytes : Nat} (h : s.Canon) : Gives (s.chanCount n bytes) State.Canon := by
  simp only [State.chanCount]
  split
  · exact gives_none
  · split
    · exact gives_none
    · split
      · exact gives_none
      · split
        · exact gives_none
        · refine gives_map fun b => ?_
          split
          · exact canon_countFault h
          · split
            · exact canon_countFault h
            · exact canon_modHolder h fun _ hx => canonical_putArrival hx

theorem canon_inboundWrite {f : Frame} {l : Loc} {op : WOp} {v : Row} {bytes : BitVec 256} {tag : Bool} (h : s.Canon) :
    (s.inboundWrite f l op v bytes tag).Canon := by
  simp only [State.inboundWrite]
  split
  · exact canon_redirect h
  · exact h

theorem canon_homeDie {a : Nat} (h : s.Canon) : (s.homeDie a).2.Canon := by
  simp only [State.homeDie]
  split <;> exact h

theorem canon_dropInbound {f : Frame} (h : s.Canon) : (s.dropInbound f).Canon := h

theorem canon_putInbound {i : Inbound} (h : s.Canon) : (s.putInbound i).Canon := h

theorem canon_ackFrame {f : Frame} {data : List Byte} (h : s.Canon) : (s.ackFrame f data).Canon := h

theorem canon_keepFrame {f : Frame} (h : s.Canon) : (s.keepFrame f).Canon := by
  simp only [State.keepFrame]
  split
  · exact h
  · split
    · exact canon_emit (canon_putInbound h)
    · exact canon_putInbound h

theorem canon_dropAnswers {i : Inbound} (h : s.Canon) : (s.dropAnswers i).Canon := h

theorem canon_dropOut {fid : Nat} (h : s.Canon) : (s.dropOut fid).Canon := h

theorem canon_modOut {fid : Nat} {g : OutFrame → OutFrame} (h : s.Canon) : (s.modOut fid g).Canon := h

theorem canon_stopSender {f : OutFrame} {x : Flt} (h : s.Canon) : (s.stopSender f x).Canon := by
  simp only [State.stopSender]
  split
  · split
    · exact canon_stopCmd h
    · exact h
  · exact h

theorem canon_loseFrame {trig : Nat} {f : OutFrame} (h : s.Canon) : (s.loseFrame trig f).Canon := by
  simp only [State.loseFrame]
  split
  · exact canon_emit h
  · split
    · exact h
    · split
      · exact canon_modImage h
      · exact canon_stopSender h

theorem canon_peerDown {dev : BitVec 12} {trig : Nat} (h : s.Canon) : (s.peerDown dev trig).Canon :=
  canon_writeRecord (canon_foldl (fun _ _ hu => canon_loseFrame hu) _ h)

theorem stepCanon_execRetransmitTimeout {fid : Nat} (h : s.Canon) : StepCanon (execRetransmitTimeout fid s) := by
  simp only [execRetransmitTimeout]
  refine stepCanon_next ?_
  split
  · exact h
  · split
    · exact h
    · split
      · exact canon_emit (canon_modOut h)
      · exact canon_peerDown h

theorem stepCanon_execPeerResetReport {dev : BitVec 12} (h : s.Canon) : StepCanon (execPeerResetReport dev s) := by
  simp only [execPeerResetReport]
  refine stepCanon_next ?_
  split
  · exact canon_peerDown h
  · exact h

/-! ## Frames (R96, R97, R309, R310, R385) -/

/-- The state that a frame's arrival leaves is in canonical form. -/
def Arrived.Canon : Arrived → Prop
  | .waits t | .goes t _ | .acked t _ => t.Canon

theorem gives_endMessage {n : BitVec 10} (h : s.Canon) : Gives (s.endMessage n) State.Canon := by
  intro t ht
  obtain ⟨_, _, ht⟩ := Option.bind_eq_some_iff.mp ht
  obtain ⟨_, _, ht⟩ := Option.bind_eq_some_iff.mp ht
  obtain ⟨_, _, rfl⟩ := Option.map_eq_some_iff.mp ht
  exact canon_modHolder h fun _ hx => canonical_putCounts hx

theorem canon_inboundBytes {f : Frame} {a : Nat} {op : WOp} {l : List Byte} {tag : Bool} (h : s.Canon) : (s.inboundBytes f a op l tag).1.Canon :=
  List.foldlRecOn (motive := fun r : State × List Nat => r.1.Canon) _ _ h fun _ hr _ _ => canon_inboundWrite hr

theorem canon_passOn {f : Frame} {dev : BitVec 12} {body : OutBody} (h : s.Canon) : (s.passOn f dev body).Canon :=
  canon_fresh (canon_sendFrameAs h)

theorem canon_readOn {i : Inbound} {a n : Nat} (h : s.Canon) : (s.readOn i a n).Canon := by
  simp only [State.readOn]
  split <;> exact h

/-- A count of a peer at a counter whose home die is known. -/
theorem canon_countFrame {die : Fin 2} {a n : Nat} {u : State} (h : s.Canon) (hu : u.Canon) :
    Arrived.Canon (match u.countAt die a n with
      | .ok t => .acked t []
      | .error k => .acked s [BitVec.ofNat 8 k]) := by
  split
  next ht => exact yields_countAt hu _ ht
  · exact h

theorem canon_performFrame {f : Frame} (h : s.Canon) : (s.performFrame f).Canon := by
  unfold State.performFrame
  split
  · split
    · exact h
    · exact canon_inboundBytes h
  · split
    · exact h
    · exact canon_inboundBytes h
  · split
    · exact h
    · split
      · split
        · exact canon_countFrame h (canon_homeDie h)
        · exact canon_passOn h
      · split
        · exact canon_collapseFor h
        · exact canon_countFrame h (canon_homeDie h)
  · split
    · exact h
    · split
      · split
        · exact canon_readOn h
        · exact canon_passOn h
      · split
        · exact h
        · exact canon_readOn h
  · split
    · exact h
    · split
      · exact h
      · split
        · exact canon_collapseFor h
        · dsimp only
          exact canon_atomPerform (canon_homeDie h)
  · split
    · exact h
    · exact h
    · exact canon_foldl (fun _ _ hu => canon_inboundWrite hu) _ h
  · split
    · exact canon_finishCollapse h
    · exact h

theorem canon_settleArrived {f : Frame} {r : Arrived} (h : r.Canon) : (settle f r).Canon := by
  cases r with
  | waits t => exact canon_keepFrame h
  | goes t i => exact canon_putInbound h
  | acked t data => exact canon_ackFrame (canon_dropInbound h)

theorem canon_writesOn {i : Inbound} {chan : Option (BitVec 10)} {bytes : Nat} (h : s.Canon) : (s.writesOn i chan bytes).Canon := by
  unfold State.writesOn
  extract_lets f ans counts
  split
  · exact h
  · split
    next t left he =>
    have ht : t.Canon := by
      refine canon_fst (P := State.Canon) ?_ he
      split
      next ht => exact canon_putInbound (Option.bind_eq_some_iff.mp ht |>.elim fun _ hb => gives_chanCount h _ hb.2)
      · exact h
      · exact h
    split
    · split
      · exact ht
      · exact canon_dropAnswers (canon_dropInbound ht)
    · split
      · exact ht
      · extract_lets u
        have hu : u.Canon := canon_ackFrame ht
        split
        · exact hu
        · exact canon_dropAnswers (canon_dropInbound hu)

theorem canon_frameOn {i : Inbound} (h : s.Canon) : (s.frameOn i).Canon := by
  simp only [State.frameOn]
  split
  · exact h
  · split
    · exact canon_writesOn h
    · exact canon_writesOn h
    · split
      · exact h
      · split
        next ht => exact canon_settleArrived (r := .acked _ _) (gives_endMessage h _ ht)
        · exact h
    · split
      · exact canon_settleArrived (canon_performFrame h)
      · exact canon_settleArrived (canon_readOn h)
    · exact canon_settleArrived (canon_performFrame h)
    · split
      · exact canon_settleArrived (r := .acked _ _) (canon_dropAnswers h)
      · exact h

theorem stepCanon_execFrameReceive {f : Frame} (h : s.Canon) : StepCanon (execFrameReceive f s) := by
  refine stepCanon_next ?_
  split
  · exact h
  · split
    · exact canon_emit h
    · split
      · split
        · exact canon_emit h
        · exact canon_frameOn h
      · exact canon_settleArrived (canon_performFrame h)

theorem canon_modSender {f : OutFrame} {g : Cell → Cell} (h : s.Canon) (hg : ∀ x, x.canonical = true → (g x).canonical = true) :
    (s.modSender f g).Canon := by
  simp only [State.modSender]
  split
  · exact canon_modCell h hg
  · refine canon_mapImages h fun i hi => ?_
    split
    · intro x hx
      obtain ⟨y, hy, rfl⟩ := List.mem_map.mp hx
      exact canonical_ite (hg _ (hi _ hy)) (hi _ hy)
    · exact hi

theorem canon_refuseMessage {f : OutFrame} (h : s.Canon) : (s.refuseMessage f).Canon := by
  refine canon_modSender h fun x hx => ?_
  split <;> exact hx

theorem stepCanon_execFrameAck {fid : Nat} {data : List Byte} (h : s.Canon) : StepCanon (execFrameAck fid data s) := by
  refine stepCanon_next ?_
  split
  · exact h
  · split
    · exact canon_modOut h
    · split
      · split
        · exact canon_modOut h
        · split
          · exact canon_refuseMessage (canon_dropOut h)
          · exact canon_dropOut h
      · split
        · exact canon_dropOut h
        · exact canon_emit (canon_dropOut h)
      · split
        · exact canon_stopSender (canon_dropOut h)
        · split
          · exact canon_dropOut h
          · exact canon_modSender (canon_dropOut h) fun _ hx => canonical_seFlags hx
          · exact canon_modOut h

end

end Sys2Proof.Machine
end

section
/-! SUPPORT. Every step keeps the canonical form: instructions, the scheduling step and the clock; it settles O60. -/

-- in parallel these many small proofs need more threads than the check allows
set_option Elab.async false

namespace Sys2Proof.Machine

section

variable {s : State}

/-! ## Machine/Farica.lean -/

theorem stepCanon_execFaricaTranslate {asid : BitVec 10} {tid : BitVec 12} {off : Nat} (h : s.Canon) :
    StepCanon (execFaricaTranslate asid tid off s) := by
  simp only [execFaricaTranslate]
  refine stepCanon_next ?_
  split
  · exact canon_emit h
  · split
    · exact canon_emit h
    · split
      · exact canon_emit h
      · split
        · exact canon_emit h
        · split <;> exact canon_emit h

/-! ## Machine/Upsets.lean -/

theorem canon_strike {x : Struck} {bad : Bool} (h : s.Canon) : (s.strike x bad).Canon := by
  simp only [State.strike]
  split
  · exact canon_modCell h
  · exact canon_dropDesc h
  · exact h
  · split <;> exact h
  · split
    · exact canon_modCell h fun _ hx => canonical_putRow hx
    · exact h
  · split
    · exact canon_modCell h fun _ hx => canonical_setCr hx (Crema.canon_putAt (canonical_cr hx))
    · exact h
  · split
    · exact canon_modCell h
    · exact h
  · split
    · exact canon_modCell h
    · exact h
  · exact canon_modCell h
  · exact canon_modCell h
  · exact canon_modCell h
  · exact canon_modCell h
  · exact canon_modCell h
  · exact canon_modCell h
  · exact canon_modCell h
  · exact canon_modCell h
  · split
    · exact canon_putCounter h
    · exact h
  · split
    · exact canon_putPhaser h
    · exact h
  · exact canon_modCell h
  · exact h

theorem stepCanon_takeUpset (h : s.Canon) : StepCanon (takeUpset s) := by
  simp only [takeUpset]
  refine stepCanon_next ?_
  split
  · exact h
  · split
    · exact h
    · split
      · refine canon_windowError ?_
        split
        · exact h
        · exact canon_strike h
      · exact canon_writeRecord (canon_strike h)

/-! ## Machine/Agenda.lean -/

theorem canon_endGangTick {g : GangId} (h : s.Canon) : (s.endGangTick g).Canon := by
  simp only [State.endGangTick]
  split
  · exact canon_modGang (canon_foldl (fun _ _ hu => canon_endTick hu) _ h)
  · exact h

theorem canon_passTime (h : s.Canon) : s.passTime.Canon := h

theorem canon_edge (h : s.Canon) : s.edge.Canon := by
  simp only [State.edge]
  refine canon_emergencyEnd (canon_passTime ?_)
  split
  · exact canon_foldl (fun _ _ hu => canon_endGangTick hu) _ h
  · exact h

/-! ## The instructions (R202–R317) -/

/-- Every instruction keeps the form: slots and records through their issue, the events through their own rules. -/
theorem stepCanon_exec (i : Instr) (h : s.Canon) : StepCanon (exec i s) := by
  cases i with
  | bndl _ => exact stepCanon_execBndl h
  | qlds _ => exact stepCanon_next (canon_issueRec h fun _ _ => yields_bodyQlds)
  | qsts _ => exact stepCanon_next (canon_issueRec h fun _ _ => yields_bodyQsts)
  | sege _ => exact stepCanon_execSege h
  | fork _ => exact stepCanon_execFork h
  | rdv _ => exact stepCanon_execRdv h
  | brk _ => exact stepCanon_execBrk h
  | nopr _ => exact stepCanon_execNopr h
  | phas _ => exact stepCanon_execPhas h
  | vnop _ => exact stepCanon_next (canon_issueRec h fun _ _ => yields_bodyVnop)
  | fadd _ | fsub _ | fmul _ | fmin _ | fmax _ | fcps _ | fdiv _ | fscal _ =>
    exact stepCanon_next (canon_issueRec h fun _ _ => yields_fp2)
  | ffma _ | ffms _ | fnma _ =>
    exact stepCanon_next (canon_issueRec h fun _ _ => yields_fp3)
  | fabs _ | fneg _ | fsqrt _ | frcp _ | frsq _ | fexp2 _ | flog2 _ | ftanh _ | ffloor _ | frint _ | ffrac _ | cvtif _ | cvtnf _ =>
    exact stepCanon_next (canon_issueRec h fun _ _ => yields_fp1)
  | fcmpeq _ | fcmplt _ | fcmple _ | fcmpun _ | icmpeq _ | icmplts _ | icmpltn _ =>
    exact stepCanon_next (canon_issueRec h fun _ _ => yields_compare)
  | fcls _ | iabs _ | iclz _ | ipopc _ | bitrev _ =>
    exact stepCanon_next (canon_issueRec h fun _ _ => yields_int1)
  | fcvtr _ | hfma _ | imad _ | isxt _ | izxt _ | badds _ | baddn _ | cvtfi _ | cvtfn _ | cvthf _ | cvt8f _ | cvt8i _ | qmax _ | qsc _
    | movv _ | vmovi _ | vsel _ | perm _ | rotm _ | bcln _ | comp _ | expd _ | lut16 _ | rsum _ | rmax _ | rmin _ | rargmx _ | scana _
    | scanm _ | histb _ | topkv _ =>
    exact stepCanon_next (canon_issueRec h fun _ _ => yields_vApply)
  | hadd _ | hmul _ | hmax _ | hmin _ =>
    exact stepCanon_next (canon_issueRec h fun _ _ => yields_bf2)
  | iadd _ | isub _ | imul _ | imulhs _ | imulhn _ | imins _ | imaxs _ | iminn _ | imaxn _ | iand _ | ior _ | ixor _ | iandn _ | ishl _
    | ishrl _ | ishra _ =>
    exact stepCanon_next (canon_issueRec h fun _ _ => yields_int2)
  | cvtfh _ | cvtf8 _ | cvti8 _ =>
    exact stepCanon_next (canon_issueRec h fun _ _ => yields_narrow)
  | kand _ | kor _ | kxor _ | knot _ | kfirst _ =>
    exact stepCanon_next (canon_issueRec h fun _ _ => yields_kOp)
  | kpopc _ => exact stepCanon_next (canon_issueRec h fun _ _ => yields_bodyKpopc)
  | kmov _ => exact stepCanon_next (canon_issueRec h fun _ _ => yields_bodyKmov)
  | kmovHi _ => exact stepCanon_next (canon_issueRec h fun _ _ => yields_bodyKmovHi)
  | tcfg _ => exact stepCanon_next (canon_issueRec h fun _ _ => yields_bodyTcfg)
  | twrr _ | twrc _ =>
    exact stepCanon_next (canon_issueRec h fun _ _ => yields_tileWrite)
  | trdr _ | trdc _ | trds _ =>
    exact stepCanon_next (canon_issueRec h fun _ _ => yields_tileRead)
  | tzero _ | trel _ =>
    exact stepCanon_next (canon_issueRec h fun _ _ => yields_tileWhole)
  | vmode _ => exact stepCanon_next (canon_issueRec h fun _ _ => yields_bodyVmode)
  | vflg _ => exact stepCanon_next (canon_issueRec h fun _ _ => yields_bodyVflg)
  | vflgC _ => exact stepCanon_next (canon_issueRec h fun _ _ => yields_bodyVflgC)
  | vspl _ => exact stepCanon_next (canon_issueRec h fun _ _ => yields_bodyVspl)
  | vfil _ => exact stepCanon_next (canon_issueRec h fun _ _ => yields_bodyVfil)
  | vclrf _ => exact stepCanon_next (canon_issueRec h fun _ _ => yields_bodyVclrf)
  | mnop _ => exact stepCanon_next (canon_issueRec h fun _ _ => yields_bodyMnop)
  | ldb _ | ldbh _ | ldbs _ | ldbt _ | ldbw _ =>
    exact stepCanon_next (canon_issueRec h fun _ _ => yields_loadBody)
  | mma _ | mmah _ | mmag _ | mmagh _ | mmas _ | mmasg _ =>
    exact stepCanon_next (canon_issueRec h fun _ _ => yields_passBody)
  | bind _ | binda _ =>
    exact stepCanon_next (canon_issueRec h fun _ _ => yields_bindRows)
  | bindm _ => exact stepCanon_next (canon_issueRec h fun _ _ => yields_bodyBindm)
  | crd _ | crdt _ =>
    exact stepCanon_next (canon_issueRec h fun _ _ => yields_crdBody)
  | czero _ => exact stepCanon_next (canon_issueRec h fun _ _ => yields_bodyCzero)
  | crel _ => exact stepCanon_next (canon_issueRec h fun _ _ => yields_bodyCrel)
  | crell _ => exact stepCanon_next (canon_issueRec h fun _ _ => yields_bodyCrell)
  | cspl _ => exact stepCanon_next (canon_issueRec h fun _ _ => yields_bodyCspl)
  | cfil _ => exact stepCanon_next (canon_issueRec h fun _ _ => yields_bodyCfil)
  | cfilF32 _ | cfilBf16 _ =>
    exact stepCanon_next (canon_issueRec h fun _ _ => yields_cfilRows)
  | cstat _ => exact stepCanon_next (canon_issueRec h fun _ _ => yields_bodyCstat)
  | clbl _ => exact stepCanon_next (canon_issueRec h fun _ _ => yields_bodyClbl)
  | clblR _ => exact stepCanon_next (canon_issueRec h fun _ _ => yields_bodyClblR)
  | ccpy _ => exact stepCanon_next (canon_issueRec h fun _ _ => yields_bodyCcpy)
  | cscal _ => exact stepCanon_next (canon_issueRec h fun _ _ => yields_bodyCscal)
  | cadd _ => exact stepCanon_next (canon_issueRec h fun _ _ => yields_bodyCadd)
  | cmaxr _ | csumr _ =>
    exact stepCanon_next (canon_issueRec h fun _ _ => yields_reduceBody)
  | cmode _ => exact stepCanon_next (canon_issueRec h fun _ _ => yields_bodyCmode)
  | tstart _ => exact stepCanon_next (canon_issueRec h fun _ _ => yields_bodyTstart)
  | tcommit _ => exact stepCanon_next (canon_issueRec h fun _ _ => yields_bodyTcommit)
  | mflg _ => exact stepCanon_next (canon_issueRec h fun _ _ => yields_bodyMflg)
  | mflgC _ => exact stepCanon_next (canon_issueRec h fun _ _ => yields_bodyMflgC)
  | snop _ | cpin _ | cpins _ | cpout _ | cprr _ | cprrPull _ | cpadd _ | cpbc _ | cpt _ | cpcv _ | cpq _ | cpmask _ | fill _ | gath _
    | scat _ | scata _ | grpf _ | grpo _ | topk _ | crds _ | metaq _ | sortk _ | cntr _ | csnap _ | nsend _ | nrecv _ | nput _ | nget _
    | natom _ | nflush _ | awrm _ | aset _ | sfence _ | waitc _ | tdld _ | tdinv _ | pgdup _ | pgmig _ | pfch _ | latq _ | sevt _ | sevtH _
    | cpchk _ | radvx _ | radvxX _ | swait _ =>
    exact stepCanon_next (canon_issueSe h fun _ _ => yields_releaseCmd)
  | pageDemotion _ _ _ _ => exact stepCanon_execPageDemotion h
  | seRelease _ => exact stepCanon_execSeRelease h
  | seCommandStart _ _ => exact stepCanon_execSeCommandStart h
  | chunkPerformed _ _ => exact stepCanon_execChunkPerformed h
  | seCommandCompletion _ _ => exact stepCanon_execSeCommandCompletion h
  | resultLanding _ => exact stepCanon_execResultLanding h
  | decisionDelivery _ => exact stepCanon_execDecisionDelivery h
  | divergenceCheck _ => exact stepCanon_execDivergenceCheck h
  | divisorSwitch _ => exact stepCanon_execDivisorSwitch h
  | textPreload _ _ => exact stepCanon_execTextPreload h
  | textCacheInvalidate _ => exact stepCanon_execTextCacheInvalidate h
  | freezeRequestAhead _ _ _ => exact stepCanon_execFreezeRequestAhead h
  | freezeBegin _ => exact stepCanon_execFreezeBegin h
  | thaw _ => exact stepCanon_execThaw h
  | recordDelivery _ => exact stepCanon_execRecordDelivery h
  | faultDisposition _ _ => exact stepCanon_execFaultDisposition h
  | forwardingTimeout _ => exact stepCanon_execForwardingTimeout h
  | drain _ => exact stepCanon_execDrain h
  | performAWrite _ => exact stepCanon_execPerformAWrite h
  | performARead _ _ _ => exact stepCanon_execPerformARead h
  | performARmw _ _ => exact stepCanon_execPerformARmw h
  | release _ => exact stepCanon_execRelease h
  | atomicPerform _ _ => exact stepCanon_execAtomicPerform h
  | yqReturnArrival _ => exact stepCanon_execYqReturnArrival h
  | movedReissue _ _ => exact stepCanon_execMovedReissue h
  | phaserPerform _ _ => exact stepCanon_execPhaserPerform h
  | yarrowRound _ _ => exact stepCanon_execYarrowRound h
  | lineWriteback _ _ => exact stepCanon_execLineWriteback h
  | parityDeltaApply _ => exact stepCanon_execParityDeltaApply h
  | translationWalk _ _ _ => exact stepCanon_execTranslationWalk h
  | cremaSpill _ => exact stepCanon_execCremaSpill h
  | cremaFill _ => exact stepCanon_execCremaFill h
  | parkedRegisterMove _ => exact stepCanon_execParkedRegisterMove h
  | windowReplay _ => exact stepCanon_execWindowReplay h
  | crdsHoldMet _ _ => exact stepCanon_execCrdsHoldMet h
  | tileTaskComplete _ => exact stepCanon_execTileTaskComplete h
  | nodeCompletion _ _ => exact stepCanon_execNodeCompletion h
  | graphSubmit _ _ _ => exact stepCanon_execGraphSubmit h
  | dispatcherRun => exact stepCanon_execDispatcherRun h
  | quantumExpiry _ => exact stepCanon_execQuantumExpiry h
  | tileTaskStart _ => exact stepCanon_execTileTaskStart h
  | ballastDecay => exact stepCanon_execBallastDecay h
  | saveRequest _ _ => exact stepCanon_execSaveRequest h
  | preemptionStop _ => exact stepCanon_execPreemptionStop h
  | imageWriteout _ => exact stepCanon_execImageWriteout h
  | commitRecord _ => exact stepCanon_execCommitRecord h
  | inboundToImage _ => exact stepCanon_execInboundToImage h
  | resume _ => exact stepCanon_execResume h
  | killContext _ => exact stepCanon_execKillContext h
  | exportImage _ => exact stepCanon_execExportImage h
  | returnTask _ => exact stepCanon_execReturnTask h
  | killTask _ => exact stepCanon_execKillTask h
  | pinRegion _ => exact stepCanon_execPinRegion h
  | qcfgWrite _ _ => exact stepCanon_execQcfgWrite h
  | pwrcfgWrite _ => exact stepCanon_execPwrcfgWrite h
  | funcmodeWrite _ => exact stepCanon_execFuncmodeWrite h
  | portcfgWrite _ _ => exact stepCanon_execPortcfgWrite h
  | monitorConfigWrite _ _ => exact stepCanon_execMonitorConfigWrite h
  | monitorSample _ _ _ _ => exact stepCanon_execMonitorSample h
  | monitorRead _ => exact stepCanon_execMonitorRead h
  | monitorReadAndClear _ => exact stepCanon_execMonitorReadAndClear h
  | mgmtRegisterWrite _ => exact stepCanon_execMgmtRegisterWrite h
  | faricaTranslate _ _ _ => exact stepCanon_execFaricaTranslate h
  | debugStop _ _ => exact stepCanon_execDebugStop h
  | stateRead _ _ _ _ => exact stepCanon_execStateRead h
  | stateWrite _ _ _ _ _ => exact stepCanon_execStateWrite h
  | setBreakpoint _ _ _ _ => exact stepCanon_execSetBreakpoint h
  | clearBreakpoint _ _ _ => exact stepCanon_execClearBreakpoint h
  | debugResume _ _ => exact stepCanon_execDebugResume h
  | debugStep _ _ _ => exact stepCanon_execDebugStep h
  | sessionEnd _ => exact stepCanon_execSessionEnd h
  | getVersion => exact stepCanon_execGetVersion h
  | getCapabilities => exact stepCanon_execGetCapabilities h
  | negotiateAlgorithms _ _ => exact stepCanon_execNegotiateAlgorithms h
  | getDigests => exact stepCanon_execGetDigests h
  | getCertificate _ => exact stepCanon_execGetCertificate h
  | challenge _ => exact stepCanon_execChallenge h
  | getMeasurements _ => exact stepCanon_execGetMeasurements h
  | keyExchange _ _ => exact stepCanon_execKeyExchange h
  | finish _ _ => exact stepCanon_execFinish h
  | endSession _ => exact stepCanon_execEndSession h
  | telem => exact stepCanon_execTelem h
  | setlim _ => exact stepCanon_execSetlim h
  | reset => exact stepCanon_execReset h
  | status => exact stepCanon_execStatus h
  | mctpUnknownCommand _ => exact stepCanon_execMctpUnknownCommand h
  | getVendorDefinedMessageSupport => exact stepCanon_execGetVendorDefinedMessageSupport h
  | powerOn _ => exact stepCanon_execPowerOn h
  | droopStretch _ => exact stepCanon_execDroopStretch h
  | forcedSlowDown _ => exact stepCanon_execForcedSlowDown h
  | slowDownReturn => exact stepCanon_execSlowDownReturn h
  | frequencyStep => exact stepCanon_execFrequencyStep h
  | slipDetected _ => exact stepCanon_execSlipDetected h
  | thermalResponse95 _ _ => exact stepCanon_execThermalResponse95 h
  | thermalClamp _ _ => exact stepCanon_execThermalClamp h
  | boardTrip => exact stepCanon_execBoardTrip
  | linkDown _ => exact stepCanon_execLinkDown h
  | linkUp _ => exact stepCanon_execLinkUp h
  | announceTimeout => exact stepCanon_execAnnounceTimeout h
  | ptpMeasurement _ => exact stepCanon_execPtpMeasurement h
  | frameReceive _ => exact stepCanon_execFrameReceive h
  | frameAck _ _ => exact stepCanon_execFrameAck h
  | retransmitTimeout _ => exact stepCanon_execRetransmitTimeout h
  | peerResetReport _ => exact stepCanon_execPeerResetReport h
  | collapse _ => exact stepCanon_execCollapse h
  | invalidationAck _ _ => exact stepCanon_execInvalidationAck h
  | invalidationResend _ _ => exact stepCanon_execInvalidationResend h
  | leaseRenewal _ _ => exact stepCanon_execLeaseRenewal h
  | leaseLapse _ _ => exact stepCanon_execLeaseLapse h
  | pageMigration _ _ _ => exact stepCanon_execPageMigration h
  | handover _ _ => exact stepCanon_execHandover h
  | migrationAbandon _ => exact stepCanon_execMigrationAbandon h
  | restripeFrameCopy => exact stepCanon_execRestripeFrameCopy h
  | bankDrop _ _ => exact stepCanon_execBankDrop h
  | stackLoss _ _ => exact stepCanon_execStackLoss h
  | restripe11Stacks => exact stepCanon_execRestripe11Stacks h
  | chunkReconstruction _ _ => exact stepCanon_execChunkReconstruction h
  | scrub _ _ _ => exact stepCanon_execScrub h
  | latencyDeadline _ _ => exact stepCanon_execLatencyDeadline h
  | demotionRestore _ _ _ => exact stepCanon_execDemotionRestore h
  | thermalResponse95End _ => exact stepCanon_execThermalResponse95End h
  | readDuplication _ _ => exact stepCanon_execReadDuplication h
  | fabricSessionReopen _ => exact stepCanon_execFabricSessionReopen h
  | nop _ | add _ | sub _ | mul _ | mulhs _ | mulhn _ | madd _ | divs _ | divn _ | rems _ | remn _ | and _ | or _ | xor _ | andn _ | shl _
    | shrl _ | shra _ | rotl _ | clz _ | ctz _ | popc _ | mins _ | maxs _ | minn _ | maxn _ | abss _ | sext _ | bfex _ | bfin _ | crc32 _
    | movi _ | movh _ | mov _ | sel _ | cmpeq _ | cmpne _ | cmplts _ | cmples _ | cmpltn _ | cmplen _ | tstb _ | pand _ | por _ | pxor _
    | pnot _ | pmov _ | ldrow _ | strow _ | extl _ | insl _ | qld _ | qst _ | decide _ | check _ | trap _ | rwaitf _ | rwaite _ | radvt _
    | radvh _ | rclm _ | rstat _ | sacq _ | srel _ | aarm _ | await _ | phreg _ | phdrg _ | pharv _ | phwait _ | phaw _ | atadd _ | atinc _
    | atbadd _ | atcas _ | atswp _ | atmin _ | atmax _ | atand _ | ator _ | atxor _ | atsnap _ | ypop _ | yclm _ | fence _ | mark _
    | rdtime _ | waitt _ | setdiv _ | rdtick _ | sysr _ | sysw _ | icinv _ | tdrd _ | tdwr _ =>
    exact stepCanon_slotAlone (keeps_slotSems _ (by
      simp only [slotSems, slotSems0, slotSems1, slotSems2, slotSems3, slotSems4, slotSems5, List.mem_append, List.mem_cons, true_or,
        or_true])) h

/-! ## The scheduling step (R48) -/

/-- A step of an agent keeps the form. -/
def ActKeeps (a : Act) : Prop := ∀ u, u.Canon → StepCanon (a u)

/-- Every step that a list offers keeps the form. -/
def AllKeep (l : List Act) : Prop := ∀ a ∈ l, ActKeeps a

theorem allKeep_nil : AllKeep [] := List.forall_mem_nil _

theorem allKeep_cons {a : Act} {l : List Act} : AllKeep (a :: l) ↔ ActKeeps a ∧ AllKeep l := List.forall_mem_cons

theorem allKeep_single {a : Act} (ha : ActKeeps a) : AllKeep [a] := allKeep_cons.mpr ⟨ha, allKeep_nil⟩

theorem allKeep_append {l m : List Act} : AllKeep (l ++ m) ↔ AllKeep l ∧ AllKeep m := List.forall_mem_append

theorem allKeep_map {α : Type} {l : List α} {f : α → Act} (hf : ∀ x, ActKeeps (f x)) : AllKeep (l.map f) := by
  intro a ha
  obtain ⟨x, _, rfl⟩ := List.mem_map.mp ha
  exact hf x

theorem allKeep_flatMap {α : Type} {l : List α} {f : α → List Act} (hf : ∀ x, AllKeep (f x)) : AllKeep (l.flatMap f) := by
  intro a ha
  obtain ⟨x, _, hx⟩ := List.mem_flatMap.mp ha
  exact hf x a hx

theorem allKeep_filterMap {α : Type} {l : List α} {f : α → Option Act} (hf : ∀ x, Gives (f x) ActKeeps) : AllKeep (l.filterMap f) := by
  intro a ha
  obtain ⟨x, _, hx⟩ := List.mem_filterMap.mp ha
  exact hf x a hx

theorem allKeep_ite {p : Prop} [Decidable p] {l : List Act} (hl : AllKeep l) : AllKeep (if p then l else []) := by
  split
  · exact hl
  · exact allKeep_nil

theorem allKeep_each {g : Gang} {f : CellId → List Act} (hf : ∀ c, AllKeep (f c)) : AllKeep (g.each f) := allKeep_flatMap hf

theorem canon_setTurn {k : Turn} (h : s.Canon) : State.Canon { s with turn := k } := h

theorem actKeeps_takeTurn {c : CellId} {e : Eng} : ActKeeps (takeTurn c e) := by
  intro u hu
  refine stepCanon_next ?_
  split
  · exact hu
  · split
    · exact hu
    · split
      · exact hu
      · exact canon_setTurn (canon_modCell hu)

theorem actKeeps_ccTurn {c : CellId} : ActKeeps (ccTurn c) := by
  intro u hu
  simp only [ccTurn]
  split
  · exact stepCanon_next hu
  · exact actKeeps_takeTurn u hu

theorem actKeeps_seTurn {c : CellId} : ActKeeps (seTurn c) := by
  intro u hu
  have hturn := actKeeps_takeTurn (c := c) (e := .se) u hu
  simp only [seTurn]
  split
  next ht =>
    split
    · exact stepCanon_execSeRelease (hturn _ ht)
    · exact stepCanon_next hu
  · exact hturn

theorem allKeep_brks {c : CellId} : AllKeep (s.brks c) := by
  refine allKeep_filterMap fun e => ?_
  split
  · refine gives_some fun u hu => stepCanon_next ?_
    split
    · exact canon_brkRequest hu
    · exact hu
  · exact gives_none

theorem allKeep_aheads {c : CellId} : AllKeep (s.aheads c) := by
  simp only [State.aheads, allKeep_append, and_assoc]
  exact
    ⟨allKeep_map fun _ _ hu => stepCanon_execFreezeRequestAhead hu,
    allKeep_map fun _ _ hu => stepCanon_execFreezeRequestAhead hu,
    allKeep_map fun _ _ hu => stepCanon_execFreezeRequestAhead hu,
    allKeep_brks⟩

theorem allKeep_windowsEnding {c : CellId} : AllKeep (s.windowsEnding c) := by
  simp only [State.windowsEnding, allKeep_append]
  exact
    ⟨allKeep_ite (allKeep_cons.mpr ⟨fun _ hu => stepCanon_execPerformARead hu, allKeep_single fun _ hu => stepCanon_execDrain hu⟩),
    allKeep_map fun _ _ hu => stepCanon_execPerformAWrite hu⟩

theorem allKeep_landings {c : CellId} : AllKeep [execResultLanding c, execDivisorSwitch c, execTextCacheInvalidate c] := by
  simp only [allKeep_cons]
  exact
    ⟨fun _ hu => stepCanon_execResultLanding hu,
    fun _ hu => stepCanon_execDivisorSwitch hu,
    fun _ hu => stepCanon_execTextCacheInvalidate hu,
    allKeep_nil⟩

theorem allKeep_turns {c : CellId} : AllKeep [ccTurn c, takeTurn c .ve, takeTurn c .me, seTurn c] := by
  simp only [allKeep_cons]
  exact
    ⟨actKeeps_ccTurn, actKeeps_takeTurn, actKeeps_takeTurn, actKeeps_seTurn, allKeep_nil⟩

theorem allKeep_tickWork {g : GangId} : AllKeep (s.tickWork g) := by
  simp only [State.tickWork]
  split
  · exact allKeep_nil
  · simp only [allKeep_append, allKeep_cons, and_assoc]
    exact
      ⟨allKeep_each fun _ => allKeep_aheads,
      fun _ hu => stepCanon_execFreezeBegin hu, allKeep_nil,
      allKeep_each fun _ => allKeep_landings,
      fun _ hu => stepCanon_execDecisionDelivery hu, fun _ hu => stepCanon_execDivergenceCheck hu, allKeep_nil,
      allKeep_each fun _ => allKeep_turns,
      allKeep_each fun _ => allKeep_map fun _ _ hu => stepCanon_execPerformARead hu,
      allKeep_each fun _ => allKeep_windowsEnding,
      allKeep_each fun _ => allKeep_map fun _ _ hu => stepCanon_execLatencyDeadline hu,
      allKeep_each fun _ => allKeep_single actKeeps_takeTurn⟩

theorem allKeep_follows {g : GangId} : AllKeep (s.follows g) := by
  simp only [State.follows, allKeep_append, allKeep_cons, and_assoc]
  exact
    ⟨fun _ hu => stepCanon_execThaw hu,
    fun _ hu => stepCanon_execTileTaskComplete hu,
    allKeep_nil,
    allKeep_ite (allKeep_single fun _ hu => stepCanon_execKillContext hu),
    fun _ hu => stepCanon_execTileTaskStart hu,
    fun _ hu => stepCanon_execQuantumExpiry hu,
    fun _ hu => stepCanon_execForwardingTimeout hu,
    allKeep_nil⟩

theorem allKeep_timers : AllKeep s.timers := by
  have hleases {d : Dup} {h : Holder × Nat × Nat} {p : Prop} [Decidable p] : AllKeep
      ([execInvalidationResend d.frame h.1, execLeaseLapse d.frame h.1] ++ (if p then [execLeaseRenewal d.frame h.1] else [])) := by
    simp only [allKeep_append, allKeep_cons, and_assoc]
    exact
      ⟨fun _ hu => stepCanon_execInvalidationResend hu,
      fun _ hu => stepCanon_execLeaseLapse hu, allKeep_nil,
      allKeep_ite (allKeep_single fun _ hu => stepCanon_execLeaseRenewal hu)⟩
  simp only [State.timers, allKeep_append, allKeep_cons, and_assoc]
  exact
    ⟨allKeep_map fun _ _ hu => stepCanon_execResume hu,
    allKeep_map fun _ _ hu => stepCanon_execRetransmitTimeout hu,
    allKeep_flatMap fun _ => allKeep_flatMap fun _ => hleases,
    fun _ hu => stepCanon_execForcedSlowDown hu,
    fun _ hu => stepCanon_execForcedSlowDown hu,
    fun _ hu => stepCanon_execSlowDownReturn hu,
    fun _ hu => stepCanon_execFrequencyStep hu,
    fun _ hu => stepCanon_execBallastDecay hu, allKeep_nil⟩

theorem allKeep_forced : AllKeep s.forced := by
  simp only [State.forced, allKeep_append, and_assoc]
  exact
    ⟨allKeep_flatMap fun _ => allKeep_tickWork,
    allKeep_flatMap fun _ => allKeep_follows,
    allKeep_timers⟩

/-! ## Work that comes in any order -/

theorem allKeep_ypEvents {c : CellId} {uid : Nat} : AllKeep [execPerformARmw c uid, execAtomicPerform c uid, execPhaserPerform c uid] := by
  simp only [allKeep_cons]
  exact
    ⟨fun _ hu => stepCanon_execPerformARmw hu,
    fun _ hu => stepCanon_execAtomicPerform hu,
    fun _ hu => stepCanon_execPhaserPerform hu,
    allKeep_nil⟩

theorem allKeep_seEvents {c : CellId} {uid : Nat} : AllKeep [execSeCommandStart c uid, execPerformARead c .sp uid, execChunkPerformed c uid,
    execSeCommandCompletion c uid, execCrdsHoldMet c uid] := by
  simp only [allKeep_cons]
  exact
    ⟨fun _ hu => stepCanon_execSeCommandStart hu,
    fun _ hu => stepCanon_execPerformARead hu,
    fun _ hu => stepCanon_execChunkPerformed hu,
    fun _ hu => stepCanon_execSeCommandCompletion hu,
    fun _ hu => stepCanon_execCrdsHoldMet hu,
    allKeep_nil⟩

theorem allKeep_walks {c : CellId} {a : BitVec 10} {l : List Req} : AllKeep (l.filterMap fun r => match r.cond with
    | .translation d tid tile _ => if d = c then some (execTranslationWalk a tid tile) else none
    | _ => none) := by
  refine allKeep_filterMap fun r => ?_
  split
  · exact gives_ite fun _ hu => stepCanon_execTranslationWalk hu
  · exact gives_none

theorem allKeep_cellWork {c : CellId} : AllKeep (s.cellWork c) := by
  simp only [State.cellWork, allKeep_append, allKeep_cons, and_assoc]
  exact
    ⟨fun _ hu => stepCanon_execDrain hu,
    fun _ hu => stepCanon_execPerformARead hu,
    fun _ hu => stepCanon_execYqReturnArrival hu,
    fun _ hu => stepCanon_execCremaSpill hu,
    fun _ hu => stepCanon_execCremaFill hu,
    fun _ hu => stepCanon_execParkedRegisterMove hu,
    allKeep_nil,
    allKeep_flatMap fun _ => allKeep_ypEvents,
    allKeep_map fun _ _ hu => stepCanon_execYarrowRound hu,
    allKeep_map fun _ _ hu => stepCanon_execRelease hu,
    allKeep_flatMap fun _ => allKeep_seEvents,
    allKeep_ite (allKeep_single fun _ hu => stepCanon_execWindowReplay hu),
    allKeep_ite (allKeep_map fun _ _ hu => stepCanon_execTextPreload hu),
    allKeep_walks⟩

theorem allKeep_firmwareWork {g : GangId} : AllKeep (s.firmwareWork g) :=
  allKeep_ite (allKeep_map fun _ _ hu => stepCanon_execFaultDisposition hu)

theorem allKeep_saveWork {g : GangId} : AllKeep (State.saveWork g) := by
  simp only [State.saveWork, allKeep_cons]
  exact
    ⟨fun _ hu => stepCanon_execPreemptionStop hu,
    fun _ hu => stepCanon_execImageWriteout hu,
    fun _ hu => stepCanon_execCommitRecord hu,
    allKeep_nil⟩

theorem allKeep_dupWork : AllKeep s.dupWork := by
  refine allKeep_flatMap fun d => ?_
  simp only [allKeep_append, and_assoc]
  exact
    ⟨allKeep_ite (allKeep_single fun _ hu => stepCanon_execCollapse hu),
    allKeep_ite (allKeep_single fun _ hu => stepCanon_next (canon_finishCollapse hu)),
    allKeep_map fun _ _ hu => stepCanon_execInvalidationAck hu⟩

theorem allKeep_migWork : AllKeep s.migWork := by
  simp only [State.migWork, allKeep_append, and_assoc]
  exact
    ⟨allKeep_map fun _ _ hu => stepCanon_execPageMigration hu,
    allKeep_map fun _ _ hu => stepCanon_execHandover hu,
    allKeep_map fun _ _ hu => stepCanon_execMigrationAbandon hu⟩

theorem allKeep_layoutWork : AllKeep s.layoutWork := by
  simp only [State.layoutWork, allKeep_append, and_assoc]
  exact
    ⟨allKeep_single fun _ hu => stepCanon_execRestripeFrameCopy hu,
    allKeep_ite (allKeep_single fun _ hu => stepCanon_execRestripe11Stacks hu),
    allKeep_map fun _ _ hu => stepCanon_execDemotionRestore hu⟩

theorem allKeep_deviceWork : AllKeep s.deviceWork := by
  simp only [State.deviceWork, allKeep_append, and_assoc]
  exact
    ⟨allKeep_map fun _ _ hu => stepCanon_execPerformAWrite hu,
    allKeep_map fun _ _ hu => stepCanon_execParityDeltaApply hu,
    allKeep_map fun _ _ hu => stepCanon_execMovedReissue hu,
    allKeep_map fun _ _ hu => stepCanon_execLineWriteback hu,
    allKeep_dupWork,
    allKeep_migWork,
    allKeep_layoutWork,
    allKeep_single fun _ hu => stepCanon_execDispatcherRun hu,
    allKeep_flatMap fun _ => allKeep_map fun _ _ hu => stepCanon_execNodeCompletion hu,
    allKeep_map fun _ _ hu => stepCanon_execInboundToImage hu,
    allKeep_ite (allKeep_map fun _ _ hu => stepCanon_execExportImage hu),
    allKeep_map fun _ _ hu => stepCanon_execRecordDelivery hu,
    allKeep_map fun _ _ hu => stepCanon_next (canon_frameOn hu)⟩

theorem actKeeps_takeInput : ActKeeps takeInput := by
  intro u hu
  unfold takeInput
  split
  · exact stepCanon_next hu
  next client i rest _ =>
    have hrest : State.Canon { u with inputs := rest, asker := client } := hu
    dsimp only
    split
    · exact stepCanon_next hrest
    · split
      · exact stepCanon_exec i hrest
      · split
        · exact stepCanon_next (canon_emit hrest)
        · exact stepCanon_next hrest

theorem allKeep_boot {o : Option BootInput} : AllKeep (o.map execPowerOn).toList := by
  cases o with
  | none => exact allKeep_nil
  | some b => exact allKeep_single fun _ hu => stepCanon_execPowerOn hu

theorem allKeep_options : AllKeep s.options := by
  have hwork : AllKeep ((List.finRange 128).flatMap s.cellWork ++ (List.finRange 128).flatMap s.firmwareWork ++
      (List.finRange 128).flatMap State.saveWork ++ s.deviceWork) := by
    simp only [allKeep_append, and_assoc]
    exact
      ⟨allKeep_flatMap fun _ => allKeep_cellWork,
      allKeep_flatMap fun _ => allKeep_firmwareWork,
      allKeep_flatMap fun _ => allKeep_saveWork,
      allKeep_deviceWork⟩
  simp only [State.options, List.cons_append, allKeep_cons, allKeep_append]
  exact ⟨actKeeps_takeInput, fun _ hu => stepCanon_takeImport hu, fun _ hu => stepCanon_takeUpset hu, allKeep_boot, allKeep_ite hwork⟩

theorem stepCanon_schedule (h : s.Canon) : StepCanon (schedule s) := by
  have hoptions : AllKeep (s.options.filter s.enabled) := fun a ha => allKeep_options a (List.mem_of_mem_filter ha)
  have hforced : AllKeep (if s.up then s.forced else []) := allKeep_ite allKeep_forced
  unfold schedule
  extract_lets l k t
  have ht : t.Canon := h
  have hclock {n : Nat} : State.Canon { t with turn := .clock, debt := n } := ht
  split
  · split
    next ha => exact hoptions _ (List.mem_of_getElem? ha) t ht
    · exact stepCanon_next ht
  · split
    next ha => exact hoptions _ (List.mem_of_getElem? ha) t ht
    · split
      next ha => exact hforced _ (List.mem_of_find?_eq_some ha) t ht
      · exact stepCanon_next hclock

/-! ## The step -/

theorem stepCanon_issueWord {c : CellId} {e : Eng} {w : RecordBits} (h : s.Canon) : StepCanon (issueWord c e w s) := by
  have hissue : State.Canon { s with turn := .auto, curCell := c, curEng := e } := h
  unfold issueWord
  dsimp only
  split
  next i _ => exact stepCanon_exec i hissue
  · exact stepCanon_next (canon_rejectRecord hissue)

theorem stepCanon_step (h : s.Canon) : StepCanon (step s) := by
  have hauto : State.Canon { s with turn := .auto } := h
  unfold step
  split
  · split
    · exact stepCanon_next hauto
    · exact stepCanon_issueWord h
  · exact stepCanon_exec _ hauto
  · exact stepCanon_next (canon_edge hauto)
  · exact stepCanon_schedule h

/-- Settles O60: every arm of the step keeps the canonical form, through one rule for each operation on the state. -/
theorem stepKeepsCanonical : Obligations.StepKeepsCanonical := by
  unfold Obligations.StepKeepsCanonical
  intro s t h ht
  exact stepCanon_step h t ht

end

end Sys2Proof.Machine
end

section
/-! SUPPORT. Where the chunks of device memory lie (Translate.lean); it settles O51. -/

namespace Sys2Proof.Machine

/-- A chunk on twelve stacks: its data stack, its parity stack and its stripe (R83). -/
theorem Layout.place_twelve {l : Layout} (hmode : l.mode = 0) (hchange : l.change ≠ 2) (c : Nat) :
    l.place c = ((c / 11 % 12 + 1 + c % 11) % 12, c / 11 % 12, c / 11) := by
  have hold : l.eleven c = false := by simp [Layout.eleven, hmode, hchange]
  simp only [Layout.place, placeChunk, hold, Bool.false_eq_true, if_false]

/-- Settles O51: the placement on twelve stacks, and arithmetic modulo twelve. -/
theorem chunkPlacement : Obligations.ChunkPlacement := by
  intro l hmode hchange
  have hplace := Layout.place_twelve hmode hchange
  refine ⟨fun a => ?_, ⟨744103084031, by decide, congrArg (·.2.2) (hplace _)⟩, fun c d hstripe => ?_⟩
  · exact ⟨hplace _, fun ha => by omega⟩
  · rw [hplace, hplace]
    dsimp only
    exact ⟨by omega, fun hne => by omega⟩

end Sys2Proof.Machine
end

section
/-! SUPPORT. Failures of device memory (Stores.lean), errors of the stores that hold a context's data (Upsets.lean) and the translator's
answer (Farica.lean), one lemma for each event; they settle O50. -/

namespace Sys2Proof.Machine

/-! ## What the records and ends of contexts leave of device memory -/

/-- The same bytes, layout and struck banks of device memory at the same time. -/
structure State.SameMemory (s t : State) : Prop where
  mem : t.mem = s.mem
  layout : t.layout = s.layout
  badReads : t.badReads = s.badReads
  wall : t.wall = s.wall

namespace State.SameMemory

variable {s t u : State}

theorem refl (s : State) : s.SameMemory s := ⟨rfl, rfl, rfl, rfl⟩

theorem trans (h : s.SameMemory t) (k : t.SameMemory u) : s.SameMemory u :=
  ⟨k.mem.trans h.mem, k.layout.trans h.layout, k.badReads.trans h.badReads, k.wall.trans h.wall⟩

/-- A change that comes after another. -/
theorem after (k : t.SameMemory u) (h : s.SameMemory t) : s.SameMemory u := h.trans k

theorem foldl {α : Type} {f : State → α → State} (hf : ∀ (u : State) (a : α), u.SameMemory (f u a)) (l : List α) (s : State) :
    s.SameMemory (l.foldl f s) :=
  List.foldlRecOn (motive := s.SameMemory) l f (refl s) fun u hu a _ => hu.trans (hf u a)

theorem byte (h : s.SameMemory t) (a : Nat) : t.byte a = s.byte a := congrArg (assocGet 0 · a) h.mem

theorem emit (s : State) (o : Out) : s.SameMemory (s.emit o) := ⟨rfl, rfl, rfl, rfl⟩

theorem sendRecord (s : State) (seq : Nat) (b : RecordBits) : s.SameMemory (s.sendRecord seq b) := by
  refine foldl (fun u x => ?_) _ s
  split <;> exact ⟨rfl, rfl, rfl, rfl⟩

theorem halt (s : State) : s.SameMemory s.halt := ⟨rfl, rfl, rfl, rfl⟩

theorem stageRecord (s : State) (r : ErrRec) : s.SameMemory (s.stageRecord r) := by
  unfold State.stageRecord
  split
  · dsimp only
    split
    · exact (sendRecord _ _ _).after ⟨rfl, rfl, rfl, rfl⟩
    · exact ⟨rfl, rfl, rfl, rfl⟩
  · exact (sendRecord _ _ _).trans (halt _)

theorem enterLog (s : State) (r : ErrRec) : s.SameMemory (s.enterLog r) := by
  unfold State.enterLog
  dsimp only
  split
  · exact (sendRecord _ _ _).after ⟨rfl, rfl, rfl, rfl⟩
  · exact ⟨rfl, rfl, rfl, rfl⟩

theorem writeRecord (s : State) (r : ErrRec) : s.SameMemory (s.writeRecord r) := by
  unfold State.writeRecord
  extract_lets free t
  have ht : s.SameMemory t := by
    unfold t
    split
    · exact ⟨rfl, rfl, rfl, rfl⟩
    · split
      · exact stageRecord s r
      · exact enterLog s r
  split
  · exact ht.trans (halt t)
  · exact ht

theorem freeGang (s : State) (g : GangId) : s.SameMemory (s.freeGang g) := by
  unfold State.freeGang
  extract_lets x q n t u src v
  have hv : s.SameMemory v := by
    have hu : t.SameMemory u := foldl (f := fun (w : State) c => w.modCell c (·.leave x)) (fun _ _ => ⟨rfl, rfl, rfl, rfl⟩) _ t
    exact ⟨hu.mem, hu.layout, hu.badReads, hu.wall⟩
  split
  · unfold State.addBallast
    split
    · exact hv
    · exact ⟨hv.mem, hv.layout, hv.badReads, hv.wall⟩
  · exact hv

/-- A tile task that has not started has nothing in the stream engine to end. -/
theorem killGang_starting {g : GangId} (h : (s.gang g).status = .starting) (seq : Nat) : s.SameMemory (s.killGang g seq) := by
  have hruns : (s.gang g).runs = false := by simp [Gang.runs, h]
  simp only [State.killGang, hruns, Bool.false_eq_true, if_false]
  exact (emit _ _).after ((freeGang _ g).after ⟨rfl, rfl, rfl, rfl⟩)

theorem killSoon (s : State) (g : GangId) (seq : Nat) : s.SameMemory (s.killSoon g seq) := by
  simp only [State.killSoon]
  split
  · exact refl s
  · split
    next hst => exact killGang_starting hst seq
    · split
      · exact refl s
      · exact ⟨rfl, rfl, rfl, rfl⟩

theorem killImage (s : State) (i : Image) (seq : Nat) : s.SameMemory (s.killImage i seq) := by
  have hfaults := foldl (f := fun (u : State) (p : PFault) =>
    if p.written then u else u.writeRecord { s.faultRec p 2 4 with asid := some i.gang.asid }) (fun u p => by
      split
      · exact refl u
      · exact writeRecord u _) i.gang.faults s
  exact hfaults.trans ⟨rfl, rfl, rfl, rfl⟩

theorem killIssuer (s : State) (w : Issuer) (seq : Nat) : s.SameMemory (s.killIssuer w seq) := by
  unfold State.killIssuer
  split
  · exact killSoon s _ seq
  · split
    · exact killImage s _ seq
    · exact refl s
  · exact refl s

end State.SameMemory

/-! ## Poisoned blocks (R372, R373, R379) -/

theorem memPutMasked_none (n : Nat) : ∀ (m : Memory) (a v : Nat), memPutMasked m a v 0 n = m := by
  induction n with
  | zero => intros; rfl
  | succ n ih =>
    intro m a v
    rw [memPutMasked, if_neg (by decide)]
    exact ih m (a + 1) (v / 256)

/-- Poison alone changes no byte. -/
theorem State.blockWrite_none (s : State) (b : Nat) :
    ∃ marks lines, s.blockWrite b 0 0 true = { s with memTag := marks, lines := lines } := by
  refine ⟨markPut s.memTag b true, (s.blockWrite b 0 0 true).lines, ?_⟩
  simp only [State.blockWrite, BitVec.ofNat_eq_ofNat, BitVec.toNat_ofNat, Nat.zero_mod, memPutMasked_none, if_true]

namespace State.SameMemory

theorem blockWrite_none (s : State) (b : Nat) : s.SameMemory (s.blockWrite b 0 0 true) := by
  obtain ⟨marks, lines, h⟩ := s.blockWrite_none b
  rw [h]
  exact ⟨rfl, rfl, rfl, rfl⟩

theorem poisonBlock (s : State) (b : Nat) : s.SameMemory (s.poisonBlock b) := by
  obtain ⟨marks, lines, h⟩ := s.blockWrite_none b
  rw [State.poisonBlock, h]
  exact ⟨rfl, rfl, rfl, rfl⟩

theorem loseBlocks (s : State) (chunk : Nat) (why : Nat → Option Nat) : s.SameMemory (s.loseBlocks chunk why) := by
  unfold State.loseBlocks
  split
  · exact refl s
  · exact (foldl (fun u j => poisonBlock u _) _ s).trans (writeRecord _ _)

theorem loseWrites (s : State) (stack : Nat) : s.SameMemory (s.loseWrites stack) := by
  unfold State.loseWrites
  extract_lets at_ lost rs t u
  have ht : s.SameMemory t := ⟨rfl, rfl, rfl, rfl⟩
  have hu : t.SameMemory u := foldl (fun v d => blockWrite_none v _) lost t
  exact (ht.trans hu).trans (foldl (fun v r => (writeRecord v _).trans (killIssuer _ _ _)) rs u)

theorem copyFailed (s : State) (frame : Nat) : s.SameMemory (s.copyFailed frame) := by
  unfold State.copyFailed
  split
  · refine foldl (fun u k => ?_) _ s
    dsimp only
    split
    · exact loseBlocks u _ _
    · exact refl u
  · exact refl s

end State.SameMemory

/-! ## Lost stacks and banks (R375–R378) -/

/-- A record that enters the log is the one that `Logs` names. -/
theorem State.logs_writeRecord {s : State} {r : ErrRec} (hroom : s.log.length < 65280) (hsev : r.sev ≠ 3) :
    s.Logs (s.writeRecord r) r.cls r.sev := by
  rw [State.writeRecord_room hroom hsev]
  refine ⟨r, rfl, rfl, rfl, ?_⟩
  rw [decide_eq_false hsev]
  rfl

theorem State.badReads_loseStack (s : State) (k : Fin 12) (trig : Nat) : (s.loseStack k trig).badReads = s.badReads := by
  unfold State.loseStack
  split
  · exact ((State.SameMemory.writeRecord _ _).trans (State.SameMemory.loseWrites _ _)).badReads
  · split
    · rfl
    · exact (State.SameMemory.writeRecord s _).badReads

/-- The first loss leads to degraded mode (R378). -/
theorem State.layout_loseStack {s : State} (h : s.layout.mode = 0) (k : Fin 12) (trig : Nat) :
    (s.loseStack k trig).layout.mode = 1 ∧ (s.loseStack k trig).layout.lost = k := by
  simp only [State.loseStack, h, if_true]
  rw [((State.SameMemory.writeRecord _ _).trans (State.SameMemory.loseWrites _ _)).layout]
  exact ⟨rfl, rfl⟩

/-- Without a delta that waits nothing is lost with a stack. -/
theorem State.loseWrites_settled {s : State} (h : s.deltas = []) (stack : Nat) : s.loseWrites stack = s := by
  have hself : { s with deltas := [] } = s := by rw [← h]
  simp only [State.loseWrites, h, List.filter_nil, List.foldl_nil, lostRanges]
  exact hself

/-- The layout in which a stack is lost while no change runs. -/
theorem State.loseStack_settled {s : State} (hl : s.layout = Layout.reset) (hd : s.deltas = []) (hroom : s.log.length < 65280) (k : Fin 12)
    (trig : Nat) : s.loseStack k trig =
      ({ s with layout := { Layout.reset with mode := 1, lost := k } } : State).writeRecord (stackRec k.val trig false) := by
  have hdeltas (u : State) (r : ErrRec) (hu : u.deltas = []) (hr : u.log.length < 65280) (hsev : r.sev ≠ 3) : (u.writeRecord r).deltas = [] := by
    rw [State.writeRecord_room hr hsev]
    exact hu
  unfold State.loseStack
  simp only [hl, Layout.reset, if_true, Option.any_none, Bool.false_and, List.filter_nil, Bool.false_eq_true, if_false]
  rw [State.loseWrites_settled]
  exact hdeltas _ _ hd hroom (show 1 ≠ 3 by decide)

theorem Layout.drops_eq_nil {l : Layout} (hdropped : l.dropped = []) (hdropping : l.dropping = none) (hwaiting : l.waiting = []) :
    l.drops = [] := by
  simp [Layout.drops, hdropped, hdropping, hwaiting]

/-- The record of a dropped bank (R374). -/
def dropRec (b : BankId) (trig : BitVec 2) : ErrRec :=
  { cls := 0x24, sev := 1, unit := 9, disp := 7,
    synd := b.stack.val + b.chan.val * 16 + b.pc.val * 512 + b.bank.val * 1024 + trig.toNat * 2 ^ 16 }

/-- The first bank to be dropped while no change runs and hardware decides (R375). -/
theorem exec_bankDrop_first {s : State} {b : BankId} {trig : BitVec 2} (hmode : s.layout.mode = 0) (hdrops : s.layout.drops = [])
    (hwaiting : s.layout.waiting = []) (hmoving : s.layout.moving = false) (hfun : s.bankMode = 0) :
    exec (.bankDrop b trig) s = .next { s.writeRecord (dropRec b trig) with
      layout := { s.layout with failed := if trig = 2 then s.layout.failed ++ [b] else s.layout.failed }.startDrop b } := by
  change execBankDrop b trig s = _
  simp only [execBankDrop, hmode, hdrops, hwaiting, hmoving, hfun, ne_eq, not_true_eq_false, decide_false, Bool.false_and,
    Bool.or_false, List.contains_nil, List.any_nil, Bool.false_eq_true, if_false]
  rfl

/-! ## A chunk rebuilt, and banks struck (R372, R377) -/

/-- The record of a chunk that was rebuilt (R374). -/
def State.rebuiltRec (s : State) (chunk : Nat) : ErrRec := hbmRec 0x20 0 (2048 * chunk) (hbmSynd true false false 0 (s.lineOf chunk))

/-- The deltas queued for the parity of a chunk's stripe are applied (R372). -/
def State.settleParity (s : State) (chunk : Nat) : State :=
  { s with deltas := s.deltas.filter fun d => decide (d.parity ≠ s.layout.parityOf chunk) }

/-- A chunk of which every block can be rebuilt. -/
theorem exec_chunkReconstruction_rebuilt {s : State} {chunk : Nat} (h : ∀ k < 8, s.rebuildFails chunk [] k = none) :
    exec (.chunkReconstruction chunk []) s =
      .next (((s.settleParity chunk).writeRecord (s.rebuiltRec chunk)).strikeBank chunk) := by
  have hall : ((List.range 8).all fun k => (s.rebuildFails chunk [] k).isNone) = true :=
    List.all_eq_true.mpr fun k hk => by rw [h k (List.mem_range.mp hk)]; rfl
  change execChunkReconstruction chunk [] s = _
  simp only [execChunkReconstruction, hall, if_true]
  rfl

theorem State.SameMemory.struck {s t : State} (h : s.SameMemory t) (chunk : Nat) : t.struck chunk = s.struck chunk := by
  simp only [State.struck, h.layout, h.badReads, h.wall]

theorem State.SameMemory.banksStruck {s t : State} (h : s.SameMemory t) (chunk : Nat) : t.banksStruck chunk = s.banksStruck chunk := by
  simp only [State.banksStruck, h.struck, h.layout]

theorem State.badReads_strikeBank (s : State) (chunk : Nat) : (s.strikeBank chunk).badReads = s.struck chunk := by
  unfold State.strikeBank
  dsimp only
  split
  · exact State.badReads_loseStack _ _ _
  · rfl

theorem State.strikeBank_few {s : State} {chunk : Nat} (h : s.banksStruck chunk < 8) :
    s.strikeBank chunk = { s with badReads := s.struck chunk } := if_neg (Nat.not_le.mpr h)

/-- The eighth bank loses the stack (R377). -/
theorem State.layout_strikeBank {s : State} {chunk : Nat} (h : 8 ≤ s.banksStruck chunk) (hmode : s.layout.mode = 0) :
    (s.strikeBank chunk).layout.mode = 1 ∧ (s.strikeBank chunk).layout.lost.val = (s.layout.place chunk).1 % 12 := by
  rw [State.strikeBank, if_pos h]
  obtain ⟨hm, hl⟩ := State.layout_loseStack (s := { s with badReads := s.struck chunk }) hmode (Fin.ofNat 12 (s.layout.place chunk).1) 2
  exact ⟨hm, congrArg Fin.val hl⟩

theorem chunk_rebuilt {s : State} {chunk : Nat} (h : ∀ k < 8, s.rebuildFails chunk [] k = none) (hroom : s.log.length < 65280) :
    ∃ t, exec (.chunkReconstruction chunk []) s = .next t ∧ t.badReads = s.struck chunk ∧
      (s.banksStruck chunk < 8 → s.Logs t 0x20 0 ∧ ∀ a, t.byte a = s.byte a) ∧
      (8 ≤ s.banksStruck chunk → s.layout.mode = 0 → t.layout.mode = 1 ∧ t.layout.lost.val = (s.layout.place chunk).1 % 12) := by
  have hsame : s.SameMemory ((s.settleParity chunk).writeRecord (s.rebuiltRec chunk)) :=
    (State.SameMemory.writeRecord _ _).after ⟨rfl, rfl, rfl, rfl⟩
  refine ⟨_, exec_chunkReconstruction_rebuilt h, ?_, fun hfew => ?_, fun hmany hmode => ?_⟩
  · rw [State.badReads_strikeBank, hsame.struck]
  · rw [State.strikeBank_few (by rwa [hsame.banksStruck])]
    exact ⟨State.logs_writeRecord (s := s.settleParity chunk) (r := s.rebuiltRec chunk) hroom (show 0 ≠ 3 by decide), hsame.byte⟩
  · rw [← hsame.banksStruck] at hmany
    rw [← congrArg Layout.mode hsame.layout] at hmode
    have hlost := State.layout_strikeBank hmany hmode
    rwa [hsame.layout] at hlost

/-! ## Layout changes (R88, R380) -/

/-- Images move in their regions alone, to places of firmware's choice. -/
theorem State.moveRegions_eq (s : State) : ∃ n l, s.moveRegions = { s with freeCtr := n, images := l } := by
  refine List.foldlRecOn (motive := fun u => ∃ n l, u = { s with freeCtr := n, images := l }) _ _ ⟨s.freeCtr, s.images, rfl⟩ ?_
  rintro _ ⟨n, l, rfl⟩ i _
  dsimp only
  split
  · exact ⟨_, _, rfl⟩
  · exact ⟨_, _, rfl⟩

theorem exec_restripe11Stacks_below {s : State} (hmode : s.layout.mode = 1) (hmoving : s.layout.moving = false)
    (h : ∀ f ∈ s.allocated, f < bound11) :
    exec .restripe11Stacks s = .next { s.moveRegions.writeRecord (restripeRec 0 0) with
      layout := { s.layout with moving := true, wmark := 0, change := 2 } } := by
  have hhigh : (s.allocated.filter fun f => decide (bound11 ≤ f)) = [] :=
    List.filter_eq_nil_iff.mpr fun f hf => by simpa using h f hf
  change execRestripe11Stacks s = _
  simp only [execRestripe11Stacks, hmode, hmoving, hhigh, ne_eq, not_true_eq_false, decide_false, Bool.or_false, Bool.false_eq_true,
    if_false, if_true]

/-- A frame that is not the last of its change. -/
theorem exec_restripeFrameCopy_inside {s : State} (hmoving : s.layout.moving = true) (h11 : s.layout.wmark / 65536 + 1 < bound11)
    (hall : s.layout.wmark / 65536 + 1 < s.frames) :
    exec .restripeFrameCopy s = .next (({ (s.settleDeltas (s.layout.wmark / 65536)
      { s.layout with wmark := s.layout.wmark + 65536 }).copyFailed (s.layout.wmark / 65536) with
        layout := { s.layout with wmark := s.layout.wmark + 65536 } } : State).unhold (s.layout.wmark / 65536)) := by
  have hinside : ¬ (if s.layout.change = 2 then 10321920 else s.frames) ≤ s.layout.wmark / 65536 + 1 := by
    have : bound11 = 10321920 := rfl
    split <;> omega
  change execRestripeFrameCopy s = _
  simp only [execRestripeFrameCopy, hmoving, Bool.not_true, Bool.false_eq_true, if_false, if_neg hinside]

/-! ## Scrub (R371) -/

theorem exec_scrub_clean (s : State) (k : Fin 12) (line : Nat) : exec (.scrub k line 0) s =
    .next (if 16 ≤ assocGet 0 s.rowErrs (k.val * 2 ^ 40 + line) then
      ({ s with rowErrs := assocPut 0 s.rowErrs (k.val * 2 ^ 40 + line) 0 } : State).writeRecord
        (hbmRec 0x20 0 0 (hbmSynd false true true 0 line))
    else { s with rowErrs := assocPut 0 s.rowErrs (k.val * 2 ^ 40 + line) (assocGet 0 s.rowErrs (k.val * 2 ^ 40 + line)) }) := (rfl)

theorem exec_scrub_one {s : State} {k : Fin 12} {line : Nat} (h : assocGet 0 s.rowErrs (k.val * 2 ^ 40 + line) < 15) :
    exec (.scrub k line 1) s = .next { s.writeRecord (hbmRec 0x20 0 0 (hbmSynd false false true 0 line)) with
      rowErrs := assocPut 0 (s.writeRecord (hbmRec 0x20 0 0 (hbmSynd false false true 0 line))).rowErrs (k.val * 2 ^ 40 + line)
        (assocGet 0 s.rowErrs (k.val * 2 ^ 40 + line) + 1) } := by
  have hfew : ¬ 16 ≤ assocGet 0 s.rowErrs (k.val * 2 ^ 40 + line) + 1 := by omega
  change execScrub k line 1 s = _
  simp only [execScrub, if_neg hfew]
  rfl

/-! ## The translator's answer (R323) -/

theorem length_fBinary (h ctr : Nat) : 256 ≤ (fBinary h ctr).length := by
  simp only [fBinary, List.length_map, List.length_range]
  exact Nat.le_add_right _ _

/-- A correct module is answered: with a binary, or with FRES. -/
theorem exec_faricaTranslate_correct {s : State} {asid : BitVec 10} {tid : BitVec 12} {off h : Nat} {ws : List Nat}
    (hh : s.flatNat asid tid off 64 = some h) (hhead : fHeadBad h = false) (hws : s.fWords asid tid off (fieldOf h 96 32) = some ws)
    (hlist : fList ws 0 [] [] = none) (hne : ws ≠ []) :
    ∃ n o, exec (.faricaTranslate asid tid off) s = .next (State.emit o { s with freeCtr := n }) ∧
      ((∃ i < ws.length, o = .faricaCode 5 i) ∨ ∃ l, o = .faricaBinary l ∧ 256 ≤ l.length) := by
  change ∃ n o, execFaricaTranslate asid tid off s = _ ∧ _
  simp only [execFaricaTranslate, hh, hhead, hws, hlist, Bool.false_eq_true, if_false]
  by_cases hfits : (State.free 17 s).1.toNat % 2 = 1
  · rw [if_pos hfits]
    exact ⟨s.freeCtr + 1, _, rfl, Or.inl ⟨_, Nat.mod_lt _ (List.length_pos_iff.mpr hne), rfl⟩⟩
  · rw [if_neg hfits]
    exact ⟨s.freeCtr + 2, _, rfl, Or.inr ⟨_, rfl, length_fBinary _ _⟩⟩

/-! ## An error in a scratchpad row (R370, R371) -/

/-- A mark set is set, and the others stay. -/
theorem markHas_markPut_true (m : Marks) (a b : Nat) : markHas (markPut m a true) b = (decide (b = a) || markHas m b) := by
  induction m with
  | nil => simp [markPut, markHas]
  | cons x l ih =>
    simp only [markHas] at ih
    simp only [markPut, if_true]
    split
    · simp [markHas]
    · split
      next hx => simp [markHas, hx]
      · simp only [markHas, List.contains_cons, ih, beq_eq_decide]
        exact Bool.or_left_comm _ _ _

theorem Cell.rowTag_putRow (x : Cell) (r q : Nat) (v : Row) : (x.putRow r v true).rowTag q = if q = r then true else x.rowTag q := by
  rw [Cell.rowTag, Cell.putRow, markHas_markPut_true]
  split
  next h => rw [decide_eq_true h, Bool.true_or]
  next h => rw [decide_eq_false h, Bool.false_or]; rfl

theorem takeUpset_row {s : State} {c : CellId} {row : Nat} {bad : Bool} {rest : List (Struck × Bool)} (hup : s.up = true)
    (hups : s.upsets = (.spRow c row, bad) :: rest) (hrow : row < 24576) :
    takeUpset s = .next ((({ s with upsets := rest } : State).strike (.spRow c row) bad).writeRecord (s.upsetRec (.spRow c row) bad)) := by
  have hmeets : (!s.up || !s.stands (.spRow c row)) = false := by
    rw [hup, State.stands, spRows, decide_eq_true hrow]
    rfl
  have hbad : s.uncorrectable (.spRow c row) bad = bad := rfl
  have hwindow : (if bad then s.struckWindow (.spRow c row) else none) = none := ite_self none
  simp only [takeUpset, hups, hmeets, hbad, hwindow, Bool.false_eq_true, if_false]

/-- The row that an error strikes keeps its value; an uncorrectable one poisons it alone (R370). -/
theorem rows_struck {s : State} (hc : s.canonical = true) (c : CellId) (row : Nat) (bad : Bool) :
    (∀ r, ((s.strike (.spRow c row) bad).cell c).row r = (s.cell c).row r) ∧
    (∀ r, ((s.strike (.spRow c row) bad).cell c).rowTag r = if bad ∧ r = row then true else (s.cell c).rowTag r) ∧
    ∀ d, d ≠ c → (s.strike (.spRow c row) bad).cell d = s.cell d := by
  cases bad with
  | false => exact ⟨fun _ => rfl, fun _ => (if_neg fun h => Bool.false_ne_true h.1).symm, fun _ _ => rfl⟩
  | true =>
    have hcell := ((State.canonical_iff s).mp hc).2.1 c
    have hstrike : s.strike (.spRow c row) true = s.setCell c ((s.cell c).putRow row ((s.cell c).row row) true) := rfl
    rw [hstrike, State.cell_setCell_self]
    refine ⟨fun r => ?_, fun r => ?_, fun d hd => State.cell_setCell_ne _ _ (Ne.symm hd)⟩
    · rw [Cell.row_putRow hcell]
      split
      next h => rw [h]
      next => rfl
    · rw [Cell.rowTag_putRow]
      exact if_congr (and_iff_right rfl).symm rfl rfl

theorem takeUpset_row_records {s : State} {c : CellId} {row : Nat} {bad : Bool} {rest : List (Struck × Bool)} (hc : s.canonical = true)
    (hup : s.up = true) (hups : s.upsets = (.spRow c row, bad) :: rest) (hrow : row < 24576) (hroom : s.log.length < 65280) :
    ∃ t, takeUpset s = .next t ∧ t.upsets = rest ∧ s.Logs t (if bad then 0x21 else 0x20) (if bad then 1 else 0) ∧
      (∀ r, (t.cell c).row r = (s.cell c).row r) ∧
      (∀ r, (t.cell c).rowTag r = if bad ∧ r = row then true else (s.cell c).rowTag r) ∧ ∀ d, d ≠ c → t.cell d = s.cell d := by
  have hsev : (s.upsetRec (.spRow c row) bad).sev ≠ 3 := by
    change bad.toNat ≠ 3
    cases bad <;> decide
  have hroom' : (State.strike { s with upsets := rest } (.spRow c row) bad).log.length < 65280 := by cases bad <;> exact hroom
  have hlogs := State.logs_writeRecord hroom' hsev
  have hrows := rows_struck (s := { s with upsets := rest }) hc c row bad
  refine ⟨_, takeUpset_row hup hups hrow, ?_⟩
  rw [State.writeRecord_room hroom' hsev] at hlogs ⊢
  refine ⟨?_, ?_, hrows⟩
  · cases bad <;> rfl
  · cases bad <;> exact hlogs

/-- Settles O50: each clause is its event's lemma. -/
theorem memoryEventsComplete : Obligations.MemoryEventsComplete := by
  refine ⟨fun s b trig hmode hdropped hdropping hwaiting hmoving hfun hroom => ?drop, fun s k trig hl hd hroom => ?lost,
    fun s hmode hmoving hall hroom => ?restripe, fun s hmoving h11 hall => ?copy, fun s chunk h hroom => chunk_rebuilt h hroom,
    exec_scrub_clean, fun s k line hroom hfew => ?scrub, fun s asid tid off h ws hh hhead hws hlist hne => ?translate,
    fun s c row bad rest hc hup hups hrow hroom => takeUpset_row_records hc hup hups hrow hroom⟩
  case drop =>
    refine ⟨_, exec_bankDrop_first hmode (Layout.drops_eq_nil hdropped hdropping hwaiting) hwaiting hmoving hfun, ?_, rfl⟩
    exact State.logs_writeRecord (r := dropRec b trig) hroom (show 1 ≠ 3 by decide)
  case lost =>
    refine ⟨s.loseStack k trig.toNat, rfl, ?_⟩
    rw [State.loseStack_settled hl hd hroom, hl]
    have hsame := State.SameMemory.writeRecord { s with layout := { Layout.reset with mode := 1, lost := k } } (stackRec k.val trig.toNat false)
    exact ⟨State.logs_writeRecord (s := { s with layout := { Layout.reset with mode := 1, lost := k } })
      (r := stackRec k.val trig.toNat false) hroom (show 1 ≠ 3 by decide), hsame.layout, hsame.byte⟩
  case restripe =>
    refine ⟨_, exec_restripe11Stacks_below hmode hmoving hall, ?_, rfl⟩
    obtain ⟨n, l, hmoved⟩ := s.moveRegions_eq
    rw [hmoved]
    exact State.logs_writeRecord (s := { s with freeCtr := n, images := l }) (r := restripeRec 0 0) hroom (show 1 ≠ 3 by decide)
  case copy =>
    refine ⟨_, exec_restripeFrameCopy_inside hmoving h11 hall, rfl, ?_⟩
    exact (State.SameMemory.copyFailed (s.settleDeltas _ _) _).byte
  case scrub =>
    refine ⟨_, exec_scrub_one hfew, ?_, ?_⟩
    · exact State.logs_writeRecord (r := hbmRec 0x20 0 0 (hbmSynd false false true 0 line)) hroom (show 0 ≠ 3 by decide)
    · rw [State.writeRecord_room hroom (show 0 ≠ 3 by decide)]
      rfl
  case translate =>
    obtain ⟨n, o, hexec, ho⟩ := exec_faricaTranslate_correct hh hhead hws hlist hne
    exact ⟨_, o, hexec, rfl, fun _ => rfl, fun _ => rfl, ho⟩

end Sys2Proof.Machine
end

section
/-! SUPPORT. Pages that are copied, moved or demoted (Pages.lean), one lemma for each event; they settle O49 together with the frames of
the fabric. -/

namespace Sys2Proof.Machine

/-! ## What leaves the books of pages alone -/

/-- The same duplicated, migrating, handed over and demoted pages, on the same device at the same time. -/
structure State.SamePages (s t : State) : Prop where
  dups : t.dups = s.dups
  migs : t.migs = s.migs
  handed : t.handed = s.handed
  demoted : t.demoted = s.demoted
  wall : t.wall = s.wall
  selfdev : t.selfdev = s.selfdev

namespace State.SamePages

variable {s t u : State}

theorem refl (s : State) : s.SamePages s := ⟨rfl, rfl, rfl, rfl, rfl, rfl⟩

theorem trans (h : s.SamePages t) (k : t.SamePages u) : s.SamePages u :=
  ⟨k.dups.trans h.dups, k.migs.trans h.migs, k.handed.trans h.handed, k.demoted.trans h.demoted, k.wall.trans h.wall,
    k.selfdev.trans h.selfdev⟩

/-- A change that comes after another. -/
theorem after (k : t.SamePages u) (h : s.SamePages t) : s.SamePages u := h.trans k

theorem foldl {α : Type} {f : State → α → State} (hf : ∀ (u : State) (a : α), u.SamePages (f u a)) (l : List α) (s : State) :
    s.SamePages (l.foldl f s) :=
  List.foldlRecOn (motive := s.SamePages) l f (refl s) fun u hu a _ => hu.trans (hf u a)

theorem blockWrite (s : State) (b : Nat) (v : Row) (m : BitVec 256) (tag : Bool) : s.SamePages (s.blockWrite b v m tag) :=
  ⟨rfl, rfl, rfl, rfl, rfl, rfl⟩

theorem queueDelta (s : State) (d : Delta) : s.SamePages (s.queueDelta d) := by
  unfold State.queueDelta
  dsimp only
  split
  · exact refl s
  · exact ⟨rfl, rfl, rfl, rfl, rfl, rfl⟩

theorem engineDelta (s : State) (b : Nat) : s.SamePages (s.engineDelta b) :=
  (queueDelta _ _).after ⟨rfl, rfl, rfl, rfl, rfl, rfl⟩

theorem rewriteLeaves (s : State) (l : List LeafAt) (f : LeafAt → Nat → Nat) : s.SamePages (s.rewriteLeaves l f) :=
  (foldl (f := fun u x => (u.devWriteIn x.addr 8 (f x (s.devRead x.addr 8).1)).engineDelta (x.addr / 256))
    (fun u _ => (blockWrite u _ _ _ _).trans (engineDelta _ _)) l s).trans ⟨rfl, rfl, rfl, rfl, rfl, rfl⟩

theorem redirect (s : State) (w : FWrite) (dev : BitVec 12) (frame : Nat) : s.SamePages (s.redirect w dev frame) := by
  unfold State.redirect
  dsimp only
  split
  · split
    · exact ⟨rfl, rfl, rfl, rfl, rfl, rfl⟩
    · exact ⟨rfl, rfl, rfl, rfl, rfl, rfl⟩
  · exact refl s

theorem redirectAll (s : State) (src : Nat) (dev : BitVec 12) (frame : Nat) : s.SamePages (s.redirectAll src dev frame) :=
  foldl (fun u w => redirect u w dev frame) _ s

theorem writeFlags (s : State) (w : FWrite) (f : FlagBits) : s.SamePages (s.writeFlags w f) := by
  unfold State.writeFlags
  split
  · exact ⟨rfl, rfl, rfl, rfl, rfl, rfl⟩
  · exact ⟨rfl, rfl, rfl, rfl, rfl, rfl⟩

theorem performWrite (s : State) (w : FWrite) : s.SamePages (s.performWrite w) := by
  unfold State.performWrite
  extract_lets t
  have ht : s.SamePages t := ⟨rfl, rfl, rfl, rfl, rfl, rfl⟩
  split
  · exact (writeFlags _ w _).after (ht.trans ⟨rfl, rfl, rfl, rfl, rfl, rfl⟩)
  · exact ((ht.trans (blockWrite _ _ _ _ _)).trans (queueDelta _ _)).trans (writeFlags _ w _)
  · exact ht.trans ⟨rfl, rfl, rfl, rfl, rfl, rfl⟩
  · exact ht

theorem releaseWaiters (frame : Nat) (l : List Nat) : ∀ s : State, s.SamePages (s.releaseWaiters frame l) := by
  induction l with
  | nil => exact refl
  | cons u us ih =>
    intro s
    refine trans ?_ (ih _)
    split
    · exact refl s
    · exact foldl (fun v x => performWrite v x) _ s

end State.SamePages

/-! ## Duplication and collapse (R92, R383) -/

theorem State.dupOf_setDup (s : State) (d : Dup) : (s.setDup d).dupOf d.frame = some d := by
  have hrest : (s.dups.filter fun e => decide (e.frame ≠ d.frame)).find? (fun e => decide (e.frame = d.frame)) = none :=
    List.find?_eq_none.mpr fun e he => by simpa using List.of_mem_filter he
  rw [State.dupOf, State.setDup, List.find?_append, hrest, Option.none_or]
  exact List.find?_cons_of_pos (decide_eq_true rfl)

/-- A duplication is over once its entry is gone. -/
theorem State.dupOf_eq_none {s : State} {frame : Nat} {l : List Dup} (h : s.dups = l.filter fun e => decide (e.frame ≠ frame)) :
    s.dupOf frame = none := by
  rw [State.dupOf, h]
  exact List.find?_eq_none.mpr fun e he => by simpa using List.of_mem_filter he

/-- The end of a collapse takes the page's entry away, and no other. -/
theorem State.dups_finishCollapse (s : State) (d : Dup) :
    (s.finishCollapse d).dups = s.dups.filter fun e => decide (e.frame ≠ d.frame) := by
  have hdrop (l : List LeafAt) (f : LeafAt → Nat → Nat) :
      ((s.rewriteLeaves l f).dropDup d.frame).dups = s.dups.filter fun e => decide (e.frame ≠ d.frame) :=
    congrArg (List.filter fun e : Dup => decide (e.frame ≠ d.frame)) (State.SamePages.rewriteLeaves s l f).dups
  unfold State.finishCollapse
  split
  next dev frame die hhome =>
    rw [(State.SamePages.redirectAll _ _ _ _).dups]
    simp only [State.returnLeaves, hhome, hdrop]
  next =>
    exact (State.SamePages.releaseWaiters _ _ _).dups.trans (hdrop _ _)

theorem State.dupOf_finishCollapse (s : State) (d : Dup) : (s.finishCollapse d).dupOf d.frame = none :=
  State.dupOf_eq_none (s.dups_finishCollapse d)

/-- What stands after several collapses stood before, on a page of none of them. -/
theorem State.mem_dups_finishCollapses {e : Dup} (l : List Dup) : ∀ s : State, e ∈ (l.foldl (fun t d => t.finishCollapse d) s).dups →
    e ∈ s.dups ∧ ∀ d ∈ l, e.frame ≠ d.frame := by
  induction l with
  | nil => exact fun s h => ⟨h, nofun⟩
  | cons d l ih =>
    intro s h
    obtain ⟨hmem, hl⟩ := ih _ h
    rw [State.dups_finishCollapse] at hmem
    obtain ⟨hs, hd⟩ := List.mem_filter.mp hmem
    exact ⟨hs, List.forall_mem_cons.mpr ⟨of_decide_eq_true hd, hl⟩⟩

theorem State.foldl_emit {α : Type} (f : α → Out) (l : List α) : ∀ s : State,
    l.foldl (fun u a => u.emit (f a)) s = { s with outbox := s.outbox ++ l.map f } := by
  induction l with
  | nil => intro s; simp
  | cons a l ih => intro s; rw [List.foldl_cons, ih, State.emit_outbox, List.append_assoc]; rfl

section Duplicated

variable {s : State} {d : Dup} {h : Holder}

/-- Replacing the entry of a frame. -/
theorem State.find?_replaceDup (hd : s.dupOf d.frame = some d) {e : Dup} (he : e.frame = d.frame) :
    (s.dups.map fun x => if x.frame = d.frame then e else x).find? (fun x => decide (x.frame = d.frame)) = some e := by
  have hsame : ((fun x => decide (x.frame = d.frame)) ∘ fun x : Dup => if x.frame = d.frame then e else x) =
      fun x => decide (x.frame = d.frame) := by
    funext x
    simp only [Function.comp_apply]
    split
    next hx => rw [he, hx]
    next => rfl
  rw [List.find?_map, hsame]
  exact (congrArg (Option.map _) hd).trans (congrArg some (if_pos rfl))

theorem collapse_begins (hd : s.dupOf d.frame = some d) (hc : d.collapse = false) :
    ∃ t, exec (.collapse d.frame) s = .next t ∧ t.dupOf d.frame = some { d with collapse := true, acks := d.holders } ∧
      t.outbox = s.outbox ++ d.holders.map fun a => .invalidate d.frame a.1 := by
  have hstart : s.startCollapse d.frame 0 = { s with
      dups := s.dups.map fun x => if x.frame = d.frame then { d with collapse := true, acks := d.holders } else x
      outbox := s.outbox ++ d.holders.map fun a => .invalidate d.frame a.1 } := by
    simp only [State.startCollapse, hd, hc, Bool.false_eq_true, if_false, decide_true, Bool.true_or, if_true]
    exact State.foldl_emit (fun a : Holder × Nat × Nat => .invalidate d.frame a.1) d.holders _
  refine ⟨s.startCollapse d.frame 0, ?_, ?_, congrArg State.outbox hstart⟩
  · change execCollapse d.frame s = _
    simp only [execCollapse, hd, hc, Bool.false_eq_true, if_false]
  · rw [hstart]
    exact State.find?_replaceDup hd (e := { d with collapse := true, acks := d.holders }) rfl

theorem State.dupOf_acked (hc : d.collapse = true) : (s.acked d h).dupOf d.frame =
    if ∀ a ∈ d.acks, a.1 = h then none
    else some { d with
      acks := d.acks.filter fun a => decide (a.1 ≠ h), holders := d.holders.filter fun a => decide (a.1 ≠ h) } := by
  have hnil : (d.acks.filter fun a => decide (a.1 ≠ h)) = [] ↔ ∀ a ∈ d.acks, a.1 = h := by
    simp [List.filter_eq_nil_iff]
  unfold State.acked
  dsimp only
  split
  next hall =>
    rw [hc, Bool.true_and, decide_eq_true_eq, hnil] at hall
    rw [if_pos hall]
    exact State.dupOf_finishCollapse s { d with acks := _, holders := _ }
  next hall =>
    rw [hc, Bool.true_and, decide_eq_true_eq, hnil] at hall
    rw [if_neg hall]
    exact State.dupOf_setDup s { d with
      acks := d.acks.filter fun a => decide (a.1 ≠ h), holders := d.holders.filter fun a => decide (a.1 ≠ h) }

theorem exec_invalidationAck_awaited (hd : s.dupOf d.frame = some d) (hc : d.collapse = true)
    (ha : (d.acks.any fun a => decide (a.1 = h)) = true) : exec (.invalidationAck d.frame h) s = .next (s.acked d h) := by
  change execInvalidationAck d.frame h s = _
  simp only [execInvalidationAck, hd, hc, ha, Bool.and_true, if_true]

theorem exec_invalidationResend_due {n w : Nat} (hd : s.dupOf d.frame = some d) (ha : d.acks = [(h, n, w)]) (hn : n < 3)
    (hw : w + 19000000 ≤ s.wall) :
    exec (.invalidationResend d.frame h) s = .next ((s.setDup { d with acks := [(h, n + 1, s.wall)] }).emit (.invalidate d.frame h)) := by
  have hdue : w + usCycles 10000 ≤ s.wall := hw
  change execInvalidationResend d.frame h s = _
  simp [execInvalidationResend, hd, ha, hn, hdue]

theorem leaseRenewal_noted (hd : s.dupOf d.frame = some d) (hup : ∀ x, d.home = some x → s.peerUp x.1 = true) :
    ∃ t, exec (.leaseRenewal d.frame h) s = .next t ∧ t.dupOf d.frame = some { d with
      holders := d.holders.map fun a => if a.1 = h then (a.1, s.wall, a.2.2) else a } := by
  have hnote := State.dupOf_setDup s { d with holders := d.holders.map fun a => if a.1 = h then (a.1, s.wall, a.2.2) else a }
  change ∃ t, execLeaseRenewal d.frame h s = .next t ∧ _
  simp only [execLeaseRenewal, hd]
  split
  next dev f die hhome =>
    have hany : (s.peers.any fun p => p.dev == dev && p.valid && !p.down) = true := hup _ hhome
    rw [if_pos hany]
    exact ⟨_, rfl, hnote⟩
  next => exact ⟨_, rfl, hnote⟩

theorem exec_leaseLapse_held {w n : Nat} {x : BitVec 12 × Nat × Nat} (hd : s.dupOf d.frame = some d) (hhome : d.home = some x)
    (hh : (d.holders.find? fun a => decide (a.1 = h)) = some (h, w, n)) (hw : w + 19000000 ≤ s.wall) :
    exec (.leaseLapse d.frame h) s = .next (s.finishCollapse d) := by
  have hdue : w + usCycles 10000 ≤ s.wall := hw
  change execLeaseLapse d.frame h s = _
  simp only [execLeaseLapse, hd, hh, hhome, Option.isSome_some, if_true, if_pos hdue]

end Duplicated

/-- The entry of a page that has just been given a copy. -/
theorem State.dupOf_giveCopy (s : State) (h : Holder) (d : Dup) : ∃ e, (s.giveCopy d.frame h d).dupOf d.frame = some e ∧
    e.holders = d.holders ++ [(h, s.wall, 0)] ∧ e.collapse = d.collapse ∧ e.home = d.home := by
  unfold State.giveCopy
  split
  · exact ⟨_, State.dupOf_setDup _ { d with holders := d.holders ++ [(h, s.wall, 0)], copies := _ }, rfl, rfl, rfl⟩
  · exact ⟨_, State.dupOf_setDup _ { d with holders := d.holders ++ [(h, s.wall, 0)] }, rfl, rfl, rfl⟩

theorem State.migOf_eq_none {s : State} {frame : Nat} (h : ∀ m ∈ s.migs, m.frame ≠ frame) : s.migOf frame = none :=
  List.find?_eq_none.mpr fun m hm => by simp [Migration.is, h m hm]

theorem readDuplication_first {s : State} {frame : Nat} {h : Holder} (hd : s.dupOf frame = none) (hm : ∀ m ∈ s.migs, m.frame ≠ frame)
    (hf : frame < s.frames) : ∃ t d, exec (.readDuplication frame h) s = .next t ∧ t.dupOf frame = some d ∧
      d.holders = [(h, s.wall, 0)] ∧ d.collapse = false ∧ d.home = none := by
  have hexec : exec (.readDuplication frame h) s = .next (s.duplicate (s.asidOfFrame frame) frame h) := by
    change execReadDuplication frame h s = _
    simp only [execReadDuplication, hd, State.migOf_eq_none hm, Option.isSome_none, Bool.false_or, decide_eq_true_eq,
      if_neg (Nat.not_le.mpr hf)]
  obtain ⟨e, he, hholders, hcollapse, hhome⟩ := State.dupOf_giveCopy
    (s.rewriteLeaves (s.leavesOf s.selfdev frame) fun _ w => setLeafBit 40 1 (setLeafBit 39 0 w)) h
    ⟨frame, s.asidOfFrame frame, [], false, [], [], ((s.leavesOf s.selfdev frame).filter fun x =>
      fieldOf (s.devRead x.addr 8).1 39 1 = 1).map (·.addr), none, []⟩
  rw [(State.SamePages.rewriteLeaves s _ _).wall] at hholders
  refine ⟨_, e, hexec, ?_, hholders, hcollapse, hhome⟩
  simp only [State.duplicate, hd]
  exact he

/-- A session that opens again leaves no copy of a page of that home (R383). -/
theorem fabricSessionReopen_clears (s : State) (dev : BitVec 12) : ∃ t, exec (.fabricSessionReopen dev) s = .next t ∧
    ∀ d ∈ t.dups, ∀ v f k, d.home = some (v, f, k) → v ≠ dev := by
  refine ⟨_, rfl, fun d hd v f k hhome => ?_⟩
  rintro rfl
  obtain ⟨hs, hgone⟩ := State.mem_dups_finishCollapses _ s hd
  exact hgone d (List.mem_filter.mpr ⟨hs, by simp [hhome]⟩) rfl

/-! ## Migration (R93, R384) -/

theorem pageMigration_starts {s : State} {frame : Nat} (die : Fin 2) (dev : BitVec 12) (hd : s.dupOf frame = none)
    (hm : ∀ m ∈ s.migs, m.frame ≠ frame) (hf : frame < s.frames) :
    ∃ t n, exec (.pageMigration frame die dev) s = .next t ∧ t.migs = s.migs ++ [⟨frame, die, dev, n, false, s.selfdev, false, [], 0⟩] := by
  have hexec : exec (.pageMigration frame die dev) s = .next ((s.freshFrame dev).2.startMigration frame die dev (s.freshFrame dev).1) := by
    change execPageMigration frame die dev s = _
    simp only [execPageMigration, State.migOf_eq_none hm, hd, Option.isSome_none, Bool.false_eq_true, if_false, if_neg (Nat.not_le.mpr hf)]
  have hfresh : (s.freshFrame dev).2.migs = s.migs ∧ (s.freshFrame dev).2.selfdev = s.selfdev := by
    unfold State.freshFrame
    dsimp only
    split <;> exact ⟨rfl, rfl⟩
  refine ⟨_, (s.freshFrame dev).1, hexec, ?_⟩
  unfold State.startMigration
  dsimp only
  rw [(State.SamePages.rewriteLeaves _ _ _).migs, hfresh.1, hfresh.2]

theorem handover_completes {s : State} {m : Migration} (hm : s.migOf m.frame = some m) (hcopied : m.copied = true)
    (hgood : s.migFails m = false) (hout : ∀ f ∈ s.outFrames, f.fid ∉ m.uids) (hready : m.dev = s.selfdev ∨ m.sealed_ = true) :
    ∃ t, exec (.handover m.frame m.newFrame) s = .next t ∧ t.handed = s.handed ++ [(m.frame, m.dev, m.newFrame)] ∧
      t.migs = s.migs.filter fun x => !(x.home == s.selfdev && decide (x.frame = m.frame)) := by
  have hcarried : s.carried m = true := by simpa [State.carried] using hout
  have hlines : (m.dev ≠ s.selfdev && !m.sealed_) = false := by
    rcases hready with h | h <;> simp [h]
  have hgo : (decide (m.newFrame ≠ m.newFrame) || !m.copied || !s.carried m || s.migFails m) = false := by
    simp [hcopied, hcarried, hgood]
  change ∃ t, execHandover m.frame m.newFrame s = .next t ∧ _
  simp only [execHandover, hm, hgo, hlines, Bool.false_eq_true, if_false]
  exact ⟨_, rfl, rfl, rfl⟩

theorem migrationAbandon_ends {s : State} {m : Migration} (hm : (s.migs.find? fun x => decide (x.frame = m.frame)) = some m) :
    ∃ t, exec (.migrationAbandon m.frame) s = .next t ∧
      t.migs = s.migs.filter fun x => !(x.home == m.home && decide (x.frame = m.frame)) := by
  have hmigs := (State.SamePages.rewriteLeaves s (s.leavesOf m.home m.frame) fun _ w => setLeafBit 41 0 w).migs
  change ∃ t, execMigrationAbandon m.frame s = .next t ∧ _
  simp only [execMigrationAbandon, hm]
  refine ⟨_, rfl, ?_⟩
  split
  · rw [(State.SamePages.foldl (fun u w => State.SamePages.performWrite u w) _ _).migs]
    exact congrArg (List.filter _) hmigs
  · exact congrArg (List.filter _) hmigs

/-! ## Demotion (R382) -/

section Demotion

variable {s : State} {asid : BitVec 10} {tid : BitVec 12} {tile : Nat} {l : LeafAt}

theorem pageDemotion_noted (hl : ((s.leavesOfTensor asid tid).find? fun x => decide (x.tile = tile)) = some l) (why : BitVec 3)
    (hvalid : fieldOf (s.devRead l.addr 8).1 38 1 = 1) (hnew : ∀ d ∈ s.demoted, ¬ (d.asid = asid ∧ d.tid = tid ∧ d.tile = tile)) :
    ∃ t, exec (.pageDemotion asid tid tile why) s = .next t ∧
      t.demoted = s.demoted ++ [⟨asid, tid, tile, fieldOf (s.devRead l.addr 8).1 36 2, why.toNat⟩] := by
  have hany : (s.demoted.any fun d => d.asid == asid && d.tid == tid && decide (d.tile = tile)) = false :=
    List.any_eq_false.mpr fun d hd => by simpa [and_assoc] using hnew d hd
  change ∃ t, execPageDemotion asid tid tile why s = .next t ∧ _
  simp only [execPageDemotion, hl, hvalid, hany, Bool.or_false, one_ne_zero, decide_false, Bool.false_eq_true, if_false]
  exact ⟨_, rfl, rfl⟩

theorem demotionRestore_ends (hl : ((s.leavesOfTensor asid tid).find? fun x => decide (x.tile = tile)) = some l) {d : Demoted}
    (hd : (s.demoted.find? fun x => x.asid == asid && x.tid == tid && decide (x.tile = tile)) = some d)
    (hend : s.whyEnded d (s.devRead l.addr 8).1 = true) :
    ∃ t, exec (.demotionRestore asid tid tile) s = .next t ∧ t.demoted = s.demoted.erase d := by
  change ∃ t, execDemotionRestore asid tid tile s = .next t ∧ _
  simp only [execDemotionRestore, hd, hl, hend, if_true]
  exact ⟨_, rfl, rfl⟩

end Demotion

end Sys2Proof.Machine
end

section
/-! SUPPORT. The frames of the fabric (Frames.lean): what a peer's frame writes, its acknowledgement, and the frames sent from here; with
the pages above they settle O49. -/

namespace Sys2Proof.Machine

/-! ## The blocks of a frame's bytes (R124) -/

/-- Each part is a stretch of the bytes, and lies inside a block. -/
theorem mem_blockParts (fuel : Nat) : ∀ {a : Nat} {l : List Byte} {p : Nat × Nat × List Byte}, p ∈ blockParts fuel a l →
    ∃ k, 256 * p.1 + p.2.1 = a + k ∧ p.2.1 + p.2.2.length ≤ 256 ∧ k + p.2.2.length ≤ l.length ∧
      ∀ i < p.2.2.length, p.2.2[i]? = l[k + i]? := by
  induction fuel with
  | zero => exact fun h => nomatch h
  | succ fuel ih =>
    intro a l p hp
    rw [blockParts] at hp
    split at hp
    · exact nomatch hp
    · rcases List.mem_cons.mp hp with rfl | hp
      · refine ⟨0, Nat.div_add_mod a 256, ?_, ?_, fun i hi => ?_⟩
        · simp only [List.length_take]
          omega
        · simp only [List.length_take]
          omega
        · rw [List.length_take] at hi
          rw [List.getElem?_take_of_lt (by omega), Nat.zero_add]
      · obtain ⟨k, hat, hin, hlen, hval⟩ := ih hp
        rw [List.length_drop] at hlen
        refine ⟨min l.length (256 - a % 256) + k, by omega, hin, by omega, fun i hi => ?_⟩
        rw [hval i hi, List.getElem?_drop, Nat.add_assoc]

/-- Every byte lies in a part. -/
theorem blockParts_covers (fuel : Nat) : ∀ {a j : Nat} {l : List Byte}, l.length < fuel → j < l.length →
    ∃ p ∈ blockParts fuel a l, 256 * p.1 + p.2.1 ≤ a + j ∧ a + j < 256 * p.1 + p.2.1 + p.2.2.length := by
  induction fuel with
  | zero => exact fun h => absurd h (Nat.not_lt_zero _)
  | succ fuel ih =>
    intro a j l hfuel hj
    have hne : l ≠ [] := List.length_pos_iff.mp (by omega)
    rw [blockParts, if_neg hne]
    by_cases hfirst : j < min l.length (256 - a % 256)
    · refine ⟨_, List.mem_cons_self, ?_, ?_⟩
      · dsimp only
        omega
      · simp only [List.length_take]
        omega
    · have hstep : 0 < min l.length (256 - a % 256) := by omega
      obtain ⟨p, hp, hlo, hhi⟩ := ih (a := a + min l.length (256 - a % 256)) (j := j - min l.length (256 - a % 256))
        (l := l.drop (min l.length (256 - a % 256))) (by rw [List.length_drop]; omega) (by rw [List.length_drop]; omega)
      exact ⟨p, List.mem_cons_of_mem _ hp, by omega, by omega⟩

/-- The mask of n bytes from an offset. -/
theorem getLsbD_byteMask (n o k : Nat) : (BitVec.ofNat 256 ((2 ^ n - 1) * 2 ^ o)).getLsbD k = (decide (k < 256) && decide (o ≤ k ∧ k < o + n)) := by
  rw [BitVec.getLsbD_ofNat, Nat.testBit_mul_two_pow, Nat.testBit_two_pow_sub_one, ← Bool.decide_and]
  exact congrArg (_ && ·) (decide_eq_decide.mpr (by omega))

theorem bytesNat_shifted_lt {l : List Byte} {o n : Nat} (h : 8 * l.length + 8 * o ≤ n) : bytesNat l * 2 ^ (8 * o) < 2 ^ n :=
  calc bytesNat l * 2 ^ (8 * o) < 2 ^ (8 * l.length) * 2 ^ (8 * o) := Nat.mul_lt_mul_of_pos_right (packNat_lt _ _ _) (Nat.two_pow_pos _)
    _ = 2 ^ (8 * l.length + 8 * o) := (Nat.pow_add _ _ _).symm
    _ ≤ 2 ^ n := Nat.pow_le_pow_right (by decide) h

/-- The value of bytes at an offset in a block. -/
theorem byteAt_bytesNat {l : List Byte} {o i : Nat} (hlen : o + l.length ≤ 256) (hi : i < l.length) :
    some (byteAt (BitVec.ofNat 2048 (bytesNat l * 2 ^ (8 * o))) (o + i)) = l[i]? := by
  have hfield : fieldOf (bytesNat l * 2 ^ (8 * o)) (8 * (o + i)) 8 = fieldOf (bytesNat l) (8 * i) 8 := by
    rw [fieldOf, fieldOf, Nat.mul_add, Nat.pow_add, Nat.mul_comm, Nat.mul_div_mul_left _ _ (Nat.two_pow_pos _)]
  rw [List.getElem?_eq_getElem hi]
  refine congrArg some (BitVec.eq_of_toNat_eq ?_)
  rw [byteAt, toNat_extract_ofNat _ _ _ _ (bytesNat_shifted_lt (by omega)), hfield, bytesNat, fieldOf_packNat 8 _ i _ hi, Nat.mod_eq_of_lt (BitVec.isLt _),
    List.getD_eq_getElem _ _ hi]

/-- The write of one part of a frame's bytes, under a number (R123, R124). -/
def partWrite (f : Frame) (op : WOp) (tag : Bool) (uid : Nat) (p : Nat × Nat × List Byte) : FWrite :=
  { uid := uid, cell := 0, path := .np, cmd := 0, by_ := none, loc := .hbm p.1, op := op
    v := BitVec.ofNat 2048 (bytesNat p.2.2 * 2 ^ (8 * p.2.1)), bytes := BitVec.ofNat 256 ((2 ^ p.2.2.length - 1) * 2 ^ p.2.1)
    tag := tag, held := false, src := some (f.dev, f.fid) }

/-- The writes of the parts of a frame's bytes, under numbers that follow one another. -/
def partWrites (f : Frame) (op : WOp) (tag : Bool) (uid : Nat) (ps : List (Nat × Nat × List Byte)) : List FWrite :=
  ps.mapIdx fun i p => partWrite f op tag (uid + i) p

theorem partWrites_cons (f : Frame) (op : WOp) (tag : Bool) (uid : Nat) (p : Nat × Nat × List Byte) (ps : List (Nat × Nat × List Byte)) :
    partWrites f op tag uid (p :: ps) = partWrite f op tag uid p :: partWrites f op tag (uid + 1) ps := by
  simp only [partWrites, List.mapIdx_cons, Nat.add_zero, Nat.add_assoc, Nat.add_comm 1]

/-- One part of a frame's bytes enters the fabric; its number joins the list. -/
def inboundPart (f : Frame) (op : WOp) (tag : Bool) (r : State × List Nat) (p : Nat × Nat × List Byte) : State × List Nat :=
  (r.1.inboundWrite f (.hbm p.1) op (BitVec.ofNat 2048 (bytesNat p.2.2 * 2 ^ (8 * p.2.1)))
    (BitVec.ofNat 256 ((2 ^ p.2.2.length - 1) * 2 ^ p.2.1)) tag, r.2 ++ [r.1.uid])

theorem State.inboundBytes_eq (s : State) (f : Frame) (a : Nat) (op : WOp) (l : List Byte) (tag : Bool) :
    s.inboundBytes f a op l tag = (blockParts (l.length + 1) a l).foldl (inboundPart f op tag) (s, []) := (rfl)

/-- Where no page has been handed over, a frame's write stands in the fabric under the next number. -/
theorem inboundPart_here {s : State} (h : s.handed = []) (f : Frame) (op : WOp) (tag : Bool) (uids : List Nat)
    (p : Nat × Nat × List Byte) : inboundPart f op tag (s, uids) p =
      ({ s with fabric := s.fabric ++ [partWrite f op tag s.uid p], uid := s.uid + 1 }, uids ++ [s.uid]) := by
  have hmoved (frame : Nat) : s.movedTo frame = none := by rw [State.movedTo, h]; rfl
  simp only [inboundPart, State.inboundWrite, FWrite.frame, Option.bind_some, hmoved]
  rfl

/-- The writes of a frame's bytes enter the fabric one after another, and nothing else changes. -/
theorem inboundParts_here (f : Frame) (op : WOp) (tag : Bool) (ps : List (Nat × Nat × List Byte)) :
    ∀ (s : State) (uids : List Nat), s.handed = [] → ps.foldl (inboundPart f op tag) (s, uids) =
      ({ s with fabric := s.fabric ++ partWrites f op tag s.uid ps, uid := s.uid + ps.length },
        uids ++ (partWrites f op tag s.uid ps).map (·.uid)) := by
  induction ps with
  | nil =>
    intro s uids _
    simp [partWrites]
  | cons p ps ih =>
    intro s uids h
    rw [List.foldl_cons, inboundPart_here h, ih, partWrites_cons, List.map_cons, List.append_assoc, List.append_assoc,
      List.length_cons, Nat.add_assoc, Nat.add_comm 1]
    · rfl
    · exact h

theorem State.inboundBytes_here {s : State} (h : s.handed = []) (f : Frame) (a : Nat) (op : WOp) (l : List Byte) (tag : Bool) :
    let ws := partWrites f op tag s.uid (blockParts (l.length + 1) a l)
    ∃ n, s.inboundBytes f a op l tag = ({ s with fabric := s.fabric ++ ws, uid := n }, ws.map (·.uid)) :=
  ⟨_, inboundParts_here f op tag _ s [] h⟩

/-! ## A frame of writes (R96, R124, R141) -/

section Received

variable {s : State} {f : Frame} {a : Nat} {l : List Byte} {tag : Bool}

theorem State.seen_eq_none (h : ∀ e ∈ s.seen, ¬ (e.1 = f.dev ∧ e.2.1 = f.fid)) :
    (s.seen.find? fun e => e.1 == f.dev && decide (e.2.1 = f.fid)) = none :=
  List.find?_eq_none.mpr fun e he => by simpa using h e he

theorem exec_frameReceive_known (hup : s.peerUp f.dev = true) {data : List Byte}
    (hseen : (s.seen.find? fun e => e.1 == f.dev && decide (e.2.1 = f.fid)) = some (f.dev, f.fid, data)) :
    exec (.frameReceive f) s = .next (s.emit (.ack f.dev f.fid data)) := by
  change execFrameReceive f s = _
  simp only [execFrameReceive, hup, hseen, Bool.not_true, Bool.false_eq_true, if_false]

/-- A frame that comes for the first time is begun. -/
theorem exec_frameReceive_new (hup : s.peerUp f.dev = true) (hseen : ∀ e ∈ s.seen, ¬ (e.1 = f.dev ∧ e.2.1 = f.fid))
    (hnew : ∀ i ∈ s.inbound, ¬ (i.frame.dev = f.dev ∧ i.frame.fid = f.fid)) :
    exec (.frameReceive f) s = .next (settle f (s.performFrame f)) := by
  have hin : (s.inbound.find? fun i => decide (i.frame.dev = f.dev) && decide (i.frame.fid = f.fid)) = none :=
    List.find?_eq_none.mpr fun i hi => by simpa using hnew i hi
  change execFrameReceive f s = _
  simp only [execFrameReceive, hup, State.seen_eq_none hseen, hin, Bool.not_true, Bool.false_eq_true, if_false]

/-- Each byte of a frame, and nothing else, is in its writes. -/
theorem partWrites_exact (f : Frame) (a n : Nat) (l : List Byte) (tag : Bool) :
    let ws := partWrites f .set tag n (blockParts (l.length + 1) a l)
    (∀ w ∈ ws, w.path = .np ∧ w.op = .set ∧ w.tag = tag ∧ w.src = some (f.dev, f.fid)) ∧
    (∀ j (h : j < l.length), ∃ w ∈ ws, w.loc = .hbm ((a + j) / 256) ∧ w.bytes.getLsbD ((a + j) % 256) = true ∧
      w.v.extractLsb' (8 * ((a + j) % 256)) 8 = l[j]) ∧
    ∀ w ∈ ws, ∀ b k, w.loc = .hbm b → w.bytes.getLsbD k = true → a ≤ 256 * b + k ∧ 256 * b + k < a + l.length := by
  intro ws
  refine ⟨fun w hw => ?_, fun j hj => ?_, fun w hw b k hb hk => ?_⟩
  · obtain ⟨i, hi, rfl⟩ := List.mem_mapIdx.mp hw
    exact ⟨rfl, rfl, rfl, rfl⟩
  · obtain ⟨p, hp, hlo, hhi⟩ := blockParts_covers (l.length + 1) (a := a) (Nat.lt_succ_self _) hj
    obtain ⟨k, hat, hin, hlen, hval⟩ := mem_blockParts _ hp
    obtain ⟨i, hi, rfl⟩ := List.getElem_of_mem hp
    refine ⟨_, List.mem_mapIdx.mpr ⟨i, hi, rfl⟩, ?_⟩
    generalize (blockParts (l.length + 1) a l)[i] = p at *
    have hblk : (a + j) / 256 = p.1 := by omega
    have hoff : (a + j) % 256 = p.2.1 + (j - k) := by omega
    have hidx : j - k < p.2.2.length := by omega
    refine ⟨by rw [hblk]; rfl, ?_, ?_⟩
    · refine (getLsbD_byteMask _ _ _).trans ?_
      rw [decide_eq_true (by omega), decide_eq_true (by omega)]
      rfl
    · have hbyte := byteAt_bytesNat hin hidx
      rw [hval _ hidx, show k + (j - k) = j by omega, List.getElem?_eq_getElem hj] at hbyte
      rw [hoff]
      exact Option.some.inj hbyte
  · obtain ⟨i, hi, rfl⟩ := List.mem_mapIdx.mp hw
    obtain ⟨m, hat, hin, hlen, -⟩ := mem_blockParts _ (List.getElem_mem hi)
    generalize (blockParts (l.length + 1) a l)[i] = p at *
    have hbits := (getLsbD_byteMask p.2.2.length p.2.1 k).symm.trans hk
    rw [Bool.and_eq_true, decide_eq_true_eq, decide_eq_true_eq] at hbits
    have hblk : p.1 = b := Loc.hbm.inj hb
    omega

theorem frame_enters (hup : s.peerUp f.dev = true) (hseen : ∀ e ∈ s.seen, ¬ (e.1 = f.dev ∧ e.2.1 = f.fid))
    (hbody : f.body = .write a l tag none) (hrange : s.frameBeyond a = false)
    (hnew : ∀ i ∈ s.inbound, ¬ (i.frame.dev = f.dev ∧ i.frame.fid = f.fid)) (hhanded : s.handed = []) :
    let ws := partWrites f .set tag s.uid (blockParts (l.length + 1) a l)
    ∃ n, exec (.frameReceive f) s = .next { s with
      fabric := s.fabric ++ ws, uid := n, inbound := s.inbound ++ [Inbound.new f (ws.map (·.uid))] } := by
  intro ws
  obtain ⟨n, hbytes⟩ : ∃ n, s.inboundBytes f a .set l tag = ({ s with fabric := s.fabric ++ ws, uid := n }, ws.map (·.uid)) :=
    State.inboundBytes_here hhanded f a .set l tag
  have hkeep : (s.inbound.filter fun x => decide (x.frame.dev ≠ f.dev ∨ x.frame.fid ≠ f.fid)) = s.inbound :=
    List.filter_eq_self.mpr fun x hx => decide_eq_true (not_and_or.mp (hnew x hx))
  refine ⟨n, ?_⟩
  rw [exec_frameReceive_new hup hseen hnew]
  simp only [State.performFrame, hbody, hrange, Bool.false_eq_true, if_false, hbytes, settle, State.putInbound, Inbound.new, hkeep]

/-- Writes that are performed and protected are acknowledged. -/
theorem State.writesOn_protected {i : Inbound} {bytes : Nat} (hflags : i.flags = 0) (hdone : ∀ u ∈ i.uids, s.writeDone u = true)
    (hseen : ∀ e ∈ s.seen, ¬ (e.1 = i.frame.dev ∧ e.2.1 = i.frame.fid)) (hout : ∀ g ∈ s.outFrames, g.fid ∉ i.uids)
    (hdeltas : ∀ d ∈ s.deltas, d.uid ∉ i.uids) :
    s.writesOn i none bytes = ((s.ackFrame i.frame []).dropInbound i.frame).dropAnswers i := by
  have hall : (i.uids.any fun u => !s.writeDone u) = false := List.any_eq_false.mpr fun u hu => by simp [hdone u hu]
  have hanswers : s.answers i = [] := by
    have hnone : (s.outFrames.filter fun f => i.uids.contains f.fid) = [] :=
      List.filter_eq_nil_iff.mpr fun g hg => by simpa using hout g hg
    rw [State.answers, hnone]
    rfl
  have hacked : s.ackedFrame i.frame = false := List.any_eq_false.mpr fun e he => by simpa using hseen e he
  have hprotected : (s.deltas.any fun d => i.uids.contains d.uid) = false := List.any_eq_false.mpr fun d hd => by simpa using hdeltas d hd
  simp only [State.writesOn, hall, hanswers, hacked, hprotected, hflags, Option.isSome_none, Bool.and_false, Bool.false_eq_true, if_false]
  rfl

theorem frame_acknowledged (hup : s.peerUp f.dev = true) (hseen : ∀ e ∈ s.seen, ¬ (e.1 = f.dev ∧ e.2.1 = f.fid))
    (hbody : f.body = .write a l tag none) {i : Inbound}
    (hi : (s.inbound.find? fun x => decide (x.frame.dev = f.dev) && decide (x.frame.fid = f.fid)) = some i) (hframe : i.frame = f)
    (hflags : i.flags = 0) (hdone : ∀ u ∈ i.uids, s.writeDone u = true) (hout : ∀ g ∈ s.outFrames, g.fid ∉ i.uids)
    (hdeltas : ∀ d ∈ s.deltas, d.uid ∉ i.uids) :
    exec (.frameReceive f) s = .next (((s.ackFrame f []).dropInbound f).dropAnswers i) := by
  subst hframe
  have hon : s.frameOn i = s.writesOn i none l.length := by
    simp only [State.frameOn, hup, hbody, Bool.not_true, Bool.false_eq_true, if_false]
  rw [← State.writesOn_protected (bytes := l.length) hflags hdone hseen hout hdeltas, ← hon]
  change execFrameReceive i.frame s = _
  simp only [execFrameReceive, hup, State.seen_eq_none hseen, hi, hbody, Bool.not_true, Bool.false_eq_true, if_false]

end Received

/-! ## Frames sent from here (R96, R385) -/

section Sent

variable {s : State} {f : OutFrame}

/-- A write of a context leaves once it is acknowledged. -/
theorem exec_frameAck_own (hf : (s.outFrames.find? fun g => decide (g.fid = f.fid) && g.reply.isNone) = some f) (hown : f.own = true)
    {a : Nat} {v : Row} {m : BitVec 256} {tag : Bool} {ch : Option (BitVec 10)} (hbody : f.body = .write a v m tag ch) :
    exec (.frameAck f.fid []) s = .next (s.dropOut f.fid) := by
  have hpassed : s.passed f = false := by rw [State.passed, hown]; rfl
  have hbeyond : ([] : List Byte) ≠ beyondAck := nofun
  change execFrameAck f.fid [] s = _
  simp only [execFrameAck, hf, hpassed, hbody, if_neg hbeyond, Bool.false_eq_true, if_false]

/-- What another peer's frame was passed on as keeps its answer for it (R93). -/
theorem exec_frameAck_passed (hf : (s.outFrames.find? fun g => decide (g.fid = f.fid) && g.reply.isNone) = some f) (hown : f.own = false)
    (hin : ∃ i ∈ s.inbound, f.fid ∈ i.uids) (data : List Byte) :
    exec (.frameAck f.fid data) s = .next (s.modOut f.fid fun g => { g with reply := some data }) := by
  obtain ⟨i, hi, hu⟩ := hin
  have hpassed : s.passed f = true := by
    rw [State.passed, hown]
    exact List.any_eq_true.mpr ⟨i, hi, List.contains_iff_mem.mpr hu⟩
  change execFrameAck f.fid data s = _
  simp only [execFrameAck, hf, hpassed, if_true]

/-- A frame as it goes out again: its wait doubles, and it goes where its peer is bound now (R385). -/
def State.resent (s : State) (f : OutFrame) : OutFrame :=
  { f with
    sends := f.sends + 1
    wait := s.wall + 95000 * 2 ^ f.sends
    ip := (s.peer f.dev).ip
    port := (s.peer f.dev).port
    sub := (s.peer f.dev).sub }

theorem exec_retransmitTimeout_again (hf : (s.outFrames.find? fun g => decide (g.fid = f.fid) && g.reply.isNone && !g.held) = some f)
    (hwait : f.wait ≤ s.wall) (hsends : f.sends < 7) :
    exec (.retransmitTimeout f.fid) s = .next ((s.modOut f.fid fun _ => s.resent f).emit (.frame (s.resent f))) := by
  have hwaits : usCycles (50 * 2 ^ f.sends) = 95000 * 2 ^ f.sends := by
    rw [usCycles, ← Nat.mul_assoc]
  change execRetransmitTimeout f.fid s = _
  simp only [execRetransmitTimeout, hf, if_neg (Nat.not_lt.mpr hwait), if_pos hsends, hwaits]
  rfl

/-- A peer to which no frame is on its way is down at its own report, which is recorded (R385). -/
theorem peerResetReport_down {dev : BitVec 12} (hup : s.peerUp dev = true) (hnone : ∀ f ∈ s.outFrames, f.dev ≠ dev)
    (hroom : s.log.length < 65280) :
    ∃ t, exec (.peerResetReport dev) s = .next t ∧ t.peerUp dev = false ∧ s.Logs t 0x28 2 := by
  have hlost : (s.outFrames.filter fun f => f.dev == dev && f.reply.isNone && !s.passed f) = [] :=
    List.filter_eq_nil_iff.mpr fun f hf => by simp [hnone f hf]
  have hdown : ((s.peers.map fun p => if p.dev = dev then { p with down := true, trig := 2 } else p).any
      fun p => p.dev == dev && p.valid && !p.down) = false := by
    rw [List.any_map]
    refine List.any_eq_false.mpr fun p _ => ?_
    by_cases hp : p.dev = dev <;> simp [hp]
  have hexec : exec (.peerResetReport dev) s = .next (s.peerDown dev 2) := by
    change execPeerResetReport dev s = _
    rw [execPeerResetReport, if_pos hup]
  refine ⟨_, hexec, ?_⟩
  simp only [State.peerDown, hlost, List.foldl_nil, List.any_nil]
  rw [State.writeRecord_room]
  · exact ⟨hdown, _, rfl, rfl, rfl, rfl⟩
  · exact hroom
  · exact (by decide : 2 ≠ 3)

end Sent

/-- Settles O49: each clause is its event's lemma. -/
theorem fabricEventsComplete : Obligations.FabricEventsComplete := by
  refine ⟨fun s f hup => ⟨fun data => exec_frameReceive_known hup, fun a l tag hseen hbody hrange => ⟨fun hnew hhanded => ?enters,
      fun i hi hframe hflags hdone hout hdeltas => ?acked⟩⟩,
    fun s f a v m tag ch hf => ⟨fun hown hbody => exec_frameAck_own hf hown hbody, exec_frameAck_passed hf⟩,
    fun s f hf hwait hsends => exec_retransmitTimeout_again hf hwait hsends,
    fun s dev hup hnone hroom => peerResetReport_down hup hnone hroom,
    fun s d h hd => ⟨collapse_begins hd, fun hc ha => ?ack, fun n w ha hn hw => ?resend, leaseRenewal_noted hd,
      fun w n x hhome hh hw => ?lapse⟩,
    fun s frame h hd hm hf => readDuplication_first hd hm hf,
    fabricSessionReopen_clears,
    fun s frame die dev hd hm hf => pageMigration_starts die dev hd hm hf,
    fun s m hm hcopied hgood hout hready => handover_completes hm hcopied hgood hout hready,
    fun s m hm => migrationAbandon_ends hm,
    fun s asid tid tile l hl => ⟨pageDemotion_noted hl, fun d => demotionRestore_ends hl⟩⟩
  case enters =>
    obtain ⟨n, hexec⟩ := frame_enters hup hseen hbody hrange hnew hhanded
    exact ⟨_, _, _, hexec, rfl, rfl, rfl, rfl, rfl, fun _ => rfl, partWrites_exact f a s.uid l tag⟩
  case acked =>
    exact ⟨_, frame_acknowledged hup hseen hbody hi hframe hflags hdone hout hdeltas, rfl, rfl, rfl, fun _ => rfl⟩
  case ack =>
    refine ⟨_, exec_invalidationAck_awaited hd hc ha, ?_⟩
    rw [State.dupOf_acked hc]
    split <;> rfl
  case resend => exact ⟨_, exec_invalidationResend_due hd ha hn hw, State.dupOf_setDup s { d with acks := [(h, n + 1, s.wall)] }, rfl⟩
  case lapse => exact ⟨_, exec_leaseLapse_held hd hhome hh hw, State.dupOf_finishCollapse s d⟩

end Sys2Proof.Machine
end

section
/-! SUPPORT. Numbers as lanes hold them: fields, halves and bytes of a lane, and results that fit BF16. -/

namespace Sys2Proof.Machine

/-! ## Fields of a lane (R250, R252) -/

theorem toNat_extractLsb'_eq_fieldOf {n : Nat} (b : BitVec n) (lo w : Nat) : (b.extractLsb' lo w).toNat = fieldOf b.toNat lo w := by
  rw [BitVec.extractLsb'_toNat, Nat.shiftRight_eq_div_pow]
  rfl

/-- A field with its sign, as a number that is below zero from the middle of its range on. -/
theorem signExtend_eq_ite {w : Nat} (hw : 0 < w) (x : BitVec w) :
    x.signExtend 32 = if 2 ^ (w - 1) ≤ x.toNat then BitVec.ofInt 32 ((x.toNat : Int) - 2 ^ w) else BitVec.ofNat 32 x.toNat := by
  have hpow : 2 ^ w = 2 * 2 ^ (w - 1) := by rw [← Nat.pow_succ', Nat.succ_eq_add_one, Nat.sub_add_cancel hw]
  rw [BitVec.signExtend, BitVec.toInt_eq_toNat_cond]
  by_cases h : 2 ^ (w - 1) ≤ x.toNat
  · rw [if_pos h, if_neg (by omega)]
    norm_cast
  · rw [if_neg h, if_pos (by omega), BitVec.ofInt_natCast]

theorem extField_eq_fieldIn (sgn : Bool) (m : BitVec 5) (a : Lane) : extField sgn m a = fieldIn sgn m a := by
  cases hm : m.getLsbD 0 <;> cases sgn <;>
    simp only [extField, fieldIn, byteIn, hm, if_true, if_false, Bool.false_eq_true, Bool.true_and, Bool.false_and,
      ← toNat_extractLsb'_eq_fieldOf, signExtend_eq_ite (w := 8) (by decide), signExtend_eq_ite (w := 16) (by decide), decide_eq_true_eq,
      BitVec.ofNat_toNat]

/-! ## Replaced fields (R252) -/

/-- A number around one of its fields. -/
theorem putField_eq (x lo w v : Nat) : putField x lo w v = 2 ^ lo * (2 ^ w * (x / 2 ^ (lo + w)) + v % 2 ^ w) + x % 2 ^ lo := by
  have hlow := Nat.div_add_mod x (2 ^ lo)
  have hfield := Nat.div_add_mod (x / 2 ^ lo) (2 ^ w)
  rw [Nat.div_div_eq_div_mul, ← Nat.pow_add] at hfield
  rw [← hfield, Nat.mul_add] at hlow
  rw [putField, fieldOf, Nat.mul_add, Nat.mul_comm _ (2 ^ lo), Nat.mul_comm (v % 2 ^ w)]
  omega

theorem testBit_putField (x lo w v i : Nat) :
    (putField x lo w v).testBit i = if lo ≤ i ∧ i < lo + w then v.testBit (i - lo) else x.testBit i := by
  rw [putField_eq, Nat.testBit_two_pow_mul_add _ (Nat.mod_lt _ (Nat.two_pow_pos lo))]
  by_cases hlo : i < lo
  · rw [if_pos hlo, if_neg (by omega), Nat.testBit_mod_two_pow, decide_eq_true hlo, Bool.true_and]
  · rw [if_neg hlo, Nat.testBit_two_pow_mul_add _ (Nat.mod_lt _ (Nat.two_pow_pos w))]
    by_cases hw : i - lo < w
    · rw [if_pos hw, if_pos (by omega), Nat.testBit_mod_two_pow, decide_eq_true hw, Bool.true_and]
    · rw [if_neg hw, if_neg (by omega), Nat.testBit_div_two_pow]
      congr 1
      omega

/-- A narrowed value at its position. -/
theorem placeAt_eq_placed (w q : Nat) (mrg : Bool) (old : Lane) (v : Nat) : placeAt w q mrg old v = placed w q mrg old (BitVec.ofNat 32 v) := by
  have hbase : (if mrg then old.toNat else 0) = (if mrg then old else 0).toNat := by cases mrg <;> rfl
  refine BitVec.eq_of_getLsbD_eq fun i hi => ?_
  rw [placeAt, placed, hbase, BitVec.getLsbD_ofNat, testBit_putField]
  simp only [BitVec.getLsbD_or, BitVec.getLsbD_and, BitVec.getLsbD_not, BitVec.getLsbD_shiftLeft, BitVec.getLsbD_ofNat,
    Nat.testBit_two_pow_sub_one, BitVec.testBit_toNat, hi, decide_true, Bool.true_and]
  by_cases hlo : i < w * q
  · rw [if_neg (by omega)]
    simp [hlo]
  · by_cases hw : i < w * q + w
    · have hin : i - w * q < w := by omega
      have h32 : i - w * q < 32 := by omega
      rw [if_pos ⟨by omega, hw⟩]
      simp [hlo, hin, h32]
    · have hout : ¬ i - w * q < w := by omega
      rw [if_neg (by omega)]
      simp [hlo, hout]

/-! ## Two BF16 elements in a lane (R248) -/

theorem half_zero (a : Lane) : half a 0 = a.toNat % 65536 := by
  rw [half, toNat_extractLsb'_eq_fieldOf, fieldOf]
  exact congrArg (· % 65536) (Nat.div_one _)

theorem half_one (a : Lane) : half a 1 = a.toNat / 65536 := by
  rw [half, toNat_extractLsb'_eq_fieldOf, fieldOf]
  exact Nat.mod_eq_of_lt (by have := a.isLt; omega)

/-- Two numbers of 16 bits, one in each half of a lane. -/
theorem ofNat_add_eq_append {lo hi : Nat} (hlo : lo < 65536) :
    BitVec.ofNat 32 (lo + 65536 * hi) = BitVec.ofNat 16 hi ++ BitVec.ofNat 16 lo := by
  apply BitVec.eq_of_toNat_eq
  rw [BitVec.toNat_append, BitVec.toNat_ofNat, BitVec.toNat_ofNat, BitVec.toNat_ofNat, Nat.mod_eq_of_lt (a := lo) hlo,
    ← Nat.shiftLeft_add_eq_or_of_lt (by omega), Nat.shiftLeft_eq]
  omega

theorem pair2_eq_halves {f : Nat → Nat → Nat × FlagBits} (hf : ∀ x y, (f x y).1 < 65536) (a b : Lane) :
    pair2 f a b = halves fun k => f (half a k) (half b k) := by
  simp only [pair2, halves, half_zero, half_one, ofNat_add_eq_append (hf _ _)]

/-! ## Four bytes in a lane (R250) -/

/-- Is the sum of two bytes clamped? -/
def byteClips (sgn : Bool) (x y : BitVec 8) : Bool :=
  if sgn then x.toInt + y.toInt < -128 || 127 < x.toInt + y.toInt else 255 < x.toNat + y.toNat
/-- The sum of two bytes with its clamp. -/
def byteSum (sgn : Bool) (x y : BitVec 8) : BitVec 8 :=
  if byteClips sgn x y then (if sgn then (if x.msb then 0x80 else 0x7F) else 0xFF) else x + y

theorem byteAdd_toNat (sgn : Bool) (x y : BitVec 8) :
    byteAdd sgn x.toNat y.toNat = ((byteSum sgn x y).toNat, if byteClips sgn x y then flSAT else 0) := by
  have hx := x.isLt
  have hy := y.isLt
  cases sgn with
  | false =>
    by_cases h : 255 < x.toNat + y.toNat
    · simp [byteAdd, byteSum, byteClips, h]
    · simp only [byteAdd, byteSum, byteClips, h, Bool.false_eq_true, if_false, decide_false, BitVec.toNat_add]
      rw [Nat.mod_eq_of_lt (by omega)]
  | true =>
    simp only [byteAdd, byteSum, byteClips, if_true, BitVec.ofNat_toNat, BitVec.setWidth_eq]
    have hmsb : x.msb = decide (x.toInt < 0) := BitVec.msb_eq_toInt
    have htx := BitVec.toInt_eq_toNat_cond x
    have hty := BitVec.toInt_eq_toNat_cond y
    by_cases hlo : x.toInt + y.toInt < -128
    · have hneg : x.toInt < 0 := by split at hty <;> omega
      simp [hlo, hmsb, hneg]
    · by_cases hhi : 127 < x.toInt + y.toInt
      · have hpos : ¬ x.toInt < 0 := by split at hty <;> omega
        simp [hlo, hhi, hmsb, hpos]
      · have hsum : ((x.toInt + y.toInt) % 256).toNat = (x + y).toNat := by
          rw [BitVec.toNat_add]
          split at htx <;> split at hty <;> omega
        simp [hlo, hhi, hsum]

theorem ofNat_packNat_bytes (g : Nat → Nat) :
    BitVec.ofNat 32 (packNat 8 g 4) = BitVec.ofNat 8 (g 3) ++ BitVec.ofNat 8 (g 2) ++ BitVec.ofNat 8 (g 1) ++ BitVec.ofNat 8 (g 0) := by
  apply BitVec.eq_of_toNat_eq
  have happend {w : Nat} (x : BitVec w) (k : Nat) : (x ++ BitVec.ofNat 8 (g k)).toNat = x.toNat * 2 ^ 8 + g k % 2 ^ 8 := by
    rw [BitVec.toNat_append, ← Nat.shiftLeft_add_eq_or_of_lt (BitVec.isLt _), BitVec.toNat_ofNat, Nat.shiftLeft_eq]
  rw [happend, happend, happend, BitVec.toNat_ofNat, BitVec.toNat_ofNat]
  simp only [packNat]
  omega

theorem byteAdds_eq_bytesAdded (sgn : Bool) (a b : Lane) : byteAdds sgn a b = bytesAdded sgn a b := by
  have hbyte (k : Nat) : byteAdd sgn (fieldOf a.toNat (8 * k) 8) (fieldOf b.toNat (8 * k) 8) =
      ((byteSum sgn (byteIn a k) (byteIn b k)).toNat, if byteClips sgn (byteIn a k) (byteIn b k) then flSAT else 0) := by
    rw [← byteAdd_toNat, byteIn, byteIn, toNat_extractLsb'_eq_fieldOf, toNat_extractLsb'_eq_fieldOf]
  have hadded : bytesAdded sgn a b = (byteSum sgn (byteIn a 3) (byteIn b 3) ++ byteSum sgn (byteIn a 2) (byteIn b 2) ++
      byteSum sgn (byteIn a 1) (byteIn b 1) ++ byteSum sgn (byteIn a 0) (byteIn b 0),
      if byteClips sgn (byteIn a 0) (byteIn b 0) || byteClips sgn (byteIn a 1) (byteIn b 1) || byteClips sgn (byteIn a 2) (byteIn b 2) ||
        byteClips sgn (byteIn a 3) (byteIn b 3) then flSAT else 0) := rfl
  have hor (p q : Bool) : (if p then flSAT else 0) ||| (if q then flSAT else 0) = if p || q then flSAT else 0 := by
    cases p <;> cases q <;> rfl
  simp only [byteAdds, hbyte, hadded, ofNat_packNat_bytes, BitVec.ofNat_toNat, BitVec.setWidth_eq, hor]

/-! ## Integers of 32 bits (R249, R250) -/

theorem mulHigh_signed (a b : Lane) : mulHigh true a b = (a.signExtend 64 * b.signExtend 64).extractLsb' 32 32 := by
  apply BitVec.eq_of_toNat_eq
  simp only [mulHigh, if_true, BitVec.signExtend, ← BitVec.ofInt_mul, toNat_extractLsb'_eq_fieldOf, fieldOf, BitVec.toNat_ofInt]
  omega

theorem mulHigh_unsigned (a b : Lane) : mulHigh false a b = (a.zeroExtend 64 * b.zeroExtend 64).extractLsb' 32 32 := by
  have hprod : a.toNat * b.toNat < 2 ^ 32 * 2 ^ 32 := Nat.mul_lt_mul'' a.isLt b.isLt
  apply BitVec.eq_of_toNat_eq
  rw [toNat_extractLsb'_eq_fieldOf, BitVec.toNat_mul, BitVec.toNat_setWidth_of_le (by decide), BitVec.toNat_setWidth_of_le (by decide),
    Nat.mod_eq_of_lt (by omega)]
  rfl

theorem clz32_eq_clz (a : Lane) : clz32 a = a.clz := by
  rw [clz32]
  by_cases h : a = 0
  · rw [if_pos h, h]
    decide
  · have hlow := BitVec.two_pow_sub_clz_le_toNat_of_ne_zero (by decide) h
    have hhigh := BitVec.toNat_lt_two_pow_sub_clz (x := a)
    have hne : a.toNat ≠ 0 := fun h0 => h (BitVec.eq_of_toNat_eq h0)
    have hle : 32 - 1 - a.clz.toNat ≤ a.toNat.log2 := (Nat.le_log2 hne).mpr hlow
    have hlt : a.toNat.log2 < 32 - a.clz.toNat := (Nat.log2_lt hne).mpr hhigh
    rw [if_neg h]
    apply BitVec.eq_of_toNat_eq
    rw [BitVec.toNat_ofNat]
    omega

theorem popc32_eq_cpop (a : Lane) : popc32 a = a.cpop := by
  have hcount : a.cpopNatRec 32 0 = (List.range 32).countP fun i => a.getLsbD i := by
    rw [← BitVec.cpopNatRec_setWidth_of_le (v := 64) a (by decide), cpopNatRec_eq_length, Nat.zero_add, ← List.countP_eq_length_filter]
    refine List.countP_congr fun i hi => ?_
    have hlt : i < 64 := Nat.lt_trans (List.mem_range.mp hi) (by decide)
    rw [BitVec.getLsbD_setWidth, decide_eq_true hlt, Bool.true_and]
  have hle := BitVec.toNat_cpop_le a
  apply BitVec.eq_of_toNat_eq
  rw [BitVec.toNat_cpop, hcount] at hle ⊢
  rw [popc32, BitVec.toNat_ofNat]
  exact Nat.mod_eq_of_lt (by omega)

theorem bitrev32_eq_reverse (a : Lane) : bitrev32 a = a.reverse := by
  refine BitVec.eq_of_getLsbD_eq fun i hi => ?_
  have hbit : (bitrev32 a).getLsbD i = a.getLsbD (31 - i) := getLsbD_mkTags 32 (fun i => a.getLsbD (31 - i)) i hi
  rw [hbit, BitVec.getLsbD_reverse, BitVec.getMsbD_eq_getLsbD, decide_eq_true hi, Bool.true_and]

theorem byteExt_eq (m : BitVec 5) (a : Lane) : byteExt m a =
    if m.getLsbD 0 then (byteIn a (m.toNat / 2 % 4)).setWidth 32 else (byteIn a (m.toNat / 2 % 4)).signExtend 32 := by
  simp only [byteExt, ofNat_fieldOf]
  rfl

/-! ## Results that fit BF16 (R105, R107) -/

theorem signBit_bf16_le (neg : Bool) : signBit bf16 neg ≤ 2 ^ 15 := by cases neg <;> decide

/-- Rounding to an integer goes at most one up. -/
theorem roundShift_bounds (rm : Rm) (neg : Bool) (m k : Nat) :
    m / 2 ^ k ≤ (roundShift rm neg m k).1 ∧ (roundShift rm neg m k).1 ≤ m / 2 ^ k + 1 := by
  have hup (up : Bool) : m / 2 ^ k ≤ (if up then m / 2 ^ k + 1 else m / 2 ^ k) ∧ (if up then m / 2 ^ k + 1 else m / 2 ^ k) ≤ m / 2 ^ k + 1 := by
    cases up
    · exact ⟨Nat.le_refl _, Nat.le_succ _⟩
    · exact ⟨Nat.le_succ _, Nat.le_refl _⟩
  unfold roundShift
  dsimp only
  split
  · exact ⟨Nat.le_refl _, Nat.le_succ _⟩
  · exact hup _

/-- A number that is tiny once rounded to n + 1 bits lies below the smallest normal. -/
theorem log2_lt_of_tiny {rm : Rm} {neg : Bool} {m n : Nat} {e emin : Int} (hm : m ≠ 0)
    (h : ((roundShift rm neg m (m.log2 + 1 - (n + 1))).1.log2 : Int) + (e + (m.log2 + 1 - (n + 1) : Nat)) < emin) :
    (m.log2 : Int) + e < emin := by
  have hk : m.log2 + 1 - (n + 1) ≤ m.log2 := by omega
  generalize m.log2 + 1 - (n + 1) = k at h hk
  have hpow : 2 ^ (m.log2 - k) ≤ m / 2 ^ k := by
    rw [Nat.le_div_iff_mul_le (Nat.two_pow_pos k), ← Nat.pow_add, Nat.sub_add_cancel hk]
    exact Nat.log2_self_le hm
  have hq := Nat.le_trans hpow (roundShift_bounds rm neg m k).1
  have hlog : m.log2 - k ≤ (roundShift rm neg m k).1.log2 :=
    (Nat.le_log2 (Nat.ne_of_gt (Nat.lt_of_lt_of_le (Nat.two_pow_pos _) hq))).mpr hq
  omega

/-- The magnitude of a number below the smallest normal fits the mantissa. -/
theorem roundShift_subnormal_le {rm : Rm} {neg : Bool} {m n : Nat} {e lo : Int} (h : (m.log2 : Int) + e < lo + n) :
    (roundShift rm neg (m * 2 ^ (e - lo).toNat) (lo - e).toNat).1 ≤ 2 ^ n := by
  have hlt : m * 2 ^ (e - lo).toNat < 2 ^ n * 2 ^ (lo - e).toNat := by
    calc m * 2 ^ (e - lo).toNat < 2 ^ (m.log2 + 1) * 2 ^ (e - lo).toNat :=
          Nat.mul_lt_mul_of_pos_right Nat.lt_log2_self (Nat.two_pow_pos _)
      _ = 2 ^ (m.log2 + 1 + (e - lo).toNat) := (Nat.pow_add ..).symm
      _ ≤ 2 ^ (n + (lo - e).toNat) := Nat.pow_le_pow_right (by decide) (by omega)
      _ = 2 ^ n * 2 ^ (lo - e).toNat := Nat.pow_add ..
  have hdiv := Nat.div_lt_of_lt_mul (Nat.mul_comm (2 ^ n) _ ▸ hlt)
  have hup := (roundShift_bounds rm neg (m * 2 ^ (e - lo).toNat) (lo - e).toNat).2
  omega

theorem overflow_bf16_lt (rm : Rm) (sat neg : Bool) : (overflow bf16 rm sat neg).1 < 65536 := by
  cases rm <;> cases sat <;> cases neg <;> decide

theorem roundTo_bf16_lt (rm : Rm) (sat ftz neg : Bool) (m : Nat) (e : Int) : (roundTo bf16 rm sat ftz neg m e).1 < 65536 := by
  have hsign := signBit_bf16_le neg
  have hrange (w : Nat) (fl : FlagBits) : (if maxFinite bf16 < w then overflow bf16 rm sat neg else (signBit bf16 neg + w, fl)).1 < 65536 := by
    have hmax : maxFinite bf16 = 32639 := by decide
    split
    · exact overflow_bf16_lt rm sat neg
    · dsimp only
      omega
  unfold roundTo
  split
  · exact Nat.lt_of_le_of_lt hsign (by decide)
  next hm =>
    dsimp only
    split
    next htiny =>
      split
      · exact Nat.lt_of_le_of_lt hsign (by decide)
      · have hlog := log2_lt_of_tiny hm htiny
        have hfit := roundShift_subnormal_le (rm := rm) (neg := neg) (m := m) (n := bf16.mb) (e := e) (lo := bf16.emin - bf16.mb) (by omega)
        have hmb : 2 ^ bf16.mb = 128 := by decide
        dsimp only
        omega
    next => exact hrange _ _

theorem roundFp_bf16_lt (md : FMode) (x : Fp) : (roundFp bf16 md x).1 < 65536 := by
  cases x with
  | nan sig => exact (by decide : canonNaN bf16 < 65536)
  | inf neg => exact (by cases neg <;> decide : infBits bf16 neg < 65536)
  | num neg m e => exact roundTo_bf16_lt ..

theorem finishBf_lt (md : FMode) (x : Fp × FlagBits) : (finishBf md x).1 < 65536 := roundFp_bf16_lt ..

theorem hAdd_lt (md : FMode) (a b : Nat) : (hAdd md a b).1 < 65536 := finishBf_lt ..

theorem hMul_lt (md : FMode) (a b : Nat) : (hMul md a b).1 < 65536 := finishBf_lt ..

theorem hMinMax_lt (isMax : Bool) (md : FMode) (a b : Nat) : (hMinMax isMax md a b).1 < 65536 :=
  Nat.div_lt_of_lt_mul (BitVec.isLt _)

theorem pairFma_eq_halves (md : FMode) (a b c : Lane) :
    pairFma md a b c = halves fun k => hFma md (half a k) (half b k) (half c k) := by
  simp only [pairFma, halves, half_zero, half_one, ofNat_add_eq_append (finishBf_lt _ _), hFma]

/-! ## CVTI8 (R110) -/

theorem toInt8_eq (uns : Bool) (md : FMode) (a : Lane) : toInt8 uns md a =
    if md.sat && (a.toInt < (if uns then 0 else -128) || (if uns then 255 else 127) < a.toInt) then
      ((BitVec.ofInt 8 (if a.toInt < (if uns then 0 else -128) then (if uns then 0 else -128) else if uns then 255 else 127)).toNat,
        flSAT ||| flNX)
    else ((a.setWidth 8).toNat, 0) := by
  have hmod : (a.toInt % 256).toNat = a.toNat % 256 := by
    have h := BitVec.toInt_eq_toNat_cond a
    split at h <;> omega
  simp only [toInt8, BitVec.toNat_ofInt, BitVec.toNat_setWidth, hmod]
  cases md.sat with
  | false => rfl
  | true =>
    by_cases hlo : a.toInt < if uns then 0 else -128
    · simp [hlo]
    · by_cases hhi : (if uns then 255 else 127) < a.toInt <;> simp [hlo, hhi]

end Sys2Proof.Machine
end

section
/-! SUPPORT. The lane operations, each as one lane-wise expansion; they settle O18. -/

namespace Sys2Proof.Machine

/-- The record of a lane operation is a vector record whose expansions apply the operation to the lanes of the same number. -/
def LaneOp.Executes (e : LaneOp) : Prop := ∀ r : Rec, (∃ op, recOf (e.ctor r) = some (.ve, op, r)) ∧
  ∀ s, exec (e.ctor r) s = .next (issueRec (e.ctor r) r
    (vApply e.lat (laneWise (e.mrg r.mod) (fun x => e.pv x.mod) fun x => e.f x.md x.mod) r) s)

theorem lanesComplete_of_executes {ops : List LaneOp} (h : ∀ e ∈ ops, e.Executes) : LanesComplete ops := by
  intro e he r s u off k mode a b hx ha hb hr c old act
  obtain ⟨⟨op, hi⟩, hexec⟩ := h e he r
  obtain ⟨t, ht, hputs⟩ := vApply_lanes (mrg := e.mrg r.mod) (pv := fun x => e.pv x.mod) (f := fun x => e.f x.md x.mod) hi hx ha hb hr
  exact ⟨t, _, (hexec s).trans (congrArg Host.Outcome.next ht), hputs, laneWise_lanes _ _ _ _⟩

/-! ## FP32 (R245, R246, R254) -/

theorem fcvtrFmt_eq (m : BitVec 5) : fcvtrFmt m = if m.toNat % 4 = 0 then bf16 else if m.toNat % 4 = 1 then e4m3 else e5m2 := by
  unfold fcvtrFmt
  split
  next h => rw [h]; rfl
  next h => rw [h]; rfl
  next h0 h1 => rw [if_neg h0, if_neg h1]

theorem qscMax_eq (m : BitVec 5) : qscMax m = if m.toNat % 4 = 0 then 448 else if m.toNat % 4 = 1 then 57344 else 127 := by
  unfold qscMax
  split
  next h => rw [h]; rfl
  next h => rw [h]; rfl
  next h0 h1 => rw [if_neg h0, if_neg h1]

theorem fpOps_execute : ∀ e ∈ fpOps, e.Executes := by
  intro e he
  simp only [fpOps, List.mem_cons, List.not_mem_nil, or_false, ← fcvtrFmt_eq, ← qscMax_eq] at he
  rcases he with rfl | rfl | rfl | rfl | rfl | rfl | rfl | rfl | rfl | rfl | rfl | rfl | rfl | rfl | rfl | rfl | rfl | rfl | rfl | rfl |
    rfl | rfl | rfl | rfl <;> exact fun _ => ⟨⟨_, rfl⟩, fun _ => rfl⟩

/-! ## BF16 pairs (R248) -/

/-- An operation on two BF16 elements acts on the two halves of a lane. -/
theorem laneH_eq_pair2 {f : FMode → Nat → Nat → Nat × FlagBits} (hf : ∀ md x y, (f md x y).1 < 65536) (ctor : Rec → Instr) (lat : Nat) :
    laneH ctor lat (fun md a b _ => f md a b) =
      ⟨ctor, lat, fun md _ a b _ _ => pair2 (f md) a b, fun _ _ => 0x7FC07FC0, fun _ => false⟩ := by
  simp only [pair2_eq_halves (hf _)]
  rfl

theorem laneH_hFma_eq_pairFma (ctor : Rec → Instr) (lat : Nat) : laneH ctor lat hFma =
    ⟨ctor, lat, fun md _ a b c _ => pairFma md a b c, fun _ _ => 0x7FC07FC0, fun _ => false⟩ := by
  simp only [pairFma_eq_halves]
  rfl

theorem bf16Ops_execute : ∀ e ∈ bf16Ops, e.Executes := by
  intro e he
  rw [bf16Ops, laneH_eq_pair2 hAdd_lt, laneH_eq_pair2 hMul_lt, laneH_hFma_eq_pairFma, laneH_eq_pair2 (hMinMax_lt true),
    laneH_eq_pair2 (hMinMax_lt false)] at he
  simp only [List.mem_cons, List.not_mem_nil, or_false] at he
  rcases he with rfl | rfl | rfl | rfl | rfl <;> exact fun _ => ⟨⟨_, rfl⟩, fun _ => rfl⟩

/-! ## Integers (R249, R250) -/

theorem intOps_execute : ∀ e ∈ intOps, e.Executes := by
  intro e he
  simp only [intOps, List.mem_cons, List.not_mem_nil, or_false, ← mulHigh_signed, ← mulHigh_unsigned, ← clz32_eq_clz, ← popc32_eq_cpop,
    ← bitrev32_eq_reverse, ← extField_eq_fieldIn, ← byteAdds_eq_bytesAdded, BitVec.slt, BitVec.ult, decide_eq_true_eq] at he
  rcases he with rfl | rfl | rfl | rfl | rfl | rfl | rfl | rfl | rfl | rfl | rfl | rfl | rfl | rfl | rfl | rfl | rfl | rfl | rfl | rfl |
    rfl | rfl | rfl | rfl | rfl | rfl <;> exact fun _ => ⟨⟨_, rfl⟩, fun _ => rfl⟩

/-! ## Conversions (R251, R252) -/

theorem canonNaN_f8Fmt (m : BitVec 5) : canonNaN (f8Fmt m) = if m.getLsbD 0 then 0x7E else 0x7F := by
  unfold f8Fmt
  cases m.getLsbD 0 <;> rfl

theorem half_eq_fieldOf (a : Lane) (k : Nat) : half a k = fieldOf a.toNat (16 * k) 16 := toNat_extractLsb'_eq_fieldOf ..

theorem byteIn_eq_fieldOf (a : Lane) (k : Nat) : (byteIn a k).toNat = fieldOf a.toNat (8 * k) 8 := toNat_extractLsb'_eq_fieldOf ..

/-- The arguments of an expansion hold its record's MOD. -/
theorem vArgs_mod {r : Rec} {c : Ctx} {s t : State} {x : VArgs} (h : vArgs r c s = .ok (x, t)) : x.mod = r.mod := by
  unfold vArgs at h
  dsimp only at h
  split at h
  · exact absurd h (by simp)
  · exact absurd h (by simp)
  · obtain ⟨rfl, _⟩ := Prod.mk.inj (Except.ok.inj h)
    rfl

/-- Results that agree for the record's MOD are one meaning. -/
theorem vApply_congr {lat : Nat} {f g : VArgs → VRes} {r : Rec} (h : ∀ x, x.mod = r.mod → f x = g x) : vApply lat f r = vApply lat g r := by
  funext c s
  unfold vApply
  split
  next => rfl
  next x t hx => rw [h x (vArgs_mod hx)]

/-- A narrowing conversion is the lane operation of its format, position and merge bit. -/
theorem laneN_executes {ctor : Rec → Instr} {w bit : Nat} {pos pv : BitVec 5 → Nat} {f : FMode → BitVec 5 → Lane → Nat × FlagBits}
    (h : ∀ r, (∃ op, recOf (ctor r) = some (.ve, op, r)) ∧
      ∀ s, exec (ctor r) s = .next (issueRec (ctor r) r (narrow w pos bit pv (fun x a => f x.md x.mod a) r) s)) :
    (laneN ctor w pos bit pv f).Executes := by
  intro r
  have hbody : narrow w pos bit pv (fun x a => f x.md x.mod a) r = vApply 4 (laneWise (r.mod.getLsbD bit)
      (fun x => (laneN ctor w pos bit pv f).pv x.mod) fun x => (laneN ctor w pos bit pv f).f x.md x.mod) r := by
    refine vApply_congr fun x hx => ?_
    simp only [laneN, ← placeAt_eq_placed]
    simp only [laneWise, hx]
  exact ⟨(h r).1, fun s => (h r).2 s |>.trans (by rw [hbody]; rfl)⟩

theorem convOps_execute : ∀ e ∈ convOps, e.Executes := by
  intro e he
  simp only [convOps, List.mem_cons, List.not_mem_nil, or_false, half_eq_fieldOf, byteIn_eq_fieldOf, ← byteExt_eq, ← toInt8_eq,
    ← canonNaN_f8Fmt] at he
  rcases he with rfl | rfl | rfl | rfl | rfl | rfl | rfl | rfl | rfl | rfl
  · exact fun _ => ⟨⟨_, rfl⟩, fun _ => rfl⟩
  · exact fun _ => ⟨⟨_, rfl⟩, fun _ => rfl⟩
  · exact fun _ => ⟨⟨_, rfl⟩, fun _ => rfl⟩
  · exact fun _ => ⟨⟨_, rfl⟩, fun _ => rfl⟩
  · exact laneN_executes fun _ => ⟨⟨_, rfl⟩, fun _ => rfl⟩
  · exact fun _ => ⟨⟨_, rfl⟩, fun _ => rfl⟩
  · exact laneN_executes fun _ => ⟨⟨_, rfl⟩, fun _ => rfl⟩
  · exact fun _ => ⟨⟨_, rfl⟩, fun _ => rfl⟩
  · exact laneN_executes fun _ => ⟨⟨_, rfl⟩, fun _ => rfl⟩
  · exact fun _ => ⟨⟨_, rfl⟩, fun _ => rfl⟩

/-- Settles O18: every operation of the four lists is one lane-wise expansion of its function. -/
theorem laneOperationsComplete : Obligations.LaneOperationsComplete := by
  refine lanesComplete_of_executes fun e he => ?_
  rw [List.mem_append, List.mem_append, List.mem_append] at he
  rcases he with ((he | he) | he) | he
  · exact fpOps_execute e he
  · exact bf16Ops_execute e he
  · exact intOps_execute e he
  · exact convOps_execute e he

end Sys2Proof.Machine
end

section
/-! SUPPORT. What the records of the matrix engine share: several results in flight, the tags and flags of a row, and the keys and rows that
a record reads. -/

namespace Sys2Proof.Machine

/-! ## Several results on their way (R269) -/

/-- A state with a list of results sent, each with a number of its own. -/
def State.sent (u : State) (l : List Landing) : State :=
  ({ u with uid := u.uid + l.length }).setCell u.curCell { u.cur with flight := u.cur.flight ++ l }

theorem State.sent_nil (u : State) : u.sent [] = u := by
  rw [State.sent, List.append_nil]
  exact u.setCur_self

theorem State.landAfter_sent (u : State) (l : List Landing) (c : Ctx) (n : Nat) (d : Land) (vfl mfl : FlagBits) (cfl : BitVec 2) :
    (u.sent l).landAfter c n d vfl mfl cfl =
      u.sent (l ++ [⟨u.now + n * u.div, u.uid + l.length, u.curEng, c.off, d, vfl, mfl, cfl⟩]) := by
  have hnow : (u.sent l).now = u.now := State.now_setCell _ _ _ rfl
  have hdiv : (u.sent l).div = u.div := by
    rw [State.sent, State.div_eq, State.engine_setCell _ _ _ rfl]
    rfl
  rw [State.landAfter, hnow, hdiv]
  simp only [State.sent, State.land, State.modCur_eq, State.setCell_curCell, State.cell_setCell_self, State.setCell_setCell,
    State.setCell_uid, State.setCell_curEng, State.fresh_setCell, List.append_assoc, List.length_append, List.length_singleton]
  rfl

/-- n results sent one after another. -/
theorem foldl_landAfter_eq_sent (u : State) (c : Ctx) (lat : Nat) (d : Nat → Land) (fl : Nat → FlagBits) (n : Nat) :
    (List.range n).foldl (fun t i => t.landAfter c (lat + i) (d i) 0 (fl i)) u =
      u.sent ((List.range n).map fun i => ⟨u.now + (lat + i) * u.div, u.uid + i, u.curEng, c.off, d i, 0, fl i, 0⟩) := by
  induction n with
  | zero => exact u.sent_nil.symm
  | succ n ih =>
    rw [List.range_succ, List.foldl_append, ih, List.foldl_cons, List.foldl_nil, State.landAfter_sent, List.length_map, List.length_range,
      List.map_append, List.map_singleton]

theorem State.landsEach_sent {u : State} (he : u.curEng = .me) (off lat n : Nat) (d : Nat → Land) (fl : Nat → FlagBits) :
    u.LandsEach (u.sent ((List.range n).map fun i => ⟨u.now + (lat + i) * u.div, u.uid + i, u.curEng, off, d i, 0, fl i, 0⟩)) off lat n d fl := by
  rw [State.LandsEach, he]
  exact State.becomes_setCell _ rfl rfl rfl

/-- The rows of an output land one a cycle. -/
theorem landsEach_landRows_each {u : State} (he : u.curEng = .me) (c : Ctx) (lat : Nat) (d : RowDst) (f : Nat → OutRow) (n : Nat) :
    u.LandsEach (landRows c lat d f n u) c.off lat n (fun i => d.land i (f i).v (f i).tag) (fun i => (f i).fl) := by
  rw [landRows, foldl_landAfter_eq_sent u c lat (fun i => d.land i (f i).v (f i).tag) fun i => (f i).fl]
  exact State.landsEach_sent he ..

/-- The rows of a slot are replaced one a cycle. -/
theorem landsEach_landSlot {u : State} (he : u.curEng = .me) (c : Ctx) (lat : Nat) (slot : Fin 16) (f : Nat → SlotOut) :
    u.LandsEach (landSlot c lat slot f u) c.off lat 128 (fun i => .slotSet slot i (f i).v (f i).tags) (fun i => (f i).fl) := by
  rw [landSlot, foldl_landAfter_eq_sent u c lat (fun i => .slotSet slot i (f i).v (f i).tags) fun i => (f i).fl]
  exact State.landsEach_sent he ..

/-! ## Tags and flags of a row (R121) -/

theorem mkTags_ne_zero (n : Nat) (f : Nat → Bool) : (mkTags n f != 0) = (List.range n).any f := by
  rw [Bool.eq_iff_iff, bne_iff_ne, ne_eq, List.any_eq_true]
  constructor
  · intro h
    by_contra hall
    refine h (BitVec.eq_of_getLsbD_eq fun i hi => ?_)
    rw [getLsbD_mkTags _ _ _ hi, show (0 : BitVec n).getLsbD i = false from BitVec.getLsbD_zero]
    exact Bool.eq_false_iff.mpr fun ht => hall ⟨i, List.mem_range.mpr hi, ht⟩
  · rintro ⟨i, hi, ht⟩ h0
    have hbit := getLsbD_mkTags n f i (List.mem_range.mp hi)
    rw [h0, ht, show (0 : BitVec n).getLsbD i = false from BitVec.getLsbD_zero] at hbit
    exact Bool.false_ne_true hbit

theorem lanesFlags_congr {n : Nat} {tag tag' : Nat → Bool} {f f' : Nat → FlagBits} (ht : ∀ i < n, tag i = tag' i)
    (hf : ∀ i < n, f i = f' i) : lanesFlags n tag f = lanesFlags n tag' f' :=
  List.foldl_ext _ _ _ fun a i hi => by rw [ht i (List.mem_range.mp hi), hf i (List.mem_range.mp hi)]

/-- The flags of the lanes whose tag in a row of tags is clear. -/
theorem foldl_mkTags_eq_lanesFlags (n : Nat) (tag : Nat → Bool) (f : Nat → FlagBits) :
    (List.range n).foldl (fun a i => if (mkTags n tag).getLsbD i then a else a ||| f i) 0 = lanesFlags n tag f :=
  lanesFlags_congr (tag := fun i => (mkTags n tag).getLsbD i) (fun i hi => getLsbD_mkTags n tag i hi) fun _ _ => rfl

/-! ## Keys and rows that a record reads (R126, R269) -/

theorem viewKeys_here {c : Ctx} {u : State} {l : List Key} (h : ∀ k ∈ l, u.cur.cr.spilledOf k = none) :
    viewKeys c l u = .ok (l.map u.cur.keyView, u) := by
  induction l with
  | nil => rfl
  | cons k l ih =>
    have hk := needKey_here (c := c) (h k List.mem_cons_self)
    simp only [viewKeys, viewKey, hk, Except.map, ih fun q hq => h q (List.mem_cons_of_mem k hq)]
    rfl

theorem viewKey_here {c : Ctx} {u : State} {k : Key} (h : u.cur.cr.spilledOf k = none) : viewKey c k u = .ok (u.cur.keyView k, u) := by
  rw [viewKey, needKey_here h]
  rfl

/-- Timed reads change the count of a cell's banks only. -/
theorem State.cur_reading (l : List Nat) : ∀ u : State, ∃ o, (u.reading l).cur = { u.cur with ord := o } := by
  induction l with
  | nil => exact fun u => ⟨u.cur.ord, rfl⟩
  | cons r l ih =>
    intro u
    obtain ⟨o, ho⟩ := ih (u.readingRow r)
    exact ⟨o, by rw [State.reading_cons, ho, State.cur_readingRow]⟩

theorem State.spilledOf_reading (u : State) (l : List Nat) : (u.reading l).cur.cr.spilledOf = u.cur.cr.spilledOf := by
  obtain ⟨o, ho⟩ := u.cur_reading l
  rw [ho]

theorem State.keyView_reading (u : State) (l : List Nat) : (u.reading l).cur.keyView = u.cur.keyView := by
  obtain ⟨o, ho⟩ := u.cur_reading l
  rw [ho]
  rfl

/-- The first of several timed reads. -/
theorem mpRead_ok {u : State} {r : Nat} {l : List Nat} (h : u.CanRead (r :: l)) : mpRead r u = .ok (u.mpRow r, u.readingRow r) := by
  have hlt : u.bankUse r < 4 := by
    have hb := h r List.mem_cons_self
    rw [List.countP_cons_of_pos (by simp)] at hb
    have : assocGet 0 u.cur.ord.banks (r % 32) = u.bankUse r := rfl
    omega
  rw [mpRead, State.useBank_ok hlt]
  exact congrArg (fun v => Except.ok (v, u.readingRow r)) (State.mpRow_readingRow u r r)

end Sys2Proof.Machine
end

section
/-! SUPPORT. Binds (R67, R117, R275, R276); they settle O32. -/

namespace Sys2Proof.Machine

/-! ## What a bind reads -/

/-- Two binds with the same slots whose coefficients and poison agree on the 128 rows. -/
structure BindArgs.Agrees (b d : BindArgs) : Prop where
  views : b.views = d.views
  coef  : ∀ k < d.views.length, ∀ i < 128, b.coef k i = d.coef k i
  bad   : ∀ i < 128, b.bad i = d.bad i

section Agrees

variable {b d : BindArgs} {i : Nat}

theorem BindArgs.Agrees.elem (h : b.Agrees d) (hi : i < 128) (ftz : Bool) : b.elem ftz i = bindElem ftz d i := by
  funext j
  rw [BindArgs.elem, bindElem, h.views]
  refine congrArg (bindSum ftz · none 0) (List.mapIdx_eq_mapIdx_iff.mpr fun k hk => ?_)
  rw [h.coef k hk i hi]

theorem BindArgs.Agrees.tag (h : b.Agrees d) (hi : i < 128) : b.tag i = bindPoison d i := by
  funext j
  rw [BindArgs.tag, bindPoison, h.views, h.bad i hi]

/-- Columns 64 q on of a row of a bind. -/
theorem BindArgs.Agrees.quarter (h : b.Agrees d) (hi : i < 128) (ftz : Bool) (q : Nat) :
    let tag (j : Nat) := bindPoison d i (64 * q + j)
    let e (j : Nat) := bindElem ftz d i (64 * q + j)
    (b.quarter ftz q i).tag = (List.range 64).any tag ∧ (b.quarter ftz q i).fl = lanesFlags 64 tag (fun j => (e j).2) ∧
      ∀ j < 64, lane (b.quarter ftz q i).v j = if tag j then 0x7FC00000 else (e j).1 := by
  simp only [BindArgs.quarter, h.elem hi, h.tag hi]
  refine ⟨mkTags_ne_zero .., foldl_mkTags_eq_lanesFlags .., fun j hj => ?_⟩
  rw [lane_mkRow _ _ hj, getLsbD_mkTags _ _ _ hj]
  rfl

/-- All columns of a row of a bind. -/
theorem BindArgs.Agrees.row (h : b.Agrees d) (hi : i < 128) (ftz : Bool) :
    (b.row ftz i).fl = lanesFlags 256 (bindPoison d i) (fun j => (bindElem ftz d i j).2) ∧
      ∀ j < 256, (b.row ftz i).tags.getLsbD j = bindPoison d i j ∧
        slotLane (b.row ftz i).v j = if bindPoison d i j then 0x7FC00000 else (bindElem ftz d i j).1 := by
  simp only [BindArgs.row, h.elem hi, h.tag hi]
  refine ⟨foldl_mkTags_eq_lanesFlags .., fun j hj => ⟨getLsbD_mkTags _ _ _ hj, ?_⟩⟩
  rw [slotLane_mkSlotRow _ _ hj, getLsbD_mkTags _ _ _ hj]
  rfl

end Agrees

/-- The rows of per-row coefficients that a bind with bind row v reads after it. -/
def bindExtra (perRow : Bool) (v : Row) (r0 : Nat) : List Nat := if perRow then (List.range (2 * bindN v)).map (r0 + 1 + ·) else []

/-- The coefficient row of label k and slot row i. -/
theorem getD_map_bindExtra (f : Nat → Row × Bool) (v : Row) (r0 : Nat) (z : Row × Bool) {k i : Nat} (hk : k < bindN v) (hi : i < 128) :
    ((bindExtra true v r0).map f).getD (2 * k + i / 64) z = f (r0 + 1 + (2 * k + i / 64)) := by
  have hlt : 2 * k + i / 64 < 2 * bindN v := by omega
  rw [bindExtra, if_pos rfl, List.map_map, List.getD_eq_getElem?_getD, List.getElem?_map, List.getElem?_range hlt]
  rfl

/-- A bind that can read its rows and its keys has the arguments that Binds describes. -/
theorem bindArgs_binds {perRow : Bool} {r : Rec} {c : Ctx} {u w : State} {b : BindArgs}
    (h : u.Binds r.o1 r.o2 (ixOf r.nest c.k) perRow b w) : ∃ d, bindArgs perRow r c u = .ok (d, w) ∧ d.Agrees b := by
  obtain ⟨r0, key, hrow, hkey, hfit, hread, rfl, hhere, hviews, hcoef, hbad⟩ := h.args
  change u.CanRead (r0 :: bindExtra perRow (u.mpRow r0).1 r0) at hread
  change ∃ d, _ = Except.ok (d, u.reading (r0 :: bindExtra perRow (u.mpRow r0).1 r0)) ∧ _
  have hrows : rowsAt r.o2 1 (ixOf r.nest c.k) u.cur.cc = .ok (some r0) := rowsAt_names ⟨hrow, hrow.1⟩
  have hk := keyAt_names hkey
  have hfits : (perRow && decide (spRows < r0 + 1 + 2 * bindN (u.mpRow r0).1)) = false := by
    cases perRow with
    | false => rfl
    | true => exact decide_eq_false (Nat.not_lt.mpr (hfit rfl))
  have hextra : (if perRow = true then (List.range (2 * bindN (u.mpRow r0).1)).map (r0 + 1 + ·) else []) =
    bindExtra perRow (u.mpRow r0).1 r0 := rfl
  have hreads := mpReads_ok _ hread.tail
  rw [List.map_congr_left fun q _ => State.mpRow_readingRow u r0 q] at hreads
  have hviewed := viewKeys_here (c := c) (u := u.reading (r0 :: bindExtra perRow (u.mpRow r0).1 r0))
    (l := (List.range (bindN (u.mpRow r0).1)).map fun k => ⟨key.tile, bindLabel (u.mpRow r0).1 k⟩) (by
      rw [State.spilledOf_reading]
      intro q hq
      obtain ⟨k, hlt, rfl⟩ := List.mem_map.mp hq
      exact hhere k (List.mem_range.mp hlt))
  rw [State.keyView_reading, State.reading_cons] at hviewed
  rw [State.reading_cons]
  refine ⟨_, by
    simp only [bindArgs, hrows, hk, Option.getD_some, mpRead_ok hread, hextra, hfits, Bool.false_eq_true, if_false, hreads, hviewed]
    rfl, ?views, fun k hk i hi => ?coef, fun i hi => ?bad⟩
  case views =>
    rw [List.map_map, hviews]
    rfl
  case coef =>
    rw [hviews, List.length_map, List.length_range] at hk
    rw [hcoef k hk i hi]
    cases perRow with
    | false => rfl
    | true => exact congrArg (fun e : Row × Bool => lane e.1 (i % 64)) (getD_map_bindExtra u.mpRow _ r0 (0, false) hk hi)
  case bad =>
    rw [hbad i hi]
    cases perRow with
    | false => rfl
    | true =>
      refine congrArg ((u.mpRow r0).2 || ·) (Bool.eq_iff_iff.mpr ?_)
      rw [Bool.true_and, Bool.true_and, List.any_eq_true, List.any_eq_true]
      refine exists_congr fun k => and_congr_right fun hk => ?_
      rw [getD_map_bindExtra u.mpRow _ r0 (0, false) (List.mem_range.mp hk) hi]

/-! ## The three binds -/

/-- Reading keeps what a step of an engine takes from the state. -/
theorem State.Binds.sameTurn {u w : State} {o1 o2 : Opnd} {x : Ix} {perRow : Bool} {b : BindArgs} (h : u.Binds o1 o2 x perRow b w) :
    u.SameTurn w := by
  obtain ⟨r0, key, _, _, _, _, rfl, _⟩ := h.args
  exact (State.reading_frame _ u).1

/-- Settles O32: the arguments of a bind are those of Binds, and its rows are sent one a cycle. -/
theorem bindsComplete : Obligations.BindsComplete := by
  intro r s u off k mode b w x ftz rows
  have hrows {i : Instr} {op : Nat} (perRow : Bool) (hi : recOf i = some (.me, op, r))
      (hexec : ∀ s, exec i s = .next (issueRec i r (bindRows perRow r) s)) : rows i perRow := by
    intro h hb d hd
    obtain ⟨y, hargs, hagree⟩ := bindArgs_binds (c := ⟨off, k, 0, mode⟩) hb
    have hbody : bindRows perRow r ⟨off, k, 0, mode⟩ u =
        .ok (landRows ⟨off, k, 0, mode⟩ 12 d (y.quarter ftz (r.mod.toNat % 4)) 128 w) := by
      have hdst : rowDst r.o0 128 (ixOf r.nest k) u = .ok d := rowDst_dest hd
      simp only [bindRows, hdst, hargs]
      rfl
    refine ⟨_, _, _, (hexec s).trans (congrArg Host.Outcome.next (issueRec_ok hi h hbody)),
      landsEach_landRows_each (hb.sameTurn.eng.trans h.curEng) .., fun i hlt => ?_⟩
    obtain ⟨htag, hfl, hlane⟩ := hagree.quarter hlt ftz (r.mod.toNat % 4)
    exact ⟨_, congrArg (d.land i _) htag, hfl, hlane⟩
  refine ⟨hrows false rfl fun _ => rfl, hrows true rfl fun _ => rfl, fun h hb key slot z hkey hw => ?_⟩
  obtain ⟨y, hargs, hagree⟩ := bindArgs_binds (c := ⟨off, k, 0, mode⟩) hb
  have hbody : bodyBindm r ⟨off, k, 0, mode⟩ u = .ok (landSlot ⟨off, k, 0, mode⟩ 12 slot (y.row ftz) z) := by
    have hk := keyAt_names hkey
    simp only [bodyBindm, show keyAt r.o0 (ixOf r.nest k) u.cur.cc = .ok key from hk, hargs, writeKey_writes hw]
    rfl
  have heng := hw.frame.1.trans (hb.sameTurn.eng.trans h.curEng)
  refine ⟨_, _, _, congrArg Host.Outcome.next (issueRec_ok (body := bodyBindm r) rfl h hbody), landsEach_landSlot heng .., fun i hlt => ?_⟩
  obtain ⟨hfl, hlane⟩ := hagree.row hlt ftz
  exact ⟨_, _, rfl, hfl, hlane⟩

end Sys2Proof.Machine
end

section
/-! SUPPORT. Arithmetic on whole slots (R103, R260, R281, R282); it settles O35. -/

namespace Sys2Proof.Machine

/-! ## Replaced rows (R281) -/

/-- Only the 128 rows and 256 columns of a slot count. -/
theorem State.Replaces.congr {w t : State} {off : Nat} {slot : Fin 16} {tag tag' : Nat → Nat → Bool}
    {f f' : Nat → Nat → Lane × FlagBits} {keep : Bool} (h : w.Replaces t off slot tag f keep)
    (ht : ∀ i < 128, ∀ j < 256, tag i j = tag' i j) (hf : ∀ i < 128, ∀ j < 256, f i j = f' i j) : w.Replaces t off slot tag' f' keep := by
  obtain ⟨g, fl, hlands, hrow⟩ := h
  refine ⟨g, fl, hlands, fun i hi => ?_⟩
  obtain ⟨v, tags, hg, hfl, hcol⟩ := hrow i hi
  refine ⟨v, tags, hg, hfl.trans (lanesFlags_congr (ht i hi) fun j hj => by rw [hf i hi j hj]), fun j hj => ?_⟩
  rw [← ht i hi j hj, ← hf i hi j hj]
  exact hcol j hj

/-- A row of a slot from its tags and elements. -/
def arithRow (tag : Nat → Bool) (f : Nat → Lane × FlagBits) (keep : Bool) : SlotOut :=
  { v := mkSlotRow fun j => if (mkTags 256 tag).getLsbD j && !keep then nan32 else (f j).1
    tags := mkTags 256 tag
    fl := (List.range 256).foldl (fun a j => if (mkTags 256 tag).getLsbD j then a else a ||| (f j).2) 0 }

theorem arithRow_fl (tag : Nat → Bool) (f : Nat → Lane × FlagBits) (keep : Bool) :
    (arithRow tag f keep).fl = lanesFlags 256 tag fun j => (f j).2 := by
  rw [← foldl_mkTags_eq_lanesFlags, arithRow]

theorem arithRow_column (tag : Nat → Bool) (f : Nat → Lane × FlagBits) (keep : Bool) {j : Nat} (hj : j < 256) :
    (arithRow tag f keep).tags.getLsbD j = tag j ∧
      slotLane (arithRow tag f keep).v j = if tag j && !keep then 0x7FC00000 else (f j).1 := by
  refine ⟨getLsbD_mkTags _ _ _ hj, ?_⟩
  rw [arithRow, slotLane_mkSlotRow _ _ hj, getLsbD_mkTags _ _ _ hj]
  rfl

/-- An element-wise operation replaces the rows of the slot that its destination takes. -/
theorem slotArith_replaces {c : Ctx} {dst : Key} {t w : State} {slot : Fin 16} {bad : Nat → Bool} {keep : Bool}
    (hw : t.WritesKey dst slot w) (he : t.curEng = .me) (vs : List SlotView) (f : Nat → Nat → Lane × FlagBits) :
    ∃ z, slotArith c dst t bad vs keep f = .ok z ∧
      w.Replaces z c.off slot (fun i j => bad i || vs.any fun v => (v i).2.getLsbD j) f keep := by
  have hrows : slotArith c dst t bad vs keep f =
      .ok (landSlot c 4 slot (fun i => arithRow (fun j => bad i || vs.any fun v => (v i).2.getLsbD j) (f i) keep) w) := by
    rw [slotArith, writeKey_writes hw]
    rfl
  exact ⟨_, hrows, _, _, landsEach_landSlot (hw.frame.1.trans he) .., fun i _ =>
    ⟨_, _, rfl, arithRow_fl .., fun j hj => arithRow_column _ _ _ hj⟩⟩

/-! ## The sum tree (R260, R282) -/

/-- A pair at the end of a list of pairs. -/
theorem pairSums_append_pair (add : Lane → Lane → Lane × FlagBits) (a b : Lane) (l : List Lane) (h : 2 ∣ l.length) :
    pairSums add (l ++ [a, b]) = ((pairSums add l).1 ++ [(add a b).1], (pairSums add l).2 ||| (add a b).2) := by
  induction l using pairSums.induct (add := add) with
  | case1 x y l ih =>
    have hl : 2 ∣ l.length := (Nat.dvd_add_left (Nat.dvd_refl 2)).mp (h : 2 ∣ l.length + 2)
    simp only [List.cons_append, pairSums, ih hl, BitVec.or_assoc]
  | case2 l hne =>
    match l, h, hne with
    | [], _, _ => simp [pairSums]
    | [x], h, _ => exact absurd h (by simp)
    | x :: y :: l, _, hne => exact absurd rfl (hne x y l)

/-- The flags of n nodes. -/
def nodeFlags (n : Nat) (x : Nat → Lane × FlagBits) : FlagBits := lanesFlags n (fun _ => false) fun i => (x i).2

theorem nodeFlags_succ (n : Nat) (x : Nat → Lane × FlagBits) : nodeFlags (n + 1) x = nodeFlags n x ||| (x n).2 := by
  rw [nodeFlags, lanesFlags, List.range_succ, List.foldl_append]
  rfl

/-- The sums of the pairs are the values of the next level; its flags are those of the sums and of the level below. -/
theorem pairSums_level (md : FMode) (x : Nat → Lane × FlagBits) (m : Nat) :
    (pairSums (fAdd md) ((List.range (2 * m)).map fun i => (x i).1)).1 = (List.range m).map (fun i => (level md x i).1) ∧
      nodeFlags (2 * m) x ||| (pairSums (fAdd md) ((List.range (2 * m)).map fun i => (x i).1)).2 = nodeFlags m (level md x) := by
  induction m with
  | zero => simp [pairSums, nodeFlags, lanesFlags]
  | succ m ih =>
    obtain ⟨hval, hfl⟩ := ih
    have hrange : (List.range (2 * (m + 1))).map (fun i => (x i).1) =
        (List.range (2 * m)).map (fun i => (x i).1) ++ [(x (2 * m)).1, (x (2 * m + 1)).1] := by
      rw [show 2 * (m + 1) = 2 * m + 1 + 1 by omega, List.range_succ, List.range_succ, List.map_append, List.map_append, List.append_assoc]
      rfl
    rw [hrange, pairSums_append_pair _ _ _ _ (by rw [List.length_map, List.length_range]; exact Nat.dvd_mul_right 2 m)]
    refine ⟨?_, ?_⟩
    · rw [hval, List.range_succ, List.map_append]
      rfl
    · rw [show 2 * (m + 1) = 2 * m + 1 + 1 by omega, nodeFlags_succ, nodeFlags_succ, nodeFlags_succ, ← hfl]
      simp only [level]
      ac_rfl

/-- n levels of the tree over 2^n values. -/
theorem treeSum_levels (md : FMode) (n : Nat) : ∀ x : Nat → Lane × FlagBits,
    treeSum (fAdd md) n ((List.range (2 ^ n)).map (fun i => (x i).1), nodeFlags (2 ^ n) x) =
      ([((level md)^[n] x 0).1], ((level md)^[n] x 0).2) := by
  induction n with
  | zero => exact fun x => Prod.ext rfl (BitVec.zero_or)
  | succ n ih =>
    intro x
    obtain ⟨hval, hfl⟩ := pairSums_level md x (2 ^ n)
    rw [Nat.pow_succ', treeSum]
    simp only [hval, hfl, ih]
    rfl

theorem colSum_eq_rowSum (md : FMode) (f : Nat → Lane) : colSum md ((List.range 256).map f) = rowSum md f := by
  have htree := treeSum_levels md 8 fun i => (f i, 0)
  have hzero : nodeFlags (2 ^ 8) (fun i => (f i, 0)) = 0 := by
    simp [nodeFlags, lanesFlags]
  rw [hzero] at htree
  simp only [colSum, show (256 : Nat) = 2 ^ 8 from rfl, htree]
  rfl

/-! ## The records (R281, R282) -/

section Records

variable {r : Rec} {s u w : State} {off k : Nat} {mode : BitVec 4} {key dst : Key} {slot : Fin 16}

/-- An expansion of the matrix engine that replaces the rows of a slot. -/
theorem issueRec_replaces {i : Instr} {op : Nat} {body : Ctx → State → Except Flt State} {t : State} {bad : Nat → Bool} {vs : List SlotView}
    {keep : Bool} {f : Nat → Nat → Lane × FlagBits} (hi : recOf i = some (.me, op, r)) (h : s.Expands i .me r off k mode u)
    (hexec : ∀ s, exec i s = .next (issueRec i r body s)) (ht : u.SameTurn t) (hw : t.WritesKey dst slot w)
    (hb : body ⟨off, k, 0, mode⟩ u = slotArith ⟨off, k, 0, mode⟩ dst t bad vs keep f) :
    ∃ z, exec i s = .next z ∧ w.Replaces z off slot (fun i j => bad i || vs.any fun v => (v i).2.getLsbD j) f keep := by
  obtain ⟨z, hz, hrep⟩ := slotArith_replaces (c := ⟨off, k, 0, mode⟩) hw (ht.eng.trans h.curEng) vs f
  exact ⟨z, (hexec s).trans (congrArg Host.Outcome.next (issueRec_ok hi h (hb.trans hz))), hrep⟩

theorem bodyCcpy_eq (hd : u.NamesKey r.o0 (ixOf r.nest k) dst) (ha : u.NamesKey r.o1 (ixOf r.nest k) key)
    (hhere : u.cur.cr.spilledOf key = none) :
    bodyCcpy r ⟨off, k, 0, mode⟩ u = slotArith ⟨off, k, 0, mode⟩ dst u (fun _ => false) [u.cur.keyView key] true
      fun i j => (slotLane (u.cur.keyView key i).1 j, 0) := by
  simp only [bodyCcpy, keyAt_names hd, keyAt_names ha, viewKey_here hhere]

theorem bodyCscal_imm {q : Lane} (hd : u.NamesKey r.o0 (ixOf r.nest k) dst) (ha : u.NamesKey r.o1 (ixOf r.nest k) key)
    (hhere : u.cur.cr.spilledOf key = none) (hq : r.o2 = .imm q) :
    bodyCscal r ⟨off, k, 0, mode⟩ u = slotArith ⟨off, k, 0, mode⟩ dst u (fun _ => false) [u.cur.keyView key] false
      fun i j => fMul (slotMode mode) (slotLane (u.cur.keyView key i).1 j) q := by
  simp only [bodyCscal, keyAt_names hd, keyAt_names ha, hq, cscalFactor, viewKey_here hhere]

/-- The factor rows of CSCAL. -/
def cscalRows (u : State) (b : Nat) (i : Nat) : Row × Bool := ([u.mpRow b, u.mpRow (b + 1)]).getD (i / 64) (0, false)

theorem cscalRows_eq (u : State) (b : Nat) {i : Nat} (hi : i < 128) : cscalRows u b i = u.mpRow (b + i / 64) := by
  have hdiv : i / 64 = 0 ∨ i / 64 = 1 := by omega
  rcases hdiv with h | h <;> rw [cscalRows, h] <;> rfl

theorem bodyCscal_rows {b : Nat} (hd : u.NamesKey r.o0 (ixOf r.nest k) dst) (ha : u.NamesKey r.o1 (ixOf r.nest k) key)
    (hhere : u.cur.cr.spilledOf key = none) (hb : u.NamesRows r.o2 2 (ixOf r.nest k) b) (hread : u.CanRead [b, b + 1]) :
    bodyCscal r ⟨off, k, 0, mode⟩ u = slotArith ⟨off, k, 0, mode⟩ dst (u.reading [b, b + 1]) (fun i => (cscalRows u b i).2)
      [u.cur.keyView key] false
      fun i j => fMul (slotMode mode) (slotLane (u.cur.keyView key i).1 j) (lane (cscalRows u b i).1 (i % 64)) := by
  have hview := viewKey_here (c := ⟨off, k, 0, mode⟩) (u := u.reading [b, b + 1]) (k := key) (by rw [State.spilledOf_reading, hhere])
  rw [State.keyView_reading] at hview
  have hfactor : cscalFactor r.o2 (ixOf r.nest k) u =
      .ok (fun i => (lane (cscalRows u b i).1 (i % 64), (cscalRows u b i).2), u.reading [b, b + 1]) := by
    have hrows := rowsAt_names hb
    obtain ⟨⟨_, g, base, st, ho, _⟩, _⟩ := hb
    rw [ho] at hrows ⊢
    simp only [cscalFactor, hrows, Option.getD_some, mpReads_ok _ hread]
    rfl
  simp only [bodyCscal, keyAt_names hd, keyAt_names ha, hfactor, hview]

theorem bodyCadd_eq {b : Key} (hd : u.NamesKey r.o0 (ixOf r.nest k) dst) (ha : u.NamesKey r.o1 (ixOf r.nest k) key)
    (hb : u.NamesKey r.o2 (ixOf r.nest k) b) (hhere : u.cur.cr.spilledOf key = none) (hhereb : u.cur.cr.spilledOf b = none) :
    bodyCadd r ⟨off, k, 0, mode⟩ u = slotArith ⟨off, k, 0, mode⟩ dst u (fun _ => false) [u.cur.keyView key, u.cur.keyView b] false
      fun i j => fAdd (slotMode mode) (slotLane (u.cur.keyView key i).1 j) (slotLane (u.cur.keyView b i).1 j) := by
  have hviews := viewKeys_here (c := ⟨off, k, 0, mode⟩) (u := u) (l := [key, b])
    (List.forall_mem_cons.mpr ⟨hhere, List.forall_mem_singleton.mpr hhereb⟩)
  simp only [bodyCadd, keyAt_names hd, keyAt_names ha, keyAt_names hb, hviews]
  rfl

/-- The row of 64 reductions of slot rows. -/
def reduceRow (md : FMode) (f : FMode → List Lane → Lane × FlagBits) (row : Nat → SlotRow × BitVec 256) : OutRow :=
  let tags := mkTags 64 fun i => (row i).2 != 0
  let g (i : Nat) := f md ((List.range 256).map (slotLane (row i).1))
  { v := mkRow fun i => if tags.getLsbD i then nan32 else (g i).1
    tag := tags != 0
    fl := (List.range 64).foldl (fun a i => if tags.getLsbD i then a else a ||| (g i).2) 0 }

theorem reduceRow_spec (md : FMode) (f : FMode → List Lane → Lane × FlagBits) (row : Nat → SlotRow × BitVec 256) :
    let tag (i : Nat) : Bool := (row i).2 != 0
    let g (i : Nat) := f md ((List.range 256).map (slotLane (row i).1))
    (reduceRow md f row).tag = (List.range 64).any tag ∧ (reduceRow md f row).fl = lanesFlags 64 tag (fun i => (g i).2) ∧
      ∀ i < 64, lane (reduceRow md f row).v i = if tag i then 0x7FC00000 else (g i).1 := by
  refine ⟨mkTags_ne_zero .., foldl_mkTags_eq_lanesFlags .., fun i hi => ?_⟩
  rw [reduceRow, lane_mkRow _ _ hi, getLsbD_mkTags _ _ _ hi]
  rfl

theorem reduceBody_ok {f : FMode → List Lane → Lane × FlagBits} {d : RowDst} (hd : u.Dest r.o0 1 (ixOf r.nest k) d)
    (ha : u.NamesKey r.o1 (ixOf r.nest k) key) (hhere : u.cur.cr.spilledOf key = none) :
    reduceBody f r ⟨off, k, 0, mode⟩ u = .ok (landRows ⟨off, k, 0, mode⟩ 136 d
      (fun _ => reduceRow (slotMode mode) f fun i => u.cur.keyView key (64 * (r.mod.toNat % 2) + i)) 1 u) := by
  simp only [reduceBody, rowDst_dest hd, keyAt_names ha, viewKey_here hhere]
  rfl

end Records

/-- Settles O35: the element-wise operations replace the rows of their slot, the reductions send one row. -/
theorem slotArithmeticComplete : Obligations.SlotArithmeticComplete := by
  intro r s u off k mode key w x md ha hhere a at_
  refine ⟨fun dst slot hd => ⟨fun h hw => ?ccpy, fun h q hq hw => ?cscalImm, fun h b hb hread hw => ?cscalRows,
    fun h b hb hhereb hw => ?cadd⟩, fun d hd => ?reductions⟩
  case ccpy =>
    obtain ⟨z, hz, hrep⟩ := issueRec_replaces rfl h (fun _ => rfl) (.refl u) hw (bodyCcpy_eq hd ha hhere)
    exact ⟨z, hz, hrep.congr (fun i _ j _ => by simp [at_]) fun _ _ _ _ => rfl⟩
  case cscalImm =>
    obtain ⟨z, hz, hrep⟩ := issueRec_replaces rfl h (fun _ => rfl) (.refl u) hw (bodyCscal_imm hd ha hhere hq)
    exact ⟨z, hz, hrep.congr (fun i _ j _ => by simp [at_]) fun _ _ _ _ => rfl⟩
  case cscalRows =>
    obtain ⟨z, hz, hrep⟩ := issueRec_replaces rfl h (fun _ => rfl) (State.reading_frame _ u).1 hw (bodyCscal_rows hd ha hhere hb hread)
    refine ⟨z, hz, hrep.congr (fun i hi j _ => ?_) fun i hi j _ => ?_⟩
    · simp [at_, cscalRows_eq u b hi]
    · rw [cscalRows_eq u b hi]
      rfl
  case cadd =>
    obtain ⟨z, hz, hrep⟩ := issueRec_replaces rfl h (fun _ => rfl) (.refl u) hw (bodyCadd_eq hd ha hb hhere hhereb)
    exact ⟨z, hz, hrep.congr (fun i _ j _ => by simp [at_]) fun _ _ _ _ => rfl⟩
  case reductions =>
    intro reduces
    have hreduce {i : Instr} {op : Nat} {f : FMode → List Lane → Lane × FlagBits} {g : FMode → (Nat → Lane) → Lane × FlagBits}
        (hi : recOf i = some (.me, op, r)) (hexec : ∀ s, exec i s = .next (issueRec i r (reduceBody f r) s))
        (hfg : ∀ l, f md ((List.range 256).map l) = g md l) : reduces i g := by
      intro h
      obtain ⟨htag, hfl, hlane⟩ := reduceRow_spec md f fun i => u.cur.keyView key (64 * (r.mod.toNat % 2) + i)
      simp only [hfg] at hfl hlane
      exact ⟨_, _, _, (hexec s).trans (congrArg Host.Outcome.next (issueRec_ok hi h (reduceBody_ok hd ha hhere))),
        landsEach_landRows h.curEng .., _, congrArg (d.land 0 _) htag, hfl, hlane⟩
    exact ⟨hreduce rfl (fun _ => rfl) fun _ => rfl, hreduce rfl (fun _ => rfl) (colSum_eq_rowSum md)⟩

end Sys2Proof.Machine
end

section
/-! SUPPORT. B register pieces and markers (Rows.lean), phasers, FENCE, time and divisors (Sync.lean); they settle O7, O13 and O16. -/

namespace Sys2Proof.Machine

/-! ## Pieces, markers and NOP (R128, R202, R225) -/

/-- The piece that EXTL and INSL name: IMM32, or an unpoisoned register. -/
theorem pieceNum_found {sl : Slot} {r : Cc} (h : srcBTag sl r = false) :
    pieceNum sl r = .ok (if sl.imm then Fin.ofNat 32 sl.imm32.toNat else Fin.ofNat 32 (r.greg sl.sb).toNat) := by
  unfold pieceNum
  cases himm : sl.imm with
  | true => rfl
  | false =>
    have htag : r.gtag sl.sb = false := by simpa [srcBTag, himm] using h
    simp only [htag, Bool.false_eq_true, if_false]

/-- A result to a G register, of a slot that never sets IDZ (R215). -/
theorem gResult_landAfter (c : Ctx) (n : Nat) (dst : Fin 32) (v : Word) (tag : Bool) (s : State) :
    gResult c n dst v tag false s = s.landAfter c n (.g dst (if tag then 0 else v) tag) 0 0 (if tag then 2 else 0) := by
  cases tag <;> rfl

/-- Settles O7: EXTL and INSL are one result in flight, MARK is one write to the cell, NOP is none. -/
theorem pieceSlotsComplete : Obligations.PieceSlotsComplete := by
  intro sl s k n ptag gtag
  rw [← Nat.one_mul s.ccDiv]
  refine ⟨fun h htag => ?extl, fun h htag => ?insl, fun h => ?mark, fun h => slotAlone_unchanged (m := semNop) h rfl rfl⟩
  case extl =>
    have hk : pieceNum sl (s.onEngine .cc).cur.cc = .ok k := pieceNum_found htag
    refine slotAlone_lands (m := semExtl) h rfl ?_
    simp only [semExtl, actExtl, hk, gResult_landAfter]
    rfl
  case insl =>
    have hk : pieceNum sl (s.onEngine .cc).cur.cc = .ok k := pieceNum_found htag
    refine slotAlone_lands (m := semInsl) h rfl ?_
    simp only [semInsl, actInsl, hk]
    rfl
  case mark =>
    exact ⟨_, slotAlone_ok (m := semMark) h rfl rfl, State.becomes_setCell (u := s.onEngine .cc) _ rfl rfl rfl⟩

/-! ## PHAW (R139, R231, R232) -/

/-- PHAW sends the arrival under the slot's own number, and asks for a freeze that names that number. -/
theorem phaw_completes {sl : Slot} {s : State} (h : s.SlotActs 0x46 sl) :
    ∃ t, exec (.phaw sl) s = .next t ∧
      { t with cells := s.cells, gangs := s.gangs, uid := s.uid, curEng := s.curEng } = s ∧
      t.cur = { s.cur with ord := s.ypWith (.pharv (sl.imm32.toNat % 256)) (s.covers s.curCell false 0x1F false true) 3 } ∧
      t.gangOf s.curCell = { s.gangOf s.curCell with
        reqs := (s.gangOf s.curCell).reqs ++ [⟨s.now + (s.gangOf s.curCell).dstall, .phaw s.curCell s.uid⟩] } := by
  refine ⟨_, slotAlone_ok (m := semPhaw) h rfl rfl, rfl, ?cell, ?own⟩
  case cell => exact State.cell_setCell_self _ s.curCell _
  case own =>
    have hgid : (phArrive ⟨s.ccOff, 0, 0, 0⟩ sl (s.onEngine .cc)).gidOf s.curCell = s.gidOf s.curCell :=
      State.gidOf_setCell (s.onEngine .cc).fresh s.curCell s.curCell _ rfl
    change (State.request _ _ _).gang ((phArrive ⟨s.ccOff, 0, 0, 0⟩ sl (s.onEngine .cc)).gidOf s.curCell) = _
    rw [hgid]
    exact State.gang_request_self _ _ _

/-- Refutes O13: the freeze request of a PHAW names the number of its arrival, which is the number that the state before the slot gives next,
and not the one after it. Just after reset these are 0 and 1. -/
theorem not_phaserSlotsComplete : ¬ Obligations.PhaserSlotsComplete := by
  unfold Obligations.PhaserSlotsComplete
  intro h
  have hacts : State.reset.SlotActs 0x46 ⟨true, 0, 0, 0, .always, 0, 0⟩ := ⟨by decide, rfl⟩
  obtain ⟨_, _, _, _, hphaw⟩ := h ⟨true, 0, 0, 0, .always, 0, 0⟩ State.reset
  obtain ⟨t, ht, _, _, hclaimed⟩ := hphaw hacts
  obtain ⟨u, hu, _, _, hown⟩ := phaw_completes hacts
  obtain rfl : t = u := Host.Outcome.next.inj (ht.symm.trans hu)
  have hreqs := congrArg Gang.reqs (hclaimed.symm.trans hown)
  simp at hreqs

/-! ## FENCE (R132, R133) -/

/-- The buffers of a cell whose covered timed accesses are brought forward to a tick (R133). -/
def Ord.forced (cover : List Cov) (tick : Nat) (o : Ord) : Ord :=
  let has (u : Nat) : Bool := cover.any fun v => v.uid == u
  { o with
    loads := o.loads.map fun l => if has l.uid then { l with by_ := min l.by_ tick } else l
    stores := o.stores.map fun w => if has w.uid then { w with by_ := min w.by_ tick, fby := some (min (w.fby.getD tick) tick) } else w }

section Forced

variable {cover : List Cov} {tick : Nat} {o : Ord}

/-- Where the covered accesses of a list are brought forward, a covered access of the list is due by that tick. -/
theorem by_le_of_mem_forced {α : Type} {l : List α} {x : α} {f : α → α} (uid by_ : α → Nat) (hf : ∀ m, by_ (f m) ≤ tick)
    (hx : x ∈ l.map fun m => if (cover.any fun v => v.uid == uid m) then f m else m) (hc : ∃ v ∈ cover, v.uid = uid x) : by_ x ≤ tick := by
  obtain ⟨m, _, rfl⟩ := List.mem_map.mp hx
  by_cases hm : (cover.any fun v => v.uid == uid m) = true
  · rw [if_pos hm]
    exact hf m
  · rw [if_neg hm] at hc
    exact absurd (by simpa using hc) hm

theorem Ord.forced_loads_by {l : CqLoad} (hl : l ∈ (o.forced cover tick).loads) (hc : ∃ v ∈ cover, v.uid = l.uid) : l.by_ ≤ tick :=
  by_le_of_mem_forced CqLoad.uid CqLoad.by_ (fun _ => Nat.min_le_right _ _) hl hc

theorem Ord.forced_stores_by {w : CqStore} (hw : w ∈ (o.forced cover tick).stores) (hc : ∃ v ∈ cover, v.uid = w.uid) : w.by_ ≤ tick :=
  by_le_of_mem_forced CqStore.uid CqStore.by_ (fun _ => Nat.min_le_right _ _) hw hc

end Forced

/-- What a FENCE covers: the accesses of its BEF paths, and with PROT those still unprotected. -/
def fenceCover (sl : Slot) (s : State) : List Cov :=
  let bef := sl.imm32.extractLsb' 0 5
  let bare := (s.deltas.filter fun d => d.own && d.cell == s.curCell && pathIn bef d.path).map fun d => (⟨d.uid, false, true, bef⟩ : Cov)
  s.covers s.curCell true bef true true ++ if sl.imm32.getLsbD 13 then bare else []

/-- The hold that a FENCE leaves where AFT names SP, YP or NP. -/
def fenceHeld (sl : Slot) (s : State) : List Hold :=
  if sl.imm32.extractLsb' 5 5 &&& 0x1C = 0 then []
  else [⟨s.uid, s.now, sl.imm32.extractLsb' 0 5, sl.imm32.extractLsb' 5 5, sl.imm32.toNat / 1024 % 8, sl.imm32.getLsbD 13, fenceCover sl s⟩]

/-- The buffers of the executing cell before the hold: brought forward where AFT names CQ or MP. -/
def fenceForced (sl : Slot) (s : State) : Ord :=
  if sl.imm32.extractLsb' 5 5 &&& 3 = 0 then s.cur.ord else s.cur.ord.forced (fenceCover sl s) (s.now + 5)

/-- The buffers of the executing cell after a FENCE. -/
def fencedOrd (sl : Slot) (s : State) : Ord := { fenceForced sl s with holds := s.cur.ord.holds ++ fenceHeld sl s }

/-- A state with new buffers of its cell, new deadlines of the writes in the fabrics, and the number of its next access. -/
def State.fenced (s : State) (o : Ord) (f : List FWrite) (n : Nat) : State :=
  { s.setCell s.curCell { s.cur with ord := o } with fabric := f, uid := n }

section Fenced

variable {s : State} {o : Ord} {f : List FWrite} {n : Nat}

@[simp] theorem State.cur_fenced : (s.fenced o f n).cur = { s.cur with ord := o } := State.cell_setCell_self s s.curCell _

theorem State.cell_fenced {d : CellId} (h : d ≠ s.curCell) : (s.fenced o f n).cell d = s.cell d := State.cell_setCell_ne s _ (Ne.symm h)

/-- A hold that a FENCE leaves is one more write to the same buffers. -/
theorem State.fresh_hold_fenced (h : Hold) :
    ((s.fenced o f n).modCur fun x => { x with ord := { x.ord with holds := x.ord.holds ++ [h] } }).fresh =
      s.fenced { o with holds := o.holds ++ [h] } f (n + 1) := by
  have hcell : (s.fenced o f n).cell (s.fenced o f n).curCell = { s.cur with ord := o } := State.cur_fenced
  rw [State.modCur_eq, hcell]
  simp only [State.fenced, State.setCell, Vector.set_set]
  rfl

end Fenced

/-- Bringing covered accesses forward changes the buffers of the cell and the deadlines of writes in the fabrics. -/
theorem fenceForced_eq (sl : Slot) (s : State) :
    ∃ f, (if sl.imm32.extractLsb' 5 5 &&& 3 ≠ 0 then forceCovered (fenceCover sl s) (sl.imm32.toNat / 1024 % 8) s else s) =
      s.fenced (fenceForced sl s) f s.uid := by
  by_cases hforce : sl.imm32.extractLsb' 5 5 &&& 3 = 0
  · rw [fenceForced, if_pos hforce, if_neg (not_not.mpr hforce)]
    exact ⟨s.fabric, s.setCur_self.symm⟩
  · rw [fenceForced, if_neg hforce, if_pos hforce]
    exact ⟨_, rfl⟩

theorem actFence_eq (c : Ctx) (sl : Slot) (s : State) : ∃ f n, actFence c sl s = .ok (s.fenced (fencedOrd sl s) f n) := by
  obtain ⟨f, hforced⟩ := fenceForced_eq sl s
  have hholds : (fenceForced sl s).holds = s.cur.ord.holds := by
    unfold fenceForced
    split <;> rfl
  simp only [fenceCover] at hforced
  simp only [actFence, hforced, State.fresh_hold_fenced, fencedOrd, fenceHeld, ← hholds]
  by_cases hhold : sl.imm32.extractLsb' 5 5 &&& 0x1C = 0
  · simp only [hhold, if_true, List.append_nil, ne_eq, not_true, if_false]
    exact ⟨f, s.uid, rfl⟩
  · simp only [hhold, if_false, ne_eq, not_false_eq_true, if_true]
    exact ⟨f, s.uid + 1, rfl⟩

/-- FENCE, field by field: the hold it leaves, the deadlines it brings forward, and what it leaves alone. -/
theorem fenceCompletes : FenceCompletes := by
  intro sl s h bef aft prot bare cover
  obtain ⟨f, n, hact⟩ := actFence_eq ⟨s.ccOff, 0, 0, 0⟩ sl (s.onEngine .cc)
  refine ⟨_, slotAlone_ok (m := semFence) h rfl hact, ?_⟩
  rw [State.cur_fenced]
  refine ⟨rfl, fun haft l hl hc => ?loads, fun haft w hw hc => ?stores, fun haft => ?kept, rfl, fun d hd => State.cell_fenced hd,
    fun _ => rfl, rfl⟩
  case loads =>
    have hforced : fenceForced sl (s.onEngine .cc) = s.cur.ord.forced cover (s.now + 5) := if_neg haft
    change l ∈ (fenceForced sl (s.onEngine .cc)).loads at hl
    rw [hforced] at hl
    exact Ord.forced_loads_by hl hc
  case stores =>
    have hforced : fenceForced sl (s.onEngine .cc) = s.cur.ord.forced cover (s.now + 5) := if_neg haft
    change w ∈ (fenceForced sl (s.onEngine .cc)).stores at hw
    rw [hforced] at hw
    exact Ord.forced_stores_by hw hc
  case kept =>
    have hforced : fenceForced sl (s.onEngine .cc) = s.cur.ord := if_pos haft
    change (fenceForced sl (s.onEngine .cc)).loads = _ ∧ (fenceForced sl (s.onEngine .cc)).stores = _
    rw [hforced]
    exact ⟨rfl, rfl⟩

/-! ## Time and divisors (R177, R186, R237) -/

theorem timeSlotsComplete : TimeSlotsComplete := by
  refine fun sl s => ⟨fun h htag => ?waitt, fun h hs => ?setdiv⟩
  case waitt =>
    have htag' : (s.onEngine .cc).cur.cc.gtag sl.sa = false := htag
    refine slotAlone_requests (m := semWaitt) h rfl ?_
    simp only [semWaitt, actWaitt, htag', Bool.false_eq_true, if_false]
    rfl
  case setdiv =>
    have hs' : (s.onEngine .cc).straddles (engOf (sl.imm32.toNat % 4)) ((s.onEngine .cc).now + 2) = false := hs
    refine ⟨_, slotAlone_ok (m := semSetdiv) h rfl (if_neg (Bool.eq_false_iff.mp hs')), ?_⟩
    exact State.becomes_setCell (u := s.onEngine .cc) _ rfl rfl rfl

/-- Settles O16: a FENCE writes its cell's buffers, WAITT asks for a freeze, SETDIV adds a switch. -/
theorem fenceTimeSlotsComplete : Obligations.FenceTimeSlotsComplete := ⟨fenceCompletes, timeSlotsComplete⟩

end Sys2Proof.Machine
end

section
/-! SUPPORT. Queue streams (Rows.lean): one row in or out of a queue at every expansion; they settle O29. -/

namespace Sys2Proof.Machine

/-! ## One access of a queue stream (R56, R59, R126, R217, R225) -/

section Streams

variable {s : State} {c : Ctx} {row : Nat}

/-- The access buffers with one more read of a row, for a record at a text offset (R124, R126). -/
def State.ordLoadingAt (s : State) (off row win : Nat) (toB : Option (Fin 4)) : Ord :=
  { s.ordUsing row with loads := s.cur.ord.loads ++ [⟨s.uid, s.now, s.now + win * s.div, s.cur.ord.mark, row, off, toB, s.div⟩] }

/-- The access buffers with one more write of a row, for a record at a text offset. -/
def State.ordStoringAt (s : State) (off row win : Nat) (v : Row) (tag : Bool) : Ord :=
  { s.ordUsing row with stores := s.cur.ord.stores ++ [⟨s.uid, s.now, s.now + win * s.div, s.cur.ord.mark, row, v, tag, none, off⟩] }

/-- A change of the buffers after the access to the bank is one write to the cell. -/
theorem State.fresh_modOrd_usingBank (g : Ord → Ord) (q : Queues) :
    ((s.usingBank row q).modCur fun x => { x with ord := g x.ord }).fresh =
      s.fresh.setCell s.curCell (s.cur.using (g (s.ordUsing row)) q) := by
  rw [State.modCur_eq, State.curCell_usingBank, State.setCell_usingBank, ← State.curCell_usingBank q, ← State.cur_eq, State.cur_usingBank]
  rfl

theorem cqLoad_usingBank_at (win : Nat) (toB : Option (Fin 4)) (q : Queues) :
    cqLoad c row win toB (s.usingBank row q) = s.fresh.setCell s.curCell (s.cur.using (s.ordLoadingAt c.off row win toB) q) := by
  simp only [cqLoad, State.now_usingBank, State.div_usingBank, State.cur_usingBank, State.uid_usingBank]
  exact State.fresh_modOrd_usingBank (fun o => { o with loads := o.loads ++ [_] }) q

theorem cqStore_usingBank_at (win : Nat) (v : Row) (tag : Bool) (q : Queues) :
    cqStore c row win v tag (s.usingBank row q) = s.fresh.setCell s.curCell (s.cur.using (s.ordStoringAt c.off row win v tag) q) := by
  simp only [cqStore, State.now_usingBank, State.div_usingBank, State.cur_usingBank, State.uid_usingBank]
  exact State.fresh_modOrd_usingBank (fun o => { o with stores := o.stores ++ [_] }) q

/-- One QLD: a queue with room takes an entry, and the read enters the load buffer. -/
theorem qldRow_room {n : Fin 4} (hb : s.bankUse row < 4) (hq : (s.cur.q.lq[n]).length < 16) :
    let entry : QEntry := ⟨s.uid, s.now + 6 * s.div, false, 0, false⟩
    qldRow c n row s = .ok (s.fresh.setCell s.curCell (s.cur.using (s.ordLoadingAt c.off row 5 none)
      { s.cur.q with lq := s.cur.q.lq.set n (s.cur.q.lq[n] ++ [entry]) })) := by
  intro entry
  have hpush : pushOf .cc (lqWhich n) (s.usingBank row s.cur.q).segTick (s.usingBank row s.cur.q).cur.q.lq[n] entry =
      .ok (s.cur.q.lq[n] ++ [entry]) := by
    rw [State.cur_usingBank]
    exact if_pos hq
  have hmod := State.modQueues_usingBank (s := s) (row := row) (fun q => { q with lq := q.lq.set n (s.cur.q.lq[n] ++ [entry]) }) s.cur.q
  simp only [qldRow, cqRow_read hb, State.uid_usingBank, State.now_usingBank, State.div_usingBank]
  rw [hpush]
  exact congrArg Except.ok ((congrArg (cqLoad c row 5 none) hmod).trans (cqLoad_usingBank_at 5 none _))

/-- One QST: the visible head leaves its queue, and the write enters the store buffer. -/
theorem qstRow_head {n : Fin 2} {e : QEntry} {rest : List QEntry} (hb : s.bankUse row < 4) (hw : s.cur.windowFlt .cc row = none)
    (hq : s.cur.q.sq[n] = e :: rest) (hv : e.vis ≤ s.now) :
    qstRow c n row s = .ok (s.fresh.setCell s.curCell (s.cur.using (s.ordStoringAt c.off row 3 e.row e.tag)
      { s.cur.q with sq := s.cur.q.sq.set n rest })) := by
  have hhead (due : Nat) : headOf .cc (sqWhich n) s.now due s.cur.q.sq[n] = .ok e := by
    rw [hq]
    exact if_pos hv
  have hmod := State.modQueues_usingBank (s := s) (row := row) (fun q => { q with sq := q.sq.set n q.sq[n].tail }) s.cur.q
  simp only [hq, List.tail_cons] at hmod
  simp only [qstRow, cqRow_write hb hw, State.now_usingBank, State.cur_usingBank, Cell.using, hhead]
  rw [hmod, cqStore_usingBank_at]
  rfl

end Streams

/-- An expansion of QLDS is one QLD of the row that its operand names. -/
theorem bodyQlds_names {r : Rec} {c : Ctx} {u : State} {row : Nat} (h : u.NamesRow r.o1 (ixOf r.nest c.k) row) :
    bodyQlds r c u = qldRow c (Fin.ofNat 4 r.mod.toNat) row u := by
  obtain ⟨g, base, st, ho, hat⟩ := spRowAt_names (e := .cc) h
  simp only [bodyQlds, ho, hat]

/-- An expansion of QSTS is one QST to the row that its operand names. -/
theorem bodyQsts_names {r : Rec} {c : Ctx} {u : State} {row : Nat} (h : u.NamesRow r.o0 (ixOf r.nest c.k) row) :
    bodyQsts r c u = qstRow c (Fin.ofNat 2 r.mod.toNat) row u := by
  obtain ⟨g, base, st, ho, hat⟩ := spRowAt_names (e := .cc) h
  simp only [bodyQsts, ho, hat]

/-- Settles O29: every expansion is one access to the row it names, and one write to the cell. -/
theorem queueStreamsComplete : Obligations.QueueStreamsComplete := by
  intro r s u off k mode row x o hb
  refine ⟨fun h hrow hq => ?qlds, fun h hrow hw e rest hq hv => ?qsts⟩
  case qlds =>
    have hbody := (bodyQlds_names (c := ⟨off, k, 0, mode⟩) hrow).trans (qldRow_room hb hq)
    exact ⟨_, congrArg Host.Outcome.next (issueRec_ok rfl h hbody), State.becomes_setCell (u := u.fresh) _ rfl rfl rfl⟩
  case qsts =>
    have hbody := (bodyQsts_names (c := ⟨off, k, 0, mode⟩) hrow).trans (qstRow_head hb hw hq hv)
    exact ⟨_, congrArg Host.Outcome.next (issueRec_ok rfl h hbody), State.becomes_setCell (u := u.fresh) _ rfl rfl rfl⟩

end Sys2Proof.Machine
end

section
/-! SUPPORT. Latch loads (Matrix.lean): source, scales and the operation that a load begins; they settle O30. -/

namespace Sys2Proof.Machine

/-! ## Latch loads (R126, R271, R284, R330) -/

/-- The source of a load: 256 half-rows of LDBT, or the 128 rows of any other. -/
theorem loadSource_names {op : Nat} {u : State} {o : Opnd} {x : Ix} {a : Nat}
    (h : if op = 4 then u.NamesHalf o x a ∧ a + 256 ≤ 49152 else u.NamesRows o 128 x a) : loadSource op o x u.cur.cc = .ok a := by
  split at h
  next hop =>
    obtain ⟨hhalf, hin⟩ := h
    obtain ⟨g, base, st, rfl, hat⟩ := halfRowAt_names hhalf
    have hle : a + 256 ≤ 2 * spRows := hin
    simp only [loadSource, hat, if_pos hle]
  next hop =>
    have hat := rowsAt_names h
    obtain ⟨⟨_, g, base, st, rfl, _⟩, _⟩ := h
    simp only [loadSource, if_neg hop, hat]
    rfl

/-- The scale row of a load as MP sees it, or an unpoisoned row of zeros that stands for none. -/
def scaleRow (sc : Option Nat) (u : State) : Row × Bool :=
  match sc with
  | some q => u.mpRow q
  | none => (0, false)

/-- The latch that a load begins to fill, with its scales and their poison (R271, R330). -/
def loadLatch (op a : Nat) (sc : Option Nat) (u : State) : Latch :=
  { Latch.reset with
    scale := if sc.isSome then scalesOf op (scaleRow sc u).1 else Vector.replicate 4 0x3F800000
    sTag := if sc.isSome && (scaleRow sc u).2 then (if op = 3 then 15 else 3) else 0
    src := some ⟨op, a, sc⟩ }

/-- The scales and the poison that a load takes are those of its scale row. -/
theorem loadScales_eq (op a : Nat) (sc : Option Nat) (u : State) :
    loadScales op (sc.map u.mpRow) = ((loadLatch op a sc u).scale, (loadLatch op a sc u).sTag) := by
  cases sc with
  | none => rfl
  | some q =>
    simp only [loadScales, loadLatch, scaleRow, scalesOf, Option.map_some, Option.isSome_some, if_true, Bool.true_and]
    by_cases h3 : op = 3
    · cases (u.mpRow q).2 <;> simp [h3, allTags]
    · by_cases hw : op = 0x20 <;> simp [h3, hw, one32]

/-- The operation that a load begins. -/
def loadBegins (op a : Nat) (sc : Option Nat) (r : Rec) (c : Ctx) (l : Latch) (v : State) : MeOp :=
  { uid := v.uid, off := c.off, op := op, mode := r.mod, t0 := v.now, div := v.div, next := 0, a := a, slot := 0, key := ⟨0, 0⟩,
    ftz := false, gen2 := false, latch := l, index := [], idxBad := false, scales := [], scTags := [], metadata := 0, metaTag := false,
    metaIn := true, rows := [], src := ⟨op, a, sc⟩, exp := c.k }

/-- The matrix engine with one more operation, and a load noted as the last of its latch. -/
def Me.loading (x : Me) (r : Rec) (o : MeOp) : Me :=
  { x with ops := x.ops ++ [o], lastLoad := x.lastLoad.set (Fin.ofNat 2 (r.mod.toNat % 2)) (some o.src) }

theorem loadBody_ok {op : Nat} {r : Rec} {u v : State} {c : Ctx} {a : Nat} {sc : Option Nat}
    (hsrc : if op = 4 then u.NamesHalf r.o1 (ixOf r.nest c.k) a ∧ a + 256 ≤ 49152 else u.NamesRows r.o1 128 (ixOf r.nest c.k) a)
    (hr : rowsAt r.o2 1 (ixOf r.nest c.k) u.cur.cc = .ok sc) (hread : u.CanRead sc.toList)
    (hreg : registerRows (LatchSrc.ranges ⟨op, a, sc⟩) (u.reading sc.toList) = .ok v) :
    loadBody op r c u = .ok (v.fresh.setCell v.curCell
      { v.cur with me := v.cur.me.loading r (loadBegins op a sc r c (loadLatch op a sc u) v) }) := by
  have hhead : (sc.toList.map u.mpRow).head? = sc.map u.mpRow := by cases sc <;> rfl
  simp only [loadBody, loadSource_names hsrc, hr, mpReads_ok _ hread, hreg, hhead, loadScales_eq op a sc u]
  rfl

theorem loadOps_exec {e : (Rec → Instr) × Nat} (he : e ∈ loadOps) (r : Rec) :
    (∃ op, recOf (e.1 r) = some (.me, op, r)) ∧ ∀ s, exec (e.1 r) s = .next (issueRec (e.1 r) r (loadBody e.2 r) s) := by
  simp only [loadOps, List.mem_cons, List.not_mem_nil, or_false] at he
  rcases he with rfl | rfl | rfl | rfl | rfl <;> exact ⟨⟨_, rfl⟩, fun _ => rfl⟩

/-- Settles O30: the scale row is read and the rows registered, then the operation begins; MNOP has no effect. -/
theorem latchLoadsComplete : Obligations.LatchLoadsComplete := by
  intro r s u v off k mode
  refine ⟨fun h => congrArg Host.Outcome.next (issueRec_ok (body := bodyMnop r) rfl h rfl), ?_⟩
  intro e he a sc h x hsrc hsc hread hreg row src latch
  obtain ⟨⟨op, hi⟩, hexec⟩ := loadOps_exec he r
  have hrows : rowsAt r.o2 1 (ixOf r.nest k) u.cur.cc = .ok sc := by
    cases sc with
    | none => rw [show r.o2 = .absent from hsc]; rfl
    | some q => exact rowsAt_names ⟨hsc, hsc.1⟩
  have hturn : u.SameTurn v := by
    obtain ⟨win, rfl⟩ := registerRows_eq hreg
    exact (State.reading_frame _ u).1.trans (State.sameTurn_setCur _ _ rfl rfl)
  exact ⟨_, loadBegins e.2 a sc r ⟨off, k, 0, mode⟩ (loadLatch e.2 a sc u) v,
    (hexec s).trans (congrArg Host.Outcome.next (issueRec_ok hi h (loadBody_ok (c := ⟨off, k, 0, mode⟩) hsrc hrows hread hreg))),
    State.becomes_setCell (u := v.fresh) _ rfl rfl rfl, hturn.uid, rfl, rfl, rfl, hturn.now, hturn.div, rfl, rfl, rfl, rfl⟩

end Sys2Proof.Machine
end

section
/-! SUPPORT. The decoder on words that the manual writes out (Decode.lean); it settles O57. -/

namespace Sys2Proof.Machine

/-- Settles O57: each word is a closed number, and the decoder evaluates on it. -/
theorem knownWordsDecode : Obligations.KnownWordsDecode := by
  unfold Obligations.KnownWordsDecode
  decide +kernel

end Sys2Proof.Machine
end

section
/-! SUPPORT. Saves, resumption and what system software does with an image (Save.lean), and the kill of a running context (Gang.lean), one lemma
for each event; they settle O44. -/

namespace Sys2Proof.Machine

/-! ## The images of a device -/

/-- An update of the image with a number, which stands in its place afterwards. -/
theorem mem_map_replace {l : List Image} {i : Image} (hi : i ∈ l) (j : Image) : j ∈ l.map fun k => if k.id = i.id then j else k :=
  List.mem_map.mpr ⟨i, hi, if_pos rfl⟩

theorem State.mem_modImage {s : State} {i : Image} (hi : i ∈ s.images) (f : Image → Image) : f i ∈ (s.modImage i.id f).images :=
  List.mem_map.mpr ⟨i, hi, if_pos rfl⟩

/-- A number finds its image after the update of that image, where its number stays. -/
theorem State.image_modImage {s : State} {i : Image} (hi : s.image i.id = some i) {f : Image → Image} (hf : ∀ k, (f k).id = k.id) :
    (s.modImage i.id f).image i.id = some (f i) := by
  have hsame : ((fun k : Image => decide (k.id = i.id)) ∘ fun k => if k.id = i.id then f k else k) = fun k => decide (k.id = i.id) := by
    funext k
    by_cases hk : k.id = i.id <;> simp [hk, hf]
  have hfind : (s.images.find? fun k => decide (k.id = i.id)) = some i := hi
  rw [State.image, State.modImage, List.find?_map, hsame, hfind]
  exact congrArg some (if_pos rfl)

/-- A discarded image is gone. -/
theorem State.image_discardImage (s : State) (id : Nat) : (s.discardImage id).image id = none :=
  List.find?_eq_none.mpr fun k hk => by simpa using List.of_mem_filter hk

/-! ## The request and the stop (R161, R162) -/

theorem exec_saveRequest_running {s : State} {g : GangId} (why : SaveCause) (hst : (s.gang g).status = .running ∨ (s.gang g).status = .ending)
    (hsave : (s.gang g).saveFor = none) (hz : (s.gang g).frozen = false) :
    exec (.saveRequest g why) s = .next (s.setGang g { s.gang g with
      saveFor := some why, reqs := (s.gang g).reqs ++ [⟨(s.gang g).tick + 1 + (s.gang g).dstall, .preempt⟩] }) := by
  have hgo : (((s.gang g).status = .running || (s.gang g).status = .ending) && (s.gang g).saveFor.isNone) = true := by
    simpa [hsave] using hst
  change execSaveRequest g why s = _
  simp only [execSaveRequest, State.requestSave, hgo, if_true, hz, Bool.false_eq_true, if_false, State.modGang_eq]

/-- The image of a save is open: active, and not committed. -/
theorem State.openImage_opens (s : State) (x : Gang) :
    ∃ i ∈ (s.openImage x).1.images, i.id = (s.openImage x).2 ∧ i.active = true ∧ i.committed = false := by
  unfold State.openImage
  split
  next i hi => exact ⟨_, mem_map_replace (List.mem_of_find?_eq_some hi) _, rfl, rfl, rfl⟩
  next => exact ⟨_, List.mem_append_right _ (List.mem_singleton_self _), rfl, rfl, rfl⟩

theorem exec_preemptionStop_due {s : State} {g : GangId} (h : s.stopDue g = true) :
    ∃ t, exec (.preemptionStop g) s = .next t ∧ (t.gang g).status = .saving 1 ∧ (t.gang g).savecnt = (s.gang g).savecnt + 1 ∧
      ∃ i ∈ t.images, i.id = (t.gang g).image ∧ i.active = true ∧ i.committed = false := by
  let t : State := (s.gang g).cells.foldl (fun u c => (stopStream c (finishPasses c u)).modCell c (·.unissue)) s
  let y : Gang := { t.gang g with
    reqs := (t.gang g).reqs.filter fun (r : Req) => decide (r.cond ≠ Cond.preempt)
    savecnt := (s.gang g).savecnt + 1 }
  obtain ⟨i, hi, hid, hopen⟩ := t.openImage_opens y
  refine ⟨_, congrArg Host.Outcome.next (if_pos h), congrArg Gang.status (State.gang_setGang_self _ g _),
    congrArg Gang.savecnt (State.gang_setGang_self _ g _), i, hi, ?_, hopen⟩
  refine hid.trans (Eq.symm ?_)
  exact congrArg Gang.image (State.gang_setGang_self _ g _)

/-! ## Write-out and the commit record (R163, R388, R389) -/

section Saving

variable {s : State} {g : GangId} {i : Image}
variable (hi : (s.images.find? fun j => decide (j.id = (s.gang g).image)) = some i)
include hi

/-- Once the buffers have drained, the image holds every member as it stopped. -/
theorem exec_imageWriteout_members (hst : (s.gang g).status = .saving 1) (hq : ∀ c ∈ (s.gang g).cells, s.quietCell g c = true) :
    ∃ t, exec (.imageWriteout g) s = .next t ∧ (t.gang g).status = .saving 2 ∧ (∀ d, t.cell d = s.cell d) ∧
      ∃ j ∈ t.images, j.id = i.id ∧ j.committed = i.committed ∧
        ∀ m < (s.gang g).size, ∀ c, (s.gang g).cellAt m = some c → j.members[m]? = some (s.cell c).cleanTiles := by
  have hquiet : (s.gang g).cells.all (s.quietCell g) = true := List.all_eq_true.mpr hq
  refine ⟨s.writeMembers g i, ?_, congrArg Gang.status (State.gang_setGang_self _ g _), fun _ => rfl,
    _, mem_map_replace (List.mem_of_find?_eq_some hi) _, rfl, rfl, fun m hm c hc => ?_⟩
  · change execImageWriteout g s = _
    simp only [execImageWriteout, hst, hi, hquiet, if_true]
  · rw [List.getElem?_map, List.getElem?_range hm, Option.map_some, hc]

/-- The header comes after the members. -/
theorem exec_imageWriteout_header (hst : (s.gang g).status = .saving 2) :
    ∃ t, exec (.imageWriteout g) s = .next t ∧ (t.gang g).status = .saving 3 ∧ (∀ d, t.cell d = s.cell d) ∧
      ∃ j ∈ t.images, j.id = i.id ∧ j.later = [] ∧ j.blocks = i.later ++ i.blocks ∧ j.members = i.members := by
  refine ⟨s.writeHeader g i, ?_, congrArg Gang.status (State.gang_setGang_self _ g _), fun _ => rfl,
    _, mem_map_replace (List.mem_of_find?_eq_some hi) _, rfl, rfl, rfl, rfl⟩
  change execImageWriteout g s = _
  simp only [execImageWriteout, hst, hi]

omit hi in
/-- A delta of the engine's own changes no cell, gang or image. -/
theorem State.frame_engineDelta (s : State) (b : Nat) :
    (s.engineDelta b).cells = s.cells ∧ (s.engineDelta b).gangs = s.gangs ∧ (s.engineDelta b).images = s.images := by
  unfold State.engineDelta State.queueDelta
  dsimp only
  split <;> exact ⟨rfl, rfl, rfl⟩

theorem exec_commitRecord_write (hst : (s.gang g).status = .saving 3) (hb : badControl i.marks = none) :
    ∃ t, exec (.commitRecord g) s = .next t ∧ (t.gang g).status = .saving 4 ∧ (∀ d, t.cell d = s.cell d) ∧
      ∃ j ∈ t.images, j.id = i.id ∧ j.committed = i.committed ∧ j.members = i.members := by
  let u := State.modImage (s.modGang g fun z => { z with status := .saving 4 }) i.id fun j =>
    { j with blocks := commitRegion j.blocks (s.gang g).savecnt }
  obtain ⟨hcells, hgangs, himages⟩ := u.frame_engineDelta i.commitBlock
  refine ⟨u.engineDelta i.commitBlock, ?_, ?_, fun d => ?_, ?_⟩
  · change execCommitRecord g s = _
    simp only [execCommitRecord, hst, hi, hb]
    rfl
  · rw [State.gang, hgangs]
    exact congrArg Gang.status (State.gang_setGang_self _ g _)
  · rw [State.cell, hcells]
    rfl
  · rw [himages]
    exact ⟨_, State.mem_modImage (s := s.modGang g _) (List.mem_of_find?_eq_some hi) _, rfl, rfl, rfl⟩

omit hi in
theorem State.images_freeGang (s : State) (g : GangId) : (s.freeGang g).images = s.images := by
  have h := congrArg State.images (s.rest_freeGang g)
  exact h

omit hi in
/-- Where a saved task goes changes its queue, or notes on its image that the host holds it. -/
theorem State.filed_spec (s : State) (x : Gang) (id : Nat) :
    (s.filed x id).cells = s.cells ∧ (s.filed x id).gangs = s.gangs ∧
      ∀ j ∈ s.images, ∃ k ∈ (s.filed x id).images, k.id = j.id ∧ k.committed = j.committed ∧ k.members = j.members := by
  unfold State.filed
  split
  next =>
    refine ⟨rfl, rfl, fun j hj => ⟨_, List.mem_map.mpr ⟨j, hj, rfl⟩, ?_⟩⟩
    split <;> exact ⟨rfl, rfl, rfl⟩
  next => exact ⟨rfl, rfl, fun j hj => ⟨j, hj, rfl, rfl, rfl⟩⟩
  next => exact ⟨rfl, rfl, fun j hj => ⟨j, hj, rfl, rfl, rfl⟩⟩

/-- Once the commit record is protected the image stands and the cells are free. -/
theorem exec_commitRecord_protected (hst : (s.gang g).status = .saving 4) (hd : ∀ d ∈ s.deltas, d.blk ≠ i.commitBlock)
    (hl : i.lost = false) (hk : (s.gang g).killSeq = none) :
    ∃ t, exec (.commitRecord g) s = .next t ∧ (t.gang g).status = .idle ∧ (∀ c ∈ (s.gang g).cells, (t.cell c).busy = false) ∧
      ∃ j ∈ t.images, j.id = i.id ∧ j.committed = true ∧ j.members = i.members := by
  let u := s.modImage i.id fun j => { j with committed := true }
  have hnone : (s.deltas.any fun d => decide (d.blk = i.commitBlock)) = false := by simpa using hd
  obtain ⟨hcells, hgangs, himages⟩ := (u.freeGang g).filed_spec (s.gang g) i.id
  refine ⟨(u.freeGang g).filed (s.gang g) i.id, ?_, ?_, fun c hc => ?_, ?_⟩
  · change execCommitRecord g s = _
    simp only [execCommitRecord, hst, hi, hnone, Bool.false_eq_true, if_false, State.endSave, hl, hk]
    rfl
  · rw [State.gang, hgangs]
    exact congrArg Gang.status (u.gang_freeGang_self g)
  · rw [State.cell, hcells]
    exact congrArg Cell.busy ((u.cell_freeGang g c).trans (if_pos hc))
  · refine himages { i with committed := true } ?_
    rw [State.images_freeGang]
    exact State.mem_modImage (List.mem_of_find?_eq_some hi) _

end Saving

/-! ## Traffic for saved contexts (R168) -/

/-- Is a write on its way to an image? -/
def FWrite.forImage (img : Nat) (w : FWrite) : Bool := match w.loc with
  | .img id _ _ => decide (id = img)
  | _ => false

theorem State.firstOfImage_eq (s : State) (img : Nat) (w : FWrite) :
    s.firstOfImage img w = (s.fabric.find? (FWrite.forImage img)).all fun x => decide (x.uid = w.uid) := rfl

/-- A write goes into an image whose commit record stands, when no write for it came before. -/
theorem State.tryWrite_image {s : State} {w : FWrite} {img m r : Nat} (hw : w.loc = .img img m r)
    (hc : ∀ i ∈ s.images, i.id = img → i.committed = true) (hfirst : s.firstOfImage img w = true) : s.tryWrite w = s.performWrite w := by
  have hopen : (s.images.any fun i => i.id = img && !i.committed) = false := by
    simpa using hc
  simp only [State.tryWrite, hw, hopen, hfirst, Bool.not_true, Bool.or_self, Bool.false_eq_true, if_false]

theorem exec_inboundToImage_committed {s : State} {img m r : Nat} {w : FWrite} (hw : w.loc = .img img m r)
    (hfind : s.fabric.find? (FWrite.forImage img) = some w) (hc : ∀ i ∈ s.images, i.id = img → i.committed = true) :
    exec (.inboundToImage img) s = .next (s.performWrite w) := by
  have hfirst : s.firstOfImage img w = true := by
    rw [State.firstOfImage_eq, hfind]
    exact decide_eq_true rfl
  have he : exec (.inboundToImage img) s = .next (match s.fabric.find? (FWrite.forImage img) with
    | none => s
    | some v => s.tryWrite v) := rfl
  rw [he, hfind]
  exact congrArg Host.Outcome.next (State.tryWrite_image hw hc hfirst)

/-! ## Resumption (R169) -/

/-- A gang restored from an image is the saved one on the cells of the placed one. -/
theorem State.gang_restore (s : State) (g : GangId) (i : Image) (v : Nat × Variant) :
    ∃ f img owned, (s.restore g i v).gang g = i.gang.moveTo (s.gang g) f img v owned s.wall :=
  ⟨_, _, _, State.gang_setGang_self _ g _⟩

theorem exec_resume_committed {s : State} {g : GangId} {i : Image} {v : Nat × Variant} (hp : s.placedFor i.id = some g)
    (hi : (s.images.find? fun j => decide (j.id = i.id)) = some i) (hc : i.committed = true) (hb : s.imageBusy i.id = false)
    (hr : s.rampAllows (s.gang g).cells ((s.gang g).avg * (s.gang g).size) = true) (hv : s.resumeCheck i = .ok v) :
    ∃ t, exec (.resume i.id) s = .next t ∧ (t.gang g).cells = (s.gang g).cells ∧ (t.gang g).tick = i.gang.tick ∧
      (t.gang g).status = i.gang.status ∧ (t.gang g).frozen = true := by
  let t := s.noteLoad
  let u : State := { t with power := { t.power with
    ballast := t.power.ballast.filter fun (b : CellId × Nat × Nat) => !(s.gang g).cells.contains b.1 } }
  have he : execResume i.id s = .next (u.restore g i v) := by
    simp only [execResume, hp, hi, hc, hb, hr, hv, Bool.not_true, Bool.or_self, Bool.false_eq_true, if_false]
    rfl
  obtain ⟨f, img, owned, hgang⟩ := u.gang_restore g i v
  refine ⟨_, he, ?_⟩
  rw [hgang]
  exact ⟨rfl, rfl, rfl, rfl⟩

/-! ## System software and saved tasks (R152, R390–R392) -/

theorem exec_exportImage_committed {s : State} {i : Image} (hi : s.image i.id = some i) (hc : i.committed = true) (ha : i.active = true)
    (hp : s.placedFor i.id = none) (hem : s.emergency = false) (hpin : i.pinned = false) :
    exec (.exportImage i.id) s = .next ((s.emit (.imageSent i.id true)).discardImage i.id) := by
  have hgo : (i.committed && i.active && (s.placedFor i.id).isNone && s.exportTurn i) = true := by
    simp [hc, ha, hp, State.exportTurn, hem]
  have hend (u : State) (hu : u.emergency = false) : u.emergencyEnd = u := by simp [State.emergencyEnd, hu]
  change execExportImage i.id s = _
  simp only [execExportImage, hi, hgo, if_true, hpin, Bool.false_eq_true, if_false]
  exact congrArg Host.Outcome.next (hend _ hem)

theorem exec_returnTask_held {s : State} {i : Image} (hi : s.image i.id = some i) (hc : i.committed = true) (hh : i.hostHeld = true) :
    exec (.returnTask i.id) s = .next
      ((s.modImage i.id fun j => { j with hostHeld := false, active := true }).readyHead i.gang.queue (.saved i.id)) := by
  change execReturnTask i.id s = _
  simp only [execReturnTask, hi, hc, hh, Bool.true_or, Bool.and_self, if_true]

theorem State.ready_readyHead (s : State) (q : Fin 64) (r : Ready) : ((s.readyHead q r).queues[q]).ready = r :: s.queues[q].ready := by
  simp [State.readyHead]

/-- A saved context whose faults all have their records leaves no more of them. -/
theorem State.killImage_recorded {s : State} {i : Image} (h : ∀ p ∈ i.gang.faults, p.written = true) (seq : Nat) :
    s.killImage i seq = (s.discardImage i.id).emit (.killedTask i.gang.graph i.gang.node seq) := by
  have hfold : i.gang.faults.foldl (fun (u : State) p =>
      if p.written then u else u.writeRecord { s.faultRec p 2 4 with asid := some i.gang.asid }) s = s :=
    List.foldlRecOn _ _ (motive := fun u : State => u = s) rfl fun u hu p hp => (if_pos (h p hp)).trans hu
  rw [State.killImage, hfold]

theorem exec_killTask_held {s : State} {i : Image} (hi : s.image i.id = some i) (ha : i.active = true)
    (hh : i.hostHeld = true ∨ i.refused = true) : exec (.killTask i.id) s = .next (s.killImage i s.logSeq) := by
  have hgo : (i.active && (i.hostHeld || i.refused)) = true := by simpa [ha] using hh
  change execKillTask i.id s = _
  simp only [execKillTask, hi, hgo, if_true]

/-! ## The kill of a context (R346) -/

/-- Two states in which the cells are the same and every gang holds the same of them. -/
structure State.SameHold (s t : State) : Prop where
  cells : t.cells = s.cells
  held : ∀ g, (t.gang g).cells = (s.gang g).cells

namespace State.SameHold

variable {s t u : State}

theorem refl (s : State) : s.SameHold s := ⟨rfl, fun _ => rfl⟩

theorem trans (h : s.SameHold t) (k : t.SameHold u) : s.SameHold u := ⟨k.cells.trans h.cells, fun g => (k.held g).trans (h.held g)⟩

/-- A change that comes after another. -/
theorem after (k : t.SameHold u) (h : s.SameHold t) : s.SameHold u := h.trans k

theorem cell (h : s.SameHold t) (c : CellId) : t.cell c = s.cell c := congrArg (fun v : Vector Cell 128 => v[c]) h.cells

theorem foldl {α : Type} {f : State → α → State} (hf : ∀ (u : State) (a : α), u.SameHold (f u a)) (l : List α) (s : State) :
    s.SameHold (l.foldl f s) :=
  List.foldlRecOn (motive := s.SameHold) l f (refl s) fun u hu a _ => hu.trans (hf u a)

/-- A device that halts leaves each gang its cells. -/
theorem halt (s : State) : s.SameHold s.halt where
  cells := rfl
  held g := by
    simp only [State.halt, State.gang, Fin.getElem_fin, Vector.getElem_map]
    split <;> rfl

theorem sendRecord (s : State) (seq : Nat) (b : RecordBits) : s.SameHold (s.sendRecord seq b) := by
  rw [State.sendRecord_eq]
  exact ⟨rfl, fun _ => rfl⟩

theorem enterLog (s : State) (r : ErrRec) : s.SameHold (s.enterLog r) := by
  unfold State.enterLog
  dsimp only
  split
  · exact after (sendRecord _ _ _) ⟨rfl, fun _ => rfl⟩
  · exact ⟨rfl, fun _ => rfl⟩

theorem stageRecord (s : State) (r : ErrRec) : s.SameHold (s.stageRecord r) := by
  unfold State.stageRecord
  dsimp only
  split
  · split
    · exact after (sendRecord _ _ _) ⟨rfl, fun _ => rfl⟩
    · exact ⟨rfl, fun _ => rfl⟩
  · exact (sendRecord s _ _).trans (halt _)

theorem writeRecord (s : State) (r : ErrRec) : s.SameHold (s.writeRecord r) := by
  unfold State.writeRecord
  extract_lets free t
  have ht : s.SameHold t := by
    unfold t
    split
    · exact ⟨rfl, fun _ => rfl⟩
    · split
      · exact stageRecord s r
      · exact enterLog s r
  split
  · exact ht.trans (halt t)
  · exact ht

theorem modGang (s : State) (g : GangId) {f : Gang → Gang} (hf : ∀ x, (f x).cells = x.cells) : s.SameHold (s.modGang g f) where
  cells := rfl
  held h := by
    rw [State.modGang_eq, State.gang_setGang]
    split
    next hg => rw [hf, hg]
    next => rfl

theorem writeFaults (s : State) (g : GangId) (l : List PFault) (sev disp : Nat) : s.SameHold (s.writeFaults g l sev disp) := by
  refine foldl (fun u p => ?_) l s
  unfold State.writeFault
  split
  · exact refl u
  · exact (writeRecord u _).trans (modGang _ g fun _ => rfl)

theorem recordKilled (s : State) (g : GangId) : s.SameHold (s.recordKilled g) := by
  refine (writeFaults s g _ 2 4).trans (foldl (fun u c => ?_) _ _)
  split
  · split
    · exact writeRecord u _
    · exact refl u
  · exact refl u

end State.SameHold

/-- A stream engine without commands has no chunk to end. -/
theorem stopStream_idle {s : State} {c : CellId} (h : (s.cell c).se.queue = []) : stopStream c s = s := by
  rw [stopStream, h, List.foldl_nil]

theorem foldl_stopStream_idle {s : State} {l : List CellId} (h : ∀ c ∈ l, (s.cell c).se.queue = []) :
    l.foldl (fun u c => stopStream c u) s = s :=
  List.foldlRecOn l _ (motive := fun u => u = s) rfl fun _ hu c hc => by
    subst hu
    exact stopStream_idle (h c hc)

/-- A killed context is idle, and the host is told. -/
theorem State.killGang_spec (s : State) (g : GangId) (seq : Nat) :
    (s.killGang g seq).gang g = Gang.reset ∧
      (s.killGang g seq).outbox.getLast? = some (.killedTask (s.gang g).graph (s.gang g).node seq) :=
  ⟨State.gang_freeGang_self _ g, List.getLast?_concat⟩

/-- Without a command in its stream engines a killed context leaves its cells free. -/
theorem State.busy_killGang {s : State} {g : GangId} (hse : ∀ c ∈ (s.gang g).cells, (s.cell c).se.queue = []) (seq : Nat) {c : CellId}
    (hc : c ∈ (s.gang g).cells) : ((s.killGang g seq).cell c).busy = false := by
  have hfree (u : State) (hu : s.SameHold u) : (((u.dropImage (s.gang g).image).freeGang g).cell c).busy = false := by
    have hmem : c ∈ ((u.dropImage (s.gang g).image).gang g).cells := (hu.held g).symm ▸ hc
    rw [State.cell_freeGang, if_pos hmem]
    rfl
  unfold State.killGang
  extract_lets x t u
  refine hfree u ?_
  have ht : s.SameHold t := by
    unfold t
    split
    · rw [foldl_stopStream_idle fun d hd => by rw [(State.SameHold.recordKilled s g).cell]; exact hse d hd]
      exact State.SameHold.recordKilled s g
    · exact State.SameHold.refl s
  exact ⟨ht.cells, ht.held⟩

theorem exec_killContext_frozen {s : State} {g : GangId} {n : Nat} (hst : (s.gang g).status = .running ∨ (s.gang g).status = .ending)
    (hz : (s.gang g).frozen = true) (hk : (s.gang g).killSeq = some n) : exec (.killContext g) s = .next (s.killGang g n) := by
  have hholds : (s.gang g).holdsCells = true := by rcases hst with h | h <;> simp [Gang.holdsCells, h]
  have hsaving : (s.gang g).saving = false := by rcases hst with h | h <;> simp [Gang.saving, h]
  change execKillContext g s = _
  simp only [execKillContext, hholds, hsaving, hz, hk, Bool.not_true, Bool.true_or, Bool.false_eq_true, if_false, if_true, Option.getD_some]

/-- Settles O44: each clause is its event's lemma; the save goes through the image that its gang names. -/
theorem saveEventsComplete : Obligations.SaveEventsComplete := by
  refine ⟨?request, ?stop, ?save, ?inbound, ?resume, ?leave, ?back, ?kill, ?pin, ?context⟩
  case request => exact fun s g why hst hsave hz => exec_saveRequest_running why hst hsave hz
  case stop => exact fun s g h => exec_preemptionStop_due h
  case save =>
    exact fun s g i hi => ⟨exec_imageWriteout_members hi, exec_imageWriteout_header hi, exec_commitRecord_write hi,
      exec_commitRecord_protected hi⟩
  case inbound =>
    intro s img w i ⟨m, r, hw⟩ hfind himages _ hc
    exact exec_inboundToImage_committed hw hfind fun k hk _ => by
      rw [himages] at hk
      exact List.mem_singleton.mp hk ▸ hc
  case resume => exact fun s g i v hp hi hc hb hr hv => exec_resume_committed hp hi hc hb hr hv
  case leave => exact fun s i hi hc ha hp hem hpin => exec_exportImage_committed hi hc ha hp hem hpin
  case back =>
    intro s i hi hc hh
    exact ⟨_, exec_returnTask_held hi hc hh, State.ready_readyHead _ _ _, State.image_modImage hi fun _ => rfl, fun _ => rfl⟩
  case kill =>
    intro s i hi ha hh hf
    refine ⟨_, exec_killTask_held hi ha hh, ?_⟩
    rw [State.killImage_recorded hf]
    exact ⟨s.image_discardImage i.id, rfl, fun _ => rfl⟩
  case pin => exact fun s i hi => ⟨_, rfl, State.image_modImage hi fun _ => rfl, fun _ => rfl⟩
  case context =>
    intro s g n hst hz hk
    obtain ⟨hgang, hout⟩ := s.killGang_spec g n
    exact ⟨_, exec_killContext_frozen hst hz hk, by rw [hgang]; rfl, fun hse c hc => State.busy_killGang hse n hc, hout⟩

end Sys2Proof.Machine
end

section
/-! SUPPORT. Registers of system software, the board link's limit and the monitor units (Sched.lean, Links.lean, Mgmt.lean), one lemma for each
event; they settle O45. -/

namespace Sys2Proof.Machine

/-! ## Registers (R149, R155, R182, R187, R191) -/

/-- A field of one bit is set where its bit is. -/
theorem decide_extractLsb'_one {n : Nat} (v : BitVec n) (k : Nat) : decide ((v.extractLsb' k 1).toNat = 1) = v.getLsbD k := by
  rw [toNat_extractLsb'_eq_fieldOf]
  exact Nat.testBit_eq_decide_div_mod_eq.symm

/-- A queue with the fields of QCFG (R149). -/
def SQueue.configure (y : SQueue) (v : BitVec 64) : SQueue :=
  { y with
    tickets := (v.extractLsb' 0 16).toNat
    quant := max 100 (min (v.extractLsb' 16 20).toNat 1000000)
    cls := (v.extractLsb' 36 2).toNat
    en := v.getLsbD 38 }

theorem exec_qcfgWrite (s : State) (q : Fin 64) (v : BitVec 64) :
    ∃ kept, exec (.qcfgWrite q v) s = .next { s.modQueue q (·.configure v) with kept := kept } := by
  change ∃ kept, execQcfgWrite q v s = _
  simp only [execQcfgWrite, decide_extractLsb'_one, ← toNat_extractLsb'_eq_fieldOf]
  split <;> exact ⟨_, rfl⟩

/-- A change of the power manager's limits takes effect, and the blocked queues are reported (R155, R187). -/
theorem State.blocked_limits (s : State) (p : Power) :
    let t := ({ s with power := p } : State).blocked
    t.power = p ∧ (∀ c, t.cell c = s.cell c) ∧ ∀ a, t.byte a = s.byte a := by
  intro t
  have honly : State.OnlyQueues { s with power := p } t := State.onlyQueues_blocked _
  clear_value t
  have hpower := congrArg State.power honly
  exact ⟨hpower, honly.cell, fun a => by
    have hbyte := congrArg (fun u : State => u.byte a) honly
    exact hbyte⟩

theorem exec_pwrcfgWrite (s : State) (v : BitVec 64) :
    exec (.pwrcfgWrite v) s = .next (State.blocked { s with power := { s.power with
      budget := min (v.extractLsb' 0 24).toNat 2600000, rampup := max 1 (v.extractLsb' 24 16).toNat } }) := by
  change execPwrcfgWrite v s = _
  simp only [execPwrcfgWrite, ← toNat_extractLsb'_eq_fieldOf]

theorem exec_setlim (s : State) (mw : Nat) :
    exec (.setlim mw) s = .next ((State.blocked { s with power := { s.power with blim := min mw 2600000 } }).emit .done) := rfl

/-- What FUNCMODE holds of the two bits written for a function: the reserved values read zero, or one for a function of two modes (R191). -/
def funcmodeBits (i m : Nat) : Nat := if i < 6 then (if m = 3 then 0 else m) else if 2 ≤ m then 1 else m

theorem funcmodeValue_lt (v : Nat) : funcmodeValue v < 2 ^ 16 := packNat_lt 2 _ 8

theorem funcmode_extract (v : BitVec 64) {i : Nat} (hi : i < 8) :
    (BitVec.ofNat 64 (funcmodeValue v.toNat)).extractLsb' (2 * i) 2 = BitVec.ofNat 2 (funcmodeBits i (v.extractLsb' (2 * i) 2).toNat) := by
  have hlt := (funcmodeValue_lt v.toNat).trans (show 2 ^ 16 < 2 ^ 64 by decide)
  have hpack : fieldOf (funcmodeValue v.toNat) (2 * i) 2 = funcmodeBits i (fieldOf v.toNat (2 * i) 2) % 2 ^ 2 :=
    fieldOf_packNat 2 (fun i => funcmodeBits i (fieldOf v.toNat (2 * i) 2)) i 8 hi
  apply BitVec.eq_of_toNat_eq
  rw [toNat_extract_ofNat _ _ _ _ hlt, hpack, BitVec.toNat_ofNat, toNat_extractLsb'_eq_fieldOf]

theorem ofNat_funcmodeBits_low {i : Nat} (hi : i < 6) (m : BitVec 2) : BitVec.ofNat 2 (funcmodeBits i m.toNat) = if m = 3 then 0 else m := by
  rw [funcmodeBits, if_pos hi]
  revert m
  decide

theorem ofNat_funcmodeBits_high {i : Nat} (hi : 6 ≤ i) (m : BitVec 2) :
    BitVec.ofNat 2 (funcmodeBits i m.toNat) = if m.toNat < 2 then m else 1 := by
  rw [funcmodeBits, if_neg (Nat.not_lt.mpr hi)]
  revert m
  decide

theorem funcmode_reserved (v : Nat) : (BitVec.ofNat 64 (funcmodeValue v)).extractLsb' 16 48 = 0 := by
  have hlt := funcmodeValue_lt v
  apply BitVec.eq_of_toNat_eq
  rw [toNat_extract_ofNat _ _ _ _ (hlt.trans (by decide)), fieldOf, Nat.div_eq_of_lt hlt]
  rfl

/-- PORTCFG with the SPLIT that the port has (R182). -/
theorem exec_portcfgWrite_sameSplit {s : State} {p : Fin 2} {v : BitVec 64} (h : (v.extractLsb' 0 2).toNat = s.ports[p].split)
    (h3 : (v.extractLsb' 0 2).toNat ≠ 3) :
    exec (.portcfgWrite p v) s = .next { s with
      ports := s.ports.set p { split := s.ports[p].split, ptpen := v.getLsbD 2, mgmt := v.getLsbD 3 } } := by
  change execPortcfgWrite p v s = _
  have hs : s.ports[p].split ≠ 3 := h ▸ h3
  simp only [execPortcfgWrite, decide_extractLsb'_one, ← toNat_extractLsb'_eq_fieldOf, h, if_neg hs, if_true]

/-! ## Monitor units (R194, R195) -/

theorem exec_monitorConfigWrite (s : State) (m : Fin 64) (v : BitVec 64) : exec (.monitorConfigWrite m v) s = .next { s with
    monitors := s.monitors.set m { s.monitors[m] with
      src := (v.extractLsb' 0 4).toNat
      shift := (v.extractLsb' 4 5).toNat
      cell := (v.extractLsb' 9 7).toNat
      allc := v.getLsbD 16
      asid := v.extractLsb' 17 10
      alla := v.getLsbD 27
      en := v.getLsbD 28 } } := by
  change execMonitorConfigWrite m v s = _
  simp only [execMonitorConfigWrite, State.modMonitor, Monitor.configure, ← toNat_extractLsb'_eq_fieldOf, decide_extractLsb'_one,
    BitVec.ofNat_toNat, BitVec.setWidth_eq]

theorem State.monitor_sample (s : State) (src : Nat) (c : CellId) (asid : BitVec 10) (v : Nat) (m : Fin 64) :
    (s.sample src c asid v).monitors[m] = if s.monitors[m].takes src c asid then s.monitors[m].add v else s.monitors[m] := by
  simp [State.sample]

theorem Monitor.takes_iff (u : Monitor) (src : Nat) (c : CellId) (asid : BitVec 10) : u.takes src c asid = true ↔
    u.en = true ∧ u.src = src ∧ src < 10 ∧ (u.allc = true ∨ u.cell = c.val) ∧ (u.alla = true ∨ u.asid = asid) := by
  simp [Monitor.takes, and_assoc]

/-- Which samples a bin counts: bin 0 those below 2^SHIFT, bin 31 all from 2^(SHIFT+30) on, and each other bin an octave (R195). -/
theorem eq_binOf_iff (shift v : Nat) (b : Fin 32) : b.val = binOf shift v ↔
    (b.val = 0 ∧ v < 2 ^ shift) ∨ (1 ≤ b.val ∧ b.val < 31 ∧ 2 ^ (shift + b.val - 1) ≤ v ∧ v < 2 ^ (shift + b.val)) ∨
      (b.val = 31 ∧ 2 ^ (shift + 30) ≤ v) := by
  by_cases h0 : v < 2 ^ shift
  · have hlow (k : Nat) (hk : shift ≤ k) : ¬ 2 ^ k ≤ v := fun h => by
      have := Nat.pow_le_pow_right Nat.two_pos hk
      omega
    have hmid := hlow (shift + b.val - 1)
    have hhigh := hlow (shift + 30) (Nat.le_add_right _ _)
    rw [binOf, if_pos h0]
    omega
  · have hv : v ≠ 0 := by
      have := Nat.two_pow_pos shift
      omega
    have hle (k : Nat) : 2 ^ k ≤ v ↔ k ≤ Nat.log2 v := (Nat.le_log2 hv).symm
    have hlt (k : Nat) : v < 2 ^ k ↔ Nat.log2 v < k := (Nat.log2_lt hv).symm
    rw [hlt] at h0
    rw [binOf, if_neg (by rwa [hlt]), hle, hle, hlt, hlt]
    omega

theorem getElem_bins_add (u : Monitor) (v : Nat) (b : Fin 32) :
    (u.add v).bins[b] = if b.val = binOf u.shift v then min (u.bins[b] + 1) (2 ^ 32 - 1) else u.bins[b] := by
  simp [Monitor.add]

/-- Settles O45: each register takes its fields; a monitor unit counts a sample in the one bin whose octave holds it. -/
theorem registerWritesComplete : Obligations.RegisterWritesComplete := by
  refine ⟨?qcfg, ?pwrcfg, ?funcmode, ?portcfg, ?limit, ?config, ?sample, ?read, ?clear, ?selfdev, ?timeout⟩
  case qcfg =>
    intro s q v
    obtain ⟨kept, he⟩ := exec_qcfgWrite s q v
    have hqueue (p : Fin 64) := s.queue_modQueue q p (·.configure v)
    exact ⟨_, he, (hqueue q).trans (if_pos rfl), fun p hp => (hqueue p).trans (if_neg (Ne.symm hp)), fun _ => rfl, fun _ => rfl⟩
  case pwrcfg => exact fun s v => ⟨_, exec_pwrcfgWrite s v, s.blocked_limits _⟩
  case funcmode =>
    intro s v
    refine ⟨_, rfl, fun i hi => ?_, fun i hlo hi => ?_, funcmode_reserved _⟩
    · rw [funcmode_extract v (by omega), ofNat_funcmodeBits_low hi]
    · rw [funcmode_extract v hi, ofNat_funcmodeBits_high hlo]
  case portcfg => exact fun s p v h h3 => exec_portcfgWrite_sameSplit h h3
  case limit =>
    intro s mw
    obtain ⟨hpower, hcell, hbyte⟩ := s.blocked_limits { s.power with blim := min mw 2600000 }
    rw [exec_setlim]
    generalize State.blocked _ = t at *
    exact ⟨t.emit .done, rfl, hpower, List.getLast?_concat, hcell, hbyte⟩
  case config => exact exec_monitorConfigWrite
  case sample =>
    intro s src c asid v m
    refine ⟨_, rfl, rfl, fun hn => ?_, fun hc => ?_⟩
    · rw [State.monitor_sample, if_neg (mt (Monitor.takes_iff _ _ _ _).mp hn)]
    · rw [State.monitor_sample, if_pos ((Monitor.takes_iff _ _ _ _).mpr hc)]
      refine ⟨rfl, rfl, rfl, rfl, fun b => ?_⟩
      rw [getElem_bins_add]
      exact if_congr (eq_binOf_iff _ _ _) rfl rfl
  case read => exact fun s m => rfl
  case clear => exact fun s m => rfl
  case selfdev => exact fun s d => rfl
  case timeout =>
    intro s ms
    change execMgmtRegisterWrite (.forwardingTimeout ms) s = _
    by_cases h : 1 ≤ ms ∧ ms ≤ 1000 <;> simp [execMgmtRegisterWrite, State.mgmtWrite, h]

end Sys2Proof.Machine
end

section
/-! SUPPORT. What the parts of the device hold after reset; it settles O55. -/

namespace Sys2Proof.Machine

theorem State.cell_reset (c : CellId) : State.reset.cell c = Cell.reset := Vector.getElem_replicate ..

theorem State.gang_reset (g : GangId) : State.reset.gang g = Gang.reset := Vector.getElem_replicate ..

theorem State.queue_reset (q : Fin 64) : State.reset.queues[q] = SQueue.reset := Vector.getElem_replicate ..

theorem State.port_reset (p : Fin 2) : State.reset.ports[p] = Port.reset := Vector.getElem_replicate ..

theorem Cell.engine_reset (e : Eng) : Cell.reset.engine e = EngSeq.reset := Vector.getElem_replicate ..

/-- Settles O55: the single values are the reset's own, and cells, gangs, queues and ports are each filled with one value. -/
theorem resetValues : Obligations.ResetValues := by
  refine ⟨rfl, rfl, rfl, rfl, rfl, rfl, rfl, rfl, rfl, rfl, fun c => ?_, fun g => ?_, fun q => ?_, fun p => State.port_reset p⟩
  · rw [State.cell_reset]
    exact ⟨rfl, fun e => by rw [Cell.engine_reset]; rfl⟩
  · rw [State.gang_reset]
    rfl
  · rw [State.queue_reset]
    exact ⟨rfl, rfl, rfl, rfl⟩

end Sys2Proof.Machine
end

section
/-! SUPPORT. The board (Board.lean): boot, droop, frequency, slip, thermal responses, links and TIME's input, one lemma for each event; they
settle O48. -/

namespace Sys2Proof.Machine

/-! ## What records, dispositions and pre-emption requests leave of the device -/

/-- Nothing but the log and what leaves it, the gangs with the halt that ends them, and requests yet to come differs. -/
def State.OnlyRecords (s t : State) : Prop :=
  { t with log := s.log, staged := s.staged, logSeq := s.logSeq, drop := s.drop, halted := s.halted, gangs := s.gangs, outbox := s.outbox,
           inputs := s.inputs } = s

namespace State.OnlyRecords

variable {s t : State}

theorem refl (s : State) : s.OnlyRecords s := rfl

theorem foldl {α : Type} {f : State → α → State} (h : s.OnlyRecords t) (l : List α) (hf : ∀ u a, s.OnlyRecords u → s.OnlyRecords (f u a)) :
    s.OnlyRecords (l.foldl f t) :=
  List.foldlRecOn l f (motive := s.OnlyRecords) h fun u hu a _ => hf u a hu

theorem power (h : s.OnlyRecords t) : t.power = s.power := (congrArg State.power h :)

theorem clock (h : s.OnlyRecords t) : t.clock = s.clock := (congrArg State.clock h :)

theorem links (h : s.OnlyRecords t) : t.links = s.links := (congrArg State.links h :)

theorem sessions (h : s.OnlyRecords t) : t.sessions = s.sessions := (congrArg State.sessions h :)

theorem emergency (h : s.OnlyRecords t) : t.emergency = s.emergency := (congrArg State.emergency h :)

theorem stage (h : s.OnlyRecords t) : t.stage = s.stage := (congrArg State.stage h :)

theorem bootHalt (h : s.OnlyRecords t) : t.bootHalt = s.bootHalt := (congrArg State.bootHalt h :)

theorem signature (h : s.OnlyRecords t) : t.signature = s.signature := (congrArg State.signature h :)

theorem layout (h : s.OnlyRecords t) : t.layout = s.layout := (congrArg State.layout h :)

theorem cell (h : s.OnlyRecords t) (c : CellId) : t.cell c = s.cell c := (congrArg (fun v : State => v.cell c) h :)

theorem halt (h : s.OnlyRecords t) : s.OnlyRecords t.halt := h

theorem modGang (h : s.OnlyRecords t) (g : GangId) (f : Gang → Gang) : s.OnlyRecords (t.modGang g f) := h

theorem sendRecord (h : s.OnlyRecords t) (seq : Nat) (b : RecordBits) : s.OnlyRecords (t.sendRecord seq b) := by
  rw [State.sendRecord_eq]
  exact h

theorem enterLog (h : s.OnlyRecords t) (r : ErrRec) : s.OnlyRecords (t.enterLog r) := by
  unfold State.enterLog
  extract_lets bits t' u
  have hu : s.OnlyRecords u := h
  split
  · exact hu.sendRecord _ _
  · exact hu

theorem stageRecord (h : s.OnlyRecords t) (r : ErrRec) : s.OnlyRecords (t.stageRecord r) := by
  unfold State.stageRecord
  extract_lets bits u
  have hu : s.OnlyRecords u := h
  split
  · split
    · exact hu.sendRecord _ _
    · exact hu
  · exact (h.sendRecord _ _).halt

theorem writeRecord (h : s.OnlyRecords t) (r : ErrRec) : s.OnlyRecords (t.writeRecord r) := by
  unfold State.writeRecord
  extract_lets free u
  have hu : s.OnlyRecords u := by
    unfold u
    split
    · exact h
    · split
      · exact h.stageRecord r
      · exact h.enterLog r
  split <;> exact hu

theorem writeFaults (h : s.OnlyRecords t) (g : GangId) (l : List PFault) (sev disp : Nat) : s.OnlyRecords (t.writeFaults g l sev disp) := by
  refine h.foldl l fun u p hu => ?_
  unfold State.writeFault
  split
  · exact hu
  · exact (hu.writeRecord _).modGang g _

theorem demoteLater (h : s.OnlyRecords t) (asid : BitVec 10) (p : PFault) : s.OnlyRecords (t.demoteLater asid p) := h

theorem hardwareFate (h : s.OnlyRecords t) (g : GangId) : s.OnlyRecords (t.hardwareFate g) := by
  unfold State.hardwareFate State.killForFaults State.dropFaults
  extract_lets x d n
  split
  · exact h
  · split
    · exact (h.writeFaults g _ _ _).modGang g _
    · exact ((h.writeFaults g d 1 2).foldl d fun _ p hu => hu.demoteLater x.asid p).modGang g _

theorem disown (h : s.OnlyRecords t) (g : GangId) : s.OnlyRecords (t.disown g) := by
  unfold State.disown
  extract_lets u
  have hu : s.OnlyRecords u := h.modGang g _
  split
  · exact hu.hardwareFate g
  · exact hu

theorem requestSave (h : s.OnlyRecords t) (g : GangId) (why : SaveCause) : s.OnlyRecords (t.requestSave g why) := by
  unfold State.requestSave
  extract_lets x
  split
  · split <;> exact h.modGang g _
  · exact h

theorem emergencyEnd (h : s.OnlyRecords t) : s.OnlyRecords t.emergencyEnd := by
  unfold State.emergencyEnd
  split <;> exact h

end State.OnlyRecords

/-! ## Boot (R188, R396) -/

theorem bootStageFails_iff (b : BootInput) (n : Nat) : bootStageFails b n = true ↔
    b.failStage = n ∨ (n = 1 ∧ (badSignature b.signature = true ∨ objectVerifies b.record b.revoked = false)) ∨
      (n = 3 ∧ objectVerifies b.image b.revoked = false) := by
  unfold bootStageFails
  rw [Bool.or_eq_true, decide_eq_true_eq]
  refine or_congr_right ?_
  split
  · simp
  · simp
  next h1 h3 => simp [show n ≠ 1 from h1, show n ≠ 3 from h3]

theorem exec_powerOn_first {s : State} (b : BootInput) (hhalt : s.bootHalt = false) (hboot : s.boot = none) (hstage : s.stage = 0) :
    exec (.powerOn b) s = .next { s.coldReset with boot := some b, stage := 1 } := by
  change execPowerOn b s = _
  simp [execPowerOn, hboot, hstage, hhalt]

theorem exec_powerOn_stage {s : State} {k : BootInput} (b : BootInput) (hhalt : s.bootHalt = false) (hboot : s.boot = some k)
    (h1 : 1 ≤ s.stage) (h6 : s.stage ≤ 6) :
    exec (.powerOn b) s = .next (if bootStageFails k s.stage then { s with bootHalt := true }
      else bootLeaves k s.stage { s with stage := s.stage + 1 }) := by
  have hruns : (s.bootHalt || decide (s.stage = 0) || decide (7 ≤ s.stage)) = false := by
    rw [hhalt, decide_eq_false (by omega), decide_eq_false (by omega)]
    rfl
  change execPowerOn b s = _
  simp only [execPowerOn, hboot, State.bootStep, hruns, Bool.false_eq_true, if_false]

/-- The records of the bypasses are written once boot is over. -/
theorem State.onlyRecords_bootLeaves_six (s : State) (b : BootInput) : State.OnlyRecords { s with stage := 7 } (bootLeaves b 6 s) :=
  (State.OnlyRecords.refl _).foldl _ fun _ _ hu => hu.writeRecord _

/-- A stage before the last leaves no record. -/
theorem State.rest_bootLeaves (s : State) (b : BootInput) {n : Nat} (h : n < 6) :
    { bootLeaves b n s with signature := s.signature, layout := s.layout } = s := by
  unfold bootLeaves
  split
  · rfl
  · split <;> rfl
  · exact absurd h (by decide)
  · rfl

theorem State.stage_bootLeaves {s : State} (b : BootInput) {n : Nat} (h : s.stage = n + 1) : (bootLeaves b n s).stage = n + 1 := by
  by_cases h6 : n = 6
  · subst h6
    exact (s.onlyRecords_bootLeaves_six b).stage
  · rw [← h]
    unfold bootLeaves
    split
    · rfl
    · split <;> rfl
    · exact absurd rfl h6
    · rfl

theorem State.bootHalt_bootLeaves (s : State) (b : BootInput) (n : Nat) : (bootLeaves b n s).bootHalt = s.bootHalt := by
  unfold bootLeaves
  split
  · rfl
  · split <;> rfl
  · exact (s.onlyRecords_bootLeaves_six b).bootHalt
  · rfl

theorem State.signature_bootLeaves (s : State) (b : BootInput) (n : Nat) :
    (bootLeaves b n s).signature = if n = 4 then bootSigns b else s.signature := by
  unfold bootLeaves
  split
  · rfl
  · split <;> rfl
  · exact (s.onlyRecords_bootLeaves_six b).signature
  next h4 _ _ => exact (if_neg h4).symm

theorem State.layout_bootLeaves_five (s : State) {b : BootInput} {lost : Fin 12} (h : b.lost = some lost) :
    (bootLeaves b 5 s).layout = { s.layout with mode := 1, lost := lost } := by
  simp only [bootLeaves, h]

theorem State.layout_bootLeaves (s : State) {b : BootInput} {n : Nat} (h : n ≠ 5 ∨ b.lost = none) : (bootLeaves b n s).layout = s.layout := by
  unfold bootLeaves
  split
  · rfl
  · simp only [h.resolve_left (by decide)]
  · exact (s.onlyRecords_bootLeaves_six b).layout
  · rfl

/-! ## Droop and the root dividers (R174, R175, R394, R395) -/

theorem exec_droopStretch_unballasted {s : State} {c : CellId} (h : s.ballasted c = false) :
    exec (.droopStretch c) s = .next (({ s with power := { s.power with
      stretchAt := s.power.stretchAt.set (dieOf c) (s.power.stretches (dieOf c) ++ [s.power.refs, s.power.refs])
      acc := s.power.acc + 1900 * s.power.rootDiv } } : State).sample 5 c (s.gangOf c).asid
        (s.power.stretches (dieOf c) ++ [s.power.refs, s.power.refs]).length) := by
  change execDroopStretch c s = _
  simp only [execDroopStretch, h, Bool.false_eq_true, if_false]

/-- A device whose power manager has moved on, once a record of the change is written. -/
theorem State.power_logs_writeRecord {s : State} (hroom : s.log.length < 65280) (n : Nat) (p : Power) (r : ErrRec) (hsev : r.sev ≠ 3) :
    let t := State.writeRecord { s with freeCtr := n, power := p } r
    t.power = p ∧ s.Logs t r.cls r.sev :=
  ⟨((State.OnlyRecords.refl _).writeRecord r).power, State.logs_writeRecord (s := { s with freeCtr := n, power := p }) hroom hsev⟩

theorem exec_forcedSlowDown_over {s : State} {d : Fin 2} (hover : 65 ≤ (s.power.stretches d).length) (hdiv : s.power.rootDiv < 4)
    (hroom : s.log.length < 65280) :
    ∃ t, exec (.forcedSlowDown d) s = .next t ∧ t.power = { s.noteLoad.power with
      rootDiv := 2 * s.power.rootDiv
      stretchAt := s.power.stretchAt.set d ((s.power.stretches d).drop 65)
      slowDie := d
      divSince := s.wall
      calmSince := s.wall } ∧ s.Logs t 0x30 0 := by
  have hgo : ¬ (decide ((s.power.stretches d).length < 65) || decide (4 ≤ s.power.rootDiv)) = true := by
    simp only [Bool.or_eq_true, decide_eq_true_eq]
    omega
  exact ⟨_, congrArg Host.Outcome.next (if_neg hgo),
    State.power_logs_writeRecord hroom s.freeCtr _ (slowRec _ false d 65 0) (show 0 ≠ 3 by decide)⟩

theorem exec_slowDownReturn_calm {s : State} (hdiv : 1 < s.power.rootDiv) (hclamp : s.power.clamp = false)
    (hcalm : s.power.calmSince + 950000 ≤ s.wall) (hroom : s.log.length < 65280) :
    ∃ t, exec .slowDownReturn s = .next t ∧ t.power = { s.noteLoad.power with
      rootDiv := s.power.rootDiv / 2, divSince := s.wall, calmSince := s.wall } ∧ s.Logs t 0x30 0 := by
  have hus : usCycles 500 = 950000 := rfl
  have hgo : ¬ (decide (s.power.rootDiv ≤ 1) || s.power.clamp || decide (s.wall < s.power.calmSince + usCycles 500)) = true := by
    simp only [hclamp, Bool.or_false, Bool.or_eq_true, decide_eq_true_eq]
    omega
  exact ⟨_, congrArg Host.Outcome.next (if_neg hgo),
    State.power_logs_writeRecord hroom s.freeCtr _ (slowRec _ true s.power.slowDie _ _) (show 0 ≠ 3 by decide)⟩

/-! ## The frequency (R179) -/

theorem exec_frequencyStep_due {s : State} (hgoal : s.heading ≠ s.power.freq) (hdue : s.power.lastStep + 1900 ≤ s.wall) :
    exec .frequencyStep s = .next { s with power := { s.power with
      freq := if s.power.freq < s.heading then s.power.freq + 25 else s.power.freq - 25, lastStep := s.wall } } := by
  have hus : usCycles 1 = 1900 := rfl
  have hgo : ¬ (decide (s.heading = s.power.freq) || decide (s.wall < s.power.lastStep + usCycles 1)) = true := by
    simp only [Bool.or_eq_true, decide_eq_true_eq]
    omega
  exact congrArg Host.Outcome.next (if_neg hgo)

/-! ## Slip (R397) -/

theorem State.logs_enterLog (s : State) (r : ErrRec) : s.Logs (s.enterLog r) r.cls r.sev := by
  unfold State.enterLog
  dsimp only
  split
  · rw [State.sendRecord_eq]
    exact ⟨r, rfl, rfl, rfl, rfl⟩
  · exact ⟨r, rfl, rfl, rfl, rfl⟩

/-- With room in the log a device-fatal record enters it, and the device halts (R351). -/
theorem State.writeRecord_fatal {s : State} {r : ErrRec} (hroom : s.log.length < 65280) (hsev : r.sev = 3) :
    s.writeRecord r = (s.enterLog r).halt := by
  have hfree : ¬ logSize - s.log.length = 0 := by
    simp only [logSize]
    omega
  simp only [State.writeRecord, hsev, OfNat.ofNat_ne_zero, decide_false, Bool.false_and, Bool.false_eq_true, if_false, if_neg hfree, if_true]

theorem exec_slipDetected_bridge {s : State} (hroom : s.log.length < 65280) :
    exec (.slipDetected .bridge) s = .next (s.enterLog (internalRec 15)).halt :=
  congrArg Host.Outcome.next (State.writeRecord_fatal hroom rfl)

theorem mem_setMember_true {α : Type} [DecidableEq α] (l : List α) (x : α) : x ∈ setMember l x true :=
  List.mem_append_right _ (List.mem_singleton_self x)

/-- A cell withheld after a record, at a count of free values of its own. -/
theorem State.logs_withheld_writeRecord {s : State} (hroom : s.log.length < 65280) (n : Nat) (c : CellId) {r : ErrRec} (hsev : r.sev ≠ 3) :
    let u := State.writeRecord { s with freeCtr := n } r
    let t : State := { u with withheld := setMember u.withheld c true }
    s.Logs t r.cls r.sev ∧ c ∈ t.withheld ∧ ∀ d, t.cell d = s.cell d :=
  ⟨State.logs_writeRecord (s := { s with freeCtr := n }) hroom hsev, mem_setMember_true _ c,
    ((State.OnlyRecords.refl _).writeRecord r).cell⟩

theorem exec_slipDetected_free {s : State} {c : CellId} (hroom : s.log.length < 65280) (hfree : (s.cell c).busy = false) :
    ∃ t, exec (.slipDetected (.hop c)) s = .next t ∧ s.Logs t 0x31 2 ∧ c ∈ t.withheld ∧ ∀ d, t.cell d = s.cell d := by
  change ∃ t, execSlipDetected (.hop c) s = _ ∧ _
  simp only [execSlipDetected, hfree, Bool.false_eq_true, if_false]
  exact ⟨_, rfl, State.logs_withheld_writeRecord hroom (s.freeCtr + 1) c (show 2 ≠ 3 by decide)⟩

/-! ## Thermal responses (R181, R398) -/

theorem exec_thermalResponse95_hot {s : State} {d : Fin 2} {tj : Nat} (hot : 95 * 16 ≤ tj) (hnew : s.power.hot95.get d = false)
    (hroom : s.log.length < 65280) :
    ∃ t, exec (.thermalResponse95 d tj) s = .next t ∧ t.power = { s.noteLoad.power with hot95 := s.power.hot95.set d true } ∧
      s.Logs t 0x32 0 := by
  have hgo : ¬ (decide (tj < 95 * 16) || s.power.hot95.get d) = true := by
    rw [hnew, Bool.or_false, decide_eq_true_eq]
    omega
  exact ⟨_, congrArg Host.Outcome.next (if_neg hgo), State.power_logs_writeRecord hroom s.freeCtr _ _ (show 0 ≠ 3 by decide)⟩

theorem exec_thermalResponse95End_hot {s : State} {d : Fin 2} (hot : s.power.hot95.get d = true) (hroom : s.log.length < 65280) :
    ∃ t, exec (.thermalResponse95End d) s = .next t ∧ t.power = { s.noteLoad.power with hot95 := s.power.hot95.set d false } ∧
      s.Logs t 0x32 0 :=
  ⟨_, congrArg Host.Outcome.next (if_pos hot), State.power_logs_writeRecord hroom (s.freeCtr + 1) _ _ (show 0 ≠ 3 by decide)⟩

theorem exec_thermalClamp_hot {s : State} {d : Fin 2} {tj : Nat} (hot : 100 * 16 ≤ tj) (hnew : s.power.clamp = false) :
    ∃ t, exec (.thermalClamp d tj) s = .next t ∧ t.power.rootDiv = 4 ∧ t.power.clamp = true ∧ t.emergency = true := by
  have hgo : ¬ (decide (tj < 100 * 16) || s.power.clamp) = true := by
    rw [hnew, Bool.or_false, decide_eq_true_eq]
    omega
  change ∃ t, execThermalClamp d tj s = _ ∧ _
  simp only [execThermalClamp, if_neg hgo]
  generalize List.foldl _ s.noteLoad _ = t
  have hkeep (v : State) (r : ErrRec) : v.OnlyRecords
      (((List.finRange 128).foldl (fun (v : State) g => v.requestSave g .emergency) (v.enterLog r)).emergencyEnd) :=
    (((State.OnlyRecords.refl v).enterLog r).foldl _ fun _ g hu => hu.requestSave g _).emergencyEnd
  refine ⟨_, rfl, ?_, ?_, ?_⟩
  · rw [(hkeep _ _).power]
  · rw [(hkeep _ _).power]
  · rw [(hkeep _ _).emergency]

/-! ## Links (R183, R400) -/

theorem State.mem_upSubs {s : State} {k : Fin 8} : k ∈ s.upSubs ↔ s.subExists k = true ∧ s.links.getLsbD k.val = true := by
  simp [State.upSubs]

theorem State.links_setLink (s : State) (k : Fin 8) (up : Bool) (j : Fin 8) :
    (s.setLink k up).links.getLsbD j.val = if j = k then up else s.links.getLsbD j.val := by
  change (BitVec.ofNat 8 (putField s.links.toNat k.val 1 up.toNat)).getLsbD j.val = _
  rw [BitVec.getLsbD_ofNat, decide_eq_true j.isLt, Bool.true_and, testBit_putField, BitVec.testBit_toNat]
  by_cases h : j = k
  · subst h
    rw [if_pos ⟨Nat.le_refl _, Nat.lt_succ_self _⟩, if_pos rfl, Nat.sub_self]
    cases up <;> rfl
  · rw [if_neg h, if_neg]
    have := Fin.val_ne_of_ne h
    omega

theorem State.endSession_spec (s : State) (id : Nat) :
    (s.endSession id).links = s.links ∧ (s.endSession id).sessions = s.sessions.filter fun x => decide (x.id ≠ id) := by
  unfold State.endSession
  extract_lets t
  have ht : s.OnlyRecords t := (State.OnlyRecords.refl s).foldl _ fun _ g hu => hu.disown g
  exact ⟨ht.links, by rw [ht.sessions]⟩

theorem State.links_foldl_endSession (l : List Nat) (s : State) : (l.foldl (fun u id => u.endSession id) s).links = s.links :=
  List.foldlRecOn (motive := fun u : State => u.links = s.links) l _ rfl fun u hu id _ => (u.endSession_spec id).1.trans hu

theorem State.sessions_foldl_endSession (l : List Nat) (s : State) :
    (l.foldl (fun u id => u.endSession id) s).sessions = s.sessions.filter fun x => decide (x.id ∉ l) := by
  induction l generalizing s with
  | nil => simp
  | cons id l ih =>
    rw [List.foldl_cons, ih, (s.endSession_spec id).2, List.filter_filter]
    exact List.filter_congr fun x _ => by simp [Bool.and_comm]

/-- The device at the change of a link, once it is recorded. -/
def State.linkChanged (s : State) (k : Fin 8) (up : Bool) : State :=
  (s.setLink k up).rebind.1.writeRecord (linkRec k up (s.setLink k up).rebind.2)

theorem State.logs_linkChanged {s : State} (hroom : s.log.length < 65280) (k : Fin 8) (up : Bool) : s.Logs (s.linkChanged k up) 0x34 0 :=
  State.logs_writeRecord (s := (s.setLink k up).rebind.1) (r := linkRec k up _) hroom (show 0 ≠ 3 by decide)

theorem State.onlyRecords_linkChanged (s : State) (k : Fin 8) (up : Bool) : (s.setLink k up).rebind.1.OnlyRecords (s.linkChanged k up) :=
  (State.OnlyRecords.refl _).writeRecord _

theorem State.links_linkChanged (s : State) (k : Fin 8) (up : Bool) (j : Fin 8) :
    (s.linkChanged k up).links.getLsbD j.val = if j = k then up else s.links.getLsbD j.val := by
  rw [(s.onlyRecords_linkChanged k up).links]
  exact s.links_setLink k up j

theorem State.sessions_linkChanged (s : State) (k : Fin 8) (up : Bool) : (s.linkChanged k up).sessions = s.sessions :=
  (s.onlyRecords_linkChanged k up).sessions

theorem exec_linkDown_up {s : State} {k : Fin 8} (h : k ∈ s.upSubs) : exec (.linkDown k) s =
    .next (((s.sessions.filter fun x => decide (x.sub = k)).map (·.id)).foldl (fun u id => u.endSession id) (s.linkChanged k false)) := by
  have hgo : ¬ (!s.upSubs.contains k) = true := by simp [h]
  exact congrArg Host.Outcome.next (if_neg hgo)

theorem exec_linkUp_down {s : State} {k : Fin 8} (hx : s.subExists k = true) (h : k ∉ s.upSubs) :
    exec (.linkUp k) s = .next (s.linkChanged k true) := by
  have hgo : ¬ (!s.subExists k || s.upSubs.contains k) = true := by simp [h, hx]
  exact congrArg Host.Outcome.next (if_neg hgo)

/-! ## TIME's input (R184, R185, R401) -/

theorem exec_announceTimeout_other {s : State}
    (h : ∃ k ∈ s.upSubs, k ≠ s.clock.input ∧ (s.ports[Fin.ofNat 2 (k.val / 4)]).ptpen = true) :
    ∃ t k, exec .announceTimeout s = .next t ∧ t.clock = { s.clock with input := k } ∧ k ∈ s.upSubs ∧ k ≠ s.clock.input ∧
      (s.ports[Fin.ofNat 2 (k.val / 4)]).ptpen = true := by
  obtain ⟨k, hk, hne, hptp⟩ := h
  change ∃ t k, execAnnounceTimeout s = _ ∧ _
  unfold execAnnounceTimeout
  extract_lets l
  have hmem (j : Fin 8) : j ∈ l ↔ j ∈ s.upSubs ∧ j ≠ s.clock.input ∧ (s.ports[Fin.ofNat 2 (j.val / 4)]).ptpen = true := by
    simp [l]
  have hpos : 0 < l.length := List.length_pos_of_mem ((hmem k).mpr ⟨hk, hne, hptp⟩)
  have hlt : (Config.freeWord 13 s.freeCtr).toNat % l.length < l.length := Nat.mod_lt _ hpos
  refine ⟨{ s with freeCtr := s.freeCtr + 1, clock := { s.clock with input := l[(Config.freeWord 13 s.freeCtr).toNat % l.length] } }, _, ?_,
    rfl, (hmem _).mp (List.getElem_mem hlt)⟩
  simp only [State.free, List.getElem?_eq_getElem hlt]

/-- TIME is all that a step forward changes of the clock, but for the note that it stepped. -/
theorem Clock.stepTo_eq (c : Clock) (offset : Int) : ∃ stepped, c.stepTo offset = { c with
    time := c.time + BitVec.ofNat 80 (if offset < -1000000 then offset.natAbs * 65536 else 0), stepped := stepped } := by
  unfold Clock.stepTo
  split
  · exact ⟨true, rfl⟩
  · exact ⟨c.stepped, by rw [BitVec.add_zero]⟩

/-- The rate at which firmware slews towards the grandmaster, from a value the manual does not give (log entry 2). -/
def slewOf (offset : Int) (w : Word) : Int :=
  let rate : Int := (w.toNat % 500001 : Nat)
  if offset < 0 then rate else if 0 < offset then -rate else 0

theorem slewOf_bounds (offset : Int) (w : Word) : -500000 ≤ slewOf offset w ∧ slewOf offset w ≤ 500000 := by
  unfold slewOf
  extract_lets rate
  have hrate : rate < 500001 := Int.ofNat_lt.mpr (Nat.mod_lt _ (by decide))
  have hpos : 0 ≤ rate := Int.natCast_nonneg _
  clear_value rate
  split
  · omega
  · split <;> omega

/-- A measurement judges the clock, whether or not a change of its lock is recorded. -/
theorem exec_ptpMeasurement (s : State) (offset : Int) : ∃ t was stepped, exec (.ptpMeasurement offset) s = .next t ∧
    t.clock = { s.clock.judge offset with
      time := s.clock.time + BitVec.ofNat 80 (if offset < -1000000 then offset.natAbs * 65536 else 0)
      slew := slewOf offset (Config.freeWord 14 s.freeCtr), wasLocked := was, stepped := stepped } := by
  have hrecord (c : Clock) (r : ErrRec) : (State.writeRecord { s with freeCtr := s.freeCtr + 1, clock := c } r).clock = c :=
    ((State.OnlyRecords.refl _).writeRecord r).clock
  obtain ⟨stepped, hstep⟩ := (s.clock.judge offset).stepTo_eq offset
  change ∃ t was stepped, execPtpMeasurement offset s = _ ∧ _
  simp only [execPtpMeasurement, State.free, hstep]
  split
  · exact ⟨_, _, _, rfl, hrecord _ _⟩
  · split
    · split
      · exact ⟨_, _, _, rfl, hrecord _ _⟩
      · exact ⟨_, _, _, rfl, rfl⟩
    · exact ⟨_, _, _, rfl, rfl⟩

/-- Settles O48: each clause is its event's lemma; what a record or the end of a session leaves alone is `State.OnlyRecords`. -/
theorem boardEventsComplete : Obligations.BoardEventsComplete := by
  refine ⟨?boot, ?droop, ?slow, ?calm, ?frequency, ?slip, ?thermal, fun _ => rfl, ?link, fun _ => exec_announceTimeout_other, ?ptp⟩
  case boot =>
    refine fun s b hhalt => ⟨exec_powerOn_first b hhalt, fun k hboot h1 h6 => ?_⟩
    intro fails
    rw [exec_powerOn_stage b hhalt hboot h1 h6]
    refine ⟨fun h => by rw [if_pos ((bootStageFails_iff k s.stage).mpr h)], fun h => ?_⟩
    rw [if_neg (mt (bootStageFails_iff k s.stage).mp h)]
    have hrest := State.rest_bootLeaves { s with stage := s.stage + 1 } k (n := s.stage)
    have hsign := State.signature_bootLeaves { s with stage := s.stage + 1 } k s.stage
    refine ⟨_, rfl, State.stage_bootLeaves k rfl, (State.bootHalt_bootLeaves _ k _).trans hhalt, fun hlt => ?_, fun h4 => ?_, fun h4 => ?_,
      fun h5 lost hlost => ?_, State.layout_bootLeaves _⟩
    · exact congrArg (fun u : State => ({ u with stage := s.stage } : State)) (hrest hlt)
    · exact hsign.trans (if_pos h4)
    · exact hsign.trans (if_neg h4)
    · rw [h5]
      exact State.layout_bootLeaves_five _ hlost
  case droop => exact fun s c h => ⟨_, exec_droopStretch_unballasted h, rfl⟩
  case slow =>
    intro s d hover hdiv hroom
    obtain ⟨t, hexec, hpower, hlogs⟩ := exec_forcedSlowDown_over hover hdiv hroom
    exact ⟨t, hexec, by rw [hpower], by rw [hpower]; exact Vector.getElem_set_self _, hlogs⟩
  case calm =>
    intro s hdiv hclamp hcalm hroom
    obtain ⟨t, hexec, hpower, hlogs⟩ := exec_slowDownReturn_calm hdiv hclamp hcalm hroom
    exact ⟨t, hexec, by rw [hpower], hlogs⟩
  case frequency => exact fun _ => exec_frequencyStep_due
  case slip =>
    exact fun s hroom => ⟨⟨_, exec_slipDetected_bridge hroom, s.logs_enterLog (internalRec 15), rfl⟩, fun _ => exec_slipDetected_free hroom⟩
  case thermal =>
    refine fun s d tj hroom => ⟨fun hot hnew => ?_, fun hot => ?_, exec_thermalClamp_hot⟩
    · obtain ⟨t, hexec, hpower, hlogs⟩ := exec_thermalResponse95_hot hot hnew hroom
      exact ⟨t, hexec, by rw [hpower], hlogs⟩
    · obtain ⟨t, hexec, hpower, hlogs⟩ := exec_thermalResponse95End_hot hot hroom
      exact ⟨t, hexec, by rw [hpower], hlogs⟩
  case link =>
    refine fun s k hx hroom => ⟨fun hup => ?_, fun hdown => ?_⟩
    · refine ⟨_, exec_linkDown_up (State.mem_upSubs.mpr ⟨hx, hup⟩), fun hnone => ?_, ?_, fun j hj => ?_, fun x hmem => ?_⟩
      · rw [List.filter_eq_nil_iff.mpr fun x hmem => by simp [hnone x hmem]]
        exact s.logs_linkChanged hroom k false
      · rw [State.links_foldl_endSession, s.links_linkChanged, if_pos rfl]
      · rw [State.links_foldl_endSession, s.links_linkChanged, if_neg hj]
      · rw [State.sessions_foldl_endSession, s.sessions_linkChanged, List.mem_filter, decide_eq_true_eq] at hmem
        exact fun hsub => hmem.2 (List.mem_map_of_mem (List.mem_filter.mpr ⟨hmem.1, decide_eq_true hsub⟩))
    · have hnot : k ∉ s.upSubs := fun h => Bool.false_ne_true (hdown.symm.trans (State.mem_upSubs.mp h).2)
      exact ⟨_, exec_linkUp_down hx hnot, State.logs_linkChanged hroom k true, by rw [s.links_linkChanged, if_pos rfl],
        fun j hj => by rw [s.links_linkChanged, if_neg hj]⟩
  case ptp =>
    intro s offset
    obtain ⟨t, was, stepped, hexec, hclock⟩ := exec_ptpMeasurement s offset
    refine ⟨t, hexec, ?_⟩
    rw [hclock]
    exact ⟨rfl, rfl, rfl, rfl, rfl, slewOf_bounds offset _⟩

end Sys2Proof.Machine
end

section
/-! SUPPORT. Sessions, SPDM and the board link (Mgmt.lean), one lemma for each answer and each end of a session; they settle O46. -/

namespace Sys2Proof.Machine

/-! ## Clients and their algorithms (R190) -/

theorem mem_setKey {α β : Type} [DecidableEq α] {l : List (α × β)} {k a : α} {v b : β} :
    (a, b) ∈ setKey l k v ↔ if a = k then b = v else (a, b) ∈ l := by
  by_cases h : a = k <;> simp [setKey, h]

/-- Both algorithms or none: the client's entry says which, and no other client's changes. -/
theorem exec_negotiateAlgorithms (a b : Bool) (s : State) : exec (.negotiateAlgorithms a b) s =
    .next (State.emit (if a && b then .algorithms else .refusedRequest) { s with spdm := setKey s.spdm s.asker (if a && b then 1 else 2) }) := by
  change execNegotiateAlgorithms a b s = _
  rw [execNegotiateAlgorithms]
  split <;> rfl

theorem State.spdmAnswer_served {s : State} (h : (s.asker, 2) ∉ s.spdm) (f : State → State) : s.spdmAnswer f = f s :=
  if_neg (by simpa using h)

theorem State.spdmAnswer_refused {s : State} (h : (s.asker, 2) ∈ s.spdm) (f : State → State) : s.spdmAnswer f = s.emit .refusedRequest :=
  if_pos (by simpa using h)

theorem exec_getCertificate_slot {s : State} (h : (s.asker, 2) ∉ s.spdm) {k : Nat} (hk : k < 2) :
    exec (.getCertificate k) s = .next (s.emit (.crypto 1 k (Config.crypto 1 k))) := by
  change execGetCertificate k s = _
  rw [execGetCertificate, State.spdmAnswer_served h, if_pos (show k < certSlots from hk)]
  rfl

theorem exec_getMeasurements_index {s : State} (h : (s.asker, 2) ∉ s.spdm) {i : Nat} (h1 : 1 ≤ i) (h6 : i ≤ 6) :
    exec (.getMeasurements i) s = .next (s.cryptoAnswer (2 + i) (s.measured i)) := by
  change execGetMeasurements i s = _
  rw [execGetMeasurements, State.spdmAnswer_served h, if_pos (by simp [h1, h6])]

theorem exec_keyExchange_negotiated {s : State} {client : Nat} (h : (client, 1) ∈ s.spdm) :
    ∃ t sub, exec (.keyExchange client true) s = .next t ∧
      t.sessions = s.sessions ++ [⟨s.uid, client, false, sub, []⟩] ∧ t.outbox = s.outbox ++ [.sessionOpen s.uid] := by
  have hgo : (s.spdm.contains (client, 1) && true) = true := by simpa using h
  exact ⟨_, _, congrArg Host.Outcome.next (if_pos hgo), rfl, rfl⟩

theorem exec_finish_open {s : State} {x : Session} (hx : x ∈ s.sessions) (hopen : x.secured = false) :
    exec (.finish x.id true) s = .next (({ s with
      sessions := s.sessions.map fun y => if y.id = x.id then { y with secured := true } else y } : State).emit .done) := by
  have hany : (s.sessions.any fun y => decide (y.id = x.id) && !y.secured) = true :=
    List.any_eq_true.mpr ⟨x, hx, by simp [hopen]⟩
  exact congrArg Host.Outcome.next (if_pos hany)

/-! ## The end of a session (R193) -/

/-- Without gangs of its own a session just leaves. -/
theorem State.endSession_unowned {s : State} {id : Nat} (h : ∀ g, (s.gang g).owner ≠ some id) :
    s.endSession id = { s with sessions := s.sessions.filter fun y => decide (y.id ≠ id) } := by
  have hnone : ((List.finRange 128).filter fun g => decide ((s.gang g).owner = some id)) = [] :=
    List.filter_eq_nil_iff.mpr fun g _ => by simpa using h g
  rw [State.endSession, hnone]
  rfl

theorem State.endSession_owner {s : State} {id : Nat} {g : GangId} (h : ∀ k, (s.gang k).owner = some id ↔ k = g) :
    s.endSession id = { s.disown g with sessions := (s.disown g).sessions.filter fun y => decide (y.id ≠ id) } := by
  have hone : ((List.finRange 128).filter fun k => decide ((s.gang k).owner = some id)) = [g] := by
    simp only [h, List.filter_eq, List.count_eq_one_of_mem (List.nodup_finRange 128) (List.mem_finRange g), List.replicate_one]
  rw [State.endSession, hone]
  rfl

/-- What a session's end leaves of a gang it owned. -/
def Gang.released (x : Gang) : Gang := { x with owner := none, reqs := x.reqs.filter fun r => decide (r.cond ≠ .debug) }

/-- A gang that runs is released and no more. -/
theorem State.disown_running {s : State} {g : GangId} (h : (s.gang g).frozen = false) :
    s.disown g = s.setGang g (s.gang g).released := by
  have hz : ((s.setGang g (s.gang g).released).gang g).frozen = false := by rw [State.gang_setGang_self]; exact h
  exact if_neg (Bool.eq_false_iff.mp hz)

theorem exec_endSession_open {s : State} {x : Session} (hx : x ∈ s.sessions) :
    exec (.endSession x.id) s = .next ((s.endSession x.id).emit .done) := by
  have hany : (s.sessions.any fun y => decide (y.id = x.id)) = true := List.any_eq_true.mpr ⟨x, hx, decide_eq_true rfl⟩
  exact congrArg Host.Outcome.next (if_pos hany)

/-! ## The board link (R187) -/

theorem exec_reset_powered {s : State} (h : s.powered = true) :
    exec .reset s = .next { s.coldReset with boot := s.boot, stage := if s.boot.isSome then 1 else 0 } := by
  have hgo : ¬ (!s.powered) = true := by simp [h]
  exact congrArg Host.Outcome.next (if_neg hgo)

theorem exec_mctpUnknownCommand_unassigned (s : State) {code : BitVec 8} (h : code.toNat = 0 ∨ 5 ≤ code.toNat) :
    exec (.mctpUnknownCommand code) s = .next (s.emit (.errorCompletion code)) := by
  have hgo : ¬ (decide (1 ≤ code.toNat) && decide (code.toNat ≤ 4)) = true := by
    rw [Bool.and_eq_true, decide_eq_true_eq, decide_eq_true_eq]
    omega
  exact congrArg Host.Outcome.next (if_neg hgo)

/-- Settles O46: each clause is its request's lemma, or the answer that its request has in every state. -/
theorem sessionEventsComplete : Obligations.SessionEventsComplete := by
  refine fun s => ⟨rfl, rfl, ?negotiate, ?served, ?refused, fun _ => exec_keyExchange_negotiated, fun _ => exec_finish_open, ?ended,
    ?released, ⟨_, _, _, _, rfl, rfl, fun _ => rfl⟩, rfl, exec_reset_powered, fun _ => exec_mctpUnknownCommand_unassigned s, rfl⟩
  case negotiate =>
    refine fun a b => ⟨_, exec_negotiateAlgorithms a b s, rfl, fun _ => rfl, fun k => ?_, fun d k hd => ?_⟩
    · exact mem_setKey.trans (by rw [if_pos rfl])
    · exact mem_setKey.trans (by rw [if_neg hd])
  case served =>
    refine fun h => ⟨?_, fun _ => exec_getCertificate_slot h, fun _ => ?_, fun i h1 h6 => ⟨_, exec_getMeasurements_index h h1 h6⟩⟩
    · exact congrArg Host.Outcome.next (State.spdmAnswer_served h _)
    · exact congrArg Host.Outcome.next (State.spdmAnswer_served h _)
  case refused =>
    intro h i hi
    simp only [List.mem_cons, List.not_mem_nil, or_false] at hi
    obtain rfl | rfl | rfl | rfl := hi <;> exact congrArg Host.Outcome.next (State.spdmAnswer_refused h _)
  case ended =>
    intro x hx hfree
    rw [exec_endSession_open hx, State.endSession_unowned hfree]
  case released =>
    intro id g howner hz
    refine ⟨_, rfl, (s.endSession_spec id).2, ?_⟩
    rw [State.endSession_owner howner, State.disown_running hz]
    exact State.gang_setGang_self s g _

end Sys2Proof.Machine
end

section
/-! SUPPORT. The debug server (Debug.lean): stops, fields, breakpoints and releases, one lemma for each event; they settle O47. -/

namespace Sys2Proof.Machine

/-! ## Stops (R192) -/

theorem exec_debugStop_running {s : State} {sess : Nat} {g : GangId} (hmay : s.mayChange sess g = true)
    (hruns : (s.gang g).status = .running ∨ (s.gang g).status = .ending) (hz : (s.gang g).frozen = false) :
    exec (.debugStop sess g) s = .next ((s.setGang g { s.gang g with
      owner := some sess, reqs := (s.gang g).reqs ++ [⟨(s.gang g).tick + 1 + (s.gang g).dstall, .debug⟩] }).emit .done) := by
  have hgo : (s.mayChange sess g && (decide ((s.gang g).status = .running) || decide ((s.gang g).status = .ending))) = true := by
    simp [hmay, hruns]
  change execDebugStop sess g s = _
  simp only [execDebugStop, hgo, if_true, State.modGang_eq, hz, Bool.false_eq_true, if_false]

/-! ## The fields of a stopped gang (R192, R368) -/

section Fields

variable {s : State} {sess m : Nat} {g : GangId} {c : CellId}

theorem exec_stateRead_member (hserves : s.serves sess g = true) (hstop : (s.gang g).stopped = true) (hc : (s.gang g).cellAt m = some c)
    {f : ImageField} {v : Nat} (hf : fieldRead s (s.gang g) c f = some v) :
    exec (.stateRead sess g m f) s = .next (s.emit (.stateValue v)) := by
  change execStateRead sess g m f s = _
  simp only [execStateRead, hserves, hstop, Bool.and_self, if_true, hc, hf]

theorem fieldRead_spByte (x : Gang) {a : Nat} (ha : a < 6291456) :
    fieldRead s x c (.spByte a) = some (((s.cell c).row (a / 256)).extractLsb' (8 * (a % 256)) 8).toNat :=
  if_pos (show a < spBytes from ha)

/-- A write waits for the release. -/
theorem exec_stateWrite_member (hmay : s.mayChange sess g = true) (hown : (s.gang g).owner = some sess) (hstop : (s.gang g).stopped = true)
    (hc : (s.gang g).cellAt m = some c) {f : ImageField} (v : Nat) (hf : s.fieldFixed (s.gang g) c f = false) :
    exec (.stateWrite sess g m f v) s =
      .next ((s.setGang g { s.gang g with writes := (s.gang g).writes ++ [(m, f, v)] }).emit .done) := by
  have hgo : (s.mayChange sess g && decide ((s.gang g).owner = some sess) && (s.gang g).stopped &&
      ((s.gang g).cellAt m).any fun d => !s.fieldFixed (s.gang g) d f) = true := by
    simp [hmay, hown, hstop, hc, hf]
  exact congrArg Host.Outcome.next (if_pos hgo)

theorem exec_stateWrite_fixed (hc : (s.gang g).cellAt m = some c) {f : ImageField} (v : Nat) (hf : s.fieldFixed (s.gang g) c f = true) :
    exec (.stateWrite sess g m f v) s = .next (s.emit .refusedRequest) := by
  have hno : ¬ (s.mayChange sess g && decide ((s.gang g).owner = some sess) && (s.gang g).stopped &&
      ((s.gang g).cellAt m).any fun d => !s.fieldFixed (s.gang g) d f) = true := by
    simp [hc, hf]
  exact congrArg Host.Outcome.next (if_neg hno)

end Fields

/-! ## Breakpoints (R218, R367) -/

/-- A write inside a block changes memory, its marks and the lines above it. -/
theorem State.rest_devWriteIn (s : State) (a n v : Nat) :
    { s.devWriteIn a n v with mem := s.mem, memTag := s.memTag, lines := s.lines } = s := by
  unfold State.devWriteIn State.blockWrite
  rfl

theorem State.gang_devWriteIn (s : State) (a n v : Nat) (g : GangId) : (s.devWriteIn a n v).gang g = s.gang g :=
  (congrArg (fun u : State => u.gang g) (s.rest_devWriteIn a n v) :)

theorem State.outbox_devWriteIn (s : State) (a n v : Nat) : (s.devWriteIn a n v).outbox = s.outbox :=
  (congrArg State.outbox (s.rest_devWriteIn a n v) :)

theorem State.OnlyCells.icinv {s t : State} (h : s.OnlyCells t) (g : GangId) : s.OnlyCells (t.icinv g) := h

/-- An invalidation leaves the breakpoint tables alone. -/
theorem State.sq_icinv (s : State) (g : GangId) (c : CellId) : ((s.icinv g).cell c).sq = (s.cell c).sq := by
  simp only [State.icinv, State.cell, Fin.getElem_fin, Vector.getElem_map]
  split
  · split <;> rfl
  · rfl

theorem State.onlyCells_setBrk (s : State) (g : GangId) (idx : Fin 8) (e : Option (Nat × RecordBits)) : s.OnlyCells (s.setBrk g idx e) :=
  (State.OnlyCells.refl s).foldl _ fun _ c hu => hu.modCell c _

theorem State.brk_setBrk (s : State) {g : GangId} (idx : Fin 8) (e : Option (Nat × RecordBits)) {c : CellId} (hc : c ∈ (s.gang g).cells) :
    ((s.setBrk g idx e).cell c).sq.brk[idx] = e := by
  rw [State.setBrk, State.cell_foldl_modCell_idem (f := fun _ x => { x with sq := { x.sq with brk := x.sq.brk.set idx e } })
    (fun _ _ => by simp), if_pos hc]
  exact Vector.getElem_set_self _

/-- A gang's tables take an entry, the gang an owner, and its cells forget the text they hold. -/
def State.giveBrk (s : State) (sess : Nat) (g : GangId) (idx : Fin 8) (e : Option (Nat × RecordBits)) : State :=
  ((s.setBrk g idx e).modGang g fun y => { y with owner := some sess }).icinv g

theorem State.rest_giveBrk (s : State) (sess : Nat) (g : GangId) (idx : Fin 8) (e : Option (Nat × RecordBits)) :
    { s.giveBrk sess g idx e with cells := s.cells, gangs := s.gangs } = s :=
  congrArg (fun u : State => { u with gangs := s.gangs }) (s.onlyCells_setBrk g idx e)

theorem State.owner_giveBrk (s : State) (sess : Nat) (g : GangId) (idx : Fin 8) (e : Option (Nat × RecordBits)) :
    ((s.giveBrk sess g idx e).gang g).owner = some sess := by
  change (State.gang ((s.setBrk g idx e).setGang g _) g).owner = some sess
  rw [State.gang_setGang_self]

theorem State.brk_giveBrk (s : State) (sess : Nat) {g : GangId} (idx : Fin 8) (e : Option (Nat × RecordBits)) {c : CellId}
    (hc : c ∈ (s.gang g).cells) : ((s.giveBrk sess g idx e).cell c).sq.brk[idx] = e := by
  rw [State.giveBrk, State.sq_icinv, State.modGang_eq, State.cell_setGang, s.brk_setBrk idx e hc]

/-- Mark an entry of a cell's breakpoint table to go at the next stop. -/
def Cell.retireBrk (idx : Fin 8) (y : Cell) : Cell :=
  { y with sq := { y.sq with brkGone := y.sq.brkGone ||| BitVec.ofNat 8 (2 ^ idx.val) } }

/-- The entry of a gang's tables goes: at once where it stands, else at its next stop. -/
def State.clearBrk (s : State) (g : GangId) (idx : Fin 8) : State :=
  if (s.gang g).frozen then s.setBrk g idx none else (s.gang g).cells.foldl (fun u c => u.modCell c (Cell.retireBrk idx)) s

theorem State.onlyCells_clearBrk (s : State) (g : GangId) (idx : Fin 8) : s.OnlyCells (s.clearBrk g idx) := by
  unfold State.clearBrk
  split
  · exact s.onlyCells_setBrk g idx none
  · exact (State.OnlyCells.refl s).foldl _ fun _ c hu => hu.modCell c _

theorem Cell.brkGone_retireBrk (y : Cell) (idx : Fin 8) : (y.retireBrk idx).sq.brkGone.getLsbD idx.val = true := by
  change (y.sq.brkGone ||| BitVec.ofNat 8 (2 ^ idx.val)).getLsbD idx.val = true
  rw [BitVec.getLsbD_or, BitVec.getLsbD_ofNat, Nat.testBit_two_pow_self, decide_eq_true idx.isLt, Bool.true_and, Bool.or_true]

theorem State.brk_clearBrk (s : State) {g : GangId} (idx : Fin 8) {c : CellId} (hc : c ∈ (s.gang g).cells) :
    if (s.gang g).frozen then ((s.clearBrk g idx).cell c).sq.brk[idx] = none
      else ((s.clearBrk g idx).cell c).sq.brkGone.getLsbD idx.val = true := by
  unfold State.clearBrk
  split
  · exact s.brk_setBrk idx none hc
  · rw [State.cell_foldl_modCell_idem (f := fun _ => Cell.retireBrk idx)
      (fun _ _ => by simp [Cell.retireBrk, BitVec.or_assoc]), if_pos hc]
    exact Cell.brkGone_retireBrk _ idx

section Breakpoints

variable {s : State} {sess off : Nat} {g : GangId} {idx : Fin 8} {w : RecordBits} {a : Nat}

theorem exec_setBreakpoint_free (hw : s.textWord g off = some w) (ha : s.textAddr (s.gang g) off = some a) (hmay : s.mayChange sess g = true)
    (hfree : s.brkOf g idx = none) (hbrk : w.toNat % 2048 ≠ 24) :
    exec (.setBreakpoint sess g off idx) s =
      .next (((s.devWriteIn a (recSize (s.gang g).encgen) (brkBits (s.gang g).encgen w idx)).giveBrk sess g idx
        (some (off, w))).emit .done) := by
  have hgo : (s.mayChange sess g && (s.brkOf g idx).isNone && decide (w.toNat % 2048 ≠ 24)) = true := by
    rw [hmay, hfree, decide_eq_true hbrk]
    rfl
  change execSetBreakpoint sess g off idx s = _
  simp only [execSetBreakpoint, hw, ha, hgo, if_true]
  rfl

theorem exec_clearBreakpoint_set (hset : s.brkOf g idx = some (off, w)) (ha : s.textAddr (s.gang g) off = some a)
    (hmay : s.mayChange sess g = true) :
    exec (.clearBreakpoint sess g idx) s =
      .next ((((s.devWriteIn a (recSize (s.gang g).encgen) w.toNat).clearBrk g idx).icinv g).emit .done) := by
  change execClearBreakpoint sess g idx s = _
  simp only [execClearBreakpoint, hset, ha, hmay, if_true]
  rfl

end Breakpoints

/-! ## Releases (R192, R368) -/

@[simp] theorem State.setGang_setGang (s : State) (g : GangId) (x y : Gang) : (s.setGang g x).setGang g y = s.setGang g y := by
  simp [State.setGang]

/-- A gang without faults keeps all but its due debug stops. -/
theorem State.debugRelease_faultless {s : State} {g : GangId} (h : (s.gang g).faults = []) :
    s.debugRelease g = s.setGang g { s.gang g with
      reqs := (s.gang g).reqs.filter fun r => decide (r.cond ≠ .debug ∨ (s.gang g).tick < r.due) } := by
  have hnone (l : List Req) : (State.gang (s.setGang g { s.gang g with reqs := l }) g).dueFaults = [] := by
    rw [State.gang_setGang_self, Gang.dueFaults, h]
    rfl
  exact if_pos (hnone _)

theorem exec_debugResume_released {s : State} {sess : Nat} {g : GangId} (h : s.mayRelease sess g = true) :
    exec (.debugResume sess g) s = .next ((s.debugRelease g).emit .done) :=
  congrArg Host.Outcome.next (if_pos h)

theorem exec_debugStep_released {s : State} {sess : Nat} {g : GangId} (h : s.mayRelease sess g = true) (n : Nat) :
    let stop := (s.gang g).tick + max n (s.gang g).dstall
    exec (.debugStep sess g n) s = .next (((s.debugRelease g).modGang g fun y =>
      { y with reqs := y.reqs ++ [⟨stop, .debug⟩] }).emit (.stepped stop)) :=
  congrArg Host.Outcome.next (if_pos h)

/-- Settles O47: each clause is its event's lemma; a patch of the text leaves the gang, and the invalidation after it the tables. -/
theorem debugEventsComplete : Obligations.DebugEventsComplete := by
  refine ⟨fun _ _ _ => exec_debugStop_running, ?fields, ?set, ?clear, ?release⟩
  case fields =>
    refine fun s sess m g c hserves hstop hc => ⟨fun n => exec_stateRead_member hserves hstop hc rfl, fun a ha => ?_, fun n v hmay hown => ?_,
      fun e v => exec_stateWrite_fixed hc v rfl⟩
    · exact exec_stateRead_member hserves hstop hc (fieldRead_spByte _ ha)
    · exact exec_stateWrite_member hmay hown hstop hc v rfl
  case set =>
    intro s sess off g idx w a hw ha hmay hfree hbrk
    refine ⟨_, exec_setBreakpoint_free hw ha hmay hfree hbrk, ?_⟩
    have hgang := s.gang_devWriteIn a (recSize (s.gang g).encgen) (brkBits (s.gang g).encgen w idx) g
    have hout := s.outbox_devWriteIn a (recSize (s.gang g).encgen) (brkBits (s.gang g).encgen w idx)
    generalize s.devWriteIn _ _ _ = t at *
    have hrest := t.rest_giveBrk sess g idx (some (off, w))
    have hmem := congrArg State.mem hrest
    have hsent := congrArg (fun u : State => u.outbox ++ [.done]) hrest
    rw [← hgang, ← hout]
    exact ⟨t.owner_giveBrk sess g idx _, hsent, fun c hc => t.brk_giveBrk sess idx _ hc, hmem⟩
  case clear =>
    intro s sess off g idx w a hset ha hmay
    refine ⟨_, exec_clearBreakpoint_set hset ha hmay, ?_⟩
    have hgang := s.gang_devWriteIn a (recSize (s.gang g).encgen) w.toNat g
    have hout := s.outbox_devWriteIn a (recSize (s.gang g).encgen) w.toNat
    generalize s.devWriteIn _ _ _ = t at *
    have honly := (t.onlyCells_clearBrk g idx).icinv g
    have hmem := congrArg State.mem honly
    have hsent := congrArg (fun u : State => u.outbox ++ [.done]) honly
    rw [← hgang, ← hout]
    refine ⟨hsent, hmem, fun c hc => ?_⟩
    rw [State.cell_emit, State.sq_icinv]
    exact t.brk_clearBrk idx hc
  case release =>
    refine fun s sess g hmay hnone => ⟨?_, fun n => ?_⟩
    · rw [exec_debugResume_released hmay, State.debugRelease_faultless hnone]
    · rw [exec_debugStep_released hmay, State.debugRelease_faultless hnone, State.modGang_eq, State.gang_setGang_self,
        State.setGang_setGang]

end Sys2Proof.Machine
end

section
/-! SUPPORT. The decoder on what the encoder writes (Decode.lean): fields, operand descriptors, slots, and the records one form after
another; they settle O58. -/

namespace Sys2Proof.Machine

/-! ## Fields -/

theorem pack_zip_lt {ws vs : List Nat} (hlen : ws.length = vs.length) : pack (ws.zip vs) < 2 ^ ws.sum := by
  have h := pack_lt (ws.zip vs)
  rwa [List.map_fst_zip hlen.le] at h

/-- Fields that fit their widths are read back from the number they are packed into, and it fits the sum of their widths. -/
theorem pack_fits {ws vs : List Nat} (h : List.Forall₂ (fun w v => v < 2 ^ w) ws vs) :
    unpack ws (pack (ws.zip vs)) = vs ∧ pack (ws.zip vs) < 2 ^ ws.sum := by
  obtain ⟨hlen, hfit⟩ := List.forall₂_iff_zip.mp h
  have hread := unpack_pack (ws.zip vs) fun f hf => hfit hf
  rw [List.map_fst_zip hlen.le, List.map_snd_zip hlen.ge] at hread
  exact ⟨hread, pack_zip_lt hlen⟩

theorem unpack_ofNat_pack {n : Nat} {ws vs : List Nat} (h : List.Forall₂ (fun w v => v < 2 ^ w) ws vs) (hn : ws.sum ≤ n) :
    unpack ws (BitVec.ofNat n (pack (ws.zip vs))).toNat = vs := by
  obtain ⟨hread, hlt⟩ := pack_fits h
  rw [BitVec.toNat_ofNat, Nat.mod_eq_of_lt (Nat.lt_of_lt_of_le hlt (Nat.pow_le_pow_right (by decide) hn)), hread]

theorem decodePred_encodePred (p : Pred) : decodePred (encodePred p).1 (encodePred p).2.1 (encodePred p).2.2 = some p := by
  cases p with
  | always => rfl
  | p inv n => cases inv <;> simp [encodePred, decodePred]

theorem encodePred_lt (p : Pred) : (encodePred p).1 < 2 ^ 4 ∧ (encodePred p).2.1 < 2 ^ 1 ∧ (encodePred p).2.2 < 2 ^ 1 := by
  cases p with
  | always => decide
  | p inv n => exact ⟨n.isLt, Bool.toNat_lt inv, Nat.one_lt_two⟩

/-! ## Operand descriptors (R199–R201) -/

theorem stridesOf_toNat (st : Strides) : stridesOf st.s0.toNat st.s1.toNat st.s2.toNat st.s3.toNat = st := by
  simp [stridesOf]

theorem unpack_packDesc {kind num ks base : Nat} (st : Strides) (hkind : kind < 2 ^ 4) (hnum : num < 2 ^ 5) (hks : ks < 2 ^ 23)
    (hbase : base < 2 ^ 32) : unpack descWidths (packDesc kind num ks base st) =
      [kind, num, ks, base, st.s0.toNat, st.s1.toNat, st.s2.toNat, st.s3.toNat] :=
  (pack_fits (.cons hkind (.cons hnum (.cons hks (.cons hbase
    (.cons st.s0.isLt (.cons st.s1.isLt (.cons st.s2.isLt (.cons st.s3.isLt .nil))))))))).1

theorem gregBits_lt (g : Option (Fin 32)) : (gregBits g).1 < 2 ∧ (gregBits g).2 < 2 ^ 5 := by
  cases g with
  | none => decide
  | some n => exact ⟨Nat.one_lt_two, n.isLt⟩

/-- The register of KIND 9, 10 and 13 is read back from its two fields. -/
theorem gregOf_gregBits (g : Option (Fin 32)) : gregOf ((gregBits g).1 % 2) (gregBits g).2 = g := by
  cases g <;> simp [gregBits, gregOf]

/-- Where KS names no register, NUM is zero. -/
theorem gregBits_num (g : Option (Fin 32)) : (decide ((gregBits g).1 % 2 = 0) && (gregBits g).2 != 0) = false := by
  cases g <;> simp [gregBits]

theorem find?_fst_eq_none {α : Type} {l : List (Bool × α)} (h : ∀ c ∈ l, c.1 = false) : l.find? (·.1) = none :=
  List.find?_eq_none.mpr fun c hc => ne_true_of_eq_false (h c hc)

theorem checked_eq_ok {l : List (Bool × Nat)} {o p : Opnd} (h : ∀ c ∈ l, c.1 = false) (hop : o = p) : checked l o = .ok p := by
  rw [checked, firstBad, find?_fst_eq_none h, hop]
  rfl

/-- Every operand is read back from its descriptor, with every number, stride and immediate (R199–R201). -/
theorem decodeOpnd_encodeOpnd (o : Opnd) : decodeOpnd (encodeOpnd o) = .ok o := by
  cases o with
  | absent => decide +kernel
  | v n km xen xnum st =>
    obtain ⟨hks, hlt⟩ := pack_fits (ws := ksV) (vs := [km.val, xen.toNat, xnum.val, 0])
      (.cons km.isLt (.cons (Bool.toNat_lt xen) (.cons xnum.isLt (.cons (by decide) .nil))))
    rw [encodeOpnd, decodeOpnd, unpack_packDesc st (by decide) n.isLt hlt (by decide)]
    simp only [hks]
    exact checked_eq_ok (by simp) (by simp [stridesOf_toNat])
  | lq n pop =>
    rw [encodeOpnd, decodeOpnd, unpack_packDesc .zero (by decide) (by omega) (by cases pop <;> decide) (by decide)]
    exact checked_eq_ok (by cases pop <;> simp [Strides.zero]) (by cases pop <;> simp)
  | sq n =>
    rw [encodeOpnd, decodeOpnd, unpack_packDesc .zero (by decide) (by omega) (by decide) (by decide)]
    exact checked_eq_ok (by simp [Strides.zero]; omega) (by simp)
  | imm w =>
    rw [encodeOpnd, decodeOpnd, unpack_packDesc .zero (by decide) (by decide) (by decide) w.isLt]
    exact checked_eq_ok (by simp [Strides.zero]) (by simp)
  | zrow n i st | zcol n i st =>
    rw [encodeOpnd, decodeOpnd, unpack_packDesc st (by decide) (by omega) (by decide) (by omega)]
    exact checked_eq_ok (by simp; omega) (by simp [stridesOf_toNat])
  | k n st =>
    rw [encodeOpnd, decodeOpnd, unpack_packDesc st (by decide) (by omega) (by decide) (by decide)]
    exact checked_eq_ok (by simp) (by simp [stridesOf_toNat])
  | park p st =>
    rw [encodeOpnd, decodeOpnd, unpack_packDesc st (by decide) (by decide) (by decide) (by omega)]
    exact checked_eq_ok (by simp; omega) (by simp [stridesOf_toNat])
  | sp g row st | hr g row st =>
    obtain ⟨hks, hnum⟩ := gregBits_lt g
    rw [encodeOpnd, decodeOpnd, unpack_packDesc st (by decide) hnum (by omega) (by omega)]
    exact checked_eq_ok (by simp [gregBits_num]; omega) (by simp [gregOf_gregBits, stridesOf_toNat])
  | ring b =>
    rw [encodeOpnd, decodeOpnd, unpack_packDesc .zero (by decide) (by decide) (by decide) b.isLt]
    exact checked_eq_ok (by simp [Strides.zero]) (by simp)
  | tensor tid sdim c0 c1 c2 c3 st =>
    obtain ⟨hks, hkslt⟩ := pack_fits (ws := ksTensor) (vs := [tid.toNat, sdim.toNat, 0]) (.cons tid.isLt (.cons sdim.isLt (.cons (by decide) .nil)))
    obtain ⟨hbase, hbaselt⟩ := pack_fits (ws := baseTensor) (vs := [c0.val, c1.val, c2.val, c3.val, 0])
      (.cons c0.isLt (.cons c1.isLt (.cons c2.isLt (.cons c3.isLt (.cons (by decide) .nil)))))
    rw [encodeOpnd, decodeOpnd, unpack_packDesc st (by decide) (by decide) hkslt hbaselt]
    simp only [hks, hbase]
    exact checked_eq_ok (by simp) (by simp [stridesOf_toNat])
  | ck g tile label st =>
    obtain ⟨hks, hnum⟩ := gregBits_lt g
    obtain ⟨hbase, hlt⟩ := pack_fits (ws := baseKey) (vs := [tile.toNat, label.toNat, 0])
      (.cons tile.isLt (.cons label.isLt (.cons (by decide) .nil)))
    rw [encodeOpnd, decodeOpnd, unpack_packDesc st (by decide) hnum (by omega) hlt]
    simp only [hbase]
    exact checked_eq_ok (by simp [gregBits_num]; omega) (by simp [gregOf_gregBits, stridesOf_toNat])
  | mq n pop =>
    rw [encodeOpnd, decodeOpnd, unpack_packDesc .zero (by decide) (by omega) (by cases pop <;> decide) (by decide)]
    exact checked_eq_ok (by cases pop <;> simp [Strides.zero] <;> omega) (by cases pop <;> simp)

theorem encodeOpnd_lt (o : Opnd) : encodeOpnd o < 2 ^ 128 := by
  cases o <;> exact pack_zip_lt (ws := descWidths) rfl

/-- The three operands of a record are read back from the words W2 to W7. -/
theorem decodeOpnds_encodeOpnd (o0 o1 o2 : Opnd) : decodeOpnds (encodeOpnd o0 % 2 ^ 64) (encodeOpnd o0 / 2 ^ 64) (encodeOpnd o1 % 2 ^ 64)
    (encodeOpnd o1 / 2 ^ 64) (encodeOpnd o2 % 2 ^ 64) (encodeOpnd o2 / 2 ^ 64) = .ok (o0, o1, o2) := by
  simp only [decodeOpnds, Nat.mod_add_div, decodeOpnd_encodeOpnd]

/-! ## Slots (R202, R215) -/

theorem slotCheck_lt {op8 : Nat} {sl : Slot} (h : slotCheck op8 sl = none) : op8 < slotEntries.length := by
  rw [slotCheck] at h
  by_contra hge
  rw [List.getElem?_eq_none (Nat.le_of_not_lt hge)] at h
  cases h

theorem slotCheck_of_wf {i : Instr} {op8 : Nat} {sl : Slot} (h : slotOf i = some (op8, sl)) (hwf : i.wf = true) : slotCheck op8 sl = none := by
  cases i with
  | _ => cases h <;> exact of_decide_eq_true hwf

/-- Every slot that passes its entry's checks is read back from its word. -/
theorem decodeSlotRaw_encodeSlot {i : Instr} {op8 : Nat} {sl : Slot} {w : Word} (h : slotOf i = some (op8, sl)) (hwf : i.wf = true)
    (hw : encodeSlot i = some w) : decodeSlotRaw w = .ok (op8, sl) := by
  have hcheck := slotCheck_of_wf h hwf
  have hlen := slotCheck_lt hcheck
  have hop : op8 < 2 ^ 8 := Nat.lt_trans hlen (by decide)
  obtain ⟨hn, hinv, hen⟩ := encodePred_lt sl.spred
  rw [encodeSlot, h] at hw
  obtain rfl := Option.some.inj hw
  have hfields := unpack_ofNat_pack (n := 64) (ws := slotWidths) (.cons hop (.cons (Bool.toNat_lt sl.imm) (.cons sl.dst.isLt
    (.cons sl.sa.isLt (.cons sl.sb.isLt (.cons hn (.cons hinv (.cons hen (.cons sl.sz.isLt (.cons sl.imm32.isLt .nil)))))))))) (by decide)
  have hslot : (⟨decide (sl.imm.toNat = 1), Fin.ofNat 32 sl.dst.val, Fin.ofNat 32 sl.sa.val, Fin.ofNat 32 sl.sb.val, sl.spred,
      BitVec.ofNat 2 sl.sz.toNat, BitVec.ofNat 32 sl.imm32.toNat⟩ : Slot) = sl := by cases sl; simp
  simp only [decodeSlotRaw, hfields, decodePred_encodePred, hslot, if_neg (Nat.not_le.mpr hlen), hcheck]

/-! ## Records (R196–R204) -/

theorem engOf_code (e : Eng) : engOf e.code = e := by cases e <;> rfl

theorem code_lt (e : Eng) : e.code < 2 ^ 2 := by cases e <;> decide

/-- The fields of a record are read back from its bits. -/
theorem unpack_packRec {eng op md stamp w1 w2 w3 w4 w5 w6 w7 : Nat} (p : Pred) (heng : eng < 2 ^ 2) (hop : op < 2 ^ 9) (hmd : md < 2 ^ 5)
    (hstamp : stamp < 2 ^ 24) (h1 : w1 < 2 ^ 64) (h2 : w2 < 2 ^ 64) (h3 : w3 < 2 ^ 64) (h4 : w4 < 2 ^ 64) (h5 : w5 < 2 ^ 64)
    (h6 : w6 < 2 ^ 64) (h7 : w7 < 2 ^ 64) : unpack recWidths (packRec eng op md stamp p [w1, w2, w3, w4, w5, w6, w7]).toNat =
      [eng, op, md, stamp, (encodePred p).1, (encodePred p).2.1, (encodePred p).2.2, 0, w1, w2, w3, w4, w5, w6, w7] := by
  obtain ⟨hn, hinv, hen⟩ := encodePred_lt p
  exact unpack_ofNat_pack (ws := recWidths) (.cons heng (.cons hop (.cons hmd (.cons hstamp (.cons hn (.cons hinv (.cons hen
    (.cons (by decide) (.cons h1 (.cons h2 (.cons h3 (.cons h4 (.cons h5 (.cons h6 (.cons h7 .nil))))))))))))))) (by decide)

theorem decode_bundle {b : Bundle} {l : List (Nat × Slot)} (h : decodeBundle b = .ok l) :
    decode 4 (packRec 0 0 0 b.stamp.toNat b.pred (b.words.map (·.toNat))).toNat = .ok (.bndl b) := by
  have hfields := unpack_packRec (eng := 0) (op := 0) (md := 0) b.pred (by decide) (by decide) (by decide) b.stamp.isLt b.s0.isLt b.s1.isLt
    b.s2.isLt b.s3.isLt b.s4.isLt b.s5.isLt b.s6.isLt
  rw [decode, if_pos rfl, decodeWide, Bundle.words]
  simp only [List.map_cons, List.map_nil, hfields, decodePred_encodePred]
  simp [h]

/-- A control record, without predicate and nest, is read by the control records' own decoder (R204). -/
theorem decode_control {op w2 w3 w4 w5 w6 w7 : Nat} {stamp : BitVec 24} {i : Instr} (h : decodeControl op stamp.toNat w2 w3 w4 w5 w6 w7 = .ok i)
    (hlo : 3 ≤ op) (hhi : op ≤ 8) (h2 : w2 < 2 ^ 64) (h3 : w3 < 2 ^ 64) (h4 : w4 < 2 ^ 64) (h5 : w5 < 2 ^ 64) (h6 : w6 < 2 ^ 64)
    (h7 : w7 < 2 ^ 64) : decode 4 (packRec 0 op 0 stamp.toNat .always [0, w2, w3, w4, w5, w6, w7]).toNat = .ok i := by
  have hfields := unpack_packRec (eng := 0) (md := 0) (w1 := 0) .always (by decide) (Nat.lt_of_le_of_lt hhi (by decide)) (by decide)
    stamp.isLt (by decide) h2 h3 h4 h5 h6 h7
  rw [decode, if_pos rfl, decodeWide, hfields]
  simp [encodePred, decodePred, h, hlo, hhi, Nat.ne_of_gt (Nat.lt_of_lt_of_le (by decide : 0 < 3) hlo)]

/-! ### Control records (R178, R204, R218) -/

theorem testBit_iff (n i : Nat) : n.testBit i = true ↔ n / 2 ^ i % 2 = 1 := by
  rw [Nat.testBit_eq_decide_div_mod_eq, decide_eq_true_iff]

/-- W4 to W7 of a SEGE hold its successors. -/
theorem succ_words (n : Nat) : n % 2 ^ 64 + 2 ^ 64 * (n / 2 ^ 64 % 2 ^ 64 + 2 ^ 64 * (n / 2 ^ 128 % 2 ^ 64 + 2 ^ 64 * (n / 2 ^ 192))) = n := by
  omega

theorem decodeControl_sege {r : SegeRec} (h : r.wf = true) : decodeControl 3 r.stamp.toNat
    (pack ([25, 7, 32].zip [r.len.toNat, 0, r.sig.toNat]))
    (pack ([16, 4, 3, 3, 38].zip [r.segid.toNat, r.nsucc.toNat, r.dsel.toNat, r.dflt.toNat, 0])) (r.succ.toNat % 2 ^ 64)
    (r.succ.toNat / 2 ^ 64 % 2 ^ 64) (r.succ.toNat / 2 ^ 128 % 2 ^ 64) (r.succ.toNat / 2 ^ 192) = .ok (.sege r) := by
  obtain ⟨stamp, len, sig, segid, nsucc, dsel, dflt, succ⟩ := r
  simp only [SegeRec.wf, Bool.and_eq_true, decide_eq_true_eq] at h
  obtain ⟨⟨⟨⟨hlen, hnsucc⟩, hdsel⟩, hdflt⟩, hsucc⟩ := h
  obtain ⟨hw2, -⟩ := pack_fits (ws := [25, 7, 32]) (.cons len.isLt (.cons (by decide : 0 < 2 ^ 7) (.cons sig.isLt .nil)))
  obtain ⟨hw3, -⟩ := pack_fits (ws := [16, 4, 3, 3, 38]) (.cons segid.isLt (.cons nsucc.isLt (.cons dsel.isLt (.cons dflt.isLt
    (.cons (by decide : 0 < 2 ^ 38) .nil)))))
  have hstamp := stamp.isLt
  have hchoice : (nsucc.toNat = 0 → dsel.toNat = 0 ∧ dflt.toNat = 0) ∧ (nsucc.toNat ≠ 0 → dflt.toNat < nsucc.toNat) := by
    split at hdflt
    next h0 =>
      obtain ⟨hd, hf⟩ : dsel = 0 ∧ dflt = 0 := by simpa using hdflt
      simp [h0, hd, hf]
    next h0 =>
      have hne : nsucc.toNat ≠ 0 := fun h => h0 (BitVec.eq_of_toNat_eq h)
      exact ⟨fun h => absurd h hne, fun _ => of_decide_eq_true hdflt⟩
  simp only [decodeControl, hw2, hw3, succ_words]
  rw [find?_fst_eq_none (by simp [hsucc]; omega)]
  simp

theorem decodeControl_fork {r : ForkRec} (h : r.wf = true) : decodeControl 4 r.stamp.toNat
    (pack ([32, 32].zip [r.voff.toNat, r.moff.toNat])) (pack ([32, 3, 29].zip [r.soff.toNat, r.fen.toNat, 0])) 0 0 0 0 = .ok (.fork r) := by
  obtain ⟨stamp, voff, moff, soff, fen⟩ := r
  obtain ⟨hw2, -⟩ := pack_fits (ws := [32, 32]) (.cons voff.isLt (.cons moff.isLt .nil))
  obtain ⟨hw3, -⟩ := pack_fits (ws := [32, 3, 29]) (.cons soff.isLt (.cons fen.isLt (.cons (by decide : 0 < 2 ^ 29) .nil)))
  simp only [ForkRec.wf, Bool.and_eq_true, Bool.or_eq_true, decide_eq_true_eq, BitVec.getLsbD, testBit_iff, bne_iff_ne, ne_eq,
    BitVec.toNat_eq] at h
  simp only [decodeControl, hw2, hw3]
  rw [find?_fst_eq_none (by simp at h ⊢; omega)]
  simp [firstBad]

theorem decodeControl_rdv {r : RdvRec} (h : r.jen ≠ 0) : decodeControl 5 r.stamp.toNat r.jen.toNat 0 0 0 0 0 = .ok (.rdv r) := by
  obtain ⟨stamp, jen⟩ := r
  have hne : jen.toNat ≠ 0 := fun h0 => h (BitVec.eq_of_toNat_eq h0)
  simp only [decodeControl]
  rw [find?_fst_eq_none (by simp; omega)]
  simp [firstBad]

theorem decodeControl_brk (r : BrkRec) : decodeControl 6 r.stamp.toNat (r.idx.val + 8 * r.deng.code) 0 0 0 0 0 = .ok (.brk r) := by
  obtain ⟨stamp, idx, deng⟩ := r
  have hcode := code_lt deng
  have hidx : Fin.ofNat 8 (idx.val + 8 * deng.code) = idx := Fin.ext (by simp)
  have hdeng : (idx.val + 8 * deng.code) / 8 % 4 = deng.code := by omega
  simp only [decodeControl, hidx, hdeng, engOf_code]
  rw [find?_fst_eq_none (by simp; omega)]
  simp [firstBad]

theorem decodeControl_nopr (stamp : BitVec 24) : decodeControl 7 stamp.toNat 0 0 0 0 0 0 = .ok (.nopr stamp) := by
  simp [decodeControl, firstBad]

theorem decodeControl_phas {r : PhasRec} (h : bandBad r.fmin.toNat r.fmax.toNat = none) :
    decodeControl 8 r.stamp.toNat (r.fmin.toNat + 65536 * r.fmax.toNat) 0 0 0 0 0 = .ok (.phas r) := by
  obtain ⟨stamp, fmin, fmax⟩ := r
  have hlo : (fmin.toNat + 65536 * fmax.toNat) % 65536 = fmin.toNat := by omega
  have hhi : (fmin.toNat + 65536 * fmax.toNat) / 65536 = fmax.toNat := by omega
  have hmin : BitVec.ofNat 16 (fmin.toNat + 65536 * fmax.toNat) = fmin := BitVec.eq_of_toNat_eq ((BitVec.toNat_ofNat ..).trans hlo)
  have hmax : fmax.toNat % 65536 = fmax.toNat := Nat.mod_eq_of_lt fmax.isLt
  simp only [decodeControl, hlo, hhi, hmax, h]
  rw [find?_fst_eq_none (by simp; omega)]
  simp [firstBad, hmin]

/-! ### Records with operands (R196–R201) -/

theorem firstOf_eq_none {l : List (Option (Why × Nat × Nat))} (h : firstOf l = none) : ∀ x ∈ l, x = none := by
  induction l with
  | nil => exact List.forall_mem_nil _
  | cons x l ih =>
    cases x with
    | none => exact List.forall_mem_cons.mpr ⟨rfl, ih h⟩
    | some y => cases h

/-- The largest MOD and the kinds of operand 1 that an entry takes. -/
theorem Entry.mod_kind {e : Entry} {r : Rec} (hprom : e.prom = false) (h : e.bad r = none) :
    r.mod.toNat ≤ e.mods ∧ e.k1.contains r.o1.kind = true := by
  have hall := firstOf_eq_none h
  simp only [List.forall_mem_cons, hprom, Bool.false_eq_true, if_false, ite_eq_left_iff, ite_eq_right_iff, reduceCtorEq, imp_false,
    Nat.not_lt, not_not] at hall
  obtain ⟨hmod, -, -, hkind, -⟩ := hall
  exact ⟨hmod, hkind⟩

theorem wf_of_recOf {i : Instr} {e : Eng} {op : Nat} {r : Rec} (h : recOf i = some (e, op, r)) (hwf : i.wf = true) :
    i.inGen 4 = true ∧ recCheck i = none ∧ (i.needsMod1 = true → r.mod = 1) := by
  have hparts : (i.inGen 4 && (decide (recCheck i = none) && (!i.needsMod1 || decide (r.mod = 1)))) = true := by
    cases i with
    | _ => cases h <;> exact hwf
  simp only [Bool.and_eq_true, Bool.or_eq_true, Bool.not_eq_true', decide_eq_true_eq] at hparts
  obtain ⟨hgen, hcheck, hmod⟩ := hparts
  exact ⟨hgen, hcheck, fun h1 => hmod.resolve_left (by simp [h1])⟩

theorem recOf_op {i : Instr} {e : Eng} {op : Nat} {r : Rec} (h : recOf i = some (e, op, r)) :
    op < 2 ^ 9 ∧ (e.code = 0 → op ≠ 0 ∧ op < 3) := by
  cases i with
  | _ => cases h <;> decide

/-- The opcode map holds a record's base form, and MOD and the operand kinds tell the modified form apart. -/
theorem recTable_of_recOf {i : Instr} {e : Eng} {op : Nat} {r : Rec} (h : recOf i = some (e, op, r)) (hgen : i.inGen 4 = true)
    (hcheck : recCheck i = none) (hmod : i.needsMod1 = true → r.mod = 1) :
    ∃ ctor, recTable 4 e op = some ctor ∧ refineForm (ctor r) = i := by
  cases i with
  | vclrf | ldbw | cpins => cases hgen
  | kmovHi | vflgC | cfilBf16 | clblR | mflgC | cprrPull | radvxX | sevtH =>
    cases h
    exact ⟨_, rfl, if_pos (hmod rfl)⟩
  | kmov r | vflg r | clbl r | mflg r | cprr r | radvx r | sevt r =>
    cases h
    obtain ⟨hzero, -⟩ := Entry.mod_kind rfl hcheck
    exact ⟨_, rfl, if_neg fun h1 => absurd (h1 ▸ hzero) (by decide)⟩
  | cfil r =>
    cases h
    obtain ⟨hzero, hkind⟩ := Entry.mod_kind rfl hcheck
    exact ⟨_, rfl, (if_neg fun h1 => absurd (h1 ▸ hzero) (by decide)).trans (if_pos (by simpa [entKey] using hkind))⟩
  | cfilF32 r =>
    cases h
    obtain ⟨hzero, hkind⟩ := Entry.mod_kind rfl hcheck
    have hrow : r.o1.kind = 9 := by simpa using hkind
    exact ⟨_, rfl, (if_neg fun h1 => absurd (h1 ▸ hzero) (by decide)).trans (if_neg (by rw [hrow]; decide))⟩
  | _ => cases h <;> exact ⟨_, rfl, rfl⟩

/-- The bits of a record with operands. -/
def packOperands (e : Eng) (op : Nat) (r : Rec) : RecordBits :=
  packRec e.code op r.mod.toNat r.stamp.toNat r.pred [r.nest.toNat, encodeOpnd r.o0 % 2 ^ 64, encodeOpnd r.o0 / 2 ^ 64,
    encodeOpnd r.o1 % 2 ^ 64, encodeOpnd r.o1 / 2 ^ 64, encodeOpnd r.o2 % 2 ^ 64, encodeOpnd r.o2 / 2 ^ 64]

theorem encode_of_recOf {i : Instr} {e : Eng} {op : Nat} {r : Rec} (h : recOf i = some (e, op, r)) :
    encode i = some (packOperands e op r) := by
  cases i with
  | _ => cases h <;> rfl

theorem decode_record {i : Instr} {e : Eng} {op : Nat} {r : Rec} (h : recOf i = some (e, op, r)) (hwf : i.wf = true) :
    decode 4 (packOperands e op r).toNat = .ok i := by
  obtain ⟨hgen, hcheck, hmod⟩ := wf_of_recOf h hwf
  obtain ⟨ctor, htable, hform⟩ := recTable_of_recOf h hgen hcheck hmod
  obtain ⟨hop, hcc⟩ := recOf_op h
  have hlo (o : Opnd) : encodeOpnd o % 2 ^ 64 < 2 ^ 64 := Nat.mod_lt _ (by decide)
  have hhi (o : Opnd) : encodeOpnd o / 2 ^ 64 < 2 ^ 64 := Nat.div_lt_of_lt_mul (encodeOpnd_lt o)
  have hfields := unpack_packRec r.pred (code_lt e) hop r.mod.isLt r.stamp.isLt r.nest.isLt (hlo r.o0) (hhi r.o0) (hlo r.o1) (hhi r.o1)
    (hlo r.o2) (hhi r.o2)
  have hbndl : (decide (e.code = 0) && decide (op = 0)) = false := by simp; omega
  have hctl : (decide (e.code = 0) && decide (3 ≤ op) && decide (op ≤ 8)) = false := by simp; omega
  have hrec : (⟨BitVec.ofNat 24 r.stamp.toNat, r.pred, BitVec.ofNat 5 r.mod.toNat, BitVec.ofNat 64 r.nest.toNat, r.o0, r.o1, r.o2⟩ : Rec) = r := by
    simp
  rw [packOperands, decode, if_pos rfl, decodeWide, hfields]
  simp only [decodePred_encodePred, hbndl, hctl, engOf_code, htable, decodeOpnds_encodeOpnd, hrec, hform, hcheck]
  rfl

/-- Every well-formed record is read back from its own bits. -/
theorem decode_encode {i : Instr} {w : RecordBits} (hwf : i.wf = true) (hw : encode i = some w) : decode 4 w.toNat = .ok i := by
  have hlow {n : Nat} : n % 2 ^ 64 < 2 ^ 64 := Nat.mod_lt _ (by decide)
  have hzero : 0 < 2 ^ 64 := by decide
  cases hrec : recOf i with
  | some x =>
    obtain ⟨e, op, r⟩ := x
    obtain rfl := Option.some.inj ((encode_of_recOf hrec).symm.trans hw)
    exact decode_record hrec hwf
  | none =>
    cases i with
    | bndl b =>
      obtain rfl := Option.some.inj hw
      cases hl : decodeBundle b with
      | ok l => exact decode_bundle hl
      | error e => simp [Instr.wf, Instr.wfIn, hl] at hwf
    | sege r =>
      obtain rfl := Option.some.inj hw
      exact decode_control (decodeControl_sege hwf) (by decide) (by decide) (pack_zip_lt (ws := [25, 7, 32]) rfl)
        (pack_zip_lt (ws := [16, 4, 3, 3, 38]) rfl) hlow hlow hlow (Nat.div_lt_of_lt_mul r.succ.isLt)
    | fork r =>
      obtain rfl := Option.some.inj hw
      exact decode_control (decodeControl_fork hwf) (by decide) (by decide) (pack_zip_lt (ws := [32, 32]) rfl)
        (pack_zip_lt (ws := [32, 3, 29]) rfl) hzero hzero hzero hzero
    | rdv r =>
      obtain rfl := Option.some.inj hw
      exact decode_control (decodeControl_rdv (bne_iff_ne.mp hwf)) (by decide) (by decide) (by omega) hzero hzero hzero hzero hzero
    | brk r =>
      obtain rfl := Option.some.inj hw
      have hcode := code_lt r.deng
      exact decode_control (decodeControl_brk r) (by decide) (by decide) (by omega) hzero hzero hzero hzero hzero
    | nopr stamp =>
      obtain rfl := Option.some.inj hw
      exact decode_control (decodeControl_nopr stamp) (by decide) (by decide) hzero hzero hzero hzero hzero hzero
    | phas r =>
      obtain rfl := Option.some.inj hw
      exact decode_control (decodeControl_phas (of_decide_eq_true hwf)) (by decide) (by decide) (by omega) hzero hzero hzero hzero hzero
    | _ => cases hrec <;> cases hw

/-- Settles O58: a word is read field by field, and the checks of its entry are those of its being well formed. -/
theorem decodeEncode : Obligations.DecodeEncode :=
  ⟨fun _ _ hwf hw => decode_encode hwf hw, fun _ _ _ _ h hwf hw => decodeSlotRaw_encodeSlot h hwf hw⟩

end Sys2Proof.Machine
end

section
/-! SUPPORT. The predicate of a record, its field and its value, and a record's issue under a false one (Issue.lean); they settle O52. -/

namespace Sys2Proof.Machine

/-- A first issue under a false predicate leaves the issue of the record alone (R28). -/
theorem issue_unpredicated {i : Instr} {stamp : Nat} {p : Pred} {n cyc off : Nat} {chk : Nat → Option Flt}
    {body : Ctx → State → Except Flt State} {u : State} (hfree : u.expanding = none) (hpc : u.engine.pc = some off)
    (hdue : u.waits stamp = false) (hpred : evalPred u.cur.cc p = false) (htime : u.missCause off stamp n cyc = none) (hchk : chk 0 = none) :
    issue i none stamp p n cyc chk body u = u.beginRecord i off stamp n cyc false := by
  simp only [issue, hfree, hpc, Option.getD_some, hdue, Bool.false_eq_true, if_false, htime, hpred, State.perform, hchk]

/-- A record of an engine but the SE is issued by `issueRec`, and one of the SE by `issueSe`, each with the record's own effect. -/
theorem exec_of_recOf {i : Instr} {e : Eng} {op : Nat} {r : Rec} (h : recOf i = some (e, op, r)) :
    ∃ body, (e ≠ .se ∧ ∀ s, exec i s = .next (issueRec i r body s)) ∨ (e = .se ∧ ∀ s, exec i s = .next (issueSe i op r body s)) := by
  cases i with
  | snop _ | cpin _ | cpins _ | cpout _ | cprr _ | cprrPull _ | cpadd _ | cpbc _ | cpt _ | cpcv _ | cpq _ | cpmask _ | fill _ | gath _
    | scat _ | scata _ | grpf _ | grpo _ | topk _ | crds _ | metaq _ | sortk _ | cntr _ | csnap _ | nsend _ | nrecv _ | nput _ | nget _
    | natom _ | nflush _ | awrm _ | aset _ | sfence _ | waitc _ | tdld _ | tdinv _ | pgdup _ | pgmig _ | pfch _ | latq _ | sevt _ | sevtH _
    | cpchk _ | radvx _ | radvxX _ | swait _ =>
    cases h
    exact ⟨_, .inr ⟨rfl, fun _ => rfl⟩⟩
  | _ => cases h <;> exact ⟨_, .inl ⟨by decide, fun _ => rfl⟩⟩

theorem evalPred_p (c : Cc) (n : Fin 16) : evalPred c (.p false n) = (decide (n = 0) || c.p.getLsbD n.val) ∧
    evalPred c (.p true n) = !(decide (n = 0) || c.p.getLsbD n.val) := by
  have hread : c.pred n.val = (decide (n = 0) || c.p.getLsbD n.val) :=
    congrArg (· || c.p.getLsbD n.val) (decide_eq_decide.mpr Fin.val_eq_zero_iff)
  simp [evalPred, hread]

theorem decodePred_en {inv : Nat} (n : Nat) : decodePred n inv 1 = some (.p (decide (inv = 1)) (Fin.ofNat 16 n)) ∧
    ∀ p, decodePred n inv 0 = some p → p = .always := by
  refine ⟨rfl, fun p hp => ?_⟩
  simp only [decodePred, Nat.zero_ne_one, if_false] at hp
  split at hp
  · exact (Option.some.inj hp).symm
  · cases hp

/-- Settles O52: the P registers and the fields as they stand, and the two ways of issuing a record, whose effect waits on the predicate. -/
theorem predicatesGovern : Obligations.PredicatesGovern := by
  refine ⟨fun c n => ⟨rfl, evalPred_p c n⟩, fun n _ inv _ => decodePred_en n, ?_⟩
  intro i e op r s off hi u hfree hpc hdue hpred hlegal htime hrange hprom
  obtain ⟨body, ⟨hne, hexec⟩ | ⟨rfl, hexec⟩⟩ := exec_of_recOf hi
  · have hissue : issueRec i r body s = issue i (recBad i (s.gangOf s.curCell).encgen) r.stamp.toNat r.pred (issuesOf r e) (engCycles e)
        (stepBad i r e (s.gangOf s.curCell).encgen) body u := by
      simp only [issueRec, hi]
      rfl
    rw [hexec, hissue, hlegal, issue_unpredicated hfree hpc hdue hpred htime hrange]
  · have hissue : issueSe i op r body s = issue i none r.stamp.toNat r.pred (issuesOf r .se) (engCycles .se)
        (stepBad i r .se (s.gangOf s.curCell).encgen) body u := by
      have hlegal' : recBad i (u.gangOf u.curCell).encgen = none := hlegal
      simp only [issueSe, u, hlegal', hprom rfl]
      rfl
    rw [hexec, hissue, issue_unpredicated hfree hpc hdue hpred htime hrange]

end Sys2Proof.Machine
end

section
/-! SUPPORT. The functions of numbers that the integer slots compute (R220), as operations on vectors; they settle O28. -/

namespace Sys2Proof.Machine

section
variable {w : Nat}

theorem signedOf_toNat (hw : 0 < w) (a : BitVec w) : signedOf w a.toNat = a.toInt := by
  have hpow : 2 ^ w = 2 * 2 ^ (w - 1) := by rw [← Nat.pow_succ', Nat.succ_eq_add_one, Nat.sub_add_cancel hw]
  rw [signedOf, BitVec.toInt_eq_toNat_cond]
  by_cases h : a.toNat < 2 ^ (w - 1)
  · rw [if_pos h, if_pos (by omega)]
  · rw [if_neg h, if_neg (by omega)]
    norm_cast

theorem ofNat_wrapInt (x : Int) : BitVec.ofNat w (wrapInt w x) = BitVec.ofInt w x := by
  apply BitVec.eq_of_toNat_eq
  have hlt : (x % 2 ^ w).toNat < 2 ^ w := by
    have h := Int.emod_lt_of_pos x (b := 2 ^ w) (by positivity)
    have h0 := Int.emod_nonneg x (b := 2 ^ w) (by positivity)
    zify
    rw [Int.toNat_of_nonneg h0]
    exact h
  rw [BitVec.toNat_ofNat, BitVec.toNat_ofInt, wrapInt, Nat.mod_eq_of_lt hlt]
  norm_cast

theorem ofInt_eq_of_toInt {x : Int} {v : BitVec w} (h : v.toInt = x) : BitVec.ofInt w x = v := by
  rw [← h, BitVec.ofInt_toInt]

theorem ofNat_opAdd (a b d : BitVec w) : BitVec.ofNat w (opAdd w a.toNat b.toNat d.toNat) = a + b := by
  apply BitVec.eq_of_toNat_eq; simp [opAdd]

theorem ofNat_opSub (a b d : BitVec w) : BitVec.ofNat w (opSub w a.toNat b.toNat d.toNat) = a - b := by
  apply BitVec.eq_of_toNat_eq
  rw [opSub, BitVec.toNat_ofNat, BitVec.toNat_sub, Nat.mod_mod]
  congr 1
  omega

theorem ofNat_opMul (a b d : BitVec w) : BitVec.ofNat w (opMul w a.toNat b.toNat d.toNat) = a * b := by
  apply BitVec.eq_of_toNat_eq; simp [opMul]

theorem ofNat_opMadd (a b d : BitVec w) : BitVec.ofNat w (opMadd w a.toNat b.toNat d.toNat) = d + a * b := by
  apply BitVec.eq_of_toNat_eq; simp [opMadd]

/-- The high half of a number of two digits. -/
theorem emod_mul_self_ediv (p : Int) {n : Int} (hn : 0 < n) : p % (n * n) / n = p / n % n := by
  have hlo := Int.emod_add_mul_ediv p n
  have hhi := Int.emod_add_mul_ediv (p / n) n
  have hr := Int.emod_lt_of_pos p hn
  have hq := Int.emod_lt_of_pos (p / n) hn
  have hr0 := Int.emod_nonneg p hn.ne'
  have hq0 := Int.emod_nonneg (p / n) hn.ne'
  have hmod : p % (n * n) = p % n + n * (p / n % n) :=
    ((Int.ediv_emod_unique (q := p / n / n) (Int.mul_pos hn hn)).mpr ⟨by nlinarith, by positivity, by nlinarith⟩).2
  rw [hmod, Int.add_mul_ediv_left _ _ hn.ne', Int.ediv_eq_zero_of_lt hr0 hr, Int.zero_add]

theorem toNat_emod_mul_self_div (p : Int) {n : Nat} (hn : 0 < n) : (p % (n * n : Nat)).toNat / n % n = (p / n % n).toNat := by
  have hpos : (0 : Int) < n := Int.natCast_pos.mpr hn
  have hwhole : 0 ≤ p % ((n : Int) * n) := Int.emod_nonneg _ (Int.mul_pos hpos hpos).ne'
  have hhigh : 0 ≤ p / n % n := Int.emod_nonneg _ hpos.ne'
  zify
  rw [Int.toNat_of_nonneg hwhole, Int.toNat_of_nonneg hhigh, emod_mul_self_ediv p hpos, Int.emod_emod_of_dvd _ (dvd_refl _)]

theorem ofNat_opMulhs (hw : 0 < w) (a b d : BitVec w) : BitVec.ofNat w (opMulhs w a.toNat b.toNat d.toNat) =
    (a.signExtend (2 * w) * b.signExtend (2 * w)).extractLsb' w w := by
  rw [opMulhs, signedOf_toNat hw, signedOf_toNat hw, ofNat_wrapInt]
  apply BitVec.eq_of_toNat_eq
  rw [BitVec.signExtend, BitVec.signExtend, ← BitVec.ofInt_mul, toNat_extractLsb'_eq_fieldOf, fieldOf, BitVec.toNat_ofInt, BitVec.toNat_ofInt]
  generalize a.toInt * b.toInt = p
  have hhigh := toNat_emod_mul_self_div p (Nat.two_pow_pos w)
  rw [← Nat.pow_add, ← Nat.two_mul] at hhigh
  rw [hhigh, Nat.cast_pow, Nat.cast_ofNat]

theorem ofNat_opMulhn (a b d : BitVec w) : BitVec.ofNat w (opMulhn w a.toNat b.toNat d.toNat) =
    (a.zeroExtend (2 * w) * b.zeroExtend (2 * w)).extractLsb' w w := by
  have hprod : a.toNat * b.toNat < 2 ^ (2 * w) := by
    rw [Nat.two_mul, Nat.pow_add]
    exact Nat.mul_lt_mul'' a.isLt b.isLt
  apply BitVec.eq_of_toNat_eq
  rw [toNat_extractLsb'_eq_fieldOf, BitVec.toNat_mul, BitVec.toNat_setWidth_of_le (by omega), BitVec.toNat_setWidth_of_le (by omega),
    Nat.mod_eq_of_lt hprod, BitVec.toNat_ofNat]
  rfl

theorem toNat_eq_zero_iff (b : BitVec w) : b.toNat = 0 ↔ b = 0 := by
  rw [BitVec.toNat_eq]; rfl

theorem ofNat_opDivs (hw : 0 < w) (a b d : BitVec w) : BitVec.ofNat w (opDivs w a.toNat b.toNat d.toNat) =
    if b = 0 then BitVec.allOnes w else a.sdiv b := by
  simp only [opDivs, toNat_eq_zero_iff, signedOf_toNat hw]
  split
  · exact BitVec.eq_of_toNat_eq (by simp)
  · rw [ofNat_wrapInt]
    apply BitVec.eq_of_toInt_eq
    rw [BitVec.toInt_ofInt, BitVec.toInt_sdiv]

theorem ofNat_opDivn (a b d : BitVec w) : BitVec.ofNat w (opDivn w a.toNat b.toNat d.toNat) =
    if b = 0 then BitVec.allOnes w else a / b := by
  simp only [opDivn, toNat_eq_zero_iff]
  split
  · exact BitVec.eq_of_toNat_eq (by simp)
  · rw [← BitVec.toNat_udiv, BitVec.ofNat_toNat, BitVec.setWidth_eq]

theorem ofNat_opRems (hw : 0 < w) (a b d : BitVec w) : BitVec.ofNat w (opRems w a.toNat b.toNat d.toNat) =
    if b = 0 then a else a.srem b := by
  simp only [opRems, toNat_eq_zero_iff, signedOf_toNat hw]
  split
  · rw [BitVec.ofNat_toNat, BitVec.setWidth_eq]
  · rw [ofNat_wrapInt, ofInt_eq_of_toInt (BitVec.toInt_srem a b)]

theorem ofNat_opRemn (a b d : BitVec w) : BitVec.ofNat w (opRemn w a.toNat b.toNat d.toNat) =
    if b = 0 then a else a % b := by
  simp only [opRemn, toNat_eq_zero_iff]
  split
  · rw [BitVec.ofNat_toNat, BitVec.setWidth_eq]
  · rw [← BitVec.toNat_umod, BitVec.ofNat_toNat, BitVec.setWidth_eq]

theorem ofNat_opAnd (a b d : BitVec w) : BitVec.ofNat w (opAnd w a.toNat b.toNat d.toNat) = a &&& b := by
  rw [opAnd, ← BitVec.toNat_and, BitVec.ofNat_toNat, BitVec.setWidth_eq]

theorem ofNat_opOr (a b d : BitVec w) : BitVec.ofNat w (opOr w a.toNat b.toNat d.toNat) = a ||| b := by
  rw [opOr, ← BitVec.toNat_or, BitVec.ofNat_toNat, BitVec.setWidth_eq]

theorem ofNat_opXor (a b d : BitVec w) : BitVec.ofNat w (opXor w a.toNat b.toNat d.toNat) = a ^^^ b := by
  rw [opXor, ← BitVec.toNat_xor, BitVec.ofNat_toNat, BitVec.setWidth_eq]

theorem ofNat_opAndn (a b d : BitVec w) : BitVec.ofNat w (opAndn w a.toNat b.toNat d.toNat) = a &&& ~~~b := by
  have hdisj : (a &&& b) &&& (a &&& ~~~b) = 0#w := by ext i hi; simp; grind
  have hsum : (a &&& b) + (a &&& ~~~b) = a := by
    rw [BitVec.add_eq_or_of_and_eq_zero _ _ hdisj]
    ext i hi; simp; grind
  have hle : (a &&& b).toNat ≤ a.toNat := Nat.and_le_left
  rw [opAndn, ← BitVec.toNat_and, ← BitVec.toNat_sub_of_le hle, BitVec.ofNat_toNat, BitVec.setWidth_eq]
  rw [eq_comm, BitVec.eq_sub_iff_add_eq, BitVec.add_comm, hsum]

theorem ofNat_opShl (a b d : BitVec w) : BitVec.ofNat w (opShl w a.toNat b.toNat d.toNat) = a <<< (b.toNat % w) := by
  apply BitVec.eq_of_toNat_eq
  rw [opShl, BitVec.toNat_ofNat, BitVec.toNat_shiftLeft, Nat.shiftLeft_eq, Nat.mod_mod]

theorem ofNat_opShrl (a b d : BitVec w) : BitVec.ofNat w (opShrl w a.toNat b.toNat d.toNat) = a >>> (b.toNat % w) := by
  rw [opShrl, ← Nat.shiftRight_eq_div_pow, ← BitVec.toNat_ushiftRight, BitVec.ofNat_toNat, BitVec.setWidth_eq]

theorem ofNat_opShra (hw : 0 < w) (a b d : BitVec w) : BitVec.ofNat w (opShra w a.toNat b.toNat d.toNat) = a.sshiftRight (b.toNat % w) := by
  rw [opShra, signedOf_toNat hw, ofNat_wrapInt]
  refine ofInt_eq_of_toInt ?_
  rw [BitVec.toInt_sshiftRight, Int.shiftRight_eq_div_pow]
  norm_cast

theorem ofNat_opRotl (hw : 0 < w) (a b d : BitVec w) : BitVec.ofNat w (opRotl w a.toNat b.toNat d.toNat) = a.rotateLeft (b.toNat % w) := by
  have hk : b.toNat % w < w := Nat.mod_lt _ hw
  rw [opRotl, BitVec.rotateLeft_mod_eq_rotateLeft, BitVec.rotateLeft_def]
  generalize b.toNat % w = k at hk
  have hdisj : a <<< k &&& a >>> (w - k) = 0#w := by
    ext i hi
    simp only [BitVec.getElem_and, BitVec.getElem_shiftLeft, BitVec.getElem_ushiftRight, BitVec.getElem_zero, Bool.and_eq_false_imp]
    intro h
    exact BitVec.getLsbD_of_ge _ _ (by simp at h; omega)
  rw [← BitVec.add_eq_or_of_and_eq_zero _ _ hdisj]
  apply BitVec.eq_of_toNat_eq
  rw [BitVec.toNat_add, BitVec.toNat_shiftLeft, BitVec.toNat_ushiftRight, BitVec.toNat_ofNat, Nat.shiftLeft_eq, Nat.shiftRight_eq_div_pow]

theorem ofNat_opClz (hw : 0 < w) (a b d : BitVec w) : BitVec.ofNat w (opClz w a.toNat b.toNat d.toNat) = a.clz := by
  simp only [opClz, toNat_eq_zero_iff]
  split
  next h => exact (BitVec.clz_eq_iff_eq_zero.mpr h).symm
  next h =>
    have hlow := BitVec.two_pow_sub_clz_le_toNat_of_ne_zero hw h
    have hhigh := BitVec.toNat_lt_two_pow_sub_clz (x := a)
    have hne : a.toNat ≠ 0 := fun h0 => h (BitVec.eq_of_toNat_eq h0)
    have hle : w - 1 - a.clz.toNat ≤ a.toNat.log2 := (Nat.le_log2 hne).mpr hlow
    have hlt : a.toNat.log2 < w - a.clz.toNat := (Nat.log2_lt hne).mpr hhigh
    have heq : w - 1 - a.toNat.log2 = a.clz.toNat := by omega
    rw [heq, BitVec.ofNat_toNat, BitVec.setWidth_eq]

theorem trailing_eq {n t a : Nat} (ht : t ≤ n) (hlow : ∀ i < t, a.testBit i = false) (hbit : t < n → a.testBit t = true) : trailing n a = t := by
  induction n generalizing a t with
  | zero => rw [trailing]; omega
  | succ n ih =>
    rw [trailing]
    cases t with
    | zero =>
      have h := hbit (Nat.succ_pos n)
      rw [Nat.testBit_zero, decide_eq_true_iff] at h
      rw [if_pos h]
    | succ t =>
      have h := hlow 0 (Nat.succ_pos t)
      rw [Nat.testBit_zero, decide_eq_false_iff_not] at h
      rw [if_neg h, ih (t := t) (by omega) (fun i hi => ?_) (fun hi => ?_), Nat.add_comm]
      · rw [← Nat.testBit_succ]; exact hlow (i + 1) (by omega)
      · rw [← Nat.testBit_succ]; exact hbit (by omega)

theorem ofNat_opCtz (a b d : BitVec w) : BitVec.ofNat w (opCtz w a.toNat b.toNat d.toNat) = a.ctz := by
  have hw : (BitVec.ofNat w w).toNat = w := by rw [BitVec.toNat_ofNat, Nat.mod_eq_of_lt Nat.lt_two_pow_self]
  have hle : a.ctz.toNat ≤ w := by
    have h := BitVec.le_def.mp (BitVec.clz_le (x := a.reverse))
    rwa [← BitVec.ctz_eq_reverse_clz, BitVec.natCast_eq_ofNat, hw] at h
  have hne (hlt : a.ctz.toNat < w) : a ≠ 0#w := by
    refine BitVec.ctz_lt_iff_ne_zero.mp (BitVec.lt_def.mpr ?_)
    rwa [BitVec.natCast_eq_ofNat, hw]
  have hbit : trailing w a.toNat = a.ctz.toNat :=
    trailing_eq hle (fun i hi => BitVec.getLsbD_false_of_lt_ctz hi) fun hlt => BitVec.getLsbD_true_ctz_of_ne_zero (hne hlt)
  rw [opCtz, hbit, BitVec.ofNat_toNat, BitVec.setWidth_eq]

theorem popcount_toNat : ∀ {w : Nat} (a : BitVec w), popcount w a.toNat = a.cpop.toNat := by
  intro w
  induction w with
  | zero => intro a; rw [BitVec.of_length_zero (x := a)]; rfl
  | succ w ih =>
    intro a
    have hlt : a.toNat / 2 < 2 ^ w := by omega
    have hhigh : (BitVec.ofNat w (a.toNat / 2)).toNat = a.toNat / 2 := by rw [BitVec.toNat_ofNat, Nat.mod_eq_of_lt hlt]
    have hlow : (decide (a.toNat % 2 = 1)).toNat = a.toNat % 2 := by
      rcases Nat.mod_two_eq_zero_or_one a.toNat with h | h <;> simp [h]
    have ha : a = (BitVec.ofNat w (a.toNat / 2)).concat (decide (a.toNat % 2 = 1)) := by
      apply BitVec.eq_of_toNat_eq
      rw [BitVec.toNat_concat, hhigh, hlow]
      omega
    calc popcount (w + 1) a.toNat = a.toNat % 2 + popcount w (a.toNat / 2) := rfl
      _ = (decide (a.toNat % 2 = 1)).toNat + (BitVec.ofNat w (a.toNat / 2)).cpop.toNat := by rw [hlow, ← ih, hhigh]
      _ = a.cpop.toNat := by rw [← BitVec.toNat_cpop_concat, ← ha]

theorem ofNat_opPopc (a b d : BitVec w) : BitVec.ofNat w (opPopc w a.toNat b.toNat d.toNat) = a.cpop := by
  rw [opPopc, popcount_toNat, BitVec.ofNat_toNat, BitVec.setWidth_eq]

theorem ofNat_opMins (hw : 0 < w) (a b d : BitVec w) : BitVec.ofNat w (opMins w a.toNat b.toNat d.toNat) = if b.slt a then b else a := by
  simp only [opMins, signedOf_toNat hw, BitVec.slt_iff_toInt_lt]
  split <;> rw [BitVec.ofNat_toNat, BitVec.setWidth_eq]

theorem ofNat_opMaxs (hw : 0 < w) (a b d : BitVec w) : BitVec.ofNat w (opMaxs w a.toNat b.toNat d.toNat) = if a.slt b then b else a := by
  simp only [opMaxs, signedOf_toNat hw, BitVec.slt_iff_toInt_lt]
  split <;> rw [BitVec.ofNat_toNat, BitVec.setWidth_eq]

theorem ofNat_opMinn (a b d : BitVec w) : BitVec.ofNat w (opMinn w a.toNat b.toNat d.toNat) = if b.ult a then b else a := by
  rw [opMinn, Nat.min_def]
  simp only [BitVec.ult_eq_decide, decide_eq_true_iff, ← Nat.not_le, ite_not]
  split <;> rw [BitVec.ofNat_toNat, BitVec.setWidth_eq]

theorem ofNat_opMaxn (a b d : BitVec w) : BitVec.ofNat w (opMaxn w a.toNat b.toNat d.toNat) = if a.ult b then b else a := by
  rw [opMaxn, max_def_lt]
  simp only [BitVec.ult_eq_decide, decide_eq_true_iff]
  split <;> rw [BitVec.ofNat_toNat, BitVec.setWidth_eq]

theorem ofNat_opAbss (hw : 0 < w) (a b d : BitVec w) : BitVec.ofNat w (opAbss w a.toNat b.toNat d.toNat) = if a.msb then -a else a := by
  rw [opAbss, signedOf_toNat hw, ofNat_wrapInt, BitVec.msb_eq_toInt]
  simp only [decide_eq_true_iff]
  split
  next h => rw [Int.ofNat_natAbs_of_nonpos (by omega), BitVec.ofInt_neg, BitVec.ofInt_toInt]
  next h => rw [Int.natAbs_of_nonneg (by omega), BitVec.ofInt_toInt]
end

end Sys2Proof.Machine
end

section
/-! SUPPORT. Bundles of the control core: the run of their slots (R202, R203, R215); they settle O28. -/

namespace Sys2Proof.Machine

/-! ## Integer slots in a bundle (R202, R203, R220) -/

theorem extendTo64_eq {w : Nat} (hw : 0 < w) (sgn : Bool) (n : Nat) :
    extendTo64 sgn w n = if sgn then (BitVec.ofNat w n).signExtend 64 else (BitVec.ofNat w n).setWidth 64 := by
  have h := signedOf_toNat hw (BitVec.ofNat w n)
  rw [BitVec.toNat_ofNat] at h
  rw [extendTo64, h, BitVec.signExtend, ← BitVec.toNat_ofNat, BitVec.ofNat_toNat]

theorem szBits_pos (sz : BitVec 2) : 0 < szBits sz := by
  rw [szBits]
  split <;> decide

/-- An OP8 has the meaning of an integer slot, whose function of numbers is the slot's function of vectors. -/
def IntSlot.Runs (e : IntSlot) : Prop :=
  ∃ f, slotSems[e.op8]? = some { op8 := e.op8, act := aluAct ⟨e.lat, e.sgn, e.useB, e.useD, f, e.idz⟩ } ∧
    ∀ w, 0 < w → ∀ a b d : BitVec w, BitVec.ofNat w (f w a.toNat b.toNat d.toNat) = e.f w a b d

theorem intSlots_run : ∀ e ∈ intSlots, e.Runs := by
  simp only [intSlots, List.forall_mem_cons]
  exact ⟨⟨_, rfl, fun _ _ => ofNat_opAdd⟩, ⟨_, rfl, fun _ _ => ofNat_opSub⟩, ⟨_, rfl, fun _ _ => ofNat_opMul⟩,
    ⟨_, rfl, fun _ => ofNat_opMulhs⟩, ⟨_, rfl, fun _ _ => ofNat_opMulhn⟩, ⟨_, rfl, fun _ _ => ofNat_opMadd⟩,
    ⟨_, rfl, fun _ => ofNat_opDivs⟩, ⟨_, rfl, fun _ _ => ofNat_opDivn⟩, ⟨_, rfl, fun _ => ofNat_opRems⟩,
    ⟨_, rfl, fun _ _ => ofNat_opRemn⟩, ⟨_, rfl, fun _ _ => ofNat_opAnd⟩, ⟨_, rfl, fun _ _ => ofNat_opOr⟩,
    ⟨_, rfl, fun _ _ => ofNat_opXor⟩, ⟨_, rfl, fun _ _ => ofNat_opAndn⟩, ⟨_, rfl, fun _ _ => ofNat_opShl⟩,
    ⟨_, rfl, fun _ _ => ofNat_opShrl⟩, ⟨_, rfl, fun _ => ofNat_opShra⟩, ⟨_, rfl, fun _ => ofNat_opRotl⟩,
    ⟨_, rfl, fun _ => ofNat_opClz⟩, ⟨_, rfl, fun _ _ => ofNat_opCtz⟩, ⟨_, rfl, fun _ _ => ofNat_opPopc⟩,
    ⟨_, rfl, fun _ => ofNat_opMins⟩, ⟨_, rfl, fun _ => ofNat_opMaxs⟩, ⟨_, rfl, fun _ _ => ofNat_opMinn⟩,
    ⟨_, rfl, fun _ _ => ofNat_opMaxn⟩, ⟨_, rfl, fun _ => ofNat_opAbss⟩, List.forall_mem_nil _⟩

/-- Results go into flight on the executing cell, each with a number of its own. -/
def State.flies (s : State) (l : List Landing) : State :=
  ({ s with uid := s.uid + l.length } : State).setCell s.curCell { s.cur with flight := s.cur.flight ++ l }

theorem State.cur_flies (s : State) (l : List Landing) : (s.flies l).cur = { s.cur with flight := s.cur.flight ++ l } :=
  State.cell_setCell_self _ _ _

theorem State.cc_flies (s : State) (l : List Landing) : (s.flies l).cur.cc = s.cur.cc := by
  rw [State.cur_flies]

theorem State.flies_nil (s : State) : s.flies [] = s := by
  have hcells : s.cells.set s.curCell s.cells[s.curCell] = s.cells := Vector.set_getElem_self _
  rw [State.flies, List.append_nil]
  exact congrArg (fun cells => ({ s with cells := cells } : State)) hcells

theorem State.flies_flies (s : State) (l m : List Landing) : (s.flies l).flies m = s.flies (l ++ m) := by
  have hcur : (s.flies l).cur.flight ++ m = s.cur.flight ++ (l ++ m) :=
    (congrArg (fun x : Cell => x.flight ++ m) (s.cur_flies l)).trans (List.append_assoc ..)
  have hx : { (s.flies l).cur with flight := (s.flies l).cur.flight ++ m } = { s.cur with flight := s.cur.flight ++ (l ++ m) } := by
    rw [hcur, State.cur_flies]
  have huid : s.uid + l.length + m.length = s.uid + (l ++ m).length := by rw [List.length_append, Nat.add_assoc]
  rw [State.flies, hx]
  calc _ = ({ s with uid := s.uid + l.length + m.length } : State).setCell s.curCell { s.cur with flight := s.cur.flight ++ (l ++ m) } :=
        State.setCell_setCell ({ s with uid := s.uid + l.length + m.length } : State) ..
    _ = s.flies (l ++ m) := by rw [huid, State.flies]

theorem State.becomes_flies (s : State) (l : List Landing) : s.Becomes (s.flies l) { s.cur with flight := s.cur.flight ++ l } :=
  State.becomes_setCell _ rfl rfl rfl

theorem IntSlot.landing_flies (e : IntSlot) (sl : Slot) (off n : Nat) (s : State) (l : List Landing) :
    e.landing sl off n (s.flies l) = e.landing sl off (l.length + n) s := by
  have hnow : (s.flies l).now = s.now := State.now_setCell _ _ _ rfl
  have huid : (s.flies l).uid + n = s.uid + (l.length + n) := Nat.add_assoc ..
  simp only [IntSlot.landing, State.ccDiv, hnow, huid, State.cur_flies]
  rfl

theorem IntSlot.act_eq {e : IntSlot} {f : Nat → Nat → Nat → Nat → Nat}
    (hf : ∀ w, 0 < w → ∀ a b d : BitVec w, BitVec.ofNat w (f w a.toNat b.toNat d.toNat) = e.f w a b d) {s : State} (heng : s.curEng = .cc)
    (sl : Slot) (off k : Nat) :
    aluAct ⟨e.lat, e.sgn, e.useB, e.useD, f, e.idz⟩ ⟨off, 0, k, 0⟩ sl s = .ok (s.flies [e.landing sl off 0 s]) := by
  have hvalue := hf (szBits sl.sz) (szBits_pos sl.sz) ((s.cur.cc.greg sl.sa).setWidth _) ((srcB sl s.cur.cc).setWidth _)
    ((s.cur.cc.greg sl.dst).setWidth _)
  simp only [BitVec.toNat_setWidth] at hvalue
  have hzero : ((srcB sl s.cur.cc).toNat % 2 ^ szBits sl.sz = 0) = ((srcB sl s.cur.cc).setWidth (szBits sl.sz) = 0) := by
    rw [← BitVec.toNat_setWidth]
    exact propext (toNat_eq_zero_iff _)
  simp only [aluAct, hzero, extendTo64_eq (szBits_pos sl.sz), hvalue]
  have hflags (tag idz : Bool) : (psn tag ||| if (idz && !tag) = true then 1 else 0) = if tag = true then 2 else if idz = true then 1 else 0 := by
    cases tag <;> cases idz <;> rfl
  rw [gResult, hflags, State.landAfter, State.land, State.div, State.engine, heng]
  rfl

/-- An integer slot whose predicate holds puts its result into flight. -/
theorem run_intSlot {e : IntSlot} (he : e ∈ intSlots) {s : State} (heng : s.curEng = .cc) {sl : Slot} (hp : evalPred s.cur.cc sl.spred = true)
    (off k : Nat) : ∃ m, slotSems[e.op8]? = some m ∧ m.run ⟨off, 0, k, 0⟩ sl s = .ok (s.flies [e.landing sl off 0 s]) := by
  obtain ⟨f, hsem, hf⟩ := intSlots_run e he
  exact ⟨_, hsem, (if_pos hp).trans (IntSlot.act_eq hf heng sl off k)⟩

theorem semNop_run (c : Ctx) (sl : Slot) (s : State) : semNop.run c sl s = .ok s := by
  rw [SlotSem.run]
  split <;> rfl

/-- A NOP in a bundle changes nothing. -/
theorem runSlots_nop (c : Ctx) (k : Nat) (sl : Slot) (d : List (Nat × Nat × Slot)) (s : State) :
    runSlots c ((k, 0, sl) :: d) s = runSlots c d s := by
  have hsem : slotSems[0]? = some semNop := rfl
  rw [runSlots, hsem]
  simp only [semNop_run]

/-- An integer slot in a bundle puts its result into flight, and the slots behind it run. -/
theorem runSlots_intSlot {e : IntSlot} (he : e ∈ intSlots) {s : State} (heng : s.curEng = .cc) {sl : Slot}
    (hp : evalPred s.cur.cc sl.spred = true) (off k : Nat) (d : List (Nat × Nat × Slot)) :
    runSlots ⟨off, 0, 0, 0⟩ ((k, e.op8, sl) :: d) s = runSlots ⟨off, 0, 0, 0⟩ d (s.flies [e.landing sl off 0 s]) := by
  obtain ⟨m, hsem, hrun⟩ := run_intSlot he heng hp off k
  rw [runSlots, hsem]
  simp only [hrun]

theorem intSlots_op8 : ∀ e ∈ intSlots, e.op8 ≠ 0 ∧ e.op8 ≠ 0x54 ∧ e.op8 ≠ 0x55 := by
  simp [intSlots]

/-- Integer slots and NOPs, run one after another, put the results that the first of them would see into flight in their order. -/
theorem runSlots_intSlots {off : Nat} (k : Nat) {d : List (Nat × Slot)} {l : List (IntSlot × Slot)} {s : State} (heng : s.curEng = .cc)
    (hl : ∀ e ∈ l, e.1 ∈ intSlots ∧ evalPred s.cur.cc e.2.spred = true) (hd : d.filter (fun e => e.1 ≠ 0) = l.map (fun e => (e.1.op8, e.2))) :
    runSlots ⟨off, 0, 0, 0⟩ (numbered k d) s = .ok (s.flies (l.mapIdx fun n e => e.1.landing e.2 off n s)) := by
  induction d generalizing k l s with
  | nil =>
    obtain rfl := List.map_eq_nil_iff.mp hd.symm
    exact congrArg Except.ok s.flies_nil.symm
  | cons x d ih =>
    obtain ⟨op8, sl⟩ := x
    by_cases hop : op8 = 0
    · subst hop
      rw [numbered, runSlots_nop]
      exact ih (k + 1) heng hl (by simpa using hd)
    · rw [List.filter_cons_of_pos (by simpa using hop)] at hd
      obtain ⟨e, l, rfl, hhead, htail⟩ := List.map_eq_cons_iff.mp hd.symm
      obtain ⟨rfl, rfl⟩ := Prod.mk.inj hhead
      obtain ⟨⟨he, hp⟩, hl⟩ := List.forall_mem_cons.mp hl
      rw [numbered, runSlots_intSlot he heng hp, ih (k + 1) (s := s.flies _) heng (by rwa [State.cc_flies]) htail.symm, State.flies_flies]
      simp only [IntSlot.landing_flies, List.mapIdx_cons, List.length_singleton, List.singleton_append, Nat.add_comm 1]

/-- A bundle whose slots make no check of the state has no fault before it runs. -/
theorem bundleRule_numbered {d : List (Nat × Slot)} {s : State} (h : ∀ e ∈ d, ∀ m, slotSems[e.1]? = some m → m.rule e.2 s = none) (k : Nat) :
    bundleRule s (numbered k d) = none := by
  induction d generalizing k with
  | nil => rfl
  | cons x d ih =>
    obtain ⟨hx, hd⟩ := List.forall_mem_cons.mp h
    have hnone : (slotSems[x.1]?.bind fun m => m.rule x.2 s) = none := Option.bind_eq_none_iff.mpr hx
    rw [numbered, bundleRule, hnone]
    exact ih hd (k + 1)

theorem slotOrder_numbered {d : List (Nat × Slot)} (h : ∀ e ∈ d, e.1 ≠ 0x54 ∧ e.1 ≠ 0x55) (k : Nat) :
    slotOrder (numbered k d) = numbered k d := by
  have hearly : ∀ x ∈ numbered k d, ¬(x.2.1 = 0x54 ∨ x.2.1 = 0x55) := by
    induction d generalizing k with
    | nil => exact List.forall_mem_nil _
    | cons x d ih =>
      obtain ⟨hx, hd⟩ := List.forall_mem_cons.mp h
      exact List.forall_mem_cons.mpr ⟨not_or.mpr hx, ih hd (k + 1)⟩
  have hsome : (numbered k d).filter (fun x => !(x.2.1 = 0x54 || x.2.1 = 0x55)) = numbered k d :=
    List.filter_eq_self.mpr fun x hx => by simpa using hearly x hx
  have hnone : (numbered k d).filter (fun x => x.2.1 = 0x54 || x.2.1 = 0x55) = [] :=
    List.filter_eq_nil_iff.mpr fun x hx => by simpa using hearly x hx
  change (numbered k d).filter (fun x => !(x.2.1 = 0x54 || x.2.1 = 0x55)) ++
    (numbered k d).filter (fun x => x.2.1 = 0x54 || x.2.1 = 0x55) = _
  rw [hsome, hnone, List.append_nil]

/-- A slot of a bundle of integer slots and NOPs is one of them. -/
theorem mem_intSlots {d : List (Nat × Slot)} {l : List (IntSlot × Slot)} (hl : ∀ e ∈ l, e.1 ∈ intSlots)
    (hd : d.filter (fun e => e.1 ≠ 0) = l.map (fun e => (e.1.op8, e.2))) : ∀ x ∈ d, x.1 = 0 ∨ ∃ e ∈ intSlots, x.1 = e.op8 := by
  intro x hx
  refine or_iff_not_imp_left.mpr fun hop => ?_
  have hmem : x ∈ l.map (fun e => (e.1.op8, e.2)) := hd ▸ List.mem_filter.mpr ⟨hx, by simpa using hop⟩
  obtain ⟨e, he, rfl⟩ := List.mem_map.mp hmem
  exact ⟨e.1, hl e he, rfl⟩

/-- Neither a NOP nor an integer slot checks the state before it runs. -/
theorem rule_intSlot {op8 : Nat} (h : op8 = 0 ∨ ∃ e ∈ intSlots, op8 = e.op8) (sl : Slot) (s : State) :
    ∀ m, slotSems[op8]? = some m → m.rule sl s = none := by
  rcases h with rfl | ⟨e, he, rfl⟩
  · rintro _ ⟨⟩
    rfl
  · obtain ⟨f, hsem, -⟩ := intSlots_run e he
    intro m hm
    obtain rfl := Option.some.inj (hsem.symm.trans hm)
    rfl

theorem State.cc_modCur (s : State) {f : Cell → Cell} (hf : ∀ x, (f x).cc = x.cc) : (s.modCur f).cur.cc = s.cur.cc :=
  (congrArg Cell.cc (State.cell_setCell_self s s.curCell (f s.cur))).trans (hf _)

theorem State.cc_ccBegun_bndl (s : State) (b : Bundle) (off stamp : Nat) : (s.ccBegun (.bndl b) off stamp).cur.cc = s.cur.cc := by
  have hdep : isDeprecated (.bndl b) = false := rfl
  simp only [State.ccBegun, State.beginRecord, hdep, Bool.false_eq_true, if_false]
  rw [State.cc_modCur, State.setEngine, State.cc_modCur]
  · rfl
  · exact fun _ => rfl
  · exact fun _ => rfl

theorem exec_bndl_runs {b : Bundle} {l : List (Nat × Slot)} {s t : State} {off : Nat} (h : s.CcIssues b.stamp.toNat off)
    (hp : evalPred s.cur.cc b.pred = true) (hb : decodeBundle b = .ok l) (hr : bundleRule (s.onEngine .cc) (numbered 0 l) = none)
    (ht : runSlots ⟨off, 0, 0, 0⟩ (slotOrder (numbered 0 l)) (s.ccBegun (.bndl b) off b.stamp.toNat) = .ok t) :
    exec (.bndl b) s = .next t := by
  have hbad : bundleBad b (s.onEngine .cc) = none := by rw [bundleBad, hb]; exact hr
  have heffect : bundleEffect b ⟨off, 0, 0, 0⟩ (s.ccBegun (.bndl b) off b.stamp.toNat) = .ok t := by
    rw [bundleEffect, State.cc_ccBegun_bndl, if_pos hp, bodyBndl, hb]
    exact ht
  change execBndl b s = _
  rw [execBndl, hbad]
  exact congrArg Host.Outcome.next (issue_ccIssues_ok h heffect)

theorem runSlots_of_slotsRun {off : Nat} {l : List (Nat × Nat × Slot)} {s t : State} (h : SlotsRun off l s t) :
    runSlots ⟨off, 0, 0, 0⟩ l s = .ok t := by
  induction l generalizing s with
  | nil => exact congrArg Except.ok h.symm
  | cons x l ih =>
    obtain ⟨k, op8, sl⟩ := x
    obtain ⟨m, u, hm, hrun, hrest⟩ := h
    rw [runSlots, hm]
    simp only [hrun]
    exact ih hrest

theorem bundleCompletes : BundleCompletes := fun _ _ _ _ _ h hp hb hr ht => exec_bndl_runs h hp hb hr (runSlots_of_slotsRun ht)

theorem bundleReadsAtIssue : BundleReadsAtIssue := by
  intro b d l s off h hp hl hb hd u
  have hslots := mem_intSlots (fun e he => (hl e he).1) hd
  have hrule : bundleRule (s.onEngine .cc) (numbered 0 d) = none :=
    bundleRule_numbered (fun x hx => rule_intSlot (hslots x hx) x.2 _) 0
  have horder : slotOrder (numbered 0 d) = numbered 0 d := by
    refine slotOrder_numbered (fun x hx => ?_) 0
    rcases hslots x hx with h0 | ⟨e, he, hop⟩
    · simp [h0]
    · exact hop ▸ (intSlots_op8 e he).2
  have hcc : u.cur.cc = s.cur.cc := s.cc_ccBegun_bndl b off b.stamp.toNat
  have hruns : runSlots ⟨off, 0, 0, 0⟩ (slotOrder (numbered 0 d)) u = .ok (u.flies (l.mapIdx fun n e => e.1.landing e.2 off n u)) := by
    rw [horder]
    exact runSlots_intSlots 0 rfl (by rwa [hcc]) hd
  exact ⟨_, exec_bndl_runs h hp hb hrule hruns, u.becomes_flies _⟩

/-- Settles O28: both parts are the run of the bundle's slots; an integer slot adds only to the flight, so the slots behind it still see the
registers as they stand at issue. -/
theorem bundlesComplete : Obligations.BundlesComplete := ⟨bundleCompletes, bundleReadsAtIssue⟩

end Sys2Proof.Machine
end

section
/-! SUPPORT. Integer, move, compare and predicate slots on their own (Slots.lean): the meaning that each list of the statements shares, slot
by slot; they settle O1, O2 and O3. -/

namespace Sys2Proof.Machine

/-! ## Integer slots (R215, R220, R221) -/

/-- An integer slot means on its own what it means in a bundle. -/
theorem exec_intSlot : ∀ e ∈ intSlots, ∃ m, slotSems[e.op8]? = some m ∧ ∀ sl s, exec (e.ctor sl) s = slotAlone m sl s := by
  refine List.forall_iff_forall_mem.mp ?_
  unfold intSlots
  and_intros <;> exact ⟨_, rfl, fun _ _ => rfl⟩

/-- Settles O1: the slot is the one the list of meanings holds at its OP8, and its effect is its one result in flight. -/
theorem integerSlotsComplete : Obligations.IntegerSlotsComplete := by
  intro e he sl s h r w b v tag
  obtain ⟨f, hsem, hf⟩ := intSlots_run e he
  obtain ⟨m, hm, hexec⟩ := exec_intSlot e he
  obtain rfl := Option.some.inj (hsem.symm.trans hm)
  rw [hexec]
  exact ⟨_, slotAlone_ok h rfl (IntSlot.act_eq hf rfl sl s.ccOff 0),
    State.becomes_setCell (u := (s.onEngine .cc).fresh) _ rfl rfl rfl⟩

/-! ## Moves and extensions (R215, R222, R223) -/

/-- A slot of the list has a meaning with no check of the state, whose effect is a result one cycle later. -/
def MoveSlot.Runs (e : MoveSlot) : Prop :=
  ∃ act, (∀ sl s, exec (e.ctor sl) s = slotAlone { op8 := e.op8, act := act } sl s) ∧
    ∀ c sl s, act c sl s = .ok (gResult c 1 sl.dst (e.val sl s.cur.cc) (e.tag sl s.cur.cc) false s)

/-- A number that is the low bits of a word, extended. -/
theorem extendTo64_toNat {w n : Nat} (hw : 0 < w) (sgn : Bool) (a : BitVec n) :
    extendTo64 sgn w a.toNat = if sgn then (a.setWidth w).signExtend 64 else (a.setWidth w).setWidth 64 := by
  rw [extendTo64_eq hw, BitVec.ofNat_toNat]

/-- A field of a word, extended (R222). -/
theorem extendTo64_fieldOf {w n : Nat} (hw : 0 < w) (sgn : Bool) (a : BitVec n) (lo : Nat) :
    extendTo64 sgn w (fieldOf a.toNat lo w) =
      if sgn then ((a >>> lo).setWidth w).signExtend 64 else ((a >>> lo).setWidth w).setWidth 64 := by
  have hfield : BitVec.ofNat w (fieldOf a.toNat lo w) = (a >>> lo).setWidth w := by
    apply BitVec.eq_of_toNat_eq
    simp [fieldOf, Nat.shiftRight_eq_div_pow]
  rw [extendTo64_eq hw, hfield]

/-- A field of a word replaced, as a choice between the word and the shifted value by a mask (R222). -/
theorem ofNat_putField_mask (a d : Word) {lo len : Nat} (hlo : lo < 64) (hlen : len < 64) :
    BitVec.ofNat 64 (putField d.toNat lo (min (len + 1) (64 - lo)) a.toNat) =
      (d &&& ~~~((BitVec.allOnes 64 >>> (63 - len)) <<< lo)) ||| ((a <<< lo) &&& ((BitVec.allOnes 64 >>> (63 - len)) <<< lo)) := by
  refine BitVec.eq_of_getLsbD_eq fun i hi => ?_
  rw [BitVec.getLsbD_ofNat, testBit_putField]
  simp only [BitVec.getLsbD_or, BitVec.getLsbD_and, BitVec.getLsbD_not, BitVec.getLsbD_shiftLeft, BitVec.getLsbD_ushiftRight,
    BitVec.getLsbD_allOnes, BitVec.testBit_toNat, hi, decide_true, Bool.true_and]
  by_cases hbelow : i < lo
  · rw [if_neg (by omega)]
    simp [hbelow]
  · by_cases hin : i < lo + (len + 1)
    · have hmask : 63 - len + (i - lo) < 64 := by omega
      rw [if_pos ⟨by omega, by omega⟩]
      simp [hbelow, hmask]
    · have hmask : ¬ 63 - len + (i - lo) < 64 := by omega
      rw [if_neg (by omega)]
      simp [hbelow, hmask]

theorem ofNat_div_pow {n : Nat} (b : BitVec n) (lo w : Nat) : BitVec.ofNat w (b.toNat / 2 ^ lo) = b.extractLsb' lo w := by
  apply BitVec.eq_of_toNat_eq
  rw [BitVec.extractLsb'_toNat, Nat.shiftRight_eq_div_pow, BitVec.toNat_ofNat]

/-- The update of a CRC by n bytes of a word is the update by the list of them (R222). -/
theorem crcNat_toNat (v : Word) (n : Nat) : ∀ (c : BitVec 32) (k : Nat),
    crcNat c (v.toNat / 2 ^ (8 * k)) n = crcBytes c ((List.range' k n).map fun j => v.extractLsb' (8 * j) 8) := by
  induction n with
  | zero => exact fun _ _ => rfl
  | succ n ih =>
    intro c k
    have hpow : 2 ^ (8 * (k + 1)) = 2 ^ (8 * k) * 256 := Nat.pow_add 2 (8 * k) 8
    have hnext : v.toNat / 2 ^ (8 * k) / 256 = v.toNat / 2 ^ (8 * (k + 1)) := by
      rw [Nat.div_div_eq_div_mul, hpow]
    rw [crcNat, ofNat_div_pow, hnext, ih]
    rfl

theorem crcNat_word (c : BitVec 32) (v : Word) (n : Nat) :
    crcNat c v.toNat n = crcBytes c ((List.range n).map fun j => v.extractLsb' (8 * j) 8) := by
  rw [List.range_eq_range', ← crcNat_toNat, Nat.mul_zero, Nat.pow_zero, Nat.div_one]

/-- One half of a word above another (R223). -/
theorem append_extractLsb' (a : BitVec 32) (b : Word) :
    a ++ b.extractLsb' 0 32 = (a.setWidth 64 <<< 32) ||| (b.setWidth 32).setWidth 64 := by
  refine BitVec.eq_of_getLsbD_eq fun i hi => ?_
  simp only [BitVec.getLsbD_append, BitVec.getLsbD_extractLsb', BitVec.getLsbD_or, BitVec.getLsbD_shiftLeft, BitVec.getLsbD_setWidth,
    Nat.zero_add]
  by_cases hlo : i < 32
  · simp [hlo, hi]
  · have hhi : i - 32 < 64 := by omega
    simp [hlo, hi, hhi]

/-- The choice of MOV by CLS (R223). -/
theorem actMov_eq (c : Ctx) (sl : Slot) (s : State) : actMov c sl s =
    let r := s.cur.cc
    .ok (gResult c 1 sl.dst
      (if sl.imm32.toNat % 4 = 0 then r.greg sl.sa
        else if sl.imm32.toNat % 4 = 1 then (if r.pred sl.sa.val then 1 else 0) else r.d[sl.sa.val % 4].setWidth 64)
      (sl.imm32.toNat % 4 = 0 && r.gtag sl.sa) false s) := by
  unfold actMov
  split
  next h => simp only [h, if_true, decide_true, Bool.true_and]
  next h => simp [h]
  next h0 h1 =>
    simp only [if_neg h0, if_neg h1, decide_eq_false h0, Bool.false_and]
    rfl

theorem moveSlots_run : ∀ e ∈ moveSlots, e.Runs := by
  simp only [moveSlots, List.forall_mem_cons]
  refine ⟨⟨actSext, fun _ _ => rfl, fun c sl s => ?sext⟩, ⟨actBfex, fun _ _ => rfl, fun c sl s => ?bfex⟩,
    ⟨actBfin, fun _ _ => rfl, fun c sl s => ?bfin⟩, ⟨actCrc32, fun _ _ => rfl, fun c sl s => ?crc32⟩,
    ⟨actMovi, fun _ _ => rfl, fun _ _ _ => rfl⟩, ⟨actMovh, fun _ _ => rfl, fun c sl s => ?movh⟩,
    ⟨actMov, fun _ _ => rfl, actMov_eq⟩, ⟨actSel, fun _ _ => rfl, fun c sl s => ?sel⟩, List.forall_mem_nil _⟩
  case sext => rw [actSext, extendTo64_toNat (szBits_pos sl.sz), if_pos rfl]
  case bfex => rw [actBfex, bfLen, bfLo, extendTo64_fieldOf (Nat.succ_pos _)]
  case bfin => rw [actBfin, bfLen, bfLo, ofNat_putField_mask _ _ (Nat.mod_lt _ (by decide)) (Nat.mod_lt _ (by decide))]
  case crc32 => rw [actCrc32, crcNat_word, ← BitVec.setWidth_eq_extractLsb' (by decide)]
  case movh => rw [actMovh, append_extractLsb']
  case sel => rw [actSel, extendTo64_toNat (szBits_pos sl.sz), if_neg Bool.false_ne_true]

/-- Settles O2: each slot of the list is one result in flight. -/
theorem moveSlotsComplete : Obligations.MoveSlotsComplete := by
  intro e he sl s h tag
  obtain ⟨act, hexec, hact⟩ := moveSlots_run e he
  rw [hexec, ← Nat.one_mul s.ccDiv]
  refine slotAlone_lands h rfl ?_
  exact (hact ..).trans (congrArg Except.ok (gResult_landAfter ..))

/-! ## Compares and predicates (R215, R224) -/

/-- A slot of the list has a meaning with no check of the state, whose effect is a truth value one cycle later. -/
def PredSlot.Runs (e : PredSlot) : Prop :=
  ∃ act, (∀ sl s, exec (e.ctor sl) s = slotAlone { op8 := e.op8, act := act } sl s) ∧
    ∀ c sl s, act c sl s = .ok (pResult c sl.dst (e.val sl s.cur.cc) (e.tag sl s.cur.cc) s)

/-- A compare of numbers that is a compare of vectors on every width. -/
theorem cmpAct_eq {f : Nat → Nat → Nat → Bool} {g : (w : Nat) → BitVec w → BitVec w → Bool}
    (h : ∀ w, 0 < w → ∀ a b : BitVec w, f w a.toNat b.toNat = g w a b) (c : Ctx) (sl : Slot) (s : State) :
    cmpAct f c sl s = .ok (pResult c sl.dst (comparing g sl s.cur.cc) (comparedTag sl s.cur.cc) s) := by
  rw [cmpAct, ← BitVec.toNat_setWidth, ← BitVec.toNat_setWidth, h _ (szBits_pos sl.sz)]
  rfl

section
variable {w : Nat}

theorem relEq_toNat (a b : BitVec w) : relEq w a.toNat b.toNat = (a == b) := by
  simp [relEq, BitVec.toNat_inj, Bool.beq_eq_decide_eq]

theorem relNe_toNat (a b : BitVec w) : relNe w a.toNat b.toNat = (a != b) := by
  simp [relNe, bne, Bool.beq_eq_decide_eq, BitVec.toNat_inj]

theorem relLts_toNat (hw : 0 < w) (a b : BitVec w) : relLts w a.toNat b.toNat = a.slt b := by
  rw [relLts, signedOf_toNat hw, signedOf_toNat hw, BitVec.slt]

theorem relLes_toNat (hw : 0 < w) (a b : BitVec w) : relLes w a.toNat b.toNat = a.sle b := by
  rw [relLes, signedOf_toNat hw, signedOf_toNat hw, BitVec.sle]

end

theorem predSlots_run : ∀ e ∈ predSlots, e.Runs := by
  simp only [predSlots, List.forall_mem_cons]
  exact ⟨⟨actCmpeq, fun _ _ => rfl, cmpAct_eq fun _ _ => relEq_toNat⟩, ⟨actCmpne, fun _ _ => rfl, cmpAct_eq fun _ _ => relNe_toNat⟩,
    ⟨actCmplts, fun _ _ => rfl, cmpAct_eq fun _ => relLts_toNat⟩, ⟨actCmples, fun _ _ => rfl, cmpAct_eq fun _ => relLes_toNat⟩,
    ⟨actCmpltn, fun _ _ => rfl, cmpAct_eq fun _ _ _ _ => rfl⟩, ⟨actCmplen, fun _ _ => rfl, cmpAct_eq fun _ _ _ _ => rfl⟩,
    ⟨actTstb, fun _ _ => rfl, cmpAct_eq fun _ _ _ _ => rfl⟩, ⟨actPand, fun _ _ => rfl, fun _ _ _ => rfl⟩,
    ⟨actPor, fun _ _ => rfl, fun _ _ _ => rfl⟩, ⟨actPxor, fun _ _ => rfl, fun _ _ _ => rfl⟩,
    ⟨actPnot, fun _ _ => rfl, fun _ _ _ => rfl⟩, ⟨actPmov, fun _ _ => rfl, fun _ _ _ => rfl⟩, List.forall_mem_nil _⟩

/-- Settles O3: each slot of the list is one truth value in flight, false where a compare reads poison. -/
theorem predicateSlotsComplete : Obligations.PredicateSlotsComplete := by
  intro e he sl s h tag
  obtain ⟨act, hexec, hact⟩ := predSlots_run e he
  rw [hexec, ← Nat.one_mul s.ccDiv]
  exact slotAlone_lands h rfl (hact ..)

end Sys2Proof.Machine
end

section
/-! SUPPORT. CHECK, TRAP and the descriptor slots (Sync.lean), NOPR and what the decoder rejects in its place (Control.lean, Decode.lean); they
settle O9, O17 and O53. -/

namespace Sys2Proof.Machine

/-- A slot whose effect finds a fault takes it, and does nothing else. -/
theorem slotAlone_takes_fault {m : SlotSem} {sl : Slot} {s : State} {f : Flt} (h : s.SlotActs m.op8 sl)
    (hr : m.rule sl (s.onEngine .cc) = none) (ht : m.act ⟨s.ccOff, 0, 0, 0⟩ sl (s.onEngine .cc) = .error f) :
    ∃ t, slotAlone m sl s = .next t ∧ s.TakesFault t .cc s.ccOff f :=
  ⟨_, slotAlone_error h hr ht, s.takesFault_fault .cc .cc s.ccOff none f⟩

/-! ## CHECK and TRAP (R227, R356, R366) -/

/-- The poison that CHECK looks at: its register's, and with STICKY the flag PSN. -/
def checkBad (sl : Slot) (r : Cc) : Bool :=
  (if sl.imm32.getLsbD 0 then r.bTag[Fin.ofNat 4 sl.sa.val] != 0 else r.gtag sl.sa) || (sl.imm32.getLsbD 1 && r.cflags.getLsbD 1)

theorem actCheck_passes {sl : Slot} {s : State} (h : checkBad sl s.cur.cc = false) (c : Ctx) : actCheck c sl s = .ok s := by
  obtain ⟨htag, hsticky⟩ := Bool.or_eq_false_iff.mp h
  simp only [actCheck, htag, hsticky, Bool.false_eq_true, if_false]

/-- A poisoned register is CAUSE 0 of the poison fault, the flag CAUSE 1. -/
theorem actCheck_faults {sl : Slot} {s : State} (h : checkBad sl s.cur.cc = true) (c : Ctx) :
    ∃ cause, actCheck c sl s = .error (poisonFlt cause sl.sa.val (sl.imm32.getLsbD 0)) := by
  by_cases htag : (if sl.imm32.getLsbD 0 then s.cur.cc.bTag[Fin.ofNat 4 sl.sa.val] != 0 else s.cur.cc.gtag sl.sa) = true
  · exact ⟨0, if_pos htag⟩
  · have hsticky := (Bool.or_eq_true_iff.mp h).resolve_left htag
    exact ⟨1, (if_neg htag).trans (if_pos hsticky)⟩

/-- Settles O9: CHECK has one outcome for each value of the poison it looks at, TRAP one outcome. -/
theorem checkAndTrap : Obligations.CheckAndTrap := by
  refine fun sl s => ⟨fun h hbad => ?passes, fun h hbad => ?faults, fun h => ?trap⟩
  case passes => exact slotAlone_unchanged (m := semCheck) h rfl (actCheck_passes (s := s.onEngine .cc) hbad ⟨s.ccOff, 0, 0, 0⟩)
  case faults =>
    obtain ⟨cause, hact⟩ := actCheck_faults (s := s.onEngine .cc) hbad ⟨s.ccOff, 0, 0, 0⟩
    obtain ⟨t, ht, hfault⟩ := slotAlone_takes_fault (m := semCheck) h rfl hact
    exact ⟨t, _, ht, hfault, rfl⟩
  case trap =>
    obtain ⟨t, ht, hfault⟩ := slotAlone_takes_fault (m := semTrap) h rfl rfl
    exact ⟨t, _, ht, hfault, rfl, rfl, rfl⟩

/-! ## Privileged and descriptor slots (R239, R240) -/

theorem privFlt_none {s : State} (h : (s.gangOf s.curCell).asid = 0) (op8 bit : Nat) : privFlt s op8 bit = none := if_pos h

theorem privFlt_some {s : State} (h : (s.gangOf s.curCell).asid ≠ 0) (op8 bit : Nat) :
    privFlt s op8 bit = some ⟨6, 0, illSynd (s.gangOf s.curCell).encgen 1 bit op8, 0, false, 0⟩ := if_neg h

/-- What an ICINV leaves in each cell: when its text cache is to be cleared (R239). -/
theorem cell_actIcinv {c : Ctx} {sl : Slot} {s t : State} (h : actIcinv c sl s = .ok t) (d : CellId) :
    t.cell d = { s.cell d with inval := (s.cell d).inval ++
      [if (s.cell d).gang = s.gidOf s.curCell && (s.cell d).busy then some (s.now + (s.gangOf s.curCell).dstall) else none] } := by
  obtain rfl := Except.ok.inj h
  have hmap (f : Cell → Cell) : (s.cells.map f)[d] = f (s.cell d) := Vector.getElem_map f d.isLt
  refine (hmap _).trans ?_
  by_cases hd : ((s.cell d).gang = s.gidOf s.curCell && (s.cell d).busy) = true
  · simp only [hd, if_true]
    rfl
  · simp only [hd, if_false, Bool.false_eq_true]

theorem tdTensor_found {sl : Slot} {r : Cc} (h : r.gtag sl.sa = false) :
    tdTensor sl r = .ok (BitVec.ofNat 12 ((r.greg sl.sa).toNat + sl.imm32.toNat)) := by
  simp only [tdTensor, h, Bool.false_eq_true, if_false]

/-- TDWR is an operation on path YP, with the poison flag of a poisoned value (R240). -/
theorem actTdwr_found {sl : Slot} {s : State} (h : s.cur.cc.gtag sl.sa = false) :
    let tag := s.cur.cc.gtag sl.dst
    actTdwr ⟨s.ccOff, 0, 0, 0⟩ sl s = .ok ((s.fresh.setCell s.curCell { s.cur with
      ord := s.ypWith (.tdwr (BitVec.ofNat 12 ((s.cur.cc.greg sl.sa).toNat + sl.imm32.toNat)) (tdWord sl)
        (if tag then 0 else s.cur.cc.greg sl.dst)) [] 3 }).flagPoison s.ccOff tag) := by
  intro tag
  simp only [actTdwr, tdTensor_found h, ypPush_eq]
  rfl

theorem descriptorSlotsComplete : DescriptorSlotsComplete := by
  intro sl s g tid w tag
  refine ⟨fun h hasid => ?icinv, fun h htag hq => ?tdrd, fun h htag hpriv => ?tdwr⟩
  case icinv =>
    have hrule : semIcinv.rule sl (s.onEngine .cc) = none := privFlt_none hasid _ _
    refine ⟨_, slotAlone_ok (m := semIcinv) h hrule rfl, rfl, fun d => ?_⟩
    exact cell_actIcinv (c := ⟨s.ccOff, 0, 0, 0⟩) (sl := sl) (s := s.onEngine .cc) rfl d
  case tdrd =>
    refine slotAlone_returns (m := semTdrd) h rfl hq ?_
    have htensor := tdTensor_found (sl := sl) (r := (s.onEngine .cc).cur.cc) htag
    simp only [semTdrd, actTdrd, htensor]
    rfl
  case tdwr =>
    have hrule : semTdwr.rule sl (s.onEngine .cc) = none := by
      rcases hpriv with hw | hasid
      · exact if_neg hw
      · exact ite_eq_right_iff.mpr fun _ => privFlt_none (s := s.onEngine .cc) hasid _ _
    exact ⟨_, slotAlone_ok (m := semTdwr) h hrule (actTdwr_found (s := s.onEngine .cc) htag),
      State.becomes_flagPoison (u := (s.onEngine .cc).fresh) _ _ _ rfl rfl rfl rfl rfl⟩

theorem privilegedSlotsFault : PrivilegedSlotsFault := by
  intro sl s hasid
  refine ⟨fun hc => slotAlone_takes_rule (m := semIcinv) hc (privFlt_some (s := s.onEngine .cc) hasid _ _), fun hc hw => ?_⟩
  exact slotAlone_takes_rule (m := semTdwr) hc ((if_pos hw).trans (privFlt_some (s := s.onEngine .cc) hasid _ _))

/-- Settles O17: the three slots where their checks let them pass, and the two that ask for ASID 0 where it is another. -/
theorem descriptorSlots : Obligations.DescriptorSlots := ⟨descriptorSlotsComplete, privilegedSlotsFault⟩

/-! ## NOPR (R219) -/

/-- Beginning a NOPR moves the control core past it and enters the signature: one write to the cell. -/
theorem State.ccBegun_nopr (s : State) (stamp : BitVec 24) (off : Nat) :
    let q := s.cur.engine .cc
    let x := s.cur.setEngine .cc { q with pc := some (off + 1), exp := none, last := some (s.now + max q.div 1 - 1) }
    s.ccBegun (.nopr stamp) off stamp.toNat = (s.onEngine .cc).setCell s.curCell { x with
      sq := { x.sq with sigPend := sigPut 0 (sigEntry (.nopr stamp) stamp.toNat) x.sq.sigPend } } := by
  intro q x
  have hdep : isDeprecated (.nopr stamp) = false := rfl
  have hcc : Eng.cc ≠ Eng.se := by decide
  simp only [State.ccBegun, State.beginRecord, hdep, State.setEngine, State.modCur_eq, State.setCell_curCell, State.cell_setCell_self,
    State.setCell_setCell, State.onEngine_curEng, if_neg hcc, Nat.one_mul, Nat.le_refl, if_true, Bool.false_eq_true,
    if_false]
  rfl

/-- The control records' decoder reads no NOPR where one of W2 to W7 is set. -/
theorem decodeControl_nopr_rejects {stamp w2 w3 w4 w5 w6 w7 : Nat}
    (h : w2 ≠ 0 ∨ w3 ≠ 0 ∨ w4 ≠ 0 ∨ w5 ≠ 0 ∨ w6 ≠ 0 ∨ w7 ≠ 0) : ∃ e, decodeControl 7 stamp w2 w3 w4 w5 w6 w7 = .error e := by
  simp only [decodeControl]
  split
  next => exact ⟨_, rfl⟩
  next hrest =>
    split
    next => exact ⟨_, rfl⟩
    next hhi =>
      simp [firstBad] at hrest hhi
      omega

/-- A word of NOPR's engine and OP with a bit set in MOD, in PRED or in W1 to W7 is rejected as a record. -/
theorem decodeWide_nopr_rejects {w md stamp pn inv en rsv w1 w2 w3 w4 w5 w6 w7 : Nat}
    (hw : unpack recWidths w = [0, 7, md, stamp, pn, inv, en, rsv, w1, w2, w3, w4, w5, w6, w7])
    (h : md ≠ 0 ∨ pn + inv + en ≠ 0 ∨ w1 ≠ 0 ∨ w2 ≠ 0 ∨ w3 ≠ 0 ∨ w4 ≠ 0 ∨ w5 ≠ 0 ∨ w6 ≠ 0 ∨ w7 ≠ 0) :
    ∃ r, decodeWide 4 w = .error r ∧ r.slot = none := by
  rw [decodeWide, hw]
  dsimp only
  split
  next => exact ⟨_, rfl, rfl⟩
  next =>
    split
    next => exact ⟨_, rfl, rfl⟩
    next =>
      rw [if_neg (by decide), if_pos (by decide)]
      split_ifs with hmd hpred hnest
      case neg =>
        have hword : w2 ≠ 0 ∨ w3 ≠ 0 ∨ w4 ≠ 0 ∨ w5 ≠ 0 ∨ w6 ≠ 0 ∨ w7 ≠ 0 := by simp only [bne_iff_ne] at hmd hpred hnest; omega
        obtain ⟨e, he⟩ := decodeControl_nopr_rejects (stamp := stamp) hword
        rw [he]
        exact ⟨_, rfl, rfl⟩
      all_goals exact ⟨_, rfl, rfl⟩

theorem decode_nopr_rejects {w : RecordBits} (hop : w.toNat % 2048 = 28)
    (h : w.extractLsb' 11 5 ≠ 0 ∨ w.extractLsb' 40 6 ≠ 0 ∨ w.toNat / 2 ^ 64 ≠ 0) : ∃ r, decode 4 w.toNat = .error r ∧ r.slot = none := by
  have hlt := w.isLt
  simp only [ne_eq, ← toNat_eq_zero_iff, toNat_extractLsb'_eq_fieldOf, fieldOf] at h
  generalize w.toNat = n at hop h hlt ⊢
  have heng : n % 2 ^ 2 = 0 := by omega
  have hopc : n / 2 ^ 2 % 2 ^ 9 = 7 := by omega
  rw [decode, if_pos rfl]
  refine decodeWide_nopr_rejects (by simp only [recWidths, headWidths, List.cons_append, List.nil_append, unpack, heng, hopc]; rfl) ?_
  rcases h with hmod | hpred | hwords
  · exact .inl (by omega)
  · have hdiv : n / 2 ^ 2 / 2 ^ 9 / 2 ^ 5 / 2 ^ 24 = n / 2 ^ 40 := by simp only [Nat.div_div_eq_div_mul]; rfl
    rw [hdiv]
    refine .inr (.inl fun hsum => hpred ?_)
    obtain ⟨hnum, hen⟩ := Nat.add_eq_zero_iff.mp hsum
    obtain ⟨hnum, hinv⟩ := Nat.add_eq_zero_iff.mp hnum
    omega
  · refine .inr (.inr ?_)
    omega

theorem step_record_of_reject {s : State} {c : CellId} {e : Eng} {w : RecordBits} {r : Reject} (ht : s.turn = .record c e)
    (hf : s.fetch c e = some w) (hd : decode (s.gangOf c).encgen w.toNat = .error r) :
    step s = .next (rejectRecord r (stampOf (s.gangOf c).encgen w.toNat) { s with turn := .auto, curCell := c, curEng := e }) := by
  rw [step_record_of_fetch ht hf]
  simp only [issueWord, hd]

/-- A record that the decoder rejects is walked past and takes the illegal-record fault, once its stamp has come (R215, R360). -/
theorem rejectRecord_takesFault {u : State} {r : Reject} {stamp off : Nat} (hr : r.slot = none) (hpc : u.engine.pc = some off)
    (hw : u.waits stamp = false) : ∃ f, (u.skipRecord off).TakesFault (rejectRecord r stamp u) u.curEng off f ∧ f.cls = 4 := by
  have hnow : (u.skipRecord off).now = u.now := State.now_setCell u u.curCell _ rfl
  refine ⟨rejectFlt (u.gangOf u.curCell).encgen u.curEng r, ?_, ?_⟩
  · have hfault := (u.skipRecord off).takesFault_fault u.curEng u.curEng off none (rejectFlt (u.gangOf u.curCell).encgen u.curEng r)
    rw [hnow] at hfault
    simp only [rejectRecord, hpc, Option.getD_some, hw, Bool.false_eq_true, if_false]
    exact hfault
  · simp only [rejectFlt, hr]

/-- Settles O53: a NOPR that issues is the beginning of its record; a word that is not quite one is rejected as a record. -/
theorem noprRule : Obligations.NoprRule := by
  refine ⟨fun s stamp off h => ?issues, fun w hop hset => ?rejected⟩
  case issues =>
    intro q x
    rw [exec_nopr_issues h, State.ccBegun_nopr]
    rfl
  case rejected =>
    obtain ⟨r, hdec, hslot⟩ := decode_nopr_rejects hop hset
    refine ⟨fun i hi => ?_, ?_⟩
    · rw [hdec] at hi
      cases hi
    · intro s c off ht hf hgen u hpc hw
      obtain ⟨f, hfault, hcls⟩ := rejectRecord_takesFault (r := r) hslot hpc hw
      refine ⟨_, f, step_record_of_reject ht hf (hgen ▸ hdec), ?_, hcls⟩
      rw [hgen]
      exact hfault

end Sys2Proof.Machine
end

section
/-! SUPPORT. The home agents (SyncPerform.lean) and the work of a Crema freeze (CremaOps.lean), one lemma for each event; they settle O42. -/

namespace Sys2Proof.Machine

/-! ## Stores keyed by a number -/

section
variable {α : Type} (l : List α)

theorem find?_filter_not (p : α → Bool) : (l.filter fun x => !p x).find? p = none :=
  List.find?_eq_none.mpr fun _ hx => by simpa using (List.mem_filter.mp hx).2

/-- A search finds the same where only what it does not look for is left out. -/
theorem find?_filter_of_imp {p q : α → Bool} (h : ∀ x, q x = true → p x = true) : (l.filter p).find? q = l.find? q := by
  rw [List.find?_filter]
  congr 1
  funext x
  cases hq : q x with
  | false => simp
  | true => simp [h x hq]

end

/-! ## Atomics on a routing counter (R95, R234) -/

/-- An atomic on w-bit numbers is R234's rule on vectors. -/
theorem atomStep_toNat {w : Nat} (hw : 0 < w) (o : AtOp) (sgn : Bool) (old v x : BitVec w) :
    BitVec.ofNat w (atomStep o w sgn old.toNat v.toNat x.toNat).1 = (atomRule o sgn old v x).1 ∧
      (atomStep o w sgn old.toNat v.toNat x.toNat).2 = (atomRule o sgn old v x).2 := by
  have hless (a b : BitVec w) : (if sgn then decide (signedOf w a.toNat < signedOf w b.toNat) else decide (a.toNat < b.toNat)) =
      if sgn then a.slt b else a.ult b := by
    rw [signedOf_toNat hw, signedOf_toNat hw, BitVec.slt, BitVec.ult]
  have hself (a : BitVec w) : BitVec.ofNat w a.toNat = a := by rw [BitVec.ofNat_toNat, BitVec.setWidth_eq]
  have hpick (b : Bool) : BitVec.ofNat w (if b then v.toNat else old.toNat) = if b then v else old := by
    cases b <;> exact hself _
  cases o with
  | add => exact ⟨ofNat_opAdd old v 0, rfl⟩
  | inc =>
    refine ⟨?_, rfl⟩
    simp only [atomStep, atomRule, BitVec.le_def]
    split
    · rfl
    · rw [BitVec.ofNat_add, hself]
      rfl
  | badd =>
    have hroom : (old.toNat ≤ x.toNat ∧ v.toNat ≤ x.toNat - old.toNat) ↔ old ≤ x ∧ v ≤ x - old :=
      and_congr_right fun h => by rw [BitVec.le_def, BitVec.toNat_sub_of_le h]
    by_cases h : old ≤ x ∧ v ≤ x - old
    · simp [atomStep, atomRule, h, hroom.mpr h, BitVec.ofNat_add]
    · simp only [atomStep, atomRule, Bool.and_eq_true, decide_eq_true_eq, hroom, if_neg h, and_true]
      exact hself old
  | cas =>
    by_cases h : old = x
    · simp [atomStep, atomRule, h]
    · simp [atomStep, atomRule, h, BitVec.toNat_inj]
  | swp => exact ⟨hself _, rfl⟩
  | min => simp only [atomStep, atomRule, hless, hpick, and_true]
  | max => simp only [atomStep, atomRule, hless, hpick, and_true]
  | and => exact ⟨ofNat_opAnd old v 0, rfl⟩
  | or => exact ⟨ofNat_opOr old v 0, rfl⟩
  | xor => exact ⟨ofNat_opXor old v 0, rfl⟩
  | snap => exact ⟨rfl, rfl⟩

theorem State.counter_putCounter_self (s : State) (a : BitVec 10) (n : Nat) (v : Word) :
    (s.putCounter a n v false).counter a n = (v, false) := by
  have hrest := find?_filter_not s.ctrs fun k => k.asid == a && decide (k.n = n)
  by_cases hv : v = 0
  · simp only [State.counter, State.putCounter, hv, decide_true, Bool.not_false, Bool.and_true, if_true, hrest]
  · simp only [State.counter, State.putCounter, hv, decide_false, Bool.false_and, Bool.false_eq_true, if_false, List.find?_append, hrest,
      Option.none_or]
    simp

theorem State.counter_putCounter_ne (s : State) {a b : BitVec 10} {n k : Nat} (h : b ≠ a ∨ k ≠ n) (v : Word) (tag : Bool) :
    (s.putCounter a n v tag).counter b k = s.counter b k := by
  have hkey {c : BitVec 10} {m : Nat} (hc : (c == b && decide (m = k)) = true) : (!(c == a && decide (m = n))) = true := by
    obtain ⟨rfl, rfl⟩ : c = b ∧ m = k := by simpa using hc
    simpa [or_iff_not_imp_left] using h
  have hrest := find?_filter_of_imp s.ctrs (q := fun e => e.asid == b && decide (e.n = k)) fun e => hkey (c := e.asid) (m := e.n)
  have hnew : ([⟨a, n, v, tag⟩] : List Counter).find? (fun e => e.asid == b && decide (e.n = k)) = none :=
    List.find?_eq_none.mpr fun e he hc => by
      obtain rfl := List.mem_singleton.mp he
      simpa using hkey hc
  by_cases hv : (decide (v = 0) && !tag) = true
  · simp only [State.counter, State.putCounter, if_pos hv, hrest]
  · simp only [State.counter, State.putCounter, if_neg hv, List.find?_append, hrest, hnew, Option.or_none]

theorem atomPerform_counter {s : State} {a : BitVec 10} {n : Nat} (h : (s.counter a n).2 = false) (die : Fin 2) (o : AtOp) (sgn : Bool)
    (val x : Word) :
    let r := atomRule o sgn (s.counter a n).1 val x
    s.atomPerform die o (.ctr a n) false sgn val x false = (s.putCounter a n r.1 false, (s.counter a n).1, r.2, false) := by
  intro r
  obtain ⟨hvalue, hst⟩ := atomStep_toNat (w := 64) (by decide) o sgn (s.counter a n).1 val x
  have hmod (y : Word) : y.toNat % 2 ^ 64 = y.toNat := Nat.mod_eq_of_lt y.isLt
  simp only [State.atomPerform, State.syncRead, State.syncWrite, h, Bool.false_eq_true, if_false, hmod, hvalue, hst, BitVec.ofNat_toNat,
    BitVec.setWidth_eq]
  rfl

/-- An atomic at its counter's home: the new value, the return through YQ, and the operation's end. -/
theorem exec_atomicPerform_counter {s : State} {c : CellId} {op : YOp} {o : AtOp} {a : BitVec 10} {n : Nat} {sgn : Bool} {val x off : Word}
    {tid : BitVec 12} (ho : (s.cell c).ypOp op.uid = some op) (hr : s.ypReady c op = true)
    (hk : op.kind = .atom o (.ctr a n) false sgn val x false tid off) (h : (s.counter a n).2 = false) :
    let r := atomRule o sgn (s.counter a n).1 val x
    exec (.atomicPerform c op.uid) s = .next ((((s.putCounter a n r.1 false).yqReturn c op.uid (s.counter a n).1 r.2 false).seReturn c op.uid
      (s.counter a n).1 false).dropYp c op.uid) := by
  intro r
  change execAtomicPerform c op.uid s = _
  simp only [execAtomicPerform, ho, hr, hk, Bool.not_true, Bool.false_eq_true, if_false, atomPerform_counter h]
  rfl

/-! ## Phasers (R231, R232) -/

theorem State.phaser_key (s : State) (a : BitVec 10) (n : Nat) : (s.phaser a n).asid = a ∧ (s.phaser a n).n = n := by
  unfold State.phaser
  cases h : s.phasers.find? fun p => p.asid == a && decide (p.n = n) with
  | none => exact ⟨rfl, rfl⟩
  | some p => simpa using List.find?_some h

/-- A phaser written is the one read back under its number. -/
theorem State.phaser_putPhaser (s : State) {p : Phaser} {a : BitVec 10} {n : Nat} (ha : p.asid = a) (hn : p.n = n) :
    (s.putPhaser p).phaser a n = p := by
  subst ha hn
  have hrest := find?_filter_not s.phasers fun q => q.asid == p.asid && decide (q.n = p.n)
  simp only [State.phaser, State.putPhaser, List.find?_append, hrest, Option.none_or]
  simp

/-- Where every party leads, the phase is complete. -/
theorem Phaser.settle_complete {p : Phaser} (hne : p.parties ≠ []) (h : ∀ e ∈ p.parties, e.2 = true) :
    p.settle = { p with phase := p.phase + 1, parties := p.parties.map fun e => (e.1, false) } := by
  have hall : p.parties.all (·.2) = true := List.all_eq_true.mpr h
  simp [Phaser.settle, hne, hall]

/-- The last party's arrival completes the phase. -/
theorem Phaser.settle_arrive {p : Phaser} {c : CellId} (hc : (c, false) ∈ p.parties) (h : ∀ e ∈ p.parties, e.1 ≠ c → e.2 = true) :
    Phaser.settle { p with parties := p.parties.map fun e => if e.1 = c then (e.1, true) else e } =
      { p with phase := p.phase + 1, parties := p.parties.map fun e => (e.1, false) } := by
  have hlead : ∀ e ∈ p.parties.map (fun e => if e.1 = c then (e.1, true) else e), e.2 = true := by
    intro e he
    obtain ⟨d, hd, rfl⟩ := List.mem_map.mp he
    split
    next => rfl
    next hne => exact h d hd hne
  have hfst : (fun e : CellId × Bool => ((if e.1 = c then (e.1, true) else e).1, false)) = fun e => (e.1, false) := by
    funext e
    split <;> rfl
  rw [Phaser.settle_complete (List.ne_nil_of_mem (List.mem_map_of_mem hc)) hlead, List.map_map]
  exact congrArg (fun f => ({ p with phase := p.phase + 1, parties := p.parties.map f } : Phaser)) hfst

section
variable {s : State} {c : CellId} {op : YOp} {n : Nat}

theorem exec_phaserPerform_register (ho : (s.cell c).ypOp op.uid = some op) (hr : s.ypReady c op = true)
    (hp : (s.phaser (s.gangOf c).asid n).poisoned = false) (hk : op.kind = .phreg n)
    (hc : ((s.phaser (s.gangOf c).asid n).parties.any fun e => e.1 == c) = false) :
    let p := s.phaser (s.gangOf c).asid n
    exec (.phaserPerform c op.uid) s = .next (((s.dropYp c op.uid).putPhaser { p with parties := p.parties ++ [(c, false)] }).yqReturn c op.uid
      (p.phase.zeroExtend 64) true false) := by
  intro p
  change execPhaserPerform c op.uid s = _
  simp only [execPhaserPerform, ho, hr, hk, Bool.not_true, Bool.false_eq_true, if_false]
  rw [if_neg (Bool.eq_false_iff.mp hp), if_neg (Bool.eq_false_iff.mp hc)]

theorem exec_phaserPerform_last (ho : (s.cell c).ypOp op.uid = some op) (hr : s.ypReady c op = true)
    (hp : (s.phaser (s.gangOf c).asid n).poisoned = false) (hk : op.kind = .pharv n)
    (hc : (c, false) ∈ (s.phaser (s.gangOf c).asid n).parties)
    (hlead : ∀ e ∈ (s.phaser (s.gangOf c).asid n).parties, e.1 ≠ c → e.2 = true) :
    let p := s.phaser (s.gangOf c).asid n
    ∃ f, exec (.phaserPerform c op.uid) s = .next (((s.dropYp c op.uid).putPhaser
      { p with phase := p.phase + 1, parties := p.parties.map fun e => (e.1, false) }).modGang (s.gidOf c) f) := by
  intro p
  have hany : (p.parties.any fun e => e.1 == c && !e.2) = true := List.any_eq_true.mpr ⟨(c, false), hc, by simp⟩
  change ∃ f, execPhaserPerform c op.uid s = _
  simp only [execPhaserPerform, ho, hr, hk, Bool.not_true, Bool.false_eq_true, if_false]
  rw [if_neg (Bool.eq_false_iff.mp hp), if_pos hany, Phaser.settle_arrive hc hlead]
  exact ⟨_, rfl⟩

end

/-! ## YQ and moved atomics (R57, R93) -/

/-- Of the returns of an operation queue, the first that has not arrived does, once its operation is performed. -/
theorem arriveFirst_append {pre post : List YEntry} {e : YEntry} (hpre : ∀ r ∈ pre, r.arrived = true) (ha : e.arrived = false)
    (hp : e.performed = true) : arriveFirst (pre ++ e :: post) = pre ++ { e with arrived := true } :: post := by
  induction pre with
  | nil => simp only [List.nil_append, arriveFirst, ha, hp, Bool.false_eq_true, if_false, if_true]
  | cons r pre ih =>
    obtain ⟨hr, hpre⟩ := List.forall_mem_cons.mp hpre
    rw [List.cons_append, arriveFirst, if_pos hr, ih hpre, List.cons_append]

theorem exec_yqReturnArrival_first {s : State} {c : CellId} {pre post : List YEntry} {e : YEntry}
    (hret : ∀ r ∈ (s.cell c).q.yRet, r.arrived = true) (hq : (s.cell c).q.yq = pre ++ e :: post) (hpre : ∀ r ∈ pre, r.arrived = true)
    (ha : e.arrived = false) (hp : e.performed = true) :
    exec (.yqReturnArrival c) s = .next (s.setCell c { s.cell c with
      q := { (s.cell c).q with yq := pre ++ { e with arrived := true } :: post } }) := by
  have hall : (s.cell c).q.yRet.all (·.arrived) = true := List.all_eq_true.mpr hret
  change execYqReturnArrival c s = _
  simp only [execYqReturnArrival, State.modCell_eq, hall, if_true, hq, arriveFirst_append hpre ha hp]

theorem exec_movedReissue_found {s : State} {c : CellId} {op : YOp} {o : AtOp} {v : SyncVar} {w32 sgn : Bool} {val x off : Word} {tag : Bool}
    {tid : BitVec 12} {p : Page} {a : Nat} (hm : (s.moved.find? fun m => m.1 == c && decide (m.2.uid = op.uid)) = some (c, op))
    (hk : op.kind = .atom o v w32 sgn val x tag tid off) (hv : s.freshVar c tid off.toNat (if w32 then 4 else 8) = .ok (p, a)) :
    let again : YOp := { op with kind := .atom o (.mem (p.addr a)) w32 sgn val x tag tid off, again := true }
    exec (.movedReissue c op.uid) s = .next { s.setCell c { s.cell c with
        ord := { (s.cell c).ord with yp := again :: (s.cell c).ord.yp } } with
      moved := s.moved.filter fun m => decide (m.2.uid ≠ op.uid) } := by
  intro again
  change execMovedReissue c op.uid s = _
  simp only [execMovedReissue, hm, hk, hv]
  rfl

/-! ## A line of the sync engine written back (R94) -/

theorem memPut_eq_memPutMasked (n : Nat) : ∀ (m : Memory) (a v : Nat), memPut m a v n = memPutMasked m a v (2 ^ n - 1) n := by
  induction n with
  | zero => exact fun _ _ _ => rfl
  | succ n ih =>
    intro m a v
    have hpow : 0 < 2 ^ n := Nat.two_pow_pos n
    have hbit : (2 ^ (n + 1) - 1) % 2 = 1 := by rw [Nat.pow_succ]; omega
    have hnext : (2 ^ (n + 1) - 1) / 2 = 2 ^ n - 1 := by rw [Nat.pow_succ]; omega
    rw [memPut, memPutMasked, ih, if_pos hbit, hnext]

/-- A store reads back its bytes. -/
theorem assocGet_memPut {m : Memory} (hm : Memory.wf m = true) {n i : Nat} (hi : i < n) (a v : Nat) :
    assocGet 0 (memPut m a v n) (a + i) = BitVec.ofNat 8 (v / 2 ^ (8 * i)) := by
  rw [memPut_eq_memPutMasked, assocGet_memPutMasked n _ _ _ _ i hm hi, Nat.testBit_two_pow_sub_one, if_pos (decide_eq_true hi)]

theorem State.queueDelta_deltas (s : State) (d : Delta) : ∃ l, s.queueDelta d = { s with deltas := l } := by
  unfold State.queueDelta
  dsimp only
  split
  · exact ⟨s.deltas, rfl⟩
  · exact ⟨_, rfl⟩

theorem State.cells_queueDelta (s : State) (d : Delta) : (s.queueDelta d).cells = s.cells := by
  obtain ⟨l, hl⟩ := s.queueDelta_deltas d
  rw [hl]

theorem State.cells_addDelta (s : State) (w : FWrite) (b : Nat) : (s.addDelta w b).cells = s.cells := s.cells_queueDelta _

theorem State.cells_blockWrite (s : State) (b : Nat) (v : Row) (m : BitVec 256) (tag : Bool) : (s.blockWrite b v m tag).cells = s.cells := by
  simp only [State.blockWrite]

theorem State.engineDelta_deltas (s : State) (b : Nat) : ∃ l, s.engineDelta b = { s with deltas := l, uid := s.uid + 1 } := by
  obtain ⟨l, h⟩ := State.queueDelta_deltas s.fresh { uid := s.uid, cmd := 0, cell := 0, asid := 0, blk := b, parity := 0, own := false }
  exact ⟨l, h⟩

theorem State.dropLine_dirty {s : State} {l : SyncLine} (h : s.lineAt l.line = some l) (hd : l.dirty = true) :
    (s.dropLine l.line).lines = s.lines.filter (fun m => decide (m.line ≠ l.line)) ∧
      (s.dropLine l.line).mem = memPut s.mem (64 * l.line) l.bits.toNat 64 := by
  simp only [State.dropLine, h, hd, if_true]
  generalize memPut s.mem _ _ _ = m
  split
  all_goals
    obtain ⟨ds, hds⟩ := State.engineDelta_deltas _ _
    rw [hds]
    exact ⟨rfl, rfl⟩

theorem exec_lineWriteback_dirty {s : State} {l : SyncLine} (h : s.lineAt l.line = some l) (hd : l.dirty = true) (hm : Memory.wf s.mem = true) :
    ∃ t, exec (.lineWriteback l.die l.line) s = .next t ∧ t.lines = s.lines.filter (fun m => decide (m.line ≠ l.line)) ∧
      (∀ i < 64, t.byte (64 * l.line + i) = l.bits.extractLsb' (8 * i) 8) ∧ ∀ a, a / 64 ≠ l.line → t.byte a = s.byte a := by
  obtain ⟨hlines, hmem⟩ := State.dropLine_dirty h hd
  refine ⟨s.dropLine l.line, ?_, hlines, fun i hi => ?_, fun a ha => ?_⟩
  · change execLineWriteback l.die l.line s = _
    simp only [execLineWriteback, h, if_true]
  · rw [State.byte, hmem, assocGet_memPut hm hi, ofNat_div_pow]
  · rw [State.byte, hmem, memPut_other 64 _ _ _ _ hm (by omega)]
    rfl

/-! ## The work of a Crema freeze (R68–R70, R279) -/

theorem State.workDue_stopped {s : State} {c : CellId} {p : CremaMove → Bool} {w : CremaWork} (hz : (s.gangOf c).frozen = true)
    (hdue : w.due ≤ (s.gangOf c).tick) (hw : (s.cell c).work p = some w) : s.workDue c p = some w := by
  simp [State.workDue, hw, hz, hdue]

theorem State.spillWhen_free {s : State} {c : CellId} {write : Bool} (h : s.spillHeld c write = none) (t : State) :
    s.spillWhen c write t = t := by
  simp only [State.spillWhen, h]

/-- A move that is done leaves the list of those in progress. -/
theorem Cell.length_dropWork {x : Cell} {p q : CremaMove → Bool} {w : CremaWork} (hw : x.work p = some w) (hq : q w.move = true) :
    (x.dropWork q).cr.moving.length + 1 = x.cr.moving.length :=
  List.length_eraseP_add_one (List.mem_of_find?_eq_some hw) hq

/-- A write to the spill area is a write to device memory: it leaves the cells (R69). -/
theorem cells_spillPut {c : CellId} {off : Nat} {v : Row} {tag : Bool} {s t : State} (h : s.spillPut c off v tag = .ok t) :
    t.cells = s.cells := by
  unfold State.spillPut at h
  cases ha : s.spillAt c true off 256 with
  | error x =>
    rw [ha] at h
    cases h
  | ok a =>
    rw [ha] at h
    obtain rfl := Except.ok.inj h
    simp only [State.fresh_cells, State.cells_addDelta, State.cells_blockWrite]

theorem cells_spillWrite {c : CellId} {e : Nat} {rows : SlotRows} {tags : SlotTags} (n : Nat) {s t : State}
    (h : State.spillWrite c e rows tags n s = .ok t) : t.cells = s.cells := by
  induction n generalizing t with
  | zero => exact congrArg State.cells (Except.ok.inj h).symm
  | succ n ih =>
    simp only [State.spillWrite] at h
    split at h
    next => cases h
    next u hu => exact (cells_spillPut h).trans (ih hu)

/-- A spilled slot that is written leaves the list of moves with its entry. -/
theorem cremaOut_ok {s t : State} {c : CellId} {e : Nat} {rows : SlotRows} {tags : SlotTags}
    (h : State.spillWrite c e rows tags 512 s = .ok t) : ∃ q : CremaMove → Bool, q (.spill e rows tags) = true ∧
      ∀ w, cremaOut c w e rows tags s = t.modCell c fun x => x.dropWork q := by
  unfold cremaOut
  rw [h]
  exact ⟨_, decide_eq_true rfl, fun _ => rfl⟩

theorem exec_cremaSpill_due {s : State} {c : CellId} {w : CremaWork} {e : Nat} {rows : SlotRows} {tags : SlotTags}
    (hdue : s.workDue c CremaMove.isSpill = some w) (hfree : s.spillHeld c true = none) (hm : w.move = .spill e rows tags) :
    exec (.cremaSpill c) s = .next (cremaOut c w e rows tags s) := by
  change execCremaSpill c s = _
  simp only [execCremaSpill, hdue, State.spillWhen_free hfree, hm]

theorem exec_cremaFill_due {s : State} {c : CellId} {w : CremaWork} {k : Key} (hdue : s.workDue c CremaMove.isFill = some w)
    (hfree : s.spillHeld c false = none) (hm : w.move = .fill k) :
    exec (.cremaFill c) s = .next (s.modCell c fun x => x.dropWork fun m => m = w.move) := by
  change execCremaFill c s = _
  simp only [execCremaFill, hdue, State.spillWhen_free hfree, hm]

theorem exec_parkedRegisterMove_due {s t : State} {c : CellId} {w : CremaWork} {p : Nat} {v : Row} {tags : BitVec 64}
    (hdue : s.workDue c CremaMove.isPark = some w) (hfree : s.spillHeld c true = none) (hm : w.move = .park p v tags)
    (hput : s.spillPut c (256 * p) v (tags != 0) = .ok t) :
    exec (.parkedRegisterMove c) s = .next (t.modCell c fun x => x.dropWork fun m => m = w.move) := by
  change execParkedRegisterMove c s = _
  simp only [execParkedRegisterMove, hdue, State.spillWhen_free hfree, hm, hput]

/-- Settles O42: each clause is its event's lemma, and the fields of the state that it leaves. -/
theorem homeEventsComplete : Obligations.HomeEventsComplete := by
  refine ⟨?atomic, ?phaser, ?yarrow, ?returns, ?moved, ?line, ?spill, ?fill, ?park⟩
  case atomic =>
    intro s c op o n sgn val x off tid ho hr hk h old
    refine ⟨_, exec_atomicPerform_counter ho hr hk h, State.counter_putCounter_self s _ n _,
      fun a k hne => State.counter_putCounter_ne s hne _ false, ?_, ?_, fun _ => rfl⟩
    all_goals
      simp only [State.dropYp, State.seReturn, State.yqReturn, State.modCell_eq, State.cell_setCell_self]
      rfl
  case phaser =>
    intro s c op n ho hr p hp
    obtain ⟨ha, hn⟩ := s.phaser_key (s.gangOf c).asid n
    refine ⟨fun hk hc => ⟨_, exec_phaserPerform_register ho hr hp hk hc, State.phaser_putPhaser _ ha hn, ?_⟩, fun hk hc hlead => ?_⟩
    · simp only [State.yqReturn, State.modCell_eq, State.cell_setCell_self]
      exact congrArg (·.ord.yp) (State.cell_setCell_self s c _)
    · obtain ⟨f, hexec⟩ := exec_phaserPerform_last ho hr hp hk hc hlead
      exact ⟨_, hexec, State.phaser_putPhaser _ ha hn, congrArg (·.ord.yp) (State.cell_setCell_self s c _)⟩
  case yarrow =>
    intro s u g tick n p0 parts d cs table act old hparts hk hclaim give
    change execYarrowRound g tick s = _
    simp only [execYarrowRound, hparts, hk, hclaim] <;> rfl
  case returns => exact fun s c pre post e hret hq hpre ha hp => exec_yqReturnArrival_first hret hq hpre ha hp
  case moved => exact fun s c op o v w32 sgn val x off tag tid p a hm hk hv => exec_movedReissue_found hm hk hv
  case line => exact fun s l h hd hc => exec_lineWriteback_dirty h hd (s.canonical_iff.mp hc).1
  case spill =>
    intro s t c w e rows tags hz hdue hfree hw hm hput
    obtain ⟨q, hq, hout⟩ := cremaOut_ok hput
    have hexec := (exec_cremaSpill_due (State.workDue_stopped hz hdue hw) hfree hm).trans (congrArg Host.Outcome.next (hout w))
    have hcell : t.cell c = s.cell c := congrArg (fun v : Vector Cell 128 => v[c]) (cells_spillWrite 512 hput)
    refine ⟨_, hexec, rfl, fun d hd => State.cell_setCell_ne t _ (Ne.symm hd), ?_⟩
    rw [State.modCell_eq, State.cell_setCell_self]
    exact Cell.length_dropWork (hcell ▸ hw) (hm ▸ hq)
  case fill =>
    intro s c w k hz hdue hfree hw hm
    refine ⟨_, exec_cremaFill_due (State.workDue_stopped hz hdue hw) hfree hm, s.oneCell_setCell c _, ?_⟩
    rw [State.modCell_eq, State.cell_setCell_self]
    exact Cell.length_dropWork hw (decide_eq_true rfl)
  case park =>
    intro s t c w p v tags hz hdue hfree hw hm hput
    exact ⟨_, exec_parkedRegisterMove_due (State.workDue_stopped hz hdue hw) hfree hm hput, rfl,
      fun d hd => State.cell_setCell_ne t _ (Ne.symm hd)⟩

end Sys2Proof.Machine
end
